-- ==== Sys2Proof/Word.lean ====
section
/-!
DEFINITION. The machine's words: 32-bit registers, 64-bit pairs and program counters, bytes, and the plainest
bit access on natural numbers (`bits(x, a, b)` of R14).
-/

namespace Sys2Proof

/-- A 32-bit register value (R64). -/
abbrev Word := BitVec 32

/-- A 64-bit value: a register pair, a device register, a program counter (R65, R193). -/
abbrev DWord := BitVec 64

/-- One byte of memory. -/
abbrev Byte := BitVec 8

/-- The `n` bits of `x` from bit `a` upward: R14's `bits(x, a, a + n - 1)`. -/
def slice (x a n : Nat) : Nat := x / 2 ^ a % 2 ^ n

/-- Bit `a` of `x`. -/
def bitAt (x a : Nat) : Bool := slice x a 1 == 1

/-- The `n`-bit pattern `x` read as two's complement (R7). -/
def signed (n x : Nat) : Int :=
  if x % 2 ^ n < 2 ^ (n - 1) then (x % 2 ^ n : Nat) else ((x % 2 ^ n : Nat) : Int) - (2 ^ n : Nat)

/-- An exact integer narrowed to its low `n` bits (R85). -/
def wrap (n : Nat) (x : Int) : Nat := (x % ((2 ^ n : Nat) : Int)).toNat

/-- `x` clamped to `lo … hi` (R85). -/
def clampInt (lo hi x : Int) : Int := if x < lo then lo else if hi < x then hi else x

/-- A Boolean as the number it is written as. -/
def bit (b : Bool) : Nat := if b then 1 else 0

end Sys2Proof
end

