-- ==== Sys2Proof/Config.lean ====
section
/-!
DEFINITION. What one part fixes and the spec leaves open: the free values (opaque, so nothing can be proved of a
particular value), the order in which the part takes its open steps, the error of the special functions within their
bounds, the secrets of the security controller, and what training and self-test find on this part.
-/

namespace Sys2Proof

/-- A free value: the bits of an undefined value (R12), by the state's counter and a position within one use. -/
opaque Config.freeWord : Nat → Nat → BitVec 64

/-- Which of several open moves comes next, by the state's counter (assumption 3). -/
opaque Config.pick : Nat → Nat

/-- How far a special function's internal value lies from the exact one, as a signed fraction of its bound in units of
2^-30: a fixed function of the function's number and its operand (R271). -/
opaque Config.specialError : Nat → BitVec 32 → BitVec 30

/-- The signature that the device key makes over a byte string (R502). -/
opaque Config.deviceSign : List Byte → List Byte

/-- The device's public key, 97 bytes (R501). -/
opaque Config.deviceKey : List Byte

/-- The device's serial number, 8 bytes (R502). -/
opaque Config.serial : List Byte

/-- The public key behind slot `n`'s digest, which a signed command names by its slot (R498, R501). -/
opaque Config.slotKey : Nat → List Byte

/-- The random source of NONCE (R498), by the state's counter. -/
opaque Config.nextNonce : Nat → BitVec 64

/-- Whether a kept copy of a script entry fails its parity check when it is used (R204), by the state's counter. -/
opaque Config.upset : Nat → Bool

/-- The failing units that the self-test of bring-up finds, by the state's counter (R480, R504). -/
opaque Config.selfTest : Nat → List (BitVec 64)

/-- What a failing vector lane gives in place of a result, for its shadow to judge (R108): by operation, lane and element; none where
the lane works, as every lane of a sound part does (R110). -/
opaque Config.unitResult : Nat → Nat → Nat → Option Nat

/-- What a failing dot-product tree gives in place of a chunk's sum (R109), as a sign and a fraction: by operation, row, column and
chunk. -/
opaque Config.treeResult : Nat → Nat → Nat → Nat → Option (Bool × Nat × Nat)

end Sys2Proof
end

