-- ==== Sys2Proof/Syntax.lean ====
section
/-!
DEFINITION. The syntax of the machine: what one issued word says (R194 to R200, R227, R242 to R362, R417) and, in the
same inductive, the part's own steps and what the outside does to it (spec/95_what_each_step_holds.md). Operands are
already turned from field codes into register names; immediates stay as the bits the word holds (R199).
-/

namespace Sys2Proof

/-- Operand types (R198), in the order of their codes. -/
inductive Ty
  | b32 | i32 | z32 | i64 | z64 | i8 | z8 | i16 | z16 | f32 | bf16 | f16
  | e4m3 | e5m2 | e3m2 | e2m3 | e2m1 | l6 | e8m0
  deriving DecidableEq, Repr, Inhabited

/-- Rounding modes (R90), in the order of their codes. -/
inductive Rnd
  | rn | rz | ru | rd | rs
  deriving DecidableEq, Repr, Inhabited

/-- Integer comparison conditions (R247, R344). -/
inductive Cond
  | eq | ne | lt | le | gt | ge
  deriving DecidableEq, Repr, Inhabited

/-- Floating-point comparison conditions (R269). -/
inductive FCond
  | eq | ne | lt | le | gt | ge | num | nan | equ | neu | ltu | leu | gtu | geu
  deriving DecidableEq, Repr, Inhabited

/-- How a comparison is combined with a predicate (R247, R269). -/
inductive Comb
  | none | and | or | xor
  deriving DecidableEq, Repr, Inhabited

/-- SHFL modes (R252). -/
inductive ShflMode
  | idx | up | down | xor
  deriving DecidableEq, Repr, Inhabited

/-- Operations of RED.W and SCAN.W (R252). -/
inductive RedOp
  | add | min | max | and | or | xor
  deriving DecidableEq, Repr, Inhabited

/-- Operations of ATOM, ATOMS and RED (R292). -/
inductive AtomOp
  | add | min | max | and | or | xor | exch | cas | inc | dec
  deriving DecidableEq, Repr, Inhabited

/-- Orders an atomic carries (R280). -/
inductive AOrd
  | none | acq | rel | ar
  deriving DecidableEq, Repr, Inhabited

/-- Bank modes that BMODE selects (R301). -/
inductive BankMode
  | sp | fifo | lent
  deriving DecidableEq, Repr, Inhabited

/-- A register operand (R196): `v n` for codes 0-639, `s n` for codes 640-1,023. -/
inductive Reg
  | v (n : Nat)
  | s (n : Nat)
  deriving DecidableEq, Repr, Inhabited

/-- A source operand: a register, an immediate as R199 places it, or an operand queue (R200). -/
inductive Src
  | reg (r : Reg)
  | i10 (b : BitVec 10)
  | i32 (b : BitVec 32)
  | i16 (b : BitVec 16)
  | q (n : BitVec 3)
  deriving DecidableEq, Repr, Inhabited

/-- A predicate with its negate bit (R224). -/
structure Pred where
  p : BitVec 3
  neg : Bool
  deriving DecidableEq, Repr, Inhabited

/-- The guard (R195): two predicates joined by AND, or by OR when `isOr`. -/
structure Guard where
  a : Pred
  b : Pred
  isOr : Bool
  deriving DecidableEq, Repr, Inhabited

/-- What every word carries (R194): stall distance, wait mask (bit n - 1 stands for fn), set flag, guard. -/
structure Hdr where
  stall : BitVec 3
  wait : BitVec 12
  setf : Nat
  guard : Guard
  deriving DecidableEq, Repr, Inhabited

/-- The guard of an unguarded instruction (R195). -/
def Guard.always : Guard := ⟨⟨7, false⟩, ⟨7, false⟩, false⟩

/-- A barrier word of an engine command: the even s register of its address pair, and the scope of the arrival (R318). -/
structure Bw where
  word : Nat
  scope : BitVec 5
  deriving DecidableEq, Repr, Inhabited

/-- A barrier-word operand of the synchronisation family (R303): a global word in an s pair, or a scratchpad word. -/
inductive WordRef
  | global (s : Nat)
  | scratch (s : Nat)
  deriving DecidableEq, Repr, Inhabited

/-- What a load or store says beside its address (R280): plain, private (.prv), or synchronising at a scope id. -/
inductive MemMode
  | plain
  | prv
  | sync (scope : BitVec 5)
  deriving DecidableEq, Repr, Inhabited

structure BraOps where
  prio : BitVec 8
  offset : BitVec 32
  deriving DecidableEq, Repr, Inhabited

structure BrxOps where
  prio : BitVec 8
  va : Nat
  deriving DecidableEq, Repr, Inhabited

structure LoopOps where
  count : Src
  skip : BitVec 20
  deriving DecidableEq, Repr, Inhabited

structure GsetOps where
  g : BitVec 4
  pa : Pred
  deriving DecidableEq, Repr, Inhabited

structure WspliceOps where
  vd : Nat
  pd : BitVec 3
  tag : BitVec 10
  deriving DecidableEq, Repr, Inhabited

/-- One-source integer, logic and move form (R242, R243, R245, R251). -/
structure Int1 where
  ty : Ty
  sat : Bool
  d : Reg
  a : Src
  deriving DecidableEq, Repr, Inhabited

/-- Two-source integer, logic, shift and cross-lane form (R242 to R246, R255, R256). -/
structure Int2 where
  ty : Ty
  sat : Bool
  d : Reg
  a : Src
  b : Src
  deriving DecidableEq, Repr, Inhabited

/-- Three-source integer form (R242, R246). -/
structure Int3 where
  ty : Ty
  sat : Bool
  d : Reg
  a : Src
  b : Src
  c : Src
  deriving DecidableEq, Repr, Inhabited

structure Lop3Ops where
  d : Reg
  a : Src
  b : Src
  c : Src
  lut : BitVec 8
  deriving DecidableEq, Repr, Inhabited

structure ShfOps where
  right : Bool
  d : Reg
  a : Src
  b : Src
  c : Src
  deriving DecidableEq, Repr, Inhabited

structure IsetpOps where
  cond : Cond
  comb : Comb
  ty : Ty
  pd : BitVec 3
  a : Src
  b : Src
  pc : Pred
  deriving DecidableEq, Repr, Inhabited

structure IselOps where
  ty : Ty
  d : Reg
  a : Src
  b : Src
  pc : Pred
  deriving DecidableEq, Repr, Inhabited

structure LeaOps where
  ty : Ty
  sh : BitVec 3
  d : Reg
  a : Reg
  b : Src
  deriving DecidableEq, Repr, Inhabited

structure PsetpOps where
  pd : BitVec 3
  pa : BitVec 3
  pb : BitVec 3
  pc : BitVec 3
  lut : BitVec 8
  deriving DecidableEq, Repr, Inhabited

structure PsetpGOps where
  pd : BitVec 3
  pe : BitVec 3
  g : BitVec 4
  deriving DecidableEq, Repr, Inhabited

structure MoviOps where
  ty : Ty
  d : Reg
  imm : Src
  deriving DecidableEq, Repr, Inhabited

/-- SMOV and SMOV.ST (R251): `d` and `a` are s registers; `idx` an s register or a 10-bit immediate. -/
structure SmovOps where
  ty : Ty
  d : Nat
  a : Nat
  idx : Src
  deriving DecidableEq, Repr, Inhabited

structure UbcastOps where
  ty : Ty
  d : Nat
  a : Src
  idx : Src
  deriving DecidableEq, Repr, Inhabited

structure SprOps where
  d : Reg
  idx : BitVec 10
  deriving DecidableEq, Repr, Inhabited

structure ShflOps where
  mode : ShflMode
  ty : Ty
  d : Reg
  a : Src
  b : Src
  deriving DecidableEq, Repr, Inhabited

/-- VOTE's mode with its destination (R257). -/
inductive VoteDst
  | all (pd : BitVec 3)
  | any (pd : BitVec 3)
  | uni (pd : BitVec 3)
  | ballot (d : Reg)
  deriving DecidableEq, Repr, Inhabited

structure VoteOps where
  dst : VoteDst
  pa : Pred
  deriving DecidableEq, Repr, Inhabited

structure RedWOps where
  op : RedOp
  ty : Ty
  sat : Bool
  rnd : Rnd
  d : Reg
  a : Src
  deriving DecidableEq, Repr, Inhabited

structure ScanWOps where
  op : RedOp
  ex : Bool
  ty : Ty
  sat : Bool
  rnd : Rnd
  d : Reg
  a : Src
  deriving DecidableEq, Repr, Inhabited

structure VslideOps where
  n : BitVec 8
  down : Bool
  d : Reg
  a : Src
  f : Src
  deriving DecidableEq, Repr, Inhabited

structure RngOps where
  ty : Ty
  d : Reg
  deriving DecidableEq, Repr, Inhabited

/-- Two-source floating-point form; `neg` and `abs` hold one bit per source (R261, R262). -/
structure F2Ops where
  ty : Ty
  rnd : Rnd
  sat : Bool
  neg : BitVec 2
  abs : BitVec 2
  d : Reg
  a : Src
  b : Src
  deriving DecidableEq, Repr, Inhabited

structure F3Ops where
  ty : Ty
  rnd : Rnd
  sat : Bool
  neg : BitVec 3
  abs : BitVec 3
  d : Reg
  a : Src
  b : Src
  c : Src
  deriving DecidableEq, Repr, Inhabited

structure FMinOps where
  neg : BitVec 2
  abs : BitVec 2
  d : Reg
  a : Src
  b : Src
  deriving DecidableEq, Repr, Inhabited

structure FsetpOps where
  cond : FCond
  comb : Comb
  pd : BitVec 3
  neg : BitVec 2
  abs : BitVec 2
  a : Src
  b : Src
  pc : Pred
  deriving DecidableEq, Repr, Inhabited

structure FclassOps where
  d : Reg
  a : Src
  deriving DecidableEq, Repr, Inhabited

structure FunOps where
  rnd : Rnd
  sat : Bool
  d : Reg
  a : Src
  deriving DecidableEq, Repr, Inhabited

structure CvtOps where
  dt : Ty
  st : Ty
  rnd : Rnd
  sat : Bool
  d : Reg
  a : Reg
  deriving DecidableEq, Repr, Inhabited

/-- PACK (R274): `b` is absent for the last element of a five-element type. -/
structure PackOps where
  ty : Ty
  z : Bool
  e : BitVec 3
  rnd : Rnd
  sat : Bool
  d : Reg
  a : Reg
  b : Option Reg
  deriving DecidableEq, Repr, Inhabited

structure UnpackOps where
  ty : Ty
  rnd : Rnd
  e : BitVec 3
  vd : Nat
  a : Reg
  deriving DecidableEq, Repr, Inhabited

structure QntOps where
  ty : Ty
  rnd : Rnd
  m : BitVec 3
  vd : Nat
  va : Nat
  vs : Nat
  deriving DecidableEq, Repr, Inhabited

structure DqntOps where
  ty : Ty
  rnd : Rnd
  sat : Bool
  vd : Nat
  a : Reg
  sc : Reg
  deriving DecidableEq, Repr, Inhabited

structure TagsetOps where
  d : Reg
  a : Reg
  t : BitVec 4
  deriving DecidableEq, Repr, Inhabited

/-- A destination and one register source. -/
structure DaOps where
  d : Reg
  a : Reg
  deriving DecidableEq, Repr, Inhabited

/-- LD, LDS and LDU (R284 to R288); `mode` and `hint` are `plain` and 0 outside LD. -/
structure LoadOps where
  ty : Ty
  vec : BitVec 2
  one : Bool
  mode : MemMode
  hint : BitVec 2
  d : Reg
  base : Src
  off : Src
  deriving DecidableEq, Repr, Inhabited

/-- ST and STS (R286, R287). -/
structure StoreOps where
  ty : Ty
  vec : BitVec 2
  one : Bool
  mode : MemMode
  hint : BitVec 2
  base : Src
  off : Src
  data : Src
  deriving DecidableEq, Repr, Inhabited

structure LdtOps where
  vec : BitVec 2
  hint : BitVec 2
  vd : Nat
  desc : Nat
  vc : Nat
  deriving DecidableEq, Repr, Inhabited

structure SttOps where
  vec : BitVec 2
  hint : BitVec 2
  desc : Nat
  vc : Nat
  vs : Nat
  deriving DecidableEq, Repr, Inhabited

/-- ATOM and ATOMS (R292); `c` is the fifth operand, of .cas alone. -/
structure AtomOps where
  op : AtomOp
  ty : Ty
  ord : AOrd
  scope : BitVec 5
  d : Reg
  base : Src
  off : Src
  b : Src
  c : Option Reg
  deriving DecidableEq, Repr, Inhabited

structure RedOps where
  op : AtomOp
  ty : Ty
  ord : AOrd
  scope : BitVec 5
  base : Src
  off : Src
  b : Src
  c : Option Reg
  deriving DecidableEq, Repr, Inhabited

/-- Block form of CPA and CPOUT (R295): scratchpad address in s register `sp`, global address in s pair `ga`. -/
structure CpaOps where
  hint : BitVec 2
  bw : Option Bw
  sp : Nat
  ga : Nat
  n : Src
  deriving DecidableEq, Repr, Inhabited

/-- Lane form of CPA and CPOUT (R295). -/
structure CpaLnOps where
  vec : BitVec 2
  hint : BitVec 2
  bw : Option Bw
  sp : Reg
  ga : Reg
  deriving DecidableEq, Repr, Inhabited

structure PrefOps where
  l1 : Bool
  ty : Ty
  one : Bool
  mode : MemMode
  hint : BitVec 2
  base : Reg
  off : Src
  deriving DecidableEq, Repr, Inhabited

structure MaintOps where
  sa : Nat
  n : Src
  deriving DecidableEq, Repr, Inhabited

structure BmodeOps where
  mode : BankMode
  b : BitVec 4
  deriving DecidableEq, Repr, Inhabited

structure PresOps where
  pd : BitVec 3
  base : Src
  off : Src
  deriving DecidableEq, Repr, Inhabited

structure BwinitOps where
  word : WordRef
  scope : BitVec 5
  n : Src
  deriving DecidableEq, Repr, Inhabited

structure BwarrOps where
  rel : Bool
  word : WordRef
  scope : BitVec 5
  d : Reg
  n : Src
  deriving DecidableEq, Repr, Inhabited

structure BwwaitOps where
  word : WordRef
  scope : BitVec 5
  pd : BitVec 3
  ph : Src
  deriving DecidableEq, Repr, Inhabited

structure SemsigOps where
  scope : BitVec 5
  sa : Nat
  n : Src
  deriving DecidableEq, Repr, Inhabited

structure SemwaitOps where
  scope : BitVec 5
  d : Reg
  sa : Nat
  n : Src
  deriving DecidableEq, Repr, Inhabited

structure ErrackOps where
  word : WordRef
  scope : BitVec 5
  d : Reg
  deriving DecidableEq, Repr, Inhabited

structure MdeclOps where
  c : BitVec 3
  sm : Nat
  deriving DecidableEq, Repr, Inhabited

/-- MMA (R321): FA and FB stay five-bit codes, since R323 judges them at staging with code 0x2195. -/
structure MmaOps where
  fa : BitVec 5
  fb : BitVec 5
  sp : Bool
  bw : Option Bw
  t : BitVec 4
  c : BitVec 3
  blk : Nat
  deriving DecidableEq, Repr, Inhabited

structure MloadOps where
  ty : Ty
  t : BitVec 4
  record : Nat
  deriving DecidableEq, Repr, Inhabited

structure MoutOps where
  ty : Ty
  rnd : Rnd
  sat : Bool
  record : Nat
  t : BitVec 4
  deriving DecidableEq, Repr, Inhabited

structure AwalkOps where
  bw : Option Bw
  w : BitVec 3
  desc : Nat
  walk : Nat
  deriving DecidableEq, Repr, Inhabited

structure PlallocOps where
  mask : Nat
  w : BitVec 4
  deriving DecidableEq, Repr, Inhabited

structure PlfillOps where
  bw : Option Bw
  addr : Nat
  cmd : Nat
  deriving DecidableEq, Repr, Inhabited

/-- PLOP and PLMUL (R337, R342, R343). -/
structure PlopOps where
  op : BitVec 8
  sat : Bool
  bw : Option Bw
  cmd : Nat
  deriving DecidableEq, Repr, Inhabited

structure PldotOps where
  sat : Bool
  bw : Option Bw
  z : Nat
  cmd : Nat
  deriving DecidableEq, Repr, Inhabited

structure PlcmpOps where
  cond : Cond
  imm : Bool
  bw : Option Bw
  cmd : Nat
  deriving DecidableEq, Repr, Inhabited

structure PlselOps where
  sat : Bool
  bw : Option Bw
  cmd : Nat
  deriving DecidableEq, Repr, Inhabited

structure PlredOps where
  op : BitVec 8
  bw : Option Bw
  addr : Nat
  cmd : Nat
  deriving DecidableEq, Repr, Inhabited

structure PlbmapOps where
  bw : Option Bw
  addr : Nat
  cmd : Nat
  deriving DecidableEq, Repr, Inhabited

structure NcallLOps where
  j : BitVec 2
  entry : BitVec 10
  na : BitVec 3
  nr2 : Bool
  vd : Nat
  va : Nat
  vx : Nat
  sr : Nat
  deriving DecidableEq, Repr, Inhabited

structure NcallBOps where
  blk : Nat
  bw : Bw
  deriving DecidableEq, Repr, Inhabited

structure NjoinOps where
  j : BitVec 2
  mask : Reg
  deriving DecidableEq, Repr, Inhabited

structure NretOps where
  a : Reg
  b : Option Reg
  deriving DecidableEq, Repr, Inhabited

structure XredOps where
  blk : Nat
  vi : Nat
  bw : Bw
  deriving DecidableEq, Repr, Inhabited

structure BkbcastOps where
  acc : Bool
  sa : Nat
  vs : Nat
  k : BitVec 3
  deriving DecidableEq, Repr, Inhabited

structure BkmacOps where
  sa : Nat
  sk : Nat
  bw : Bw
  deriving DecidableEq, Repr, Inhabited

structure BkreadOps where
  vd : Nat
  sa : Nat
  k : BitVec 3
  deriving DecidableEq, Repr, Inhabited

structure KvxlateOps where
  scope : BitVec 5
  vd : Nat
  root : Nat
  vq : Nat
  vx : Nat
  vt : Nat
  pd : BitVec 3
  deriving DecidableEq, Repr, Inhabited

structure KvmaskOps where
  d : Reg
  pd : BitVec 3
  vl : Reg
  vb : Reg
  logt : BitVec 4
  k : BitVec 9
  deriving DecidableEq, Repr, Inhabited

structure FcopyOps where
  blk : Nat
  bw : Bw
  deriving DecidableEq, Repr, Inhabited

structure FreduceOps where
  bf16 : Bool
  blk : Nat
  bw : Bw
  deriving DecidableEq, Repr, Inhabited

structure FsemOps where
  scope : BitVec 5
  sa : Nat
  n : Src
  deriving DecidableEq, Repr, Inhabited

structure SysrdOps where
  d : Nat
  sel : Nat
  reg : BitVec 16
  deriving DecidableEq, Repr, Inhabited

structure SyswrOps where
  sel : Nat
  reg : BitVec 16
  a : Nat
  deriving DecidableEq, Repr, Inhabited

/-- TRET and RESUME (R417): status register, and the pair that holds the handle. -/
structure TretOps where
  d : Nat
  a : Nat
  deriving DecidableEq, Repr, Inhabited

/-- TLBINV.va and SNAPMARK (R417): selector, address pair, byte count. -/
structure RangeOps where
  sel : Nat
  a : Nat
  n : Nat
  deriving DecidableEq, Repr, Inhabited

structure HaltOps where
  d : Nat
  sel : Nat
  deriving DecidableEq, Repr, Inhabited

/-- An address of memory as the host names it: through a function of the device (R482). -/
structure HostAddr where
  fn : Nat
  addr : BitVec 40
  deriving DecidableEq, Repr, Inhabited

/-- An offset in the register window of a function (R415, R482). -/
structure HostReg where
  fn : Nat
  offset : Nat
  deriving DecidableEq, Repr, Inhabited

/-- One issued word, or one step of the part or of the outside (the rows of spec/opcode_table.json, in its order). -/
inductive Instr
  | nop (h : Hdr)
  | bra (h : Hdr) (o : BraOps)
  | brx (h : Hdr) (o : BrxOps)
  | call (h : Hdr) (o : BraOps)
  | callx (h : Hdr) (o : BrxOps)
  | ret (h : Hdr)
  | exit (h : Hdr)
  | loop (h : Hdr) (o : LoopOps)
  | endl (h : Hdr) (o : BitVec 20)
  | endlBrk (h : Hdr)
  | wsync (h : Hdr) (o : Reg)
  | yield (h : Hdr)
  | wait (h : Hdr) (o : BitVec 10)
  | trigger (h : Hdr)
  | trap (h : Hdr) (o : BitVec 8)
  | bkpt (h : Hdr)
  | gset (h : Hdr) (o : GsetOps)
  | gclr (h : Hdr) (o : BitVec 4)
  | grow (h : Hdr)
  | wcut (h : Hdr)
  | wsplice (h : Hdr) (o : WspliceOps)
  | iadd (h : Hdr) (o : Int2)
  | isub (h : Hdr) (o : Int2)
  | imul (h : Hdr) (o : Int2)
  | imulh (h : Hdr) (o : Int2)
  | imad (h : Hdr) (o : Int3)
  | imadw (h : Hdr) (o : Int3)
  | imin (h : Hdr) (o : Int2)
  | imax (h : Hdr) (o : Int2)
  | iabs (h : Hdr) (o : Int1)
  | ineg (h : Hdr) (o : Int1)
  | idot4 (h : Hdr) (o : Int3)
  | and (h : Hdr) (o : Int2)
  | or (h : Hdr) (o : Int2)
  | xor (h : Hdr) (o : Int2)
  | not (h : Hdr) (o : Int1)
  | lop3 (h : Hdr) (o : Lop3Ops)
  | shl (h : Hdr) (o : Int2)
  | shr (h : Hdr) (o : Int2)
  | sha (h : Hdr) (o : Int2)
  | rot (h : Hdr) (o : Int2)
  | shf (h : Hdr) (o : ShfOps)
  | popc (h : Hdr) (o : Int1)
  | clz (h : Hdr) (o : Int1)
  | brev (h : Hdr) (o : Int1)
  | bfe (h : Hdr) (o : Int2)
  | bfi (h : Hdr) (o : Int3)
  | isetp (h : Hdr) (o : IsetpOps)
  | isel (h : Hdr) (o : IselOps)
  | lea (h : Hdr) (o : LeaOps)
  | psetp (h : Hdr) (o : PsetpOps)
  | psetpG (h : Hdr) (o : PsetpGOps)
  | mov (h : Hdr) (o : Int1)
  | movi (h : Hdr) (o : MoviOps)
  | smov (h : Hdr) (o : SmovOps)
  | smovSt (h : Hdr) (o : SmovOps)
  | ubcast (h : Hdr) (o : UbcastOps)
  | spr (h : Hdr) (o : SprOps)
  | shfl (h : Hdr) (o : ShflOps)
  | push (h : Hdr) (o : Int2)
  | permb (h : Hdr) (o : Int2)
  | vote (h : Hdr) (o : VoteOps)
  | matchLanes (h : Hdr) (o : Int1)
  | redW (h : Hdr) (o : RedWOps)
  | scanW (h : Hdr) (o : ScanWOps)
  | vslide (h : Hdr) (o : VslideOps)
  | rng (h : Hdr) (o : RngOps)
  | fadd (h : Hdr) (o : F2Ops)
  | fsub (h : Hdr) (o : F2Ops)
  | fmul (h : Hdr) (o : F2Ops)
  | ffma (h : Hdr) (o : F3Ops)
  | fmin (h : Hdr) (o : FMinOps)
  | fmax (h : Hdr) (o : FMinOps)
  | fsetp (h : Hdr) (o : FsetpOps)
  | fclass (h : Hdr) (o : FclassOps)
  | frcp (h : Hdr) (o : FunOps)
  | frsq (h : Hdr) (o : FunOps)
  | fsqrt (h : Hdr) (o : FunOps)
  | fex2 (h : Hdr) (o : FunOps)
  | flg2 (h : Hdr) (o : FunOps)
  | fsin (h : Hdr) (o : FunOps)
  | fcos (h : Hdr) (o : FunOps)
  | hadd2 (h : Hdr) (o : F2Ops)
  | hfma2 (h : Hdr) (o : F3Ops)
  | cvt (h : Hdr) (o : CvtOps)
  | pack (h : Hdr) (o : PackOps)
  | unpack (h : Hdr) (o : UnpackOps)
  | qnt (h : Hdr) (o : QntOps)
  | dqnt (h : Hdr) (o : DqntOps)
  | tagset (h : Hdr) (o : TagsetOps)
  | tagget (h : Hdr) (o : DaOps)
  | flags (h : Hdr) (o : Reg)
  | flagsSet (h : Hdr) (o : DaOps)
  | flagsClr (h : Hdr) (o : DaOps)
  | ld (h : Hdr) (o : LoadOps)
  | st (h : Hdr) (o : StoreOps)
  | lds (h : Hdr) (o : LoadOps)
  | sts (h : Hdr) (o : StoreOps)
  | ldu (h : Hdr) (o : LoadOps)
  | ldt (h : Hdr) (o : LdtOps)
  | stt (h : Hdr) (o : SttOps)
  | atom (h : Hdr) (o : AtomOps)
  | atoms (h : Hdr) (o : AtomOps)
  | red (h : Hdr) (o : RedOps)
  | cpa (h : Hdr) (o : CpaOps)
  | cpaLn (h : Hdr) (o : CpaLnOps)
  | cpout (h : Hdr) (o : CpaOps)
  | cpoutLn (h : Hdr) (o : CpaLnOps)
  | pref (h : Hdr) (o : PrefOps)
  | l2clean (h : Hdr) (o : MaintOps)
  | l2inv (h : Hdr) (o : MaintOps)
  | l2flush (h : Hdr) (o : MaintOps)
  | bmode (h : Hdr) (o : BmodeOps)
  | pres (h : Hdr) (o : PresOps)
  | release (h : Hdr) (o : BitVec 5)
  | acquire (h : Hdr) (o : BitVec 5)
  | fence (h : Hdr) (o : BitVec 5)
  | bar (h : Hdr) (o : BitVec 4)
  | barArr (h : Hdr) (o : BitVec 4)
  | bart (h : Hdr) (o : BitVec 2)
  | bartArr (h : Hdr) (o : BitVec 2)
  | bwinit (h : Hdr) (o : BwinitOps)
  | bwarr (h : Hdr) (o : BwarrOps)
  | bwwait (h : Hdr) (o : BwwaitOps)
  | tflag (h : Hdr) (o : BitVec 10)
  | semsig (h : Hdr) (o : SemsigOps)
  | semwait (h : Hdr) (o : SemwaitOps)
  | errack (h : Hdr) (o : ErrackOps)
  | mdecl (h : Hdr) (o : MdeclOps)
  | msign (h : Hdr) (o : BitVec 3)
  | mma (h : Hdr) (o : MmaOps)
  | mzero (h : Hdr) (o : BitVec 4)
  | mload (h : Hdr) (o : MloadOps)
  | mout (h : Hdr) (o : MoutOps)
  | mfence (h : Hdr)
  | mwait (h : Hdr) (o : BitVec 3)
  | awalk (h : Hdr) (o : AwalkOps)
  | astop (h : Hdr) (o : BitVec 3)
  | plalloc (h : Hdr) (o : PlallocOps)
  | plfree (h : Hdr)
  | plfill (h : Hdr) (o : PlfillOps)
  | pldrain (h : Hdr) (o : PlfillOps)
  | plop (h : Hdr) (o : PlopOps)
  | plmul (h : Hdr) (o : PlopOps)
  | pldot (h : Hdr) (o : PldotOps)
  | plcmp (h : Hdr) (o : PlcmpOps)
  | plsel (h : Hdr) (o : PlselOps)
  | plred (h : Hdr) (o : PlredOps)
  | plbmap (h : Hdr) (o : PlbmapOps)
  | ncallL (h : Hdr) (o : NcallLOps)
  | ncallB (h : Hdr) (o : NcallBOps)
  | njoin (h : Hdr) (o : NjoinOps)
  | nret (h : Hdr) (o : NretOps)
  | xred (h : Hdr) (o : XredOps)
  | xpref (h : Hdr) (o : XredOps)
  | bkopen (h : Hdr) (o : Nat)
  | bkclose (h : Hdr) (o : Nat)
  | bkbcast (h : Hdr) (o : BkbcastOps)
  | bkmac (h : Hdr) (o : BkmacOps)
  | bkread (h : Hdr) (o : BkreadOps)
  | kvxlate (h : Hdr) (o : KvxlateOps)
  | kvmask (h : Hdr) (o : KvmaskOps)
  | fcopyPut (h : Hdr) (o : FcopyOps)
  | fcopyGet (h : Hdr) (o : FcopyOps)
  | freduce (h : Hdr) (o : FreduceOps)
  | fsem (h : Hdr) (o : FsemOps)
  | sysrd (h : Hdr) (o : SysrdOps)
  | syswr (h : Hdr) (o : SyswrOps)
  | tret (h : Hdr) (o : TretOps)
  | resume (h : Hdr) (o : TretOps)
  | tlbinvAll (h : Hdr) (o : Nat)
  | tlbinvVa (h : Hdr) (o : RangeOps)
  | snapmark (h : Hdr) (o : RangeOps)
  | halt (h : Hdr) (o : HaltOps)
  | haltKill (h : Hdr) (o : HaltOps)
  | pair (a b : Instr)
  | wsyncRelease (g w : Nat)
  | growGrant (g : Nat)
  | cut (g w : Nat)
  | splice (g w : Nat)
  | cpaLineLand (op line : Nat)
  | scratchpadAccessResume (op : Nat)
  | teamMemberAccessResume (op : Nat)
  | barrierComplete (team : Bool) (g n : Nat)
  | bwwaitRetest (op : Nat)
  | semwaitRetry (op : Nat)
  | longLatencyComplete (op : Nat)
  | fixedLatencyComplete (op : Nat)
  | mmaIssue (g c : Nat)
  | mmaComplete (op : Nat)
  | mwaitRelease (op : Nat)
  | walkPoint (op : Nat)
  | planeCommandStart (op : Nat)
  | ncallLDeliver (op stack : Nat)
  | ncallReply (op : Nat)
  | ncallBDeliver (op : Nat)
  | ncallBComplete (g : Nat)
  | njoinRelease (op : Nat)
  | returnTrap (g w : Nat)
  | returnTrapPlace (g : Nat)
  | bankCommandStart (op : Nat)
  | bkmacWave (op : Nat)
  | fabricAck (op : Nat) (status : Nat) (data : List (BitVec 64 × Bool))
  | fsemSignal (op : Nat) (status : Nat)
  | engineArrival (op : Nat)
  | trapRecordWrite (c : Nat)
  | trapptrTailWrite (c : Nat) (tail : BitVec 17)
  | snapshotCopy (take granule : Nat)
  | warpRetire (g w : Nat)
  | groupRetire (g : Nat)
  | gridEnd (take : Nat)
  | triggerPoint (take : Nat)
  | groupAdmission (take : Nat)
  | eviction (take : Nat)
  | growDeadlockEviction (core : Nat)
  | evictionRecord (g : Nat)
  | groupRestore (g : Nat)
  | qtailWrite (n q : Nat) (tail : BitVec 17)
  | errClear (n q : Nat)
  | queueLaunch (n q : Nat)
  | queueSemwait (n q : Nat)
  | queueSemwaitRetry (n q : Nat)
  | queueSemsig (n q : Nat)
  | queueCopy (n q : Nat)
  | queueCopyComplete (n q : Nat)
  | queueBarrier (n q : Nat)
  | queueTimestamp (n q : Nat)
  | timeSliceExpiry (n q : Nat)
  | takeEnd (take : Nat)
  | retake (take : Nat)
  | contextCreate (id : BitVec 12) (dpart : BitVec 3) (priv dpriv : Bool)
  | contextEnd (id : BitVec 12)
  | bistGo (scope : BitVec 10) (dpmask : BitVec 8)
  | bistDone (failing : List (BitVec 64))
  | pprDone (spare : Bool)
  | dpcfgWrite (v : BitVec 64)
  | pstateWrite (p : BitVec 3) (v : BitVec 3)
  | pstateResume (p : BitVec 3)
  | clonWrite (v : BitVec 16)
  | clusterPowerOff (k : BitVec 4)
  | sconWrite (v : BitVec 64)
  | stackCorePowerOff (sc : BitVec 6)
  | banklimWrite (m : BitVec 3) (v : BitVec 64)
  | thermalTrip
  | tripClear
  | attest
  | enroll
  | revoke
  | update
  | devkey
  | securityBadOp (op : BitVec 4)
  | coldReset
  | warmReset
  | functionReset (p : BitVec 3)
  | pprRepair (v : BitVec 64)
  | hostLinkRetrain (width rate : Nat) (ide : Bool)
  | ualinkPortTrain (port lanes : Nat) (peer : BitVec 10)
  | hostMemAccess (write : Bool) (addr : HostAddr) (data : List (BitVec 8)) (poison : Bool)
  | hostSnoop (line : Nat)
  | ualinkRead (sender : BitVec 10) (ctx : BitVec 12) (va : BitVec 64)
  | ualinkWrite (sender : BitVec 10) (ctx : BitVec 12) (va : BitVec 64) (data : List (BitVec 8)) (poison : Bool)
  | ualinkReduceWrite (sender : BitVec 10) (ctx : BitVec 12) (va : BitVec 64) (bf16 : Bool) (data : List (BitVec 8))
  | ualinkAtomicAdd (sender : BitVec 10) (ctx : BitVec 12) (va : BitVec 64) (n : BitVec 32)
  | registerWrite (offset : HostReg) (v : BitVec 64)
  | eccScrub (sector : Nat)
  | packageSupplyLoss
  | strapChange (recovery owner : Bool)
  deriving DecidableEq, Repr

end Sys2Proof
end

