-- ==== Sys2Proof/WellFormed.lean ====
section
/-!
DEFINITION. Which instructions are well formed: every register in its class, every 64-bit operand on an even code
(R65), every type, rounding, element index and immediate one that the instruction accepts (R196 to R200 and the
descriptions of R227 to R417). A word whose operands fail these checks is no instruction: code 0x2103 (R210, row 8).
-/

namespace Sys2Proof

/-- A v or s number in its class (R196). -/
def Reg.ok : Reg → Bool
  | .v n => n < 640
  | .s n => n < 384

/-- The register number within its class. -/
def Reg.num : Reg → Nat
  | .v n => n
  | .s n => n

/-- An even code (R65). -/
def Reg.even (r : Reg) : Bool := r.num % 2 == 0

/-- The even register of a pair (R65). -/
def Reg.okPair (r : Reg) : Bool := r.ok && r.even

def vOk (n : Nat) : Bool := n < 640
def sOk (n : Nat) : Bool := n < 384
def sPair (n : Nat) : Bool := n < 384 && n % 2 == 0
def vPair (n : Nat) : Bool := n < 640 && n % 2 == 0

/-- The s register of a block of `k` registers that starts on a multiple of `k` (R321, R337, R348, R360). -/
def sBlock (k n : Nat) : Bool := n < 384 && n % k == 0

/-- The eight integer types (R85). -/
def Ty.isInt : Ty → Bool
  | .i32 | .z32 | .i64 | .z64 | .i8 | .z8 | .i16 | .z16 => true
  | _ => false

/-- The 64-bit types, whose operands are register pairs (R65). -/
def Ty.is64 : Ty → Bool
  | .i64 | .z64 => true
  | _ => false

/-- The signed integer types (R85). -/
def Ty.isSigned : Ty → Bool
  | .i32 | .i64 | .i8 | .i16 => true
  | _ => false

/-- Whether R199 gives the 10-bit immediate a meaning for the type. -/
def Ty.acceptsI10 : Ty → Bool
  | .b32 | .i32 | .z32 | .i64 | .z64 | .i16 | .z16 => true
  | _ => false

/-- Whether R199 gives the 16-bit immediate a meaning for the type. -/
def Ty.acceptsI16 : Ty → Bool
  | .b32 | .i32 | .z32 | .i64 | .z64 | .i16 | .z16 | .f32 | .bf16 | .f16 => true
  | _ => false

/-- A register source of one 32-bit register or of a pair. A queue gives one 32-bit word per lane (R79), so it stands
only where one register would (assumption 11). -/
def Src.okReg (pair : Bool) : Src → Bool
  | .reg r => if pair then r.okPair else r.ok
  | .q _ => !pair
  | _ => false

/-- A source 2 or 3 that may also be an immediate of R199, read as an operand of type `ty`. -/
def Src.okImm (pair : Bool) (ty : Ty) : Src → Bool
  | .reg r => if pair then r.okPair else r.ok
  | .q _ => !pair
  | .i10 _ => ty.acceptsI10
  | .i32 _ => true
  | .i16 _ => ty.acceptsI16

def Src.isI10 : Src → Bool | .i10 _ => true | _ => false
def Src.isI16 : Src → Bool | .i16 _ => true | _ => false
def Src.isI32 : Src → Bool | .i32 _ => true | _ => false

/-- Source 3 holds a register or a queue, or the high 16-bit immediate exactly when source 2 holds the low one; it is
the only place of a source 3 immediate (R199). -/
def okThird (pair : Bool) (ty : Ty) (b c : Src) : Bool :=
  c.okImm pair ty && !c.isI10 && !c.isI32 && (b.isI16 == c.isI16)

/-- An offset or count operand of R281: a register, the 10-bit or the 32-bit immediate; a queue where a register. -/
def Src.okOff : Src → Bool
  | .reg r => r.ok
  | .q _ => true
  | .i10 _ => true
  | .i32 _ => true
  | .i16 _ => false

/-- A uniform count or phase (R305): an s register or an immediate under OPSEL 1 or 2. -/
def Src.okUni : Src → Bool
  | .reg (.s n) => sOk n
  | .i10 _ => true
  | .i32 _ => true
  | _ => false

/-- The header (R194): set flags 13-15 are refused (R210, row 7). -/
def Hdr.ok (h : Hdr) : Bool := h.setf ≤ 12

/-- The header of WCUT, WSPLICE and GROW: the guard (p7) alone and no set flag (R50, R54, R241). -/
def Hdr.okFixed (h : Hdr) : Bool := h.setf == 0 && decide (h.guard = Guard.always)

def Bw.ok (b : Bw) : Bool := sPair b.word

def bwOk : Option Bw → Bool
  | none => true
  | some b => b.ok

def WordRef.ok : WordRef → Bool
  | .global n => sPair n
  | .scratch n => sOk n

/-- All eight integer types, no immediate restriction beyond R199; `sat` as the row of R242 allows. -/
def Int2.ok (o : Int2) (tys : List Ty) (satOk : Bool) : Bool :=
  tys.contains o.ty && (satOk || !o.sat) && (if o.ty.is64 then o.d.okPair else o.d.ok) &&
  o.a.okReg o.ty.is64 && o.b.okImm o.ty.is64 o.ty

/-- As `Int2.ok`, with source 2 a single 32-bit amount or index whatever the type (R244, R254, R255). -/
def Int2.okAmt (o : Int2) (tys : List Ty) : Bool :=
  tys.contains o.ty && !o.sat && (if o.ty.is64 then o.d.okPair else o.d.ok) &&
  o.a.okReg o.ty.is64 && o.b.okImm false o.ty

def Int1.ok (o : Int1) (tys : List Ty) (satOk : Bool) : Bool :=
  tys.contains o.ty && (satOk || !o.sat) && (if o.ty.is64 then o.d.okPair else o.d.ok) && o.a.okReg o.ty.is64

def Int3.ok (o : Int3) (tys : List Ty) (satOk : Bool) : Bool :=
  tys.contains o.ty && (satOk || !o.sat) && (if o.ty.is64 then o.d.okPair else o.d.ok) &&
  o.a.okReg o.ty.is64 && o.b.okImm o.ty.is64 o.ty && okThird o.ty.is64 o.ty o.b o.c

/-- IMADW: a and b of 32 bits, c and the result of 64 bits (R242). -/
def Int3.okWide (o : Int3) : Bool :=
  [Ty.i32, Ty.z32].contains o.ty && o.d.okPair && o.a.okReg false && o.b.okImm false o.ty && okThird true o.ty o.b o.c

def int8Tys : List Ty := [.i32, .z32, .i64, .z64, .i8, .z8, .i16, .z16]
def shiftTys : List Ty := [.b32, .i32, .z32, .i64, .z64]
def movTys : List Ty := [.b32, .i64, .z64]
def wideTys : List Ty := [.i32, .z32, .i64, .z64]

/-- The element types of PACK and UNPACK with their element counts (R274, R67). -/
def Ty.packCount : Ty → Nat
  | .bf16 | .f16 | .i16 | .z16 => 2
  | .e4m3 | .e5m2 | .i8 | .z8 => 4
  | .e3m2 | .e2m3 | .l6 => 5
  | .e2m1 => 8
  | _ => 0

def Ty.unpackCount : Ty → Nat
  | .e8m0 => 4
  | t => t.packCount

/-- The packed floating-point and logarithmic element types (R86, R87). -/
def Ty.isSmallFloat : Ty → Bool
  | .bf16 | .f16 | .e4m3 | .e5m2 | .e3m2 | .e2m3 | .e2m1 | .l6 => true
  | _ => false

/-- Whether element `e` of a `k`-element type stands alone: the last of five (R274). -/
def loneElement (k e : Nat) : Bool := k == 5 && e == 4

/-- Element counts of the block-quantised types (R276). -/
def Ty.qntCount : Ty → Nat
  | .e4m3 | .e5m2 => 4
  | .e3m2 | .e2m3 => 5
  | .e2m1 => 8
  | _ => 0

/-- `k` registers from `n` upward stay within v0-v639 (R276, R284). -/
def runOk (n k : Nat) : Bool := n + k ≤ 640

/-- A run of `k` registers of either class. -/
def Reg.runOk (r : Reg) (k : Nat) : Bool :=
  match r with
  | .v n => n + k ≤ 640
  | .s n => n + k ≤ 384

/-- The register count C of VEC (R280). -/
def vecCount (v : BitVec 2) : Nat := match v.toNat with | 0 => 1 | 1 => 2 | _ => 4

/-- Registers that an access of C registers of type `ty` names (R284). -/
def accessRegs (ty : Ty) (vec : BitVec 2) : Nat := if ty.is64 then 2 * vecCount vec else vecCount vec

/-- The rows of R284's table: which type, count and .one go together. -/
def accessOk (ty : Ty) (vec : BitVec 2) (one : Bool) : Bool :=
  vec != 3 &&
  match ty with
  | .b32 | .i32 | .z32 | .f32 => !one
  | .i64 | .z64 => !one && vec != 2
  | .i8 | .z8 | .i16 | .z16 => !one || vec == 0
  | .bf16 | .f16 | .e4m3 | .e5m2 | .e2m1 | .e8m0 => !one
  | .e3m2 | .e2m3 | .l6 => !one && vec == 2

/-- A run of data registers (R284): the first even for pairs; a queue stands for one register only. -/
def dataOk (ty : Ty) (vec : BitVec 2) : Src → Bool
  | .reg r => r.ok && (!ty.is64 || r.even) && r.runOk (accessRegs ty vec)
  | .q _ => accessRegs ty vec == 1
  | _ => false

def MemMode.isPrv : MemMode → Bool | .prv => true | _ => false

/-- A base: a pair for a global address, one register for a private, scratchpad or constant address (R281, R282). -/
def baseOk (global : Bool) (b : Src) : Bool := b.okReg global

/-- Types of each atomic operation (R292). -/
def AtomOp.accepts (op : AtomOp) (ty : Ty) : Bool :=
  match op with
  | .add => [Ty.i32, .z32, .i64, .z64, .f32, .bf16, .f16].contains ty
  | .min | .max => [Ty.i32, .z32, .i64, .z64, .f32].contains ty
  | .and | .or | .xor | .exch | .cas => [Ty.b32, .i64, .z64].contains ty
  | .inc | .dec => ty == .z32

def AtomOp.isCas : AtomOp → Bool | .cas => true | _ => false

/-- The fifth operand is there exactly for .cas (R292). -/
def casOk (op : AtomOp) (ty : Ty) : Option Reg → Bool
  | none => !op.isCas
  | some c => op.isCas && (if ty.is64 then c.okPair else c.ok)

def AtomOps.okAt (o : AtomOps) (global : Bool) : Bool :=
  o.op.accepts o.ty && (if o.ty.is64 then o.d.okPair else o.d.ok) && baseOk global o.base && o.off.okOff &&
  o.b.okReg o.ty.is64 && casOk o.op o.ty o.c

def RedOps.ok (o : RedOps) : Bool :=
  o.op.accepts o.ty && (o.ord == .none || o.ord == .rel) && baseOk true o.base && o.off.okOff &&
  o.b.okReg o.ty.is64 && casOk o.op o.ty o.c

/-- Types of a warp reduction (R252); .sat with .add on integer types alone, rounding modes with .f32 .add alone. -/
def redWOk (op : RedOp) (ty : Ty) (sat : Bool) (rnd : Rnd) : Bool :=
  (match op with
   | .add | .min | .max => [Ty.i32, .z32, .i64, .z64, .f32].contains ty
   | .and | .or | .xor => ty == .b32) &&
  (!sat || (op == .add && ty.isInt)) &&
  (rnd == .rn || (op == .add && ty == .f32 && rnd != .rs))

def isCvtTy : Ty → Bool
  | .f32 | .i32 | .z32 | .i64 | .z64 => true
  | _ => false

/-- The rows of R273's table. -/
def CvtOps.ok (o : CvtOps) : Bool :=
  isCvtTy o.dt && isCvtTy o.st && o.dt != o.st &&
  (if o.dt == .f32 || o.st == .f32 then !o.sat else o.rnd == .rn) &&
  (if o.dt.is64 then o.d.okPair else o.d.ok) && (if o.st.is64 then o.a.okPair else o.a.ok)

/-- PACK's limits (R274). -/
def PackOps.ok (o : PackOps) : Bool :=
  o.ty.packCount != 0 && o.e.toNat % 2 == 0 && o.e.toNat < o.ty.packCount && (o.ty.isSmallFloat || o.rnd == .rn) &&
  o.d.ok && o.a.ok &&
  (match o.b with
   | none => loneElement o.ty.packCount o.e.toNat
   | some b => b.ok && !loneElement o.ty.packCount o.e.toNat)

/-- UNPACK's limits (R275). -/
def UnpackOps.ok (o : UnpackOps) : Bool :=
  o.ty.unpackCount != 0 && o.e.toNat % 2 == 0 && o.e.toNat < o.ty.unpackCount && (o.ty == .l6 || o.rnd == .rn) &&
  vPair o.vd && o.a.ok

/-- An instruction that can be encoded and that the hardware accepts (R196 to R200, R210 rows 7 and 8). A step of the
part or an outside input is no word, and no condition is put on it. OPSEL 3 reserves SRC3 (R199), where ISEL, and ISETP and FSETP with a
comb, hold a predicate (R247, R248, R269): the spec does not say how the two meet, and such a word is refused with 0x2103 whatever SRC3
holds (DESIGN CHOICE; assumption 56). -/
def Instr.wf : Instr → Bool
  | .nop h | .ret h | .exit h | .yield h | .trigger h | .bkpt h | .mfence h | .plfree h => h.ok
  | .endl h _ | .wait h _ | .trap h _ | .gclr h _ | .release h _ | .acquire h _ | .fence h _ => h.ok
  | .bar h _ | .barArr h _ | .bart h _ | .bartArr h _ | .tflag h _ | .msign h _ | .mzero h _ => h.ok
  | .mwait h _ | .astop h _ | .endlBrk h | .gset h _ | .psetp h _ | .psetpG h _ => h.ok
  | .bra h _ | .call h _ => h.ok
  | .brx h o | .callx h o => h.ok && vPair o.va
  | .loop h o => h.ok && (match o.count with | .reg r => r.ok | .i32 _ => true | _ => false)
  | .wsync h r => h.ok && r.okPair
  | .grow h | .wcut h => h.okFixed
  | .wsplice h o => h.okFixed && vOk o.vd && o.pd != 7
  | .iadd h o | .isub h o | .imul h o => h.ok && o.ok int8Tys true
  | .imulh h o => h.ok && o.ok wideTys false
  | .imin h o | .imax h o => h.ok && o.ok int8Tys false
  | .imad h o => h.ok && o.ok int8Tys true
  | .imadw h o => h.ok && o.okWide
  | .iabs h o => h.ok && o.ok [.i32, .i64, .i8, .i16] true
  | .ineg h o => h.ok && o.ok int8Tys true
  | .idot4 h o => h.ok && o.ok [.i8, .z8] true
  | .and h o | .or h o | .xor h o | .permb h o => h.ok && o.ok [.b32] false
  | .not h o | .popc h o | .clz h o | .brev h o => h.ok && o.ok [.b32] false
  | .lop3 h o => h.ok && o.d.ok && o.a.okReg false && o.b.okImm false .b32 && okThird false .b32 o.b o.c
  | .shl h o | .shr h o | .sha h o | .rot h o => h.ok && o.okAmt shiftTys
  | .shf h o => h.ok && o.d.ok && o.a.okReg false && o.b.okImm false .b32 && okThird false .b32 o.b o.c
  | .bfe h o => h.ok && o.ok [.i32, .z32] false
  | .bfi h o => h.ok && o.ok [.b32] false
  | .isetp h o => h.ok && wideTys.contains o.ty && o.a.okReg o.ty.is64 && o.b.okImm o.ty.is64 o.ty &&
      (if o.comb == .none then decide (o.pc = ⟨0, false⟩) else !o.b.isI16)
  | .isel h o => h.ok && movTys.contains o.ty && (if o.ty.is64 then o.d.okPair else o.d.ok) &&
      o.a.okReg o.ty.is64 && o.b.okImm o.ty.is64 o.ty && !o.b.isI16
  | .lea h o => h.ok && [Ty.i32, .z32].contains o.ty && o.d.okPair && o.a.okPair && o.b.okImm false o.ty
  | .mov h o => h.ok && o.ok movTys false
  | .movi h o => h.ok && (if o.ty.is64 then o.d.okPair else o.d.ok) &&
      (match o.imm with | .reg _ | .q _ => false | i => i.okImm false o.ty)
  | .smov h o | .smovSt h o => h.ok && movTys.contains o.ty && sOk o.d && sOk o.a &&
      (!o.ty.is64 || (sPair o.d && sPair o.a)) && (match o.idx with | .reg (.s n) => sOk n | .i10 _ => true | _ => false)
  | .ubcast h o => h.ok && movTys.contains o.ty && (if o.ty.is64 then sPair o.d else sOk o.d) &&
      (match o.a with | .reg (.v n) => if o.ty.is64 then vPair n else vOk n | .q _ => !o.ty.is64 | _ => false) &&
      (match o.idx with | .reg (.s n) => sOk n | .i10 _ | .i32 _ | .i16 _ => true | _ => false)
  | .spr h o => h.ok && o.d.ok && o.idx.toNat < 25
  | .shfl h o => h.ok && movTys.contains o.ty && (if o.ty.is64 then o.d.okPair else o.d.ok) &&
      o.a.okReg o.ty.is64 && o.b.okImm false o.ty
  | .push h o => h.ok && o.okAmt movTys
  | .vote h o => h.ok && (match o.dst with | .ballot d => d.okPair | _ => true)
  | .matchLanes h o => h.ok && movTys.contains o.ty && !o.sat && o.d.okPair && o.a.okReg o.ty.is64
  | .redW h o => h.ok && redWOk o.op o.ty o.sat o.rnd && (if o.ty.is64 then o.d.okPair else o.d.ok) &&
      o.a.okReg o.ty.is64
  | .scanW h o => h.ok && redWOk o.op o.ty o.sat o.rnd && (if o.ty.is64 then o.d.okPair else o.d.ok) &&
      o.a.okReg o.ty.is64
  | .vslide h o => h.ok && o.d.ok && o.a.okReg false && o.f.okImm false .b32
  | .rng h o => h.ok && [Ty.z32, .z64, .f32].contains o.ty && (if o.ty.is64 then o.d.okPair else o.d.ok)
  | .fadd h o | .fsub h o | .fmul h o => h.ok && o.ty == .f32 && o.d.ok && o.a.okReg false && o.b.okImm false .f32
  | .ffma h o => h.ok && o.ty == .f32 && o.d.ok && o.a.okReg false && o.b.okImm false .f32 &&
      okThird false .f32 o.b o.c
  | .hadd2 h o => h.ok && [Ty.bf16, .f16].contains o.ty && o.d.ok && o.a.okReg false && o.b.okImm false o.ty
  | .hfma2 h o => h.ok && [Ty.bf16, .f16].contains o.ty && o.d.ok && o.a.okReg false && o.b.okImm false o.ty &&
      okThird false o.ty o.b o.c
  | .fmin h o | .fmax h o => h.ok && o.d.ok && o.a.okReg false && o.b.okImm false .f32
  | .fsetp h o => h.ok && o.a.okReg false && o.b.okImm false .f32 &&
      (if o.comb == .none then decide (o.pc = ⟨0, false⟩) else !o.b.isI16)
  | .fclass h o => h.ok && o.d.ok && o.a.okReg false
  | .frcp h o | .frsq h o | .fsqrt h o | .fex2 h o | .flg2 h o | .fsin h o | .fcos h o =>
      h.ok && o.d.ok && o.a.okReg false
  | .cvt h o => h.ok && o.ok
  | .pack h o => h.ok && o.ok
  | .unpack h o => h.ok && o.ok
  | .qnt h o => h.ok && o.ty.qntCount != 0 && o.m != 7 && vOk o.vd && vOk o.vs && runOk o.va o.ty.qntCount
  | .dqnt h o => h.ok && o.ty.qntCount != 0 && runOk o.vd o.ty.qntCount && o.a.ok && o.sc.ok
  | .tagset h o => h.ok && o.d.ok && o.a.ok
  | .tagget h o | .flagsSet h o | .flagsClr h o => h.ok && o.d.ok && o.a.ok
  | .flags h d => h.ok && d.ok
  | .ld h o => h.ok && accessOk o.ty o.vec o.one && dataOk o.ty o.vec (.reg o.d) && baseOk (!o.mode.isPrv) o.base &&
      o.off.okOff
  | .st h o => h.ok && accessOk o.ty o.vec o.one && dataOk o.ty o.vec o.data && baseOk (!o.mode.isPrv) o.base &&
      o.off.okOff
  | .lds h o => h.ok && accessOk o.ty o.vec o.one && dataOk o.ty o.vec (.reg o.d) && baseOk false o.base &&
      o.off.okOff && o.mode == .plain && o.hint == 0
  | .sts h o => h.ok && accessOk o.ty o.vec o.one && dataOk o.ty o.vec o.data && baseOk false o.base && o.off.okOff &&
      o.mode == .plain && o.hint == 0
  | .ldu h o => h.ok && accessOk o.ty o.vec o.one && dataOk o.ty o.vec (.reg o.d) &&
      (match o.base with | .reg (.s n) => sOk n | _ => false) && o.off.okUni && o.mode == .plain && o.hint == 0
  | .ldt h o => h.ok && o.vec != 3 && runOk o.vd (vecCount o.vec) && sPair o.desc && vOk o.vc
  | .stt h o => h.ok && o.vec != 3 && runOk o.vs (vecCount o.vec) && sPair o.desc && vOk o.vc
  | .atom h o => h.ok && o.okAt true
  | .atoms h o => h.ok && o.okAt false
  | .red h o => h.ok && o.ok
  | .cpa h o | .cpout h o => h.ok && bwOk o.bw && sOk o.sp && sPair o.ga && o.n.okUni
  | .cpaLn h o | .cpoutLn h o => h.ok && o.vec != 3 && bwOk o.bw && o.sp.ok && o.ga.okPair
  | .pref h o => h.ok && (if o.mode.isPrv then o.base.ok else o.base.okPair) && o.off.okOff
  | .l2clean h o | .l2inv h o | .l2flush h o => h.ok && sPair o.sa && o.n.okUni
  | .bmode h o => h.ok && decide (o.b.toNat < 12)
  | .pres h o => h.ok && baseOk false o.base && o.off.okOff
  | .bwinit h o => h.ok && o.word.ok && o.n.okUni
  | .bwarr h o => h.ok && o.word.ok && o.d.ok && o.n.okUni
  | .bwwait h o => h.ok && o.word.ok && o.ph.okUni
  | .semsig h o => h.ok && sPair o.sa && o.n.okUni
  | .semwait h o => h.ok && o.d.ok && sPair o.sa && o.n.okUni
  | .errack h o => h.ok && o.word.ok && o.d.ok
  | .mdecl h o => h.ok && sBlock 4 o.sm
  | .mma h o => h.ok && bwOk o.bw && o.t.toNat % 2 == 0 && sBlock 16 o.blk
  | .mload h o => h.ok && [Ty.f32, .bf16, .f16].contains o.ty && sPair o.record
  | .mout h o => h.ok && [Ty.f32, .bf16, .f16].contains o.ty && o.rnd != .rs && sPair o.record
  | .awalk h o => h.ok && bwOk o.bw && sPair o.desc && sPair o.walk
  | .plalloc h o => h.ok && sPair o.mask
  | .plfill h o | .pldrain h o => h.ok && bwOk o.bw && sPair o.addr && sBlock 4 o.cmd
  | .plop h o => h.ok && bwOk o.bw && sPair o.cmd && o.op.toNat < 12
  | .plmul h o => h.ok && bwOk o.bw && sPair o.cmd && o.op.toNat < 2
  | .pldot h o => h.ok && bwOk o.bw && sOk o.z && sPair o.cmd
  | .plcmp h o => h.ok && bwOk o.bw && sPair o.cmd
  | .plsel h o => h.ok && bwOk o.bw && sPair o.cmd
  | .plred h o => h.ok && bwOk o.bw && sPair o.addr && sPair o.cmd && o.op.toNat < 4
  | .plbmap h o => h.ok && bwOk o.bw && sPair o.addr && sPair o.cmd
  | .ncallL h o => h.ok && o.na.toNat ≤ 4 && runOk o.vd (if o.nr2 then 2 else 1) && vPair o.va &&
      runOk o.vx (max 1 o.na.toNat) && sPair o.sr
  | .ncallB h o => h.ok && sBlock 16 o.blk && o.bw.ok
  | .njoin h o => h.ok && o.mask.okPair
  | .nret h o => h.ok && o.a.ok && (match o.b with | none => true | some b => b.ok)
  | .xred h o | .xpref h o => h.ok && sBlock 8 o.blk && vOk o.vi && o.bw.ok
  | .bkopen h sa | .bkclose h sa => h.ok && sPair sa
  | .bkbcast h o => h.ok && sPair o.sa && vOk o.vs
  | .bkmac h o => h.ok && sPair o.sa && sOk o.sk && o.bw.ok
  | .bkread h o => h.ok && vOk o.vd && sPair o.sa
  | .kvxlate h o => h.ok && vPair o.vd && sPair o.root && vOk o.vq && vOk o.vx && vOk o.vt
  | .kvmask h o => h.ok && o.d.ok && o.vl.ok && o.vb.ok
  | .fcopyPut h o | .fcopyGet h o => h.ok && sBlock 8 o.blk && o.bw.ok
  | .freduce h o => h.ok && sBlock 8 o.blk && o.bw.ok
  | .fsem h o => h.ok && sPair o.sa && o.n.okUni
  | .sysrd h o => h.ok && sPair o.d && sOk o.sel
  | .syswr h o => h.ok && sOk o.sel && sPair o.a
  | .tret h o | .resume h o => h.ok && sOk o.d && sPair o.a
  | .tlbinvAll h sel => h.ok && sOk sel
  | .tlbinvVa h o | .snapmark h o => h.ok && sOk o.sel && sPair o.a && sOk o.n
  | .halt h o | .haltKill h o => h.ok && sOk o.d && sOk o.sel
  | _ => true

end Sys2Proof
end

