-- ==== Sys2Proof/Decode.lean ====
section
/-!
DEFINITION. The decoder and the encoder of issued words (R194 to R211), total on any bits, and the reading of fetch
lines (R189 to R193). A word is first cut into its fields (`Raw`), then checked and read in the order of R210's table.
-/

namespace Sys2Proof

/-! ### Fields of a word -/

/-- Cuts a number into fields of the given widths, the first from bit 0 (R194, R200). -/
def unpack : List Nat → Nat → List Nat
  | [], _ => []
  | n :: ns, w => w % 2 ^ n :: unpack ns (w / 2 ^ n)

/-- Joins fields of the given widths, the first from bit 0: the inverse of `unpack`. -/
def pack : List Nat → List Nat → Nat
  | n :: ns, x :: xs => x % 2 ^ n + 2 ^ n * pack ns xs
  | _, _ => 0

/-- The widths of the fields of a standard word (R194): OPCODE, STALL, WAIT, SETF, GPA, GNA, GPB, GNB, GOP, DST, SRC1,
SRC2, SRC3, MOD. -/
def wordWidths : List Nat := [10, 3, 12, 4, 3, 1, 3, 1, 1, 10, 10, 10, 10, 18]

/-- The widths of the fields of a long form's second half (R200): OP5, IMM, QMASK, XMOD, reserved. -/
def halfWidths : List Nat := [10, 32, 3, 45, 6]

/-- The fields of a long form's second half (R200). -/
structure Half where
  op5 : Nat
  imm : Nat
  qmask : Nat
  xmod : Nat
  rsv : Nat
  deriving DecidableEq, Repr

/-- The fields of a word (R194), with its second half where it is a long form. -/
structure Raw where
  opcode : Nat
  stall : Nat
  wait : Nat
  setf : Nat
  gpa : Nat
  gna : Nat
  gpb : Nat
  gnb : Nat
  gop : Nat
  d : Nat
  s1 : Nat
  s2 : Nat
  s3 : Nat
  md : Nat
  half : Option Half
  deriving DecidableEq, Repr

def Half.ofNat (w : Nat) : Half :=
  match unpack halfWidths w with
  | [a, b, c, d, e] => ⟨a, b, c, d, e⟩
  | _ => ⟨0, 0, 0, 0, 0⟩

def Half.toNat (h : Half) : Nat := pack halfWidths [h.op5, h.imm, h.qmask, h.xmod, h.rsv]

def Raw.ofNat (w : Nat) (half : Option Nat) : Raw :=
  match unpack wordWidths w with
  | [a, b, c, d, e, f, g, h, i, j, k, l, m, n] => ⟨a, b, c, d, e, f, g, h, i, j, k, l, m, n, half.map Half.ofNat⟩
  | _ => ⟨0, 0, 0, 0, 0, 0, 0, 0, 0, 0, 0, 0, 0, 0, none⟩

def Raw.toNat (r : Raw) : Nat :=
  pack wordWidths [r.opcode, r.stall, r.wait, r.setf, r.gpa, r.gna, r.gpb, r.gnb, r.gop, r.d, r.s1, r.s2, r.s3, r.md]

def Raw.halfNat (r : Raw) : Option Nat := r.half.map Half.toNat

/-! ### Codes of the small alphabets -/

def Ty.code : Ty → Nat
  | .b32 => 0 | .i32 => 1 | .z32 => 2 | .i64 => 3 | .z64 => 4 | .i8 => 5 | .z8 => 6 | .i16 => 7 | .z16 => 8 | .f32 => 9
  | .bf16 => 10 | .f16 => 11 | .e4m3 => 12 | .e5m2 => 13 | .e3m2 => 14 | .e2m3 => 15 | .e2m1 => 16 | .l6 => 17
  | .e8m0 => 18

/-- R198's table of types; codes 19-31 name none. -/
def Ty.ofCode : Nat → Option Ty
  | 0 => some .b32 | 1 => some .i32 | 2 => some .z32 | 3 => some .i64 | 4 => some .z64 | 5 => some .i8 | 6 => some .z8
  | 7 => some .i16 | 8 => some .z16 | 9 => some .f32 | 10 => some .bf16 | 11 => some .f16 | 12 => some .e4m3
  | 13 => some .e5m2 | 14 => some .e3m2 | 15 => some .e2m3 | 16 => some .e2m1 | 17 => some .l6 | 18 => some .e8m0
  | _ => none

def Rnd.code : Rnd → Nat
  | .rn => 0 | .rz => 1 | .ru => 2 | .rd => 3 | .rs => 4

/-- R90's table of rounding modes. -/
def Rnd.ofCode : Nat → Option Rnd
  | 0 => some .rn | 1 => some .rz | 2 => some .ru | 3 => some .rd | 4 => some .rs | _ => none

def Cond.code : Cond → Nat
  | .eq => 0 | .ne => 1 | .lt => 2 | .le => 3 | .gt => 4 | .ge => 5

def Cond.ofCode : Nat → Option Cond
  | 0 => some .eq | 1 => some .ne | 2 => some .lt | 3 => some .le | 4 => some .gt | 5 => some .ge | _ => none

def FCond.code : FCond → Nat
  | .eq => 0 | .ne => 1 | .lt => 2 | .le => 3 | .gt => 4 | .ge => 5 | .num => 6 | .nan => 7
  | .equ => 8 | .neu => 9 | .ltu => 10 | .leu => 11 | .gtu => 12 | .geu => 13

/-- R269's table of conditions; codes 14 and 15 fault. -/
def FCond.ofCode : Nat → Option FCond
  | 0 => some .eq | 1 => some .ne | 2 => some .lt | 3 => some .le | 4 => some .gt | 5 => some .ge | 6 => some .num
  | 7 => some .nan | 8 => some .equ | 9 => some .neu | 10 => some .ltu | 11 => some .leu | 12 => some .gtu
  | 13 => some .geu | _ => none

def Comb.code : Comb → Nat
  | .none => 0 | .and => 1 | .or => 2 | .xor => 3

def Comb.ofCode : Nat → Comb
  | 0 => .none | 1 => .and | 2 => .or | _ => .xor

def ShflMode.code : ShflMode → Nat
  | .idx => 0 | .up => 1 | .down => 2 | .xor => 3

def ShflMode.ofCode : Nat → ShflMode
  | 0 => .idx | 1 => .up | 2 => .down | _ => .xor

def RedOp.code : RedOp → Nat
  | .add => 0 | .min => 1 | .max => 2 | .and => 3 | .or => 4 | .xor => 5

def RedOp.ofCode : Nat → Option RedOp
  | 0 => some .add | 1 => some .min | 2 => some .max | 3 => some .and | 4 => some .or | 5 => some .xor | _ => none

def AtomOp.code : AtomOp → Nat
  | .add => 0 | .min => 1 | .max => 2 | .and => 3 | .or => 4 | .xor => 5 | .exch => 6 | .cas => 7 | .inc => 8 | .dec => 9

/-- R292's table of operations; codes 10-15 fault. -/
def AtomOp.ofCode : Nat → Option AtomOp
  | 0 => some .add | 1 => some .min | 2 => some .max | 3 => some .and | 4 => some .or | 5 => some .xor | 6 => some .exch
  | 7 => some .cas | 8 => some .inc | 9 => some .dec | _ => none

def AOrd.code : AOrd → Nat
  | .none => 0 | .acq => 1 | .rel => 2 | .ar => 3

def AOrd.ofCode : Nat → AOrd
  | 0 => .none | 1 => .acq | 2 => .rel | _ => .ar

def BankMode.code : BankMode → Nat
  | .sp => 0 | .fifo => 1 | .lent => 2

def BankMode.ofCode : Nat → Option BankMode
  | 0 => some .sp | 1 => some .fifo | 2 => some .lent | _ => none

/-- Register codes (R196). -/
def Reg.code : Reg → Nat
  | .v n => n
  | .s n => 640 + n

/-- The register of a code, after the script bias: `8 b` is added where the code is a v code (R205). -/
def Reg.ofCode (b c : Nat) : Reg := if c < 640 then .v (c + 8 * b) else .s (c - 640)

/-! ### Why a word is no instruction -/

/-- The encoding faults of R210, in its order, and the parity failures of R192 and R204. -/
inductive DecodeError
  | slotKind      -- 0x2108: slot-kind rule broken (R191)
  | target        -- 0x2107: a target or a PC that R202 forbids
  | unassigned    -- 0x2100: unassigned opcode
  | system        -- 0x2109: system instruction in a kernel
  | scriptIndex   -- 0x2104: script index at or above the script's size
  | reserved      -- 0x2101: nonzero reserved field
  | setFlag       -- 0x2102: SETF of 13-15
  | operand       -- 0x2103: operand or modifier code not accepted
  | biased        -- 0x2105: biased v code above 639
  | pairRule      -- 0x2106: pair rule broken
  deriving DecidableEq, Repr

def DecodeError.code : DecodeError → Nat
  | .slotKind => 0x2108 | .target => 0x2107 | .unassigned => 0x2100 | .system => 0x2109 | .scriptIndex => 0x2104
  | .reserved => 0x2101 | .setFlag => 0x2102 | .operand => 0x2103 | .biased => 0x2105 | .pairRule => 0x2106

/-! ### Reading fields -/

/-- How many low bits of each field a word uses; the rest is reserved (R194). `z` lists the reserved parts of MOD as
position and width; `xm`, `imm` and `op5` are the used low bits of the second half's fields. -/
structure Use where
  d : Nat := 0
  s1 : Nat := 0
  s2 : Nat := 0
  s3 : Nat := 0
  z : List (Nat × Nat) := []
  op5 : Nat := 0
  xm : Nat := 0
  imm : Nat := 0

/-- Whether a reserved field is nonzero (R210, row 6). -/
def Raw.badReserved (r : Raw) (u : Use) : Bool :=
  !(decide (r.d < 2 ^ u.d) && decide (r.s1 < 2 ^ u.s1) && decide (r.s2 < 2 ^ u.s2) && decide (r.s3 < 2 ^ u.s3) &&
    u.z.all (fun p => slice r.md p.1 p.2 == 0) &&
    (match r.half with
     | none => true
     | some h => decide (h.op5 < 2 ^ u.op5) && decide (h.xmod < 2 ^ u.xm) && decide (h.imm < 2 ^ u.imm) && h.rsv == 0))

/-- Whether an instruction has a long form: never, optionally, always, or exactly when the word says so (R200). -/
inductive LongForm
  | no | may | must

def LongForm.accepts (l : LongForm) (half : Option Half) : Bool :=
  match l, half with
  | .no, some _ => false
  | .must, none => false
  | _, _ => true

/-- OPSEL (R197), where the instruction has it. -/
def Raw.opsel (r : Raw) : Nat := slice r.md 16 2

def Raw.qbit (r : Raw) (j : Nat) : Bool := match r.half with | none => false | some h => bitAt h.qmask j

def Raw.imm (r : Raw) : Nat := match r.half with | none => 0 | some h => h.imm

/-- A register field, a v code raised by the script bias (R205). -/
def Raw.regAt (b c : Nat) : Reg := Reg.ofCode b c

/-- A field that holds a v code: none for an s code (R196). -/
def vCode (b c : Nat) : Option Nat := if c < 640 then some (c + 8 * b) else none

/-- A field that holds an s code: none for a v code. -/
def sCode (c : Nat) : Option Nat := if 640 ≤ c then some (c - 640) else none

/-- A register field or, where its QMASK bit is set, a queue: bits 3-9 must then be zero (R200). -/
def Raw.srcAt (r : Raw) (b j c : Nat) : Option Src :=
  if r.qbit j then (if c < 8 then some (.q (BitVec.ofNat 3 c)) else none) else some (.reg (Reg.ofCode b c))

def Raw.src1 (r : Raw) (b : Nat) : Option Src := r.srcAt b 0 r.s1

/-- Source 2 under OPSEL (R199): codes 2 and 3 need the long form, and no QMASK bit names a replaced source. -/
def Raw.src2 (r : Raw) (b : Nat) : Option Src :=
  match r.opsel with
  | 0 => r.srcAt b 1 r.s2
  | 1 => if r.qbit 1 then none else some (.i10 (BitVec.ofNat 10 r.s2))
  | 2 => if r.qbit 1 || r.half.isNone then none else some (.i32 (BitVec.ofNat 32 r.imm))
  | _ => if r.qbit 1 || r.half.isNone then none else some (.i16 (BitVec.ofNat 16 r.imm))

/-- Source 3 under OPSEL (R199). -/
def Raw.src3 (r : Raw) (b : Nat) : Option Src :=
  if r.opsel = 3 then (if r.qbit 2 || r.half.isNone then none else some (.i16 (BitVec.ofNat 16 (r.imm / 2 ^ 16))))
  else r.srcAt b 2 r.s3

/-- No QMASK bit beyond the sources an instruction takes as queues (R200). -/
def Raw.qWithin (r : Raw) (js : List Nat) : Bool := [0, 1, 2].all fun j => js.contains j || !r.qbit j

/-- Bits of SRC2 that are used under OPSEL, and of SRC3 and IMM, for an instruction with `n` sources (R199). -/
def useSrc2 (r : Raw) : Nat := if r.opsel ≤ 1 then 10 else 0
def useSrc3 (r : Raw) : Nat := if r.opsel = 3 then 0 else 10
def useImm (r : Raw) (three : Bool) : Nat :=
  match r.opsel with | 2 => 32 | 3 => if three then 32 else 16 | _ => 0

def Raw.hdr (r : Raw) : Hdr :=
  ⟨BitVec.ofNat 3 r.stall, BitVec.ofNat 12 r.wait, r.setf,
   ⟨⟨BitVec.ofNat 3 r.gpa, r.gna == 1⟩, ⟨BitVec.ofNat 3 r.gpb, r.gnb == 1⟩, r.gop == 1⟩⟩

/-- A predicate field of three bits with its negate bit above (R224). -/
def predAt (c : Nat) : Pred := ⟨BitVec.ofNat 3 c, bitAt c 3⟩

/-- The function field FN of R223, from MOD. -/
def Raw.fn (r : Raw) : Nat := slice r.md 5 3 + 8 * slice r.md 9 7

def Raw.ty (r : Raw) : Option Ty := Ty.ofCode (slice r.md 0 5)
def Raw.rnd (r : Raw) : Option Rnd := Rnd.ofCode (slice r.md 5 3)
def Raw.sat (r : Raw) : Bool := bitAt r.md 8
def Raw.vec (r : Raw) : BitVec 2 := BitVec.ofNat 2 (slice r.md 5 2)
def Raw.hint (r : Raw) : BitVec 2 := BitVec.ofNat 2 (slice r.md 9 2)
def Raw.scope (r : Raw) : BitVec 5 := BitVec.ofNat 5 (slice r.md 11 5)

/-- The barrier word of an engine command: MOD bit `k` is BW (R295, R318). -/
def Raw.bw (r : Raw) (k : Nat) : Option (Option Bw) :=
  if bitAt r.md k then (sCode r.s3).map fun n => some ⟨n, r.scope⟩ else some none

/-- The reserved parts that go with an engine command's BW bit at MOD bit `k`. -/
def bwZ (r : Raw) (k : Nat) : List (Nat × Nat) := if bitAt r.md k then [] else [(11, 5)]
def bwS3 (r : Raw) (k : Nat) : Nat := if bitAt r.md k then 10 else 0

/-- A BW that must be 1 (R318). -/
def Raw.bwMust (r : Raw) (k : Nat) : Option Bw := (r.bw k).bind id

/-- ORD, SCOPE and PRV of a load or store (R280). -/
def Raw.memMode (r : Raw) : MemMode :=
  if bitAt r.md 8 then .sync r.scope else if bitAt r.md 11 then .prv else .plain

def memZ (r : Raw) : List (Nat × Nat) := if bitAt r.md 8 then [] else [(12, 4)]

/-- A word of the synchronisation family named by an s pair or an s register (R303). -/
def Raw.wordRef (r : Raw) : Option WordRef :=
  (sCode r.s1).map fun n => if bitAt r.md 7 then .scratch n else .global n

/-! ### One reading rule per encoding -/

/-- How one encoding is read: which bits it uses, whether it has a long form, and the operands themselves after a
script bias `b` (`none` where a code is not accepted). -/
structure Form where
  use : Raw → Use
  long : LongForm
  get : Raw → Nat → Option Instr

def formPlain (i : Hdr → Instr) : Form := ⟨fun _ => { z := [(0, 18)] }, .no, fun r _ => some (i r.hdr)⟩

/-- BRA and CALL (R201). -/
def formBra (i : Hdr → BraOps → Instr) : Form :=
  ⟨fun _ => { d := 10, s1 := 10, s2 := 10, s3 := 10, z := [(0, 18)] }, .no,
   fun r _ => some (i r.hdr ⟨BitVec.ofNat 8 r.d,
     BitVec.ofNat 32 (r.d / 2 ^ 8 + 4 * r.s1 + 2 ^ 12 * r.s2 + 2 ^ 22 * r.s3)⟩)⟩

def formBrx (i : Hdr → BrxOps → Instr) : Form :=
  ⟨fun _ => { d := 8, s1 := 10, z := [(0, 18)] }, .no,
   fun r b => (vCode b r.s1).map fun n => i r.hdr ⟨BitVec.ofNat 8 r.d, n⟩⟩

def formLoop : Form :=
  ⟨fun r => { s1 := if bitAt r.md 0 then 0 else 10, s2 := 10, s3 := 10, z := [(1, 17)],
              imm := if bitAt r.md 0 then 32 else 0 }, .may,
   fun r b =>
     if r.qWithin [] && (bitAt r.md 0 == r.half.isSome) then
       some (.loop r.hdr ⟨if bitAt r.md 0 then .i32 (BitVec.ofNat 32 r.imm) else .reg (Reg.ofCode b r.s1),
         BitVec.ofNat 20 (r.s2 + 2 ^ 10 * r.s3)⟩)
     else none⟩

def formEndl : Form :=
  ⟨fun _ => { s2 := 10, s3 := 10, z := [(1, 17)] }, .no,
   fun r _ => some (.endl r.hdr (BitVec.ofNat 20 (r.s2 + 2 ^ 10 * r.s3)))⟩

def formEndlBrk : Form := ⟨fun _ => { z := [(1, 17)] }, .no, fun r _ => some (.endlBrk r.hdr)⟩

def formWsync : Form :=
  ⟨fun _ => { s1 := 10, z := [(0, 18)] }, .no, fun r b => some (.wsync r.hdr (Reg.ofCode b r.s1))⟩

/-- A literal of `n` bits in SRC1 (R227, R304, R321). -/
def formLit1 (n : Nat) (z : List (Nat × Nat)) (i : Hdr → Nat → Instr) : Form :=
  ⟨fun _ => { s1 := n, z := z }, .no, fun r _ => some (i r.hdr r.s1)⟩

/-- A literal of `n` bits in DST (R227, R321, R333). -/
def formLitD (n : Nat) (i : Hdr → Nat → Instr) : Form :=
  ⟨fun _ => { d := n, z := [(0, 18)] }, .no, fun r _ => some (i r.hdr r.d)⟩

def formTrap : Form :=
  ⟨fun _ => { z := [(8, 10)] }, .no, fun r _ => some (.trap r.hdr (BitVec.ofNat 8 r.md))⟩

def formGset : Form :=
  ⟨fun _ => { d := 4, s1 := 4, z := [(0, 18)] }, .no,
   fun r _ => some (.gset r.hdr ⟨BitVec.ofNat 4 r.d, predAt r.s1⟩)⟩

def formWsplice : Form :=
  ⟨fun _ => { d := 10, s1 := 10, z := [(3, 15)] }, .no,
   fun r b => (vCode b r.d).map fun n => .wsplice r.hdr ⟨n, BitVec.ofNat 3 r.md, BitVec.ofNat 10 r.s1⟩⟩

/-- Reserved function bits above the low `n` of FN (R223). -/
def fnZ (n : Nat) : List (Nat × Nat) :=
  if n ≤ 3 then [(5 + n, 3 - n), (9, 7)] else [(9 + (n - 3), 10 - n)]

def formInt1 (i : Hdr → Int1 → Instr) : Form :=
  ⟨fun _ => { d := 10, s1 := 10, z := fnZ 0 ++ [(16, 2)] }, .may,
   fun r b => if r.qWithin [0] then
     do let t ← r.ty; let a ← r.src1 b; some (i r.hdr ⟨t, r.sat, Reg.ofCode b r.d, a⟩) else none⟩

def formInt2 (i : Hdr → Int2 → Instr) : Form :=
  ⟨fun r => { d := 10, s1 := 10, s2 := useSrc2 r, z := fnZ 0, imm := useImm r false }, .may,
   fun r b => if r.qWithin [0, 1] then
     do let t ← r.ty; let a ← r.src1 b; let c ← r.src2 b; some (i r.hdr ⟨t, r.sat, Reg.ofCode b r.d, a, c⟩)
     else none⟩

def formInt3 (i : Hdr → Int3 → Instr) : Form :=
  ⟨fun r => { d := 10, s1 := 10, s2 := useSrc2 r, s3 := useSrc3 r, z := fnZ 0, imm := useImm r true }, .may,
   fun r b => do
     let t ← r.ty; let x ← r.src1 b; let y ← r.src2 b; let w ← r.src3 b
     some (i r.hdr ⟨t, r.sat, Reg.ofCode b r.d, x, y, w⟩)⟩

/-- Instructions that take TYPE .b32 alone and no saturation (R243, R244). -/
def Raw.isB32 (r : Raw) : Bool := slice r.md 0 5 == 0 && !r.sat

def formLop3 : Form :=
  ⟨fun r => { d := 10, s1 := 10, s2 := useSrc2 r, s3 := useSrc3 r, z := fnZ 8, imm := useImm r true }, .may,
   fun r b => if r.isB32 then do
     let x ← r.src1 b; let y ← r.src2 b; let w ← r.src3 b
     some (.lop3 r.hdr ⟨Reg.ofCode b r.d, x, y, w, BitVec.ofNat 8 r.fn⟩) else none⟩

def formShf : Form :=
  ⟨fun r => { d := 10, s1 := 10, s2 := useSrc2 r, s3 := useSrc3 r, z := fnZ 1, imm := useImm r true }, .may,
   fun r b => if r.isB32 then do
     let x ← r.src1 b; let y ← r.src2 b; let w ← r.src3 b
     some (.shf r.hdr ⟨bitAt r.fn 0, Reg.ofCode b r.d, x, y, w⟩) else none⟩

def formIsetp : Form :=
  ⟨fun r => { d := 3, s1 := 10, s2 := useSrc2 r, s3 := if slice r.fn 3 2 = 0 then 0 else 4, z := fnZ 5,
              imm := useImm r false }, .may,
   fun r b => if r.qWithin [0, 1] && !r.sat then do
     let t ← r.ty; let c ← Cond.ofCode (slice r.fn 0 3); let x ← r.src1 b; let y ← r.src2 b
     some (.isetp r.hdr ⟨c, Comb.ofCode (slice r.fn 3 2), t, BitVec.ofNat 3 r.d, x, y, predAt r.s3⟩) else none⟩

def formIsel : Form :=
  ⟨fun r => { d := 10, s1 := 10, s2 := useSrc2 r, s3 := 4, z := fnZ 0, imm := useImm r false }, .may,
   fun r b => if r.qWithin [0, 1] && !r.sat then do
     let t ← r.ty; let x ← r.src1 b; let y ← r.src2 b
     some (.isel r.hdr ⟨t, Reg.ofCode b r.d, x, y, predAt r.s3⟩) else none⟩

def formLea : Form :=
  ⟨fun r => { d := 10, s1 := 10, s2 := useSrc2 r, z := fnZ 3, imm := useImm r false }, .may,
   fun r b => if r.qWithin [1] && !r.sat then do
     let t ← r.ty; let y ← r.src2 b
     some (.lea r.hdr ⟨t, BitVec.ofNat 3 r.fn, Reg.ofCode b r.d, Reg.ofCode b r.s1, y⟩) else none⟩

def formPsetp : Form :=
  ⟨fun _ => { d := 3, s1 := 3, s2 := 3, s3 := 3, z := [(0, 5), (16, 2)] }, .no,
   fun r _ => if r.sat then none else
     some (.psetp r.hdr ⟨BitVec.ofNat 3 r.d, BitVec.ofNat 3 r.s1, BitVec.ofNat 3 r.s2, BitVec.ofNat 3 r.s3,
       BitVec.ofNat 8 r.fn⟩)⟩

def formPsetpG : Form :=
  ⟨fun _ => { d := 6, s1 := 4, z := [(0, 5), (5, 3), (9, 5), (16, 2)] }, .no,
   fun r _ => if r.sat then none else
     some (.psetpG r.hdr ⟨BitVec.ofNat 3 r.d, BitVec.ofNat 3 (r.d / 8), BitVec.ofNat 4 r.s1⟩)⟩

/-- PSETP of modes 2 and 3, which is no instruction (R250). -/
def formNone (u : Raw → Use) : Form := ⟨u, .may, fun _ _ => none⟩

def formMovi : Form :=
  ⟨fun r => { d := 10, s2 := useSrc2 r, z := fnZ 0, imm := useImm r false }, .may,
   fun r b => if r.qWithin [] && !r.sat && r.opsel != 0 then do
     let t ← r.ty; let y ← r.src2 b; some (.movi r.hdr ⟨t, Reg.ofCode b r.d, y⟩) else none⟩

def formSmov (i : Hdr → SmovOps → Instr) : Form :=
  ⟨fun r => { d := 10, s1 := 10, s2 := useSrc2 r, z := fnZ 1, imm := useImm r false }, .may,
   fun r b => if r.qWithin [] && !r.sat then do
     let t ← r.ty; let d ← sCode r.d; let a ← sCode r.s1; let y ← r.src2 b
     some (i r.hdr ⟨t, d, a, y⟩) else none⟩

def formUbcast : Form :=
  ⟨fun r => { d := 10, s1 := 10, s2 := useSrc2 r, z := fnZ 0, imm := useImm r false }, .may,
   fun r b => if r.qWithin [0] && !r.sat then do
     let t ← r.ty; let d ← sCode r.d; let a ← r.src1 b; let y ← r.src2 b
     some (.ubcast r.hdr ⟨t, d, a, y⟩) else none⟩

def formSpr : Form :=
  ⟨fun _ => { d := 10, z := [(0, 5), (16, 2)] }, .no,
   fun r b => if r.sat then none else some (.spr r.hdr ⟨Reg.ofCode b r.d, BitVec.ofNat 10 r.fn⟩)⟩

def formShfl : Form :=
  ⟨fun r => { d := 10, s1 := 10, s2 := useSrc2 r, z := fnZ 2, imm := useImm r false }, .may,
   fun r b => if r.qWithin [0, 1] && !r.sat then do
     let t ← r.ty; let x ← r.src1 b; let y ← r.src2 b
     some (.shfl r.hdr ⟨ShflMode.ofCode r.fn, t, Reg.ofCode b r.d, x, y⟩) else none⟩

def formVote : Form :=
  ⟨fun r => { d := if r.fn % 4 = 3 then 10 else 3, s1 := 4, z := fnZ 2 ++ [(16, 2)] }, .no,
   fun r b => if r.isB32 then
     some (.vote r.hdr ⟨match r.fn % 4 with
       | 0 => .all (BitVec.ofNat 3 r.d)
       | 1 => .any (BitVec.ofNat 3 r.d)
       | 2 => .uni (BitVec.ofNat 3 r.d)
       | _ => .ballot (Reg.ofCode b r.d), predAt r.s1⟩) else none⟩

/-- The rounding of a warp reduction, in the long form's XMOD bits 45-47 (R252). -/
def Raw.xrnd (r : Raw) : Option Rnd := match r.half with | none => some .rn | some h => Rnd.ofCode h.xmod

def formRedW : Form :=
  ⟨fun _ => { d := 10, s1 := 10, z := fnZ 3 ++ [(16, 2)], xm := 3 }, .may,
   fun r b => if r.qWithin [0] then do
     let o ← RedOp.ofCode r.fn; let t ← r.ty; let m ← r.xrnd; let x ← r.src1 b
     some (.redW r.hdr ⟨o, t, r.sat, m, Reg.ofCode b r.d, x⟩) else none⟩

def formScanW : Form :=
  ⟨fun _ => { d := 10, s1 := 10, z := fnZ 4 ++ [(16, 2)], xm := 3 }, .may,
   fun r b => if r.qWithin [0] then do
     let o ← RedOp.ofCode (r.fn % 8); let t ← r.ty; let m ← r.xrnd; let x ← r.src1 b
     some (.scanW r.hdr ⟨o, bitAt r.fn 3, t, r.sat, m, Reg.ofCode b r.d, x⟩) else none⟩

def formVslide : Form :=
  ⟨fun r => { d := 10, s1 := 10, s2 := useSrc2 r, z := fnZ 9, imm := useImm r false }, .may,
   fun r b => if r.qWithin [0, 1] && r.isB32 then do
     let x ← r.src1 b; let y ← r.src2 b
     some (.vslide r.hdr ⟨BitVec.ofNat 8 r.fn, bitAt r.fn 8, Reg.ofCode b r.d, x, y⟩) else none⟩

def formRng : Form :=
  ⟨fun _ => { d := 10, z := fnZ 0 ++ [(16, 2)] }, .no,
   fun r b => if r.sat then none else do let t ← r.ty; some (.rng r.hdr ⟨t, Reg.ofCode b r.d⟩)⟩

/-- NEG and ABS of a two-source instruction: the bits of source 3 are reserved (R261, R262). -/
def f2Z : List (Nat × Nat) := [(11, 1), (14, 1), (15, 1)]

def formF2 (i : Hdr → F2Ops → Instr) : Form :=
  ⟨fun r => { d := 10, s1 := 10, s2 := useSrc2 r, z := f2Z, imm := useImm r false }, .may,
   fun r b => if r.qWithin [0, 1] then do
     let t ← r.ty; let m ← r.rnd; let x ← r.src1 b; let y ← r.src2 b
     some (i r.hdr ⟨t, m, r.sat, BitVec.ofNat 2 (slice r.md 9 2), BitVec.ofNat 2 (slice r.md 12 2),
       Reg.ofCode b r.d, x, y⟩) else none⟩

def formF3 (i : Hdr → F3Ops → Instr) : Form :=
  ⟨fun r => { d := 10, s1 := 10, s2 := useSrc2 r, s3 := useSrc3 r, z := [(15, 1)], imm := useImm r true }, .may,
   fun r b => do
     let t ← r.ty; let m ← r.rnd; let x ← r.src1 b; let y ← r.src2 b; let w ← r.src3 b
     some (i r.hdr ⟨t, m, r.sat, BitVec.ofNat 3 (slice r.md 9 3), BitVec.ofNat 3 (slice r.md 12 3),
       Reg.ofCode b r.d, x, y, w⟩)⟩

def Raw.isF32 (r : Raw) : Bool := slice r.md 0 5 == 9

def formFMin (i : Hdr → FMinOps → Instr) : Form :=
  ⟨fun r => { d := 10, s1 := 10, s2 := useSrc2 r, z := f2Z, imm := useImm r false }, .may,
   fun r b => if r.qWithin [0, 1] && r.isF32 && slice r.md 5 4 == 0 then do
     let x ← r.src1 b; let y ← r.src2 b
     some (i r.hdr ⟨BitVec.ofNat 2 (slice r.md 9 2), BitVec.ofNat 2 (slice r.md 12 2), Reg.ofCode b r.d, x, y⟩)
     else none⟩

def formFsetp : Form :=
  ⟨fun r => { d := 5, s1 := 10, s2 := useSrc2 r, s3 := if r.d / 8 = 0 then 0 else 4, z := f2Z,
              imm := useImm r false }, .may,
   fun r b => if r.qWithin [0, 1] && r.isF32 then do
     let c ← FCond.ofCode (slice r.md 5 4); let x ← r.src1 b; let y ← r.src2 b
     some (.fsetp r.hdr ⟨c, Comb.ofCode (r.d / 8), BitVec.ofNat 3 r.d, BitVec.ofNat 2 (slice r.md 9 2),
       BitVec.ofNat 2 (slice r.md 12 2), x, y, predAt r.s3⟩) else none⟩

def formFclass : Form :=
  ⟨fun _ => { d := 10, s1 := 10, z := [(5, 3), (8, 1), (9, 7), (16, 2)] }, .may,
   fun r b => if r.qWithin [0] && r.isF32 then do
     let x ← r.src1 b; some (.fclass r.hdr ⟨Reg.ofCode b r.d, x⟩) else none⟩

def formFun (i : Hdr → FunOps → Instr) : Form :=
  ⟨fun _ => { d := 10, s1 := 10, z := [(9, 7), (16, 2)] }, .may,
   fun r b => if r.qWithin [0] && r.isF32 then do
     let m ← r.rnd; let x ← r.src1 b; some (i r.hdr ⟨m, r.sat, Reg.ofCode b r.d, x⟩) else none⟩

def formCvt : Form :=
  ⟨fun _ => { d := 10, s1 := 10, z := [(14, 4)] }, .no,
   fun r b => do
     let t ← r.ty; let s ← Ty.ofCode (slice r.md 9 5); let m ← r.rnd
     some (.cvt r.hdr ⟨t, s, m, r.sat, Reg.ofCode b r.d, Reg.ofCode b r.s1⟩)⟩

/-- Whether a PACK word writes the last of five elements alone, where SRC2 is reserved (R274). -/
def Raw.packLone (r : Raw) : Bool :=
  match r.ty with | some t => loneElement t.packCount (slice r.md 14 3) | none => false

def formPack : Form :=
  ⟨fun r => { d := 10, s1 := 10, s2 := if r.packLone then 0 else 10, z := [(9, 5)] }, .no,
   fun r b => do
     let t ← r.ty; let m ← r.rnd
     some (.pack r.hdr ⟨t, bitAt r.md 17, BitVec.ofNat 3 (slice r.md 14 3), m, r.sat, Reg.ofCode b r.d,
       Reg.ofCode b r.s1, if r.packLone then none else some (Reg.ofCode b r.s2)⟩)⟩

def formUnpack : Form :=
  ⟨fun _ => { d := 10, s1 := 10, z := [(8, 1), (9, 5), (17, 1)] }, .no,
   fun r b => do
     let t ← r.ty; let m ← r.rnd; let d ← vCode b r.d
     some (.unpack r.hdr ⟨t, m, BitVec.ofNat 3 (slice r.md 14 3), d, Reg.ofCode b r.s1⟩)⟩

def formQnt : Form :=
  ⟨fun _ => { d := 10, s1 := 10, s2 := 10, z := [(8, 1), (9, 5), (17, 1)] }, .no,
   fun r b => do
     let t ← r.ty; let m ← r.rnd; let d ← vCode b r.d; let a ← vCode b r.s1; let s ← vCode b r.s2
     some (.qnt r.hdr ⟨t, m, BitVec.ofNat 3 (slice r.md 14 3), d, a, s⟩)⟩

def formDqnt : Form :=
  ⟨fun _ => { d := 10, s1 := 10, s2 := 10, z := [(9, 5), (14, 4)] }, .no,
   fun r b => do
     let t ← r.ty; let m ← r.rnd; let d ← vCode b r.d
     some (.dqnt r.hdr ⟨t, m, r.sat, d, Reg.ofCode b r.s1, Reg.ofCode b r.s2⟩)⟩

def formTagset : Form :=
  ⟨fun _ => { d := 10, s1 := 10, s2 := 4, z := [(0, 18)] }, .no,
   fun r b => some (.tagset r.hdr ⟨Reg.ofCode b r.d, Reg.ofCode b r.s1, BitVec.ofNat 4 r.s2⟩)⟩

/-- A destination and one source register, MOD reserved but for the bits outside `z` (R278, R279). -/
def formDa (z : List (Nat × Nat)) (i : Hdr → DaOps → Instr) : Form :=
  ⟨fun _ => { d := 10, s1 := 10, z := z }, .no, fun r b => some (i r.hdr ⟨Reg.ofCode b r.d, Reg.ofCode b r.s1⟩)⟩

def flagsZ : List (Nat × Nat) := [(0, 14), (16, 2)]

def formFlags : Form :=
  ⟨fun _ => { d := 10, z := flagsZ }, .no, fun r b => some (.flags r.hdr (Reg.ofCode b r.d))⟩

/-- Offsets of R281: OPSEL 3 is refused by `Src.okOff`. -/
def formLd : Form :=
  ⟨fun r => { d := 10, s1 := 10, s2 := useSrc2 r, z := memZ r, imm := useImm r false }, .may,
   fun r b => if r.qWithin [0, 1] then do
     let t ← r.ty; let x ← r.src1 b; let y ← r.src2 b
     some (.ld r.hdr ⟨t, r.vec, bitAt r.md 7, r.memMode, r.hint, Reg.ofCode b r.d, x, y⟩) else none⟩

def formSt : Form :=
  ⟨fun r => { s1 := 10, s2 := useSrc2 r, s3 := 10, z := memZ r, imm := useImm r false }, .may,
   fun r b => do
     let t ← r.ty; let x ← r.src1 b; let y ← r.src2 b; let w ← r.srcAt b 2 r.s3
     some (.st r.hdr ⟨t, r.vec, bitAt r.md 7, r.memMode, r.hint, x, y, w⟩)⟩

def ldsZ : List (Nat × Nat) := [(8, 8)]

def formLds (i : Hdr → LoadOps → Instr) : Form :=
  ⟨fun r => { d := 10, s1 := 10, s2 := useSrc2 r, z := ldsZ, imm := useImm r false }, .may,
   fun r b => if r.qWithin [0, 1] then do
     let t ← r.ty; let x ← r.src1 b; let y ← r.src2 b
     some (i r.hdr ⟨t, r.vec, bitAt r.md 7, .plain, 0, Reg.ofCode b r.d, x, y⟩) else none⟩

def formSts : Form :=
  ⟨fun r => { s1 := 10, s2 := useSrc2 r, s3 := 10, z := ldsZ, imm := useImm r false }, .may,
   fun r b => do
     let t ← r.ty; let x ← r.src1 b; let y ← r.src2 b; let w ← r.srcAt b 2 r.s3
     some (.sts r.hdr ⟨t, r.vec, bitAt r.md 7, .plain, 0, x, y, w⟩)⟩

def ldtZ : List (Nat × Nat) := [(0, 5), (7, 1), (8, 1), (11, 5)]

def formLdt : Form :=
  ⟨fun _ => { d := 10, s1 := 10, s2 := 10, z := ldtZ }, .no,
   fun r b => if r.opsel = 0 then do
     let d ← vCode b r.d; let p ← sCode r.s1; let c ← vCode b r.s2; some (.ldt r.hdr ⟨r.vec, r.hint, d, p, c⟩)
     else none⟩

def formStt : Form :=
  ⟨fun _ => { s1 := 10, s2 := 10, s3 := 10, z := ldtZ }, .no,
   fun r b => if r.opsel = 0 then do
     let p ← sCode r.s1; let c ← vCode b r.s2; let w ← vCode b r.s3; some (.stt r.hdr ⟨r.vec, r.hint, p, c, w⟩)
     else none⟩

/-- The fifth operand of .cas, which needs the long form (R292). -/
def Raw.casReg (r : Raw) (o : AtomOp) : Option (Option Reg) :=
  if o.isCas then r.half.map fun h => some (Reg.ofCode 0 h.op5) else some none

def atomUse (d : Nat) (r : Raw) : Use :=
  { d := d, s1 := 10, s2 := useSrc2 r, s3 := 10, op5 := if slice r.md 5 4 = 7 then 10 else 0, imm := useImm r false }

def formAtom (i : Hdr → AtomOps → Instr) : Form :=
  ⟨atomUse 10, .may,
   fun r b => do
     let o ← AtomOp.ofCode (slice r.md 5 4); let t ← r.ty; let x ← r.src1 b; let y ← r.src2 b
     let w ← r.srcAt b 2 r.s3; let c ← r.casReg o
     some (i r.hdr ⟨o, t, AOrd.ofCode (slice r.md 9 2), r.scope, Reg.ofCode b r.d, x, y, w, c⟩)⟩

def formRed : Form :=
  ⟨atomUse 0, .may,
   fun r b => do
     let o ← AtomOp.ofCode (slice r.md 5 4); let t ← r.ty; let x ← r.src1 b; let y ← r.src2 b
     let w ← r.srcAt b 2 r.s3; let c ← r.casReg o
     some (.red r.hdr ⟨o, t, AOrd.ofCode (slice r.md 9 2), r.scope, x, y, w, c⟩)⟩

def cpaUse (r : Raw) : Use :=
  { d := 10, s1 := 10, s2 := useSrc2 r, s3 := bwS3 r 8, z := [(0, 5), (5, 2)] ++ bwZ r 8, imm := useImm r false }

def cpaLnUse (r : Raw) : Use := { d := 10, s1 := 10, s3 := bwS3 r 8, z := [(0, 5), (16, 2)] ++ bwZ r 8 }

def formCpa : Form :=
  ⟨cpaUse, .may,
   fun r b => if r.qWithin [] then do
     let w ← r.bw 8; let p ← sCode r.d; let g ← sCode r.s1; let n ← r.src2 b
     some (.cpa r.hdr ⟨r.hint, w, p, g, n⟩) else none⟩

def formCpout : Form :=
  ⟨cpaUse, .may,
   fun r b => if r.qWithin [] then do
     let w ← r.bw 8; let g ← sCode r.d; let p ← sCode r.s1; let n ← r.src2 b
     some (.cpout r.hdr ⟨r.hint, w, p, g, n⟩) else none⟩

def formCpaLn : Form :=
  ⟨cpaLnUse, .no,
   fun r b => do
     let w ← r.bw 8; some (.cpaLn r.hdr ⟨r.vec, r.hint, w, Reg.ofCode b r.d, Reg.ofCode b r.s1⟩)⟩

def formCpoutLn : Form :=
  ⟨cpaLnUse, .no,
   fun r b => do
     let w ← r.bw 8; some (.cpoutLn r.hdr ⟨r.vec, r.hint, w, Reg.ofCode b r.s1, Reg.ofCode b r.d⟩)⟩

def formPref : Form :=
  ⟨fun r => { s1 := 10, s2 := useSrc2 r, z := (6, 1) :: memZ r, imm := useImm r false }, .may,
   fun r b => if r.qWithin [1] then do
     let t ← r.ty; let y ← r.src2 b
     some (.pref r.hdr ⟨bitAt r.md 5, t, bitAt r.md 7, r.memMode, r.hint, Reg.ofCode b r.s1, y⟩) else none⟩

def formMaint (i : Hdr → MaintOps → Instr) : Form :=
  ⟨fun r => { s1 := 10, s2 := useSrc2 r, z := [(0, 16)], imm := useImm r false }, .may,
   fun r b => if r.qWithin [] then do
     let p ← sCode r.s1; let n ← r.src2 b; some (i r.hdr ⟨p, n⟩) else none⟩

def formBmode : Form :=
  ⟨fun _ => { s1 := 4, z := [(0, 5), (7, 11)] }, .no,
   fun r _ => if r.s1 < 12 then do
     let m ← BankMode.ofCode (slice r.md 5 2); some (.bmode r.hdr ⟨m, BitVec.ofNat 4 r.s1⟩) else none⟩

def formPres : Form :=
  ⟨fun r => { d := 3, s1 := 10, s2 := useSrc2 r, z := [(0, 16)], imm := useImm r false }, .may,
   fun r b => if r.qWithin [0, 1] then do
     let x ← r.src1 b; let y ← r.src2 b; some (.pres r.hdr ⟨BitVec.ofNat 3 r.d, x, y⟩) else none⟩

def formFence (i : Hdr → BitVec 5 → Instr) : Form :=
  ⟨fun _ => { z := [(0, 11), (16, 2)] }, .no, fun r _ => some (i r.hdr r.scope)⟩

/-- BAR and BART with and without .arr (R303, R304). -/
def barZ : List (Nat × Nat) := [(0, 5), (6, 12)]

def formBwinit : Form :=
  ⟨fun r => { s1 := 10, s2 := useSrc2 r, z := [(0, 7), (8, 3)], imm := useImm r false }, .may,
   fun r b => if r.qWithin [] then do
     let w ← r.wordRef; let n ← r.src2 b; some (.bwinit r.hdr ⟨w, r.scope, n⟩) else none⟩

def formBwarr : Form :=
  ⟨fun r => { d := 10, s1 := 10, s2 := useSrc2 r, z := [(0, 7), (9, 2)], imm := useImm r false }, .may,
   fun r b => if r.qWithin [] then do
     let w ← r.wordRef; let n ← r.src2 b
     some (.bwarr r.hdr ⟨bitAt r.md 8, w, r.scope, Reg.ofCode b r.d, n⟩) else none⟩

def formBwwait : Form :=
  ⟨fun r => { d := 3, s1 := 10, s2 := useSrc2 r, z := [(0, 7), (8, 3)], imm := useImm r false }, .may,
   fun r b => if r.qWithin [] then do
     let w ← r.wordRef; let n ← r.src2 b; some (.bwwait r.hdr ⟨w, r.scope, BitVec.ofNat 3 r.d, n⟩) else none⟩

def formSemsig : Form :=
  ⟨fun r => { s1 := 10, s2 := useSrc2 r, z := [(0, 11)], imm := useImm r false }, .may,
   fun r b => if r.qWithin [] then do
     let p ← sCode r.s1; let n ← r.src2 b; some (.semsig r.hdr ⟨r.scope, p, n⟩) else none⟩

def formSemwait : Form :=
  ⟨fun r => { d := 10, s1 := 10, s2 := useSrc2 r, z := [(0, 11)], imm := useImm r false }, .may,
   fun r b => if r.qWithin [] then do
     let p ← sCode r.s1; let n ← r.src2 b; some (.semwait r.hdr ⟨r.scope, Reg.ofCode b r.d, p, n⟩) else none⟩

def formErrack : Form :=
  ⟨fun _ => { d := 10, s1 := 10, z := [(0, 7), (8, 3), (16, 2)] }, .no,
   fun r b => do let w ← r.wordRef; some (.errack r.hdr ⟨w, r.scope, Reg.ofCode b r.d⟩)⟩

def formMdecl : Form :=
  ⟨fun _ => { s1 := 3, s2 := 10, z := [(0, 18)] }, .no,
   fun r _ => (sCode r.s2).map fun n => .mdecl r.hdr ⟨BitVec.ofNat 3 r.s1, n⟩⟩

def formMma : Form :=
  ⟨fun r => { d := 4, s1 := 3, s2 := 10, s3 := bwS3 r 16, z := (17, 1) :: bwZ r 16 }, .no,
   fun r _ => do
     let w ← r.bw 16; let n ← sCode r.s2
     some (.mma r.hdr ⟨BitVec.ofNat 5 (slice r.md 0 5), BitVec.ofNat 5 (slice r.md 5 5), bitAt r.md 10, w,
       BitVec.ofNat 4 r.d, BitVec.ofNat 3 r.s1, n⟩)⟩

def formMload : Form :=
  ⟨fun _ => { d := 4, s1 := 10, z := [(5, 13)] }, .no,
   fun r _ => do let t ← r.ty; let n ← sCode r.s1; some (.mload r.hdr ⟨t, BitVec.ofNat 4 r.d, n⟩)⟩

def formMout : Form :=
  ⟨fun _ => { d := 4, s1 := 10, z := [(9, 9)] }, .no,
   fun r _ => do
     let t ← r.ty; let m ← r.rnd; let n ← sCode r.s1; some (.mout r.hdr ⟨t, m, r.sat, n, BitVec.ofNat 4 r.d⟩)⟩

def formAwalk : Form :=
  ⟨fun r => { d := 3, s1 := 10, s2 := 10, s3 := bwS3 r 16, z := [(0, 11), (17, 1)] ++ bwZ r 16 }, .no,
   fun r _ => do
     let w ← r.bw 16; let p ← sCode r.s1; let q ← sCode r.s2; some (.awalk r.hdr ⟨w, BitVec.ofNat 3 r.d, p, q⟩)⟩

def formPlalloc : Form :=
  ⟨fun _ => { s1 := 10, s2 := 4, z := [(0, 18)] }, .no,
   fun r _ => (sCode r.s1).map fun n => .plalloc r.hdr ⟨n, BitVec.ofNat 4 r.s2⟩⟩

/-- Plane commands (R337): `s1` says whether SRC1 is used, `z` the unused parts of OPC and SAT. -/
def plUse (s1 : Nat) (z : List (Nat × Nat)) (r : Raw) : Use :=
  { s1 := s1, s2 := 10, s3 := bwS3 r 16, z := z ++ [(9, 2), (17, 1)] ++ bwZ r 16 }

def formPlfill (i : Hdr → PlfillOps → Instr) : Form :=
  ⟨plUse 10 [(0, 9)], .no,
   fun r _ => do let w ← r.bw 16; let a ← sCode r.s1; let c ← sCode r.s2; some (i r.hdr ⟨w, a, c⟩)⟩

def formPlop (i : Hdr → PlopOps → Instr) : Form :=
  ⟨plUse 0 [], .no,
   fun r _ => do let w ← r.bw 16; let c ← sCode r.s2; some (i r.hdr ⟨BitVec.ofNat 8 r.md, r.sat, w, c⟩)⟩

def formPldot : Form :=
  ⟨plUse 10 [(0, 8)], .no,
   fun r _ => do
     let w ← r.bw 16; let q ← sCode r.s1; let c ← sCode r.s2; some (.pldot r.hdr ⟨r.sat, w, q, c⟩)⟩

def formPlcmp : Form :=
  ⟨plUse 0 [(8, 1)], .no,
   fun r _ => if slice r.md 4 4 = 0 then do
     let w ← r.bw 16; let k ← Cond.ofCode (slice r.md 0 3); let c ← sCode r.s2
     some (.plcmp r.hdr ⟨k, bitAt r.md 3, w, c⟩) else none⟩

def formPlsel : Form :=
  ⟨plUse 0 [(0, 8)], .no,
   fun r _ => do let w ← r.bw 16; let c ← sCode r.s2; some (.plsel r.hdr ⟨r.sat, w, c⟩)⟩

def formPlred : Form :=
  ⟨plUse 10 [(8, 1)], .no,
   fun r _ => do
     let w ← r.bw 16; let a ← sCode r.s1; let c ← sCode r.s2; some (.plred r.hdr ⟨BitVec.ofNat 8 r.md, w, a, c⟩)⟩

def formPlbmap : Form :=
  ⟨plUse 10 [(0, 9)], .no,
   fun r _ => do let w ← r.bw 16; let a ← sCode r.s1; let c ← sCode r.s2; some (.plbmap r.hdr ⟨w, a, c⟩)⟩

/-- NCALL.L: bits 10-19 of the second half hold the entry, 26-27 n, 28-30 na, 31 nr - 1 (R348). -/
def formNcallL : Form :=
  ⟨fun r => { d := 10, s1 := 10, s2 := 10, s3 := 10, z := [(0, 18)],
              imm := if slice r.imm 10 6 = 0 then 22 else 0 }, .must,
   fun r b => if r.qWithin [] then do
     let d ← vCode b r.d; let a ← vCode b r.s1; let x ← vCode b r.s2; let p ← sCode r.s3
     some (.ncallL r.hdr ⟨BitVec.ofNat 2 (slice r.imm 16 2), BitVec.ofNat 10 r.imm, BitVec.ofNat 3 (slice r.imm 18 3),
       bitAt r.imm 21, d, a, x, p⟩) else none⟩

/-- Near-memory and fabric commands whose BW must be 1: MOD bits 1-10 reserved, `z0` for bit 0 (R348, R360). -/
def bwMustUse (s1 s2 : Nat) (z0 : List (Nat × Nat)) (r : Raw) : Use :=
  { s1 := s1, s2 := s2, s3 := bwS3 r 16, z := z0 ++ [(1, 10), (17, 1)] ++ bwZ r 16 }

def formNcallB : Form :=
  ⟨bwMustUse 10 0 [(0, 1)], .no,
   fun r _ => do let w ← r.bwMust 16; let n ← sCode r.s1; some (.ncallB r.hdr ⟨n, w⟩)⟩

def formNjoin : Form :=
  ⟨fun _ => { d := 2, s1 := 10, z := [(0, 18)] }, .no,
   fun r b => some (.njoin r.hdr ⟨BitVec.ofNat 2 r.d, Reg.ofCode b r.s1⟩)⟩

def formNret : Form :=
  ⟨fun r => { s1 := 10, s2 := if bitAt r.md 0 then 10 else 0, z := [(1, 17)] }, .no,
   fun r b => some (.nret r.hdr ⟨Reg.ofCode b r.s1, if bitAt r.md 0 then some (Reg.ofCode b r.s2) else none⟩)⟩

def formXred (i : Hdr → XredOps → Instr) : Form :=
  ⟨bwMustUse 10 10 [(0, 1)], .no,
   fun r b => do
     let w ← r.bwMust 16; let n ← sCode r.s1; let x ← vCode b r.s2; some (i r.hdr ⟨n, x, w⟩)⟩

def formBkopen (i : Hdr → Nat → Instr) : Form :=
  ⟨fun _ => { s1 := 10, z := [(0, 18)] }, .no, fun r _ => (sCode r.s1).map fun n => i r.hdr n⟩

def formBkbcast : Form :=
  ⟨fun _ => { d := 3, s1 := 10, s2 := 10, z := [(1, 17)] }, .no,
   fun r b => do
     let p ← sCode r.s1; let x ← vCode b r.s2; some (.bkbcast r.hdr ⟨bitAt r.md 0, p, x, BitVec.ofNat 3 r.d⟩)⟩

def formBkmac : Form :=
  ⟨bwMustUse 10 10 [(0, 1)], .no,
   fun r _ => do
     let w ← r.bwMust 16; let p ← sCode r.s1; let k ← sCode r.s2; some (.bkmac r.hdr ⟨p, k, w⟩)⟩

def formBkread : Form :=
  ⟨fun _ => { d := 10, s1 := 10, s2 := 3, z := [(0, 18)] }, .no,
   fun r b => do
     let d ← vCode b r.d; let p ← sCode r.s1; some (.bkread r.hdr ⟨d, p, BitVec.ofNat 3 r.s2⟩)⟩

def formKvxlate : Form :=
  ⟨fun _ => { d := 10, s1 := 10, s2 := 10, s3 := 10, z := [(0, 11), (16, 2)], op5 := 10, xm := 3 }, .must,
   fun r b => if r.qWithin [] then do
     let h ← r.half; let d ← vCode b r.d; let p ← sCode r.s1; let q ← vCode b r.s2; let x ← vCode b r.s3
     let t ← vCode 0 h.op5
     some (.kvxlate r.hdr ⟨r.scope, d, p, q, x, t, BitVec.ofNat 3 h.xmod⟩) else none⟩

def formKvmask : Form :=
  ⟨fun _ => { d := 10, s1 := 10, s2 := 10, z := [(16, 2)] }, .no,
   fun r b => some (.kvmask r.hdr ⟨Reg.ofCode b r.d, BitVec.ofNat 3 (slice r.md 13 3), Reg.ofCode b r.s1,
     Reg.ofCode b r.s2, BitVec.ofNat 4 (slice r.md 0 4), BitVec.ofNat 9 (slice r.md 4 9)⟩)⟩

def formFcopy (i : Hdr → FcopyOps → Instr) : Form :=
  ⟨bwMustUse 10 0 [], .no,
   fun r _ => do let w ← r.bwMust 16; let n ← sCode r.s1; some (i r.hdr ⟨n, w⟩)⟩

def formFreduce : Form :=
  ⟨bwMustUse 10 0 [], .no,
   fun r _ => do let w ← r.bwMust 16; let n ← sCode r.s1; some (.freduce r.hdr ⟨bitAt r.md 0, n, w⟩)⟩

def formFsem : Form :=
  ⟨fun r => { s1 := 10, s2 := useSrc2 r, z := [(0, 11)], imm := useImm r false }, .may,
   fun r b => if r.qWithin [] then do
     let p ← sCode r.s1; let n ← r.src2 b; some (.fsem r.hdr ⟨r.scope, p, n⟩) else none⟩

def sysZ : List (Nat × Nat) := [(16, 2)]

def formSysrd : Form :=
  ⟨fun _ => { d := 10, s1 := 10, z := sysZ }, .no,
   fun r _ => do let d ← sCode r.d; let c ← sCode r.s1; some (.sysrd r.hdr ⟨d, c, BitVec.ofNat 16 r.md⟩)⟩

def formSyswr : Form :=
  ⟨fun _ => { s1 := 10, s3 := 10, z := sysZ }, .no,
   fun r _ => do let c ← sCode r.s1; let a ← sCode r.s3; some (.syswr r.hdr ⟨c, BitVec.ofNat 16 r.md, a⟩)⟩

def formTret (i : Hdr → TretOps → Instr) : Form :=
  ⟨fun _ => { d := 10, s1 := 10, z := [(0, 18)] }, .no,
   fun r _ => do let d ← sCode r.d; let a ← sCode r.s1; some (i r.hdr ⟨d, a⟩)⟩

def formTlbinvAll : Form :=
  ⟨fun _ => { s1 := 10, z := [(1, 17)] }, .no, fun r _ => (sCode r.s1).map fun c => .tlbinvAll r.hdr c⟩

def formRange (z : List (Nat × Nat)) (i : Hdr → RangeOps → Instr) : Form :=
  ⟨fun _ => { s1 := 10, s2 := 10, s3 := 10, z := z }, .no,
   fun r _ => do let c ← sCode r.s1; let a ← sCode r.s2; let n ← sCode r.s3; some (i r.hdr ⟨c, a, n⟩)⟩

def formHalt (i : Hdr → HaltOps → Instr) : Form :=
  ⟨fun _ => { d := 10, s1 := 10, z := [(1, 17)] }, .no,
   fun r _ => do let d ← sCode r.d; let c ← sCode r.s1; some (i r.hdr ⟨d, c⟩)⟩

/-! ### The opcode map -/

/-- PSETP: FN bits 8-9 hold the mode; modes 2 and 3 fault (R250). -/
def formPsetpOf (r : Raw) : Form :=
  match slice r.md 14 2 with
  | 0 => formPsetp
  | 1 => formPsetpG
  | _ => formNone fun _ => { d := 10, s1 := 10, s2 := 10, s3 := 10 }

/-- FLAGS: ESEL bits 92-93 hold the mode; mode 3 faults (R279). -/
def formFlagsOf (r : Raw) : Form :=
  match slice r.md 14 2 with
  | 0 => formFlags
  | 1 => formDa flagsZ .flagsSet
  | 2 => formDa flagsZ .flagsClr
  | _ => formNone fun _ => { d := 10, s1 := 10, z := flagsZ }

/-- R208's opcode map; a word whose opcode it does not list is unassigned. -/
def formOf (r : Raw) : Option Form :=
  match r.opcode with
  | 0x000 => some (formPlain .nop)
  | 0x001 => some (formBra .bra)
  | 0x002 => some (formBrx .brx)
  | 0x003 => some (formBra .call)
  | 0x004 => some (formBrx .callx)
  | 0x005 => some (formPlain .ret)
  | 0x006 => some (formPlain .exit)
  | 0x007 => some formLoop
  | 0x008 => some (if bitAt r.md 0 then formEndlBrk else formEndl)
  | 0x009 => some formWsync
  | 0x00A => some (formPlain .yield)
  | 0x00B => some (formLit1 10 [(0, 18)] fun h n => .wait h (BitVec.ofNat 10 n))
  | 0x00C => some (formPlain .trigger)
  | 0x00D => some formTrap
  | 0x00E => some (formPlain .bkpt)
  | 0x00F => some formGset
  | 0x010 => some (formLitD 4 fun h n => .gclr h (BitVec.ofNat 4 n))
  | 0x011 => some (formPlain .grow)
  | 0x018 => some (formPlain .wcut)
  | 0x019 => some formWsplice
  | 0x080 => some (formInt2 .iadd)
  | 0x081 => some (formInt2 .isub)
  | 0x082 => some (formInt2 .imul)
  | 0x083 => some (formInt2 .imulh)
  | 0x084 => some (formInt3 .imad)
  | 0x085 => some (formInt3 .imadw)
  | 0x086 => some (formInt2 .imin)
  | 0x087 => some (formInt2 .imax)
  | 0x088 => some (formInt1 .iabs)
  | 0x089 => some (formInt1 .ineg)
  | 0x08A => some (formInt2 .and)
  | 0x08B => some (formInt2 .or)
  | 0x08C => some (formInt2 .xor)
  | 0x08D => some (formInt1 .not)
  | 0x08E => some formLop3
  | 0x08F => some (formInt2 .shl)
  | 0x090 => some (formInt2 .shr)
  | 0x091 => some (formInt2 .sha)
  | 0x092 => some (formInt2 .rot)
  | 0x093 => some formShf
  | 0x094 => some (formInt1 .popc)
  | 0x095 => some (formInt1 .clz)
  | 0x096 => some (formInt1 .brev)
  | 0x097 => some (formInt2 .bfe)
  | 0x098 => some (formInt3 .bfi)
  | 0x099 => some formIsetp
  | 0x09A => some formIsel
  | 0x09B => some formLea
  | 0x09C => some (formInt3 .idot4)
  | 0x09D => some (formPsetpOf r)
  | 0x0A0 => some (formInt1 .mov)
  | 0x0A1 => some formMovi
  | 0x0A2 => some (if bitAt r.md 5 then formSmov .smovSt else formSmov .smov)
  | 0x0A3 => some formUbcast
  | 0x0A4 => some formSpr
  | 0x0B0 => some formShfl
  | 0x0B1 => some (formInt2 .push)
  | 0x0B2 => some (formInt2 .permb)
  | 0x0B3 => some formVote
  | 0x0B4 => some (formInt1 .matchLanes)
  | 0x0B5 => some formRedW
  | 0x0B6 => some formScanW
  | 0x0B7 => some formVslide
  | 0x0C0 => some formRng
  | 0x100 => some (formF2 .fadd)
  | 0x101 => some (formF2 .fsub)
  | 0x102 => some (formF2 .fmul)
  | 0x103 => some (formF3 .ffma)
  | 0x104 => some (formFMin .fmin)
  | 0x105 => some (formFMin .fmax)
  | 0x106 => some formFsetp
  | 0x107 => some formFclass
  | 0x108 => some (formFun .frcp)
  | 0x109 => some (formFun .frsq)
  | 0x10A => some (formFun .fsqrt)
  | 0x10B => some (formFun .fex2)
  | 0x10C => some (formFun .flg2)
  | 0x10D => some (formFun .fsin)
  | 0x10E => some (formFun .fcos)
  | 0x110 => some (formF2 .hadd2)
  | 0x111 => some (formF3 .hfma2)
  | 0x180 => some formCvt
  | 0x181 => some formPack
  | 0x182 => some formUnpack
  | 0x183 => some formQnt
  | 0x184 => some formDqnt
  | 0x185 => some formTagset
  | 0x186 => some (formDa [(0, 18)] .tagget)
  | 0x187 => some (formFlagsOf r)
  | 0x200 => some formLd
  | 0x201 => some formSt
  | 0x202 => some (formLds .lds)
  | 0x203 => some formSts
  | 0x204 => some (formLds .ldu)
  | 0x205 => some formLdt
  | 0x206 => some formStt
  | 0x207 => some (formAtom .atom)
  | 0x208 => some (formAtom .atoms)
  | 0x209 => some formRed
  | 0x20A => some (if bitAt r.md 7 then formCpaLn else formCpa)
  | 0x20B => some (if bitAt r.md 7 then formCpoutLn else formCpout)
  | 0x20C => some formPref
  | 0x20D => some (formMaint .l2clean)
  | 0x20E => some (formMaint .l2inv)
  | 0x20F => some (formMaint .l2flush)
  | 0x210 => some formBmode
  | 0x211 => some formPres
  | 0x280 => some (formFence .release)
  | 0x281 => some (formFence .acquire)
  | 0x282 => some (formFence .fence)
  | 0x283 => some (formLit1 4 barZ fun h n =>
      if bitAt r.md 5 then .barArr h (BitVec.ofNat 4 n) else .bar h (BitVec.ofNat 4 n))
  | 0x284 => some (formLit1 2 barZ fun h n =>
      if bitAt r.md 5 then .bartArr h (BitVec.ofNat 2 n) else .bart h (BitVec.ofNat 2 n))
  | 0x285 => some formBwinit
  | 0x286 => some formBwarr
  | 0x287 => some formBwwait
  | 0x288 => some (formLit1 10 [(0, 18)] fun h n => .tflag h (BitVec.ofNat 10 n))
  | 0x289 => some formSemsig
  | 0x28A => some formSemwait
  | 0x28B => some formErrack
  | 0x300 => some formMdecl
  | 0x301 => some (formLit1 3 [(0, 18)] fun h n => .msign h (BitVec.ofNat 3 n))
  | 0x302 => some formMma
  | 0x303 => some (formLitD 4 fun h n => .mzero h (BitVec.ofNat 4 n))
  | 0x304 => some formMload
  | 0x305 => some formMout
  | 0x306 => some (formPlain .mfence)
  | 0x307 => some (formLit1 3 [(0, 18)] fun h n => .mwait h (BitVec.ofNat 3 n))
  | 0x310 => some formAwalk
  | 0x311 => some (formLitD 3 fun h n => .astop h (BitVec.ofNat 3 n))
  | 0x320 => some formPlalloc
  | 0x321 => some (formPlain .plfree)
  | 0x322 => some (formPlfill .plfill)
  | 0x323 => some (formPlfill .pldrain)
  | 0x324 => some (formPlop .plop)
  | 0x325 => some (formPlop .plmul)
  | 0x326 => some formPldot
  | 0x327 => some formPlcmp
  | 0x328 => some formPlsel
  | 0x329 => some formPlred
  | 0x32A => some formPlbmap
  | 0x380 => some formNcallL
  | 0x381 => some formNcallB
  | 0x382 => some formNjoin
  | 0x383 => some formNret
  | 0x384 => some (formXred .xred)
  | 0x385 => some (formXred .xpref)
  | 0x386 => some (formBkopen .bkopen)
  | 0x387 => some (formBkopen .bkclose)
  | 0x388 => some formBkbcast
  | 0x389 => some formBkmac
  | 0x38A => some formBkread
  | 0x38B => some formKvxlate
  | 0x38C => some formKvmask
  | 0x3A0 => some (if bitAt r.md 0 then formFcopy .fcopyGet else formFcopy .fcopyPut)
  | 0x3A1 => some formFreduce
  | 0x3A2 => some formFsem
  | 0x3C0 => some formSysrd
  | 0x3C1 => some formSyswr
  | 0x3C2 => some (formTret .tret)
  | 0x3C3 => some (formTret .resume)
  | 0x3C4 => some (if bitAt r.md 0 then formRange [(1, 17)] .tlbinvVa else formTlbinvAll)
  | 0x3C5 => some (formRange [(0, 18)] .snapmark)
  | 0x3C6 => some (if bitAt r.md 0 then formHalt .haltKill else formHalt .halt)
  | _ => none

/-- Opcodes of the system instructions (R209). -/
def isSystemOpcode (op : Nat) : Bool := 0x3C0 ≤ op && op ≤ 0x3C6

/-- WCUT, WSPLICE and GROW hold SETF as a reserved field (R50, R54, R241). -/
def isFixedOpcode (op : Nat) : Bool := op == 0x011 || op == 0x018 || op == 0x019

/-- Reads one word whose slot kind is sound (R210 rows 3 to 9). `priv`: the context is privileged (R209). `lineBad`: the
line word has a nonzero reserved bit, or a TARGET bit stands on the second half (R190, R191). `bias`: of a script code. -/
def decodeRaw (r : Raw) (priv lineBad : Bool) (bias : Nat) : Except DecodeError Instr :=
  match formOf r with
  | none => .error .unassigned
  | some f =>
    if isSystemOpcode r.opcode && !priv then .error .system
    else if lineBad || r.badReserved (f.use r) || (isFixedOpcode r.opcode && r.setf != 0) then .error .reserved
    else if 13 ≤ r.setf then .error .setFlag
    else if !f.long.accepts r.half then .error .operand
    else match f.get r 0 with
      | none => .error .operand
      | some i =>
        if !i.wf then .error .operand
        else if bias = 0 then .ok i
        else match f.get r bias with
          | none => .error .biased
          | some j => if j.wf then .ok j else .error .biased

/-! ### The encoder -/

def Pred.code (p : Pred) : Nat := p.p.toNat + 8 * bit p.neg

/-- The field code of a source: a register code, the 10-bit immediate, a queue number, or 0 where the second half
holds the immediate (R196, R199, R200). -/
def Src.code : Src → Nat
  | .reg r => r.code
  | .i10 b => b.toNat
  | .q n => n.toNat
  | _ => 0

/-- OPSEL of an instruction whose source 2 is `b` (R199). -/
def opselOf : Src → Nat
  | .i10 _ => 1
  | .i32 _ => 2
  | .i16 _ => 3
  | _ => 0

def Src.isQ : Src → Bool | .q _ => true | _ => false

def Src.immLow : Src → Nat
  | .i32 b => b.toNat
  | .i16 b => b.toNat
  | _ => 0

def Src.immHigh : Src → Nat
  | .i16 b => b.toNat
  | _ => 0

/-- The second half that sources `a`, `b` and `c` need, if any (R200). -/
def halfFor (a b c : Option Src) : Option Half :=
  let q := fun (s : Option Src) => match s with | some x => bit x.isQ | none => 0
  let im := match b with
    | some x => x.immLow + (match c with | some y => 2 ^ 16 * y.immHigh | none => 0)
    | none => 0
  let need := (match b with | some x => opselOf x ≥ 2 | none => false) || q a + q b + q c > 0
  if need then some ⟨0, im, q a + 2 * q b + 4 * q c, 0, 0⟩ else none

/-- A word with the header `h`, opcode `op` and everything else zero. -/
def Hdr.raw (h : Hdr) (op : Nat) : Raw :=
  ⟨op, h.stall.toNat, h.wait.toNat, h.setf, h.guard.a.p.toNat, bit h.guard.a.neg, h.guard.b.p.toNat, bit h.guard.b.neg,
   bit h.guard.isOr, 0, 0, 0, 0, 0, none⟩

/-- FN of R223 placed in MOD. -/
def fnMd (fn : Nat) : Nat := 32 * (fn % 8) + 512 * (fn / 8)

def rawInt1 (h : Hdr) (op : Nat) (o : Int1) : Raw :=
  { h.raw op with d := o.d.code, s1 := o.a.code, md := o.ty.code + 256 * bit o.sat, half := halfFor (some o.a) none none }

def rawAB (h : Hdr) (op d md : Nat) (a b : Src) : Raw :=
  { h.raw op with d := d, s1 := a.code, s2 := b.code, md := md + 65536 * opselOf b,
                  half := halfFor (some a) (some b) none }

def rawABC (h : Hdr) (op d md : Nat) (a b c : Src) : Raw :=
  { h.raw op with d := d, s1 := a.code, s2 := b.code, s3 := c.code, md := md + 65536 * opselOf b,
                  half := halfFor (some a) (some b) (some c) }

def rawInt2 (h : Hdr) (op : Nat) (o : Int2) : Raw := rawAB h op o.d.code (o.ty.code + 256 * bit o.sat) o.a o.b

def rawInt3 (h : Hdr) (op : Nat) (o : Int3) : Raw := rawABC h op o.d.code (o.ty.code + 256 * bit o.sat) o.a o.b o.c

def rawF2 (h : Hdr) (op : Nat) (o : F2Ops) : Raw :=
  rawAB h op o.d.code
    (o.ty.code + 32 * o.rnd.code + 256 * bit o.sat + 512 * o.neg.toNat + 4096 * o.abs.toNat) o.a o.b

def rawF3 (h : Hdr) (op : Nat) (o : F3Ops) : Raw :=
  rawABC h op o.d.code
    (o.ty.code + 32 * o.rnd.code + 256 * bit o.sat + 512 * o.neg.toNat + 4096 * o.abs.toNat) o.a o.b o.c

def rawFMin (h : Hdr) (op : Nat) (o : FMinOps) : Raw :=
  rawAB h op o.d.code (9 + 512 * o.neg.toNat + 4096 * o.abs.toNat) o.a o.b

def rawFun (h : Hdr) (op : Nat) (o : FunOps) : Raw :=
  { h.raw op with d := o.d.code, s1 := o.a.code, md := 9 + 32 * o.rnd.code + 256 * bit o.sat,
                  half := halfFor (some o.a) none none }

def rawDa (h : Hdr) (op md : Nat) (d a : Nat) : Raw := { h.raw op with d := d, s1 := a, md := md }

def rawBra (h : Hdr) (op : Nat) (o : BraOps) : Raw :=
  { h.raw op with d := o.prio.toNat + 256 * (o.offset.toNat % 4), s1 := slice o.offset.toNat 2 10,
                  s2 := slice o.offset.toNat 12 10, s3 := slice o.offset.toNat 22 10 }

/-- A fixed opcode's literal in SRC1 or DST. -/
def rawS1 (h : Hdr) (op s1 md : Nat) : Raw := { h.raw op with s1 := s1, md := md }
def rawD (h : Hdr) (op d : Nat) : Raw := { h.raw op with d := d }

def MemMode.md : MemMode → Nat
  | .plain => 0
  | .prv => 2048
  | .sync sc => 256 + 2048 * sc.toNat

def memMd (ty : Ty) (vec : BitVec 2) (one : Bool) (m : MemMode) (hint : BitVec 2) : Nat :=
  ty.code + 32 * vec.toNat + 128 * bit one + m.md + 512 * hint.toNat

def rawLoad (h : Hdr) (op : Nat) (o : LoadOps) : Raw :=
  rawAB h op o.d.code (memMd o.ty o.vec o.one o.mode o.hint) o.base o.off

def rawStore (h : Hdr) (op : Nat) (o : StoreOps) : Raw :=
  rawABC h op 0 (memMd o.ty o.vec o.one o.mode o.hint) o.base o.off o.data

/-- The fifth operand of .cas in the second half (R292). -/
def addOp5 (c : Option Reg) (half : Option Half) : Option Half :=
  match c with
  | none => half
  | some r => match half with
    | none => some ⟨r.code, 0, 0, 0, 0⟩
    | some x => some { x with op5 := r.code }

def rawAtomic (h : Hdr) (op d : Nat) (o : AtomOp) (ty : Ty) (ord : AOrd) (sc : BitVec 5) (base off b : Src)
    (c : Option Reg) : Raw :=
  let r := rawABC h op d (ty.code + 32 * o.code + 512 * ord.code + 2048 * sc.toNat) base off b
  { r with half := addOp5 c r.half }

/-- SRC3, SCOPE and BW at MOD bit `k` of an engine command (R318). -/
def withBw (r : Raw) (k : Nat) (b : Option Bw) : Raw :=
  match b with
  | none => r
  | some w => { r with s3 := 640 + w.word, md := r.md + 2 ^ k + 2048 * w.scope.toNat }

def rawUni (h : Hdr) (op d s1 md : Nat) (n : Src) : Raw :=
  { h.raw op with d := d, s1 := s1, s2 := n.code, md := md + 65536 * opselOf n, half := halfFor none (some n) none }

def WordRef.s : WordRef → Nat
  | .global n => 640 + n
  | .scratch n => 640 + n

def WordRef.md : WordRef → Nat
  | .global _ => 0
  | .scratch _ => 128

def rawPl (h : Hdr) (op s1 cmd md : Nat) (b : Option Bw) : Raw :=
  withBw { h.raw op with s1 := s1, s2 := 640 + cmd, md := md } 16 b

/-- The second half of a warp reduction with a rounding mode other than .rn (R252), or with a queue. -/
def redHalf (a : Src) (m : Rnd) : Option Half :=
  if m.code ≠ 0 || a.isQ then some ⟨0, 0, bit a.isQ, m.code, 0⟩ else none

/-- The fields of an instruction's word; `none` for a step of the part, which no word encodes. -/
def rawOf : Instr → Option Raw
  | .nop h => some (h.raw 0x000)
  | .bra h o => some (rawBra h 0x001 o)
  | .brx h o => some { h.raw 0x002 with d := o.prio.toNat, s1 := o.va }
  | .call h o => some (rawBra h 0x003 o)
  | .callx h o => some { h.raw 0x004 with d := o.prio.toNat, s1 := o.va }
  | .ret h => some (h.raw 0x005)
  | .exit h => some (h.raw 0x006)
  | .loop h o => some { h.raw 0x007 with
      s1 := o.count.code, s2 := o.skip.toNat % 1024, s3 := o.skip.toNat / 1024, md := bit o.count.isI32,
      half := halfFor none (some o.count) none }
  | .endl h k => some { h.raw 0x008 with s2 := k.toNat % 1024, s3 := k.toNat / 1024 }
  | .endlBrk h => some { h.raw 0x008 with md := 1 }
  | .wsync h r => some (rawS1 h 0x009 r.code 0)
  | .yield h => some (h.raw 0x00A)
  | .wait h n => some (rawS1 h 0x00B n.toNat 0)
  | .trigger h => some (h.raw 0x00C)
  | .trap h n => some { h.raw 0x00D with md := n.toNat }
  | .bkpt h => some (h.raw 0x00E)
  | .gset h o => some (rawDa h 0x00F 0 o.g.toNat o.pa.code)
  | .gclr h g => some (rawD h 0x010 g.toNat)
  | .grow h => some (h.raw 0x011)
  | .wcut h => some (h.raw 0x018)
  | .wsplice h o => some (rawDa h 0x019 o.pd.toNat o.vd o.tag.toNat)
  | .iadd h o => some (rawInt2 h 0x080 o)
  | .isub h o => some (rawInt2 h 0x081 o)
  | .imul h o => some (rawInt2 h 0x082 o)
  | .imulh h o => some (rawInt2 h 0x083 o)
  | .imad h o => some (rawInt3 h 0x084 o)
  | .imadw h o => some (rawInt3 h 0x085 o)
  | .imin h o => some (rawInt2 h 0x086 o)
  | .imax h o => some (rawInt2 h 0x087 o)
  | .iabs h o => some (rawInt1 h 0x088 o)
  | .ineg h o => some (rawInt1 h 0x089 o)
  | .and h o => some (rawInt2 h 0x08A o)
  | .or h o => some (rawInt2 h 0x08B o)
  | .xor h o => some (rawInt2 h 0x08C o)
  | .not h o => some (rawInt1 h 0x08D o)
  | .lop3 h o => some (rawABC h 0x08E o.d.code (fnMd o.lut.toNat) o.a o.b o.c)
  | .shl h o => some (rawInt2 h 0x08F o)
  | .shr h o => some (rawInt2 h 0x090 o)
  | .sha h o => some (rawInt2 h 0x091 o)
  | .rot h o => some (rawInt2 h 0x092 o)
  | .shf h o => some (rawABC h 0x093 o.d.code (fnMd (bit o.right)) o.a o.b o.c)
  | .popc h o => some (rawInt1 h 0x094 o)
  | .clz h o => some (rawInt1 h 0x095 o)
  | .brev h o => some (rawInt1 h 0x096 o)
  | .bfe h o => some (rawInt2 h 0x097 o)
  | .bfi h o => some (rawInt3 h 0x098 o)
  | .isetp h o => some { rawAB h 0x099 o.pd.toNat (o.ty.code + fnMd (o.cond.code + 8 * o.comb.code)) o.a o.b with
      s3 := o.pc.code }
  | .isel h o => some { rawAB h 0x09A o.d.code o.ty.code o.a o.b with s3 := o.pc.code }
  | .lea h o => some (rawAB h 0x09B o.d.code (o.ty.code + fnMd o.sh.toNat) (.reg o.a) o.b)
  | .idot4 h o => some (rawInt3 h 0x09C o)
  | .psetp h o => some { h.raw 0x09D with
      d := o.pd.toNat, s1 := o.pa.toNat, s2 := o.pb.toNat, s3 := o.pc.toNat, md := fnMd o.lut.toNat }
  | .psetpG h o => some { h.raw 0x09D with d := o.pd.toNat + 8 * o.pe.toNat, s1 := o.g.toNat, md := fnMd 256 }
  | .mov h o => some (rawInt1 h 0x0A0 o)
  | .movi h o => some (rawUni h 0x0A1 o.d.code 0 o.ty.code o.imm)
  | .smov h o => some (rawUni h 0x0A2 (640 + o.d) (640 + o.a) o.ty.code o.idx)
  | .smovSt h o => some (rawUni h 0x0A2 (640 + o.d) (640 + o.a) (o.ty.code + fnMd 1) o.idx)
  | .ubcast h o => some (rawAB h 0x0A3 (640 + o.d) o.ty.code o.a o.idx)
  | .spr h o => some { h.raw 0x0A4 with d := o.d.code, md := fnMd o.idx.toNat }
  | .shfl h o => some (rawAB h 0x0B0 o.d.code (o.ty.code + fnMd o.mode.code) o.a o.b)
  | .push h o => some (rawInt2 h 0x0B1 o)
  | .permb h o => some (rawInt2 h 0x0B2 o)
  | .vote h o => some (match o.dst with
      | .all p => { h.raw 0x0B3 with d := p.toNat, s1 := o.pa.code, md := fnMd 0 }
      | .any p => { h.raw 0x0B3 with d := p.toNat, s1 := o.pa.code, md := fnMd 1 }
      | .uni p => { h.raw 0x0B3 with d := p.toNat, s1 := o.pa.code, md := fnMd 2 }
      | .ballot d => { h.raw 0x0B3 with d := d.code, s1 := o.pa.code, md := fnMd 3 })
  | .matchLanes h o => some (rawInt1 h 0x0B4 o)
  | .redW h o => some { h.raw 0x0B5 with
      d := o.d.code, s1 := o.a.code, md := o.ty.code + 256 * bit o.sat + fnMd o.op.code, half := redHalf o.a o.rnd }
  | .scanW h o => some { h.raw 0x0B6 with
      d := o.d.code, s1 := o.a.code, md := o.ty.code + 256 * bit o.sat + fnMd (o.op.code + 8 * bit o.ex),
      half := redHalf o.a o.rnd }
  | .vslide h o => some (rawAB h 0x0B7 o.d.code (fnMd (o.n.toNat + 256 * bit o.down)) o.a o.f)
  | .rng h o => some { h.raw 0x0C0 with d := o.d.code, md := o.ty.code }
  | .fadd h o => some (rawF2 h 0x100 o)
  | .fsub h o => some (rawF2 h 0x101 o)
  | .fmul h o => some (rawF2 h 0x102 o)
  | .ffma h o => some (rawF3 h 0x103 o)
  | .fmin h o => some (rawFMin h 0x104 o)
  | .fmax h o => some (rawFMin h 0x105 o)
  | .fsetp h o => some { rawAB h 0x106 (o.pd.toNat + 8 * o.comb.code)
      (9 + 32 * o.cond.code + 512 * o.neg.toNat + 4096 * o.abs.toNat) o.a o.b with s3 := o.pc.code }
  | .fclass h o => some { h.raw 0x107 with
      d := o.d.code, s1 := o.a.code, md := 9, half := halfFor (some o.a) none none }
  | .frcp h o => some (rawFun h 0x108 o)
  | .frsq h o => some (rawFun h 0x109 o)
  | .fsqrt h o => some (rawFun h 0x10A o)
  | .fex2 h o => some (rawFun h 0x10B o)
  | .flg2 h o => some (rawFun h 0x10C o)
  | .fsin h o => some (rawFun h 0x10D o)
  | .fcos h o => some (rawFun h 0x10E o)
  | .hadd2 h o => some (rawF2 h 0x110 o)
  | .hfma2 h o => some (rawF3 h 0x111 o)
  | .cvt h o => some (rawDa h 0x180 (o.dt.code + 32 * o.rnd.code + 256 * bit o.sat + 512 * o.st.code) o.d.code o.a.code)
  | .pack h o => some { rawDa h 0x181
      (o.ty.code + 32 * o.rnd.code + 256 * bit o.sat + 16384 * o.e.toNat + 131072 * bit o.z) o.d.code o.a.code with
      s2 := match o.b with | none => 0 | some b => b.code }
  | .unpack h o => some (rawDa h 0x182 (o.ty.code + 32 * o.rnd.code + 16384 * o.e.toNat) o.vd o.a.code)
  | .qnt h o => some { rawDa h 0x183 (o.ty.code + 32 * o.rnd.code + 16384 * o.m.toNat) o.vd o.va with s2 := o.vs }
  | .dqnt h o => some { rawDa h 0x184 (o.ty.code + 32 * o.rnd.code + 256 * bit o.sat) o.vd o.a.code with
      s2 := o.sc.code }
  | .tagset h o => some { rawDa h 0x185 0 o.d.code o.a.code with s2 := o.t.toNat }
  | .tagget h o => some (rawDa h 0x186 0 o.d.code o.a.code)
  | .flags h d => some (rawDa h 0x187 0 d.code 0)
  | .flagsSet h o => some (rawDa h 0x187 16384 o.d.code o.a.code)
  | .flagsClr h o => some (rawDa h 0x187 32768 o.d.code o.a.code)
  | .ld h o => some (rawLoad h 0x200 o)
  | .st h o => some (rawStore h 0x201 o)
  | .lds h o => some (rawLoad h 0x202 o)
  | .sts h o => some (rawStore h 0x203 o)
  | .ldu h o => some (rawLoad h 0x204 o)
  | .ldt h o => some { rawDa h 0x205 (32 * o.vec.toNat + 512 * o.hint.toNat) o.vd (640 + o.desc) with s2 := o.vc }
  | .stt h o => some { rawDa h 0x206 (32 * o.vec.toNat + 512 * o.hint.toNat) 0 (640 + o.desc) with
      s2 := o.vc, s3 := o.vs }
  | .atom h o => some (rawAtomic h 0x207 o.d.code o.op o.ty o.ord o.scope o.base o.off o.b o.c)
  | .atoms h o => some (rawAtomic h 0x208 o.d.code o.op o.ty o.ord o.scope o.base o.off o.b o.c)
  | .red h o => some (rawAtomic h 0x209 0 o.op o.ty o.ord o.scope o.base o.off o.b o.c)
  | .cpa h o => some (withBw (rawUni h 0x20A (640 + o.sp) (640 + o.ga) (512 * o.hint.toNat) o.n) 8 o.bw)
  | .cpaLn h o => some (withBw (rawDa h 0x20A (128 + 32 * o.vec.toNat + 512 * o.hint.toNat) o.sp.code o.ga.code) 8 o.bw)
  | .cpout h o => some (withBw (rawUni h 0x20B (640 + o.ga) (640 + o.sp) (512 * o.hint.toNat) o.n) 8 o.bw)
  | .cpoutLn h o =>
    some (withBw (rawDa h 0x20B (128 + 32 * o.vec.toNat + 512 * o.hint.toNat) o.ga.code o.sp.code) 8 o.bw)
  | .pref h o => some (rawAB h 0x20C 0 (memMd o.ty 0 o.one o.mode o.hint + 32 * bit o.l1) (.reg o.base) o.off)
  | .l2clean h o => some (rawUni h 0x20D 0 (640 + o.sa) 0 o.n)
  | .l2inv h o => some (rawUni h 0x20E 0 (640 + o.sa) 0 o.n)
  | .l2flush h o => some (rawUni h 0x20F 0 (640 + o.sa) 0 o.n)
  | .bmode h o => some (rawS1 h 0x210 o.b.toNat (32 * o.mode.code))
  | .pres h o => some (rawAB h 0x211 o.pd.toNat 0 o.base o.off)
  | .release h sc => some (rawS1 h 0x280 0 (2048 * sc.toNat))
  | .acquire h sc => some (rawS1 h 0x281 0 (2048 * sc.toNat))
  | .fence h sc => some (rawS1 h 0x282 0 (2048 * sc.toNat))
  | .bar h n => some (rawS1 h 0x283 n.toNat 0)
  | .barArr h n => some (rawS1 h 0x283 n.toNat 32)
  | .bart h n => some (rawS1 h 0x284 n.toNat 0)
  | .bartArr h n => some (rawS1 h 0x284 n.toNat 32)
  | .bwinit h o => some (rawUni h 0x285 0 o.word.s (o.word.md + 2048 * o.scope.toNat) o.n)
  | .bwarr h o => some (rawUni h 0x286 o.d.code o.word.s (o.word.md + 256 * bit o.rel + 2048 * o.scope.toNat) o.n)
  | .bwwait h o => some (rawUni h 0x287 o.pd.toNat o.word.s (o.word.md + 2048 * o.scope.toNat) o.ph)
  | .tflag h n => some (rawS1 h 0x288 n.toNat 0)
  | .semsig h o => some (rawUni h 0x289 0 (640 + o.sa) (2048 * o.scope.toNat) o.n)
  | .semwait h o => some (rawUni h 0x28A o.d.code (640 + o.sa) (2048 * o.scope.toNat) o.n)
  | .errack h o => some (rawDa h 0x28B (o.word.md + 2048 * o.scope.toNat) o.d.code o.word.s)
  | .mdecl h o => some { rawS1 h 0x300 o.c.toNat 0 with s2 := 640 + o.sm }
  | .msign h c => some (rawS1 h 0x301 c.toNat 0)
  | .mma h o => some (withBw { rawDa h 0x302 (o.fa.toNat + 32 * o.fb.toNat + 1024 * bit o.sp) o.t.toNat o.c.toNat with
      s2 := 640 + o.blk } 16 o.bw)
  | .mzero h t => some (rawD h 0x303 t.toNat)
  | .mload h o => some (rawDa h 0x304 o.ty.code o.t.toNat (640 + o.record))
  | .mout h o => some (rawDa h 0x305 (o.ty.code + 32 * o.rnd.code + 256 * bit o.sat) o.t.toNat (640 + o.record))
  | .mfence h => some (h.raw 0x306)
  | .mwait h c => some (rawS1 h 0x307 c.toNat 0)
  | .awalk h o => some (withBw { rawDa h 0x310 0 o.w.toNat (640 + o.desc) with s2 := 640 + o.walk } 16 o.bw)
  | .astop h w => some (rawD h 0x311 w.toNat)
  | .plalloc h o => some { rawS1 h 0x320 (640 + o.mask) 0 with s2 := o.w.toNat }
  | .plfree h => some (h.raw 0x321)
  | .plfill h o => some (rawPl h 0x322 (640 + o.addr) o.cmd 0 o.bw)
  | .pldrain h o => some (rawPl h 0x323 (640 + o.addr) o.cmd 0 o.bw)
  | .plop h o => some (rawPl h 0x324 0 o.cmd (o.op.toNat + 256 * bit o.sat) o.bw)
  | .plmul h o => some (rawPl h 0x325 0 o.cmd (o.op.toNat + 256 * bit o.sat) o.bw)
  | .pldot h o => some (rawPl h 0x326 (640 + o.z) o.cmd (256 * bit o.sat) o.bw)
  | .plcmp h o => some (rawPl h 0x327 0 o.cmd (o.cond.code + 8 * bit o.imm) o.bw)
  | .plsel h o => some (rawPl h 0x328 0 o.cmd (256 * bit o.sat) o.bw)
  | .plred h o => some (rawPl h 0x329 (640 + o.addr) o.cmd o.op.toNat o.bw)
  | .plbmap h o => some (rawPl h 0x32A (640 + o.addr) o.cmd 0 o.bw)
  | .ncallL h o => some { rawDa h 0x380 0 o.vd o.va with
      s2 := o.vx, s3 := 640 + o.sr,
      half := some ⟨0, o.entry.toNat + 65536 * o.j.toNat + 262144 * o.na.toNat + 2097152 * bit o.nr2, 0, 0, 0⟩ }
  | .ncallB h o => some (withBw (rawS1 h 0x381 (640 + o.blk) 0) 16 (some o.bw))
  | .njoin h o => some (rawDa h 0x382 0 o.j.toNat o.mask.code)
  | .nret h o => some { rawS1 h 0x383 o.a.code (match o.b with | none => 0 | some _ => 1) with
      s2 := match o.b with | none => 0 | some b => b.code }
  | .xred h o => some (withBw { rawS1 h 0x384 (640 + o.blk) 0 with s2 := o.vi } 16 (some o.bw))
  | .xpref h o => some (withBw { rawS1 h 0x385 (640 + o.blk) 0 with s2 := o.vi } 16 (some o.bw))
  | .bkopen h sa => some (rawS1 h 0x386 (640 + sa) 0)
  | .bkclose h sa => some (rawS1 h 0x387 (640 + sa) 0)
  | .bkbcast h o => some { rawDa h 0x388 (bit o.acc) o.k.toNat (640 + o.sa) with s2 := o.vs }
  | .bkmac h o => some (withBw { rawS1 h 0x389 (640 + o.sa) 0 with s2 := 640 + o.sk } 16 (some o.bw))
  | .bkread h o => some { rawDa h 0x38A 0 o.vd (640 + o.sa) with s2 := o.k.toNat }
  | .kvxlate h o => some { rawDa h 0x38B (2048 * o.scope.toNat) o.vd (640 + o.root) with
      s2 := o.vq, s3 := o.vx, half := some ⟨o.vt, 0, 0, o.pd.toNat, 0⟩ }
  | .kvmask h o => some { rawDa h 0x38C (o.logt.toNat + 16 * o.k.toNat + 8192 * o.pd.toNat) o.d.code o.vl.code with
      s2 := o.vb.code }
  | .fcopyPut h o => some (withBw (rawS1 h 0x3A0 (640 + o.blk) 0) 16 (some o.bw))
  | .fcopyGet h o => some (withBw (rawS1 h 0x3A0 (640 + o.blk) 1) 16 (some o.bw))
  | .freduce h o => some (withBw (rawS1 h 0x3A1 (640 + o.blk) (bit o.bf16)) 16 (some o.bw))
  | .fsem h o => some (rawUni h 0x3A2 0 (640 + o.sa) (2048 * o.scope.toNat) o.n)
  | .sysrd h o => some (rawDa h 0x3C0 o.reg.toNat (640 + o.d) (640 + o.sel))
  | .syswr h o => some { rawS1 h 0x3C1 (640 + o.sel) o.reg.toNat with s3 := 640 + o.a }
  | .tret h o => some (rawDa h 0x3C2 0 (640 + o.d) (640 + o.a))
  | .resume h o => some (rawDa h 0x3C3 0 (640 + o.d) (640 + o.a))
  | .tlbinvAll h sel => some (rawS1 h 0x3C4 (640 + sel) 0)
  | .tlbinvVa h o => some { rawS1 h 0x3C4 (640 + o.sel) 1 with s2 := 640 + o.a, s3 := 640 + o.n }
  | .snapmark h o => some { rawS1 h 0x3C5 (640 + o.sel) 0 with s2 := 640 + o.a, s3 := 640 + o.n }
  | .halt h o => some (rawDa h 0x3C6 0 (640 + o.d) (640 + o.sel))
  | .haltKill h o => some (rawDa h 0x3C6 1 (640 + o.d) (640 + o.sel))
  | _ => none

/-- The words of an instruction: its standard word, and its second half where it needs the long form (R194, R200). -/
def encode (i : Instr) : Option (Nat × Option Nat) := (rawOf i).map fun r => (r.toNat, r.halfNat)

/-- Decodes a word and its second half as a privileged context issues them, with no script bias. -/
def decodeWords (w : Nat) (half : Option Nat) : Except DecodeError Instr :=
  decodeRaw (Raw.ofNat (w % 2 ^ 96) (half.map (· % 2 ^ 96))) true false 0

/-! ### Fetch lines -/

/-- Even parity of the low `n` bits: whether they hold an odd number of ones (R192). -/
def oddOnes : Nat → Nat → Bool
  | 0, _ => false
  | n + 1, w => (w % 2 == 1) != oddOnes n (w / 2)

/-- A fetch line (R189, R190): its line word and five slots of 96 bits. -/
structure Line where
  word : Nat
  slots : List Nat
  deriving DecidableEq, Repr

/-- The little-endian value of a list of bytes (R7). -/
def leNat : List Byte → Nat
  | [] => 0
  | b :: bs => b.toNat + 256 * leNat bs

/-- The first `n` bytes of a value, little-endian (R7). -/
def leBytes : Nat → Nat → List Byte
  | 0, _ => []
  | n + 1, x => BitVec.ofNat 8 x :: leBytes n (x / 256)

/-- Reads the 64 bytes of a line (R189). -/
def Line.ofBytes (bs : List Byte) : Line :=
  ⟨leNat (bs.take 4), (List.range 5).map fun i => leNat ((bs.drop (4 + 12 * i)).take 12)⟩

/-- The 64 bytes of a line (R189). -/
def Line.toBytes (l : Line) : List Byte := leBytes 4 l.word ++ (l.slots.map (leBytes 12)).flatten

def Line.slot (l : Line) (i : Nat) : Nat := l.slots.getD i 0

/-- KIND of slot `i` (R190). -/
def Line.kind (l : Line) (i : Nat) : Nat := slice l.word (2 * i) 2

/-- TARGET of slot `i` (R190). -/
def Line.isTarget (l : Line) (i : Nat) : Bool := bitAt l.word (10 + i)

/-- PAIR of slots `i` and `i + 1` (R190). -/
def Line.isPair (l : Line) (i : Nat) : Bool := i < 4 && bitAt l.word (15 + i)

/-- A nonzero reserved bit of the line word (R190). -/
def Line.badWord (l : Line) : Bool := slice l.word 19 5 != 0 || slice l.word 30 2 != 0

/-- The parity of R192. -/
def Line.parityOk (l : Line) : Bool :=
  (List.range 5).all (fun i => bitAt l.word (24 + i) == oddOnes 96 (l.slot i)) &&
  bitAt l.word 29 == oddOnes 24 l.word

/-- A line of five slots with the given kinds and slots, its parity bits set as R192 asks. -/
def Line.make (kinds target pair : Nat) (slots : List Nat) : Line :=
  let low := kinds + 2 ^ 10 * target + 2 ^ 15 * pair
  let sp := ((List.range 5).map fun i => 2 ^ i * bit (oddOnes 96 (slots.getD i 0))).sum
  ⟨low + 2 ^ 24 * sp + 2 ^ 29 * bit (oddOnes 24 low), slots⟩

/-- The parts of a PC (R193). -/
def pcPos (pc : Nat) : Nat := slice pc 0 3
def pcSlot (pc : Nat) : Nat := slice pc 3 3
def pcLine (pc : Nat) : Nat := pc / 64 * 64

/-- A well-formed PC, given its line (R193). -/
def Line.wellFormed (l : Line) (pc : Nat) : Bool :=
  pcSlot pc ≤ 4 && (pcPos pc == 0 || (l.kind (pcSlot pc) == 3 && pcPos pc ≤ 5)) && l.kind (pcSlot pc) != 2

/-- Code `k` of code slot `i` (R189, R205). -/
def Line.code (l : Line) (i k : Nat) : Nat := slice (l.slot i) (16 * k) 16

def fillerCode : Nat := 0xFFFF

/-- The slot-kind rule at slot `i` (R191). -/
def Line.slotRuleOk (l : Line) (i : Nat) : Bool :=
  match l.kind i with
  | 1 => i < 4 && l.kind (i + 1) == 2
  | 2 => 0 < i && l.kind (i - 1) == 1
  | _ => true

/-- The PC after the instruction at `pc` (R193), before fillers are skipped. -/
def Line.next (l : Line) (pc : Nat) : Nat :=
  if l.kind (pcSlot pc) = 3 ∧ pcPos pc < 5 then pc + 1
  else
    let s := pcSlot pc + (if l.kind (pcSlot pc) = 1 then 2 else 1)
    if s > 4 then pcLine pc + 64 else pcLine pc + 8 * s

/-- Skips fillers within a line, at most `n` of them: they take no issue slot (R193). -/
def Line.skip (l : Line) : Nat → Nat → Nat
  | 0, pc => pc
  | n + 1, pc =>
    if l.kind (pcSlot pc) = 3 ∧ l.code (pcSlot pc) (pcPos pc) = fillerCode then
      if (l.next pc) / 64 = pc / 64 then l.skip n (l.next pc) else l.next pc
    else pc

/-- The target of a branch of `off` slots from `pc` (R201); the offset is already sign-extended. -/
def branchTarget (pc : Nat) (off : Int) : Nat :=
  let t : Int := (5 * (pc / 64) + pcSlot pc : Nat) + off
  wrap 64 (t / 5 * 64 + t % 5 * 8)

/-- What stands at a PC of a line: an instruction, one of a pair's members, a script code, or a filler. -/
inductive Slotted
  | one (word : Nat) (half : Option Nat)
  | script (index stall bias : Nat)
  deriving DecidableEq, Repr

/-- Reads the slot that a PC names (R189 to R193, R205). A PC of the frontier that is not well formed and that no check of a target has
met (the exit of a LOOP whose guard fails) is a fault of row 2 of R210 when it is reached (DESIGN CHOICE, R193, R234; assumption 62). -/
def Line.at (l : Line) (pc : Nat) : Except DecodeError Slotted :=
  let i := pcSlot pc
  if i > 4 then .error .target
  else if !l.slotRuleOk i then .error .slotKind
  else if !l.wellFormed pc then .error .target
  else match l.kind i with
    | 0 => .ok (.one (l.slot i) none)
    | 1 => .ok (.one (l.slot i) (some (l.slot (i + 1))))
    | _ =>
      let c := l.code i (pcPos pc)
      .ok (.script (slice c 0 10) (slice c 10 3) (slice c 13 3))

/-- A nonzero reserved bit that row 6 of R210 charges to the word at slot `i`: in the line word, or a TARGET bit on the
second half of a long form. -/
def Line.badFor (l : Line) (i : Nat) : Bool := l.badWord || (l.kind i == 1 && l.isTarget (i + 1))

/-- Decodes the word at a PC. `script` holds the entries read so far by index, `size` the script's size (R205). -/
def decodeAt (l : Line) (pc : Nat) (priv : Bool) (size : Nat) (entry : Nat → Nat) : Except DecodeError Instr :=
  match l.at pc with
  | .error e => .error e
  | .ok (.one w half) => decodeRaw (Raw.ofNat w half) priv (l.badFor (pcSlot pc)) 0
  | .ok (.script ix st b) =>
    if size ≤ ix then .error .scriptIndex
    else decodeRaw { Raw.ofNat (entry ix) none with stall := st } priv (l.badFor (pcSlot pc)) b

/-- A word with zero in every field that rows 6 and 7 of R210 test. -/
def Raw.cleared (r : Raw) : Raw :=
  match formOf r with
  | none => r
  | some f =>
    let u := f.use r
    { r with
      setf := 0
      d := r.d % 2 ^ u.d
      s1 := r.s1 % 2 ^ u.s1
      s2 := r.s2 % 2 ^ u.s2
      s3 := r.s3 % 2 ^ u.s3
      md := u.z.foldl (fun m p => m - slice m p.1 p.2 * 2 ^ p.1) r.md
      half := r.half.map fun h => { h with op5 := h.op5 % 2 ^ u.op5, xmod := h.xmod % 2 ^ u.xm, imm := h.imm % 2 ^ u.imm, rsv := 0 } }

/-- A word without a second half that its instruction does not accept, which is a fault of row 8 of R210. -/
def Raw.shortened (r : Raw) : Raw :=
  match formOf r with
  | none => r
  | some f => if f.long.accepts r.half && (f.get r 0).isSome then r else { r with half := none }

/-- What the word at a PC says beside the faults of rows 6 and 7 of R210 and a second half too many: row 2, which comes before them, is
judged by it. -/
def clearedAt (l : Line) (pc : Nat) (priv : Bool) (size : Nat) (entry : Nat → Nat) : Option Instr :=
  (match l.at pc with
    | .error e => .error e
    | .ok (.one w half) => decodeRaw (Raw.ofNat w half).cleared.shortened priv false 0
    | .ok (.script ix st b) =>
      if size ≤ ix then .error .scriptIndex
      else decodeRaw { (Raw.ofNat (entry ix) none).cleared with stall := st } priv false b : Except DecodeError Instr).toOption

/-- The instruction that the decoder reads from an instruction whose bits are `w`, the first word lowest: the
standard word, and the second half where the table gives more than 96 bits. -/
def decodeTableWord (nbits w : Nat) : Option Instr :=
  match decodeWords w (if nbits ≤ 96 then none else some (w / 2 ^ 96)) with
  | .ok i => some i
  | .error _ => none

end Sys2Proof
end

