-- ==== Sys2Proof/Machine/Maps.lean ====
section
/-!
DEFINITION. Sparse maps from numbers, in one canonical form: keys strictly rising and no entry equal to what an unlisted
key reads as, so that equal maps are equal data. Registers, banks, tiles and memory are held so.
-/

namespace Sys2Proof

/-- A sparse map. What an unlisted key reads as is said at each use. -/
abbrev NMap (α : Type) := List (Nat × α)

/-- The value at a key; `d` where the key is not listed. -/
def NMap.get {α : Type} (d : α) : NMap α → Nat → α
  | [], _ => d
  | (k, v) :: m, i => if i = k then v else if i < k then d else NMap.get d m i

/-- The map with `v` at key `i`; writing the unlisted value removes the entry. -/
def NMap.put {α : Type} [DecidableEq α] (d : α) : NMap α → Nat → α → NMap α
  | [], i, v => if v = d then [] else [(i, v)]
  | (k, w) :: m, i, v =>
    if i < k then (if v = d then (k, w) :: m else (i, v) :: (k, w) :: m)
    else if i = k then (if v = d then m else (i, v) :: m)
    else (k, w) :: NMap.put d m i v

/-- Every key at or above `lo`, strictly rising, no entry equal to `d`. -/
def NMap.wfFrom {α : Type} [DecidableEq α] (d : α) : Nat → NMap α → Bool
  | _, [] => true
  | lo, (k, v) :: m => decide (lo ≤ k) && !decide (v = d) && NMap.wfFrom d (k + 1) m

/-- The canonical form. -/
def NMap.wf {α : Type} [DecidableEq α] (d : α) (m : NMap α) : Bool := NMap.wfFrom d 0 m

/-- The map with a list of entries written in order, the last standing. -/
def NMap.putAll {α : Type} [DecidableEq α] (d : α) (m : NMap α) : List (Nat × α) → NMap α
  | [] => m
  | (i, v) :: es => NMap.putAll d (NMap.put d m i v) es

/-- Memory: bytes by cell. -/
abbrev Memory := List Host.Cell

/-- What a byte that nothing has written reads as (assumption 1). -/
def Memory.cold : Byte := 0

def Memory.read (m : Memory) (a : Nat) : Byte := NMap.get Memory.cold m a

def Memory.write (m : Memory) (a : Nat) (b : Byte) : Memory := NMap.put Memory.cold m a b

/-- The canonical form of memory. -/
def Memory.wf (m : Memory) : Bool := NMap.wf Memory.cold m

/-- `n` bytes from `a`, little-endian (R7). -/
def Memory.readNat (m : Memory) (a : Nat) : Nat → Nat
  | 0 => 0
  | n + 1 => (m.read a).toNat + 256 * m.readNat (a + 1) n

/-- `n` bytes of `x` stored from `a`, little-endian (R7). -/
def Memory.writeNat (m : Memory) (a : Nat) : Nat → Nat → Memory
  | 0, _ => m
  | n + 1, x => (m.write a (BitVec.ofNat 8 x)).writeNat (a + 1) n (x / 256)

end Sys2Proof
end

