-- ==== Sys2Proof/Machine/State.lean ====
section
/-!
DEFINITION. The state of the device as plain data: every piece of state the spec gives it (INVENTORY.md, State), the reasons
a step can stop, and the state right after reset.
-/

namespace Sys2Proof.Machine

/-- Why the machine stops with a fault: for no reason. Every stop of the spec is a next state that holds the stop's records, and an
access to a place that is absent has the fault or the zeros that the spec gives it. -/
inductive Fault
  deriving DecidableEq, Repr

/-- Why the machine has no meaning for an instruction. -/
inductive Refusal
  /-- An instruction that exec's arm rejects by name. Safe: nothing is claimed of it. -/
  | notModelled (mnemonic : String)
  deriving DecidableEq, Repr

/-- Core, stack-core and pause clocks of a device partition (R9, R160, R491, R493). `phase` and `scPhase` count eighths
of a device clock towards the next core clock and thirty-seconds towards the next stack-core clock. -/
structure Domain where
  clock : Nat
  phase : Nat
  scClock : Nat
  scPhase : Nat
  pause : Nat
  deriving DecidableEq, Repr

/-- What a walk says of the page of an address (R116, R452): placement (3 for host memory), the stack and pseudo-channel of
the cell, the poison-tolerant and snapshot bits, and the virtual and physical 32 KiB granules (R459). -/
structure Page where
  place : Nat
  stack : Nat
  pch : Nat
  ptro : Bool
  snap : Bool
  vgran : Nat
  pgran : Nat
  deriving DecidableEq, Repr

/-- Where a byte lives: a cell of the unified 40-bit space (HBM4E cells below 2^39, host memory above; R116, R452), or a
byte of a group's scratchpad bank. -/
inductive Loc
  | mem (a : Nat) (p : Page)
  | bank (g b off : Nat)
  deriving DecidableEq, Repr

/-- A single-copy atomic unit (R137): a place and a length in bytes. -/
structure MUnit where
  loc : Loc
  n : Nat
  deriving DecidableEq, Repr

/-- One lane's access: its units from the lowest address up, and its first virtual address. -/
structure Acc where
  lane : Nat
  units : List MUnit
  va : Nat
  deriving DecidableEq, Repr

/-- One register write: the lane (its index in the group), the register's code (0-639 v, 640-1,023 s, 1,024 + n for pn),
its value and its format tag (R67). -/
structure RegW where
  lane : Nat
  reg : Nat
  val : Word
  tag : Nat
  deriving DecidableEq, Repr

/-- Where a lane stands (R29): in the frontier, or blocked, or retired. -/
inductive LaneAt
  | live
  | barrier (team : Bool) (n : Nat)
  | grow
  | wsync (mask : BitVec 64)
  | wcut
  | wsplice (tag : Nat) (vd pd : Nat)
  | pool (op : Nat)                 -- the waiting pool of a near-memory call
  | parked (stop : Nat)             -- a parked sub-warp after a translation fault
  | held (op : Nat)                 -- an operation that holds its lanes: absent line, unstarted member, wait
  | retired
  deriving DecidableEq, Repr

/-- A lane (R18, R64, R72 to R75). Unlisted v registers hold 0 with tag b32 (R66). -/
structure Lane where
  pc : BitVec 64
  prio : BitVec 8
  age : Nat
  v : NMap (Word × Nat)
  p : BitVec 7
  fp : BitVec 5
  loops : List Word
  depth : Nat
  key : BitVec 64
  ctr : BitVec 64
  home : Nat                        -- the lane number of its private memory (R114, R169)
  at_ : LaneAt
  unsettled : List (Nat × Nat)      -- register code, and the flag whose wait settles it (0: never; R33)
  solo : Bool                       -- the lane has executed the second member of the pair at its PC, not the first (R203, R458)
  deriving DecidableEq, Repr

/-- Why a whole warp stands still (R419, R441, R465). -/
inductive Halt
  | run
  | draining (code : Nat) (pc : BitVec 64) (lanes : BitVec 64)   -- TRAP or BKPT, until all flags are 0
  | stopped                                                       -- stopped with its record written or due
  | trapping                                                      -- the return trap, until all flags are 0 (R165)
  deriving DecidableEq, Repr

/-- A warp (R19, R32, R49, R76). Its lanes are the group's lanes `lane0` to `lane0 + width - 1`. -/
structure Warp where
  wid : Nat
  part : Nat
  slot : Nat
  slice : Nat
  width : Nat
  lane0 : Nat
  flags : NMap Nat
  j : NMap (BitVec 64)
  link : Option Nat
  links : List (Option Nat)
  last : Option Nat                 -- clock of the last issue
  until_ : Nat                      -- WAIT: issues nothing before this clock (R237)
  yielded : List Nat                -- lanes that yielded in the last issue slot (R237)
  hold : List Nat                   -- operations that hold the warp's issue (R330)
  dirty : NMap Bool                 -- scratchpad words written since the last MFENCE (R158, R330), numbered as in Conv
  unbarred : NMap Nat               -- scratchpad words written since the warp's last barrier (R158): 1, with bit k + 1 once it has
                                    -- arrived at barrier k (16 + k: of the team) without waiting
  halt : Halt
  errSlots : Option Nat             -- issue slots left after a program error (R465)
  deriving DecidableEq, Repr

/-- An allotment (R35). -/
structure Allot where
  v : Nat
  s : Nat
  banks : Nat
  queues : Nat
  tiles : Nat
  ways : Nat
  deriving DecidableEq, Repr

/-- A logical bank (R119, R507): bytes that nothing has written read as 0, or, where the bank came out of cache or FIFO mode
undefined (R120), as the free values of `undef`. -/
structure Bank where
  mode : BankMode
  bytes : NMap (Option Byte)
  undef : Option Nat
  pend : NMap Nat
  deriving DecidableEq, Repr

/-- A tile (R64, R80): element 128 r + c; unlisted elements are +0.0. `wait` is the convergence register of the last MMA on the tile
whose MWAIT is still due (R158). -/
structure Tile where
  tag : Nat
  elems : NMap Word
  wait : Option Nat
  deriving DecidableEq, Repr

/-- The state of a convergence register (R77). -/
inductive ConvAt
  | idle
  | open
  | issued
  deriving DecidableEq, Repr

/-- An MMA that is complete and whose MWAIT is due (R158): its place in issue order, the instruction with its parameter block, and the
scratchpad words written since, numbered as in Conv. -/
structure Past where
  seq : Nat
  instr : Instr
  vals : List Nat
  late : NMap Bool
  deriving DecidableEq, Repr

/-- A convergence register: the declared and the signed warps, the staged or issued MMA, the scratchpad words whose writes R158
does not allow (by group * 2^17 + bank * 2^13 + word), and the MMAs that await their MWAIT. -/
structure Conv where
  st : ConvAt
  declared : List Nat
  signed : List Nat
  staged : Option Nat
  affected : NMap Bool
  past : List Past
  deriving DecidableEq, Repr

/-- A barrier (R307): its phase and the lanes that have arrived, by group and lane. -/
structure Bar where
  phase : Bool
  arrived : List (Nat × Nat)
  deriving DecidableEq, Repr

/-- A plane array (R339, R340): 512 planes per lane. -/
structure Plane where
  mask : BitVec 64
  w : Nat
  lanes : NMap (BitVec 512)
  deriving DecidableEq, Repr

/-- The slices and registers of one warp of a group's shape (R19): partition, slice base, slices and register base. -/
structure Span where
  part : Nat
  slice : Nat
  n : Nat
  base : Nat
  deriving DecidableEq, Repr, Inhabited

/-- Where the record of an evicted group lies in the record pool (R441, R442): its device physical base, its bytes, and
State.stamp when it was written. -/
structure Record where
  base : Nat
  size : Nat
  stamp : Nat
  deriving DecidableEq, Repr

/-- Where a group stands: on a core, on a stack core, waiting to be placed on a core by the return trap (R165), being
evicted, evicted (R441), or retired while other groups of its team still reach its window (R45). -/
inductive Place
  | core (c : Nat)
  | stackCore (sc : Nat)
  | toCore (c : Nat)
  | evicting (c : Nat)
  | evicted
  | left (c : Nat)
  deriving DecidableEq, Repr

/-- What a group is: a grid's group, the block of an NCALL.B (R353), or a gathered warp of an NCALL.L (R168), with the
operation that called it. -/
inductive GroupKind
  | kernel
  | block (op : Nat)
  | gathered (op : Nat)
  deriving DecidableEq, Repr

/-- A group with everything it owns (R64). -/
structure Group where
  gid : Nat
  take : Nat
  kind : GroupKind
  place : Place
  groupId : Nat
  teamRank : Nat
  shapeWarps : Nat
  shapeWidth : Nat
  cut : Nat
  allot : Allot
  full : Bool
  lanes : List Lane
  warps : List Warp
  nextWid : Nat
  spans : List Span                 -- of the warps of the shape, in their order
  s : NMap Word
  swrote : NMap (Option (Nat × Nat))   -- clock of an s register's last write, with the partition and slot of its warp (R71)
  banks : List Bank
  queues : List (List (Word × Nat))
  tiles : List Tile
  convs : List Conv
  guards : NMap (Option Bool)
  bars : List Bar
  plane : Option Plane
  triggered : Bool
  growAt : Option Nat               -- order of the last warp's arrival at GROW (R38)
  order : Nat                       -- order of admission
  callers : List (Nat × Nat)        -- of a gathered warp: caller group and lane of each callee lane
  caller : Nat                      -- of a callee: the calling core
  record : Option Record            -- of an evicted group (R441)
  deriving DecidableEq, Repr

/-- How far an operation in flight has come. -/
inductive OpAt
  | issued                          -- under way
  | held                            -- waits for lines, for team members, or for its word (R121, R41, R305)
  | started                         -- an engine command that has started
  | ready                           -- all its data is done; its arrival is due (R318)
  | delivered                       -- a call whose callees run (R159)
  deriving DecidableEq, Repr

/-- A reply that a callee lane has sent and that has not landed (R171): the caller's lane, the words (undefined where the
callee sent none), the callee's group, and the random counter that is handed back (R169). -/
structure Reply where
  lane : Nat
  words : List (Option Word)
  callee : Nat
  ctr : BitVec 64
  deriving DecidableEq, Repr

/-- An operation in flight (R31 to R33, R289, R319): its instruction, what was read at issue, and its progress. -/
structure Op where
  id : Nat
  seq : Nat                         -- its place in issue order; an operation that was held takes a new one (R121, R458)
  gid : Nat
  wid : Nat                         -- the warp whose flag it decrements
  owners : List Nat                 -- warps in whose issue order it stands (R138)
  flag : Nat
  pc : BitVec 64
  pos : Nat                         -- its place in a pair (R203), as in Issue
  width : Nat
  lanes : List Nat                  -- active lanes, by index in the group, ascending
  instr : Instr
  vals : List Nat                   -- uniform operands read at issue
  lvals : List (Nat × List Nat)     -- per-lane operands read at issue
  accs : List Acc                   -- accesses with their translations
  dsts : List Acc                   -- destination side of a copy
  writes : List RegW                -- register writes at completion
  fp : List (Nat × BitVec 5)        -- FP flags raised (R265)
  due : Option Nat                  -- completion clock of a fixed-latency operation
  ord : Nat                         -- partition and slot (R71)
  at_ : OpAt
  ctr : Nat                         -- points, waves or units done; of a call, 1 once a callee has moved to a core (R167)
  status : Nat
  cause : Nat × Nat × Nat           -- of a status: virtual address, unit path, device physical address (R318, R471)
  badWrite : Bool                   -- the status is that of a write (R420)
  bw : Option (Nat × Nat)           -- barrier word and scope id of the arrival
  after : List Nat                  -- operations that must be performed first (R138, R141, R142)
  replies : List Reply              -- of NCALL.L
  raced : List (Nat × Nat)          -- of a call: cells of its declared ranges that another agent has written, with their bytes (R159)
  early : Bool                      -- a command that read an operand too early: no fault arises from what it read (R31)
  blur : List (Nat × Nat)           -- lanes and registers whose writes a PUSH has made undefined (R255)
  got : List (Nat × Nat × Nat)      -- units that an engine has read ahead of the rest (R137): virtual address, bytes, value
  put : List (Nat × Nat × Nat)      -- units that an engine has still to write (R137)
  deriving DecidableEq, Repr

/-- What kind of stop a handle names (R419, R421). -/
inductive StopKind
  | translation
  | trap
  deriving DecidableEq, Repr

/-- An outstanding stop of a context (R421). -/
structure Stop where
  gid : Nat
  no : Nat
  kind : StopKind
  wid : Nat
  handle : Nat
  deriving DecidableEq, Repr

/-- A trap record (R420). -/
structure TrapRecord where
  code : Nat
  ctx : Nat
  groupId : Nat
  take : Nat
  pc : Nat
  lanes : Nat
  addr : Nat
  core : Nat
  part : Nat
  slot : Nat
  write : Bool
  width : Nat
  retakes : Nat
  clock : Nat
  stop : Option (Nat × Nat)         -- group and STOP of the stop it belongs to; none where HANDLE is 0
  halt : Bool                       -- HANDLE names the whole context
  deriving DecidableEq, Repr

/-- A context (R408, R411 to R414). Unlisted scope entries are 0. -/
structure Ctx where
  id : Nat
  dpart : Nat
  priv : Bool
  dpriv : Bool
  take : BitVec 64
  ptroot : BitVec 64
  debug : Bool
  stop : Bool
  haltDue : Bool                    -- HALT's record is due once every warp has stopped (R419)
  state : Nat
  taint : Bool
  trapring : BitVec 64
  head : BitVec 17
  tail : BitVec 17
  trapsem : BitVec 64
  slate : BitVec 64
  script : BitVec 64
  peertab : BitVec 64
  scopes : NMap (BitVec 128)
  records : List TrapRecord
  stops : List Stop
  deriving DecidableEq, Repr

/-- The slate as read at launch (R433, R434). -/
structure Slate where
  code : Nat
  script : Nat
  scimg : Nat
  nent : Nat
  gridX : Nat
  gridY : Nat
  gridZ : Nat
  warps : Nat
  width : Nat
  cut : Nat
  team : Nat
  sys : Bool
  retake : Bool
  prio : Nat
  pro : Allot
  full : Allot
  seed : BitVec 64
  privBase : Nat
  privSize : Nat
  constSize : Nat
  constBase : Nat
  args : List Word
  scopes : List (BitVec 128)
  wset : List (Nat × Nat)
  flags : List (Nat × Nat)
  deps : List (Nat × Nat × Nat × Nat)
  deriving DecidableEq, Repr

/-- The program error that is ending a take (R465, R466). -/
structure TakeErr where
  code : Nat
  gid : Nat
  wid : Nat
  lanes : List Nat
  addr : Nat
  clock : Nat                           -- the clock of the cause, by the group's clock
  write : Bool                          -- a write failed (R420)
  deriving DecidableEq, Repr

/-- A take (R437, R459 to R462, R474 to R477). -/
structure Take where
  tid : Nat
  ctx : Nat
  number : Nat
  cp : Nat
  queue : Nat
  entry : Nat
  slateAt : Nat
  slate : Slate
  producer : Option Nat
  nextGroup : Nat
  retakes : Nat
  entries : NMap (Option (BitVec 96))   -- script entries read, by place * 1,024 + index (R204)
  flagsSet : List Nat
  triggerDone : Bool
  complete : Bool                       -- the grid has completed (R46)
  taint : List Nat
  sticky : Bool
  marked : List (Nat × Nat)             -- marked virtual granules and their physical granules (R459)
  copies : List (Nat × Nat)             -- copied physical granules, each with the device physical address of its copy (R461)
  uncopied : List Nat                   -- granules that are written without a copy (R462)
  copyDue : List Nat                    -- granules whose copy a write waits for
  unrestorable : Bool
  err : Option TakeErr
  hwErr : Option (Nat × Nat × Nat)      -- hardware error, its unit path and its address (R470)
  stamp : Nat                           -- State.stamp at the start
  atoms : NMap (Option Nat)             -- scope id by which an atomic of the take has touched a location; 1,024 once two ids have (R151)
  laterEntry : Bool                     -- an entry of the queue after its LAUNCH has begun (R476)
  words : NMap Nat                      -- barrier words that BWINIT has set up, as Loc.key / 8 (R154): 1, or 2 once a plain store has met one at rest
  deriving DecidableEq, Repr

/-- A team's barriers (R307). -/
structure Team where
  take : Nat
  team : Nat
  bars : List Bar
  deriving DecidableEq, Repr

/-- A queue's runtime (R430, R447): whether its head entry has begun, and its timer in core clocks (0 while it is not loaded). -/
structure QueueRun where
  begun : Bool
  entry : Nat                           -- the entry that has begun, as read
  wait : Nat                            -- a waiting SEMWAIT: the stamp from which a write of its word counts; a COPY: its units done
  timer : Nat
  expired : Bool                        -- the timer has reached 0
  grids : List Nat                      -- takes launched and not yet completed
  lastGrid : Option Nat                 -- the take of the nearest earlier LAUNCH
  deriving DecidableEq, Repr

/-- A near-memory call that has ended and whose NJOIN or BWWAIT is due (R159): group, rejoin mask or barrier word, and the declared
ranges as in the call's `dsts`. -/
structure Watch where
  gid : Nat
  join : Option Nat
  lanes : List Nat                  -- callers that have not joined yet
  word : Option Nat
  ranges : List Acc
  deriving DecidableEq, Repr

/-- A line held by an L2 slice (R124). -/
structure L2Line where
  data : BitVec 1024
  dirty : Bool
  poison : BitVec 4
  deriving DecidableEq, Repr

/-- A translation in use (R454): of core `c` or of stack core `64 + s`. -/
structure TlbEntry where
  agent : Nat
  ctx : Nat
  vpage : Nat
  level : Nat
  entry : BitVec 64
  deriving DecidableEq, Repr

/-- A pseudo-channel in all-bank mode (R175): registers by bank * 256 + kind * 128 + k * 16 + lane; those that nothing
has written are free values of `undef`. -/
structure Channel where
  stack : Nat
  pch : Nat
  owner : Nat
  undef : Nat
  regs : NMap (Option (BitVec 16))
  deriving DecidableEq, Repr

/-- A firmware image in flash, with what the mask ROM's checks find (R499, R500). -/
structure Image where
  version : Nat
  slot : Nat
  sigOk : Bool
  digestOk : Bool
  digest : List Byte
  deriving DecidableEq, Repr

/-- Fuses and flash, which alone keep state without supply (R496, R498 to R500, R416). `pubs` holds the keys that ENROLL has put
into slots; slot 0 as made holds the maker's. -/
structure Fuses where
  step : BitVec 8
  cores : BitVec 64
  scores : BitVec 64
  stackSet : BitVec 8
  slots : BitVec 8
  ctr : Nat
  pubs : NMap (List Byte)
  primary : Option Image
  recoveryOk : Bool
  recoveryVersion : Nat
  recoveryDigest : List Byte
  deriving DecidableEq, Repr

/-- The issue in progress (R25, R203): group, warp, the entry's lanes, the PC issued and its place in a pair (0 for an instruction
that stands alone). -/
structure Issue where
  gid : Nat
  wid : Nat
  lanes : List Nat
  pc : BitVec 64
  pos : Nat
  script : Bool                         -- reached through a script code (R234)
  deriving DecidableEq, Repr

/-- A use of a dispatch port (R22): agent, partition, slices and the agent's clock. -/
structure Port where
  agent : Nat
  part : Nat
  slice : Nat
  n : Nat
  clock : Nat
  deriving DecidableEq, Repr

/-- The device. -/
structure State where
  counter : Nat                         -- device clock counter at 2.0 GHz (R82)
  domains : List Domain
  turn : Option (List (Nat × Nat))      -- groups and warps that still issue in the present clock; none before its issues (R22)
  ports : List Port                     -- dispatch ports used in the latest clock of each agent
  fresh : Nat                           -- advances with each use of free values
  picks : Nat                           -- advances with each open choice
  inputs : List Instr                   -- what the outside does next
  cur : Option Issue
  todo : List (Instr × Issue)           -- members of a pair still to run in this clock (R203)
  nextOp : Nat
  nextGid : Nat
  nextOrder : Nat
  powered : Bool
  frozen : Bool                         -- the thermal trip has stopped the clocks (R496)
  mode : Nat                            -- SECSTAT.MODE (R498)
  rstrap : Bool
  ostrap : Bool
  nonce : BitVec 64
  fuses : Fuses
  running : Option Image                -- the image that boot has chosen (R500, R502); none for the recovery image
  regs : NMap (BitVec 64)               -- device registers by offset; unlisted ones hold their reset value
  mbox : NMap Byte
  mem : Memory                          -- HBM4E cells below 2^39, host memory above
  veil : NMap Nat                       -- stacks whose cells hold undefined values: one more than the free values that veil them
  poison : NMap Bool                    -- poisoned 32-byte sectors
  stamp : Nat                           -- writes to memory so far, and the last one of each aligned 8 bytes (R115, R180)
  wlog : NMap Nat
  l2 : NMap (Option L2Line)
  l1 : NMap (Option (BitVec 1024))      -- by core * 2^33 + line
  tlb : List TlbEntry
  walkers : List TlbEntry               -- pointer entries that a die's walkers keep (R454): `agent` is the die
  seen : List TlbEntry                  -- leaves that translations without a TLB have used (R117); `agent` is 0
  ctxs : List Ctx
  takeCtr : Nat
  takes : List Take
  teams : List Team
  queues : NMap QueueRun                -- by 16 n + q
  groups : List Group
  ops : List Op
  channels : List Channel
  watches : List Watch
  notes : List Nat                      -- MSI-X vectors raised
  snoops : Nat                          -- host snoops served (R483)
  hostHeld : NMap Bool                  -- lines of device memory that the host may hold (R483)
  backSnoops : Nat                      -- back-invalidate snoops that the host has answered (R483)
  bistRun : Nat                         -- the self-test in progress (R480): 0 for none, else 1, with classes from bit 1 and partitions from bit 11
  winOld : NMap (BitVec 64 × BitVec 64) -- windows written in the present clock, as they were (R488)
  deriving DecidableEq, Repr

/-- The reset value of a device register (R416, R492, R505, R469): 0 where no other is given. -/
def resetReg (off : Nat) : BitVec 64 :=
  if off = 0x43040 ∨ off = 0x43048 then 0xFFFF
  else if off = 0x43050 ∨ off = 0x43058 then 0xFFFFFFFFFFFFFFFF
  else if 0x43000 ≤ off ∧ off < 0x43040 then 7
  else if 0x43060 ≤ off ∧ off < 0x430A0 then 1024
  else 0

/-- A part as it leaves manufacture (R498): every unit passed, slot 0 active, a valid primary image (assumption 5). -/
def Fuses.made : Fuses :=
  ⟨0, 0xFFFFFFFFFFFFFFFF, 0xFFFFFFFFFFFFFFFF, 0xFF, 1, 0, [], some ⟨0, 0, true, true, []⟩, true, 0, []⟩

def Domain.start : Domain := ⟨0, 0, 0, 0, 0⟩

def QueueRun.start : QueueRun := ⟨false, 0, 0, 0, false, [], none⟩

/-- The device when the package supply has risen and bring-up is at stage 0 (R503, R504). -/
def State.reset : State where
  counter := 0
  domains := List.replicate 8 Domain.start
  turn := none
  ports := []
  fresh := 0
  picks := 0
  inputs := []
  cur := none
  todo := []
  nextOp := 1
  nextGid := 0
  nextOrder := 0
  powered := true
  frozen := false
  mode := 0
  rstrap := false
  ostrap := false
  nonce := 0
  fuses := Fuses.made
  running := none
  regs := []
  mbox := []
  mem := []
  veil := []
  poison := []
  stamp := 0
  wlog := []
  l2 := []
  l1 := []
  tlb := []
  walkers := []
  seen := []
  ctxs := []
  takeCtr := 0
  takes := []
  teams := []
  queues := []
  groups := []
  ops := []
  channels := []
  watches := []
  notes := []
  snoops := 0
  hostHeld := []
  backSnoops := 0
  bistRun := 0
  winOld := []

end Sys2Proof.Machine
end

