-- ==== Sys2Proof/Machine/Place.lean ====
section
/-!
DEFINITION. Device registers by offset, where a device physical address lives (R116 to R118, R489), and the walk of the page
tables (R449 to R455, R490).
-/

namespace Sys2Proof.Machine

/-! ### Free values and registers -/

/-- One free value of 64 bits, and the state whose counter has moved past it (R12, assumption 2). -/
def State.draw (s : State) : BitVec 64 × State := (Config.freeWord s.fresh 0, { s with fresh := s.fresh + 1 })

/-- A free choice between two outcomes. -/
def State.coin (s : State) : Bool × State := (Config.freeWord s.fresh 0 == 0, { s with fresh := s.fresh + 1 })

/-- Value `k` of lane `lane` among the free values of the present use (assumption 2). -/
def State.free (s : State) (k lane : Nat) : Nat := (Config.freeWord s.fresh (2 ^ 20 * (k + 1) + lane)).toNat

/-- Moves past the free values in use. -/
def State.renew (s : State) : State := { s with fresh := s.fresh + 1 }

/-- A device register (R415); one that nothing has written holds its reset value. -/
def State.reg (s : State) (off : Nat) : BitVec 64 := NMap.get (resetReg off) s.regs off

def State.setReg (s : State) (off : Nat) (v : BitVec 64) : State :=
  { s with regs := NMap.put (resetReg off) s.regs off v }

def State.regN (s : State) (off : Nat) : Nat := (s.reg off).toNat

/-- A field of a register (R7). -/
def State.field (s : State) (off a n : Nat) : Nat := slice (s.regN off) a n

/-- A number with the `n` bits from `a` upward replaced. -/
def setBits (x a n v : Nat) : Nat := x - slice x a n * 2 ^ a + v % 2 ^ n * 2 ^ a

def State.setField (s : State) (off a n v : Nat) : State :=
  s.setReg off (BitVec.ofNat 64 (setBits (s.regN off) a n v))

/-- The bring-up stage (R504). -/
def State.stage (s : State) : Nat := s.field 0x45028 0 4

/-- Whether a stack failed training (R504). -/
def State.stackFailed (s : State) (m : Nat) : Bool := bitAt (s.field 0x45028 8 8) m

/-- The device partition of stack `m` (R489); 8 where the stack is assigned to none. -/
def State.dpart (s : State) (m : Nat) : Nat := if s.stackFailed m then 8 else s.field 0x42000 (3 * m) 3

/-- Cores 8m to 8m + 7 come with stack m (R3, R489). -/
def State.dpartOfCore (s : State) (c : Nat) : Nat := s.dpart (c / 8)

def State.dpartOfSc (s : State) (sc : Nat) : Nat := s.dpart (sc / 8)

/-- The stacks of a device partition. -/
def State.stacksOf (s : State) (p : Nat) : List Nat := (List.range 8).filter fun m => s.dpart m == p

/-- Whether a stack is in a device partition of fewer than eight stacks (R490). -/
def State.isSplit (s : State) (p : Nat) : Bool := (s.stacksOf p).length < 8

/-- The core whose banks a group holds: its own, or the one it has left while its team goes on (R45). -/
def Place.bankCore : Place → Option Nat
  | .core c => some c
  | .evicting c => some c
  | .left c => some c
  | _ => none

def Place.isLeft : Place → Bool
  | .left _ => true
  | _ => false

/-- Whether a group stands on a core or stack core, and neither leaves it nor has left it. -/
def Group.inPlace (g : Group) : Bool := match g.place with
  | .core _ | .stackCore _ => true
  | _ => false

/-! ### Cells -/

/-- The cell of HBM4E with stack `m`, pseudo-channel `c` and channel offset `o`. -/
def cellAt (m c o : Nat) : Nat := m * 2 ^ 36 + c * 2 ^ 30 + o

/-- The cell that a device physical address names under a placement (R116). -/
def cellOf (place a : Nat) : Nat :=
  match place with
  | 0 => cellAt (slice a 10 3) (slice a 13 6) (slice a 0 10 + 1024 * slice a 19 20)
  | 1 => cellAt (slice a 36 3) (slice a 9 6) (slice a 0 9 + 512 * slice a 15 21)
  | _ => cellAt (slice a 36 3) (slice a 30 6) (slice a 0 30)

/-- The device physical address that names a cell under a placement: the inverse of `cellOf`, which is one to one (R117). -/
def physAt (place c : Nat) : Nat :=
  match place with
  | 0 => slice c 0 10 + 2 ^ 10 * slice c 36 3 + 2 ^ 13 * slice c 30 6 + 2 ^ 19 * slice c 10 20
  | 1 => slice c 0 9 + 2 ^ 9 * slice c 30 6 + 2 ^ 15 * slice c 9 21 + 2 ^ 36 * slice c 36 3
  | _ => c

def cellStack (a : Nat) : Nat := slice a 36 3
def cellPch (a : Nat) : Nat := slice a 30 6

/-- The home L2 slice of a cell's line (R118). -/
def homeSlice (a : Nat) : Nat := 8 * cellStack a + (cellPch a + slice a 7 3) % 8

/-- Host memory lies at and above 2^39 of the unified space (R116, R452). -/
def isHost (a : Nat) : Bool := decide (2 ^ 39 ≤ a)

/-- The unit path word (R471). -/
def unitPath (kind a b c d : Nat) : Nat := kind + 16 * a + 1024 * b + 65536 * c + 2 ^ 32 * d

/-- Unit path of the storage behind a cell (R471): the HBM4E row and bank, or the host link. -/
def cellPath (a : Nat) : Nat :=
  if isHost a then unitPath 8 0 0 0 0
  else unitPath 4 (cellStack a) (cellPch a) (slice a 15 15) (slice a 11 4)

/-- The device physical address behind a cell of a page (R470). -/
def Page.phys (pg : Page) (a : Nat) : Nat := physAt pg.place a

def lineOf (a : Nat) : Nat := a / 128
def sectorOf (a : Nat) : Nat := a / 32

/-! ### Bytes of cells -/

/-- `n` free bytes from `a` (R12). -/
def veilBytes (k a : Nat) : Nat → Nat
  | 0 => 0
  | n + 1 => (Config.freeWord k a).toNat % 256 + 256 * veilBytes k (a + 1) n

/-- What the undefined contents of a stack lay over the stored bytes (R480, R503): nothing where the contents are defined. -/
def State.veilOf (s : State) (a n : Nat) : Nat :=
  if isHost a then 0
  else match NMap.get 0 s.veil (cellStack a) with
    | 0 => 0
    | k + 1 => veilBytes k a n

/-- `n` bytes of cells, little-endian; what nothing has written since the contents became undefined is a free value. -/
def State.cells (s : State) (a n : Nat) : Nat :=
  match s.veil with
  | [] => s.mem.readNat a n
  | _ => s.mem.readNat a n ^^^ s.veilOf a n

/-- Stores `n` bytes into cells. -/
def State.setCells (s : State) (a n x : Nat) : State :=
  { s with mem := s.mem.writeNat a n (match s.veil with
    | [] => x
    | _ => x ^^^ s.veilOf a n) }

/-! ### The coherent view of a table or a line -/

/-- Bytes as the home slice has them: the L2 line where one stands, HBM4E otherwise (R124). -/
def State.peekByte (s : State) (a : Nat) : Byte :=
  match NMap.get none s.l2 (lineOf a) with
  | none => BitVec.ofNat 8 (s.cells a 1)
  | some l => BitVec.ofNat 8 (l.data.toNat / 2 ^ (8 * (a % 128)))

def State.peek (s : State) (a : Nat) : Nat → Nat
  | 0 => 0
  | n + 1 => (s.peekByte a).toNat + 256 * s.peek (a + 1) n

/-- Whether a sector is poisoned, where it stands: in its L2 line or in HBM4E (R130). -/
def State.poisonAt (s : State) (a : Nat) : Bool :=
  match NMap.get none s.l2 (lineOf a) with
  | none => NMap.get false s.poison (sectorOf a)
  | some l => bitAt l.poison.toNat (sectorOf a % 4)

/-- Whether a sector is poisoned as an agent sees it: in HBM4E beneath the L2 (R125), else where it stands. -/
def State.poisonFor (s : State) (below : Bool) (a : Nat) : Bool :=
  if below then NMap.get false s.poison (sectorOf a) else s.poisonAt a

/-- Whether any sector of a line is poisoned where the line stands. -/
def State.linePoisoned (s : State) (line : Nat) : Bool := (List.range 4).any fun i => s.poisonAt (128 * line + 32 * i)

/-! ### Walks -/

/-- Kinds of access that a walk distinguishes (R453). -/
inductive AccKind
  | read | write | fetch
  deriving DecidableEq, Repr

def AccKind.code : AccKind → Nat
  | .read => 0 | .write => 1 | .fetch => 2

/-- Where the bits that level `l` indexes begin, and how many there are (R449). -/
def indexLow (l : Nat) : Nat := match l with | 0 => 39 | 1 => 27 | 2 => 21 | _ => 15
def indexBits (l : Nat) : Nat := match l with | 0 => 13 | 1 => 12 | _ => 6

/-- Bytes of a table at level `l`, as a power of two (R449). -/
def tableBits (l : Nat) : Nat := match l with | 0 => 16 | 1 => 15 | _ => 9

/-- A leaf that R452 forbids: reserved bits, an odd placement or permission, or a page not aligned to its size. -/
def badLeaf (lvl e : Nat) : Bool :=
  bitAt e 8 || slice e 40 12 != 0 || slice e 6 2 == 3 || (bitAt e 5 && bitAt e 2) ||
  (bitAt e 39 && slice e 6 2 != 0) || slice (slice e 9 30 * 512) 0 (indexLow lvl) != 0

/-- A pointer that R452 forbids: reserved bits, a table beyond HBM4E or not aligned to its size. -/
def badPointer (lvl e : Nat) : Bool :=
  slice e 2 6 != 0 || slice e 39 1 != 0 || bitAt e 8 || slice e 40 12 != 0 ||
  slice (slice e 9 30 * 512) 0 (tableBits (lvl + 1)) != 0

/-- A leaf found by a walk: its level and entry. -/
structure Leaf where
  lvl : Nat
  e : Nat
  deriving DecidableEq, Repr

/-- Whether a walk may read a table at device physical address `t` for device partition `p` (R451). -/
def State.tableOk (s : State) (p t : Nat) : Bool := s.dpart (slice t 36 3) == p && t < 2 ^ 39

/-- The device physical address of the entry that a walk reads in the level-`lvl` table at `t`. -/
def entryAt (va lvl t : Nat) : Nat := t + 8 * slice va (indexLow lvl) (indexBits lvl)

/-- The entry of the level-`lvl` table at `t` as a walk reads it, and whether it is a leaf (R453). Poison at an entry is code 0x3110. -/
def State.tableEntry (s : State) (p va kind lvl t : Nat) : Except Nat (Nat × Bool) :=
  if !s.tableOk p t then .error 0x1220
  else
    let a := cellOf 1 (entryAt va lvl t)
    if s.poisonAt a then .error 0x3110
    else
      let e := s.peek a 8
      if !bitAt e 0 then .error (0x1200 + kind)
      else if lvl = 3 ∨ (lvl ≠ 0 ∧ bitAt e 1) then
        if (lvl = 3 ∧ !bitAt e 1) || badLeaf lvl e then .error 0x1220 else .ok (e, true)
      else if bitAt e 1 || badPointer lvl e then .error 0x1220
      else .ok (e, false)

/-- The pointer entry that a die's walkers keep for an address at a level (R454). -/
def State.pointerKept (s : State) (die ctx va lvl : Nat) : Option TlbEntry :=
  s.walkers.find? fun t => t.agent == die && t.ctx == ctx && t.level == lvl && t.vpage == va / 2 ^ indexLow lvl

/-- The walk of R453 as far as the leaf, with the pointer entries on its way; `fuel` levels remain. A failure comes with the device
physical address of the entry at which it stands. Where the walkers keep a pointer that the tables no longer hold, which of the two serves
is a free choice (R455). -/
def State.walkFrom (s : State) (die ctx p va kind : Nat) : Nat → Nat → Nat → List TlbEntry × Except (Nat × Nat) Leaf
  | 0, _, t => ([], .error (0x1220, t))
  | fuel + 1, lvl, t =>
    let new := s.tableEntry p va kind lvl t
    let r : Except Nat (Nat × Bool) := match s.pointerKept die ctx va lvl with
      | none => new
      | some k =>
        let old := Except.ok (k.entry.toNat, false)
        if new = old || bitAt (s.free 603 (4 * (va / 2 ^ 15 % 2 ^ 16) + lvl)) 0 then new else old
    match r with
    | .error c => ([], .error (c, entryAt va lvl t))
    | .ok (e, true) => ([], .ok ⟨lvl, e⟩)
    | .ok (e, false) =>
      let q := s.walkFrom die ctx p va kind fuel (lvl + 1) (slice e 9 30 * 512)
      (⟨die, ctx, va / 2 ^ indexLow lvl, lvl, BitVec.ofNat 64 e⟩ :: q.1, q.2)

def State.findCtx (s : State) (c : Nat) : Option Ctx := s.ctxs.find? fun x => x.id == c

/-- A translated address: the unified address and its page. -/
structure Trans where
  a : Nat
  pg : Page
  deriving DecidableEq, Repr

/-- Permissions and the physical address of a leaf (R453, R490). -/
def State.finish (s : State) (p va : Nat) (k : AccKind) (l : Leaf) : Except Nat Trans :=
  let place := slice l.e 6 2
  let host := bitAt l.e 39
  let pa := slice l.e 9 30 * 512 + slice va 0 (indexLow l.lvl)
  let a := if host then 2 ^ 39 + pa else cellOf place pa
  if !host && s.isSplit p && (place == 0 || s.dpart (slice pa 36 3) != p) then .error 0x1220
  else if k = .write ∧ !bitAt l.e 2 then .error 0x1210
  else if k = .fetch ∧ !bitAt l.e 3 then .error 0x1211
  else .ok ⟨a, ⟨if host then 3 else place, cellStack a, cellPch a, bitAt l.e 5, bitAt l.e 4, va / 2 ^ 15,
    (if host then 2 ^ 39 + pa else pa) / 2 ^ 15⟩⟩

/-- The die whose walkers serve a core or stack core, and a device partition's command processors (R454). -/
def dieOf (agent : Nat) : Nat := if agent < 64 then agent / 32 else (agent - 64) / 32
def State.dieOfPart (s : State) (p : Nat) : Nat := if (s.stacksOf p).all fun m => m < 4 then 0 else 1

/-- A walk in a context by the walkers of a die (R453): the pointer entries on its way, and the leaf. -/
def State.walk (s : State) (die ctx va : Nat) (k : AccKind) : List TlbEntry × Except (Nat × Nat) Leaf :=
  match s.findCtx ctx with
  | none => ([], .error (0x1220, 0))
  | some c => s.walkFrom die ctx c.dpart va k.code 4 0 (slice c.ptroot.toNat 16 23 * 2 ^ 16)

/-- The walkers keep the pointer entries of a walk (R454). -/
def State.keepPointers (s : State) (ps : List TlbEntry) : State :=
  { s with walkers := ps ++ s.walkers.filter fun t =>
      !(ps.any fun p => p.agent == t.agent && p.ctx == t.ctx && p.level == t.level && p.vpage == t.vpage) }

/-- A translation without a TLB: the walkers of the command processors and of the peer side (R454). -/
def State.translateFresh (s : State) (ctx va : Nat) (k : AccKind) : Except Nat Trans :=
  match (s.walk (s.dieOfPart ((s.findCtx ctx).elim 8 Ctx.dpart)) ctx va k).2 with
  | .error e => .error e.1
  | .ok l => s.finish ((s.findCtx ctx).elim 8 Ctx.dpart) va k l

/-- A leaf as a translation of a context used it. -/
def Leaf.entry (l : Leaf) (agent ctx va : Nat) : TlbEntry := ⟨agent, ctx, va / 2 ^ indexLow l.lvl, l.lvl, BitVec.ofNat 64 l.e⟩

/-- Notes a leaf that a translation has used (R117). -/
def State.noteLeaf (s : State) (ctx va : Nat) (l : Leaf) : State :=
  if s.seen.contains (l.entry 0 ctx va) then s else { s with seen := l.entry 0 ctx va :: s.seen }

/-- What a translation without a TLB leaves: the walkers keep the pointer entries of its walk (R454), and its leaf has been used. -/
def State.keepFresh (s : State) (ctx va : Nat) (k : AccKind) : State :=
  let p := (s.findCtx ctx).elim 8 Ctx.dpart
  let r := s.walk (s.dieOfPart p) ctx va k
  match r.2 with
  | .error _ => s.keepPointers r.1
  | .ok l => match s.finish p va k l with
    | .error _ => s.keepPointers r.1
    | .ok _ => (s.keepPointers r.1).noteLeaf ctx va l

/-- A cached entry that covers the address (R454). -/
def State.tlbHit (s : State) (agent ctx va : Nat) : Option TlbEntry :=
  s.tlb.find? fun t => t.agent == agent && t.ctx == ctx && t.vpage == va / 2 ^ indexLow t.level

/-- Whether a leaf maps a cell through another placement than `place`. -/
def TlbEntry.mapsTwice (t : TlbEntry) (place a : Nat) : Bool :=
  let e := t.entry.toNat
  let n := indexLow t.level
  !bitAt e 39 && slice e 6 2 != place && physAt (slice e 6 2) a / 2 ^ n == slice e 9 30 * 512 / 2 ^ n

/-- Whether the tables still hold a leaf that a translation has used. -/
def State.mapped (s : State) (t : TlbEntry) : Bool :=
  match (s.walk (s.dieOfPart ((s.findCtx t.ctx).elim 8 Ctx.dpart)) t.ctx (t.vpage * 2 ^ indexLow t.level) .read).2 with
  | .ok l => l.entry t.agent t.ctx (t.vpage * 2 ^ indexLow t.level) == t
  | .error _ => false

/-- Whether a cell is mapped through another placement than `place` (R117), by a translation in use or by a leaf in the tables that a
translation of any agent has used (assumption 59). -/
def State.mappedTwice (s : State) (place a : Nat) : Bool :=
  !isHost a && ((s.tlb.any fun t => t.mapsTwice place a) || s.seen.any fun t => t.mapsTwice place a && s.mapped t)

/-- A translation by an agent with a TLB. An entry in use that the tables no longer hold may still serve (R455): the choice
is free. A walk that fails is not cached, but for the pointers on its way; nor is a leaf that fails the checks after the walk (R454). -/
def State.translate (s : State) (agent ctx va : Nat) (k : AccKind) : State × Except Nat Trans :=
  let p := (s.findCtx ctx).elim 8 Ctx.dpart
  let r := s.walk (dieOf agent) ctx va k
  match s.tlbHit agent ctx va, r.2 with
  | none, .error e => (s.keepPointers r.1, .error e.1)
  | none, .ok l => match s.finish p va k l with
    | .error c => (s.keepPointers r.1, .error c)
    | .ok t => ({ (s.keepPointers r.1).noteLeaf ctx va l with tlb := l.entry agent ctx va :: s.tlb }, .ok t)
  | some t, w =>
    if w = .ok ⟨t.level, t.entry.toNat⟩ then (s, s.finish p va k ⟨t.level, t.entry.toNat⟩)
    else
      let (old, s') := s.coin
      if old then (s', s.finish p va k ⟨t.level, t.entry.toNat⟩)
      else match w with
        | .error e => (s', .error e.1)
        | .ok l => (s', s.finish p va k l)

/-- The device physical address of the poisoned entry that a translation met (R453, R470). -/
def State.badEntry (s : State) (die ctx va : Nat) : Nat :=
  match (s.walk die ctx va .read).2 with
  | .error e => e.2
  | .ok _ => 0

end Sys2Proof.Machine
end

