-- ==== Sys2Proof/Machine/Mem.lean ====
section
/-!
DEFINITION. Reading and writing bytes: the L2 slices, the L1 of each core, HBM4E beneath them, poison, and the banks of the
scratchpad (R119 to R132, R139, R149). Which lines a cache holds is open (R123); a line that may have left is asked for
with a free choice each time it matters (assumption 7).
-/

namespace Sys2Proof.Machine

/-! ### HBM4E and the L2 -/

/-- A line's bytes in HBM4E as one number. -/
def State.lineBelow (s : State) (line : Nat) : Nat := s.cells (128 * line) 128

/-- The poison bits of a line's sectors in HBM4E. -/
def State.poisonBelow (s : State) (line : Nat) : Nat :=
  bit (NMap.get false s.poison (4 * line)) + 2 * bit (NMap.get false s.poison (4 * line + 1)) +
  4 * bit (NMap.get false s.poison (4 * line + 2)) + 8 * bit (NMap.get false s.poison (4 * line + 3))

/-- Sets the poison bit of a sector in HBM4E. -/
def State.setPoisonBelow (s : State) (sec : Nat) (b : Bool) : State :=
  { s with poison := NMap.put false s.poison sec b }

/-- Writes a dirty line back, poison with it (R130), and keeps it clean. -/
def State.cleanLine (s : State) (line : Nat) : State :=
  match NMap.get none s.l2 line with
  | some l =>
    if l.dirty then
      { s.setCells (128 * line) 128 l.data.toNat with
        poison := NMap.putAll false s.poison ((List.range 4).map fun i => (4 * line + i, bitAt l.poison.toNat i))
        l2 := NMap.put none s.l2 line (some { l with dirty := false }) }
    else s
  | none => s

/-- Drops a line without write-back (R299). -/
def State.dropLine (s : State) (line : Nat) : State := { s with l2 := NMap.put none s.l2 line none }

/-- Writes a line back, if dirty, and drops it. -/
def State.evictLine (s : State) (line : Nat) : State := (s.cleanLine line).dropLine line

/-- Whether a line of the L2 holds just what HBM4E holds, so that nothing shows whether it has left. -/
def State.asBelow (s : State) (line : Nat) (l : L2Line) : Bool :=
  !l.dirty && l.data == BitVec.ofNat 1024 (s.lineBelow line) && l.poison == BitVec.ofNat 4 (s.poisonBelow line)

/-- A line that stands in the L2 may have been evicted by now (R123, R127): a free choice, where it can show. -/
def State.touchLine (s : State) (line : Nat) : State :=
  match NMap.get none s.l2 line with
  | none => s
  | some l =>
    if s.asBelow line l then s
    else let (gone, s') := s.coin; if gone then s'.evictLine line else s'

/-- Brings a line into the L2. -/
def State.fillLine (s : State) (line : Nat) : State :=
  match NMap.get none s.l2 line with
  | some _ => s
  | none => { s with l2 := NMap.put none s.l2 line (some
      ⟨BitVec.ofNat 1024 (s.lineBelow line), false, BitVec.ofNat 4 (s.poisonBelow line)⟩) }

/-- A read at the home slice (R124), of host memory too, whose lines the slice holds under ownership (R139, R483): the value and whether
its sector is poisoned. -/
def State.readHome (s : State) (a n : Nat) : State × Nat × Bool :=
  let s' := (s.touchLine (lineOf a)).fillLine (lineOf a)
  (s', s'.peek a n, s'.poisonAt a)

/-- Notes that a sector has been written (R115). -/
def State.noteWrite (s : State) (a n : Nat) : State :=
  { s with
    stamp := s.stamp + 1
    wlog := NMap.putAll 0 s.wlog ((List.range ((a + n + 7) / 8 - a / 8)).map fun i => (a / 8 + i, s.stamp + 1)) }

/-- The stamp of the last write of the aligned 8 bytes around a cell, and of the 32-byte sector. -/
def State.wordStamp (s : State) (a : Nat) : Nat := NMap.get 0 s.wlog (a / 8)
def State.sectorStamp (s : State) (a : Nat) : Nat := (List.range 4).foldl (fun m i => max m (s.wordStamp (a / 32 * 32 + 8 * i))) 0

/-- A home slice that serves a device's write of a line that the host may hold has the host give it up first (R483). -/
def State.backInvalidate (s : State) (line : Nat) : State :=
  if NMap.get false s.hostHeld line then { s with hostHeld := NMap.put false s.hostHeld line false, backSnoops := s.backSnoops + 1 } else s

/-- A write at the home slice (R139), of host memory too (R483). -/
def State.writeHome (s : State) (a n v : Nat) : State :=
  let s := (s.noteWrite a n).backInvalidate (lineOf a)
  let s' := (s.touchLine (lineOf a)).fillLine (lineOf a)
  match NMap.get none s'.l2 (lineOf a) with
  | none => s'
  | some l =>
    let d := BitVec.ofNat 1024 (setBits l.data.toNat (8 * (a % 128)) (8 * n) v)
    { s' with l2 := NMap.put none s'.l2 (lineOf a) (some { l with data := d, dirty := true }) }

/-- A read beneath the L2 (R125): a dirty line above may have been written back before. -/
def State.readBelow (s : State) (a n : Nat) : State × Nat × Bool :=
  let s' := s.touchLine (lineOf a)
  (s', s'.cells a n, NMap.get false s'.poison (sectorOf a))

/-- A write beneath the L2 (R125). -/
def State.writeBelow (s : State) (a n v : Nat) : State :=
  let s' := (s.noteWrite a n).touchLine (lineOf a)
  s'.setCells a n v

/-- Sets or clears a sector's poison where the sector stands (R130, R131). -/
def State.setPoison (s : State) (a : Nat) (b : Bool) : State :=
  match NMap.get none s.l2 (lineOf a) with
  | none => s.setPoisonBelow (sectorOf a) b
  | some l => { s with l2 := NMap.put none s.l2 (lineOf a) (some { l with poison := BitVec.ofNat 4 (setBits l.poison.toNat (sectorOf a % 4) 1 (bit b)) }) }

/-- Sets or clears a sector's poison as an agent sees the sector (R125, R131). -/
def State.setPoisonFor (s : State) (below : Bool) (a : Nat) (b : Bool) : State :=
  if below then s.setPoisonBelow (sectorOf a) b else s.setPoison a b

/-- Clears the poison of every sector whose 32 bytes a store has all written, where the store went (R131). -/
def State.clearCovered (s : State) (below : Bool) (spans : List (Nat × Nat)) : State :=
  let secs := (spans.map fun p => sectorOf p.1).eraseDups.filter fun k => s.poisonFor below (32 * k)
  secs.foldl (fun s k =>
    if (List.range 32).all (fun i => spans.any fun p => p.1 ≤ 32 * k + i && 32 * k + i < p.1 + p.2)
    then s.setPoisonFor below (32 * k) false else s) s

/-! ### The L1 of a core (R123) -/

def l1Key (c line : Nat) : Nat := c * 2 ^ 33 + line

/-- Every line of the L1 of core `c` is dropped (R142). -/
def State.invalidateL1 (s : State) (c : Nat) : State :=
  { s with l1 := s.l1.filter fun e => e.1 / 2 ^ 33 != c }

def State.dropL1 (s : State) (c line : Nat) : State := { s with l1 := NMap.put none s.l1 (l1Key c line) none }

/-- Banks of core `c` that its groups hold in scratchpad or FIFO mode (R119). -/
def State.banksHeld (s : State) (c : Nat) : Nat :=
  ((s.groups.filter fun g => g.place.bankCore == some c).map fun g => (g.banks.filter fun b => b.mode != .lent).length).sum

/-- Whether the core has a cache-way bank (R119). -/
def State.hasL1 (s : State) (c : Nat) : Bool := s.banksHeld c < 12

/-- The L1 of a core whose last cache-way bank has gone holds nothing (R120). -/
def State.trimL1 (s : State) (c : Nat) : State := if s.hasL1 c then s else s.invalidateL1 c

/-- Whether a copy of a line holds just what the home slice holds, unpoisoned, so that nothing shows which of them serves a load. -/
def State.asHome (s : State) (line : Nat) (d : BitVec 1024) : Bool :=
  d == BitVec.ofNat 1024 (s.peek (128 * line) 128) && !s.linePoisoned line

/-- A load by a lane of core `c` (R123): from a copy in L1 where one stands and is taken, else from the home slice, leaving a
copy unless the hint forbids it. The third result is whether a poisoned sector was consumed. A fill of a line with another poisoned
sector is itself a consumption (R130); whether the load fills then is a free choice (assumption 7), and on a poison-tolerant page
(`tol`) it does not (R132). -/
def State.readCore (s : State) (c a n hint : Nat) (tol : Bool) : State × Nat × Bool :=
  let s := s.trimL1 c
  match NMap.get none s.l1 (l1Key c (lineOf a)) with
  | some d =>
    let (stay, s) := if s.asHome (lineOf a) d then (true, s) else s.coin
    if stay then (s, slice d.toNat (8 * (a % 128)) (8 * n), false)
    else (s.dropL1 c (lineOf a)).readHome a n
  | none =>
    let (s, v, bad) := s.readHome a n
    if bad || hint == 3 || !s.hasL1 c then (s, v, bad)
    else if s.linePoisoned (lineOf a) then (if tol then (s, v, false) else ((s.coin).2, v, (s.coin).1))
    else
      let d := s.peek (128 * lineOf a) 128
      ({ s with l1 := NMap.put none s.l1 (l1Key c (lineOf a)) (some (BitVec.ofNat 1024 d)) }, v, bad)

/-- A store by a lane of core `c`: written through, updating a copy that the core's L1 holds (R123). -/
def State.writeCore (s : State) (c a n v : Nat) : State :=
  let s := match NMap.get none s.l1 (l1Key c (lineOf a)) with
    | none => s
    | some d =>
      let d' := BitVec.ofNat 1024 (setBits d.toNat (8 * (a % 128)) (8 * n) v)
      { s with l1 := NMap.put none s.l1 (l1Key c (lineOf a)) (some d') }
  s.writeHome a n v

/-! ### Banks (R119, R120) -/

/-- A byte of a bank; an undefined byte is a free value. -/
def Bank.byte (b : Bank) (off : Nat) : Byte :=
  match NMap.get none b.bytes off, b.undef with
  | some x, _ => x
  | none, none => 0
  | none, some k => BitVec.ofNat 8 (Config.freeWord k off).toNat

def Bank.readNat (b : Bank) (off : Nat) : Nat → Nat
  | 0 => 0
  | n + 1 => (b.byte off).toNat + 256 * b.readNat (off + 1) n

def Bank.writeNat (b : Bank) (off : Nat) : Nat → Nat → Bank
  | 0, _ => b
  | n + 1, x => Bank.writeNat { b with bytes := NMap.put none b.bytes off (some (BitVec.ofNat 8 x)) } (off + 1) n (x / 256)

/-- A line is present when its pending count is 0 (R121). -/
def Bank.present (b : Bank) (off : Nat) : Bool := NMap.get 0 b.pend (off / 128) == 0

def Bank.pending (b : Bank) (line : Nat) : Nat := NMap.get 0 b.pend line

def Bank.addPending (b : Bank) (line : Nat) : Bank := { b with pend := NMap.put 0 b.pend line (b.pending line + 1) }

def Bank.subPending (b : Bank) (line : Nat) : Bank := { b with pend := NMap.put 0 b.pend line (b.pending line - 1) }

/-- A bank in scratchpad mode that reads as zeros with every line present (R37). -/
def Bank.zero : Bank := ⟨.sp, [], none, []⟩

end Sys2Proof.Machine
end

