-- ==== Sys2Proof/Machine/Ops.lean ====
section
/-!
DEFINITION. The shared operations of the meanings: finding and changing a group, a warp, a lane, a take or a context; the
lanes that an issued word acts on; reading and writing registers; operations in flight; and taking every kind of stop
(R419, R456, R464 to R467, R474), with the return from one (R423).
-/

namespace Sys2Proof.Machine

/-! ### Groups, warps, lanes, takes, contexts -/

def Lane.none : Lane := ⟨0, 0, 0, [], 0, 0, [], 0, 0, 0, 0, .retired, [], false⟩

def State.findGroup (s : State) (gid : Nat) : Option Group := s.groups.find? fun g => g.gid == gid

def State.modGroup (s : State) (gid : Nat) (f : Group → Group) : State :=
  { s with groups := s.groups.map fun g => if g.gid == gid then f g else g }

def Group.findWarp (g : Group) (wid : Nat) : Option Warp := g.warps.find? fun w => w.wid == wid

def Group.modWarp (g : Group) (wid : Nat) (f : Warp → Warp) : Group :=
  { g with warps := g.warps.map fun w => if w.wid == wid then f w else w }

def Group.lane (g : Group) (i : Nat) : Lane := g.lanes.getD i Lane.none

def Group.modLane (g : Group) (i : Nat) (f : Lane → Lane) : Group := { g with lanes := g.lanes.modify i f }

/-- Changes each of the listed lanes. -/
def Group.modLanes (g : Group) : List Nat → (Nat → Lane → Lane) → Group
  | [], _ => g
  | i :: is, f => (g.modLane i (f i)).modLanes is f

def State.modWarp (s : State) (gid wid : Nat) (f : Warp → Warp) : State := s.modGroup gid fun g => g.modWarp wid f

def State.modLanes (s : State) (gid : Nat) (ls : List Nat) (f : Nat → Lane → Lane) : State :=
  s.modGroup gid fun g => g.modLanes ls f

def State.findTake (s : State) (tid : Nat) : Option Take := s.takes.find? fun t => t.tid == tid

def State.modTake (s : State) (tid : Nat) (f : Take → Take) : State :=
  { s with takes := s.takes.map fun t => if t.tid == tid then f t else t }

def State.modCtx (s : State) (id : Nat) (f : Ctx → Ctx) : State :=
  { s with ctxs := s.ctxs.map fun c => if c.id == id then f c else c }

/-- The take that a group belongs to. -/
def State.takeOf (s : State) (g : Group) : Option Take := s.findTake g.take

/-- The number of the context in which a group runs. -/
def State.ctxOf (s : State) (g : Group) : Nat := (s.takeOf g).elim 0 Take.ctx

/-- The group indices of a warp's lanes. -/
def Warp.lanes (w : Warp) : List Nat := (List.range w.width).map fun i => w.lane0 + i

/-- CORE of R81: the core, or 64 + the stack core. -/
def Place.agent : Place → Nat
  | .core c => c
  | .stackCore k => 64 + k
  | .toCore c => c
  | .evicting c => c
  | .evicted => 128
  | .left c => c

def Group.agent (g : Group) : Nat := g.place.agent

def Group.onStack (g : Group) : Bool := match g.place with
  | .stackCore _ => true
  | _ => false

/-- The stack whose stack core runs the group. -/
def Group.stackNo (g : Group) : Nat := (g.agent - 64) / 8

/-- The device partition of a core or stack core (R489). -/
def State.domainOf (s : State) (agent : Nat) : Nat :=
  if agent < 64 then s.dpartOfCore agent else s.dpartOfSc (agent - 64)

/-- The clock that counts a group's latencies: core clocks, or stack-core clocks (R160, R225). -/
def State.now (s : State) (g : Group) : Nat :=
  let d := s.domains.getD (s.domainOf g.agent) Domain.start
  if g.onStack then d.scClock else d.clock

/-! ### Registers -/

def Group.readV (g : Group) (lane n : Nat) : Word × Nat := NMap.get (0, 0) (g.lane lane).v n

def Group.readS (g : Group) (n : Nat) : Word := NMap.get 0 g.s n

/-- A register by its code; an s register reads with tag b32 (R70). -/
def Group.readCode (g : Group) (lane code : Nat) : Word × Nat :=
  if code < 640 then g.readV lane code else (g.readS (code - 640), 0)

/-- A predicate; p7 reads true (R72). -/
def Group.readP (g : Group) (lane n : Nat) : Bool := n == 7 || bitAt (g.lane lane).p.toNat n

/-- The codes of predicates as destinations. -/
def predCode (n : Nat) : Nat := 1024 + n

/-- One register write: a v register with its tag (R68), an s register (R70), or a predicate, of which p7 takes no write
(R72). -/
def Group.write (g : Group) (w : RegW) : Group :=
  if w.reg < 640 then g.modLane w.lane fun l => { l with v := NMap.put (0, 0) l.v w.reg (w.val, w.tag) }
  else if w.reg < 1024 then { g with s := NMap.put 0 g.s (w.reg - 640) w.val }
  else if w.reg < 1031 then
    g.modLane w.lane fun l => { l with p := BitVec.ofNat 7 (setBits l.p.toNat (w.reg - 1024) 1 w.val.toNat) }
  else g

def Group.writes (g : Group) (ws : List RegW) : Group := ws.foldl Group.write g

/-- Whether lane `lane` still waits for a write of its own to this register (R31, R33). -/
def State.hazard (s : State) (g : Group) (lane code : Nat) : Bool :=
  (s.ops.any fun o => o.gid == g.gid && o.due.isSome && o.lanes.contains lane &&
    o.writes.any fun w => w.reg == code && (w.lane == lane || (640 ≤ code && code < 1024))) ||
  ((g.lane lane).unsettled.any fun u => u.1 == code)

/-- A predicate as an instruction of the lane reads it: a free value while a write of it is under way (R31). -/
def State.predVal (s : State) (g : Group) (lane : Nat) (p : Pred) : Bool :=
  let n := p.p.toNat
  (if n != 7 && s.hazard g lane (predCode n) then bitAt (s.free (900 + n) lane) 0 else g.readP lane n) != p.neg

/-- The guard of a lane (R195). -/
def State.guardOk (s : State) (g : Group) (q : Guard) (lane : Nat) : Bool :=
  if q.isOr then s.predVal g lane q.a || s.predVal g lane q.b else s.predVal g lane q.a && s.predVal g lane q.b

/-! ### The issue in progress -/

/-- Whether a lane reads its guard too early (R31). -/
def State.guardEarly (s : State) (g : Group) (q : Guard) (lane : Nat) : Bool :=
  [q.a, q.b].any fun p => p.p != 7 && s.hazard g lane (predCode p.p.toNat)

/-- What an issued word acts on: the issue, its group and warp, `active` (R15), and the lanes that read their guard too early, whose
destinations hold undefined values (R31). -/
structure Env where
  iss : Issue
  g : Group
  w : Warp
  act : List Nat
  lost : List Nat

/-- The issue in progress with the lanes for which the guard holds. -/
def State.env (s : State) (q : Guard) : Option Env :=
  match s.cur with
  | none => none
  | some i =>
    match s.findGroup i.gid with
    | none => none
    | some g =>
      match g.findWarp i.wid with
      | none => none
      | some w => some ⟨i, g, w, i.lanes.filter fun l => s.guardOk g q l, i.lanes.filter fun l => s.guardEarly g q l⟩

/-- Acts on the issue in progress; with none, or with an empty `active`, nothing happens (R12), but for what `k'` does where lanes read
their guard too early. -/
def State.withEnv (s : State) (h : Hdr) (k : Env → State) (k' : Env → State := fun _ => s) : State :=
  match s.env h.guard with
  | none => s
  | some e => if e.act.isEmpty then (if e.lost.isEmpty then s else k' e) else k e

/-- The lowest lane of `active`. -/
def Env.low (e : Env) : Nat := e.act.headD 0

/-- The lane id of a lane in its warp. -/
def Env.id (e : Env) (lane : Nat) : Nat := lane - e.w.lane0

def Env.gid (e : Env) : Nat := e.g.gid

/-- A set of lanes as a mask by lane id. -/
def laneMask (lane0 : Nat) (ls : List Nat) : Nat := ls.foldl (fun m l => m + 2 ^ (l - lane0)) 0

/-! ### Operations in flight -/

def Warp.addFlag (w : Warp) (f : Nat) : Warp :=
  if f = 0 then w else { w with flags := NMap.put 0 w.flags f (NMap.get 0 w.flags f + 1) }

def Warp.subFlag (w : Warp) (f : Nat) : Warp :=
  if f = 0 then w else { w with flags := NMap.put 0 w.flags f (NMap.get 0 w.flags f - 1) }

/-- All completion flags are 0. -/
def Warp.clear (w : Warp) : Bool := w.flags.isEmpty

/-- A new operation of the issue in progress, with nothing read yet. -/
def Env.op (e : Env) (s : State) (h : Hdr) (i : Instr) : Op where
  id := s.nextOp
  seq := s.nextOp
  gid := e.g.gid
  wid := e.w.wid
  owners := [e.w.wid]
  flag := h.setf
  pc := e.iss.pc
  pos := e.iss.pos
  width := e.w.width
  lanes := e.act
  instr := i
  vals := []
  lvals := []
  accs := []
  dsts := []
  writes := []
  fp := []
  due := none
  ord := e.w.part * 32 + e.w.slot
  at_ := .issued
  ctr := 0
  status := 0
  cause := (0, 0, 0)
  badWrite := false
  bw := none
  after := []
  replies := []
  raced := []
  early := false
  blur := []
  got := []
  put := []

/-- Puts an operation in flight and raises its flag (R32). -/
def State.addOp (s : State) (o : Op) : State :=
  ({ s with nextOp := s.nextOp + 1, ops := s.ops ++ [o] }).modWarp o.gid o.wid fun w => w.addFlag o.flag

def State.findOp (s : State) (id : Nat) : Option Op := s.ops.find? fun o => o.id == id

def State.modOp (s : State) (id : Nat) (f : Op → Op) : State :=
  { s with ops := s.ops.map fun o => if o.id == id then f o else o }

/-- Takes an operation out of flight; nothing waits for it any more. -/
def State.dropOp (s : State) (id : Nat) : State :=
  { s with ops := (s.ops.filter fun o => o.id != id).map fun o => { o with after := o.after.filter fun k => k != id } }

def Instr.isPush : Instr → Bool
  | .push _ _ => true
  | _ => false

/-- The writes of an operation, those that a PUSH has made undefined among them (R255). -/
def State.landing (s : State) (o : Op) : List RegW :=
  o.writes.map fun w => if o.blur.contains (w.lane, w.reg) then { w with val := BitVec.ofNat 32 (s.free 901 w.lane) } else w

/-- What the landing of `o` does to an operation `p` of the group that is still under way. A PUSH whose window meets a write of the
lane's own leaves an undefined value, whichever of the two lands first: `p` was in flight when the PUSH issued, or issued before it
completed (R255). Of two fixed-latency writes by one lane the later issue stands (R31). -/
def State.overtake (s : State) (o p : Op) : Op :=
  if p.gid != o.gid then p else
  { p with
    blur := p.blur ++ (if Instr.isPush o.instr then o.writes.filterMap fun x =>
      if p.lanes.contains x.lane then some (x.lane, x.reg) else none else [])
    writes := p.writes.map fun w =>
      match o.writes.find? fun x => x.lane == w.lane && x.reg == w.reg with
      | none => w
      | some x =>
        if Instr.isPush p.instr && o.lanes.contains w.lane then { w with val := BitVec.ofNat 32 (s.free 901 w.lane) }
        else if p.due.isSome && o.due.isSome && p.seq < o.seq && p.lanes.contains w.lane then { w with val := x.val, tag := x.tag }
        else w }

/-- Rate of core and stack-core clocks under a P-state, in eighths and thirty-seconds of the device clock (R491). -/
def State.rateOf (s : State) (p : Nat) : Nat := 8 - s.field (0x43000 + 8 * p) 0 3

/-- Whether a clock of the agent begins in this device clock. -/
def State.edge (s : State) (agent : Nat) : Bool :=
  let p := s.domainOf agent
  let d := s.domains.getD p Domain.start
  d.pause == 0 && (if agent < 64 then decide (d.phase < s.rateOf p) else decide (d.scPhase < 3 * s.rateOf p))

/-- The first clock whose issues see a register write that is made now (R71): the present one, while its issues are to come. -/
def State.seenAt (s : State) (g : Group) : Nat := if s.edge g.agent && s.turn.isNone then s.now g else s.now g + 1

/-- The code of an s register. -/
def isUniform (code : Nat) : Bool := 640 ≤ code && code < 1024

/-- Whether a write of an s register stands: of the writes of one clock the last in the order of partition and slot does, in
whichever order they are made (R71). -/
def Group.stands (g : Group) (now ord : Nat) (w : RegW) : Bool :=
  !isUniform w.reg || (NMap.get none g.swrote w.reg).all fun k => k.1 != now || k.2 ≤ ord

/-- Register writes by a warp of partition and slot `ord`, first seen in clock `now` (R71). -/
def Group.writesAt (g : Group) (now ord : Nat) (ws : List RegW) : Group :=
  let ws := ws.filter (g.stands now ord)
  { g.writes ws with swrote := ws.foldl (fun (m : NMap (Option (Nat × Nat))) (w : RegW) =>
      if isUniform w.reg then NMap.put none m w.reg (some (now, ord)) else m) g.swrote }

/-- The registers and FP flags that an operation writes at its completion (R31, R71, R265). -/
def State.applyWrites (s : State) (o : Op) : State :=
  let now := (s.findGroup o.gid).elim 0 s.seenAt
  let o := { o with writes := s.landing o }
  let s := { s with ops := s.ops.map fun (p : Op) => if p.id == o.id then p else s.overtake o p }
  s.modGroup o.gid fun g =>
    o.fp.foldl (fun (g : Group) (f : Nat × BitVec 5) => g.modLane f.1 fun l => { l with fp := l.fp ||| f.2 })
      (g.writesAt now o.ord o.writes)

/-! ### Notices and logs -/

/-- Raises an MSI-X vector (R422, R469). -/
def State.raiseMsi (s : State) (v : Nat) : State := { s with notes := s.notes ++ [v] }

/-- One entry of the error log (R469, R470). -/
def State.logError (s : State) (code ctx : Nat) (retake ended taint : Bool) (path take addr : Nat) : State :=
  let logn := s.field 0x20000 40 5
  if logn < 4 || 20 < logn then s
  else
    let head := s.field 0x20008 0 32
    let tail := s.field 0x20008 32 32
    if 2 ^ logn ≤ (head + 2 ^ 32 - tail) % 2 ^ 32 then s.setField 0x20010 32 32 (s.field 0x20010 32 32 + 1)
    else
      let e := code + 2 ^ 16 * ctx + 2 ^ 28 * bit retake + 2 ^ 29 * bit ended + 2 ^ 30 * bit taint + 2 ^ 32 * path +
        2 ^ 96 * take + 2 ^ 160 * (addr % 2 ^ 40) + 2 ^ 224 * (s.counter % 2 ^ 32)
      let a := cellOf 1 (s.field 0x20000 12 28 * 4096 + 32 * (head % 2 ^ logn))
      let s := ((s.writeHome a 32 e).clearCovered false [(a, 32)]).setField 0x20008 0 32 (head + 1)
      if s.field 0x20010 0 1 = 1 then s.raiseMsi (s.field 0x20010 1 11) else s

/-! ### Taking a stop -/

/-- The clock of the part of the device in which a take runs. -/
def State.takeNow (s : State) (t : Take) : Nat :=
  (s.domains.getD ((s.findCtx t.ctx).elim 8 Ctx.dpart) Domain.start).clock

/-- A program error (R465, R466): the take begins to end; an error of a take that is already ending is a later one, with no device
physical address in its entry (R470), and in one clock a hardware error decides (R467). -/
def State.progError (s : State) (gid wid code : Nat) (lanes : List Nat) (addr : Nat) (write : Bool := false) : State :=
  match s.findGroup gid with
  | none => s
  | some g =>
    match s.findTake g.take with
    | none => s
    | some t =>
      if t.hwErr.isSome then s
      else if t.err.isSome then s.logError code t.ctx false true false 0 t.number 0
      else (s.modTake t.tid fun t => { t with err := some ⟨code, gid, wid, lanes, addr, s.takeNow t, write⟩ }).modWarp gid wid
        fun w => { w with errSlots := some 24 }

/-- A program error of the issue in progress. For a lane that read its guard too early no fault arises (R31). -/
def State.fail (s : State) (e : Env) (code : Nat) (lanes : List Nat) (addr : Nat) (write : Bool := false) : State :=
  if !e.lost.isEmpty && lanes.all e.lost.contains then s
  else s.progError e.g.gid e.w.wid code (lanes.filter fun l => !e.lost.contains l) addr write

/-- A hardware error of a take (R476, R477): the take waits for its retake or ending. Over a program error of the same clock it
decides; in a take that already ends or is being retaken it is a later one (R467). -/
def State.hwError (s : State) (tid code path addr : Nat) : State :=
  match s.findTake tid with
  | none => s
  | some t =>
    if t.hwErr.isSome || t.err.any (fun e => e.clock < s.takeNow t) then s.logError code t.ctx false true false path t.number addr
    else s.modTake tid fun t => { t with hwErr := some (code, path, addr), err := none }

/-- The lowest STOP value, from 1 upward, that no outstanding stop of the group holds (R421). -/
def Ctx.freeStop (c : Ctx) (gid : Nat) : Nat :=
  let used := (c.stops.filter fun x => x.gid == gid).map Stop.no
  ((List.range (used.length + 1)).map fun i => i + 1).find? (fun n => !used.contains n) |>.getD 1

/-- LOGN of a context's trap ring (R414). -/
def Ctx.logn (c : Ctx) : Nat := slice c.trapring.toNat 52 5

def Ctx.ringValid (c : Ctx) : Bool := 1 ≤ c.logn && c.logn ≤ 16

/-- A trap record of a warp (R420); its handle comes when it is written. -/
def State.record (s : State) (g : Group) (w : Warp) (code : Nat) (lanes : List Nat) (pc addr : Nat) (write : Bool)
    (stop : Option (Nat × Nat)) : TrapRecord where
  code := code
  ctx := s.ctxOf g
  groupId := g.groupId
  take := (s.takeOf g).elim 0 Take.number
  pc := pc
  lanes := laneMask w.lane0 lanes
  addr := addr
  core := g.agent
  part := w.part
  slot := w.slot
  write := write
  width := w.width
  retakes := (s.takeOf g).elim 0 Take.retakes
  clock := s.counter
  stop := stop
  halt := false

/-- A stop with its record (R419 to R421); a context without a valid ring ends its take instead (R422). -/
def State.addStop (s : State) (g : Group) (w : Warp) (kind : StopKind) (code : Nat) (lanes : List Nat) (pc addr : Nat)
    (write : Bool) : State × Nat :=
  match s.findCtx (s.ctxOf g) with
  | none => (s, 0)
  | some c =>
    let no := c.freeStop g.gid
    if c.ringValid then
      (s.modCtx c.id fun c => { c with
        records := c.records ++ [s.record g w code lanes pc addr write (some (g.gid, no))]
        stops := c.stops ++ [⟨g.gid, no, kind, w.wid, 0⟩] }, no)
    else (s.progError g.gid w.wid 0x21C4 lanes addr, no)

/-- A lane blocks (R29); one that the first member of its pair has parked stays parked (R203). -/
def Lane.blockAt (l : Lane) (a : LaneAt) : Lane := match l.at_ with
  | .parked _ => l
  | _ => { l with at_ := a, age := 0 }

/-- Lanes that count at a rendezvous: neither retired nor parked. -/
def Lane.counts (l : Lane) : Bool := match l.at_ with
  | .retired | .parked _ => false
  | _ => true

/-- Every counting lane of the group stands at GROW, and one does (R37, R241). -/
def Group.allAtGrow (g : Group) : Bool :=
  (g.lanes.any fun l => l.at_ == .grow) && g.lanes.all fun l => !l.counts || l.at_ == .grow

/-- Notes the order of the last arrival at GROW (R38). -/
def State.checkGrow (s : State) (gid : Nat) : State :=
  match s.findGroup gid with
  | none => s
  | some g =>
    if g.growAt.isNone && g.allAtGrow then
      { s.modGroup gid (fun g => { g with growAt := some s.nextOrder }) with nextOrder := s.nextOrder + 1 }
    else s

/-- A translation fault on a core parks its lanes at the instruction, with one record (R456). Lanes that both members of a pair
park stay at the pair, and execute both again (R203, R458). -/
def State.park (s : State) (e : Env) (lanes : List Nat) (code addr : Nat) (write : Bool) : State :=
  if lanes.isEmpty then s
  else
    let (s, no) := s.addStop e.g e.w .translation code lanes e.iss.pc.toNat addr write
    (s.modLanes e.g.gid lanes fun _ l => match l.at_ with
      | .parked _ => { l with solo := false }
      | _ => { l with at_ := .parked no, pc := e.iss.pc, age := 0, solo := e.iss.pos == 1 }).checkGrow e.g.gid

/-- The return trap (R165): the instruction has no effect, the PC stays at it, and the warp issues nothing more. -/
def State.returnTrap (s : State) (e : Env) : State :=
  (s.modLanes e.g.gid e.iss.lanes fun _ l =>
    if e.w.halt == .trapping then { l with solo := false } else { l with pc := e.iss.pc, solo := e.iss.pos == 1 }).modWarp e.g.gid
      e.w.wid fun w => { w with halt := .trapping }

/-- Whether every operation of a warp that had issued has taken its whole effect (R239): only operations that hold their lanes, and MMAs
whose signatures are not complete, may stand. -/
def State.warpSettled (s : State) (gid wid : Nat) : Bool :=
  s.ops.all fun o => !(o.gid == gid && o.owners.contains wid) || o.at_ == .held || (match o.instr with
    | .mma _ _ => o.at_ == .issued
    | .mwait _ _ | .njoin _ _ => true
    | _ => false)

/-- The record of a TRAP or BKPT stop falls due once the warp's flags are 0 (R419) and its earlier instructions, those without a flag
too, have taken their effect (R239). -/
def State.checkHalt (s : State) (gid wid : Nat) : State :=
  match s.findGroup gid with
  | none => s
  | some g =>
    match g.findWarp wid with
    | none => s
    | some w =>
      match w.halt with
      | .draining code pc lanes =>
        if w.clear && s.warpSettled gid wid then
          let ls := w.lanes.filter fun l => bitAt lanes.toNat (l - w.lane0)
          (s.addStop g w .trap code ls pc.toNat 0 false).1.modWarp gid wid fun w => { w with halt := .stopped }
        else s
      | _ => s

/-- The groups that run in a context. -/
def State.groupsOf (s : State) (ctx : Nat) : List Group := s.groups.filter fun g => s.ctxOf g == ctx

/-- The record of a HALT falls due once every warp of the context has its flags at 0 (R419). -/
def State.checkHaltCtx (s : State) (ctx : Nat) : State :=
  match s.findCtx ctx with
  | none => s
  | some c =>
    let gs := s.groupsOf ctx
    if c.haltDue && (gs.all fun g => g.warps.all Warp.clear) then
      let r : TrapRecord :=
        ⟨0x4200, ctx, gs.head?.elim 0 Group.groupId, c.take.toNat, 0, 0, 0, gs.head?.elim 0 Group.agent, 0, 0, false, 0,
          (gs.head?.bind s.takeOf).elim 0 Take.retakes, s.counter, none, true⟩
      s.modCtx ctx fun c => { c with haltDue := false, records := c.records ++ [r] }
    else s

/-- An operation leaves flight: its flag falls, and whatever waited for the flag goes on (R32, R419). -/
def State.endOp (s : State) (o : Op) : State :=
  let s := (s.dropOp o.id).modWarp o.gid o.wid fun w => w.subFlag o.flag
  ((o.wid :: o.owners).foldl (fun s w => s.checkHalt o.gid w) s).checkHaltCtx ((s.findGroup o.gid).elim 0 s.ctxOf)

/-- An operation completes: its writes, its flag, and whatever waited for the flag (R32). -/
def State.finishOp (s : State) (o : Op) : State := (s.applyWrites o).endOp o

/-- Destinations of a long-latency operation hold no defined value until a wait on its flag (R33). -/
def State.unsettle (s : State) (o : Op) (codes : List Nat) : State :=
  s.modLanes o.gid o.lanes fun _ l => { l with unsettled := codes.map (fun c => (c, o.flag)) ++ l.unsettled }

/-! ### Ending a stop (R423) -/

/-- Lanes that stopped return to the frontier with age 0, unless they are elsewhere by now. -/
def Group.unpark (g : Group) (no : Nat) : Group :=
  { g with lanes := g.lanes.map fun (l : Lane) => if l.at_ = .parked no then { l with at_ := .live, age := 0 } else l }

/-- The stop that a handle names. -/
def Ctx.findStop (c : Ctx) (handle : Nat) : Option Stop := c.stops.find? fun x => x.handle == handle

/-- Ends a stop: the parked lanes issue the instruction again, or the warp goes on after its TRAP. -/
def State.endStop (s : State) (ctx : Nat) (x : Stop) : State :=
  let s := s.modCtx ctx fun c => { c with stops := c.stops.filter fun y => y != x }
  match x.kind with
  | .translation => s.modGroup x.gid fun g => g.unpark x.no
  | .trap => s.modGroup x.gid fun g =>
      let ls := (g.findWarp x.wid).elim [] Warp.lanes
      (g.modWarp x.wid fun w => { w with halt := .run }).modLanes ls fun _ l => { l with age := 0 }

/-! ### Retirement of lanes -/

/-- Lanes retire (R42). -/
def State.retire (s : State) (gid : Nat) (lanes : List Nat) : State :=
  (s.modLanes gid lanes fun _ l => { l with at_ := .retired, age := 0 }).checkGrow gid

/-- Lanes of a gathered warp end: each sends its reply to its caller (R171); `words` gives a lane's reply words. -/
def State.sendReplies (s : State) (g : Group) (lanes : List Nat) (words : Nat → List (Option Word)) : State :=
  match g.kind with
  | .gathered id =>
    let rs := lanes.filterMap fun i => (g.callers[i]?).map fun c => Reply.mk c.2 (words i) g.gid (g.lane i).ctr
    s.modOp id fun o => { o with replies := o.replies ++ rs }
  | _ => s

/-! ### Faults of single lanes -/

/-- The storage that a failed fetch names: the poisoned sector of a line or script entry at a virtual address, or the place where it
begins (R192, R204, R470, R471). -/
def State.fetchTrace (s : State) (g : Group) (va : Nat) (k : AccKind) : Nat × Nat :=
  match (s.translate g.agent (s.ctxOf g) va k).2 with
  | .error _ => (0, 0)
  | .ok t =>
    let a := if !s.poisonAt t.a && s.poisonAt (t.a + 32) then t.a + 32 else t.a
    (cellPath a, t.pg.phys a)

/-- A hardware error of one translation, fetch or access: a poisoned page-table entry is named with its own place (R453, R470, R471), a
line or script entry by where it lies, and every other error by `path` and `addr`. -/
def State.settleError (s : State) (g : Group) (code path addr : Nat) : State :=
  if code = 0x3110 then
    let pa := s.badEntry (dieOf g.agent) (s.ctxOf g) addr
    s.hwError g.take code (cellPath (cellOf 1 pa)) pa
  else if code = 0x3101 ∨ code = 0x3102 then
    let x := s.fetchTrace g addr (if code = 0x3101 then .fetch else .read)
    s.hwError g.take code x.1 x.2
  else s.hwError g.take code path addr

/-- What follows when some lanes of an instruction fail (R419, R456, R465): a hardware error or a program error stops the whole
instruction; failed translations park their lanes and the instruction goes on for the others, or, on a stack core, raise
the return trap (R163). `fails` holds lane, code and address, lowest lane first. -/
def State.settleLanes (s : State) (e : Env) (fails : List (Nat × Nat × Nat)) (write : Bool) (path : Nat)
    (k : State → List Nat → State) : State :=
  match fails.find? (fun f => f.2.1 / 4096 == 3), fails.find? (fun f => f.2.1 / 4096 == 2), fails with
  | some f, _, _ => s.settleError e.g f.2.1 path f.2.2
  | none, some f, _ =>
    s.fail e f.2.1 ((fails.filter fun x => x.2.1 / 4096 == 2).map Prod.fst) f.2.2 write
  | none, none, [] => k s e.act
  | none, none, f :: _ =>
    if e.g.onStack then s.returnTrap e
    else
      let bad := fails.map Prod.fst
      k (s.park e bad f.2.1 f.2.2 write) (e.act.filter fun l => !bad.contains l)

/-! ### Checks of an allotment (R21, R36) -/

/-- The codes of operand queues and of tiles beside those of registers and predicates. -/
def queueCode (n : Nat) : Nat := 2048 + n
def tileCode (n : Nat) : Nat := 3072 + n

/-- The fault of a code beyond the allotment. -/
def Group.codeFault (g : Group) (c : Nat) : Option Nat :=
  if c < 640 then (if c < g.allot.v then none else some 0x2110)
  else if c < 1024 then (if c - 640 < g.allot.s then none else some 0x2111)
  else if c < 2048 then none
  else if c < 3072 then (if c - 2048 < g.allot.queues then none else some 0x2113)
  else (if c - 3072 < g.allot.tiles then none else some 0x2112)

/-- The first fault among register codes. -/
def Group.codesFault (g : Group) : List Nat → Option Nat
  | [] => none
  | c :: cs => match g.codeFault c with
    | some f => some f
    | none => g.codesFault cs

/-- Acts if every register code is within the allotment; else the whole instruction faults. -/
def State.checked (s : State) (h : Hdr) (codes : Env → List Nat) (k : Env → State) (k' : Env → State := fun _ => s) : State :=
  s.withEnv h (fun e =>
    match e.g.codesFault (codes e) with
    | some f => s.fail e f e.act 0
    | none => k e) fun e => if (e.g.codesFault (codes e)).isSome then s else k' e

end Sys2Proof.Machine
end

