-- ==== Sys2Proof/Machine/Operands.lean ====
section
/-!
DEFINITION. Operands: what a source gives a lane (R65, R79, R199), the tag check (R69), what a destination receives (R68, R70),
and the frame of every fixed-latency instruction (R31, R225, R264): it reads at its issue and writes at its completion.
-/

namespace Sys2Proof.Machine

/-- The tag that results of a type carry (R69). -/
def Ty.tag : Ty → Nat
  | .b32 => 0
  | .i32 => 1
  | .z32 => 2
  | .i64 | .z64 => 3
  | .i8 | .z8 => 4
  | .i16 | .z16 => 5
  | .f32 => 6
  | .bf16 => 7
  | .f16 => 8
  | .e4m3 => 9
  | .e5m2 => 10
  | .e3m2 => 11
  | .e2m3 => 12
  | .e2m1 => 13
  | .l6 => 14
  | .e8m0 => 15

/-- Whether an operand of a type accepts a tag (R69). -/
def tagOk (ty : Ty) (tag : Nat) : Bool :=
  match ty with
  | .b32 => true
  | .i32 | .z32 => tag ≤ 2
  | _ => tag == 0 || tag == Ty.tag ty

/-- A pattern of `n` bits extended with its sign to `m` bits. -/
def sext (n m x : Nat) : Nat := wrap m (signed n x)

/-- An immediate as the operand of a type (R199). -/
def immVal (ty : Ty) : Src → Nat
  | .i10 b => match ty with
    | .i64 | .z64 => sext 10 64 b.toNat
    | .i16 | .z16 => sext 10 16 b.toNat * 65537
    | _ => sext 10 32 b.toNat
  | .i32 b => match ty with
    | .i64 | .z64 => sext 32 64 b.toNat
    | _ => b.toNat
  | .i16 b => match ty with
    | .i64 | .z64 => sext 16 64 b.toNat
    | .i16 | .z16 | .bf16 | .f16 => b.toNat * 65537
    | .f32 => b.toNat * 65536
    | _ => sext 16 32 b.toNat
  | _ => 0

/-- What a source gives one lane: its bits, the tags of its one or two registers, and whether the value is undefined because
it was read too early (R31, R33). -/
structure Opnd where
  val : Nat
  tag : Nat
  tag2 : Nat
  haz : Bool
  deriving DecidableEq, Repr, Inhabited

/-- A source operand of an instruction: a register, queue or immediate read as `ty` (`any`: whatever its tag), or a
predicate. -/
inductive Arg
  | src (ty : Ty) (any : Bool) (s : Src)
  | pred (p : Pred)

def Arg.of (ty : Ty) (s : Src) : Arg := .src ty false s
def Arg.any (ty : Ty) (s : Src) : Arg := .src ty true s
def Arg.reg (ty : Ty) (r : Reg) : Arg := .src ty false (.reg r)
def Arg.v (ty : Ty) (n : Nat) : Arg := .src ty false (.reg (.v n))
def Arg.s (ty : Ty) (n : Nat) : Arg := .src ty false (.reg (.s n))

/-- The register codes of a register operand, both of a pair (R65). -/
def regCodes (wide : Bool) (r : Reg) : List Nat := if wide then [r.code, r.code + 1] else [r.code]

/-- What an operand needs of the allotment (R21, R36). -/
def Arg.codes : Arg → List Nat
  | .src ty _ (.reg r) => regCodes ty.is64 r
  | .src _ _ (.q n) => [queueCode n.toNat]
  | _ => []

/-- A register as an operand of a lane; `k` is the operand's place among the free values. One that is read too early gives a free value
of tag b32, so the tag check (R69) never fails on it, and an instruction whose result carries its source's tag gives b32 (DESIGN CHOICE:
R31 leaves only the value open; assumption 46). -/
def State.readReg (s : State) (g : Group) (wide : Bool) (k lane : Nat) (r : Reg) : Opnd :=
  let c := r.code
  if s.hazard g lane c || (wide && s.hazard g lane (c + 1)) then
    ⟨s.free k lane % 2 ^ (if wide then 64 else 32), 0, 0, true⟩
  else
    let lo := g.readCode lane c
    if wide then
      let hi := g.readCode lane (c + 1)
      ⟨lo.1.toNat + 2 ^ 32 * hi.1.toNat, lo.2, hi.2, false⟩
    else ⟨lo.1.toNat, lo.2, lo.2, false⟩

/-- Takes a warp's words from an operand queue: lane i takes word i (R79). -/
def State.popQueue (s : State) (e : Env) (n : Nat) : State × List (Word × Nat) :=
  let q := ((s.findGroup e.g.gid).getD e.g).queues.getD n []
  (s.modGroup e.g.gid fun g => { g with queues := g.queues.set n (q.drop e.w.width) }, q.take e.w.width)

/-- Pops for every source that names a queue, in the order of the sources (R79). -/
def State.popArgs (s : State) (e : Env) : List Arg → State × List (List (Word × Nat))
  | [] => (s, [])
  | .src _ _ (.q n) :: as =>
    let p := s.popQueue e n.toNat
    let r := p.1.popArgs e as
    (r.1, p.2 :: r.2)
  | _ :: as =>
    let r := s.popArgs e as
    (r.1, [] :: r.2)

/-- Whether an operand names a queue. -/
def Arg.isQueue : Arg → Bool
  | .src _ _ (.q _) => true
  | _ => false

/-- Whether a lane's word of a source queue was missing (R79). -/
def Env.short (e : Env) (args : List Arg) (qs : List (List (Word × Nat))) (lane : Nat) : Bool :=
  (args.zip qs).any fun p => p.1.isQueue && decide (p.2.length ≤ e.id lane)

/-- One operand of one lane; a word that its queue lacked is a free value (R79). -/
def State.readArg (s : State) (e : Env) (k lane : Nat) (q : List (Word × Nat)) : Arg → Opnd
  | .src ty _ (.reg r) => s.readReg e.g ty.is64 k lane r
  | .src _ _ (.q _) => match q[e.id lane]? with
    | some w => ⟨w.1.toNat, w.2, w.2, false⟩
    | none => ⟨s.free (800 + k) (e.id lane) % 2 ^ 32, 0, 0, false⟩
  | .src ty _ i => ⟨immVal ty i, 0, 0, false⟩
  | .pred p => ⟨bit (s.predVal e.g lane p), 0, 0, p.p != 7 && s.hazard e.g lane (predCode p.p.toNat)⟩

/-- All operands of one lane. -/
def State.readArgs (s : State) (e : Env) (lane : Nat) : Nat → List Arg → List (List (Word × Nat)) → List Opnd
  | _, [], _ => []
  | k, a :: as, qs => s.readArg e k lane (qs.headD []) a :: s.readArgs e lane (k + 1) as qs.tail

/-- The tag check of one operand (R69). -/
def Arg.tagOk : Arg → Opnd → Bool
  | .src ty any _, o => any || (Machine.tagOk ty o.tag && Machine.tagOk ty o.tag2)
  | .pred _, _ => true

def tagsOk (as : List Arg) (os : List Opnd) : Bool := (as.zip os).all fun p => p.1.tagOk p.2

/-- What a lane gets from an instruction: the result's bits, the tags of its registers, and the FP flags it raises (R99). -/
structure Res where
  val : Nat
  tag : Nat
  tag2 : Nat
  fp : BitVec 5

def Res.of (val tag : Nat) : Res := ⟨val, tag, tag, 0⟩

/-- Writes of a value of one register or a pair. -/
def regWrites (wide : Bool) (r : Reg) (lane : Nat) (x : Res) : List RegW :=
  if wide then
    [⟨lane, r.code, BitVec.ofNat 32 x.val, x.tag⟩, ⟨lane, r.code + 1, BitVec.ofNat 32 (x.val / 2 ^ 32), x.tag2⟩]
  else [⟨lane, r.code, BitVec.ofNat 32 x.val, x.tag⟩]

/-- A lane's row: its index and its operands. -/
abbrev Row := Nat × List Opnd

/-- A lane that read too early gets a free value in each destination (R31). -/
def Row.haz (r : Row) : Bool := r.2.any Opnd.haz

/-- The lanes that write a register: each lane of `active` for a v register, the lowest for an s register (R70). -/
def dstRows (r : Reg) (rows : List Row) : List Row := match r with
  | .v _ => rows
  | .s _ => rows.take 1

/-- The writes of a register destination. -/
def State.regOut (s : State) (wide : Bool) (d : Reg) (f : Row → Res) (rows : List Row) : List RegW :=
  (dstRows d rows).flatMap fun r =>
    let x := f r
    regWrites wide d r.1 (if r.haz then { x with val := s.free 700 r.1 } else x)

/-- The write of a predicate destination. -/
def predWrite (lane n : Nat) (b : Bool) : RegW := ⟨lane, predCode n, BitVec.ofNat 32 (bit b), 0⟩

def State.predOut (s : State) (n : Nat) (f : Row → Bool) (rows : List Row) : List RegW :=
  rows.map fun r => predWrite r.1 n (if r.haz then bitAt (s.free (710 + n) r.1) 0 else f r)

/-- The FP flags that lanes raise; a lane that read too early raises none (R12). -/
def fpOut (f : Row → Res) (rows : List Row) : List (Nat × BitVec 5) :=
  (rows.filter fun r => !r.haz).map fun r => (r.1, (f r).fp)

/-- An operand of a lane that read its guard too early counts as read too early (R31). -/
def Opnd.lose (lost : Bool) (o : Opnd) : Opnd := if lost then { o with haz := true } else o

/-- The operands of each lane of `active`, the queues having been popped. -/
def State.rows (s : State) (e : Env) (args : List Arg) (qs : List (List (Word × Nat))) : List Row :=
  e.act.map fun l => (l, (s.readArgs e l 0 args qs).map (Opnd.lose (e.lost.contains l)))

/-- The rows of the lanes of `active` and the state after the queues have been popped. -/
def State.readRows (s : State) (e : Env) (args : List Arg) : State × List Row :=
  let p := s.popArgs e args
  (p.1, s.rows e args p.2)

/-- The lanes whose operands fail the tag check (R69). -/
def badTags (args : List Arg) (rows : List Row) : List Nat := (rows.filter fun r => !tagsOk args r.2).map Prod.fst

/-- The lanes that an instruction may act on: `active`, and those that read their guard too early. -/
def Env.wide (e : Env) : Env := { e with act := e.iss.lanes.filter fun l => e.act.contains l || e.lost.contains l }

/-- What an instruction leaves that read an operand too early, where a check of what it read would fail: undefined values in its
destinations, and nothing else (R12, R31; assumption 46). -/
def State.undefine (s : State) (e : Env) (o : Op) (dst : List Nat) (tag : Nat) : State :=
  (s.addOp { o with
    id := s.nextOp
    seq := s.nextOp
    writes := dst.flatMap fun c => (if isUniform c then [e.low] else e.act).map fun l => ⟨l, c, BitVec.ofNat 32 (s.free (740 + c) l), tag⟩
    due := some (s.now e.g + 4) }).renew

/-- Whether some lane of `active` has read its guard in time. -/
def Env.sure (e : Env) : Bool := e.act.any fun l => !e.lost.contains l

/-- The destinations of the lanes that read their guard too early hold undefined values (R31); an s register does where the lowest lane
of `active` may be such a lane (R70). -/
def State.undefineLost (s : State) (e : Env) (o : Op) (dst : List Nat) (tag : Nat) : State :=
  let low := e.wide.act.headD 0
  let dst := dst.filter fun c => !isUniform c || e.lost.contains low
  if e.lost.isEmpty || dst.isEmpty then s else s.undefine { e with act := e.lost } { o with flag := 0, lanes := e.lost } dst tag

/-- One draw where the rounding is stochastic. -/
def drawsOf (rnd : Rnd) (k : Nat) : Nat := if rnd = .rs then k else 0

/-- Elements that a conversion instruction rounds in a lane (R274 to R277). -/
def pairElems (ty : Ty) (e : BitVec 3) : Nat := if loneElement ty.unpackCount e.toNat then 1 else 2

/-- Draws that an instruction takes in each lane of `active`: one for each element that it rounds under .rs (R94), and
one for RNG (R260). -/
def Instr.draws : Instr → Nat
  | .fadd _ o | .fsub _ o | .fmul _ o => drawsOf o.rnd 1
  | .ffma _ o => drawsOf o.rnd 1
  | .hadd2 _ o => drawsOf o.rnd 2
  | .hfma2 _ o => drawsOf o.rnd 2
  | .frcp _ o | .frsq _ o | .fsqrt _ o | .fex2 _ o | .flg2 _ o | .fsin _ o | .fcos _ o => drawsOf o.rnd 1
  | .cvt _ o => drawsOf o.rnd 1
  | .pack _ o => drawsOf o.rnd (pairElems o.ty o.e)
  | .unpack _ o => drawsOf o.rnd (pairElems o.ty o.e)
  | .qnt _ o => drawsOf o.rnd o.ty.qntCount
  | .dqnt _ o => drawsOf o.rnd o.ty.qntCount
  | .rng _ _ => 1
  | _ => 0

/-- Advances the random counter of each lane of `active` (R93). -/
def State.advance (s : State) (e : Env) (k : Nat) : State :=
  if k = 0 then s else s.modLanes e.g.gid e.act fun _ l => { l with ctr := l.ctr + BitVec.ofNat 64 k }

/-- What an instruction writes: registers, and FP flags. -/
abbrev Writes := List RegW × List (Nat × BitVec 5)

/-- The writes that are undefined where lanes read their guard too early (R31): `w` is what an instruction writes for the lanes that it
takes as active, and `all` what it writes for every lane that it may act on. -/
def Env.blurs (e : Env) (w all : List RegW) : List (Nat × Nat) :=
  (all.filter fun x => e.lost.contains x.lane || !w.contains x).map fun x => (x.lane, x.reg)

/-- The frame of a fixed-latency instruction: the allotment check, the reads, the tag check, and the operation that writes
`lat` clocks later. `out` also sees the words popped from queues. -/
def State.fixedQ (s : State) (h : Hdr) (i : Instr) (dst : List Nat) (args : List Arg) (lat : Env → Nat)
    (out : State → Env → List (List (Word × Nat)) → List Row → Writes) : State :=
  let act (e : Env) : State :=
    let p := s.popArgs e args
    let rows := s.rows e args p.2
    let bad := (badTags args rows).filter fun l => !e.lost.contains l
    if bad.isEmpty then
      let w := out s e p.2 rows
      if e.lost.isEmpty then
        (p.1.addOp { e.op s h i with writes := w.1, fp := w.2, due := some (s.now e.g + lat e) }).advance e (Instr.draws i)
      else
        let all := (out s e.wide p.2 (s.rows e.wide args p.2)).1
        (p.1.addOp { e.wide.op s h i with
          writes := all
          fp := w.2.filter fun f => !e.lost.contains f.1
          due := some (s.now e.g + lat e)
          blur := e.blurs w.1 all }).advance e (Instr.draws i)
    else s.fail e 0x2130 bad 0
  s.checked h (fun _ => dst ++ args.flatMap Arg.codes) act act

def State.fixed (s : State) (h : Hdr) (i : Instr) (dst : List Nat) (args : List Arg) (lat : Env → Nat)
    (out : State → Env → List Row → Writes) : State :=
  s.fixedQ h i dst args lat fun s e _ rows => out s e rows

/-- A fixed-latency instruction with one register destination, computed lane by lane. -/
def State.alu (s : State) (h : Hdr) (i : Instr) (lat : Nat) (wide : Bool) (d : Reg) (args : List Arg)
    (f : List Opnd → Res) : State :=
  s.fixed h i (regCodes wide d) args (fun _ => lat) fun s _ rows =>
    (s.regOut wide d (fun r => f r.2) rows, fpOut (fun r => f r.2) rows)

/-- A fixed-latency instruction with one predicate destination. -/
def State.aluP (s : State) (h : Hdr) (i : Instr) (lat : Nat) (pd : Nat) (args : List Arg) (f : List Opnd → Bool) : State :=
  s.fixed h i [] args (fun _ => lat) fun s _ rows => (s.predOut pd (fun r => f r.2) rows, [])

end Sys2Proof.Machine
end

