-- ==== Sys2Proof/Machine/Flags.lean ====
section
/-!
DEFINITION. Numbers: integer types and their elements (R85), the floating-point and block-scale formats (R86 to R89), rounding
in every mode (R90 to R94), and the FP flags (R92, R95 to R99). Values are exact fractions; each narrows once.
-/

namespace Sys2Proof.Machine

/-! ### Integers -/

/-- Bits of one element of a type (R67, R85). -/
def Ty.bits : Ty → Nat
  | .i64 | .z64 => 64
  | .i16 | .z16 | .bf16 | .f16 => 16
  | .i8 | .z8 | .e4m3 | .e5m2 | .e8m0 => 8
  | .e3m2 | .e2m3 | .l6 => 6
  | .e2m1 => 4
  | _ => 32

/-- Elements in one register, or in the pair of a 64-bit type (R67). -/
def Ty.count : Ty → Nat
  | .i16 | .z16 | .bf16 | .f16 => 2
  | .i8 | .z8 | .e4m3 | .e5m2 | .e8m0 => 4
  | .e3m2 | .e2m3 | .l6 => 5
  | .e2m1 => 8
  | _ => 1

/-- The elements of a register, element 0 first (R67, R89). -/
def elems (ty : Ty) (x : Nat) : List Nat := (List.range (Ty.count ty)).map fun i => slice x (i * Ty.bits ty) (Ty.bits ty)

/-- A register built from its elements. -/
def ofElems (ty : Ty) : List Nat → Nat
  | [] => 0
  | x :: xs => x % 2 ^ Ty.bits ty + 2 ^ Ty.bits ty * ofElems ty xs

/-- An element read with the type's signedness. -/
def intVal (ty : Ty) (x : Nat) : Int := if ty.isSigned then signed (Ty.bits ty) x else (x % 2 ^ Ty.bits ty : Nat)

/-- The range of a type (R85). -/
def Ty.lo (ty : Ty) : Int := if ty.isSigned then -(2 ^ (Ty.bits ty - 1) : Nat) else 0
def Ty.hi (ty : Ty) : Int := if ty.isSigned then (2 ^ (Ty.bits ty - 1) : Nat) - 1 else (2 ^ Ty.bits ty : Nat) - 1

/-- An exact integer kept modulo 2^n, or clamped with .sat (R85). -/
def intRes (ty : Ty) (sat : Bool) (x : Int) : Nat := wrap (Ty.bits ty) (if sat then clampInt (Ty.lo ty) (Ty.hi ty) x else x)

/-! ### Formats -/

/-- An exact value: NaN, an infinity, or a sign with the magnitude `n / d` (zero keeps its sign). -/
inductive FVal
  | nan
  | inf (neg : Bool)
  | fin (neg : Bool) (n d : Nat)
  deriving DecidableEq, Repr, Inhabited

/-- Which codes of a format are NaN and infinities (R86). -/
inductive Special
  | ieee      -- the top exponent holds infinities and NaNs
  | oneNan    -- E4M3: the top code of each sign is NaN
  | finite    -- every code is finite
  deriving DecidableEq, Repr

/-- A floating-point format (R86). -/
structure Fmt where
  ebits : Nat
  mbits : Nat
  bias : Nat
  special : Special
  deriving DecidableEq, Repr

def fp32 : Fmt := ⟨8, 23, 127, .ieee⟩
def bf16 : Fmt := ⟨8, 7, 127, .ieee⟩
def fp16 : Fmt := ⟨5, 10, 15, .ieee⟩
def e5m2 : Fmt := ⟨5, 2, 15, .ieee⟩
def e4m3 : Fmt := ⟨4, 3, 7, .oneNan⟩
def e3m2 : Fmt := ⟨3, 2, 3, .finite⟩
def e2m3 : Fmt := ⟨2, 3, 1, .finite⟩
def e2m1 : Fmt := ⟨2, 1, 1, .finite⟩

def Ty.fmt : Ty → Fmt
  | .bf16 => bf16
  | .f16 => fp16
  | .e5m2 => e5m2
  | .e4m3 => e4m3
  | .e3m2 => e3m2
  | .e2m3 => e2m3
  | .e2m1 => e2m1
  | _ => fp32

/-- Weight of a format's lowest subnormal bit, as a power of two. -/
def Fmt.qmin (f : Fmt) : Int := 1 - (f.bias : Int) - f.mbits

def Fmt.signBit (f : Fmt) : Nat := 2 ^ (f.ebits + f.mbits)

/-- The code of the largest finite magnitude (R86). -/
def Fmt.maxCode (f : Fmt) : Nat := match f.special with
  | .ieee => (2 ^ f.ebits - 1) * 2 ^ f.mbits - 1
  | .oneNan => f.signBit - 2
  | .finite => f.signBit - 1

def Fmt.infCode (f : Fmt) : Nat := (2 ^ f.ebits - 1) * 2 ^ f.mbits

/-- The canonical NaN (R95). -/
def Fmt.nanCode (f : Fmt) : Nat := match f.special with
  | .ieee => f.infCode + 2 ^ (f.mbits - 1)
  | .oneNan => f.signBit - 1
  | .finite => 0

/-- `m * 2^q` as a fraction. -/
def scaled (neg : Bool) (m : Nat) (q : Int) : FVal :=
  match q with
  | .ofNat k => .fin neg (m * 2 ^ k) 1
  | .negSucc k => .fin neg m (2 ^ (k + 1))

/-- The value of a code (R86). -/
def Fmt.value (f : Fmt) (code : Nat) : FVal :=
  let neg := bitAt code (f.ebits + f.mbits)
  let e := slice code f.mbits f.ebits
  let m := slice code 0 f.mbits
  if f.special = .ieee ∧ e = 2 ^ f.ebits - 1 then (if m = 0 then .inf neg else .nan)
  else if f.special = .oneNan ∧ code % f.signBit = f.signBit - 1 then .nan
  else if e = 0 then scaled neg m f.qmin
  else scaled neg (2 ^ f.mbits + m) (f.qmin + ((e - 1 : Nat) : Int))

/-! ### Exact arithmetic -/

def FVal.neg : FVal → FVal
  | .nan => .nan
  | .inf s => .inf !s
  | .fin s n d => .fin (!s) n d

/-- Whether a value is a zero. -/
def FVal.isZero : FVal → Bool
  | .fin _ n _ => n == 0
  | _ => false

/-- The signed numerator. -/
def sgnInt (neg : Bool) (n : Nat) : Int := if neg then -(n : Int) else n

/-- Exact product; 0 × ∞ is NaN (R99). -/
def FVal.mul : FVal → FVal → FVal
  | .nan, _ => .nan
  | _, .nan => .nan
  | .inf s, y => if y.isZero then .nan else match y with
    | .fin t _ _ => .inf (s != t)
    | .inf t => .inf (s != t)
    | .nan => .nan
  | .fin s n _, .inf t => if n = 0 then .nan else .inf (s != t)
  | .fin s n d, .fin t m c => .fin (s != t) (n * m) (d * c)

/-- Exact sum; an exact zero of operands of opposite sign is −0 under .rd (R98). -/
def FVal.add (down : Bool) : FVal → FVal → FVal
  | .nan, _ => .nan
  | _, .nan => .nan
  | .inf s, .inf t => if s = t then .inf s else .nan
  | .inf s, .fin _ _ _ => .inf s
  | .fin _ _ _, .inf t => .inf t
  | .fin s n d, .fin t m c =>
    let x := sgnInt s n * c + sgnInt t m * d
    if x = 0 then .fin (if s = t then s else down) 0 1 else .fin (decide (x < 0)) x.natAbs (d * c)

/-- ∞ − ∞, the invalid sum (R99). -/
def FVal.badSum : FVal → FVal → Bool
  | .inf s, .inf t => s != t
  | _, _ => false

/-- 0 × ∞, the invalid product (R99). -/
def FVal.badMul : FVal → FVal → Bool
  | .inf _, y => y.isZero
  | x, .inf _ => x.isZero
  | _, _ => false

/-- Whether `x < y` for two numbers. −0 equals +0. -/
def FVal.lt : FVal → FVal → Bool
  | .nan, _ => false
  | _, .nan => false
  | .inf s, .inf t => s && !t
  | .inf s, _ => s
  | _, .inf t => !t
  | .fin s n d, .fin t m c => decide (sgnInt s n * c < sgnInt t m * d)

def FVal.eqv : FVal → FVal → Bool
  | .nan, _ => false
  | _, .nan => false
  | x, y => !x.lt y && !y.lt x

def FVal.isNan : FVal → Bool
  | .nan => true
  | _ => false

/-! ### Rounding -/

/-- FP flags in the layout of R73. -/
def flNV : Nat := 1
def flDZ : Nat := 2
def flOF : Nat := 4
def flUF : Nat := 8
def flNX : Nat := 16

/-- A result's code with the flags it raises. -/
structure FRes where
  code : Nat
  fl : Nat
  deriving DecidableEq, Repr, Inhabited

/-- floor(log2(n / d)) for n, d > 0. -/
def log2Floor (n d : Nat) : Int :=
  let k : Int := (n.log2 : Int) - d.log2
  let below := match k with
    | .ofNat j => decide (n < d * 2 ^ j)
    | .negSucc j => decide (n * 2 ^ (j + 1) < d)
  if below then k - 1 else k

/-- Whether a magnitude `a + r / d` between the multiples a and a + 1 goes away from zero (R90, R91, R94); `u` is the draw's
upper half. -/
def goesUp (rnd : Rnd) (neg : Bool) (u a r d : Nat) : Bool :=
  match rnd with
  | .rn => decide (d < 2 * r) || (2 * r == d && a % 2 == 1)
  | .rz => false
  | .ru => !neg && r != 0
  | .rd => neg && r != 0
  | .rs => r != 0 && u < r * 2 ^ 32 / d

/-- The magnitude `n / d` as a multiple of 2^q: the multiple below, the remainder and its denominator. -/
def quanta (n d : Nat) (q : Int) : Nat × Nat × Nat :=
  match q with
  | .ofNat k => (n / (d * 2 ^ k), n % (d * 2 ^ k), d * 2 ^ k)
  | .negSucc k => (n * 2 ^ (k + 1) / d, n * 2 ^ (k + 1) % d, d)

/-- The result of an overflow (R92). -/
def overflowCode (f : Fmt) (rnd : Rnd) (sat neg : Bool) : Nat :=
  let toInf := f.special == .ieee && !sat && (match rnd with
    | .rn => true
    | .ru => !neg
    | .rd => neg
    | .rz | .rs => false)
  (if toInf then f.infCode else f.maxCode) + (if neg then f.signBit else 0)

/-- Rounds the nonzero magnitude `n / d` once (R91, R92, R94, R98). -/
def roundFin (f : Fmt) (rnd : Rnd) (sat : Bool) (u : Nat) (neg : Bool) (n d : Nat) : FRes :=
  let e := log2Floor n d
  let emin : Int := 1 - (f.bias : Int)
  let q := if e < emin then f.qmin else e - f.mbits
  let p := quanta n d q
  let m := if goesUp rnd neg u p.1 p.2.1 p.2.2 then p.1 + 1 else p.1
  let exact := p.2.1 == 0
  let code := (q - f.qmin).toNat * 2 ^ f.mbits + m
  -- the same rounding with an unbounded exponent range, for tininess
  let t := quanta n d (e - f.mbits)
  let tm := if goesUp rnd neg u t.1 t.2.1 t.2.2 then t.1 + 1 else t.1
  let tiny := e < emin && !(e == emin - 1 && tm == 2 ^ (f.mbits + 1))
  if f.maxCode < code then ⟨overflowCode f rnd sat neg, flOF + flNX⟩
  else ⟨code + (if neg then f.signBit else 0), if exact then 0 else flNX + (if tiny then flUF else 0)⟩

/-- Rounds an exact value into a format. `conv`: a conversion, in which .sat and formats without infinities replace an
infinite source (R92); elsewhere an infinity stands (R266). NaN follows R95 and R96. -/
def roundTo (f : Fmt) (rnd : Rnd) (sat conv : Bool) (u : Nat) : FVal → FRes
  | .nan => if f.special = .finite then ⟨0, flNV⟩ else ⟨f.nanCode, 0⟩
  | .inf neg =>
    let s := if neg then f.signBit else 0
    if f.special ≠ .ieee ∨ (conv ∧ sat) then ⟨f.maxCode + s, flOF⟩ else ⟨f.infCode + s, 0⟩
  | .fin neg n d => if n = 0 then ⟨if neg then f.signBit else 0, 0⟩ else roundFin f rnd sat u neg n d

/-- An exact value rounded to an integer type (R97). -/
def roundInt (ty : Ty) (rnd : Rnd) (u : Nat) : FVal → FRes
  | .nan => ⟨0, flNV⟩
  | .inf neg => ⟨wrap (Ty.bits ty) (if neg then Ty.lo ty else Ty.hi ty), flNV⟩
  | .fin neg n d =>
    let p := quanta n d 0
    let m := if goesUp rnd neg u p.1 p.2.1 p.2.2 then p.1 + 1 else p.1
    let x := sgnInt neg m
    if x < Ty.lo ty ∨ Ty.hi ty < x then ⟨wrap (Ty.bits ty) (clampInt (Ty.lo ty) (Ty.hi ty) x), flNV⟩
    else ⟨wrap (Ty.bits ty) x, if p.2.1 = 0 then 0 else flNX⟩

/-! ### LNS6 (R87, R91) -/

/-- Bits of the fixed point in which powers of 2^(1/4) are compared. -/
def lnsBits : Nat := 512

/-- floor(2^(L/4 + lnsBits)). -/
def lnsMag (l : Int) : Nat := Nat.sqrt (Nat.sqrt (2 ^ (l + 4 * (lnsBits : Int)).toNat))

/-- The value of an LNS6 code: exact where it is a power of two, else between its neighbours in the fixed point. -/
def lnsValue (code : Nat) : FVal :=
  let neg := bitAt code 5
  let l := signed 5 code
  if l = -16 then .fin neg 0 1
  else if l % 4 = 0 then scaled neg 1 (l / 4)
  else .fin neg (2 * lnsMag l + 1) (2 ^ (lnsBits + 1))

/-- The largest quarter-log, from `lo` up, whose power does not exceed `n / d`; `k` steps are tried. -/
def lnsFloor (n d : Nat) : Nat → Int → Int
  | 0, l => l
  | k + 1, l => if lnsMag (l + 1) * d ≤ n * 2 ^ lnsBits then lnsFloor n d k (l + 1) else l

/-- Rounds a nonzero magnitude into LNS6 (R87, R91, R92, R98). -/
def lnsRound (rnd : Rnd) (u : Nat) (neg : Bool) (n d : Nat) : FRes :=
  let s := if neg then 32 else 0
  let x := n * 2 ^ lnsBits
  -- the neighbours below and above, the lower being zero below the smallest magnitude
  let l := lnsFloor n d 33 (-17)
  let low := if l < -15 then 0 else lnsMag l
  let high := if l < -15 then lnsMag (-15) else lnsMag (l + 1)
  let exact := l ≥ -15 && l % 4 == 0 && lnsMag l * d == x
  let up (a b : Nat) : Bool := match rnd with
    | .rn => decide ((a + b) * d < 2 * x)
    | .rz => false
    | .ru => !neg
    | .rd => neg
    | .rs => u < (x - a * d) * 2 ^ 32 / ((b - a) * d)
  let r : Int := if exact then l else if up low high then (if l < -15 then -15 else l + 1) else if l < -15 then -16 else l
  -- tininess, with quarter-logs unbounded below: 2^-4 is then representable, and what lies between it and 2^-3.75 may round up
  let tiny := l < -15 && !(l == -16 && lnsMag (-16) * d != x && up (lnsMag (-16)) (lnsMag (-15)))
  if 15 < r ∨ 15 < l then ⟨15 + s, flOF + flNX⟩
  else ⟨wrap 5 r + s, if exact then 0 else flNX + (if tiny then flUF else 0)⟩

/-- Rounds an exact value into any packed or scalar floating-point type. -/
def roundTy (ty : Ty) (rnd : Rnd) (sat conv : Bool) (u : Nat) (v : FVal) : FRes :=
  match ty with
  | .l6 => match v with
    | .nan => ⟨0x10, flNV⟩
    | .inf neg => ⟨15 + (if neg then 32 else 0), flOF⟩
    | .fin neg n d => if n = 0 then ⟨0x10 + (if neg then 32 else 0), 0⟩ else lnsRound rnd u neg n d
  | _ => roundTo (Ty.fmt ty) rnd sat conv u v

/-- The value of an element of a floating-point type; of an E8M0 scale (R88). -/
def valueTy (ty : Ty) (code : Nat) : FVal :=
  match ty with
  | .l6 => lnsValue (code % 64)
  | .e8m0 => if code % 256 = 255 then .nan else scaled false 1 (((code % 256 : Nat) : Int) - 127)
  | _ => (Ty.fmt ty).value (code % (2 * (Ty.fmt ty).signBit))

/-- The FP32 value of a register. -/
def fval (x : Nat) : FVal := fp32.value x

/-- +0 of a packed type (R274). -/
def zeroCode (ty : Ty) : Nat := match ty with
  | .l6 => 0x10
  | _ => 0

/-! ### Signs (R262) -/

/-- ABS and then NEG on every element of an operand (R262). -/
def signMod (ty : Ty) (abs neg : Bool) (x : Nat) : Nat :=
  ofElems ty ((elems ty x).map fun c =>
    let top := 2 ^ (Ty.bits ty - 1)
    let c := if abs then c % top else c
    if neg then (if c / top = 0 then c + top else c - top) else c)

/-! ### Shadows (R108, R472) -/

/-- What the shadow of a lane recomputes: a sum, a difference, the product of the first two sources, or that product and its sum with
the third. -/
inductive Shadow
  | sum | diff | product | fma
  deriving DecidableEq, Repr

/-- A number that a shadow checks: neither NaN, infinite, zero nor subnormal. -/
def Fmt.plain (f : Fmt) (c : Nat) : Bool := slice c f.mbits f.ebits != 0 && (match f.value c with
  | .fin _ _ _ => true
  | _ => false)

/-- A code with its sign, its exponent and the top 4 bits of its mantissa. -/
def Fmt.lead (f : Fmt) (c : Nat) : Nat := setBits c 0 (f.mbits - 4) 0

/-- Sign, exponent and top 4 mantissa bits of a nonzero number. -/
def FVal.lead : FVal → Option (Bool × Int × Nat)
  | .fin s n d => if n = 0 then none else some (s, log2Floor n d, (quanta n d (log2Floor n d - 4)).1)
  | _ => none

/-- Whether a result fails against its shadow. -/
def FVal.strays (x y : FVal) : Bool :=
  match x.lead, y.lead with
  | some a, some b => a.1 != b.1 || 1 < (a.2.1 - b.2.1).natAbs || (a.2.1 == b.2.1 && 2 < ((a.2.2 : Int) - b.2.2).natAbs)
  | _, _ => false

/-- The value of a lead. -/
def leadVal (l : Bool × Int × Nat) : FVal := scaled l.1 l.2.2 (l.2.1 - 4)

/-- Whether the shadow finds the sum `r` of two values wrong. An effective subtraction is checked only where the exponents differ by 2
or more. -/
def sumMiss (x y r : FVal) : Bool :=
  match x.lead, y.lead with
  | some a, some b => (a.1 == b.1 || 2 ≤ (a.2.1 - b.2.1).natAbs) && ((leadVal a).add false (leadVal b)).strays r
  | _, _ => false

/-- Whether the shadow finds a lane's result wrong: `unit` is what the lane gives in place of a result, and of the product of a fused
operation under 1. -/
def shadowMiss (k : Shadow) (f : Fmt) (xs : List Nat) (unit : Nat → Option Nat) : Bool :=
  let x := xs.getD 0 0
  let y := match k with
    | .diff => signMod .f32 false true (xs.getD 1 0)
    | _ => xs.getD 1 0
  let z := xs.getD 2 0
  let prod := (f.value (f.lead x)).mul (f.value (f.lead y))
  let sum (v w : FVal) := (unit 0).any fun r => f.plain r && sumMiss v w (f.value r)
  f.plain x && f.plain y && (match k with
    | .product => (unit 0).any fun r => f.plain r && prod.strays (f.value r)
    | .fma => ((unit 1).any fun r => f.plain r && prod.strays (f.value r)) || (f.plain z && sum ((f.value x).mul (f.value y)) (f.value z))
    | _ => sum (f.value x) (f.value y))

/-! ### Random state (R93) -/

def mix (z : BitVec 64) : BitVec 64 :=
  let z := (z ^^^ (z >>> 30)) * 0xBF58476D1CE4E5B9
  let z := (z ^^^ (z >>> 27)) * 0x94D049BB133111EB
  z ^^^ (z >>> 31)

/-- The draw of a lane `k` draws ahead of its counter. -/
def Lane.draw (l : Lane) (k : Nat) : BitVec 64 := mix (l.key + mix (l.ctr + BitVec.ofNat 64 k + 0x9E3779B97F4A7C15))

/-- The upper half of a draw, which decides a stochastic rounding (R94). -/
def Lane.drawU (l : Lane) (k : Nat) : Nat := slice (l.draw k).toNat 32 32

end Sys2Proof.Machine
end

