-- ==== Sys2Proof/Machine/Fetch.lean ====
section
/-!
DEFINITION. Fetching: the line at a PC (R189 to R192), the entries of the script (R204), and the lines that a branch or a return
checks (R202).
-/

namespace Sys2Proof.Machine

/-- A translation by a core or stack core in its group's context. -/
def State.translateFor (s : State) (g : Group) (va : Nat) (k : AccKind) : State × Except Nat Trans :=
  s.translate g.agent (s.ctxOf g) va k

/-- The line that holds a PC. A line whose parity fails, and one with a poisoned sector, is the hardware error 0x3101: the second
copy is the first again (R192, R130). No page is mapped above bit 51 (R111). A fetch that races with a write of the line has the bytes
that stand there at the issue (R206 allows the old and the new ones; assumption 51). -/
def State.fetchLine (s : State) (g : Group) (pc : Nat) : State × Except Nat Line :=
  if 2 ^ 52 ≤ pc then (s, .error 0x1202)
  else
    let r := s.translateFor g (pcLine pc) .fetch
    match r.2 with
    | .error c => (r.1, .error c)
    | .ok t =>
      if r.1.poisonAt t.a || r.1.poisonAt (t.a + 32) then (r.1, .error 0x3101)
      else
        let l := Line.ofBytes ((List.range 64).map fun i => r.1.peekByte (t.a + i))
        (r.1, if l.parityOk then .ok l else .error 0x3101)

/-- One entry of the script from memory (R204): three 4-byte words, each translated where it lies. A failure is its code and address. -/
def State.fetchScript (s : State) (g : Group) (va : Nat) : Nat → State × Except (Nat × Nat) Nat
  | 0 => (s, .ok 0)
  | n + 1 =>
    let r := s.translateFor g va .read
    match r.2 with
    | .error c => (r.1, .error (c, va))
    | .ok t =>
      if r.1.poisonAt t.a then (r.1, .error (0x3102, va))
      else
        let q := r.1.fetchScript g (va + 4) n
        match q.2 with
        | .error c => (q.1, .error c)
        | .ok x => (q.1, .ok (r.1.peek t.a 4 + 2 ^ 32 * x))

/-- Where a script entry stands (R204, R411). -/
def State.entryAt (s : State) (t : Take) (ix : Nat) : Nat := ((s.findCtx t.ctx).elim 0 fun c => slice c.script.toNat 6 46 * 64) + 12 * ix

/-- Reads a script entry from memory and keeps it for the core of the group. -/
def State.readEntry (s : State) (g : Group) (t : Take) (ix : Nat) : State × Except (Nat × Nat) Nat :=
  let r := s.fetchScript g (s.entryAt t ix) 3
  match r.2 with
  | .error c => (r.1, .error c)
  | .ok w => (r.1.modTake t.tid fun t =>
      { t with entries := NMap.put none t.entries (g.agent * 1024 + ix) (some (BitVec.ofNat 96 w)) }, .ok w)

/-- A script entry as the core of the group keeps it: read from memory when its code first issues there. A kept entry whose parity
check fails is read again, and a second failure is the hardware error 0x3102 (R204). -/
def State.scriptEntry (s : State) (g : Group) (ix : Nat) : State × Except (Nat × Nat) Nat :=
  match s.takeOf g with
  | none => (s, .error (0x1200, 0))
  | some t =>
    match NMap.get none t.entries (g.agent * 1024 + ix) with
    | some w =>
      if Config.upset s.fresh then
        if Config.upset (s.fresh + 1) then ({ s with fresh := s.fresh + 2 }, .error (0x3102, s.entryAt t ix))
        else ({ s with fresh := s.fresh + 2 } : State).readEntry g t ix
      else (s, .ok w.toNat)
    | none => s.readEntry g t ix

/-- Entries in the script of the group's take (R411). -/
def State.scriptSize (s : State) (g : Group) : Nat :=
  (s.findCtx (s.ctxOf g)).elim 0 fun c => slice c.script.toNat 52 11

/-- Fetches the target lines of lanes and checks the targets (R202): the lanes that fail, with code and address. -/
def State.fetchTargets (s : State) (g : Group) (ok : Line → Nat → Bool) : List (Nat × Nat) → State × List (Nat × Nat × Nat)
  | [] => (s, [])
  | (lane, t) :: ts =>
    let r := s.fetchLine g t
    let f := match r.2 with
      | .error c => [(lane, c, pcLine t)]
      | .ok l => if ok l t then [] else [(lane, 0x2107, 0)]
    let q := r.1.fetchTargets g ok ts
    (q.1, f ++ q.2)

/-- A target that BRA, BRX, CALL and CALLX may enter (R202). -/
def targetOk (l : Line) (pc : Nat) : Bool := l.wellFormed pc && pcPos pc == 0 && l.isTarget (pcSlot pc)

/-- A target that LOOP and ENDL may enter (R234). -/
def loopTargetOk (l : Line) (pc : Nat) : Bool := l.wellFormed pc && pcPos pc == 0

end Sys2Proof.Machine
end

