-- ==== Sys2Proof/Machine/Access.lean ====
section
/-!
DEFINITION. Accesses of lanes and engines: translation with the limits of a stack core (R163) and of a retakable take (R460),
addresses of scratchpad and private memory (R112 to R114), and reading and writing one unit (R137) at its point of
coherence (R123 to R125, R139), with poison (R130 to R132).
-/

namespace Sys2Proof.Machine

/-- Whether the take of a group protects its write set (R459). -/
def Take.retakable (t : Take) : Bool := t.slate.retake

/-- Whether a write to a page is refused (R460). -/
def Take.refuses (t : Take) (pg : Page) : Bool :=
  t.retakable && pg.snap && !(t.marked.any fun m => m.1 == pg.vgran)

/-- A physical granule under its placement, as one number. -/
def Page.granule (pg : Page) : Nat := pg.place * 2 ^ 25 + pg.pgran % 2 ^ 25

/-- The cell of byte `i` of a granule (R116). -/
def granuleCell (k i : Nat) : Nat :=
  let a := k % 2 ^ 25 * 2 ^ 15 + i
  if k / 2 ^ 25 = 3 then a else cellOf (k / 2 ^ 25) a

/-- The physical granule that must be copied before a write to a page: one that lies behind a marked granule, through whichever alias the
write comes (R461). -/
def Take.copyFirst (t : Take) (pg : Page) : Option Nat :=
  if t.retakable && (t.marked.any fun m => m.2 == pg.granule) && !(t.copies.any fun c => c.1 == pg.granule) && !t.uncopied.contains pg.granule then some pg.granule else none

/-- The snapshot pool registers of a device partition: those of the command processor that leads it (R427, R463). -/
def State.poolReg (s : State) (p : Nat) : Nat := 0x10000 + 0x40 * (s.stacksOf p).headD 0

/-- Copies a line with its poison (R461): the dirty line at `a` is written back first, and the line at `b` leaves the L2. -/
def State.copyLine (s : State) (a b : Nat) : State :=
  let s := (s.cleanLine (lineOf a)).dropLine (lineOf b)
  { s.setCells b 128 (s.cells a 128) with
    poison := NMap.putAll false s.poison ((List.range 4).map fun i => (4 * lineOf b + i, bitAt (s.poisonBelow (lineOf a)) i)) }

/-- The places of a partition's snapshot pool that hold copies. -/
def State.poolTaken (s : State) (p : Nat) : List Nat :=
  (s.takes.filter fun t => (s.findCtx t.ctx).elim 8 Ctx.dpart == p).flatMap fun t => t.copies.map Prod.snd

/-- The directory entry of a copy takes 64 bytes at the end of the pool (R463); what they hold is open (assumption 63). -/
def State.writeDirectory (s : State) (a : Nat) : State :=
  ((List.range 8).foldl (fun (s : State) i => s.setCells (cellOf 1 (a + 8 * i)) 8 (s.free 604 i)) (s.evictLine (lineOf (cellOf 1 a)))).renew

/-- Copies a granule into the snapshot pool (R461): its dirty lines are written back, and its bytes and poison go to the lowest free
32 KiB of the pool (assumption 63). A pool without room leaves the take unrestorable (R462). -/
def State.copyGranule (s : State) (tid gran : Nat) : State :=
  match s.findTake tid with
  | none => s
  | some t =>
    let p := (s.findCtx t.ctx).elim 8 Ctx.dpart
    let pool := s.poolReg p
    let used := s.field (pool + 8) 0 32
    if used < s.field pool 40 16 * 2 ^ 20 / (2 ^ 15 + 64) then
      let base := s.field pool 12 28 * 2 ^ 12
      let taken := s.poolTaken p
      let k := ((List.range (taken.length + 1)).find? fun k => !taken.contains (base + 2 ^ 15 * k)).getD 0
      let dest := base + 2 ^ 15 * k
      let s := (List.range 256).foldl (fun (s : State) i => s.copyLine (granuleCell gran (128 * i)) (cellOf 1 (dest + 128 * i))) s
      let s := s.writeDirectory (base + s.field pool 40 16 * 2 ^ 20 - 64 * (k + 1))
      (s.setField (pool + 8) 0 32 (used + 1)).modTake tid fun t =>
        { t with copies := t.copies ++ [(gran, dest)], copyDue := t.copyDue.filter fun k => k != gran }
    else s.modTake tid fun t =>
      { t with unrestorable := true, uncopied := t.uncopied ++ [gran], copyDue := t.copyDue.filter fun k => k != gran }

/-- The code that stands for a return trap among translation failures (R163). -/
def trapCode : Nat := 0x1000

/-- Translates one access of a lane. On a stack core only pages placed stack on its own stack are reached (R163); a write outside
the write set is refused (R460). -/
def State.transAcc (s : State) (g : Group) (va : Nat) (k : AccKind) : State × Except Nat Trans :=
  let r := s.translateFor g va k
  match r.2 with
  | .error c => (r.1, .error c)
  | .ok t =>
    if g.onStack && !(t.pg.place == 1 && t.pg.stack == g.stackNo) then (r.1, .error trapCode)
    else if k == .write && ((s.takeOf g).any fun x => x.refuses t.pg) then (r.1, .error 0x21D0)
    else (r.1, .ok t)

/-- A lane's private byte (R114). -/
def State.privVa (s : State) (g : Group) (lane off : Nat) : Nat :=
  match s.takeOf g with
  | none => 0
  | some t => t.slate.privBase + (1024 * g.groupId + (g.lane lane).home) * t.slate.privSize + off

/-- A scratchpad address as target group, bank and offset (R112); the fault otherwise. A team member that has not started is
reported as group `none` (R41). -/
def State.scratchLoc (s : State) (g : Group) (x : Nat) : Except Nat (Option (Nat × Nat × Nat)) :=
  let win := bitAt x 23
  let rank := slice x 19 4
  let size := if g.onStack || g.kind != .kernel then 1 else (s.takeOf g).elim 1 fun t => t.slate.team
  if slice x 24 8 != 0 || (!win && rank != 0) then .error 0x2140
  else if win && size ≤ rank then .error 0x2141
  else
    let own := !win || g.kind != .kernel || rank == g.teamRank
    let tgt := if own then some g else
      s.groups.find? fun y => y.take == g.take && y.kind == .kernel && y.groupId == g.groupId - g.teamRank + rank
    match tgt with
    | none => .ok none
    | some y =>
      match y.banks[slice x 15 4]? with
      | some b => if b.mode == .sp then .ok (some (y.gid, slice x 15 4, slice x 0 15)) else .error 0x2114
      | none => .error 0x2114

/-- Counts a poisoned sector read on a poison-tolerant page, with the sector's device physical address (R132, R469). -/
def State.tolerate (s : State) (pa : Nat) : State :=
  (s.setField 0x20018 0 32 (s.field 0x20018 0 32 + 1)).setField 0x20020 0 40 (pa / 32 * 32)

/-- The bytes of a unit in a bank. -/
def State.readBank (s : State) (g b off n : Nat) : Nat :=
  (((s.findGroup g).bind fun y => y.banks[b]?).elim 0 fun k => k.readNat off n)

def State.modBank (s : State) (g b : Nat) (f : Bank → Bank) : State :=
  s.modGroup g fun y => { y with banks := y.banks.modify b f }

/-- Who makes an access: a lane of core `c` with a cache hint, an engine of a core or another agent at the points of coherence,
or an agent beneath the L2 (R123 to R125). -/
inductive Via
  | lane (c hint : Nat)
  | home
  | below
  deriving DecidableEq, Repr

/-- How a lane of a group reaches memory. -/
def Group.via (g : Group) (hint : Nat) : Via := if g.onStack then .below else .lane g.agent hint

/-- Whether an agent reaches memory beneath the L2. -/
def Via.beneath : Via → Bool
  | .below => true
  | _ => false

/-- Reads a unit: its bytes and whether a poisoned sector was consumed. A poison-tolerant page gives zeros (R132), and a cell that a
second placement maps an undefined value (R117). -/
def State.readUnit (s : State) (v : Via) (u : MUnit) : State × Nat × Bool :=
  match u.loc with
  | .bank g b off => (s, s.readBank g b off u.n, false)
  | .mem a pg =>
    let r := match v with
      | .lane c hint => s.readCore c a u.n hint pg.ptro
      | .home => s.readHome a u.n
      | .below => if isHost a then s.readHome a u.n else s.readBelow a u.n
    if r.2.2 && pg.ptro then (r.1.tolerate (pg.phys a), 0, false)
    else if r.1.mappedTwice pg.place a then (r.1.renew, r.1.free 602 0 % 2 ^ (8 * u.n), r.2.2)
    else r

/-- Writes a unit. -/
def State.writeUnit (s : State) (v : Via) (u : MUnit) (x : Nat) : State :=
  match u.loc with
  | .bank g b off => s.modBank g b fun k => k.writeNat off u.n x
  | .mem a _ =>
    match v with
    | .lane c _ => s.writeCore c a u.n x
    | .home => s.writeHome a u.n x
    | .below => if isHost a then s.writeHome a u.n x else s.writeBelow a u.n x

/-- Cells that units in memory cover. -/
def memSpans (us : List MUnit) : List (Nat × Nat) :=
  us.filterMap fun u => match u.loc with
    | .mem a _ => some (a, u.n)
    | .bank _ _ _ => none

/-- Splits an access of `n` bytes at a location into its single-copy atomic units (R137). -/
def splitUnits (l : Loc) (n : Nat) : List MUnit :=
  if n ≤ 8 then [⟨l, n⟩]
  else match l with
    | .mem a p => [⟨.mem a p, 8⟩, ⟨.mem (a + 8) p, n - 8⟩]
    | .bank g b o => [⟨.bank g b o, 8⟩, ⟨.bank g b (o + 8), n - 8⟩]

/-- Whether two units share a byte. -/
def MUnit.overlaps (x y : MUnit) : Bool :=
  match x.loc, y.loc with
  | .mem a _, .mem b _ => a < b + y.n && b < a + x.n
  | .bank g k a, .bank h j b => g == h && k == j && a < b + y.n && b < a + x.n
  | _, _ => false

/-- The sector of a unit in memory. -/
def MUnit.sector (u : MUnit) : Option Nat := match u.loc with
  | .mem a _ => some (sectorOf a)
  | .bank _ _ _ => none

/-- The unit path of the storage behind a unit, and its device physical address (R470, R471). -/
def MUnit.trace (u : MUnit) : Nat × Nat := match u.loc with
  | .mem a pg => (cellPath a, pg.phys a)
  | .bank _ _ _ => (0, 0)

/-- Reads the units of an access in turn: the value, little-endian, and the trace of the first poisoned unit. A poisoned sector of a
poison-tolerant page counts once for the access (R132), at the last of its units there. -/
def State.readUnits (s : State) (v : Via) : List MUnit → State × Nat × Option (Nat × Nat)
  | [] => (s, 0, none)
  | u :: us =>
    let r := s.readUnit v u
    let again := us.any fun x => x.sector.isSome && x.sector == u.sector
    let q := (if again then { r.1 with regs := s.regs } else r.1).readUnits v us
    (q.1, r.2.1 + 2 ^ (8 * u.n) * q.2.1,
      if r.2.2 then some u.trace else q.2.2)

/-- Writes the units of an access in turn. -/
def State.writeUnits (s : State) (v : Via) : List MUnit → Nat → State
  | [], _ => s
  | u :: us, x => (s.writeUnit v u (x % 2 ^ (8 * u.n))).writeUnits v us (x / 2 ^ (8 * u.n))

end Sys2Proof.Machine
end

