-- ==== Sys2Proof/Machine/Control.lean ====
section
/-!
DEFINITION. The control family (R226 to R241) and the width instructions WCUT and WSPLICE as they issue (R50, R51, R54, R55).
When one of these issues, every lane of its entry already stands at the next instruction.
-/

namespace Sys2Proof.Machine

abbrev Outcome := Host.Outcome State Fault Refusal

/-- NOP (R237). -/
def execNop (_h : Hdr) (s : State) : Outcome := .next s

/-- Lanes go to their targets; `prio` is the new priority, or none where it stays (R28, R234). -/
def State.goTo (s : State) (e : Env) (ts : List (Nat × Nat)) (prio : Option (BitVec 8)) : State :=
  s.modLanes e.g.gid (ts.map Prod.fst) fun i l =>
    { l with pc := BitVec.ofNat 64 ((ts.find? fun t => t.1 == i).elim 0 Prod.snd), prio := prio.getD l.prio }

/-- The lanes whose targets R202 or R234 forbids. -/
def wrongTargets (fails : List (Nat × Nat × Nat)) : List Nat := (fails.filter fun f => f.2.1 == 0x2107).map Prod.fst

/-- What follows of the failures `fails` of a branch, call or return, lowest lane first: a hardware error, a forbidden target (R210, row 2),
the first of the execution faults `faults`, with its lanes, or the parking of the lanes whose translations fail, as one sub-warp (R456). -/
def State.jump (s : State) (e : Env) (fails : List (Nat × Nat × Nat)) (faults : List (Nat × List Nat)) (write : Bool)
    (k : State → List Nat → State) : State :=
  match fails.find? (fun f => f.2.1 / 4096 == 3), wrongTargets fails, faults.find? fun f => !f.2.isEmpty with
  | none, l :: ls, _ => s.fail e 0x2107 (l :: ls) 0
  | none, [], some f => s.fail e f.1 f.2 0
  | _, _, _ => s.settleLanes e fails write 0 k

/-- Checks the targets of lanes and then acts for the lanes that do not park at the instruction (R202). -/
def State.branch (s : State) (e : Env) (ok : Line → Nat → Bool) (ts : List (Nat × Nat))
    (k : State → List (Nat × Nat) → State) : State :=
  let r := s.fetchTargets e.g ok ts
  r.1.jump e r.2 [] false fun s act => k s (ts.filter fun t => act.contains t.1)

/-- As `branch`, for targets that lanes read from registers; `faults` are the execution faults, with their lanes, which come after a
forbidden target (R210). The target of a lane that read it too early (the third part) is taken as it comes: no fault arises (R31). -/
def State.branchReg (s : State) (e : Env) (ok : Line → Nat → Bool) (ts : List (Nat × Nat × Bool)) (faults : List (Nat × List Nat))
    (k : State → List (Nat × Nat) → State) : State :=
  let r := s.fetchTargets e.g ok ((ts.filter fun t => !t.2.2).map fun t => (t.1, t.2.1))
  r.1.jump e r.2 faults false fun s act => k s ((ts.filter fun t => act.contains t.1).map fun t => (t.1, t.2.1))

/-- Targets of the branch form: one for all lanes of `active` (R201). -/
def branchTargets (e : Env) (off : BitVec 32) : List (Nat × Nat) :=
  e.act.map fun l => (l, branchTarget e.iss.pc.toNat (signed 32 off.toNat))

/-- BRA (R228). -/
def execBra (h : Hdr) (o : BraOps) (s : State) : Outcome :=
  .next (s.withEnv h fun e => s.branch e targetOk (branchTargets e o.offset) fun s ts => s.goTo e ts (some o.prio))

/-- The targets that lanes hold in a v pair, with whether each was read too early, and the lanes that its tag check stops (R69). -/
def State.pairTargets (s : State) (h : Hdr) (va : Nat) (k : Env → State → List (Nat × Nat × Bool) → List (Nat × List Nat) → State) : State :=
  s.checked h (fun _ => [va, va + 1]) fun e =>
    let r := s.readRows e [Arg.v .i64 va]
    k e r.1 (r.2.map fun x => (x.1, (x.2.headD default).val, x.haz)) [(0x2130, badTags [Arg.v .i64 va] r.2)]

/-- BRX (R228). -/
def execBrx (h : Hdr) (o : BrxOps) (s : State) : Outcome :=
  .next (s.pairTargets h o.va fun e s ts faults => s.branchReg e targetOk ts faults fun s ts => s.goTo e ts (some o.prio))

/-- The size of a lane's private memory (R114). -/
def State.privSize (s : State) (g : Group) : Nat := (s.takeOf g).elim 0 fun t => t.slate.privSize

/-- Translates the frames of lanes (R229): lane, location of the frame and its address; and the failures. -/
def State.frames (s : State) (e : Env) (k : AccKind) (depth : Nat → Nat) :
    List Nat → State × List (Nat × Loc × Nat) × List (Nat × Nat × Nat)
  | [] => (s, [], [])
  | l :: ls =>
    let va := s.privVa e.g l (s.privSize e.g - 16 * (depth l + 1))
    let r := s.transAcc e.g va k
    let q := r.1.frames e k depth ls
    match r.2 with
    | .ok t => (q.1, (l, .mem t.a t.pg, va) :: q.2.1, q.2.2)
    | .error c => (q.1, q.2.1, (l, c, va) :: q.2.2)

/-- Copies what a write to these locations must wait for (R461). -/
def State.copyAll (s : State) (tid : Nat) : List Loc → State
  | [] => s
  | .mem _ pg :: ls =>
    (match (s.findTake tid).bind fun t => t.copyFirst pg with
     | some k => s.copyGranule tid k
     | none => s).copyAll tid ls
  | .bank _ _ _ :: ls => s.copyAll tid ls

/-- The lanes of a call whose private memory has no room for another frame (R230). -/
def State.fullFrames (s : State) (e : Env) (lanes : List Nat) : List Nat :=
  lanes.filter fun l => s.privSize e.g < 16 * ((e.g.lane l).depth + 1)

/-- CALL and CALLX (R230) of lanes to the targets `ts`, each with whether it was read too early: the targets are checked and the frames
translated, and what fails of the two parks as one (R456). The frame is written in the lane's private memory, and the lane goes on at its
target one level deeper. -/
def State.callLanes (s : State) (e : Env) (prio : BitVec 8) (ts : List (Nat × Nat × Bool)) (faults : List (Nat × List Nat)) : State :=
  let r := s.fetchTargets e.g targetOk ((ts.filter fun t => !t.2.2).map fun t => (t.1, t.2.1))
  let going := (ts.map Prod.fst).filter fun l => !(r.2.any fun f => f.1 == l)
  let full := s.fullFrames e going
  let q := r.1.frames e .write (fun l => (e.g.lane l).depth) (going.filter fun l => !full.contains l)
  let fails := ts.filterMap fun t => (r.2 ++ q.2.2).find? fun f => f.1 == t.1
  q.1.jump e fails (faults ++ [(0x2132, full)]) (fails.head?.any q.2.2.contains) fun s act =>
    let fs := q.2.1.filter fun f => act.contains f.1
    let s := s.copyAll e.g.take (fs.map fun f => f.2.1)
    let s := fs.foldl (fun (s : State) f =>
      s.writeUnits (e.g.via 0) (splitUnits f.2.1 16) ((e.g.lane f.1).pc.toNat + 2 ^ 64 * (e.g.lane f.1).prio.toNat)) s
    (s.goTo e ((ts.filter fun t => act.contains t.1).map fun t => (t.1, t.2.1)) (some prio)).modLanes e.g.gid (fs.map fun f => f.1)
      fun _ l => { l with depth := l.depth + 1 }

/-- CALL (R230). -/
def execCall (h : Hdr) (o : BraOps) (s : State) : Outcome :=
  .next (s.withEnv h fun e => s.callLanes e o.prio ((branchTargets e o.offset).map fun t => (t.1, t.2, false)) [])

/-- CALLX (R230). -/
def execCallx (h : Hdr) (o : BrxOps) (s : State) : Outcome :=
  .next (s.pairTargets h o.va fun e s ts faults => s.callLanes e o.prio ts faults)

/-- Reads the frames of lanes in turn: lane, frame, and the trace of a poisoned unit. -/
def State.readFrames (s : State) (e : Env) : List (Nat × Loc × Nat) → State × List (Nat × Nat × Option (Nat × Nat))
  | [] => (s, [])
  | f :: fs =>
    let r := s.readUnits (e.g.via 0) (splitUnits f.2.1 16)
    let q := r.1.readFrames e fs
    (q.1, (f.1, r.2.1, r.2.2) :: q.2)

/-- RET for the lanes of `act`, each of which has a frame: the frames are read, and the return PCs checked; `faults` come after a
return PC that R202 forbids (R210). What fails of the frames and of the fetches at the return PCs parks as one (R456). -/
def State.retLanes (s : State) (e : Env) (act : List Nat) (faults : List (Nat × List Nat)) : State :=
  let r := s.frames e .read (fun l => (e.g.lane l).depth - 1) act
  let fs := r.1.readFrames e r.2.1
  match fs.2.findSome? fun f => f.2.2 with
  | some p => fs.1.hwError e.g.take 0x3111 p.1 p.2
  | none =>
    let q := fs.1.fetchTargets e.g Line.wellFormed (fs.2.map fun f => (f.1, slice f.2.1 0 64))
    q.1.jump { e with act := act } (act.filterMap fun l => (r.2.2 ++ q.2).find? fun f => f.1 == l) faults false fun s act =>
      s.modLanes e.g.gid act fun i l =>
        let f := (fs.2.find? fun f => f.1 == i).elim 0 fun f => f.2.1
        { l with pc := BitVec.ofNat 64 f, prio := BitVec.ofNat 8 (slice f 64 8), depth := l.depth - 1 }

/-- The lanes of `active` without a frame. -/
def Env.frameless (e : Env) : List Nat := e.act.filter fun l => (e.g.lane l).depth == 0

/-- RET (R231). -/
def execRet (h : Hdr) (s : State) : Outcome :=
  .next (s.withEnv h fun e =>
    if e.frameless.isEmpty then s.retLanes e e.act []
    else s.retLanes e (e.act.filter fun l => !e.frameless.contains l) [(0x2133, e.frameless)])

/-- EXIT (R232); a callee lane that has not executed NRET replies with undefined words (R171). -/
def execExit (h : Hdr) (s : State) : Outcome :=
  .next (s.withEnv h fun e => (s.sendReplies e.g e.act fun _ => []).retire e.g.gid e.act)

/-- The count of LOOP in one lane (R233). -/
def loopArg (o : LoopOps) : Arg := .of .z32 o.count

/-- LOOP (R233). A lane whose guard fails goes to the exit as for a count of 0 (R226). A forbidden target comes before every other
fault (R210). A lane that read its count too early raises no fault (R31): with four counters in use it goes to the exit. -/
def execLoop (h : Hdr) (o : LoopOps) (s : State) : Outcome :=
  .next (match s.env h.guard with
    | none => s
    | some e =>
      let skip := branchTarget e.iss.pc.toNat (signed 20 o.skip.toNat)
      let out := e.iss.lanes.filter fun l => !e.act.contains l
      let s := s.goTo e (out.map fun l => (l, skip)) none
      s.checked h (fun _ => (loopArg o).codes) fun e =>
        let r := s.readRows e [loopArg o]
        let deep := fun (x : Row) => (e.g.lane x.1).loops.length == 4
        let count := fun (x : Row) => if x.haz && deep x then 0 else (x.2.headD default).val
        let full := (r.2.filter fun x => count x != 0 && deep x).map Prod.fst
        let zero := (r.2.filter fun x => count x == 0).map fun x => (x.1, skip, x.haz)
        s.branchReg e loopTargetOk zero
          [(0x2136, if e.iss.script then e.act else []), (0x2130, badTags [loopArg o] r.2), (0x2131, full)] fun s ts =>
            (s.goTo e ts none).modLanes e.g.gid ((r.2.filter fun x => count x != 0).map Prod.fst) fun i l =>
              { l with loops := BitVec.ofNat 32 ((r.2.find? fun x => x.1 == i).elim 0 count) :: l.loops })

/-- Lanes of `active` that have no loop counter in use (R234). -/
def Env.loopless (e : Env) : List Nat := e.act.filter fun l => (e.g.lane l).loops.isEmpty

/-- ENDL (R234): a lane with trips left goes back. A forbidden target comes before every other fault (R210). -/
def execEndl (h : Hdr) (o : BitVec 20) (s : State) : Outcome :=
  .next (s.withEnv h fun e =>
      let top := fun l => (e.g.lane l).loops.headD 0
      let back := (e.act.filter fun l => top l != 1 && !(e.g.lane l).loops.isEmpty).map fun l =>
        (l, branchTarget e.iss.pc.toNat (signed 20 o.toNat), false)
      s.branchReg e loopTargetOk back [(0x2136, if e.iss.script then e.act else []), (0x2134, e.loopless)] fun s ts =>
        (s.goTo e ts none).modLanes e.g.gid (e.act.filter fun l => top l == 1 || ts.any fun t => t.1 == l) fun _ l =>
          match l.loops with
          | [] => l
          | c :: cs => { l with loops := if c = 1 then cs else (c - 1) :: cs })

/-- ENDL.BRK (R234): the counter is dropped and the lane goes on. -/
def execEndlBrk (h : Hdr) (s : State) : Outcome :=
  .next (s.withEnv h fun e =>
    if e.iss.script then s.fail e 0x2136 e.act 0
    else if !e.loopless.isEmpty then s.fail e 0x2134 e.loopless 0
    else s.modLanes e.g.gid e.act fun _ l => { l with loops := l.loops.tail })

/-- Lanes block where they are (R29). -/
def State.block (s : State) (e : Env) (lanes : List Nat) (f : Nat → LaneAt) : State :=
  s.modLanes e.g.gid lanes fun i l => l.blockAt (f i)

/-- WSYNC (R236). -/
def execWsync (h : Hdr) (o : Reg) (s : State) : Outcome :=
  .next (s.checked h (fun _ => regCodes true o) fun e =>
    let r := s.readRows e [Arg.reg .i64 o]
    let bad := badTags [Arg.reg .i64 o] r.2
    if bad.isEmpty then
      s.block e e.act fun i => .wsync (BitVec.ofNat 64 ((r.2.find? fun x => x.1 == i).elim 0 fun x => (x.2.headD default).val))
    else s.fail e 0x2130 bad 0)

/-- YIELD (R237): the delay holds whatever `active` is. -/
def execYield (_h : Hdr) (s : State) : Outcome :=
  .next (match s.cur with
    | none => s
    | some i => s.modWarp i.gid i.wid fun w => { w with yielded := i.lanes })

/-- WAIT (R237): the warp issues nothing until `n` clocks after this issue. -/
def execWait (_h : Hdr) (o : BitVec 10) (s : State) : Outcome :=
  .next (match s.cur with
    | none => s
    | some i => match s.findGroup i.gid with
      | none => s
      | some g => s.modWarp i.gid i.wid fun w => { w with until_ := s.now g + o.toNat })

/-- TRAP (R239): the warp stops, and its record falls due once its flags are 0 and what it issued before has taken its effect. -/
def State.userTrap (s : State) (e : Env) (code : Nat) : State :=
  (s.modWarp e.g.gid e.w.wid fun w =>
    { w with halt := .draining code e.iss.pc (BitVec.ofNat 64 (laneMask e.w.lane0 e.act)) }).checkHalt e.g.gid e.w.wid

def execTrap (h : Hdr) (o : BitVec 8) (s : State) : Outcome :=
  .next (s.withEnv h fun e => s.userTrap e (0x4000 + o.toNat))

/-- BKPT (R239): a trap where the context's debug enable is set. -/
def execBkpt (h : Hdr) (s : State) : Outcome :=
  .next (s.withEnv h fun e =>
    if (s.findCtx (s.ctxOf e.g)).any fun c => c.debug then s.userTrap e 0x4100 else s)

/-- GSET (R240): the value that the lowest lane of `active` reads is captured at issue; the slot resolves at completion. -/
def execGset (h : Hdr) (o : GsetOps) (s : State) : Outcome :=
  .next (s.withEnv h fun e =>
    s.addOp { e.op s h (.gset h o) with vals := [bit (s.predVal e.g e.low o.pa)], due := some (s.now e.g + 4) })

/-- GCLR (R240). -/
def execGclr (h : Hdr) (o : BitVec 4) (s : State) : Outcome :=
  .next (s.withEnv h fun e => s.addOp { e.op s h (.gclr h o) with due := some (s.now e.g + 4) })

/-- GROW (R37, R241): nothing in a group that holds its full allotment; else its lanes wait for the grant. -/
def execGrow (h : Hdr) (s : State) : Outcome :=
  .next (s.withEnv h fun e =>
    if e.g.full then s else (s.block e e.act fun _ => .grow).checkGrow e.g.gid)

/-- WCUT (R48, R51): beyond the cut depth, or at width 4, code 0x2120; else its lanes wait for the cut. -/
def execWcut (h : Hdr) (s : State) : Outcome :=
  .next (s.withEnv h fun e =>
    if e.w.links.length ≥ e.g.cut ∨ e.w.width ≤ 4 then s.fail e 0x2120 e.act 0
    else s.block e e.act fun _ => .wcut)

/-- WSPLICE (R54, R55): its lanes wait for the outcome. -/
def execWsplice (h : Hdr) (o : WspliceOps) (s : State) : Outcome :=
  .next (s.checked h (fun _ => [o.vd]) fun e =>
    s.block e e.act fun _ => .wsplice o.tag.toNat o.vd o.pd.toNat)

end Sys2Proof.Machine
end

