-- ==== Sys2Proof/Machine/Integer.lean ====
section
/-!
DEFINITION. Integer arithmetic, logic, shifts, bit fields, compares, moves, special registers and random draws
(R242 to R251, R260).
-/

namespace Sys2Proof.Machine

/-- Latency of simple integer instructions: 4, or 6 on 64-bit types (R225). -/
def latInt (ty : Ty) : Nat := if ty.is64 then 6 else 4

/-- Latency of multiplications: 6, or 10 on 64-bit types (R225). -/
def latMul (ty : Ty) : Nat := if ty.is64 then 10 else 6

/-- An integer operation on each element, narrowed once (R242). -/
def intOp1 (ty : Ty) (sat : Bool) (f : Int → Int) (a : Opnd) : Res :=
  .of (ofElems ty ((elems ty a.val).map fun x => intRes ty sat (f (intVal ty x)))) (Ty.tag ty)

def intOp2 (ty : Ty) (sat : Bool) (f : Int → Int → Int) (a b : Opnd) : Res :=
  .of (ofElems ty (List.zipWith (fun x y => intRes ty sat (f (intVal ty x) (intVal ty y))) (elems ty a.val) (elems ty b.val)))
    (Ty.tag ty)

def intOp3 (ty : Ty) (sat : Bool) (f : Int → Int → Int → Int) (a b c : Opnd) : Res :=
  .of (ofElems ty (List.zipWith (fun x (y : Nat × Nat) => intRes ty sat (f (intVal ty x) (intVal ty y.1) (intVal ty y.2)))
    (elems ty a.val) ((elems ty b.val).zip (elems ty c.val)))) (Ty.tag ty)

/-- The operands of a one-, two- or three-source instruction as a function takes them. -/
def un (f : Opnd → Res) : List Opnd → Res
  | [a] => f a
  | _ => .of 0 0

def bin (f : Opnd → Opnd → Res) : List Opnd → Res
  | [a, b] => f a b
  | _ => .of 0 0

def tern (f : Opnd → Opnd → Opnd → Res) : List Opnd → Res
  | [a, b, c] => f a b c
  | _ => .of 0 0

/-- A two-source integer instruction. -/
def State.int2 (s : State) (h : Hdr) (i : Instr) (lat : Nat) (o : Int2) (f : Int → Int → Int) : State :=
  s.alu h i lat o.ty.is64 o.d [.of o.ty o.a, .of o.ty o.b] (bin (intOp2 o.ty o.sat f))

/-- A one-source integer instruction. -/
def State.int1 (s : State) (h : Hdr) (i : Instr) (o : Int1) (f : Int → Int) : State :=
  s.alu h i (latInt o.ty) o.ty.is64 o.d [.of o.ty o.a] (un (intOp1 o.ty o.sat f))

def execIadd (h : Hdr) (o : Int2) (s : State) : Outcome :=
  .next (s.int2 h (.iadd h o) (latInt o.ty) o fun a b => a + b)

def execIsub (h : Hdr) (o : Int2) (s : State) : Outcome :=
  .next (s.int2 h (.isub h o) (latInt o.ty) o fun a b => a - b)

def execImul (h : Hdr) (o : Int2) (s : State) : Outcome :=
  .next (s.int2 h (.imul h o) (latMul o.ty) o fun a b => a * b)

/-- IMULH: the high half of the product (R242). -/
def execImulh (h : Hdr) (o : Int2) (s : State) : Outcome :=
  .next (s.int2 h (.imulh h o) (latMul o.ty) o fun a b => (a * b).fdiv (2 ^ Ty.bits o.ty : Nat))

def execImad (h : Hdr) (o : Int3) (s : State) : Outcome :=
  .next (s.alu h (.imad h o) (latMul o.ty) o.ty.is64 o.d [.of o.ty o.a, .of o.ty o.b, .of o.ty o.c]
    (tern (intOp3 o.ty o.sat fun a b c => a * b + c)))

/-- The 64-bit type of a 32-bit type's signedness. -/
def wideOf (ty : Ty) : Ty := if ty.isSigned then .i64 else .z64

/-- IMADW: 32-bit factors, 64-bit addend and result (R242). -/
def execImadw (h : Hdr) (o : Int3) (s : State) : Outcome :=
  .next (s.alu h (.imadw h o) 10 true o.d [.of o.ty o.a, .of o.ty o.b, .of (wideOf o.ty) o.c]
    (tern fun a b c => .of (intRes (wideOf o.ty) o.sat
      (intVal o.ty a.val * intVal o.ty b.val + intVal (wideOf o.ty) c.val)) 3))

def execImin (h : Hdr) (o : Int2) (s : State) : Outcome :=
  .next (s.int2 h (.imin h o) (latInt o.ty) o fun a b => min a b)

def execImax (h : Hdr) (o : Int2) (s : State) : Outcome :=
  .next (s.int2 h (.imax h o) (latInt o.ty) o fun a b => max a b)

def execIabs (h : Hdr) (o : Int1) (s : State) : Outcome := .next (s.int1 h (.iabs h o) o fun a => (a.natAbs : Int))

def execIneg (h : Hdr) (o : Int1) (s : State) : Outcome := .next (s.int1 h (.ineg h o) o fun a => -a)

/-- The 32-bit type of an 8-bit type's signedness. -/
def accOf (ty : Ty) : Ty := if ty.isSigned then .i32 else .z32

/-- IDOT4 (R242): four products added to a 32-bit addend. -/
def dot4 (ty : Ty) (sat : Bool) (a b c : Opnd) : Res :=
  .of (intRes (accOf ty) sat (intVal (accOf ty) c.val +
    (List.zipWith (fun x y => intVal ty x * intVal ty y) (elems ty a.val) (elems ty b.val)).sum)) (Ty.tag (accOf ty))

def execIdot4 (h : Hdr) (o : Int3) (s : State) : Outcome :=
  .next (s.alu h (.idot4 h o) 6 false o.d [.of o.ty o.a, .of o.ty o.b, .of (accOf o.ty) o.c] (tern (dot4 o.ty o.sat)))

/-! ### Logic and shifts (R243 to R246) -/

/-- A two-source logic instruction. -/
def State.logic2 (s : State) (h : Hdr) (i : Instr) (o : Int2) (f : Nat → Nat → Nat) : State :=
  s.alu h i 4 false o.d [.of .b32 o.a, .of .b32 o.b] (bin fun a b => .of (f a.val b.val) 0)

def State.logic1 (s : State) (h : Hdr) (i : Instr) (o : Int1) (f : Nat → Nat) : State :=
  s.alu h i 4 false o.d [.of .b32 o.a] (un fun a => .of (f a.val) 0)

def execAnd (h : Hdr) (o : Int2) (s : State) : Outcome := .next (s.logic2 h (.and h o) o fun a b => a &&& b)

def execOr (h : Hdr) (o : Int2) (s : State) : Outcome := .next (s.logic2 h (.or h o) o fun a b => a ||| b)

def execXor (h : Hdr) (o : Int2) (s : State) : Outcome := .next (s.logic2 h (.xor h o) o fun a b => a ^^^ b)

def execNot (h : Hdr) (o : Int1) (s : State) : Outcome := .next (s.logic1 h (.not h o) o fun a => 2 ^ 32 - 1 - a % 2 ^ 32)

/-- The bits of `n` positions given one by one. -/
def ofBits (f : Nat → Bool) : Nat → Nat
  | 0 => 0
  | n + 1 => ofBits f n + 2 ^ n * bit (f n)

/-- LOP3's table look-up at every bit position (R243). -/
def lop3Val (lut a b c : Nat) : Nat :=
  ofBits (fun k => bitAt lut (4 * bit (bitAt a k) + 2 * bit (bitAt b k) + bit (bitAt c k))) 32

def execLop3 (h : Hdr) (o : Lop3Ops) (s : State) : Outcome :=
  .next (s.alu h (.lop3 h o) 4 false o.d [.of .b32 o.a, .of .b32 o.b, .of .b32 o.c]
    (tern fun a b c => .of (lop3Val o.lut.toNat a.val b.val c.val) 0))

/-- The type under which a shift reads a: the pair check on 64-bit types, any tag on 32-bit ones (R244). -/
def shiftTy (ty : Ty) : Ty := if ty.is64 then ty else .b32

/-- A shift by bits 0-7 of b (R244). -/
def State.shift (s : State) (h : Hdr) (i : Instr) (o : Int2) (f : Nat → Nat → Nat → Nat) : State :=
  s.alu h i (latInt o.ty) o.ty.is64 o.d [.of (shiftTy o.ty) o.a, .any .b32 o.b]
    (bin fun a b => .of (f (Ty.bits o.ty) a.val (b.val % 256)) (Ty.tag (shiftTy o.ty)))

def execShl (h : Hdr) (o : Int2) (s : State) : Outcome :=
  .next (s.shift h (.shl h o) o fun n a k => a * 2 ^ k % 2 ^ n)

def execShr (h : Hdr) (o : Int2) (s : State) : Outcome :=
  .next (s.shift h (.shr h o) o fun _ a k => a / 2 ^ k)

def execSha (h : Hdr) (o : Int2) (s : State) : Outcome :=
  .next (s.shift h (.sha h o) o fun n a k => wrap n ((signed n a).fdiv (2 ^ k : Nat)))

def execRot (h : Hdr) (o : Int2) (s : State) : Outcome :=
  .next (s.shift h (.rot h o) o fun n a k => a * 2 ^ (k % n) % 2 ^ n + a / 2 ^ (n - k % n))

/-- SHF: a funnel shift of b:a by t (R244). -/
def shfVal (right : Bool) (a b c : Nat) : Nat :=
  let t := min (c % 256) 32
  let v := b * 2 ^ 32 + a
  if right then v / 2 ^ t % 2 ^ 32 else slice (v * 2 ^ t) 32 32

def execShf (h : Hdr) (o : ShfOps) (s : State) : Outcome :=
  .next (s.alu h (.shf h o) 4 false o.d [.of .b32 o.a, .of .b32 o.b, .of .b32 o.c]
    (tern fun a b c => .of (shfVal o.right a.val b.val c.val) 0))

/-- Ones among the low `n` bits. -/
def ones (x : Nat) : Nat → Nat
  | 0 => 0
  | n + 1 => ones x n + bit (bitAt x n)

/-- Zero bits above the highest one of 32 (R245). -/
def clz32 (x : Nat) : Nat := if x % 2 ^ 32 = 0 then 32 else 31 - (x % 2 ^ 32).log2

def brev32 (x : Nat) : Nat := ofBits (fun k => bitAt x (31 - k)) 32

def execPopc (h : Hdr) (o : Int1) (s : State) : Outcome := .next (s.logic1 h (.popc h o) o fun a => ones a 32)

def execClz (h : Hdr) (o : Int1) (s : State) : Outcome := .next (s.logic1 h (.clz h o) o clz32)

def execBrev (h : Hdr) (o : Int1) (s : State) : Outcome := .next (s.logic1 h (.brev h o) o brev32)

/-- First bit and length of a control word's field (R246). -/
def bfField (c : Nat) : Nat × Nat :=
  let p := min (slice c 0 8) 32
  (p, min (slice c 0 8 + slice c 8 8) 32 - p)

/-- BFE (R246). -/
def bfeVal (ty : Ty) (a c : Nat) : Nat :=
  let f := bfField c
  if f.2 = 0 then 0 else if ty.isSigned then sext f.2 32 (slice a f.1 f.2) else slice a f.1 f.2

/-- BFI (R246). -/
def bfiVal (a b c : Nat) : Nat := let f := bfField c; setBits (b % 2 ^ 32) f.1 f.2 a

def execBfe (h : Hdr) (o : Int2) (s : State) : Outcome :=
  .next (s.alu h (.bfe h o) 4 false o.d [.any o.ty o.a, .any o.ty o.b] (bin fun a b => .of (bfeVal o.ty a.val b.val) 0))

def execBfi (h : Hdr) (o : Int3) (s : State) : Outcome :=
  .next (s.alu h (.bfi h o) 4 false o.d [.of .b32 o.a, .of .b32 o.b, .of .b32 o.c]
    (tern fun a b c => .of (bfiVal a.val b.val c.val) 0))

/-! ### Compare, select, address (R247 to R250) -/

def Cond.holds (c : Cond) (a b : Int) : Bool :=
  match c with
  | .eq => a == b
  | .ne => a != b
  | .lt => a < b
  | .le => a ≤ b
  | .gt => b < a
  | .ge => b ≤ a

/-- A comparison combined with a predicate (R247, R269). -/
def Comb.apply (c : Comb) (t p : Bool) : Bool :=
  match c with
  | .none => t
  | .and => t && p
  | .or => t || p
  | .xor => t != p

/-- The predicate operand of a combined comparison; none is read where there is no combination. -/
def combArg (c : Comb) (p : Pred) : Arg := .pred (if c == .none then ⟨7, false⟩ else p)

def execIsetp (h : Hdr) (o : IsetpOps) (s : State) : Outcome :=
  .next (s.aluP h (.isetp h o) (latInt o.ty) o.pd.toNat [.of o.ty o.a, .of o.ty o.b, combArg o.comb o.pc] fun
    | [a, b, p] => Comb.apply o.comb (Cond.holds o.cond (intVal o.ty a.val) (intVal o.ty b.val)) (p.val == 1)
    | _ => false)

def execIsel (h : Hdr) (o : IselOps) (s : State) : Outcome :=
  .next (s.alu h (.isel h o) (latInt o.ty) o.ty.is64 o.d [.any o.ty o.a, .any o.ty o.b, .pred o.pc]
    (tern fun a b p => let x := if p.val = 1 then a else b; ⟨x.val, x.tag, x.tag2, 0⟩))

/-- LEA (R249). -/
def leaVal (ty : Ty) (sh a b : Nat) : Nat := wrap 64 ((a : Int) + intVal ty b * (2 ^ sh : Nat))

def execLea (h : Hdr) (o : LeaOps) (s : State) : Outcome :=
  .next (s.alu h (.lea h o) 6 true o.d [.reg .i64 o.a, .of o.ty o.b]
    (bin fun a b => .of (leaVal o.ty o.sh.toNat a.val b.val) 3))

def execPsetp (h : Hdr) (o : PsetpOps) (s : State) : Outcome :=
  .next (s.aluP h (.psetp h o) 4 o.pd.toNat [.pred ⟨o.pa, false⟩, .pred ⟨o.pb, false⟩, .pred ⟨o.pc, false⟩] fun
    | [a, b, c] => bitAt o.lut.toNat (4 * a.val + 2 * b.val + c.val)
    | _ => false)

/-- PSETP.G (R250): whether the slot is resolved, and whether it is resolved and true, as it stands at issue. Where both predicates are
the same, the second one's write stands (DESIGN CHOICE; assumption 62). -/
def execPsetpG (h : Hdr) (o : PsetpGOps) (s : State) : Outcome :=
  .next (s.fixed h (.psetpG h o) [] [] (fun _ => 4) fun _ e rows =>
    let g := NMap.get none e.g.guards o.g.toNat
    (rows.flatMap fun r => [predWrite r.1 o.pd.toNat g.isSome, predWrite r.1 o.pe.toNat (g == some true)], []))

/-! ### Moves, special registers, random numbers (R251, R260) -/

def execMov (h : Hdr) (o : Int1) (s : State) : Outcome :=
  .next (s.alu h (.mov h o) (latInt o.ty) o.ty.is64 o.d [.any o.ty o.a] (un fun a => ⟨a.val, a.tag, a.tag2, 0⟩))

def execMovi (h : Hdr) (o : MoviOps) (s : State) : Outcome :=
  .next (s.alu h (.movi h o) (latInt o.ty) o.ty.is64 o.d [.any o.ty o.imm] (un fun a => .of a.val (Ty.tag o.ty)))

/-- A move between s registers, one of them at a computed number (R251): `d` and `a` are the effective numbers. An index that was
read too early (`haz`) raises no fault (R31). A pair is registers n and n + 1 whatever the parity of its effective number n (DESIGN
CHOICE, R251; assumption 62). -/
def State.smovAt (s : State) (e : Env) (h : Hdr) (i : Instr) (ty : Ty) (haz : Bool) (d a : Int) : State :=
  let k : Int := if ty.is64 then 2 else 1
  if min d a < 0 ∨ (e.g.allot.s : Int) < max d a + k then s.fail e 0x2111 e.act 0
  else
    let x := s.readReg e.g ty.is64 0 e.low (.s a.toNat)
    let v := if haz || x.haz then s.free 700 e.low else x.val
    s.addOp { e.op s h i with
      writes := regWrites ty.is64 (.s d.toNat) e.low (.of v 0), due := some (s.now e.g + latInt ty) }

/-- The signed index of SMOV (R251). -/
def smovIdx (o : Opnd) : Int := signed 32 o.val

def execSmov (h : Hdr) (o : SmovOps) (s : State) : Outcome :=
  let dst := regCodes o.ty.is64 (.s o.d)
  .next (s.checked h (fun _ => dst ++ (Arg.of .b32 o.idx).codes) (fun e =>
    let x := s.readArg e 1 e.low [] (.of .b32 o.idx)
    if e.sure then s.smovAt e h (.smov h o) o.ty x.haz o.d (if x.haz then o.d else o.a + smovIdx x)
    else s.undefineLost e (e.op s h (.smov h o)) dst 0) fun e => s.undefineLost e (e.op s h (.smov h o)) dst 0)

def execSmovSt (h : Hdr) (o : SmovOps) (s : State) : Outcome :=
  let idx (e : Env) := s.readArg e 1 e.low [] (.of .b32 o.idx)
  let lost (e : Env) :=
    let d := (o.d + smovIdx (idx { e with act := e.wide.act })).toNat
    s.undefineLost e (e.op s h (.smovSt h o)) ((regCodes o.ty.is64 (.s d)).filter fun c => (e.g.codeFault c).isNone && isUniform c) 0
  .next (s.checked h (fun _ => regCodes o.ty.is64 (.s o.a) ++ (Arg.of .b32 o.idx).codes) (fun e =>
    let x := idx e
    let open_ := s.free 731 e.low % (e.g.allot.s + 1 - (if o.ty.is64 then 2 else 1))
    if e.sure then s.smovAt e h (.smovSt h o) o.ty x.haz (if x.haz then open_ else o.d + smovIdx x) o.a else lost e) lost)

/-- The special register `i` of a lane (R81, R164). -/
def State.special (s : State) (e : Env) (lane i : Nat) : Nat :=
  let g := e.g
  let t := s.takeOf g
  let dim := (t.elim (1, 1, 1) fun t => (t.slate.gridX, t.slate.gridY, t.slate.gridZ))
  let a := g.agent
  match i with
  | 0 => e.id lane
  | 1 => e.w.width
  | 2 => e.w.slice
  | 3 => e.w.slot
  | 4 => e.w.part
  | 5 => lane
  | 6 => g.groupId
  | 7 => match g.kind with
    | .gathered _ => g.callers.length
    | _ => g.shapeWarps * g.shapeWidth
  | 8 => g.teamRank
  | 9 => if g.kind != .kernel then 1 else t.elim 1 fun t => t.slate.team
  | 10 => g.groupId % dim.1
  | 11 => g.groupId / dim.1 % dim.2.1
  | 12 => g.groupId / (dim.1 * dim.2.1)
  | 13 => dim.1
  | 14 => dim.2.1
  | 15 => dim.2.2
  | 16 => a
  | 17 => if g.onStack then 0xFFFFFFFF else a / 4
  | 18 => if g.onStack then g.stackNo else 0xFFFFFFFF
  | 19 => if g.onStack then g.stackNo / 4 else a / 32
  | 20 => (t.elim 0 Take.number) % 2 ^ 32
  | 21 => (t.elim 0 Take.number) / 2 ^ 32
  | 22 => t.elim 0 Take.retakes
  | 23 => s.counter % 2 ^ 32
  | 24 => s.counter / 2 ^ 32
  | _ => 0

def execSpr (h : Hdr) (o : SprOps) (s : State) : Outcome :=
  .next (s.fixed h (.spr h o) [o.d.code] [] (fun _ => 4) fun s e rows =>
    (s.regOut false o.d (fun r => .of (s.special e r.1 o.idx.toNat) 2) rows, []))

/-- What RNG writes from a draw (R260). -/
def rngRes (ty : Ty) (draw : Nat) : Res :=
  match ty with
  | .z64 => .of draw 3
  | .f32 => .of (let k := slice draw 40 24; if k = 0 then 0 else (roundFin fp32 .rn false 0 false k (2 ^ 24)).code) 6
  | _ => .of (slice draw 32 32) 2

def execRng (h : Hdr) (o : RngOps) (s : State) : Outcome :=
  .next (s.fixed h (.rng h o) (regCodes o.ty.is64 o.d) [] (fun _ => 8) fun s e rows =>
    (s.regOut o.ty.is64 o.d (fun r => rngRes o.ty ((e.g.lane r.1).draw 0).toNat) rows, []))

end Sys2Proof.Machine
end

