-- ==== Sys2Proof/Machine/CrossLane.lean ====
section
/-!
DEFINITION. Cross-lane instructions (R252 to R259) and UBCAST (R251), over the lanes of the current warp (R60).
-/

namespace Sys2Proof.Machine

/-- Whether an operand gives every lane the same bits: an s register or an immediate. -/
def Arg.uniform : Arg → Bool
  | .src _ _ (.reg (.v _)) => false
  | .src _ _ (.q _) => false
  | .pred _ => false
  | _ => true

/-- What lane id `j` of the warp supplies to a cross-lane instruction (R253, R259). What a retired lane supplies has tag b32 (DESIGN CHOICE;
assumption 46). -/
def State.look (s : State) (e : Env) (q : List (Word × Nat)) (a : Arg) (j : Nat) : Opnd :=
  let lane := e.w.lane0 + j
  if a.uniform then s.readArg e 0 e.low q a
  else if (e.g.lane lane).at_ = .retired then ⟨s.free 0 lane % 2 ^ 64, 0, 0, true⟩
  else s.readArg e 0 lane q a

/-- Turns a row into one that is undefined where `bad` says so. -/
def taint (bad : Bool) (r : Row) : Row := if bad then (r.1, ⟨0, 0, 0, true⟩ :: r.2) else r

/-- The source lane of SHFL (R254). -/
def shflLane (m : ShflMode) (w i b : Nat) : Nat :=
  match m with
  | .idx => b % w
  | .up => (i + w - b % w) % w
  | .down => (i + b) % w
  | .xor => (i ^^^ b) % w

/-- The second operand of a row. -/
def Row.snd (r : Row) : Nat := (r.2.getD 1 default).val

def execShfl (h : Hdr) (o : ShflOps) (s : State) : Outcome :=
  .next (s.fixedQ h (.shfl h o) (regCodes o.ty.is64 o.d) [.any o.ty o.a, .any .b32 o.b] (fun _ => 8) fun s e qs rows =>
    let src := fun (r : Row) => s.look e (qs.headD []) (.any o.ty o.a) (shflLane o.mode e.w.width (e.id r.1) r.snd)
    -- a lane's own copy of a is not read unless it is the source
    let rows := rows.map fun r => (r.1, [src r, r.2.getD 1 default])
    (s.regOut o.ty.is64 o.d (fun r => let x := r.2.headD default; ⟨x.val, x.tag, x.tag2, 0⟩) rows, []))

/-- PUSH (R255): of several sources that name a lane the highest wins; retired lanes are not written. -/
def pushRows (e : Env) (rows : List Row) : List (Nat × Row) :=
  (e.w.lanes.filter fun l => (e.g.lane l).at_ != .retired).filterMap fun l =>
    ((rows.filter fun r => r.snd % e.w.width == e.id l).getLast?).map fun r => (l, r)

def execPush (h : Hdr) (o : Int2) (s : State) : Outcome :=
  .next (s.fixed h (.push h o) (regCodes o.ty.is64 o.d) [.any o.ty o.a, .any .b32 o.b] (fun _ => 8) fun s e rows =>
    let res := fun (r : Row) => let x := r.2.headD default
      (⟨if r.haz then s.free 700 r.1 else x.val, x.tag, x.tag2, 0⟩ : Res)
    match o.d with
    | .v _ => ((pushRows e rows).flatMap fun p => regWrites o.ty.is64 o.d p.1 (res p.2), [])
    | .s _ => ((rows.take 1).flatMap fun r => regWrites o.ty.is64 o.d r.1 (res r), []))

/-- Byte `k` of a warp-wide sequence of registers (R256). -/
def warpByte (look : Nat → Opnd) (k : Nat) : Nat := slice (look (k / 4)).val (8 * (k % 4)) 8

/-- The four selected bytes of a lane (R256). -/
def permbVal (look : Nat → Opnd) (w b : Nat) : Nat :=
  ((List.range 4).map fun i =>
    let sel := slice b (8 * i) 8
    (if bitAt sel 7 then 0 else warpByte look (4 * ((sel % 128) / 4 % w) + sel % 4)) * 2 ^ (8 * i)).sum

/-- Whether a lane's selection reads an undefined value. -/
def permbHaz (look : Nat → Opnd) (w b : Nat) : Bool :=
  (List.range 4).any fun i => let sel := slice b (8 * i) 8; !bitAt sel 7 && (look ((sel % 128) / 4 % w)).haz

def execPermb (h : Hdr) (o : Int2) (s : State) : Outcome :=
  .next (s.fixedQ h (.permb h o) [o.d.code] [.any .b32 o.a, .any .b32 o.b] (fun _ => 8) fun s e qs rows =>
    let look := s.look e (qs.headD []) (.any .b32 o.a)
    let rows := rows.map fun r => taint (permbHaz look e.w.width r.snd || (r.2.getD 1 default).haz) (r.1, [default, ⟨r.snd, 0, 0, false⟩])
    (s.regOut false o.d (fun r => .of (permbVal look e.w.width (r.2.getLastD default).val) 0) rows, []))

/-- The operand of a row that has one. -/
def Row.fst (r : Row) : Nat := (r.2.headD default).val

/-- VOTE (R257). -/
def execVote (h : Hdr) (o : VoteOps) (s : State) : Outcome :=
  .next (s.fixed h (.vote h o) (match o.dst with | .ballot d => regCodes true d | _ => []) [.pred o.pa] (fun _ => 8)
    fun s e rows =>
      let bad := rows.any Row.haz
      let rows' := rows.map fun r => taint bad (r.1, [⟨r.fst, 0, 0, false⟩])
      let yes := rows.filter fun r => r.fst == 1
      match o.dst with
      | .all pd => (s.predOut pd.toNat (fun _ => yes.length == rows.length) rows', [])
      | .any pd => (s.predOut pd.toNat (fun _ => !yes.isEmpty) rows', [])
      | .uni pd => (s.predOut pd.toNat (fun _ => yes.isEmpty || yes.length == rows.length) rows', [])
      | .ballot d => (s.regOut true d (fun _ => .of (laneMask e.w.lane0 (yes.map Prod.fst)) 3) rows', []))

/-- MATCH (R257): the lanes of `active` that hold the same value. -/
def execMatchLanes (h : Hdr) (o : Int1) (s : State) : Outcome :=
  .next (s.fixed h (.matchLanes h o) (regCodes true o.d) [.of o.ty o.a] (fun _ => 8) fun s e rows =>
    let bad := rows.any Row.haz
    (s.regOut true o.d (fun r => .of (laneMask e.w.lane0 ((rows.filter fun x => x.fst == (r.2.getLastD default).val).map Prod.fst)) 3)
      (rows.map fun r => taint bad r), []))

/-- FMIN and FMAX on FP32 codes (R268): −0 counts as less than +0. -/
def fminCode (max : Bool) (x y : Nat) : Nat :=
  match (fval x).isNan, (fval y).isNan with
  | true, true => fp32.nanCode
  | true, false => y
  | false, true => x
  | false, false =>
    let xLess := if (fval x).isZero && (fval y).isZero then bitAt x 31 else (fval x).lt (fval y)
    if xLess != max then x else y

/-- One FP32 addition (R100). -/
def fadd32 (rnd : Rnd) (x y : Nat) : FRes :=
  if (fval x).badSum (fval y) then ⟨fp32.nanCode, flNV⟩
  else roundTo fp32 rnd false false 0 (FVal.add (rnd == .rd) (fval x) (fval y))

/-- One step of a sequential combination on register values; integers are combined exactly by `redInt`. -/
def redF (op : RedOp) (rnd : Rnd) (acc : FRes) (x : Nat) : FRes :=
  match op with
  | .add => let r := fadd32 rnd acc.code x; ⟨r.code, acc.fl ||| r.fl⟩
  | .max => ⟨fminCode true acc.code x, acc.fl⟩
  | _ => ⟨fminCode false acc.code x, acc.fl⟩

/-- The identity of an operation (R258), as the type's bits. -/
def redId (op : RedOp) (ty : Ty) : Nat :=
  match op, ty with
  | .add, _ => 0
  | .min, .f32 => fp32.infCode
  | .max, .f32 => fp32.infCode + fp32.signBit
  | .min, _ => wrap (Ty.bits ty) (Ty.hi ty)
  | .max, _ => wrap (Ty.bits ty) (Ty.lo ty)
  | .and, _ => 2 ^ 32 - 1
  | _, _ => 0

/-- The combination of the covered lanes' values, lowest lane first (R258). -/
def redVal (op : RedOp) (ty : Ty) (sat : Bool) (rnd : Rnd) : List Nat → FRes
  | [] => ⟨redId op ty, 0⟩
  | x :: xs =>
    if ty = .f32 then xs.foldl (redF op rnd) ⟨x, 0⟩
    else ⟨match op with
      | .add => intRes ty sat (intVal ty x + (xs.map (intVal ty)).sum)
      | .min => wrap (Ty.bits ty) (xs.foldl (fun m y => min m (intVal ty y)) (intVal ty x))
      | .max => wrap (Ty.bits ty) (xs.foldl (fun m y => max m (intVal ty y)) (intVal ty x))
      | .and => xs.foldl (fun m y => m &&& y) x
      | .or => xs.foldl (fun m y => m ||| y) x
      | .xor => xs.foldl (fun m y => m ^^^ y) x, 0⟩

/-- Latency of a warp reduction (R225). -/
def latRed (ty : Ty) (e : Env) : Nat := if ty = .f32 then 12 + e.w.width / 2 else 12

/-- Whether the shadow of a lane finds one of the additions of a sum wrong (R108): the partial sums in turn, each with what the lane gives
in its place. -/
def sumStrays (rnd : Rnd) (unit : Nat → Option Nat) : Nat → Nat → List Nat → Bool
  | _, _, [] => false
  | k, acc, x :: xs => shadowMiss .sum fp32 [acc, x] (fun _ => unit k) || sumStrays rnd unit (k + 1) (fadd32 rnd acc x).code xs

/-- The lanes of a combination about to issue whose sums will fail their check (R472). -/
def State.straySums (s : State) (h : Hdr) (op : RedOp) (ty : Ty) (rnd : Rnd) (a : Src) (cover : Nat → Nat → Bool) : List Nat :=
  if op ≠ .add ∨ ty ≠ .f32 then []
  else (s.env h.guard).elim [] fun e =>
    let rows := (s.readRows e [.of ty a]).2
    e.act.filter fun l => match (rows.filter fun r => cover l r.1).map Row.fst with
      | [] => false
      | x :: xs => sumStrays rnd (Config.unitResult s.nextOp l) 0 x xs

/-- RED.W and SCAN.W: `cover` gives the lanes whose values a lane's result combines. The operation keeps the lanes that its shadows will
find wrong at its completion. -/
def State.reduce (s : State) (h : Hdr) (i : Instr) (op : RedOp) (ty : Ty) (sat : Bool) (rnd : Rnd) (d : Reg) (a : Src)
    (cover : Nat → Nat → Bool) : State :=
  (s.fixed h i (regCodes ty.is64 d) [.of ty a] (latRed ty) fun s _ rows =>
    let covered := fun (lane : Nat) => rows.filter fun r => cover lane r.1
    let res := fun (lane : Nat) => redVal op ty sat rnd ((covered lane).map Row.fst)
    let fl := rows.foldl (fun m r => m ||| (res r.1).fl) 0
    let rows' := rows.map fun r => taint ((covered r.1).any Row.haz) r
    (s.regOut ty.is64 d (fun r => .of (res r.1).code (Ty.tag ty)) rows',
      if rows.any Row.haz then [] else rows.map fun r => (r.1, BitVec.ofNat 5 fl))).modOp s.nextOp fun o =>
    { o with vals := s.straySums h op ty rnd a cover }

def execRedW (h : Hdr) (o : RedWOps) (s : State) : Outcome :=
  .next (s.reduce h (.redW h o) o.op o.ty o.sat o.rnd o.d o.a fun _ _ => true)

def execScanW (h : Hdr) (o : ScanWOps) (s : State) : Outcome :=
  .next (s.reduce h (.scanW h o) o.op o.ty o.sat o.rnd o.d o.a fun i j => if o.ex then j < i else j ≤ i)

/-- Where byte `k` of the result of VSLIDE comes from in the sequence of 8W bytes (R259). -/
def slideFrom (down : Bool) (w n k : Nat) : Option Nat :=
  if down then (if k + n < 8 * w then some (k + n) else none)
  else if n ≤ 4 * w + k then some (4 * w + k - n) else none

/-- The lane of `a` or of `f` that a position of the sequence lies in. -/
def slideLook (down : Bool) (w : Nat) (la lf : Nat → Opnd) (p : Nat) : Opnd :=
  if p < 4 * w then (if down then la else lf) (p / 4) else (if down then lf else la) ((p - 4 * w) / 4)

def slideVal (down : Bool) (w n i : Nat) (la lf : Nat → Opnd) : Nat :=
  ((List.range 4).map fun b => match slideFrom down w n (4 * i + b) with
    | none => 0
    | some p => slice (slideLook down w la lf p).val (8 * (p % 4)) 8 * 2 ^ (8 * b)).sum

def slideHaz (down : Bool) (w n i : Nat) (la lf : Nat → Opnd) : Bool :=
  (List.range 4).any fun b => (slideFrom down w n (4 * i + b)).any fun p => (slideLook down w la lf p).haz

def execVslide (h : Hdr) (o : VslideOps) (s : State) : Outcome :=
  .next (s.fixedQ h (.vslide h o) [o.d.code] [.any .b32 o.a, .any .b32 o.f] (fun _ => 8) fun s e qs rows =>
    let la := s.look e (qs.headD []) (.any .b32 o.a)
    let lf := s.look e (qs.getD 1 []) (.any .b32 o.f)
    let w := e.w.width
    let n := o.n.toNat
    let rows := rows.map fun r => taint (slideHaz o.down w n (e.id r.1) la lf) (r.1, [(r.2.headD default)])
    (s.regOut false o.d (fun r => .of (slideVal o.down w n (e.id r.1) la lf) (la (e.id r.1)).tag) rows, []))

/-- UBCAST (R251): the value of lane idx mod W into an s register. -/
def execUbcast (h : Hdr) (o : UbcastOps) (s : State) : Outcome :=
  .next (s.fixedQ h (.ubcast h o) (regCodes o.ty.is64 (.s o.d)) [.of o.ty o.a, .any .b32 o.idx] (fun _ => 8)
    fun s e qs rows =>
      let rows := rows.map fun r => (r.1, [s.look e (qs.headD []) (.of o.ty o.a) (r.snd % e.w.width), r.2.getD 1 default])
      (s.regOut o.ty.is64 (.s o.d) (fun r => .of (r.2.headD default).val 0) rows, []))

end Sys2Proof.Machine
end

