-- ==== Sys2Proof/Machine/Float.lean ====
section
/-!
DEFINITION. Floating-point arithmetic, compares and special functions (R261 to R272).
-/

namespace Sys2Proof.Machine

/-! ### Operands -/

/-- Sources after R262: bit j of `abs` and `neg` belongs to source j + 1. -/
def modSrc (ty : Ty) (abs neg : Nat) (r : Row) (j : Nat) : Nat := signMod ty (bitAt abs j) (bitAt neg j) (r.2.getD j default).val

/-! ### One element -/

def faddE (f : Fmt) (rnd : Rnd) (sat : Bool) (u x y : Nat) : FRes :=
  if (f.value x).badSum (f.value y) then ⟨f.nanCode, flNV⟩
  else roundTo f rnd sat false u (FVal.add (rnd == .rd) (f.value x) (f.value y))

def fmulE (f : Fmt) (rnd : Rnd) (sat : Bool) (u x y : Nat) : FRes :=
  if (f.value x).badMul (f.value y) then ⟨f.nanCode, flNV⟩
  else roundTo f rnd sat false u ((f.value x).mul (f.value y))

/-- x × y + z, rounded once (R100, R266). -/
def ffmaE (f : Fmt) (rnd : Rnd) (sat : Bool) (u x y z : Nat) : FRes :=
  let p := (f.value x).mul (f.value y)
  if (f.value x).badMul (f.value y) || p.badSum (f.value z) then ⟨f.nanCode, flNV⟩
  else roundTo f rnd sat false u (FVal.add (rnd == .rd) p (f.value z))

/-- The element operation on each element of the type, element 0 first; element k takes draw k (R94, R267). -/
def packF (ty : Ty) (l : Lane) (f : Nat → List Nat → FRes) (xs : List Nat) : Res :=
  let rs := (List.range (Ty.count ty)).map fun k =>
    f (l.drawU k) (xs.map fun x => slice x (k * Ty.bits ty) (Ty.bits ty))
  ⟨ofElems ty (rs.map FRes.code), Ty.tag ty, Ty.tag ty, BitVec.ofNat 5 (rs.foldl (fun m r => m ||| r.fl) 0)⟩

/-! ### The frame of an instruction -/

/-- The lanes of a floating-point instruction about to issue whose results will fail their check (R472). -/
def State.strayLanes (s : State) (h : Hdr) (k : Shadow) (ty : Ty) (abs neg : Nat) (srcs : List Src) : List Nat :=
  (s.env h.guard).elim [] fun e => ((s.readRows e (srcs.map (Arg.of ty))).2.filter fun r =>
    (List.range (Ty.count ty)).any fun j => shadowMiss k (Ty.fmt ty)
      ((List.range srcs.length).map fun i => slice (modSrc ty abs neg r i) (j * Ty.bits ty) (Ty.bits ty))
      fun i => Config.unitResult s.nextOp r.1 (2 * j + i)).map Prod.fst

/-- A floating-point instruction of `n` sources: the modifiers and the operation on each element. The operation keeps the lanes that its
shadows `k` will find wrong at its completion. -/
def State.fpu (s : State) (h : Hdr) (i : Instr) (k : Shadow) (ty : Ty) (abs neg : Nat) (d : Reg) (srcs : List Src)
    (f : Nat → List Nat → FRes) : State :=
  let args := srcs.map (Arg.of ty)
  (s.fixed h i [d.code] args (fun _ => 4) fun s e rows =>
    let res := fun (r : Row) => packF ty (e.g.lane r.1) f ((List.range srcs.length).map (modSrc ty abs neg r))
    (s.regOut false d res rows, fpOut res rows)).modOp s.nextOp fun o => { o with vals := s.strayLanes h k ty abs neg srcs }

def execFadd (h : Hdr) (o : F2Ops) (s : State) : Outcome :=
  .next (s.fpu h (.fadd h o) .sum .f32 o.abs.toNat o.neg.toNat o.d [o.a, o.b] fun u xs =>
    faddE fp32 o.rnd o.sat u (xs.getD 0 0) (xs.getD 1 0))

/-- FSUB: x − y (R266). -/
def execFsub (h : Hdr) (o : F2Ops) (s : State) : Outcome :=
  .next (s.fpu h (.fsub h o) .diff .f32 o.abs.toNat o.neg.toNat o.d [o.a, o.b] fun u xs =>
    faddE fp32 o.rnd o.sat u (xs.getD 0 0) (signMod .f32 false true (xs.getD 1 0)))

def execFmul (h : Hdr) (o : F2Ops) (s : State) : Outcome :=
  .next (s.fpu h (.fmul h o) .product .f32 o.abs.toNat o.neg.toNat o.d [o.a, o.b] fun u xs =>
    fmulE fp32 o.rnd o.sat u (xs.getD 0 0) (xs.getD 1 0))

def execFfma (h : Hdr) (o : F3Ops) (s : State) : Outcome :=
  .next (s.fpu h (.ffma h o) .fma .f32 o.abs.toNat o.neg.toNat o.d [o.a, o.b, o.c] fun u xs =>
    ffmaE fp32 o.rnd o.sat u (xs.getD 0 0) (xs.getD 1 0) (xs.getD 2 0))

def execHadd2 (h : Hdr) (o : F2Ops) (s : State) : Outcome :=
  .next (s.fpu h (.hadd2 h o) .sum o.ty o.abs.toNat o.neg.toNat o.d [o.a, o.b] fun u xs =>
    faddE (Ty.fmt o.ty) o.rnd o.sat u (xs.getD 0 0) (xs.getD 1 0))

def execHfma2 (h : Hdr) (o : F3Ops) (s : State) : Outcome :=
  .next (s.fpu h (.hfma2 h o) .fma o.ty o.abs.toNat o.neg.toNat o.d [o.a, o.b, o.c] fun u xs =>
    ffmaE (Ty.fmt o.ty) o.rnd o.sat u (xs.getD 0 0) (xs.getD 1 0) (xs.getD 2 0))

/-- FMIN and FMAX (R268): one of the operands bit for bit, or the canonical NaN. -/
def State.fminmax (s : State) (h : Hdr) (i : Instr) (o : FMinOps) (max : Bool) : State :=
  s.fixed h i [o.d.code] [.of .f32 o.a, .of .f32 o.b] (fun _ => 4) fun s _ rows =>
    (s.regOut false o.d (fun r => .of (fminCode max (modSrc .f32 o.abs.toNat o.neg.toNat r 0)
      (modSrc .f32 o.abs.toNat o.neg.toNat r 1)) 6) rows, [])

def execFmin (h : Hdr) (o : FMinOps) (s : State) : Outcome := .next (s.fminmax h (.fmin h o) o false)

def execFmax (h : Hdr) (o : FMinOps) (s : State) : Outcome := .next (s.fminmax h (.fmax h o) o true)

/-- A comparison of two FP32 codes (R269). -/
def FCond.holds (c : FCond) (x y : Nat) : Bool :=
  let a := fval x
  let b := fval y
  let un := a.isNan || b.isNan
  match c with
  | .eq => a.eqv b
  | .ne => !un && !a.eqv b
  | .lt => a.lt b
  | .le => a.lt b || a.eqv b
  | .gt => b.lt a
  | .ge => b.lt a || a.eqv b
  | .num => !un
  | .nan => un
  | .equ => un || a.eqv b
  | .neu => un || !a.eqv b
  | .ltu => un || a.lt b
  | .leu => un || a.lt b || a.eqv b
  | .gtu => un || b.lt a
  | .geu => un || b.lt a || a.eqv b

def execFsetp (h : Hdr) (o : FsetpOps) (s : State) : Outcome :=
  .next (s.fixed h (.fsetp h o) [] [.of .f32 o.a, .of .f32 o.b, combArg o.comb o.pc] (fun _ => 4) fun s _ rows =>
    (s.predOut o.pd.toNat (fun r => Comb.apply o.comb
      (FCond.holds o.cond (modSrc .f32 o.abs.toNat o.neg.toNat r 0) (modSrc .f32 o.abs.toNat o.neg.toNat r 1))
      ((r.2.getD 2 default).val == 1)) rows, []))

/-- The class bit of an FP32 code (R270). -/
def fclassVal (x : Nat) : Nat :=
  let neg := bitAt x 31
  match fval x with
  | .nan => 256
  | .inf _ => if neg then 1 else 128
  | .fin _ n _ =>
    if n = 0 then (if neg then 8 else 16)
    else if slice x 23 8 = 0 then (if neg then 4 else 32)
    else if neg then 2 else 64

def execFclass (h : Hdr) (o : FclassOps) (s : State) : Outcome :=
  .next (s.alu h (.fclass h o) 4 false o.d [.of .f32 o.a] (un fun a => .of (fclassVal a.val) 2))

/-! ### Special functions (R271, R272)

Exact values are irrational; each is computed in a fixed point of `wp` bits, far beyond the bounds of R271. -/

/-- Fraction bits of the working precision. -/
def wp : Nat := 400

def one : Int := (2 ^ wp : Nat)

/-- Σ of a series whose next term `step k t` comes from the term `t`; `n` terms. -/
def series (step : Nat → Int → Int) : Nat → Nat → Int → Int
  | 0, _, _ => 0
  | n + 1, k, t => t + series step n (k + 1) (step k t)

/-- atan(1/m). -/
def atanInv (m : Int) : Int :=
  let rec go : Nat → Int → Int → Int → Int
    | 0, _, _, _ => 0
    | n + 1, k, t, sg => sg * (t / k) + go n (k + 2) (t / (m * m)) (-sg)
  go 200 1 (one / m) 1

/-- π (Machin's formula). -/
def piF : Int := 16 * atanInv 5 - 4 * atanInv 239

/-- sin x and cos x for a small x. -/
def sinSmall (x : Int) : Int := series (fun k t => -(t * x / one * x / one) / ((2 * k + 2) * (2 * k + 3) : Nat)) 60 0 x
def cosSmall (x : Int) : Int := series (fun k t => -(t * x / one * x / one) / ((2 * k + 1) * (2 * k + 2) : Nat)) 60 0 one

/-- The sine of `x + quarter π/2`. -/
def sinQ (x : Int) (quarter : Nat) : Int :=
  match quarter % 4 with
  | 0 => sinSmall x
  | 1 => cosSmall x
  | 2 => -sinSmall x
  | _ => -cosSmall x

/-- sin of a nonnegative fraction, advanced by `quarter` right angles. -/
def sinOf (n d quarter : Nat) : Int :=
  let x : Int := (n * 2 ^ wp / d : Nat)
  let h := piF / 2
  let k := x / h
  sinQ (x - k * h) ((k % 4).toNat + quarter)

/-- ln 2. -/
def ln2F : Int :=
  let rec go : Nat → Nat → Int
    | 0, _ => 0
    | n + 1, k => one / ((k * 2 ^ k : Nat) : Int) + go n (k + 1)
  go 420 1

/-- 2^f for 0 ≤ f < 1. -/
def exp2Frac (f : Int) : Int := let y := f * ln2F / one; series (fun k t => t * y / one / ((k + 1 : Nat) : Int)) 120 0 one

/-- log2(m) for 1 ≤ m < 2. -/
def log2Frac (m : Int) : Int :=
  let z := (m - one) * one / (m + one)
  let rec go : Nat → Nat → Int → Int
    | 0, _, _ => 0
    | n + 1, k, t => t / ((2 * k + 1 : Nat) : Int) + go n (k + 1) (t * z / one * z / one)
  2 * go 140 0 z * one / ln2F

/-- A signed fixed-point number as a value. -/
def ofFixed (x : Int) : FVal := .fin (decide (x < 0)) x.natAbs (2 ^ wp)

/-- The part's error in one result: a signed fraction of the bound, below 1 in magnitude (R271). -/
def errorOf (fn x : Nat) : Int := signed 30 (Config.specialError fn (BitVec.ofNat 32 x)).toNat * (2 ^ 20 - 1)

/-- A value with an error of at most its 2^-b-th part. -/
def relErr (fn x b : Nat) : FVal → FVal
  | .fin s n d => .fin s (n * ((2 ^ (49 + b) : Nat) + errorOf fn x).toNat) (d * 2 ^ (49 + b))
  | v => v

/-- A value with an absolute error of at most 2^-b. -/
def absErr (fn x b : Nat) : FVal → FVal
  | .fin s n d =>
    let m := sgnInt s n * (2 ^ (49 + b) : Nat) + errorOf fn x * d
    .fin (decide (m < 0)) m.natAbs (d * 2 ^ (49 + b))
  | v => v

def isPow2 (n : Nat) : Bool := n != 0 && 2 ^ n.log2 == n

/-- floor of the square root of n/d in the fixed point, with a sticky bit below where it is not exact. -/
def sqrtF (n d : Nat) : FVal :=
  let q := n * 2 ^ (2 * wp) / d
  let m := Nat.sqrt q
  if m * m * d = n * 2 ^ (2 * wp) then .fin false m (2 ^ wp) else .fin false (2 * m + 1) (2 ^ (wp + 1))

/-- Rounds a special function's y; a value that is not an exact case always sets NX (R272). -/
def roundY (rnd : Rnd) (sat : Bool) (u : Nat) (exact : Bool) (y : FVal) : FRes :=
  let r := roundTo fp32 rnd sat false u y
  if exact then r else ⟨r.code, r.fl ||| flNX⟩

def negInf : Nat := fp32.infCode + fp32.signBit
def invalid : FRes := ⟨fp32.nanCode, flNV⟩

def frcpE (rnd : Rnd) (sat : Bool) (u x : Nat) : FRes :=
  match fval x with
  | .nan => ⟨fp32.nanCode, 0⟩
  | .inf s => ⟨if s then fp32.signBit else 0, 0⟩
  | .fin s n d =>
    if n = 0 then ⟨if s then negInf else fp32.infCode, flDZ⟩
    else
      let exact := isPow2 n && isPow2 d && decide (log2Floor d n ≤ 127)
      roundY rnd sat u exact (if exact then .fin s d n else relErr 0 x 27 (.fin s d n))

def frsqE (rnd : Rnd) (sat : Bool) (u x : Nat) : FRes :=
  match fval x with
  | .nan => ⟨fp32.nanCode, 0⟩
  | .inf s => if s then invalid else ⟨0, 0⟩
  | .fin s n d =>
    if n = 0 then ⟨if s then negInf else fp32.infCode, flDZ⟩
    else if s then invalid
    else
      let exact := isPow2 n && isPow2 d && log2Floor n d % 2 == 0
      roundY rnd sat u exact (if exact then sqrtF d n else relErr 1 x 27 (sqrtF d n))

def fsqrtE (rnd : Rnd) (sat : Bool) (u x : Nat) : FRes :=
  match fval x with
  | .nan => ⟨fp32.nanCode, 0⟩
  | .inf s => if s then invalid else ⟨fp32.infCode, 0⟩
  | .fin s n d =>
    if n = 0 then ⟨x, 0⟩ else if s then invalid else roundTo fp32 rnd sat false u (sqrtF n d)

/-- 2^x for a finite x; far outside the range of FP32 a nearer power stands for it, which rounds the same way. -/
def exp2Of (s : Bool) (n d : Nat) : FVal :=
  let x := sgnInt s (n * 2 ^ wp / d)
  let k := clampInt (-400) 400 (x.fdiv one)
  let f := exp2Frac (x % one)
  match k with
  | .ofNat j => .fin false (f.toNat * 2 ^ j) (2 ^ wp)
  | .negSucc j => .fin false f.toNat (2 ^ (wp + j + 1))

def fex2E (rnd : Rnd) (sat : Bool) (u x : Nat) : FRes :=
  match fval x with
  | .nan => ⟨fp32.nanCode, 0⟩
  | .inf s => ⟨if s then 0 else fp32.infCode, 0⟩
  | .fin s n d =>
    let k := sgnInt s (n / d)
    if n % d = 0 ∧ -149 ≤ k ∧ k ≤ 127 then roundY rnd sat u true (scaled false 1 k)
    else roundY rnd sat u false (relErr 2 x 25 (exp2Of s n d))

/-- log2 of a positive fraction. -/
def log2Of (n d : Nat) : Int :=
  let e := log2Floor n d
  let m : Int := match e with
    | .ofNat j => (n * 2 ^ wp / (d * 2 ^ j) : Nat)
    | .negSucc j => (n * 2 ^ (wp + j + 1) / d : Nat)
  e * one + log2Frac m

def flg2E (rnd : Rnd) (sat : Bool) (u x : Nat) : FRes :=
  match fval x with
  | .nan => ⟨fp32.nanCode, 0⟩
  | .inf s => if s then invalid else ⟨fp32.infCode, 0⟩
  | .fin s n d =>
    if n = 0 then ⟨negInf, flDZ⟩
    else if s then invalid
    else if isPow2 n && isPow2 d then
      let e := log2Floor n d
      roundY rnd sat u true (.fin (decide (e < 0)) e.natAbs 1)
    else
      let y := ofFixed (log2Of n d)
      roundY rnd sat u false (if d ≤ 2 * n ∧ n < 2 * d then absErr 3 x 26 y else relErr 3 x 25 y)

def fsinE (rnd : Rnd) (sat : Bool) (u x : Nat) : FRes :=
  match fval x with
  | .nan => ⟨fp32.nanCode, 0⟩
  | .inf _ => invalid
  | .fin s n d =>
    if n = 0 then ⟨x, 0⟩
    else
      let y := sinOf n d 0
      roundY rnd sat u false (absErr 4 x 23 (ofFixed (if s then -y else y)))

def fcosE (rnd : Rnd) (sat : Bool) (u x : Nat) : FRes :=
  match fval x with
  | .nan => ⟨fp32.nanCode, 0⟩
  | .inf _ => invalid
  | .fin _ n d =>
    if n = 0 then ⟨0x3F800000, 0⟩ else roundY rnd sat u false (absErr 5 x 23 (ofFixed (sinOf n d 1)))

/-- A function of one FP32 source. -/
def State.special1 (s : State) (h : Hdr) (i : Instr) (lat : Nat) (o : FunOps) (f : Nat → Nat → FRes) : State :=
  s.fixed h i [o.d.code] [.of .f32 o.a] (fun _ => lat) fun s e rows =>
    let res := fun (r : Row) => let x := f ((e.g.lane r.1).drawU 0) r.fst; (⟨x.code, 6, 6, BitVec.ofNat 5 x.fl⟩ : Res)
    (s.regOut false o.d res rows, fpOut res rows)

/-- A function that a stack core does not have: the return trap there (R161). -/
def State.coreOnly (s : State) (h : Hdr) (k : State) : State :=
  match s.env h.guard with
  | none => s
  | some e => if e.g.onStack then (if e.act.isEmpty then s else s.returnTrap e) else k

/-- A function of one FP32 source that a stack core does not have. An operand queue faults there as on a core (R162). -/
def State.coreFun (s : State) (h : Hdr) (i : Instr) (lat : Nat) (o : FunOps) (f : Nat → Nat → FRes) : State :=
  match o.a with
  | .q _ => s.special1 h i lat o f
  | _ => s.coreOnly h (s.special1 h i lat o f)

def execFrcp (h : Hdr) (o : FunOps) (s : State) : Outcome := .next (s.special1 h (.frcp h o) 12 o (frcpE o.rnd o.sat))

def execFrsq (h : Hdr) (o : FunOps) (s : State) : Outcome := .next (s.special1 h (.frsq h o) 12 o (frsqE o.rnd o.sat))

def execFsqrt (h : Hdr) (o : FunOps) (s : State) : Outcome := .next (s.special1 h (.fsqrt h o) 16 o (fsqrtE o.rnd o.sat))

def execFex2 (h : Hdr) (o : FunOps) (s : State) : Outcome :=
  .next (s.coreFun h (.fex2 h o) 12 o (fex2E o.rnd o.sat))

def execFlg2 (h : Hdr) (o : FunOps) (s : State) : Outcome :=
  .next (s.coreFun h (.flg2 h o) 12 o (flg2E o.rnd o.sat))

def execFsin (h : Hdr) (o : FunOps) (s : State) : Outcome :=
  .next (s.coreFun h (.fsin h o) 20 o (fsinE o.rnd o.sat))

def execFcos (h : Hdr) (o : FunOps) (s : State) : Outcome :=
  .next (s.coreFun h (.fcos h o) 20 o (fcosE o.rnd o.sat))

end Sys2Proof.Machine
end

