-- ==== Sys2Proof/Machine/Convert.lean ====
section
/-!
DEFINITION. Conversions between formats, packing, block quantisation, format tags and the FP flags as registers
(R273 to R279).
-/

namespace Sys2Proof.Machine

/-- A result with its flags. -/
def FRes.res (x : FRes) (tag : Nat) : Res := ⟨x.code, tag, tag, BitVec.ofNat 5 x.fl⟩

/-- An integer as an exact value. -/
def ofInt (x : Int) : FVal := .fin (decide (x < 0)) x.natAbs 1

/-- CVT (R273). -/
def cvtVal (o : CvtOps) (u a : Nat) : FRes :=
  if o.st = .f32 then roundInt o.dt o.rnd u (fval a)
  else if o.dt = .f32 then roundTo fp32 o.rnd false true u (ofInt (intVal o.st a))
  else ⟨intRes o.dt o.sat (intVal o.st a), 0⟩

def execCvt (h : Hdr) (o : CvtOps) (s : State) : Outcome :=
  .next (s.fixed h (.cvt h o) (regCodes o.dt.is64 o.d) [.reg o.st o.a]
    (fun _ => if o.dt.is64 || o.st.is64 then 6 else 4) fun s e rows =>
      let res := fun (r : Row) => (cvtVal o ((e.g.lane r.1).drawU 0) r.fst).res (Ty.tag o.dt)
      (s.regOut o.dt.is64 o.d res rows, fpOut res rows))

/-- The operand type under which PACK checks its sources (R274). -/
def packSrc (ty : Ty) : Ty := if ty.isInt then accOf ty else .f32

/-- One packed element (R274). -/
def packElem (o : PackOps) (u x : Nat) : FRes :=
  if o.ty.isInt then ⟨intRes o.ty o.sat (intVal (accOf o.ty) x), 0⟩ else roundTy o.ty o.rnd o.sat true u (fval x)

/-- The elements that PACK leaves alone: those of vd, or +0 under .z (R274). -/
def packOld (o : PackOps) (vd : Nat) : List Nat :=
  if o.z then List.replicate (Ty.count o.ty) (zeroCode o.ty) else elems o.ty vd

/-- Sources of PACK: a, b where it has one, and vd without .z. -/
def packArgs (o : PackOps) : List Arg :=
  [Arg.reg (packSrc o.ty) o.a] ++ (match o.b with | none => [] | some b => [Arg.reg (packSrc o.ty) b]) ++
    (if o.z then [] else [Arg.reg o.ty o.d])

def packRes (o : PackOps) (l : Lane) (r : Row) : Res :=
  let e := o.e.toNat
  let vd := if o.z then 0 else (r.2.getLastD default).val
  let x := packElem o (l.drawU 0) r.fst
  match o.b with
  | none => (⟨ofElems o.ty ((packOld o vd).set e x.code), x.fl⟩ : FRes).res (Ty.tag o.ty)
  | some _ =>
    let y := packElem o (l.drawU 1) r.snd
    (⟨ofElems o.ty (((packOld o vd).set e x.code).set (e + 1) y.code), x.fl ||| y.fl⟩ : FRes).res (Ty.tag o.ty)

def execPack (h : Hdr) (o : PackOps) (s : State) : Outcome :=
  .next (s.fixed h (.pack h o) [o.d.code] (packArgs o) (fun _ => 4) fun s e rows =>
    let res := fun (r : Row) => packRes o (e.g.lane r.1) r
    (s.regOut false o.d res rows, fpOut res rows))

/-- One unpacked element (R275). -/
def unpackElem (ty : Ty) (rnd : Rnd) (u x : Nat) : FRes × Nat :=
  if ty.isInt then (⟨wrap 32 (intVal ty x), 0⟩, Ty.tag (accOf ty)) else (roundTo fp32 rnd false false u (valueTy ty x), 6)

/-- Writes of several results into consecutive v registers of a lane. -/
def State.runOut (s : State) (vd : Nat) (f : Row → List (FRes × Nat)) (rows : List Row) : Writes :=
  (rows.flatMap fun r => ((f r).mapIdx fun j x =>
      (⟨r.1, vd + j, BitVec.ofNat 32 (if r.haz then s.free (700 + j) r.1 else x.1.code), x.2⟩ : RegW)),
    (rows.filter fun r => !r.haz).map fun r => (r.1, BitVec.ofNat 5 ((f r).foldl (fun m x => m ||| x.1.fl) 0)))

def execUnpack (h : Hdr) (o : UnpackOps) (s : State) : Outcome :=
  let n := pairElems o.ty o.e
  .next (s.fixed h (.unpack h o) ((List.range n).map fun j => o.vd + j) [.reg o.ty o.a] (fun _ => 4) fun s e rows =>
    s.runOut o.vd (fun r => (List.range n).map fun j =>
      unpackElem o.ty o.rnd ((e.g.lane r.1).drawU j) ((elems o.ty r.fst).getD (o.e.toNat + j) 0)) rows)

/-! ### Block quantisation (R276, R277) -/

/-- Exponent of the largest finite value of a quantised type (R276). -/
def emaxOf : Ty → Int
  | .e4m3 => 8
  | .e5m2 => 15
  | .e3m2 => 4
  | _ => 2

/-- Whether a value is NaN or infinite. -/
def FVal.isSpecial : FVal → Bool
  | .fin _ _ _ => false
  | _ => true

/-- floor(log2) of the largest magnitude among finite values; none when all are zero. -/
def maxLog (xs : List FVal) : Option Int :=
  xs.foldl (fun m x => match x with
    | .fin _ n d => if n = 0 then m else some (match m with | none => log2Floor n d | some k => max k (log2Floor n d))
    | _ => m) none

/-- The scale code of a block (R276). -/
def scaleCode (ty : Ty) (xs : List FVal) : Nat :=
  if xs.any FVal.isSpecial then 255
  else match maxLog xs with
    | none => 127
    | some k => (clampInt 0 254 (k - emaxOf ty + 127)).toNat

/-- A value times a power of two, exactly. -/
def FVal.scale (q : Int) : FVal → FVal
  | .fin s n d => match q with
    | .ofNat k => .fin s (n * 2 ^ k) d
    | .negSucc k => .fin s n (d * 2 ^ (k + 1))
  | v => v

/-- One quantised element under a scale code (R276). -/
def qntElem (ty : Ty) (rnd : Rnd) (u code x : Nat) : FRes :=
  if code = 255 then roundTy ty rnd true true u .nan else roundTy ty rnd true true u ((fval x).scale (127 - (code : Int)))

def execQnt (h : Hdr) (o : QntOps) (s : State) : Outcome :=
  let k := o.ty.qntCount
  .next (s.fixed h (.qnt h o) [o.vd, o.vs] ((List.range k).map fun j => Arg.v .f32 (o.va + j)) (fun e => 12 + e.w.width / 4)
    fun s e rows =>
      let blk := fun (lane : Nat) => e.id lane / min (2 ^ o.m.toNat) e.w.width
      let peers := fun (r : Row) => rows.filter fun x => blk x.1 == blk r.1
      let code := fun (r : Row) => scaleCode o.ty ((peers r).flatMap fun x => x.2.map fun v => fval v.val)
      let qs := fun (r : Row) => (List.range k).map fun j =>
        qntElem o.ty o.rnd ((e.g.lane r.1).drawU j) (code r) (r.2.getD j default).val
      let bad := fun (r : Row) => (peers r).any Row.haz
      (rows.flatMap fun r =>
        [⟨r.1, o.vd, BitVec.ofNat 32 (if bad r then s.free 700 r.1 else ofElems o.ty ((qs r).map FRes.code)), Ty.tag o.ty⟩,
         ⟨r.1, o.vs, BitVec.ofNat 32 (if bad r then s.free 701 r.1 else code r * 0x01010101), 15⟩],
        (rows.filter fun r => !bad r).map fun r => (r.1, BitVec.ofNat 5 ((qs r).foldl (fun m x => m ||| x.fl) 0))))

/-- One expanded element (R277). -/
def dqntElem (ty : Ty) (rnd : Rnd) (sat : Bool) (u c x : Nat) : FRes :=
  if c = 255 ∨ (valueTy ty x).isNan then ⟨fp32.nanCode, 0⟩
  else roundTo fp32 rnd sat true u ((valueTy ty x).scale ((c : Int) - 127))

def execDqnt (h : Hdr) (o : DqntOps) (s : State) : Outcome :=
  let k := o.ty.qntCount
  .next (s.fixed h (.dqnt h o) ((List.range k).map fun j => o.vd + j) [.reg o.ty o.a, .reg .e8m0 o.sc] (fun _ => 4)
    fun s e rows =>
      s.runOut o.vd (fun r => (List.range k).map fun j =>
        (dqntElem o.ty o.rnd o.sat ((e.g.lane r.1).drawU j) (r.snd % 256) ((elems o.ty r.fst).getD j 0), 6)) rows)

/-! ### Tags and flags (R278, R279) -/

def execTagset (h : Hdr) (o : TagsetOps) (s : State) : Outcome :=
  .next (s.alu h (.tagset h o) 4 false o.d [.any .b32 (.reg o.a)] (un fun a => .of a.val o.t.toNat))

def execTagget (h : Hdr) (o : DaOps) (s : State) : Outcome :=
  .next (s.alu h (.tagget h o) 4 false o.d [.any .b32 (.reg o.a)] (un fun a => .of a.tag 2))

/-- FLAGS: the flags are read at its completion (R265, R279). -/
def execFlags (h : Hdr) (o : Reg) (s : State) : Outcome :=
  .next (s.fixed h (.flags h o) [o.code] [] (fun _ => 4) fun s _ rows => (s.regOut false o (fun _ => .of 0 2) rows, []))

/-- FLAGS.SET and FLAGS.CLR: the source is captured at issue; a source with one of bits 5 to 31 set faults (R73, R279), and so may one
that is read too early, a free value on which the check is made as well. vd stays defined. -/
def State.flagsOp (s : State) (h : Hdr) (i : Instr) (o : DaOps) : State :=
  let lost (e : Env) (s : State) := s.undefineLost e (e.op s h i) [o.d.code] 2
  s.checked h (fun _ => [o.d.code, o.a.code]) (fun e =>
    let rows := s.rows e [.any .b32 (.reg o.a)] []
    let bad := (rows.filter fun r => !e.lost.contains r.1 && r.fst / 32 != 0).map Prod.fst
    if bad.isEmpty then
      lost e (s.addOp { e.op s h i with
        lvals := rows.map fun r => (r.1, [r.fst])
        writes := (dstRows o.d rows).map fun r => ⟨r.1, o.d.code, 0, 2⟩
        due := some (s.now e.g + 4) })
    else s.fail e 0x2130 bad 0) fun e => lost e s

def execFlagsSet (h : Hdr) (o : DaOps) (s : State) : Outcome := .next (s.flagsOp h (.flagsSet h o) o)

def execFlagsClr (h : Hdr) (o : DaOps) (s : State) : Outcome := .next (s.flagsOp h (.flagsClr h o) o)

end Sys2Proof.Machine
end

