-- ==== Sys2Proof/Machine/Memory.lean ====
section
/-!
DEFINITION. Loads, stores, atomics, tensor-bounded accesses, prefetch, range maintenance and bank control
(R280 to R294, R298 to R302): what each does at its issue, and what it does when its long-latency operation completes.
-/

namespace Sys2Proof.Machine

/-! ### Scopes (R133 to R135) -/

/-- A scope set: cores, stacks, host. -/
structure ScopeSet where
  cores : Nat
  stackBits : Nat
  host : Bool
  deriving DecidableEq, Repr

/-- The mask of the numbers below `n` for which `f` holds. -/
def maskOf (n : Nat) (f : Nat → Bool) : Nat := ofBits f n

/-- Every core and stack of a device partition (R135). -/
def State.deviceSet (s : State) (p : Nat) (host : Bool) : ScopeSet :=
  ⟨maskOf 64 fun c => s.dpartOfCore c == p, maskOf 8 fun m => s.dpart m == p, host⟩

/-- The scope set that an id names for an agent (R135); the agent is always a member. -/
def State.scopeSet (s : State) (agent ctx id : Nat) : ScopeSet :=
  let own : ScopeSet := if agent < 64 then ⟨2 ^ agent, 0, false⟩ else ⟨0, 2 ^ ((agent - 64) / 8), false⟩
  match id with
  | 0 => own
  | 1 => if agent < 64 then ⟨15 * 2 ^ (agent / 4 * 4), 0, false⟩ else own
  | 2 => s.deviceSet (s.domainOf agent) false
  | 3 => s.deviceSet (s.domainOf agent) true
  | k =>
    let e := (s.findCtx ctx).elim 0 fun c => (NMap.get 0 c.scopes k).toNat
    ⟨slice e 0 64 ||| own.cores, slice e 64 8 ||| own.stackBits, bitAt e 72⟩

/-- Whether a scope set holds the issuing core alone (R142). -/
def ScopeSet.isOwn (x : ScopeSet) (agent : Nat) : Bool := agent < 64 && x.cores == 2 ^ agent && x.stackBits == 0 && !x.host

/-- Steps 2 of an acquire (R142): a set that is not the issuing core alone empties that core's L1. -/
def State.acquireAt (s : State) (g : Group) (scope : Nat) : State :=
  if g.onStack || (s.scopeSet g.agent (s.ctxOf g) scope).isOwn g.agent then s else s.invalidateL1 g.agent

/-! ### How operations order one another (R138, R141, R142, R300) -/

/-- Operations that store or act atomically. -/
def Instr.writesMem : Instr → Bool
  | .st _ _ | .sts _ _ | .stt _ _ | .atom _ _ | .atoms _ _ | .red _ _ => true
  | .bwinit _ _ | .bwarr _ _ | .semsig _ _ | .semwait _ _ | .errack _ _ => true
  | _ => false

/-- Operations that load. -/
def Instr.readsMem : Instr → Bool
  | .ld _ _ | .lds _ _ | .ldu _ _ | .ldt _ _ | .atom _ _ | .atoms _ _ | .semwait _ _ | .bwwait _ _ => true
  | _ => false

def MemMode.isSync : MemMode → Bool
  | .sync _ => true
  | _ => false

/-- Release-class operations (R140). -/
def Instr.isRelease : Instr → Bool
  | .release _ _ | .fence _ _ | .trigger _ => true
  | .st _ o => MemMode.isSync o.mode
  | .atom _ o | .atoms _ o => o.ord == .rel || o.ord == .ar
  | .red _ o => o.ord == .rel
  | .bar _ _ | .barArr _ _ | .bart _ _ | .bartArr _ _ | .semsig _ _ | .ncallL _ _ | .ncallB _ _ => true
  | .bwarr _ o => o.rel
  | .tflag _ _ => true
  | .sysrd _ _ | .syswr _ _ | .tret _ _ | .resume _ _ | .tlbinvAll _ _ | .tlbinvVa _ _ | .snapmark _ _ => true
  | .halt _ _ | .haltKill _ _ => true
  | .fsem _ _ => true
  | _ => false

/-- Acquire-class operations, which hold the warp's later loads (R142). -/
def Instr.isAcquire : Instr → Bool
  | .acquire _ _ | .fence _ _ => true
  | .ld _ o => MemMode.isSync o.mode
  | .atom _ o | .atoms _ o => o.ord == .acq || o.ord == .ar
  | .semwait _ _ | .bwwait _ _ | .njoin _ _ => true
  | _ => false

/-- Which barrier an arrival names: whether a team's, its number, and whether its lanes wait. -/
def Instr.barOf : Instr → Option (Bool × Nat × Bool)
  | .bar _ n => some (false, n.toNat, true)
  | .barArr _ n => some (false, n.toNat, false)
  | .bart _ n => some (true, n.toNat, true)
  | .bartArr _ n => some (true, n.toNat, false)
  | _ => none

/-- Range maintenance with its virtual range (R299). -/
def Op.range (o : Op) : Option (Nat × Nat) :=
  match o.instr with
  | .l2clean _ _ | .l2inv _ _ | .l2flush _ _ => some (o.vals.getD 0 0, o.vals.getD 1 0)
  | _ => none

/-- Whether an access of an operation meets a line of a virtual range (R299, R300). -/
def Op.inRange (o : Op) (r : Nat × Nat) : Bool :=
  r.2 != 0 && o.accs.any fun a => a.va / 128 ≤ (r.1 + r.2 - 1) / 128 && r.1 / 128 ≤ (a.va + 15) / 128

/-- The units of an operation's accesses; those of a store stand in its `dsts` once they are performed (R137). -/
def Op.units (o : Op) : List MUnit := ((if Instr.writesMem o.instr then o.dsts else []) ++ o.accs).flatMap Acc.units

/-- Whether an instruction is an acquire without a read of its own (R143). -/
def Instr.isFenceAcquire : Instr → Bool
  | .acquire _ _ | .fence _ _ => true
  | _ => false

/-- Instructions that access memory or a scratchpad for their lanes. -/
def Instr.touches (i : Instr) : Bool := Instr.readsMem i || Instr.writesMem i

/-- Whether operation `o` must wait until the earlier operation `p` of its warp has been performed. -/
def Op.waitsFor (o p : Op) : Bool :=
  (Instr.isAcquire p.instr && Instr.readsMem o.instr) ||
  (Instr.isFenceAcquire o.instr && Instr.readsMem p.instr) ||
  (Instr.isRelease p.instr && Instr.writesMem o.instr) ||
  (Instr.isRelease o.instr && Instr.writesMem p.instr) ||
  ((Instr.writesMem o.instr || Instr.writesMem p.instr) && Instr.touches o.instr && Instr.touches p.instr &&
    o.units.any fun u => p.units.any u.overlaps) ||
  ((o.range.any fun r => Instr.writesMem p.instr && p.inRange r) ||
    p.range.any fun r => (Instr.readsMem o.instr || Instr.writesMem o.instr) && o.inRange r)

/-- Earlier operations of the warp that `o` waits for; those that still wait for their lines or words take their place only when
they resume (R121, R41). An arrival and a delivered call stand done once what they waited for is done (R141). -/
def State.orderAfter (s : State) (wid : Nat) (o : Op) : List Nat :=
  ((s.ops.filter fun p => p.gid == o.gid && p.owners.contains wid && p.seq < o.seq && p.due.isNone && p.at_ != .held &&
    p.at_ != .delivered && o.waitsFor p).flatMap fun p => if (Instr.barOf p.instr).isSome then p.after else [p.id]).eraseDups

/-- The granules whose copies the writes of an operation wait for (R461). -/
def State.copiesDue (s : State) (tid : Nat) (us : List MUnit) : List Nat :=
  match s.findTake tid with
  | none => []
  | some t => (us.filterMap fun u => match u.loc with
    | .mem _ pg => t.copyFirst pg
    | .bank _ _ _ => none).eraseDups

/-- The 4-byte scratchpad words that units meet, numbered by group, bank and word. -/
def wordKeys (us : List MUnit) : List Nat :=
  us.flatMap fun u => match u.loc with
    | .mem _ _ => []
    | .bank g b off => (List.range ((off + u.n + 3) / 4 - off / 4)).map fun i => (g * 16 + b) * 2 ^ 13 + off / 4 + i

/-- Notes scratchpad words. -/
def markWords (m : NMap Bool) (us : List MUnit) : NMap Bool := (wordKeys us).foldl (fun m k => NMap.put false m k true) m

/-- A warp has issued writes to scratchpad words: they await an MFENCE, and for other warps' MMAs a barrier (R158, R330). -/
def Warp.wrote (w : Warp) (us : List MUnit) : Warp :=
  { w with dirty := markWords w.dirty us, unbarred := (wordKeys us).foldl (fun m k => NMap.put 0 m k 1) w.unbarred }

/-- Puts a long-latency operation in flight in its place in the warp's order. -/
def State.launch (s : State) (e : Env) (o : Op) : State :=
  let o := { o with after := s.orderAfter e.w.wid o }
  let due := if Instr.writesMem o.instr then s.copiesDue e.g.take o.units else []
  let s := if Instr.writesMem o.instr then s.modWarp e.g.gid e.w.wid fun w => w.wrote o.units else s
  (s.modTake e.g.take fun t => { t with copyDue := (t.copyDue ++ due).eraseDups }).addOp o

/-! ### Addresses (R281 to R283) -/

/-- Address spaces of lanes (R111). -/
inductive Space
  | global | priv | scratch
  deriving DecidableEq, Repr

/-- The units of an access, as offsets and sizes (R137, R284). -/
def memUnits (six : Bool) (n : Nat) : List (Nat × Nat) :=
  if six then [(0, 4), (4, 4), (8, 4)] else if n = 16 then [(0, 8), (8, 8)] else [(0, n)]

/-- The first failing check of steps 4 to 6 of R283. -/
def State.addrFault (s : State) (g : Group) (sp : Space) (six : Bool) (n addr : Nat) : Option Nat :=
  let al := if six then 4 else n
  match sp with
  | .global =>
    if 2 ^ 52 ≤ addr then some 0x2142 else if addr % al ≠ 0 then some 0x2144 else if 2 ^ 52 < addr + n then some 0x2142 else none
  | .priv => if s.privSize g < addr + n then some 0x2143 else if addr % al ≠ 0 then some 0x2144 else none
  | .scratch =>
    if addr % al ≠ 0 then some 0x2144
    else (memUnits six n).findSome? fun u => match s.scratchLoc g ((addr + u.1) % 2 ^ 32) with
      | .error c => some c
      | .ok _ => none

/-- Where one unit lies; `none` is the bank of a team member that has not started (R41). -/
def State.locUnit (s : State) (g : Group) (sp : Space) (k : AccKind) (lane addr n : Nat) : State × Except Nat (Option MUnit) :=
  match sp with
  | .scratch => (s, match s.scratchLoc g (addr % 2 ^ 32) with
    | .error c => .error c
    | .ok none => .ok none
    | .ok (some x) => .ok (some ⟨.bank x.1 x.2.1 x.2.2, n⟩))
  | _ =>
    let va := if sp = .priv then s.privVa g lane addr else addr
    let r := s.transAcc g va k
    (r.1, match r.2 with
      | .error c => .error c
      | .ok t => .ok (some ⟨.mem t.a t.pg, n⟩))

/-- The units of one lane's access: the located ones, the first failure, and whether a member has not started. -/
def State.locLane (s : State) (g : Group) (sp : Space) (k : AccKind) (lane addr : Nat) :
    List (Nat × Nat) → State × List MUnit × Option (Nat × Nat) × Bool
  | [] => (s, [], none, false)
  | u :: us =>
    let r := s.locUnit g sp k lane (addr + u.1) u.2
    let q := r.1.locLane g sp k lane addr us
    match r.2 with
    | .error c => (q.1, q.2.1, some (c, if sp = .priv then s.privVa g lane (addr + u.1) else addr + u.1), q.2.2.2)
    | .ok none => (q.1, q.2.1, q.2.2.1, true)
    | .ok (some m) => (q.1, m :: q.2.1, q.2.2.1, q.2.2.2)

/-- The accesses of all lanes: the located ones, the failures, and whether a member has not started. -/
def State.locLanes (s : State) (g : Group) (sp : Space) (k : AccKind) (us : List (Nat × Nat)) :
    List (Nat × Nat) → State × List Acc × List (Nat × Nat × Nat) × Bool
  | [] => (s, [], [], false)
  | (lane, addr) :: as =>
    let r := s.locLane g sp k lane addr us
    let q := r.1.locLanes g sp k us as
    let va := if sp = .priv then s.privVa g lane addr else addr
    match r.2.2.1 with
    | some f => (q.1, q.2.1, (lane, f.1, f.2) :: q.2.2.1, r.2.2.2 || q.2.2.2)
    | none => (q.1, ⟨lane, r.2.1, va⟩ :: q.2.1, q.2.2.1, r.2.2.2 || q.2.2.2)

/-- Whether a located unit lies in a present line; memory always does (R121). -/
def State.presentUnit (s : State) (u : MUnit) : Bool :=
  match u.loc with
  | .mem _ _ => true
  | .bank g b off => ((s.findGroup g).bind fun y => y.banks[b]?).all fun k => k.present off

/-- Puts a lane access in flight, or holds it with its lanes until its members have started and its lines are present
(R41, R121). -/
def State.launchOrHold (s : State) (e : Env) (o : Op) (unstarted : Bool) : State :=
  if unstarted || !(o.units.all s.presentUnit) then
    let o := { o with at_ := .held, status := if unstarted then 1 else 0 }
    (s.addOp o).modLanes e.g.gid o.lanes fun _ l => l.blockAt (.held o.id)
  else s.launch e o

/-- The frame of a lane access (R283): allotment, the tags and then the address of every lane, the lowest failing lane deciding;
translation; then the operation for the lanes that do not park. A lane whose base or offset is undefined, read too early or from a queue
that lacked its word, raises no fault of its address (R12, R31, R79): where that fails, it makes no access. `addr` gives a lane's address and
`lv` what the operation keeps of its operands, after a mark: 1 where an operand was read too early, and 2 more where the address is
undefined. -/
def State.access (s : State) (h : Hdr) (i : Instr) (sp : Space) (k : AccKind) (six : Bool) (n : Nat) (dst : List Nat)
    (args : List Arg) (addr : Row → Nat) (lv : Row → List Nat) : State :=
  s.checked h (fun _ => dst ++ args.flatMap Arg.codes) fun e =>
    let p := s.popArgs e args
    let rows := s.rows e args p.2
    let blind := (rows.filter fun r => (r.2.take 2).any Opnd.haz || e.short args p.2 r.1).map Prod.fst
    let faults := rows.filterMap fun r =>
      if tagsOk args r.2 then (s.addrFault e.g sp six n (addr r)).map fun c => (r.1, c, addr r) else some (r.1, 0x2130, 0)
    let out := faults.filter fun f => !(blind.contains f.1 && f.2.1 != 0x2130) && !e.lost.contains f.1
    match out with
      | f :: _ => s.fail e f.2.1 (out.map Prod.fst) f.2.2 (k == .write)
      | [] =>
        let r := p.1.locLanes e.g sp k (memUnits six n)
          ((rows.filter fun x => !(faults.any fun f => f.1 == x.1)).map fun x => (x.1, addr x))
        (r.1.settleLanes e (r.2.2.1.filter fun f => !blind.contains f.1) (k == .write) 0 fun s act =>
          if act.isEmpty then s
          else
            let o := { e.op s h i with
              lanes := act
              lvals := (rows.filter fun x => act.contains x.1).map fun x => (x.1, (bit x.haz + 2 * bit (blind.contains x.1)) :: lv x)
              accs := r.2.1.filter fun a => act.contains a.lane }
            (s.launchOrHold e o r.2.2.2).unsettle o dst).undefineLost e (e.op r.1 h i) dst 0

/-! ### Loads and stores (R284 to R288) -/

/-- Bytes of one lane's access (R284). -/
def accessBytes (ty : Ty) (vec : BitVec 2) (one : Bool) : Nat :=
  if one then Ty.bits ty / 8
  else match ty with
    | .e3m2 | .e2m3 | .l6 => 12
    | _ => (if ty.is64 then 8 else 4) * vecCount vec

/-- The six-bit types move 16 dense elements through four registers (R284). -/
def isSix : Ty → Bool
  | .e3m2 | .e2m3 | .l6 => true
  | _ => false

/-- The registers of an access, first code and count. -/
def runCodes (r : Reg) (n : Nat) : List Nat := (List.range n).map fun j => r.code + j

/-- The values that a load of `x` gives its registers, with their tag (R284). -/
def loadVals (ty : Ty) (vec : BitVec 2) (one : Bool) (x : Nat) : List (Nat × Nat) :=
  if one then [(wrap 32 (intVal ty x), Ty.tag (accOf ty))]
  else if isSix ty then
    let z := if ty = .l6 then 0x10 else 0
    let el := fun k => slice x (6 * k) 6
    [(ofElems ty ((List.range 5).map el), Ty.tag ty), (ofElems ty ((List.range 5).map fun k => el (5 + k)), Ty.tag ty),
     (ofElems ty ((List.range 5).map fun k => el (10 + k)), Ty.tag ty), (ofElems ty [el 15, z, z, z, z], Ty.tag ty)]
  else (List.range (accessRegs ty vec)).map fun j => (slice x (32 * j) 32, Ty.tag ty)

/-- Register writes of a load: in every lane, or of the lowest lane for an s destination (R70). -/
def State.loadOut (s : State) (d : Reg) (xs : List (Nat × List (Nat × Nat) × Bool)) : List RegW :=
  (match d with
    | .v _ => xs
    | .s _ => xs.take 1).flatMap fun (x : Nat × List (Nat × Nat) × Bool) => x.2.1.mapIdx fun j (v : Nat × Nat) =>
      ⟨x.1, d.code + j, BitVec.ofNat 32 (if x.2.2 then s.free (700 + j) x.1 else v.1), v.2⟩

/-- The address operands: base and offset (R281, R282). -/
def addrArgs (wide : Bool) (base off : Src) : List Arg := [Arg.of (if wide then .i64 else .z32) base, Arg.of .i32 off]

/-- A row's address: base plus the signed offset, modulo the width of an address. -/
def rowAddr (wide : Bool) (r : Row) : Nat := wrap (if wide then 64 else 32) ((r.fst : Int) + signed 32 r.snd)

def MemMode.space : MemMode → Space
  | .prv => .priv
  | _ => .global

/-- The bytes an operand keeps past base and offset. -/
def rowData (r : Row) : List Nat := (r.2.drop 2).map Opnd.val

/-- A load or atomic of lanes with destination codes `dst`. -/
def State.load (s : State) (h : Hdr) (i : Instr) (sp : Space) (o : LoadOps) : State :=
  s.access h i sp .read (isSix o.ty) (accessBytes o.ty o.vec o.one) (runCodes o.d (if o.one then 1 else accessRegs o.ty o.vec))
    (addrArgs (sp == .global) o.base o.off) (rowAddr (sp == .global)) fun _ => []

def execLd (h : Hdr) (o : LoadOps) (s : State) : Outcome := .next (s.load h (.ld h o) (MemMode.space o.mode) o)

def execLds (h : Hdr) (o : LoadOps) (s : State) : Outcome := .next (s.load h (.lds h o) .scratch o)

/-- The type under which a store checks a data register (R284). -/
def dataTy (ty : Ty) (one : Bool) : Ty := if one then accOf ty else ty

/-- The data operands of a store: one for each register or pair. -/
def dataArgs (ty : Ty) (vec : BitVec 2) (one : Bool) (d : Src) : List Arg :=
  match d with
  | .reg r =>
    let k := if ty.is64 then 2 else 1
    (List.range (if one then 1 else vecCount vec)).map fun j => Arg.reg (dataTy ty one) (match r with
      | .v n => .v (n + k * j)
      | .s n => .s (n + k * j))
  | d => [Arg.of (dataTy ty one) d]

/-- The bytes that a store writes, from its data registers (R284). -/
def storeVal (ty : Ty) (one : Bool) (xs : List Nat) : Nat :=
  if one then xs.headD 0 % 2 ^ Ty.bits ty
  else if isSix ty then
    ((List.range 16).map fun k => slice (xs.getD (k / 5) 0) (6 * (k % 5)) 6 * 2 ^ (6 * k)).sum
  else (xs.mapIdx fun j x => x * 2 ^ ((if ty.is64 then 64 else 32) * j)).sum

def State.store (s : State) (h : Hdr) (i : Instr) (sp : Space) (o : StoreOps) : State :=
  s.access h i sp .write (isSix o.ty) (accessBytes o.ty o.vec o.one) []
    (addrArgs (sp == .global) o.base o.off ++ dataArgs o.ty o.vec o.one o.data) (rowAddr (sp == .global))
    fun r => [storeVal o.ty o.one (rowData r)]

def execSt (h : Hdr) (o : StoreOps) (s : State) : Outcome := .next (s.store h (.st h o) (MemMode.space o.mode) o)

def execSts (h : Hdr) (o : StoreOps) (s : State) : Outcome := .next (s.store h (.sts h o) .scratch o)

/-- A uniform operand: an s register or an immediate (R305), as the lowest lane of `active` reads it. -/
def State.uni (s : State) (e : Env) (ty : Ty) (x : Src) : Opnd := s.readArg e 0 e.low [] (.of ty x)

/-- An s register or pair as the lowest lane reads it. -/
def State.uniS (s : State) (e : Env) (wide : Bool) (n : Nat) : Nat :=
  (s.readReg e.g wide (n + 1) e.low (.s n)).val

/-- LDU (R288): one constant read for the whole issue. -/
def execLdu (h : Hdr) (o : LoadOps) (s : State) : Outcome :=
  let n := accessBytes o.ty o.vec o.one
  let args := addrArgs false o.base o.off
  let dst := runCodes o.d (if o.one then 1 else accessRegs o.ty o.vec)
  .next (s.checked h (fun _ => dst ++ args.flatMap Arg.codes) fun e =>
    match s.takeOf e.g with
    | none => s
    | some t =>
      let a := wrap 32 ((s.uni e .z32 o.base).val + signed 32 (s.uni e .i32 o.off).val)
      let al := if isSix o.ty then 4 else n
      let va := t.slate.constBase + a
      let early := (s.uni e .z32 o.base).haz || (s.uni e .i32 o.off).haz || !e.sure
      if !early && t.slate.constSize < a + n then s.fail e 0x2145 e.act 0
      else if !early && a % al != 0 then s.fail e 0x2144 e.act 0
      else
        let r := if early then (s, [], none, false) else s.locLane e.g .global .read e.low va (memUnits (isSix o.ty) n)
        (r.1.settleLanes e (match r.2.2.1 with
            | none => []
            | some f => e.act.map fun l => (l, f.1, f.2)) false 0 fun s act =>
          if act.isEmpty then s
          else
            let op := { e.op s h (.ldu h o) with
              lvals := e.act.map fun l => (l, [bit (early || e.lost.contains l)])
              accs := [⟨e.low, r.2.1, va⟩] }
            (s.launch e op).unsettle op dst).undefineLost e (e.op r.1 h (.ldu h o)) dst 0)

/-! ### What loads and stores do at their completion -/

/-- Reads the accesses of an operation: each lane's value, and the trace of the first poisoned unit. A lane of `blind`, whose address is
undefined, reports no poison (R12, R31): it reads an undefined value. -/
def State.readAccs (s : State) (v : Via) (blind : Nat → Bool) : List Acc → State × List (Nat × Nat) × Option (Nat × Nat)
  | [] => (s, [], none)
  | a :: as =>
    let r := s.readUnits v a.units
    let q := r.1.readAccs v blind as
    (q.1, (a.lane, r.2.1) :: q.2.1, match r.2.2 with
      | some c => if blind a.lane then q.2.2 else some c
      | none => q.2.2)

/-- The value an operation keeps for a lane: entry `j` past the hazard mark. -/
def Op.lv (o : Op) (lane j : Nat) : Nat := (((o.lvals.find? fun x => x.1 == lane).elim [] Prod.snd).getD (j + 1) 0)

/-- The mark that an operation keeps of how a lane's operands were read (State.access). -/
def Op.lmark (o : Op) (lane : Nat) : Nat := ((o.lvals.find? fun x => x.1 == lane).elim [] Prod.snd).headD 0

/-- Whether a lane read an operand of the operation too early. -/
def Op.lhaz (o : Op) (lane : Nat) : Bool := o.lmark lane % 2 == 1

/-- Whether a lane's address is undefined. -/
def Op.blind (o : Op) (lane : Nat) : Bool := decide (2 ≤ o.lmark lane)

/-- What the lanes of an operation read: value, and whether it is undefined. A lane without an access has read nothing. -/
def Op.laneVals (o : Op) (bad : Bool) (rs : List (Nat × Nat)) (vals : Nat → List (Nat × Nat)) : List (Nat × List (Nat × Nat) × Bool) :=
  o.lanes.map fun l => match rs.find? fun x => x.1 == l with
    | some x => (l, vals x.2, bad || o.lhaz l)
    | none => (l, vals 0, true)

/-- Entry `j` past the hazard mark of what an operation keeps for its lanes, changed for one lane. -/
def Op.setLv (o : Op) (lane j x : Nat) : Op :=
  { o with lvals := o.lvals.map fun y => if y.1 = lane then (y.1, (List.range (max y.2.length (j + 2))).map fun i =>
      if i = j + 1 then x else y.2.getD i 0) else y }

/-- The value of a load whose first units have been read before the others (R137): entry `j` holds their bytes, and entry `j + 1` how
many they are. -/
def Op.pieced (o : Op) (j : Nat) (x : Nat × Nat) : Nat × Nat := (x.1, o.lv x.1 j + 2 ^ (8 * o.lv x.1 (j + 1)) * x.2)

/-- One unit of a load, read ahead of the access's other units (R137). -/
def State.readPart (s : State) (o : Op) (v : Via) (j : Nat) : State :=
  match o.accs.find? fun a => 2 ≤ a.units.length with
  | none => s
  | some a => match a.units with
    | [] => s
    | u :: us =>
      let tol := match u.loc with | .mem _ pg => pg.ptro | .bank _ _ _ => false
      let r := s.readUnit v u
      if r.2.2 || tol then s
      else
        let q := o.pieced j (a.lane, r.2.1)
        r.1.modOp o.id fun p => { (p.setLv a.lane j q.2).setLv a.lane (j + 1) (o.lv a.lane (j + 1) + u.n) with
          accs := p.accs.map fun b => if b == a then { b with units := us, va := b.va + u.n } else b }

/-- The writes of a load whose lanes have their values; `v` says through what its lanes read. A poisoned sector is a hardware
error of the take, and the destinations hold undefined values (R130). -/
def State.doLoad (s : State) (o : Op) (v : Via) (d : Reg) (vals : Nat → List (Nat × Nat)) : State :=
  let r := s.readAccs v o.blind o.accs
  let bad := r.2.2.isSome
  let o := { o with writes := r.1.loadOut d (o.laneVals bad (r.2.1.map (o.pieced 0)) vals) }
  let s := match r.2.2, s.findGroup o.gid with
    | some c, some g => r.1.renew.hwError g.take 0x3111 c.1 c.2
    | _, _ => r.1.renew
  s.finishOp o

/-- Through what a load of a group reads: a sync load of a scope past the core's own reads at the points of coherence (R285). -/
def Group.loadVia (g : Group) (x : LoadOps) : Via := match x.mode with
  | .sync sc => if sc = 0 then g.via x.hint.toNat else if g.onStack then .below else .home
  | _ => g.via x.hint.toNat

/-- Completion of LD, and of LDS (R285, R287, R142). -/
def State.doLd (s : State) (o : Op) (g : Group) (x : LoadOps) : State :=
  let s := s.doLoad o (g.loadVia x) x.d (loadVals x.ty x.vec x.one)
  match x.mode with
  | .sync sc => s.acquireAt g sc.toNat
  | _ => s

/-- The bytes of units with free values for those that lie in a sector written since `since` (R115). -/
def State.staleUnits (s : State) (since : Nat) : List MUnit → Nat → Nat
  | [], _ => 0
  | u :: us, x =>
    let free := match u.loc with
      | .mem a _ => decide (since < s.sectorStamp a)
      | _ => false
    (if free then s.free 723 us.length else x) % 2 ^ (8 * u.n) + 2 ^ (8 * u.n) * s.staleUnits since us (x / 2 ^ (8 * u.n))

/-- Completion of LDU: every lane of `active` gets the value; a sector of the constant region that has been written during the
take gives an undefined value for its bytes (R115, R288). -/
def State.doLdu (s : State) (o : Op) (g : Group) (x : LoadOps) : State :=
  let since := (s.takeOf g).elim 0 Take.stamp
  let r := s.readAccs (g.via 0) o.blind o.accs
  let v := r.1.staleUnits since o.units (r.2.1.headD (0, 0)).2
  let o := { o with writes := r.1.loadOut x.d (o.lanes.map fun l => (l, loadVals x.ty x.vec x.one v, r.2.2.isSome || o.lhaz l)) }
  let s := match r.2.2 with
    | some c => r.1.renew.hwError g.take 0x3111 c.1 c.2
    | none => r.1.renew
  s.finishOp o

/-- Writes accesses in ascending lane: where two lanes write a byte, the higher stands (R286). -/
def State.writeAccs (s : State) (v : Via) (val : Nat → Nat) : List Acc → State
  | [] => s
  | a :: as => (s.writeUnits v a.units (val a.lane)).writeAccs v val as

/-- Whether a cell lies in declared ranges, which stand by granule, each at its device physical address. -/
def coversCell (ranges : List Acc) (a : Nat) : Bool :=
  (ranges.flatMap Acc.units).any fun u => match u.loc with
    | .mem p pg => isHost a == (pg.place == 3) && p ≤ physAt pg.place a && physAt pg.place a < p + u.n
    | .bank _ _ _ => false

/-- Whether a cell lies in a declared range of a call, which keeps its ranges in its `dsts`. -/
def Op.covers (o : Op) (a : Nat) : Bool := coversCell o.dsts a

/-- Cells come to hold undefined values, in whichever view they are read. -/
def State.spoilSpan (s : State) (x : Nat × Nat) : State :=
  let s := s.evictLine (lineOf x.1)
  let s := ({ s with l1 := s.l1.filter fun k => k.1 % 2 ^ 33 != lineOf x.1 } : State).noteWrite x.1 x.2
  (s.setCells x.1 x.2 (s.free 725 0)).renew

def Instr.isCall : Instr → Bool
  | .ncallL _ _ | .ncallB _ _ => true
  | _ => false

/-- Writes into the declared ranges of a call that has ended and whose NJOIN or BWWAIT is due race with it: their bytes hold undefined
values at once (R159, step 7). -/
def State.noteWatched (s : State) (spans : List (Nat × Nat)) : State :=
  (spans.filter fun p => s.watches.any fun w => coversCell w.ranges p.1).foldl State.spoilSpan s

/-- Notes writes that an agent other than a call's callees has made into the call's declared ranges (R159): `by_` is the writing group,
none where no group writes. -/
def State.noteRaces (s : State) (by_ : Option Nat) (spans : List (Nat × Nat)) : State :=
  let s := s.noteWatched spans
  if s.ops.all fun o => !(Instr.isCall o.instr && !o.dsts.isEmpty) then s
  else
    let caller := (by_.bind s.findGroup).bind fun g => match g.kind with
      | .kernel => none
      | .block k | .gathered k => some k
    { s with ops := s.ops.map fun (o : Op) =>
        if Instr.isCall o.instr && caller != some o.id then { o with raced := o.raced ++ spans.filter fun p => o.covers p.1 } else o }

/-- A number for a location, under which its scope id (R151) or its barrier word (R154) is noted. -/
def Loc.key : Loc → Nat
  | .mem a _ => a
  | .bank g b off => 2 ^ 41 + ((g * 16 + b) * 2 ^ 15 + off)

/-- The aligned 8 bytes that hold a unit. -/
def MUnit.word (u : MUnit) : MUnit := match u.loc with
  | .mem a pg => ⟨.mem (a / 8 * 8) pg, 8⟩
  | .bank g b off => ⟨.bank g b (off / 8 * 8), 8⟩

/-- What running takes know of the barrier word that holds a unit (Take.words). -/
def State.wordState (s : State) (u : MUnit) : Nat := s.takes.foldl (fun k t => max k (NMap.get 0 t.words (u.loc.key / 8))) 0

/-- Sets what a take knows of the barrier word that holds a unit. -/
def State.setWordState (s : State) (tid : Nat) (u : MUnit) (k : Nat) : State :=
  s.modTake tid fun t => { t with words := NMap.put 0 t.words (u.loc.key / 8) k }

/-- Whether the aligned 8 bytes that hold a unit are those of a barrier word whose phase is partly arrived (R152). -/
def State.partArrived (s : State) (u : MUnit) : Bool :=
  let x := match u.word.loc with
    | .mem a _ => s.peek a 8
    | .bank g b off => s.readBank g b off 8
  slice x 0 24 != slice x 24 24

/-- Whether a unit of a store, at virtual address `va`, meets a barrier word in use (R154; assumption 61): one whose arrival an engine still owes,
one on which another instruction acts that the store does not precede in its warp, or one that BWINIT has set up and whose phase is partly
arrived. -/
def State.inUse (s : State) (o : Op) (u : MUnit) (va : Nat) : Bool :=
  let ctx := fun (p : Op) => (s.findGroup p.gid).elim 0 s.ctxOf
  (s.wordState u != 0 && s.partArrived u) || s.ops.any fun p => p.id != o.id &&
    ((p.bw.any fun b => b.1 / 8 == va / 8 && ctx p == ctx o && u.sector.isSome) ||
      (match p.instr with
        | .bwarr _ _ | .bwwait _ _ => !p.after.contains o.id && p.units.any u.overlaps
        | _ => false))

/-- The units of an access with their virtual addresses. -/
def Acc.placed (a : Acc) : List (MUnit × Nat) :=
  (a.units.foldl (fun (r : List (MUnit × Nat) × Nat) u => (r.1 ++ [(u, r.2)], r.2 + u.n)) ([], a.va)).1

/-- A plain store has met a barrier word at rest. -/
def Take.metWord (t : Take) (k : Nat) : Take := if NMap.get 0 t.words k = 1 then { t with words := NMap.put 0 t.words k 2 } else t

/-- Barrier words that a store has written hold undefined values (R154): those of `ps`, which were in use. Of `qs`, which BWINIT has set up
and which were at rest, it is noted that a store has met them: an arrival from then on finds an undefined word. -/
def State.spoilWords (s : State) (v : Via) (ps qs : List (MUnit × Nat)) : State :=
  let s := ps.foldl (fun (s : State) p => (s.writeUnit v p.1.word (s.free 722 0)).renew) s
  qs.foldl (fun (s : State) p => { s with takes := s.takes.map fun t => t.metWord (p.1.loc.key / 8) }) s

/-- A store of lanes takes effect at some of its accesses. -/
def State.storeAccs (s : State) (o : Op) (g : Group) (val : Nat → Nat) (accs : List Acc) : State :=
  let us := (accs.flatMap Acc.placed).map fun p => (p, s.inUse o p.1 p.2)
  let ps := (us.filter fun p => p.2).map Prod.fst
  let qs := (us.filter fun p => !p.2 && s.wordState p.1.1 == 1).map Prod.fst
  ((s.writeAccs (g.via 0) val accs).spoilWords (g.via 0) ps qs).noteRaces (some g.gid) (memSpans (accs.flatMap Acc.units))

/-- The end of a store: a sector whose 32 bytes it has all written loses its poison (R131). -/
def State.endStore (s : State) (o : Op) (g : Group) : State :=
  (s.clearCovered (g.via 0).beneath (memSpans o.units)).finishOp o

/-- Completion of ST and STS (R286). -/
def State.doSt (s : State) (o : Op) (g : Group) : State := (s.storeAccs o g (fun l => o.lv l 0) o.accs).endStore o g

/-- The first unit of a store, performed ahead of the others (R137): the units of one access, and the accesses of the lanes in
ascending order, are performed one by one. -/
def State.storePart (s : State) (o : Op) (g : Group) (j : Nat) : State :=
  match o.accs with
  | [] => s
  | a :: as => match a.units with
    | [] => s
    | u :: us =>
      let s := s.storeAccs o g (fun l => o.lv l j) [{ a with units := [u] }]
      s.modOp o.id fun p => { p with
        dsts := p.dsts ++ [{ a with units := [u] }]
        accs := if us.isEmpty then as else { a with units := us, va := a.va + u.n } :: as
        lvals := (p.setLv a.lane j (p.lv a.lane j / 2 ^ (8 * u.n))).lvals }

/-! ### Atomics (R292 to R294, R150, R151) -/

/-- One element of a floating-point atomic (R294). -/
def atomF (op : AtomOp) (f : Fmt) (x y : Nat) : Nat :=
  match op with
  | .add => (faddE f .rn false 0 x y).code
  | .min => fminCode false x y
  | .max => fminCode true x y
  | _ => y

/-- The new value of an atomic (R292). -/
def atomNew (op : AtomOp) (ty : Ty) (old b c : Nat) : Nat :=
  if ty = .f32 ∨ ty = .bf16 ∨ ty = .f16 then
    ofElems ty (List.zipWith (atomF op (Ty.fmt ty)) (elems ty old) (elems ty b))
  else match op with
    | .add => wrap (Ty.bits ty) ((old : Int) + b)
    | .min => if intVal ty old ≤ intVal ty b then old else b
    | .max => if intVal ty b ≤ intVal ty old then old else b
    | .and => old &&& b
    | .or => old ||| b
    | .xor => old ^^^ b
    | .exch => b
    | .cas => if old = c then b else old
    | .inc => if b ≤ old then 0 else old + 1
    | .dec => if old = 0 ∨ b < old then b else old - 1

/-- Whether atomics during a take have used two scope ids at a location; the id is noted (R151). From the second id on, every atomic
there is undefined. -/
def State.mixedScope (s : State) (tid : Nat) (l : Loc) (scope : Nat) : State × Bool :=
  let note := fun (k : Nat) => s.modTake tid fun t => { t with atoms := NMap.put none t.atoms l.key (some k) }
  match s.findTake tid with
  | none => (s, false)
  | some t =>
    match NMap.get none t.atoms l.key with
    | none => (note scope, false)
    | some k => if k = scope then (s, false) else (note 1024, true)

/-- Whether any running take has seen two scope ids used on a location, whoever used them; the id is noted in each (R151, R432). -/
def State.mixedAll (s : State) (l : Loc) (scope : Nat) : State × Bool :=
  ((s.takes.filter fun t => !t.complete).map Take.tid).foldl (fun (r : State × Bool) t =>
    let q := r.1.mixedScope t l scope
    (q.1, r.2 || q.2)) (s, false)

/-- The point at which an atomic on a location is performed (R150, R162). -/
def State.atomVia (s : State) (agent ctx : Nat) (l : Loc) (scope : Nat) : Via :=
  match l with
  | .bank _ _ _ => .home
  | .mem a pg =>
    if isHost a then .home
    else if pg.place == 1 && ((s.scopeSet agent ctx scope).stackBits != 0 || 64 ≤ agent) then .below
    else .home

/-- An atomic comes to its point: the base-die unit first has the home line written back and dropped; a core's L1 loses the line (R124,
R150). -/
def State.reachPoint (s : State) (agent ctx scope : Nat) (u : MUnit) : State × Via :=
  let v := s.atomVia agent ctx u.loc scope
  match u.loc with
  | .mem a _ =>
    let s := if v.beneath then s.evictLine (lineOf a) else s
    (if agent < 64 then s.dropL1 agent (lineOf a) else s, v)
  | .bank _ _ _ => (s, v)

/-- An atomic reads its unit: the point, the value, whether mixed scope ids make it undefined and have left the unit undefined (R151),
and whether it was poisoned. -/
def State.atomRead (s : State) (agent ctx scope : Nat) (u : MUnit) : State × Via × Nat × Bool × Bool :=
  let p := s.reachPoint agent ctx scope u
  let m := p.1.mixedAll u.loc scope
  let r := m.1.readUnit p.2 u
  if m.2 && !r.2.2 then
    ((r.1.writeUnit p.2 u (r.1.free 720 0 % 2 ^ (8 * u.n))).renew, p.2, r.1.free 721 0 % 2 ^ (8 * u.n), true, false)
  else (r.1, p.2, r.2.1, false, r.2.2)

/-- One indivisible read and write of a unit at its point: the value read, and whether it was poisoned. Mixed scope ids leave undefined
values. -/
def State.rmw (s : State) (agent ctx scope : Nat) (u : MUnit) (f : Nat → Nat) : State × Nat × Bool :=
  let r := s.atomRead agent ctx scope u
  if r.2.2.2.1 || r.2.2.2.2 then (r.1, r.2.2.1, r.2.2.2.2) else (r.1.writeUnit r.2.1 u (f r.2.2.1), r.2.2.1, false)

/-- Atomics of lanes, in ascending lane (R293): the values read, and the trace of the first poisoned unit; a lane of `blind` reports none. -/
def State.atomAccs (s : State) (agent ctx scope : Nat) (blind : Nat → Bool) (f : Nat → Nat → Nat) :
    List Acc → State × List (Nat × Nat) × Option (Nat × Nat)
  | [] => (s, [], none)
  | a :: as =>
    match a.units with
    | [u] =>
      let r := s.rmw agent ctx scope u (f a.lane)
      let q := r.1.atomAccs agent ctx scope blind f as
      (q.1, (a.lane, r.2.1) :: q.2.1, if r.2.2 && !blind a.lane then some u.trace else q.2.2)
    | _ => s.atomAccs agent ctx scope blind f as

/-- Completion of an atomic; `d` is its destination, none for RED. -/
def State.doAtom (s : State) (o : Op) (g : Group) (op : AtomOp) (ty : Ty) (ord : AOrd) (scope : Nat) (d : Option Reg) : State :=
  let r := s.atomAccs g.agent (s.ctxOf g) scope o.blind (fun l old => atomNew op ty old (o.lv l 0) (o.lv l 1)) o.accs
  let vals := fun (x : Nat) => if ty.is64 then [(x % 2 ^ 32, 3), (x / 2 ^ 32, 3)] else [(x, Ty.tag ty)]
  let o := { o with writes := match d with
    | none => []
    | some d => r.1.loadOut d (o.laneVals r.2.2.isSome r.2.1 vals) }
  let s := r.1.renew.noteRaces (some g.gid) (memSpans o.units)
  let s := match r.2.2 with
    | some c => s.hwError g.take 0x3111 c.1 c.2
    | none => s
  let s := s.finishOp o
  if ord == .acq || ord == .ar then s.acquireAt g scope else s

/-- The operands of an atomic past its address. -/
def atomArgs (ty : Ty) (b : Src) (c : Option Reg) : List Arg :=
  Arg.of ty b :: (match c with | none => [] | some r => [Arg.reg ty r])

def atomBytes (ty : Ty) : Nat := if ty.is64 then 8 else 4

def execAtom (h : Hdr) (o : AtomOps) (s : State) : Outcome :=
  .next (s.access h (.atom h o) .global .write false (atomBytes o.ty) (regCodes o.ty.is64 o.d)
    (addrArgs true o.base o.off ++ atomArgs o.ty o.b o.c) (rowAddr true) rowData)

def execAtoms (h : Hdr) (o : AtomOps) (s : State) : Outcome :=
  .next (s.access h (.atoms h o) .scratch .write false (atomBytes o.ty) (regCodes o.ty.is64 o.d)
    (addrArgs false o.base o.off ++ atomArgs o.ty o.b o.c) (rowAddr false) rowData)

def execRed (h : Hdr) (o : RedOps) (s : State) : Outcome :=
  .next (s.access h (.red h o) .global .write false (atomBytes o.ty) []
    (addrArgs true o.base o.off ++ atomArgs o.ty o.b o.c) (rowAddr true) rowData)

end Sys2Proof.Machine
end

