-- ==== Sys2Proof/Machine/Engine.lean ====
section
/-!
DEFINITION. What engine commands share (R156, R157, R317, R318, R509): the frame of a command, barrier words and arrivals
(R152, R153), taint (R474), the status of an operation, and reading and writing by engines.
-/

namespace Sys2Proof.Machine

/-! ### Barrier words (R152, R153) -/

/-- A word as BWINIT leaves it (R310). -/
def bwStart (n : Nat) : Nat := n + n * 2 ^ 24

def bwPhase (w : Nat) : Nat := slice w 48 1
def bwError (w : Nat) : Bool := bitAt w 49

/-- An arrival of count `n` with status `e` (R153). -/
def bwArrive (w n e : Nat) : Nat :=
  let w := if e = 0 then w else setBits (if bwError w then w else setBits w 50 14 e) 49 1 1
  let pend := slice w 24 24
  if pend ≤ n then
    let w := if pend < n ∧ !bwError w then setBits (setBits w 49 1 1) 50 14 0x2152 else w
    setBits (setBits w 24 24 (slice w 0 24)) 48 1 (1 - bwPhase w)
  else setBits w 24 24 (pend - n)

/-- ERRACK's new word (R313). -/
def bwAck (w : Nat) : Nat := if bwError w then setBits w 49 15 0 else w

/-- Sets or clears CTXCTL.TAINT with the set (R474). -/
def State.showTaint (s : State) (tid : Nat) : State :=
  match s.findTake tid with
  | none => s
  | some t => s.modCtx t.ctx fun c => { c with taint := !t.taint.isEmpty || t.sticky }

/-- A tainting arrival adds its word; a 65th word sets the sticky taint (R474). -/
def State.taintWord (s : State) (tid va : Nat) : State :=
  (s.modTake tid fun t =>
    if t.taint.contains va then t
    else if t.taint.length < 64 then { t with taint := t.taint ++ [va] }
    else { t with sticky := true }).showTaint tid

/-- ERRACK of a word takes it out of the set (R474). -/
def State.untaintWord (s : State) (tid va : Nat) : State :=
  (s.modTake tid fun t => { t with taint := t.taint.filter fun w => w != va }).showTaint tid

/-! ### The status of an operation -/

/-- The first failure of an operation stays its status (R153, R318); `write` says whether a write has failed. Of operands that were read too
early no fault arises (R31). -/
def Op.fails (o : Op) (code va path phys : Nat) (write : Bool := false) : Op :=
  if o.status = 0 ∧ o.early = false then { o with status := code, cause := (va, path, phys), badWrite := write } else o

/-- A failure at completion under BW = 0 (R318, R465). -/
def State.engineError (s : State) (o : Op) : State :=
  match s.findGroup o.gid with
  | none => s
  | some g =>
    if o.status / 4096 = 3 then s.hwError g.take o.status o.cause.2.1 o.cause.2.2
    else s.progError o.gid o.wid (if o.status / 4096 = 1 then 0x2149 else o.status) o.lanes o.cause.1 o.badWrite

/-- A barrier word whose address does not translate when an arrival or another engine access comes to it: a program error, or the hardware
error of a poisoned page-table entry (R453, R509). -/
def State.lostWord (s : State) (o : Op) (g : Group) (code va : Nat) : State :=
  if o.early then s
  else if code / 4096 = 3 then s.settleError g code 0 va
  else s.progError o.gid o.wid 0x2156 o.lanes va true

/-- What an arrival makes of a word: a word that a plain store has met since BWINIT is undefined (R154). -/
def State.arrival (s : State) (u : MUnit) (n e w : Nat) : Nat := if s.wordState u = 2 then s.free 724 0 else bwArrive w n e

/-- The arrival of an operation on its barrier word (R318, R509), made by `agent`. It is made once: the operation then has no word
left, and its status has been reported. -/
def State.arrive (s : State) (o : Op) (g : Group) (agent : Nat) : State :=
  match o.bw with
  | none => s
  | some (va, scope) =>
    let s := s.modOp o.id fun o => { o with bw := none, status := 0 }
    let r := s.translateFor g va .write
    match r.2 with
    | .error c => r.1.lostWord o g c va
    | .ok t =>
      if (s.takeOf g).any fun x => x.refuses t.pg then r.1.lostWord o g 0x21D0 va
      else
        let s := r.1.copyAll g.take [.mem t.a t.pg]
        let u : MUnit := ⟨.mem t.a t.pg, 8⟩
        let q := s.rmw agent (s.ctxOf g) scope u (s.arrival u 1 o.status)
        let q := (q.1.noteRaces (some g.gid) [(t.a, 8)], q.2)
        if q.2.2 then (if o.early then q.1 else q.1.hwError g.take (if agent < 64 then 0x3112 else 0x3301) u.trace.1 u.trace.2)
        else if o.status / 4096 = 3 then
          (q.1.taintWord g.take va).logError o.status (s.ctxOf g) false false true o.cause.2.1
            ((s.takeOf g).elim 0 Take.number) o.cause.2.2
        else q.1

/-! ### The frame of a command -/

/-- The 32 KiB granules that `n` bytes from `va` meet, by their first address in the range. -/
def granuleStarts (va n : Nat) : List Nat :=
  if n = 0 then []
  else va :: ((List.range ((va % 2 ^ 15 + n - 1) / 2 ^ 15)).map fun i => (va / 2 ^ 15 + i + 1) * 2 ^ 15)

/-- On a stack core an engine reaches no more than a lane does (R163): whether every one of these ranges is within reach. -/
def State.reaches (s : State) (g : Group) : List (Nat × Nat × AccKind) → State × Bool
  | [] => (s, true)
  | (va, n, k) :: rs =>
    let r := (granuleStarts va (min n (2 ^ 52 - va))).foldl (fun (r : State × Bool) a =>
      let q := r.1.transAcc g a k
      (q.1, r.2 && (match q.2 with | .error c => c == 0x21D0 | .ok _ => true))) (s, true)
    let q := r.1.reaches g rs
    (q.1, r.2 && q.2)

/-- Whether the lowest lane of `active` reads one of these registers too early, or every lane its guard (R31, R33). -/
def State.early (s : State) (e : Env) (codes : List Nat) : Bool := !e.sure || codes.any fun c => s.hazard e.g e.low c

/-- A fault that the value of uniform operands raises. Of a value that was read too early no fault arises (R31, R34): the instruction then
has no effect (assumption 46). -/
def State.failRead (s : State) (e : Env) (codes : List Nat) (code addr : Nat) (write : Bool := false) : State :=
  if s.early e codes then s else s.fail e code e.act addr write

/-- The registers of a command's barrier word. -/
def bwCodes (bw : Option Bw) : List Nat := bw.elim [] fun b => [640 + b.word, 641 + b.word]

/-- The operations from `id` on are commands that have read an operand too early (R31). -/
def State.markEarly (s : State) (id : Nat) (early : Bool) : State :=
  if early then { s with ops := s.ops.map fun (o : Op) => { o with early := o.early || decide (id ≤ o.id) } } else s

/-- Whether a warp dispatches no engine command any more after its program error (R465); the second member of the pair that met the error
still goes. -/
def Env.ending (e : Env) : Bool := e.w.errSlots.any fun k => !(k == 24 && e.iss.pos == 2)

/-- An engine command as it issues (R317): its operands must be within the allotment; after a program error of its warp it is not dispatched
(R465). Of uniform operands that were read too early no fault arises at any time (R31). `k'` is for an empty `active` (withEnv). -/
def State.dispatch (s : State) (h : Hdr) (codes : List Nat) (k : Env → State) (k' : Env → State := fun _ => s) : State :=
  s.withEnv h (fun e =>
    if e.ending then s
    else match e.g.codesFault codes with
      | some f => s.fail e f e.act 0
      | none => (k e).markEarly s.nextOp (s.early e (codes.filter isUniform))) fun e =>
    if e.ending || (e.g.codesFault codes).isSome then s else k' e

/-- The barrier word of a command must be aligned in the address space (R318). `k` gets the word and scope of the arrival. -/
def State.barrierWord (s : State) (e : Env) (bw : Option Bw) (k : Option (Nat × Nat) → State) : State :=
  match bw with
  | none => k none
  | some b =>
    let va := s.uniS e true b.word
    if 2 ^ 52 ≤ va then s.failRead e (bwCodes bw) 0x2142 va
    else if va % 8 ≠ 0 then s.failRead e (bwCodes bw) 0x2144 va
    else k (some (va, b.scope.toNat))

/-- An engine command with its barrier word (R317, R318). -/
def State.command (s : State) (h : Hdr) (codes : List Nat) (bw : Option Bw) (k : Env → Option (Nat × Nat) → State)
    (k' : Env → State := fun _ => s) : State :=
  s.dispatch h (codes ++ bwCodes bw) (fun e => s.barrierWord e bw (k e)) k'

/-- Goes on where every range is within reach; on a stack core another range raises the return trap (R163). -/
def State.reaching (s : State) (e : Env) (rs : List (Nat × Nat × AccKind)) (k : State → State) : State :=
  if e.g.onStack then
    let r := s.reaches e.g rs
    if r.2 then k r.1 else r.1.returnTrap e
  else k s

/-- Operations of the warp that a command's accesses follow (R156): stores and atomics to memory, lane accesses of the same scratchpad
bytes (`us`), loads of the virtual ranges `rs` that it writes, and acquires. -/
def State.engineAfter (s : State) (wid gid seq : Nat) (us : List MUnit) (rs : List (Nat × Nat)) : List Nat :=
  (s.ops.filter fun p => p.gid == gid && p.owners.contains wid && p.seq < seq && p.due.isNone && p.at_ != .held &&
    (Instr.isAcquire p.instr || (Instr.readsMem p.instr && rs.any fun r => p.accs.any fun a => a.va < r.1 + r.2 && r.1 < a.va + 16) ||
      (Instr.writesMem p.instr && p.units.any fun u => match u.loc with | .mem _ _ => true | .bank _ _ _ => false) ||
      ((Instr.writesMem p.instr || Instr.readsMem p.instr) && p.units.any fun u => us.any u.overlaps))).map Op.id

/-! ### Reading and writing by engines -/

/-- How an engine of a group reads and writes memory (R124, R125, R157): a core's engine keeps its own L1's copies right. -/
def Group.engineIn (g : Group) : Via := if g.onStack then .below else .home
def Group.engineOut (g : Group) : Via := if g.onStack then .below else .lane g.agent 3

/-- The code that an arrival gives a failed translation. -/
def engineCode (k : AccKind) (c : Nat) : Nat := if c = trapCode then 0x1200 + k.code else c

/-- What an engine's read or write met: code, virtual address, unit path, device physical address. -/
abbrev Fail := Nat × Nat × Nat × Nat

/-- A failed translation of an engine's access: a poisoned page-table entry is named with its own place (R453, R470, R471). -/
def State.failAt (s : State) (g : Group) (c va : Nat) : Fail :=
  if c = 0x3110 then
    let pa := s.badEntry (dieOf g.agent) (s.ctxOf g) va
    (c, va, cellPath (cellOf 1 pa), pa)
  else (c, va, 0, 0)

/-- One engine read of at most 8 bytes; what fails gives an undefined value (R122). -/
def State.engineRead (s : State) (g : Group) (v : Via) (poison va n : Nat) : State × Nat × Option Fail :=
  if 2 ^ 52 < va + n then (s.renew, s.free 600 0 % 2 ^ (8 * n), some (0x2142, va, 0, 0))
  else
    let r := s.transAcc g va .read
    match r.2 with
    | .error c => (r.1.renew, r.1.free 600 0 % 2 ^ (8 * n), some (s.failAt g (engineCode .read c) va))
    | .ok t =>
      let u : MUnit := ⟨.mem t.a t.pg, n⟩
      let q := r.1.readUnit v u
      if q.2.2 then (q.1.renew, q.1.free 600 0 % 2 ^ (8 * n), some (poison, va, u.trace))
      else (q.1, q.2.1, none)

/-- One engine write of at most 8 bytes (R297, R460, R461); a failing unit stays unwritten. -/
def State.engineWrite (s : State) (g : Group) (v : Via) (va n x : Nat) : State × Option Fail :=
  if 2 ^ 52 < va + n then (s, some (0x2142, va, 0, 0))
  else
    let r := s.transAcc g va .write
    match r.2 with
    | .error c => (r.1, some (s.failAt g (engineCode .write c) va))
    | .ok t => (((r.1.copyAll g.take [.mem t.a t.pg]).writeUnit v ⟨.mem t.a t.pg, n⟩ x).noteRaces (some g.gid) [(t.a, n)], none)

/-- Splits a range of bytes into pieces of at most `k` bytes that do not cross a multiple of `k`. -/
def pieces (k : Nat) : Nat → Nat → Nat → List (Nat × Nat)
  | 0, _, _ => []
  | fuel + 1, va, n =>
    if n = 0 then []
    else
      let m := min n (k - va % k)
      (va, m) :: pieces k fuel (va + m) (n - m)

/-- Reads a range in 8-byte units: its bytes as one number, and the first failure. A poisoned sector of a poison-tolerant page counts once
(R132), at its last unit. -/
def State.engineReads (s : State) (g : Group) (v : Via) (poison : Nat) : List (Nat × Nat) → State × Nat × Option Fail
  | [] => (s, 0, none)
  | (va, n) :: ps =>
    let r := s.engineRead g v poison va n
    let again := ps.head?.any fun p => p.1 / 32 == va / 32
    let q := (if again then { r.1 with regs := s.regs } else r.1).engineReads g v poison ps
    (q.1, r.2.1 + 2 ^ (8 * n) * q.2.1, r.2.2 <|> q.2.2)

def State.engineReadSpan (s : State) (g : Group) (v : Via) (poison va n : Nat) : State × Nat × Option Fail :=
  s.engineReads g v poison (pieces 8 n va n)

/-- Pieces with the bytes of a number that fall to each. -/
def withValues : List (Nat × Nat) → Nat → List (Nat × Nat × Nat)
  | [], _ => []
  | (va, n) :: ps, x => (va, n, x % 2 ^ (8 * n)) :: withValues ps (x / 2 ^ (8 * n))

/-- Writes a range in 8-byte units: the first failure. -/
def State.engineWrites (s : State) (g : Group) (v : Via) : List (Nat × Nat) → Nat → State × Option Fail
  | [], _ => (s, none)
  | (va, n) :: ps, x =>
    let r := s.engineWrite g v va n (x % 2 ^ (8 * n))
    let q := r.1.engineWrites g v ps (x / 2 ^ (8 * n))
    (q.1, r.2 <|> q.2)

/-- A command that has written all 32 bytes of a sector clears its poison (R131). -/
def State.coverSectors (s : State) (g : Group) (v : Via) (va n : Nat) : State :=
  (List.range ((va + n) / 32 - (va + 31) / 32)).foldl (fun (s : State) i =>
    let r := s.transAcc g (((va + 31) / 32 + i) * 32) .write
    match r.2 with
    | .error _ => r.1
    | .ok t => if r.1.poisonFor v.beneath t.a then r.1.setPoisonFor v.beneath t.a false else r.1) s

/-- What a command has written in several ranges together clears the poison of the sectors that it covers (R131). -/
def State.coverSpans (s : State) (g : Group) (v : Via) (rs : List (Nat × Nat)) : State :=
  let r := ((rs.flatMap fun t => pieces 8 t.2 t.1 t.2).filter fun p => p.1 + p.2 ≤ 2 ^ 52).foldl (fun (r : State × List (Nat × Nat)) p =>
    let q := r.1.transAcc g p.1 .write
    match q.2 with
    | .error _ => (q.1, r.2)
    | .ok t => (q.1, (t.a, p.2) :: r.2)) (s, [])
  r.1.clearCovered v.beneath r.2

def State.engineWriteSpan (s : State) (g : Group) (v : Via) (va n x : Nat) : State × Option Fail :=
  let r := s.engineWrites g v (pieces 8 n va n) x
  (r.1.coverSectors g v va n, r.2)

/-- Notes a failure in an operation; `write` says whether of a write. -/
def Op.noting (o : Op) (f : Option Fail) (write : Bool := false) : Op := match f with
  | none => o
  | some f => o.fails f.1 f.2.1 f.2.2.1 f.2.2.2 write

/-! ### Scratchpad lines of engines -/

/-- The number by which a landing names a scratchpad line: group, bank and line. -/
def lineKey : Loc → Nat
  | .mem a _ => lineOf a
  | .bank g b off => (g * 16 + b) * 256 + off / 128

/-- The distinct scratchpad lines of units. -/
def lineKeys (us : List MUnit) : List Nat := (us.map fun u => lineKey u.loc).eraseDups

/-- The pending count of a line (R121). -/
def State.pendingOf (s : State) (key : Nat) : Nat :=
  ((s.findGroup (key / 4096)).bind fun g => g.banks[key / 256 % 16]?).elim 0 fun b => b.pending (key % 256)

/-- Raises or lowers the pending count of lines. -/
def State.addPendings (s : State) (keys : List Nat) : State :=
  keys.foldl (fun (s : State) k => s.modBank (k / 4096) (k / 256 % 16) fun b => b.addPending (k % 256)) s

def State.subPendings (s : State) (keys : List Nat) : State :=
  keys.foldl (fun (s : State) k => s.modBank (k / 4096) (k / 256 % 16) fun b => b.subPending (k % 256)) s

/-- Whether a scratchpad write is one that R158 does not allow while a convergence register stands as it does: by a declared warp after
its own signature, or by anyone after the MMA has issued. An engine (`seq`) that started before the MMA issued is allowed, since
the MMA waits on presence (R330). -/
def State.spoils (s : State) (g : Group) (c : Conv) (gid : Nat) (owners : List Nat) (seq : Option Nat) : Bool :=
  match c.st with
  | .idle => false
  | .open => g.gid == gid && owners.any c.signed.contains
  | .issued => match seq with
    | none => true
    | some k => ((c.staged.bind s.findOp).elim 0 Op.seq) < k

/-- Notes a scratchpad write by operation `id` into the argument words of a block call that has not been delivered (R353): one that the
call's own warp had not issued before it. The call keeps the words' numbers under 0 and those that raced under 1. -/
def Op.noteArgs (id : Nat) (keys : List Nat) (o : Op) : Op :=
  match o.instr, o.at_, o.lvals with
  | .ncallB _ _, .issued, [(_, words), (_, raced)] =>
    if o.after.contains id then o
    else { o with lvals := [(0, words), (1, raced ++ (List.range words.length).filter fun i => keys.contains (words.getD i 0))] }
  | _, _, _ => o

/-- Notes a scratchpad write of an operation, of lanes or of an engine, for the matrix engine (R158) and for block calls (R353). -/
def State.noteOperands (s : State) (o : Op) (lanes : Bool) (us : List MUnit) : State :=
  let seq := if lanes then none else some o.seq
  let note (g : Group) (c : Conv) : Conv :=
    { (if s.spoils g c o.gid (if lanes then o.owners else []) seq then { c with affected := markWords c.affected us } else c) with
      past := c.past.map fun (p : Past) => if seq.all (fun k => p.seq < k) then { p with late := markWords p.late us } else p }
  if (wordKeys us).isEmpty then s
  else { s with
    groups := s.groups.map fun g => { g with convs := g.convs.map (note g) }
    ops := s.ops.map (Op.noteArgs o.id (wordKeys us)) }

/-- Writes a scratchpad unit of an engine; a bank that has left scratchpad mode takes nothing (R120). -/
def State.landUnit (s : State) (u : MUnit) (x : Nat) : State :=
  match u.loc with
  | .mem _ _ => s
  | .bank g b off => s.modBank g b fun k => if k.mode == .sp then k.writeNat off u.n x else k

end Sys2Proof.Machine
end

