-- ==== Sys2Proof/Machine/Tensor.lean ====
section
/-!
DEFINITION. Tensor-bounded accesses: descriptors and elements (R128, R129), LDT and STT (R290, R291).
-/

namespace Sys2Proof.Machine

/-! ### Descriptors as 512-bit numbers (R128) -/

def descBase (w : Nat) : Nat := slice w 0 52
def descTag (w : Nat) : Nat := slice w 64 4
def descRank (w : Nat) : Nat := slice w 68 3
def descSize (w : Nat) : Nat := 2 ^ slice w 71 2
def descFill (w : Nat) : Nat := slice w 96 32 % 2 ^ (8 * descSize w)
def descExt (w i : Nat) : Nat := slice w (128 + 32 * i) 32
def descStride (w i : Nat) : Int := if i = 0 then descSize w else signed 40 (slice w (288 + 40 * (i - 1)) 40)

/-- The fault of a descriptor (R128). -/
def descFault (w : Nat) : Option Nat :=
  if slice w 52 12 != 0 || slice w 73 23 != 0 || slice w 448 64 != 0 || descRank w == 0 || 5 < descRank w then some 0x2146
  else if descBase w % descSize w != 0 || (List.range (descRank w)).any fun i => descStride w i % (descSize w : Int) != 0
  then some 0x2144
  else none

/-- Whether a coordinate is in bounds (R129, R291): each part a signed 32-bit number within its extent. -/
def inBounds (w : Nat) (xs : List Int) : Bool :=
  (List.range (descRank w)).all fun i =>
    let x := xs.getD i 0
    0 ≤ x && x < (descExt w i : Int) && x < 2 ^ 31

/-- An element's address (R129); none where it leaves the address space. -/
def elemAddr (w : Nat) (xs : List Int) : Option Nat :=
  let a := (descBase w : Int) + ((List.range (descRank w)).map fun i => xs.getD i 0 * descStride w i).sum
  if a < 0 ∨ 2 ^ 52 < a + (descSize w : Int) then none else some a.toNat

/-- The coordinate of element `e` of a run along dimension 0. -/
def runCoord (xs : List Int) (e : Nat) : List Int :=
  match xs with
  | [] => []
  | x :: xs => (x + e) :: xs

/-! ### LDT and STT -/

/-- Reads a descriptor as a plain load of the issuing warp (R290): its bits, or the failure with its address and unit path. -/
def State.readDesc (s : State) (e : Env) (va : Nat) : State × Except Fail Nat :=
  let r := s.transAcc e.g va .read
  match r.2 with
  | .error c => (r.1, .error (c, va, 0, 0))
  | .ok t =>
    let q := r.1.readUnits (e.g.via 0) ((List.range 8).map fun i => ⟨.mem (t.a + 8 * i) t.pg, 8⟩)
    match q.2.2 with
    | some c => (q.1, .error (0x3111, va, c))
    | none => (q.1, .ok q.2.1)

/-- The elements of one lane that lie in bounds, by their place in the run, with their addresses; a failing address is `none`. -/
def laneElems (w : Nat) (xs : List Int) (n : Nat) : List (Nat × Option Nat) :=
  (List.range n).filterMap fun e =>
    if inBounds w (runCoord xs e) then some (e, elemAddr w (runCoord xs e)) else none

/-- A lane's coordinate (R290). -/
def rowCoord (r : Row) (n : Nat) : List Int := (r.2.take n).map fun o => signed 32 o.val

/-- The elements of a string whose places are listed, packed in their order. -/
def packElems (size x : Nat) : List Nat → Nat
  | [] => 0
  | e :: es => slice x (8 * size * e) (8 * size) + 2 ^ (8 * size) * packElems size x es

/-- The string of `n` elements whose listed places come from packed elements and whose others hold the fill (R291). -/
def spreadElems (size fill n x : Nat) (es : List Nat) : Nat :=
  ((List.range n).map fun e =>
    (match es.findIdx? fun k => k == e with
      | some j => slice x (8 * size * j) (8 * size)
      | none => fill) * 2 ^ (8 * size * e)).sum

/-- The checks of one lane past the encoding (R283, R291): the tags of its coordinates and data, the addresses of its elements, the
alignment of the descriptor's base and strides. Of a coordinate that was read too early no fault arises (R31). -/
def tensorFault (w va : Nat) (args : List Arg) (r : Row) (els : List (Nat × Option Nat)) : Option (Nat × Nat) :=
  if !tagsOk args r.2 || ((r.2.drop (descRank w)).any fun o => !o.haz && o.tag != 0 && o.tag != descTag w) then some (0x2130, 0)
  else if !r.haz && els.any fun y => y.2.isNone then some (0x2147, 0)
  else if descFault w == some 0x2144 then some (0x2144, va)
  else none

/-- What LDT or STT keeps for a lane: its mark (State.access), its places in bounds, as a mask, and its data. -/
def tensorKeep (w : Nat) (early : Bool) (r : Row) (els : List (Nat × Option Nat)) : Nat × List Nat :=
  (r.1, [bit (early || r.haz) + 2 * bit (early || (r.2.take (descRank w)).any Opnd.haz), ofBits (fun b => els.any fun y => y.1 == b) 16,
    packElems (descSize w) (((r.2.drop (descRank w)).mapIdx fun j (o : Opnd) => o.val * 2 ^ (32 * j)).sum) (els.map Prod.fst)])

/-- LDT and STT once their descriptor has been read (R283, R290, R291): `w` holds its bits, and `early` says that its address was read
too early, so that no fault arises of it (R31): `lost` is then what happens. -/
def State.tensorAt (s : State) (e : Env) (o : Op) (va w c vc : Nat) (vs dst : List Nat) (early : Bool)
    (lost : State) : State :=
  let n := 4 * c / descSize w
  let refuse := fun (code addr : Nat) => if early then lost else s.fail e code e.act addr
  if descFault w == some 0x2146 then refuse 0x2146 va
  else if n = 0 then refuse 0x2103 0
  else if e.g.allot.v < vc + descRank w then refuse 0x2110 0
  else
    let args := (List.range (descRank w)).map (fun j => Arg.v .i32 (vc + j)) ++ vs.map fun r => Arg.any .b32 (.reg (.v r))
    let p := s.readRows e args
    let els := p.2.map fun r => (r, laneElems w (rowCoord r (descRank w)) n)
    let k : AccKind := if vs.isEmpty then .read else .write
    match (els.filter fun x => !e.lost.contains x.1.1).filterMap fun x => (tensorFault w va args x.1 x.2).map fun f => (x.1.1, f) with
    | f :: fs => if early then lost else s.fail e f.2.1 (f.1 :: fs.map Prod.fst) f.2.2 (k == .write)
    | [] =>
      let hazy := (p.2.filter fun r => early || (r.2.take (descRank w)).any Opnd.haz).map Prod.fst
      let loc := els.foldl (fun (a : State × List Acc × List (Nat × Nat × Nat)) x =>
          let here := x.2.filterMap fun y => y.2
          let q := a.1.locLane e.g .global k x.1.1 0 (here.map fun y => (y, descSize w))
          match q.2.2.1 with
          | some f => (q.1, a.2.1, a.2.2 ++ [(x.1.1, f.1, f.2)])
          | none => (q.1, a.2.1 ++ [⟨x.1.1, q.2.1, here.headD 0⟩], a.2.2)) (p.1, [], [])
      (loc.1.settleLanes e (loc.2.2.filter fun f => !hazy.contains f.1) (k == .write) 0 fun s act =>
        if act.isEmpty then s
        else
          let o := { o with
            lanes := act
            vals := [w]
            lvals := (els.filter fun x => act.contains x.1.1).map fun x => tensorKeep w early x.1 (x.2.filter fun y => y.2.isSome)
            accs := loc.2.1.filter fun a => act.contains a.lane }
          (s.launch e o).unsettle o dst).undefineLost e o dst 0

/-- The rank that the descriptor at a uniform pair gives, as the rule on pairs counts it (R203, R290). -/
def State.rankAt (s : State) (e : Env) (desc : Nat) : Nat :=
  match (s.readDesc e (s.uniS e true desc)).2 with
  | .error _ => 1
  | .ok w => descRank w

/-- LDT and STT as they issue (R283, R290, R291). `data` is the first data register of STT. What fails of the descriptor's address fails in
every lane; the tag of the lane's first coordinate, which every rank has, comes before it, and before what fails of the descriptor's
translation. -/
def State.tensor (s : State) (h : Hdr) (i : Instr) (c desc vc : Nat) (dst : List Nat) (data : Option Nat) : State :=
  let vs := (List.range (if data.isSome then c else 0)).map fun j => data.getD 0 + j
  s.checked h (fun _ => dst ++ [640 + desc, 641 + desc, vc] ++ vs) fun e =>
    let va := s.uniS e true desc
    let early := s.early e [640 + desc, 641 + desc]
    let o := e.op s h i
    let lost := s.undefine e o dst 0
    let bad := badTags [.v .i32 vc] (s.readRows e [.v .i32 vc]).2
    let far := if 2 ^ 52 ≤ va then some 0x2142 else if va % 64 ≠ 0 then some 0x2144 else none
    match far with
      | some f =>
        if bad.contains e.low then s.fail e 0x2130 e.act 0
        else if early then lost else s.fail e f e.act va
      | none =>
          let d := s.readDesc e va
          match d.2 with
          | .error f =>
            if !bad.isEmpty then s.fail e 0x2130 bad 0
            else if early then lost
            else d.1.settleLanes e (e.act.map fun l => (l, f.1, if f.1 = 0x3111 then f.2.2.2 else va)) false f.2.2.1 fun s _ => s
          | .ok w => d.1.tensorAt e o va w c vc vs dst early lost

/-- Data registers of a run (R291). -/
def execLdt (h : Hdr) (o : LdtOps) (s : State) : Outcome :=
  .next (s.tensor h (.ldt h o) (vecCount o.vec) o.desc o.vc ((List.range (vecCount o.vec)).map fun j => o.vd + j) none)

def execStt (h : Hdr) (o : SttOps) (s : State) : Outcome :=
  .next (s.tensor h (.stt h o) (vecCount o.vec) o.desc o.vc [] (some o.vs))

/-- Completion of LDT: the elements in bounds with the fill between them, tagged as the descriptor says (R291). -/
def State.doLdt (s : State) (o : Op) (g : Group) (x : LdtOps) : State :=
  let w := o.vals.headD 0
  let c := vecCount x.vec
  let n := 4 * c / descSize w
  let r := s.readAccs (g.via x.hint.toNat) o.blind o.accs
  let str := fun (lane : Nat) =>
    let got := ((r.2.1.map (o.pieced 1)).find? fun y => y.1 == lane).elim 0 Prod.snd
    spreadElems (descSize w) (descFill w) n got ((List.range n).filter fun e => bitAt (o.lv lane 0) e)
  let o := { o with writes := r.1.loadOut (.v x.vd) (o.lanes.map fun l =>
    (l, (List.range c).map (fun j => (slice (str l) (32 * j) 32, descTag w)), r.2.2.isSome || o.lhaz l)) }
  let s := match r.2.2 with
    | some c => r.1.renew.hwError g.take 0x3111 c.1 c.2
    | none => r.1.renew
  s.finishOp o

/-- Completion of STT (R291). -/
def State.doStt (s : State) (o : Op) (g : Group) : State :=
  (s.storeAccs o g (fun l => o.lv l 1) o.accs).endStore o g

end Sys2Proof.Machine
end

