-- ==== Sys2Proof/Machine/Copy.lean ====
section
/-!
DEFINITION. Asynchronous copies (R295 to R297, R121, R122), prefetch (R298), range maintenance (R299, R300), bank modes (R120,
R301, R507) and PRES (R302).
-/

namespace Sys2Proof.Machine

/-! ### Copies -/

/-- The code of a poisoned read by an engine of a group (R130, R468). -/
def Group.poisonCode (g : Group) : Nat := if g.onStack then 0x3301 else 0x3112

/-- The scratchpad units of a transfer of `n` bytes with the global address of each (R137); `none` where the member has not started. -/
def State.copyUnits (s : State) (g : Group) (lane ga sp n : Nat) : Except Nat (Option (List Acc)) :=
  match s.scratchLoc g sp with
  | .error c => .error c
  | .ok none => .ok none
  | .ok (some x) => .ok (some ((pieces 8 n 0 n).map fun p => ⟨lane, [⟨.bank x.1 x.2.1 (x.2.2 + p.1), p.2⟩], ga + p.1⟩))

/-- The units of all transfers of a copy: the failures, whether a member has not started, and the units. -/
def State.copyAccs (s : State) (g : Group) : List (Nat × List Nat) → List (Nat × Nat) × Bool × List Acc
  | [] => ([], false, [])
  | (lane, xs) :: ts =>
    let q := s.copyAccs g ts
    match s.copyUnits g lane (xs.getD 1 0) (xs.getD 2 0) (xs.getD 3 0) with
    | .error c => ((lane, c) :: q.1, q.2)
    | .ok none => (q.1, true, q.2.2)
    | .ok (some as) => (q.1, q.2.1, as ++ q.2.2)

def Instr.isCpa : Instr → Bool
  | .cpa _ _ | .cpaLn _ _ => true
  | _ => false

def Instr.isCpout : Instr → Bool
  | .cpout _ _ | .cpoutLn _ _ => true
  | _ => false

/-- The global ranges of a copy's transfers. -/
def Op.globals (o : Op) : List (Nat × Nat) := o.lvals.map fun t => (t.2.getD 1 0, t.2.getD 3 0)

/-- Starts a copy with its units: a CPA raises the pending count of each destination line (R296). -/
def State.startCopy (s : State) (o : Op) (us : List Acc) : State :=
  let ks := lineKeys (us.flatMap Acc.units)
  let s := if Instr.isCpa o.instr then s.addPendings ks else s
  s.modOp o.id fun p => { p with
    at_ := .issued
    dsts := us
    after := s.engineAfter o.wid o.gid o.seq (us.flatMap Acc.units) (if Instr.isCpout o.instr then o.globals else []) }

/-- A copy as it issues, with its transfers checked as far as R296 and R113 do. `codes` are the registers of a block form's operands. Its
`lvals` hold, for each transfer, whether the lane read an operand too early, the global and the scratchpad address, and the bytes. -/
def State.issueCopy (s : State) (e : Env) (o : Op) (codes : List Nat) : State :=
  let k : AccKind := if Instr.isCpa o.instr then .read else .write
  let c := s.copyAccs e.g o.lvals
  match c.1 with
  | f :: _ => s.failRead e codes f.2 0
  | [] =>
    s.reaching e (o.globals.map (fun t => (t.1, t.2, k)) ++ o.bw.toList.map fun b => (b.1, 8, .write)) fun s =>
      if c.2.1 then
        (s.addOp { o with at_ := .held, status := 1 }).modLanes e.g.gid o.lanes fun _ l => l.blockAt (.held o.id)
      else (s.addOp o).startCopy o c.2.2

/-- Block form (R296): one transfer of n bytes. A unit past the end of the address space fails on its own (R122, R297). -/
def State.copyBlock (s : State) (h : Hdr) (i : Instr) (o : CpaOps) : State :=
  let codes := [640 + o.sp, 640 + o.ga, 641 + o.ga] ++ (Arg.of .z32 o.n).codes
  s.command h codes o.bw fun e bw =>
    let ga := s.uniS e true o.ga
    let sp := s.uniS e false o.sp
    let n := (s.uni e .z32 o.n).val
    if 2 ^ 52 ≤ ga then s.failRead e codes 0x2142 ga (Instr.isCpout i)
    else if n % 16 ≠ 0 ∨ n = 0 ∨ 32768 < n ∨ ga % 16 ≠ 0 ∨ sp % 16 ≠ 0 ∨ 32768 < slice sp 0 15 + n then s.failRead e codes 0x2148 0
    else s.issueCopy e { e.op s h i with bw := bw, lvals := [(e.low, [0, ga, sp, n])] } codes

/-- Lane form (R295): one transfer of 4, 8 or 16 bytes for each lane of `active`, its checks in the order of R283: what fails of the barrier
word fails in every lane, and the lowest lane's tags come before it. A lane that read an operand too early raises no fault (R31): where a
check of its addresses fails, it has no transfer. -/
def State.copyLanes (s : State) (h : Hdr) (i : Instr) (o : CpaLnOps) : State :=
  let args := [Arg.reg .z32 o.sp, Arg.reg .i64 o.ga]
  s.dispatch h (args.flatMap Arg.codes ++ bwCodes o.bw) fun e =>
    let rows := s.rows e args []
    let bad := (badTags args rows).filter fun l => !e.lost.contains l
    let n := 4 * 2 ^ o.vec.toNat
    let ga := fun (r : Row) => (r.2.getD 1 default).val
    let sp := fun (r : Row) => (r.2.getD 0 default).val
    let fault := fun (r : Row) =>
      if !tagsOk args r.2 then some (0x2130, 0)
      else if 2 ^ 52 ≤ ga r then some (0x2142, ga r)
      else if ga r % n ≠ 0 ∨ sp r % n ≠ 0 then some (0x2144, ga r)
      else match s.scratchLoc e.g (sp r) with
        | .error c => some (c, sp r)
        | .ok _ => none
    if bad.contains e.low then s.fail e 0x2130 bad 0
    else s.barrierWord e o.bw fun bw =>
      match rows.filterMap fun r => if (r.haz && tagsOk args r.2) || e.lost.contains r.1 then none else (fault r).map fun f => (r.1, f) with
      | f :: fs => s.fail e f.2.1 (f.1 :: fs.map Prod.fst) f.2.2 (Instr.isCpout i)
      | [] => s.issueCopy e { e.op s h i with
          bw := bw
          lvals := (rows.filter fun r => (fault r).isNone).map fun r => (r.1, [bit r.haz, ga r, sp r, n]) } []

def execCpa (h : Hdr) (o : CpaOps) (s : State) : Outcome := .next (s.copyBlock h (.cpa h o) o)
def execCpaLn (h : Hdr) (o : CpaLnOps) (s : State) : Outcome := .next (s.copyLanes h (.cpaLn h o) o)
def execCpout (h : Hdr) (o : CpaOps) (s : State) : Outcome := .next (s.copyBlock h (.cpout h o) o)
def execCpoutLn (h : Hdr) (o : CpaLnOps) (s : State) : Outcome := .next (s.copyLanes h (.cpoutLn h o) o)

/-- The destination lines that a CPA about to issue would touch (R121). -/
def State.cpaLines (s : State) (e : Env) (i : Instr) : List Nat :=
  let us := match i with
    | .cpa _ o => (s.copyAccs e.g [(e.low, [0, 0, s.uniS e false o.sp, (s.uni e .z32 o.n).val])]).2.2
    | .cpaLn _ o =>
      (s.copyAccs e.g ((s.rows e [Arg.reg .z32 o.sp] []).map fun (r : Row) => (r.1, [0, 0, r.fst, 4 * 2 ^ o.vec.toNat]))).2.2
    | _ => []
  lineKeys (us.flatMap Acc.units)

/-- Notes a failure of a unit of a copy; a lane that read its addresses too early has none to report (R31). -/
def Op.notingUnit (o : Op) (lane : Nat) (f : Option Fail) (write : Bool) : Op := if o.lhaz lane then o else o.noting f write

/-- Units of a CPA are read from their sources and written (R122, R130); `rest` are the units that remain. A poisoned sector of a
poison-tolerant page counts once for a transfer (R132), at its last unit. -/
def State.landEach (s : State) (o : Op) (g : Group) (rest : List Acc) : List Acc → State × Op
  | [] => (s, o)
  | a :: as => match a.units with
    | [u] =>
      let q := s.engineRead g g.engineIn g.poisonCode a.va u.n
      let again := (as ++ rest).any fun b => b.lane == a.lane && b.va / 32 == a.va / 32
      ((if again then { q.1 with regs := s.regs } else q.1).landUnit u q.2.1).landEach (o.notingUnit a.lane q.2.2 false) g rest as
    | _ => s.landEach o g rest as

/-- Units of a CPA land. -/
def State.landUnits (s : State) (o : Op) (g : Group) (us : List Acc) : State :=
  let r := s.landEach o g (o.dsts.filter fun a => !us.contains a) us
  (r.1.noteOperands o false (us.flatMap Acc.units)).modOp o.id fun p => { p with
    dsts := p.dsts.filter fun a => !us.contains a
    status := r.2.status
    cause := r.2.cause
    badWrite := r.2.badWrite }

/-- Whether a unit of a copy lies in a scratchpad line. -/
def Acc.inLine (line : Nat) (a : Acc) : Bool := a.units.any fun u => lineKey u.loc == line

/-- What remains of one destination line of a CPA lands, and the line's count falls (R121). -/
def State.landLine (s : State) (o : Op) (g : Group) (line : Nat) : State :=
  ((s.landUnits o g (o.dsts.filter (Acc.inLine line))).subPendings [line]).modOp o.id fun p =>
    { p with at_ := if p.dsts.isEmpty then .ready else .issued }

/-- One unit of a CPA lands ahead of the other units of its line (R137). -/
def State.landPart (s : State) (o : Op) (g : Group) : State :=
  match o.dsts.find? fun a => a.units.any fun u => 2 ≤ (o.dsts.filter (Acc.inLine (lineKey u.loc))).length with
  | none => s
  | some a => s.landUnits o g [a]

def Op.canLand (o : Op) (line : Nat) : Bool :=
  Instr.isCpa o.instr && o.at_ == .issued && o.after.isEmpty && o.dsts.any (Acc.inLine line)

/-- CPA_LINE_LAND (R121, R122, R296). -/
def execCpaLineLand (op line : Nat) (s : State) : Outcome :=
  .next (match s.findOp op with
    | none => s
    | some o => match s.findGroup o.gid with
      | none => s
      | some g => if o.canLand line then s.landLine o g line else s)

/-- Whether a CPOUT may move its data: its sources are present and what it follows is performed (R297). -/
def State.canMoveOut (s : State) (o : Op) : Bool :=
  Instr.isCpout o.instr && o.at_ == .issued && o.after.isEmpty && (o.dsts.flatMap Acc.units).all s.presentUnit

/-- Units of a CPOUT are written to memory (R297): of a bank that has left scratchpad mode the bytes are undefined, and the access faults
(R120). -/
def State.outUnits (s : State) (o : Op) (g : Group) (us : List Acc) : State × Op :=
  us.foldl (fun (r : State × Op) a =>
    match a.units with
    | [u] =>
      let there := match u.loc with
        | .bank k b _ => ((r.1.findGroup k).bind fun y => y.banks[b]?).any fun y => y.mode == .sp
        | .mem _ _ => false
      let x := match there, u.loc with
        | true, .bank k b off => r.1.readBank k b off u.n
        | _, _ => r.1.free 600 0 % 2 ^ (8 * u.n)
      let q := r.1.engineWrite g g.engineOut a.va u.n x
      (q.1, (r.2.notingUnit a.lane (if there then none else some (0x2114, 0, 0, 0)) false).notingUnit a.lane q.2 true)
    | _ => r) (s, o)

/-- The first unit of a CPOUT, written ahead of the others (R137). -/
def State.outPart (s : State) (o : Op) (g : Group) : State :=
  let r := s.outUnits o g (o.dsts.take 1)
  r.1.renew.modOp o.id fun _ => { r.2 with dsts := o.dsts.drop 1 }

/-- CPOUT moves the rest of its data (R297). -/
def State.moveOut (s : State) (o : Op) (g : Group) : State × Op :=
  let r := s.outUnits o g o.dsts
  let s := r.1.coverSpans g g.engineOut o.globals
  let o := { r.2 with dsts := [], at_ := .ready }
  (s.renew.modOp o.id fun _ => o, o)

/-! ### Prefetch (R298) -/

/-- The line of an address comes into L1 or L2 if every check passes; otherwise nothing happens. -/
def State.prefetch (s : State) (g : Group) (o : PrefOps) (lane va : Nat) : State :=
  let n := accessBytes o.ty 0 o.one
  let sp := MemMode.space o.mode
  match s.addrFault g sp (isSix o.ty) n va with
  | some _ => s
  | none =>
    let r := s.transAcc g (if sp = .priv then s.privVa g lane va else va) .read
    match r.2 with
    | .error _ => s
    | .ok t =>
      if r.1.poisonAt t.a then r.1
      else if o.l1 then (if g.onStack || !r.1.hasL1 g.agent then r.1 else (r.1.readCore g.agent t.a 1 0 t.pg.ptro).1)
      else r.1.fillLine (lineOf t.a)

def execPref (h : Hdr) (o : PrefOps) (s : State) : Outcome :=
  let sp := MemMode.space o.mode
  let args := [Arg.reg (if sp = .global then .i64 else .z32) o.base, Arg.of .i32 o.off]
  .next (s.withEnv h fun e =>
    if (e.g.codesFault (args.flatMap Arg.codes)).isSome then s
    else
      let p := s.readRows e args
      p.2.foldl (fun (s : State) r =>
        if tagsOk args r.2 then s.prefetch e.g o r.1 (rowAddr (sp == .global) r) else s) p.1)

/-! ### Range maintenance (R299, R300) -/

/-- What maintenance does to a line. -/
inductive Maint
  | clean | inv | flush
  deriving DecidableEq, Repr

/-- The cells of the lines of mapped pages that a virtual range meets (R299, R172). -/
def State.rangeLines (s : State) (g : Group) (va n : Nat) : State × List Nat :=
  (granuleStarts va n).foldl (fun (r : State × List Nat) a =>
    let q := r.1.translateFor g a .read
    match q.2 with
    | .error _ => (q.1, r.2)
    | .ok t =>
      let stop := min (va + n) ((a / 2 ^ 15 + 1) * 2 ^ 15)
      let cells := (List.range ((stop + 127) / 128 - a / 128)).map fun i =>
        lineOf (granuleCell t.pg.granule ((a / 128 + i) * 128 % 2 ^ 15))
      (q.1, r.2 ++ cells)) (s, [])

/-- Treats one line (R299), one of host memory at its home slice only. A dirty line may have left the cache before it is dropped. -/
def State.maintain (s : State) (m : Maint) (core line : Nat) : State :=
  let s := if m = .clean ∨ isHost (128 * line) then s else s.dropL1 core line
  match m with
  | .clean => s.cleanLine line
  | .inv => (s.touchLine line).dropLine line
  | .flush => s.evictLine line

/-- Range maintenance as it issues (R299, R305). A count of 0 has no effect. -/
def State.issueMaint (s : State) (h : Hdr) (i : Instr) (o : MaintOps) : State :=
  let codes := [640 + o.sa, 641 + o.sa] ++ (Arg.of .z32 o.n).codes
  s.coreOnly h (s.checked h (fun _ => codes) fun e =>
    let va := s.uniS e true o.sa
    let n := (s.uni e .z32 o.n).val
    if n = 0 then s
    else if 2 ^ 52 ≤ va then s.failRead e codes 0x2142 va
    else s.launch e { e.op s h i with vals := [va, n] })

/-- Completion of range maintenance. -/
def State.doMaint (s : State) (o : Op) (g : Group) (m : Maint) : State :=
  let r := s.rangeLines g (o.vals.getD 0 0) (min (o.vals.getD 1 0) (2 ^ 52 - o.vals.getD 0 0))
  (r.2.foldl (fun (s : State) k => s.maintain m g.agent k) r.1).finishOp o

def execL2clean (h : Hdr) (o : MaintOps) (s : State) : Outcome := .next (s.issueMaint h (.l2clean h o) o)
def execL2inv (h : Hdr) (o : MaintOps) (s : State) : Outcome := .next (s.issueMaint h (.l2inv h o) o)
def execL2flush (h : Hdr) (o : MaintOps) (s : State) : Outcome := .next (s.issueMaint h (.l2flush h o) o)

/-! ### Bank modes (R120, R301) -/

/-- BMODE as it issues. -/
def execBmode (h : Hdr) (o : BmodeOps) (s : State) : Outcome :=
  .next (s.coreOnly h (s.withEnv h fun e =>
    if e.g.banks.length ≤ o.b.toNat then s.fail e 0x2114 e.act 0
    else s.launch e (e.op s h (.bmode h o))))

/-- FIFO-mode banks below bank `b` (R301). -/
def Group.fifoRank (g : Group) (b : Nat) : Nat := ((g.banks.take b).filter fun k => k.mode == .fifo).length

def Instr.isWalk : Instr → Bool
  | .awalk _ _ => true
  | _ => false

/-- Whether an access reaches a bank. -/
def Acc.inBank (g b : Nat) (a : Acc) : Bool := a.units.any fun u => match u.loc with
  | .bank k c _ => k == g && c == b
  | .mem _ _ => false

/-- The operations that still bring data into a bank that leaves scratchpad mode land it nowhere (R120): their units move to a bank that
no group has. A lane whose address is undefined makes no access there, and raises no fault (R31). -/
def Op.discardBank (g b : Nat) (o : Op) : Op :=
  let o := if Instr.touches o.instr then { o with accs := o.accs.filter fun a => !(o.blind a.lane && a.inBank g b) } else o
  if Instr.isCpa o.instr then
    { o with dsts := o.dsts.map fun a => { a with units := a.units.map fun u => match u.loc with
        | .bank k c off => if k = g ∧ c = b then { u with loc := .bank k 15 off } else u
        | .mem _ _ => u } }
  else if Instr.isWalk o.instr then
    { o with lvals := o.lvals.map fun x => if x.1 = 1 ∧ x.2.take 2 = [g, b] then (1, [g, 15, x.2.getD 2 0]) else x }
  else o

/-- Walks into a queue follow its number when banks change mode: `k` is the first of the two queues, which come (`add`) or go. A walk
into a queue that goes discards its words (R301). -/
def Op.renumber (g k : Nat) (add : Bool) (o : Op) : Op :=
  match o.instr with
  | .awalk _ _ =>
    if o.gid = g then
      { o with vals := match o.vals with
        | q :: qs =>
          (if q < k ∨ 4096 ≤ q then q else if add then q + 2 else if q < k + 2 then 4096 else q - 2) :: qs
        | [] => [] }
    else o
  | _ => o

/-- The switch of a bank (R120, R301). Any line of the L1 may leave at any time (assumption 7); with the last cache-way bank all go. -/
def State.switchBank (s : State) (g : Group) (b : Nat) (m : BankMode) : State :=
  match g.banks[b]? with
  | none => s
  | some k =>
    if k.mode = m then s
    else
      let j := 2 * g.fifoRank b
      let s := if k.mode = .sp then { s with ops := s.ops.map (Op.discardBank g.gid b) } else s
      let s := if k.mode = .fifo then { s with ops := s.ops.map (Op.renumber g.gid j false) } else s
      let s := if m = .fifo then { s with ops := s.ops.map (Op.renumber g.gid j true) } else s
      let new : Bank := match m with
        | .sp => ⟨.sp, [], some s.fresh, []⟩
        | m => ⟨m, [], none, []⟩
      let s := s.modGroup g.gid fun y =>
        let qs := if k.mode = .fifo then y.queues.take j ++ y.queues.drop (j + 2) else y.queues
        let qs := if m = .fifo then qs.take j ++ [[], []] ++ qs.drop j else qs
        { y with banks := y.banks.set b new, queues := qs, allot := { y.allot with queues := qs.length } }
      (s.trimL1 g.agent).renew

def State.doBmode (s : State) (o : Op) (g : Group) (x : BmodeOps) : State := (s.switchBank g x.b.toNat x.mode).finishOp o

/-! ### PRES (R302) -/

/-- Whether the line that holds an address is present; of a member that has not started the spec does not say, and the value is free. -/
def State.presentAt (s : State) (g : Group) (lane x : Nat) : Bool :=
  match s.scratchLoc g x with
  | .ok (some y) => ((s.findGroup y.1).bind fun k => k.banks[y.2.1]?).all fun k => k.present y.2.2
  | _ => bitAt (s.free 730 lane) 0

def execPres (h : Hdr) (o : PresOps) (s : State) : Outcome :=
  let args := addrArgs false o.base o.off
  .next (s.checked h (fun _ => args.flatMap Arg.codes) fun e =>
    let p := s.popArgs e args
    let rows := s.rows e args p.2
    let faults := (rows.filter fun r => !e.lost.contains r.1).filterMap fun r =>
      if !tagsOk args r.2 then some (r.1, 0x2130, 0)
      else match s.scratchLoc e.g (rowAddr false r) with
        | .error c => if r.haz || e.short args p.2 r.1 then none else some (r.1, c, rowAddr false r)
        | .ok _ => none
    match faults with
      | f :: _ => s.fail e f.2.1 (faults.map Prod.fst) f.2.2
      | [] => (p.1.addOp { e.op s h (.pres h o) with
          writes := s.predOut o.pd.toNat (fun r => s.presentAt e.g r.1 (rowAddr false r)) rows
          due := some (s.now e.g + 4) }).undefineLost { e with lost := e.lost.filter fun l => !e.act.contains l } (e.op s h (.pres h o))
            [predCode o.pd.toNat] 0)

end Sys2Proof.Machine
end

