-- ==== Sys2Proof/Machine/Sync.lean ====
section
/-!
DEFINITION. The synchronisation family (R303 to R316, R510) and TRIGGER (R238): fences, group and team barriers, barrier words,
tile flags and semaphores.
-/

namespace Sys2Proof.Machine

/-! ### Fences and TRIGGER (R238, R306) -/

/-- A fence in its place in the warp's order. -/
def State.issueFence (s : State) (h : Hdr) (i : Instr) : State := s.withEnv h fun e => s.launch e (e.op s h i)

def execRelease (h : Hdr) (o : BitVec 5) (s : State) : Outcome := .next (s.issueFence h (.release h o))
def execAcquire (h : Hdr) (o : BitVec 5) (s : State) : Outcome := .next (s.issueFence h (.acquire h o))
def execFence (h : Hdr) (o : BitVec 5) (s : State) : Outcome := .next (s.issueFence h (.fence h o))
def execTrigger (h : Hdr) (s : State) : Outcome := .next (s.issueFence h (.trigger h))

/-- Completion of ACQUIRE and FENCE (R142). -/
def State.doAcquire (s : State) (o : Op) (g : Group) (scope : Nat) : State := (s.acquireAt g scope).finishOp o

/-- Completion of TRIGGER (R238): the group is marked. -/
def State.doTrigger (s : State) (o : Op) (g : Group) : State :=
  (s.modGroup g.gid fun g => { g with triggered := true }).finishOp o

/-! ### Group and team barriers (R307 to R309) -/

def Bar.start : Bar := ⟨false, []⟩

/-- TEAMSIZE as a group sees it (R164, R309). -/
def State.teamSize (s : State) (g : Group) : Nat :=
  if g.onStack || g.kind != .kernel then 1 else (s.takeOf g).elim 1 fun t => t.slate.team

/-- The number under which a group's team keeps its barriers; a call has its own (R309). -/
def State.teamNo (s : State) (g : Group) : Nat :=
  if g.kind == .kernel then g.groupId / s.teamSize g else 2 ^ 40 + g.gid

/-- The groups whose lanes a team barrier of this group counts, and whether all of them have started. -/
def State.teamGroups (s : State) (g : Group) : List Group × Bool :=
  if g.kind == .kernel then
    let n := s.teamNo g
    (s.groups.filter fun y => y.take == g.take && y.kind == .kernel && !y.place.isLeft && s.teamNo y == n,
      (s.takeOf g).all fun t => (n + 1) * s.teamSize g ≤ t.nextGroup)
  else (s.groups.filter fun y => y.gid == g.gid, true)

/-- A barrier of a group, or of its team. -/
def State.getBar (s : State) (g : Group) (team : Bool) (n : Nat) : Bar :=
  if team then
    ((s.teams.find? fun t => t.take == g.take && t.team == s.teamNo g).bind fun t => t.bars[n]?).getD Bar.start
  else (g.bars[n]?).getD Bar.start

def State.setBar (s : State) (g : Group) (team : Bool) (n : Nat) (b : Bar) : State :=
  if team then
    let k := s.teamNo g
    if s.teams.any fun t => t.take == g.take && t.team == k then
      { s with teams := s.teams.map fun t => if t.take == g.take && t.team == k then { t with bars := t.bars.set n b } else t }
    else { s with teams := s.teams ++ [⟨g.take, k, (List.replicate 4 Bar.start).set n b⟩] }
  else s.modGroup g.gid fun g => { g with bars := g.bars.set n b }

/-- The number of a barrier among those of a group and its team (Warp.unbarred). -/
def barNo (team : Bool) (n : Nat) : Nat := if team then 16 + n else n

/-- An arrival without a wait covers the warp's scratchpad writes so far: the barrier's completion will order them (R158). -/
def Warp.coverWrites (w : Warp) (k : Nat) : Warp := { w with unbarred := w.unbarred.map fun x => (x.1, x.2 ||| 2 ^ (k + 1)) }

/-- An arrival (R307, R308): counted for each lane of `active`, effective once its release is done. The barrier's completion orders the
scratchpad writes that it covers before an MMA that is signed after the barrier: those before the arrival, or, where lanes wait, before the
completion (R158). -/
def State.issueBar (s : State) (h : Hdr) (i : Instr) (team : Bool) (n : Nat) (wait : Bool) : State :=
  s.withEnv h fun e =>
    let b := s.getBar e.g team n
    let again := e.act.filter fun l => b.arrived.contains (e.g.gid, l)
    if again.isEmpty then
      let s := s.launch e (e.op s h i)
      let s := s.setBar e.g team n { b with arrived := b.arrived ++ e.act.map fun l => (e.g.gid, l) }
      let s := s.modWarp e.g.gid e.w.wid fun w => if wait then w else w.coverWrites (barNo team n)
      if wait then s.block e e.act fun _ => .barrier team n else s
    else s.fail e 0x2150 again 0

def execBar (h : Hdr) (o : BitVec 4) (s : State) : Outcome := .next (s.issueBar h (.bar h o) false o.toNat true)
def execBarArr (h : Hdr) (o : BitVec 4) (s : State) : Outcome := .next (s.issueBar h (.barArr h o) false o.toNat false)
def execBart (h : Hdr) (o : BitVec 2) (s : State) : Outcome := .next (s.issueBar h (.bart h o) true o.toNat true)
def execBartArr (h : Hdr) (o : BitVec 2) (s : State) : Outcome := .next (s.issueBar h (.bartArr h o) true o.toNat false)

/-- The groups that a barrier counts, and whether all have started. -/
def State.barGroups (s : State) (g : Group) (team : Bool) : List Group × Bool :=
  if team then s.teamGroups g else (s.groups.filter fun y => y.gid == g.gid, true)

/-- Whether a barrier completes (R307): every lane of the expected set has arrived, with its release done. -/
def State.barDone (s : State) (g : Group) (team : Bool) (n : Nat) : Bool :=
  let gs := s.barGroups g team
  let arrived := (s.getBar g team n).arrived
  let expected := gs.1.flatMap fun y => ((List.range y.lanes.length).filter fun l => (y.lane l).at_ != .retired).map fun l => (y.gid, l)
  gs.2 && !expected.isEmpty && (expected.all fun x => arrived.contains x) &&
    (s.ops.all fun o => (Instr.barOf o.instr).all fun b => !(b.1 == team && b.2.1 == n && gs.1.any (fun y => y.gid == o.gid)) || o.after.isEmpty)

/-- A completed barrier has ordered the scratchpad writes of warps with waiting lanes, and those that arrivals at it have covered (R158). -/
def Group.barred (g : Group) (k : Nat) (ls : List Nat) : Group :=
  { g with warps := g.warps.map fun (w : Warp) =>
      { w with unbarred := if ls.any w.lanes.contains then [] else w.unbarred.filter fun x => !bitAt x.2 (k + 1) } }

/-- BARRIER_COMPLETE (R307): the acquire, the release of the waiting lanes, and the next phase. -/
def execBarrierComplete (team : Bool) (g n : Nat) (s : State) : Outcome :=
  .next (match s.findGroup g with
    | none => s
    | some y =>
      if s.barDone y team n then
        let gs := (s.barGroups y team).1
        let s := s.setBar y team n ⟨!(s.getBar y team n).phase, []⟩
        gs.foldl (fun (s : State) (k : Group) =>
          let ls := (List.range k.lanes.length).filter fun l => (k.lane l).at_ == .barrier team n
          let s := s.modGroup k.gid fun y => y.barred (barNo team n) ls
          if ls.isEmpty then s
          else
            let s := (s.acquireAt k (bit team)).modLanes k.gid ls fun _ l => { l with at_ := .live, age := 0 }
            (s.ops.filter fun o => o.gid == k.gid && Instr.barOf o.instr == some (team, n, true)).foldl State.finishOp s) s
      else s)

/-! ### Words (R303, R305, R310 to R313, R315) -/

def WordRef.codes : WordRef → List Nat
  | .global n => [640 + n, 641 + n]
  | .scratch n => [640 + n]

def WordRef.space : WordRef → Space
  | .global _ => .global
  | .scratch _ => .scratch

/-- The address of a word, as the issue reads it. -/
def State.wordAddr (s : State) (e : Env) : WordRef → Nat
  | .global n => s.uniS e true n
  | .scratch n => s.uniS e false n

/-- Whether the address of a word was read too early. -/
def State.wordHaz (s : State) (e : Env) (w : WordRef) : Bool := (WordRef.codes w).any fun c => s.hazard e.g e.low c

/-- Holds an operation with its lanes until it ends (R305). -/
def State.holdOp (s : State) (e : Env) (o : Op) : State :=
  let o := { o with at_ := .held, after := s.orderAfter e.w.wid o }
  (s.addOp o).modLanes e.g.gid o.lanes fun _ l => l.blockAt (.held o.id)

/-- An operation on a word as it issues (R283, R305): `n` is its count or phase operand, `bad` the fault of that operand, `dst` the
registers it writes. Of an operand that was read too early no fault arises (R31). -/
def State.issueWord (s : State) (h : Hdr) (i : Instr) (w : WordRef) (size : Nat) (k : AccKind) (n : Src) (bad : Nat → Option Nat)
    (dst : List Nat) (waits : Bool) : State :=
  s.checked h (fun _ => dst.filter (fun c => c < 1024) ++ WordRef.codes w ++ (Arg.of .z32 n).codes) fun e =>
    let x := (s.uni e .z32 n)
    let addr := s.wordAddr e w
    let early := s.wordHaz e w || !e.sure
    let lost := s.undefine e (e.op s h i) dst 2
    match bad x.val with
    | some f => if x.haz || !e.sure then lost else s.fail e f e.act 0
    | none =>
      match s.addrFault e.g (WordRef.space w) false size addr with
      | some f => if early then lost else s.fail e f e.act addr (k == .write)
      | none =>
        let r := s.locLane e.g (WordRef.space w) k e.low addr [(0, size)]
        if early && r.2.2.1.isSome then lost
        else (r.1.settleLanes e (match r.2.2.1 with
            | none => []
            | some f => e.act.map fun l => (l, f.1, f.2)) (k == .write) 0 fun s act =>
          if act.isEmpty then s
          else
            let o := { e.op s h i with
              accs := [⟨e.low, r.2.1, addr⟩]
              vals := [x.val, addr]
              lvals := e.act.map fun l => (l, [bit (x.haz || early || e.lost.contains l) + 2 * bit early])
              status := bit r.2.2.2 }
            (if waits then s.holdOp e o else s.launchOrHold e o r.2.2.2).unsettle o dst).undefineLost e (e.op r.1 h i) dst 2

/-- Faults of a count (R310, R311). -/
def countFault (code n : Nat) : Option Nat := if n = 0 ∨ 2 ^ 24 ≤ n then some code else none

def noFault (_ : Nat) : Option Nat := none

def execBwinit (h : Hdr) (o : BwinitOps) (s : State) : Outcome :=
  .next (s.issueWord h (.bwinit h o) o.word 8 .write o.n (countFault 0x2153) [] false)

def execBwarr (h : Hdr) (o : BwarrOps) (s : State) : Outcome :=
  .next (s.issueWord h (.bwarr h o) o.word 8 .write o.n (countFault 0x2154) [o.d.code] false)

def execBwwait (h : Hdr) (o : BwwaitOps) (s : State) : Outcome :=
  .next (s.issueWord h (.bwwait h o) o.word 8 .read o.ph noFault [predCode o.pd.toNat] true)

def execSemsig (h : Hdr) (o : SemsigOps) (s : State) : Outcome :=
  .next (s.issueWord h (.semsig h o) (.global o.sa) 4 .write o.n noFault [] false)

def execSemwait (h : Hdr) (o : SemwaitOps) (s : State) : Outcome :=
  .next (s.issueWord h (.semwait h o) (.global o.sa) 4 .write o.n noFault [o.d.code] true)

def execErrack (h : Hdr) (o : ErrackOps) (s : State) : Outcome :=
  .next (s.issueWord h (.errack h o) o.word 8 .write (.i10 0) noFault [o.d.code] false)

/-- The write of a uniform result: each lane for a v register, once for an s register (R305). A lane that read an operand too early gets an
undefined value. -/
def State.uniOut (s : State) (o : Op) (d : Reg) (x : Nat) (free : Bool) : List RegW :=
  s.loadOut d (o.lanes.map fun l => (l, [(x, 2)], free || o.lhaz l))

/-- A poisoned word is a consumption of the take (R130, R510), but where its address was read too early (R31). -/
def State.wordPoison (s : State) (g : Group) (o : Op) (u : MUnit) : State :=
  if o.blind (o.lanes.headD 0) then s else s.hwError g.take 0x3111 u.trace.1 u.trace.2

/-- One atomic on the word of an operation that completes: `f` gives the new word and `d` the destination with its value. -/
def State.doWord (s : State) (o : Op) (g : Group) (scope : Nat) (f : Nat → Nat) (d : Option (Reg × (Nat → Nat))) : State :=
  match o.units with
  | [u] =>
    let r := s.rmw g.agent (s.ctxOf g) scope u f
    let s := r.1.noteRaces (some g.gid) (memSpans [u])
    let s := if r.2.2 then s.wordPoison g o u else s
    let o := { o with writes := match d with
      | none => []
      | some d => s.uniOut o d.1 (d.2 r.2.1) r.2.2 }
    s.renew.finishOp o
  | _ => s.finishOp o

/-- Whether an operation that is counted in the current phase of a barrier word is outstanding (R310; assumption 61): an engine's, on a global
word, or a BWARR that does not follow the BWINIT. -/
def State.wordOwed (s : State) (o : Op) (g : Group) (ref : WordRef) : Bool :=
  s.ops.any fun p =>
    (WordRef.space ref == .global && p.bw.any fun b => b.1 == o.vals.getD 1 0 && (s.findGroup p.gid).elim 0 s.ctxOf == s.ctxOf g) ||
    (match p.instr with
      | .bwarr _ _ => !p.after.contains o.id && p.units.any fun u => o.units.any u.overlaps
      | _ => false)

/-- BWINIT (R310): from now on the word is known as one (R154). -/
def State.doBwinit (s : State) (o : Op) (g : Group) (x : BwinitOps) : State :=
  let w := if s.wordOwed o g x.word then s.free 723 0 else bwStart (o.vals.headD 0)
  (o.units.foldl (fun (s : State) u => s.setWordState g.take u 1) s).doWord o g x.scope.toNat (fun _ => w) none

def State.doBwarr (s : State) (o : Op) (g : Group) (x : BwarrOps) : State :=
  s.doWord o g x.scope.toNat (fun w => (o.units.head?).elim w fun u => s.arrival u (o.vals.headD 0) 0 w) (some (x.d, bwPhase))

def State.doSemsig (s : State) (o : Op) (g : Group) (x : SemsigOps) : State :=
  s.doWord o g x.scope.toNat (fun v => min (v + o.vals.headD 0) (2 ^ 32 - 1)) none

/-- ERRACK (R313, R474): a global word also leaves the taint set. -/
def State.doErrack (s : State) (o : Op) (g : Group) (x : ErrackOps) : State :=
  let s := s.doWord o g x.scope.toNat bwAck (some (x.d, fun w => slice w 49 15))
  match x.word with
  | .global _ => s.untaintWord g.take (o.vals.getD 1 0)
  | .scratch _ => s

/-! ### Waits on words (R312, R315, R510) -/

/-- Lanes that an operation holds return to the frontier. -/
def State.freeHeld (s : State) (o : Op) : State :=
  s.modLanes o.gid o.lanes fun _ l => if l.at_ = .held o.id then { l with at_ := .live, age := 0 } else l

/-- Drops an operation that ends without effect; its flag falls (R32). -/
def State.cancelOp (s : State) (o : Op) : State := s.endOp o

/-- A later access of an operation fails translation (R510): its lanes park at the instruction, or the return trap is raised on a stack
core (R163). -/
def State.parkOp (s : State) (o : Op) (g : Group) (w : Warp) (code addr : Nat) (write : Bool) : State :=
  let s := s.cancelOp o
  if g.onStack then
    (s.modLanes g.gid o.lanes fun _ l => { l with pc := o.pc, at_ := .live, age := 0, solo := o.pos == 1 }).modWarp g.gid w.wid
      fun w => { w with halt := .trapping }
  else
    let (s, no) := s.addStop g w .translation code o.lanes o.pc.toNat addr write
    (s.modLanes g.gid o.lanes fun _ l => { l with at_ := .parked no, pc := o.pc, age := 0, solo := o.pos == 1 }).checkGrow g.gid

/-- Reaches the word of a wait afresh (R510); `k` goes on with its unit. -/
def State.reachWord (s : State) (o : Op) (g : Group) (w : Warp) (ref : WordRef) (size : Nat) (acc : AccKind)
    (k : State → MUnit → State) : State :=
  let addr := o.vals.getD 1 0
  let r := s.locUnit g (WordRef.space ref) acc (o.lanes.headD 0) addr size
  match r.2 with
  | .error c =>
    if c / 4096 = 2 then (r.1.cancelOp o).progError g.gid w.wid c o.lanes addr (acc == .write)
    else if c / 4096 = 3 then (r.1.cancelOp o).settleError g c 0 addr
    else r.1.parkOp o g w c addr (acc == .write)
  | .ok none => s
  | .ok (some u) => if r.1.presentUnit u then k r.1 u else r.1

/-- The wait of an operation goes on until a later write. -/
def State.waitOn (s : State) (o : Op) : State := s.modOp o.id fun p => { p with ctr := s.stamp + 1, status := 0 }

/-- A wait on a barrier word ends: it is step 7 of the calls whose completion the word tells (R159). -/
def State.endWatch (s : State) (g : Group) (ref : WordRef) (va : Nat) : State :=
  match ref with
  | .scratch _ => s
  | .global _ => { s with watches := s.watches.filter fun w => !(w.word == some va && (s.findGroup w.gid).elim 0 s.ctxOf == s.ctxOf g) }

/-- One test of BWWAIT (R312). -/
def State.testBwwait (s : State) (o : Op) (g : Group) (w : Warp) (x : BwwaitOps) : State :=
  s.reachWord o g w x.word 8 .read fun s u =>
    let r := s.atomRead g.agent (s.ctxOf g) x.scope.toNat u
    let v := r.2.2.1
    let early := o.lhaz (o.lanes.headD 0)
    if r.2.2.2.2 then (r.1.cancelOp o).wordPoison g o u
    else if bwPhase v ≠ o.vals.headD 0 % 2 ∨ early then
      let o := { o with writes := o.lanes.map fun l => predWrite l x.pd.toNat (if o.lhaz l then bitAt (r.1.free 724 l) 0 else bwError v) }
      (((r.1.renew.acquireAt g x.scope.toNat).endWatch g x.word (o.vals.getD 1 0)).freeHeld o).finishOp o
    else r.1.waitOn o

/-- One try of SEMWAIT (R315): a failed try changes nothing. -/
def State.trySemwait (s : State) (o : Op) (g : Group) (w : Warp) (x : SemwaitOps) : State :=
  s.reachWord o g w (.global x.sa) 4 .write fun s u =>
    let n := o.vals.headD 0
    let r := s.atomRead g.agent (s.ctxOf g) x.scope.toNat u
    let v := r.2.2.1
    if r.2.2.2.2 then (r.1.cancelOp o).wordPoison g o u
    else if v < n then r.1.waitOn o
    else
      let s := r.1.copyAll g.take [u.loc]
      let s := (if r.2.2.2.1 then s else s.writeUnit r.2.1 u (v - n)).noteRaces (some g.gid) (memSpans [u])
      let o := { o with writes := s.uniOut o x.d v false }
      ((s.renew.acquireAt g x.scope.toNat).freeHeld o).finishOp o

/-- Whether a word has been written since a wait last tested. -/
def State.wrote (s : State) (o : Op) (a : Nat) : Bool := o.ctr ≤ s.wordStamp a

/-- Whether a waiting operation tests now: at first, and after a later write of its word, wherever its address leads by then (R312, R315,
R510). One of a group that leaves its core tests again after the restoration (R445). -/
def State.mayTest (s : State) (o : Op) : Bool :=
  o.at_ == .held && o.status == 0 && o.after.isEmpty && (s.findGroup o.gid).any Group.inPlace &&
  (o.ctr == 0 || o.units.any fun u => match u.loc with
    | .mem a _ => s.wrote o a ||
        (match s.translateFresh ((s.findGroup o.gid).elim 0 s.ctxOf) (o.vals.getD 1 0) .read with
        | .ok t => s.wrote o t.a
        | .error _ => false)
    | .bank g b off => bwPhase (s.readBank g b off 8) != o.vals.headD 0 % 2 ||
        !((s.findGroup g).bind fun y => y.banks[b]?).any fun k => k.mode == .sp)

/-- BWWAIT_RETEST (R312, R510). -/
def execBwwaitRetest (op : Nat) (s : State) : Outcome :=
  .next (match s.findOp op with
    | none => s
    | some o => match o.instr, s.findGroup o.gid with
      | .bwwait _ x, some g => match g.findWarp o.wid with
        | some w => if s.mayTest o then s.testBwwait o g w x else s
        | none => s
      | _, _ => s)

/-- SEMWAIT_RETRY (R315, R316, R510). -/
def execSemwaitRetry (op : Nat) (s : State) : Outcome :=
  .next (match s.findOp op with
    | none => s
    | some o => match o.instr, s.findGroup o.gid with
      | .semwait _ x, some g => match g.findWarp o.wid with
        | some w => if s.mayTest o then s.trySemwait o g w x else s
        | none => s
      | _, _ => s)

/-! ### Tile flags (R155, R314) -/

/-- TFLAG as it issues: it follows the warp's earlier stores into the tile's range alone. -/
def execTflag (h : Hdr) (o : BitVec 10) (s : State) : Outcome :=
  .next (s.withEnv h fun e =>
    match (s.takeOf e.g).bind fun t => t.slate.flags[o.toNat]? with
    | none => s.fail e 0x2155 e.act 0
    | some r =>
      let after := (s.ops.filter fun p => p.gid == e.g.gid && p.owners.contains e.w.wid && p.due.isNone && p.at_ != .held &&
        Instr.writesMem p.instr && p.inRange r).map Op.id
      s.addOp { e.op s h (.tflag h o) with after := after })

/-- Completion of TFLAG. -/
def State.doTflag (s : State) (o : Op) (g : Group) (n : Nat) : State :=
  (s.modTake g.take fun t => { t with flagsSet := if t.flagsSet.contains n then t.flagsSet else t.flagsSet ++ [n] }).finishOp o

end Sys2Proof.Machine
end

