-- ==== Sys2Proof/Machine/Matrix.lean ====
section
/-!
DEFINITION. The matrix engine (R101 to R105, R158, R321 to R332): convergence registers, staging, tile operations, and the arithmetic
of an MMA.
-/

namespace Sys2Proof.Machine

/-! ### Records (R322) -/

def recBase (x : Nat) : Nat := slice x 0 24
def recRot (x : Nat) : Nat := slice x 60 4

/-- A record whose own fields break R322. -/
def recBad (x : Nat) : Bool := slice x 24 8 != 0 || recBase x % 16 != 0 || 12 ≤ recRot x

/-- The address of row `r`; `nb` is the number of the target group's logical banks. -/
def recRow (x nb r : Nat) : Nat :=
  let a := (recBase x + r / 32 * slice x 44 16 * 128 + r % 32 * slice x 32 12 * 16) % 2 ^ 24
  if recRot x = 0 then a else setBits a 15 4 ((slice a 15 4 + recRot x * (r / 32)) % nb)

/-- The number of logical banks of the group that a scratchpad address names (R112, R507). -/
def State.bankCount (s : State) (g : Group) (x : Nat) : Nat :=
  if bitAt x 23 && g.kind == .kernel && slice x 19 4 != g.teamRank then
    ((s.groups.find? fun y => y.take == g.take && y.kind == .kernel && y.groupId == g.groupId - g.teamRank + slice x 19 4).elim 0
      fun y => y.banks.length)
  else g.banks.length

/-- Where `n` bytes of row `r` lie; `none` in a team member that has not started. -/
def State.rowAt (s : State) (g : Group) (x r n : Nat) : Except Nat (Option (Nat × Nat × Nat)) :=
  match s.scratchLoc g (recRow x (s.bankCount g (recRow (setBits x 60 4 0) 1 r)) r) with
  | .error c => .error (if c = 0x2114 then c else 0x2195)
  | .ok none => .ok none
  | .ok (some y) => if 2 ^ 15 < y.2.2 + n then .error 0x2195 else .ok (some y)

/-- Checks every row of a record: a fault, or whether all its members have started. -/
def State.recCheck (s : State) (g : Group) (x n : Nat) : Nat → Except Nat Bool
  | 0 => if recBad x then .error 0x2195 else .ok true
  | r + 1 => match s.recCheck g x n r with
    | .error c => .error c
    | .ok b => match s.rowAt g x r n with
      | .error c => .error c
      | .ok y => .ok (b && y.isSome)

/-- The units of a record's rows, for presence (R121). -/
def State.recUnits (s : State) (g : Group) (x n rows : Nat) : List MUnit :=
  (List.range rows).filterMap fun r => match s.rowAt g x r n with
    | .ok (some y) => some ⟨.bank y.1 y.2.1 y.2.2, n⟩
    | _ => none

/-- Whether every line of a unit of any length is present. -/
def State.presentRun (s : State) (u : MUnit) : Bool :=
  match u.loc with
  | .mem _ _ => true
  | .bank g b off => ((s.findGroup g).bind fun y => y.banks[b]?).all fun k =>
      (List.range ((off + u.n + 127) / 128 - off / 128)).all fun i => k.pending (off / 128 + i) == 0

/-- Reads a row: its bytes and whether its bank still is in scratchpad mode. -/
def State.readRow (s : State) (g : Group) (x r n : Nat) : Nat × Bool :=
  match s.rowAt g x r n with
  | .ok (some y) => (s.readBank y.1 y.2.1 y.2.2 n, true)
  | _ => (0, false)

/-- Whether a row meets a scratchpad word of a set. -/
def State.rowMeets (s : State) (g : Group) (m : NMap Bool) (x r n : Nat) : Bool :=
  match s.rowAt g x r n with
  | .ok (some y) => (wordKeys [⟨.bank y.1 y.2.1 y.2.2, n⟩]).any fun k => NMap.get false m k
  | _ => false

/-! ### Convergence registers (R77, R325, R327) -/

def Conv.idle : Conv := ⟨.idle, [], [], none, [], []⟩

def Group.conv (g : Group) (c : Nat) : Conv := g.convs.getD c Conv.idle

def State.setConv (s : State) (gid c : Nat) (v : Conv) : State :=
  s.modGroup gid fun g => { g with convs := g.convs.set c v }

/-- Whether a warp belongs to the declared set of a register whose MMA has not issued (R53, R54). -/
def Group.declared (g : Group) (wid : Nat) : Bool := g.convs.any fun c => c.st == .open && c.declared.contains wid

/-- A word of the MDECL mask: 32 bits of one partition. -/
def State.declMask (s : State) (e : Env) (sm p : Nat) : Nat := s.uniS e false (sm + p)

/-- MDECL (R325). -/
def execMdecl (h : Hdr) (o : MdeclOps) (s : State) : Outcome :=
  .next (s.coreOnly h (s.checked h (fun _ => (List.range 4).map fun j => 640 + o.sm + j) fun e =>
    let bits := (List.range 128).filter fun b => bitAt (s.declMask e o.sm (b / 32)) (b % 32)
    let warps := bits.map fun b => e.g.warps.find? fun w => w.part == b / 32 && w.slot == b % 32
    let c := e.g.conv o.c.toNat
    if c.st ≠ .idle then s.fail e 0x2190 e.act 0
    else if bits.isEmpty || warps.any Option.isNone then s.failRead e ((List.range 4).map fun j => 640 + o.sm + j) 0x2191 0
    else (s.setConv e.g.gid o.c.toNat { Conv.idle with st := .open, declared := (warps.filterMap id).map Warp.wid, past := c.past }).addOp
      { e.op s h (.mdecl h o) with due := some (s.now e.g + 4) }))

/-- MSIGN (R327): the writes that the warp has not fenced are noted (R158). -/
def execMsign (h : Hdr) (o : BitVec 3) (s : State) : Outcome :=
  .next (s.coreOnly h (s.withEnv h fun e =>
    let c := e.g.conv o.toNat
    if c.st ≠ .open ∨ !c.declared.contains e.w.wid then s.fail e 0x2193 e.act 0
    else if c.signed.contains e.w.wid then s.fail e 0x2194 e.act 0
    else (s.setConv e.g.gid o.toNat { c with
        signed := c.signed ++ [e.w.wid]
        affected := e.w.dirty.foldl (fun m k => NMap.put false m k.1 true) c.affected }).addOp
      { e.op s h (.msign h o) with due := some (s.now e.g + 4) }))

/-- Whether a staged MMA issues (R327). -/
def Group.mmaReady (g : Group) (c : Nat) : Bool :=
  let v := g.conv c
  v.st == .open && v.staged.isSome && v.declared.all v.signed.contains

/-! ### Tile operations -/

def Tile.zero : Tile := ⟨6, [], none⟩

def Group.tile (g : Group) (t : Nat) : Tile := g.tiles.getD t Tile.zero

def Tile.at (t : Tile) (r c : Nat) : Word := NMap.get 0 t.elems (128 * r + c)

/-- A tile with the given elements. -/
def Tile.make (f : Nat → Nat → Word) (wait : Option Nat) : Tile :=
  ⟨6, (List.range 16384).filterMap fun k => let x := f (k / 128) (k % 128); if x = 0 then none else some (k, x), wait⟩

def State.setTile (s : State) (gid t : Nat) (v : Tile) : State := s.modGroup gid fun g => { g with tiles := g.tiles.set t v }

/-- Tiles that an operation names. -/
def Instr.tilesOf : Instr → List Nat
  | .mma _ o => [o.t.toNat, o.t.toNat + 1]
  | .mzero _ t => [t.toNat]
  | .mload _ o => [o.t.toNat]
  | .mout _ o => [o.t.toNat]
  | _ => []

/-- Operations of the group on common tiles that an operation follows (R329): those in their order of issue. -/
def State.tileAfter (s : State) (gid id : Nat) (ts : List Nat) : List Nat :=
  (s.ops.filter fun p => p.gid == gid && p.id != id && (p.at_ == .issued || p.at_ == .started) &&
    !(match p.instr with | .mma _ _ => p.at_ == .issued | _ => false) &&
    (Instr.tilesOf p.instr).any ts.contains).map Op.id

/-- A pair of tiles holds undefined values (R158). -/
def State.spoilPair (s : State) (gid t : Nat) : State :=
  let a := t / 2 * 2
  let bad := fun (k : Nat) (w : Option Nat) => Tile.make (fun r c => BitVec.ofNat 32 (s.free (610 + k) (128 * r + c))) w
  ((s.modGroup gid fun g => { g with tiles := (g.tiles.set a (bad 0 (g.tile a).wait)).set (a + 1) (bad 1 (g.tile (a + 1)).wait) })).renew

/-- An operation on a tile between an MMA and its MWAIT (R158): its own result is undefined, and a write leaves the pair so, the MMAs
in flight on it included. `ctr` 1 marks such an operation. -/
def State.startTile (s : State) (o : Op) (g : Group) (t : Nat) (us : List MUnit) : State :=
  let early := (g.tile t).wait.isSome
  let writes := match o.instr with
    | .mout _ _ => false
    | _ => true
  let s := if early && writes then
      { s with ops := s.ops.map fun (p : Op) =>
          if p.gid = o.gid ∧ p.at_ = .started ∧ (Instr.tilesOf p.instr).contains t then { p with ctr := 1 } else p }
    else s
  s.modOp o.id fun p => { p with
    at_ := .issued
    ctr := bit early
    after := (s.tileAfter o.gid o.id [t] ++ s.engineAfter o.wid o.gid o.seq us []).eraseDups }

/-- Issues a tile operation once the members that its record names have started (R41). -/
def State.issueTile (s : State) (e : Env) (o : Op) (t : Nat) (started : Bool) (us : List MUnit) : State :=
  if started then (s.addOp o).startTile o e.g t us
  else (s.addOp { o with at_ := .held, status := 1 }).modLanes e.g.gid o.lanes fun _ l => l.blockAt (.held o.id)

/-- MZERO (R332). A tile operand on a stack core faults with 0x2112, the allotment there being 0, and raises no return trap (R162). -/
def execMzero (h : Hdr) (o : BitVec 4) (s : State) : Outcome :=
  .next (s.checked h (fun _ => [tileCode o.toNat]) fun e =>
    s.issueTile e (e.op s h (.mzero h o)) o.toNat true [])

/-- Bytes of a row of a tile record (R332). -/
def tileRow (ty : Ty) : Nat := if ty = .f32 then 512 else 256

/-- MLOAD (R332). -/
def execMload (h : Hdr) (o : MloadOps) (s : State) : Outcome :=
  .next (s.checked h (fun _ => [tileCode o.t.toNat, 640 + o.record, 641 + o.record]) fun e =>
    let x := s.uniS e true o.record
    match s.recCheck e.g x (tileRow o.ty) 128 with
    | .error c => s.failRead e [640 + o.record, 641 + o.record] c 0
    | .ok b => (s.issueTile e { e.op s h (.mload h o) with vals := [x] } o.t.toNat b (s.recUnits e.g x (tileRow o.ty) 128)).markEarly s.nextOp
        (s.early e [640 + o.record, 641 + o.record]))

/-- MOUT (R332). -/
def execMout (h : Hdr) (o : MoutOps) (s : State) : Outcome :=
  .next (s.checked h (fun _ => [tileCode o.t.toNat, 640 + o.record, 641 + o.record]) fun e =>
    let x := s.uniS e true o.record
    if (e.g.tile o.t.toNat).tag ≠ 6 then s.fail e 0x2130 e.act 0
    else match s.recCheck e.g x (tileRow o.ty) 128 with
    | .error c => s.failRead e [640 + o.record, 641 + o.record] c 0
    | .ok b => (s.issueTile e { e.op s h (.mout h o) with vals := [x] } o.t.toNat b (s.recUnits e.g x (tileRow o.ty) 128)).markEarly s.nextOp
        (s.early e [640 + o.record, 641 + o.record]))

/-- Completion of MZERO, MLOAD and MOUT. -/
def State.doMzero (s : State) (o : Op) (g : Group) (t : Nat) : State :=
  (if o.ctr = 1 then s.spoilPair g.gid t else s.setTile g.gid t { Tile.zero with wait := (g.tile t).wait }).finishOp o

/-- A row's element as FP32. -/
def loadElem (ty : Ty) (row c : Nat) : Word :=
  if ty = .f32 then BitVec.ofNat 32 (slice row (32 * c) 32)
  else BitVec.ofNat 32 (roundTo fp32 .rn false true 0 (valueTy ty (slice row (16 * c) 16))).code

def State.doMload (s : State) (o : Op) (g : Group) (x : MloadOps) : State :=
  let t := x.t.toNat
  let rec_ := o.vals.headD 0
  let rows := (List.range 128).map fun r => s.readRow g rec_ r (tileRow x.ty)
  if o.ctr = 1 then (s.spoilPair g.gid t).finishOp o
  else
    let tile := Tile.make (fun r c =>
      let row := rows.getD r (0, false)
      if row.2 then loadElem x.ty row.1 c else BitVec.ofNat 32 (s.free 610 (128 * r + c))) (g.tile t).wait
    let o := if rows.all Prod.snd then o else o.fails 0x2114 0 0 0
    let s := (s.setTile g.gid t tile).renew
    (if o.status = 0 then s else s.engineError o).finishOp o

/-- A tile element as MOUT stores it (R332). -/
def outElem (x : MoutOps) (w : Word) : Nat :=
  if x.ty = .f32 then w.toNat else (roundTy x.ty x.rnd x.sat true 0 (fval w.toNat)).code

def State.doMout (s : State) (o : Op) (g : Group) (x : MoutOps) : State :=
  let rec_ := o.vals.headD 0
  let t := g.tile x.t.toNat
  let n := tileRow x.ty
  let width := n / 128
  let us := s.recUnits g rec_ n 128
  let s' := (List.range 128).foldl (fun (s : State) r =>
    match s.rowAt g rec_ r n with
    | .ok (some y) =>
      let v := ((List.range 128).map fun c =>
        (if o.ctr = 1 then s.free 610 (128 * r + c) % 2 ^ (8 * width) else outElem x (t.at r c)) * 2 ^ (8 * width * c)).sum
      s.modBank y.1 y.2.1 fun k => k.writeNat y.2.2 n v
    | _ => s) s
  let o := if us.length = 128 then o else o.fails 0x2114 0 0 0
  let s := (s'.noteOperands o true us).renew
  (if o.status = 0 then s else s.engineError o).finishOp o

/-! ### MMA: staging (R323, R324, R326) -/

/-- K of a format (R323); none where it is no format of the engine. -/
def mmaK : Ty → Option Nat
  | .bf16 | .f16 => some 64
  | .e4m3 | .e5m2 | .e3m2 | .e2m3 => some 128
  | .e2m1 | .l6 => some 256
  | _ => none

/-- The two formats of an MMA and their K (R323). -/
def mmaFormats (o : MmaOps) : Option (Ty × Ty × Nat) :=
  match Ty.ofCode o.fa.toNat, Ty.ofCode o.fb.toNat with
  | some a, some b =>
    if mmaK a = mmaK b ∧ (a = .l6 ↔ b = .l6) then (mmaK a).map fun k => (a, b, k) else none
  | _, _ => none

/-- Block size of a scale code (R324). -/
def blockSize (c : Nat) : Nat := 8 * 2 ^ c

/-- Whether a format takes block scales (R102). -/
def scalable : Ty → Bool
  | .bf16 | .f16 | .l6 => false
  | _ => true

/-- A parameter block as read at issue. -/
structure MmaBlock where
  fa : Ty
  fb : Ty
  k : Nat
  sp : Bool
  regs : List Nat

def MmaBlock.reg (b : MmaBlock) (i : Nat) : Nat := b.regs.getD i 0

def MmaBlock.pair (b : MmaBlock) (i : Nat) : Nat := b.reg i + 2 ^ 32 * b.reg (i + 1)

def MmaBlock.bsa (b : MmaBlock) : Nat := slice (b.reg 12) 0 3
def MmaBlock.bsb (b : MmaBlock) : Nat := slice (b.reg 12) 3 3

/-- The records in use: register, rows and bytes of a row (R323, R324). -/
def MmaBlock.records (b : MmaBlock) : List (Nat × Nat × Nat) :=
  [(0, 128, b.k * Ty.bits b.fa / 8 / (if b.sp then 2 else 1)), (2, 256, b.k * Ty.bits b.fb / 8)] ++
  (if b.bsa = 0 then [] else [(4, 128, b.k / blockSize b.bsa)]) ++
  (if b.bsb = 0 then [] else [(6, 256, b.k / blockSize b.bsb)]) ++
  (if b.sp then [(8, 128, b.k / 8)] else [])

def MmaBlock.outAddr (b : MmaBlock) : Nat := slice (b.reg 10) 0 24
def MmaBlock.outCount (b : MmaBlock) : Nat := slice (b.reg 10) 24 8

/-- The fields of a block that break R324. -/
def MmaBlock.bad (b : MmaBlock) : Bool :=
  b.reg 11 != 0 || b.reg 13 != 0 || b.reg 14 != 0 || b.reg 15 != 0 || slice (b.reg 12) 6 26 != 0 ||
  (b.bsa == 0 && b.pair 4 != 0) || (b.bsb == 0 && b.pair 6 != 0) || (!b.sp && b.pair 8 != 0) ||
  (b.bsa != 0 && !scalable b.fa) || (b.bsb != 0 && !scalable b.fb) || 4 < b.bsa || 4 < b.bsb ||
  (b.bsa != 0 && b.k < blockSize b.bsa) || (b.bsb != 0 && b.k < blockSize b.bsb) ||
  (b.sp && (slice (b.pair 8) 0 24 % 128 != 0 || slice (b.pair 8) 32 12 % 8 != 0)) ||
  (b.outCount != 0 && (b.fb == .l6 || b.outAddr % 4 != 0))

/-- Where the outlier list lies. -/
def State.outliersAt (s : State) (g : Group) (b : MmaBlock) : Except Nat (Option (Nat × Nat × Nat)) :=
  match s.scratchLoc g b.outAddr with
  | .error c => .error (if c = 0x2114 then c else 0x2195)
  | .ok none => .ok none
  | .ok (some y) => if 2 ^ 15 < y.2.2 + 4 * b.outCount then .error 0x2195 else .ok (some y)

/-- The checks of a block that read the group's banks: a fault, or whether all members have started. -/
def State.blockCheck (s : State) (g : Group) (b : MmaBlock) : Except Nat Bool :=
  if b.bad then .error 0x2195
  else
    let r := b.records.foldl (fun (r : Except Nat Bool) x => match r with
      | .error c => .error c
      | .ok y => match s.recCheck g (b.pair x.1) x.2.2 x.2.1 with
        | .error c => .error c
        | .ok z => .ok (y && z)) (.ok true)
    match r with
    | .error c => .error c
    | .ok y =>
      if b.outCount = 0 then .ok y
      else match s.outliersAt g b with
        | .error c => .error c
        | .ok z => .ok (y && z.isSome)

/-- The units of all operands of a block. -/
def State.blockUnits (s : State) (g : Group) (b : MmaBlock) : List MUnit :=
  (b.records.flatMap fun x => s.recUnits g (b.pair x.1) x.2.2 x.2.1) ++
  (if b.outCount = 0 then [] else match s.outliersAt g b with
    | .ok (some y) => [⟨.bank y.1 y.2.1 y.2.2, 4 * b.outCount⟩]
    | _ => [])

/-- The block of a staged MMA. -/
def Op.mmaBlock (o : Op) : Option MmaBlock :=
  match o.instr with
  | .mma _ x => (mmaFormats x).map fun f => ⟨f.1, f.2.1, f.2.2, x.sp, o.vals⟩
  | _ => none

/-- MMA as it issues from its warp: it is staged (R326). -/
def execMma (h : Hdr) (o : MmaOps) (s : State) : Outcome :=
  let codes := (List.range 16).map fun j => 640 + o.blk + j
  .next (s.command h ([tileCode o.t.toNat, tileCode (o.t.toNat + 1)] ++ codes) o.bw
    fun e bw =>
      let c := e.g.conv o.c.toNat
      let op := { e.op s h (.mma h o) with bw := bw, vals := (List.range 16).map fun j => s.uniS e false (o.blk + j) }
      if (e.g.tile o.t.toNat).tag ≠ 6 ∨ (e.g.tile (o.t.toNat + 1)).tag ≠ 6 then s.fail e 0x2130 e.act 0
      else if c.st ≠ .open ∨ c.staged.isSome then s.fail e 0x2192 e.act 0
      else match op.mmaBlock with
        | none => s.fail e 0x2195 e.act 0
        | some b => match s.blockCheck e.g b with
          | .error f => s.failRead e codes f 0
          | .ok true => (s.addOp op).setConv e.g.gid o.c.toNat { c with staged := some op.id }
          | .ok false =>
            (s.addOp { op with at_ := .held, status := 1 }).modLanes e.g.gid op.lanes fun _ l => l.blockAt (.held op.id))

/-- Scratchpad words that warps outside the declared set of a register have written and not yet ordered by a barrier (R158; assumption 60). -/
def State.loose (s : State) (gid : Nat) (c : Conv) : List Nat :=
  s.groups.flatMap fun y => y.warps.flatMap fun w =>
    if y.gid == gid && c.declared.contains w.wid then [] else w.unbarred.map Prod.fst

/-- MMA_ISSUE (R327, R158): the register is issued, and the tile pair awaits its MWAIT. -/
def execMmaIssue (g c : Nat) (s : State) : Outcome :=
  .next (match s.findGroup g with
    | none => s
    | some y =>
      if y.mmaReady c then
        match (y.conv c).staged.bind s.findOp with
        | none => s
        | some o =>
          let ts := Instr.tilesOf o.instr
          let us := (o.mmaBlock.elim [] fun b => s.blockUnits y b)
          let after := (s.tileAfter g o.id ts ++ s.engineAfter o.wid g o.seq us []).eraseDups
          let s := ({ s with nextOp := s.nextOp + 1 }).modOp o.id fun p => { p with at_ := .started, after := after, seq := s.nextOp }
          let bad := (s.loose g (y.conv c)).foldl (fun m k => NMap.put false m k true) (y.conv c).affected
          (s.setConv g c { y.conv c with st := .issued, affected := bad }).modGroup g fun y =>
            { y with tiles := y.tiles.mapIdx fun i t => if ts.contains i then { t with wait := some c } else t }
      else s)

/-! ### MMA: arithmetic (R101 to R105) -/

/-- T of R103. -/
def lnsTable (f : Nat) : Nat := match f with
  | 0 => 4096 | 1 => 4871 | 2 => 5793 | _ => 6889

/-- A product of two LNS6 elements (R103). -/
def lnsProd (a b : Nat) : FVal :=
  let x := signed 5 a
  let y := signed 5 b
  let neg := bitAt a 5 != bitAt b 5
  if x = -16 ∨ y = -16 then .fin neg 0 1
  else scaled neg (lnsTable ((x + y) % 4).toNat) ((x + y) / 4 - 12)

/-- One product of an MMA, each element with its block scale (R101 to R103). -/
def mmaProd (fa fb : Ty) (a b : Nat × FVal) : FVal :=
  if fa = .l6 then lnsProd a.1 b.1 else ((valueTy fa a.1).mul a.2).mul ((valueTy fb b.1).mul b.2)

/-- The exact sum of one chunk after the truncating alignment, as FP32 (R101). -/
def chunkSum (ps : List FVal) : Nat :=
  let pos := ps.any fun p => p == .inf false
  let neg := ps.any fun p => p == .inf true
  if ps.any FVal.isNan || (pos && neg) then fp32.nanCode
  else if pos then fp32.infCode
  else if neg then fp32.infCode + fp32.signBit
  else
    let exps := ps.filterMap fun p => match p with
      | .fin _ n d => if n = 0 then none else some (log2Floor n d)
      | _ => none
    match exps with
    | [] => 0
    | x :: xs =>
      let q := xs.foldl max x - 40
      let acc : Int := (ps.map fun p => match p with
        | .fin s n d => sgnInt s (quanta n d q).1
        | _ => 0).sum
      (roundTo fp32 .rn false false 0 (scaled (decide (acc < 0)) acc.natAbs q)).code

/-- One FP32 addition of the accumulator. -/
def accAdd (x y : Nat) : Nat := (roundTo fp32 .rn false false 0 ((fval x).add false (fval y))).code

/-- A magnitude rounded to 3 mantissa bits, nearest and ties to even, as a shadow tree takes it (R109). -/
def FVal.reduced : FVal → FVal
  | .fin s n d =>
    if n = 0 then .fin s 0 1
    else
      let q := log2Floor n d - 3
      let p := quanta n d q
      scaled s (if goesUp .rn s 0 p.1 p.2.1 p.2.2 then p.1 + 1 else p.1) q
  | v => v

/-- The exponent of a finite nonzero product. -/
def FVal.exp? : FVal → Option Int
  | .fin _ n d => if n = 0 then none else some (log2Floor n d)
  | _ => none

/-- Whether the shadow tree finds a chunk's sum `r` wrong (R109): `ps` are the exact products and `qs` the products of the reduced
operands, summed in 16-bit fixed point. The sum saturates once, at its end, at 32,767 units of either sign (DESIGN CHOICE: R109 says
neither where nor at what number; assumption 62). Chunks with a NaN or an infinity, and those of magnitude 0, are not checked. -/
def treeMiss (ps qs : List FVal) (r : FVal) : Bool :=
  let finite := ps.all fun p => match p with
    | .fin _ _ _ => true
    | _ => false
  match finite, ps.filterMap FVal.exp? with
  | true, x :: xs =>
    let q := xs.foldl max x - 9
    let acc : Int := clampInt (-(2 ^ 15 - 1)) (2 ^ 15 - 1) (qs.map fun p => match p with
      | .fin s n d => sgnInt s (quanta n d q).1
      | _ => 0).sum
    let total := ps.foldl (fun (t : FVal) p => t.add false (match p with | .fin _ n d => .fin false n d | v => v)) (.fin false 0 1)
    let off := match r.add false (scaled (decide (0 < acc)) acc.natAbs q) with
      | .fin _ n d => .fin false n d
      | v => v
    (total.mul (.fin false 1 4)).lt off
  | _, _ => false

/-- Splits a list into chunks of 32. -/
def chunks32 {α : Type} : Nat → List α → List (List α)
  | 0, _ => []
  | n + 1, xs => if xs.isEmpty then [] else xs.take 32 :: chunks32 n (xs.drop 32)

/-- One element: the tile's value with every chunk added in ascending K (R101). -/
def mmaElem (fa fb : Ty) (t : Nat) (a b : List (Nat × FVal)) : Nat :=
  (chunks32 8 (a.zip b)).foldl (fun t c => accAdd t (chunkSum (c.map fun p => mmaProd fa fb p.1 p.2))) t

/-- Whether some chunk of an element fails its shadow's check (R109); an LNS6 product is reduced once it is formed. `unit` gives what
failing trees deliver, by chunk. -/
def elemMiss (fa fb : Ty) (unit : Nat → Option (Bool × Nat × Nat)) (a b : List (Nat × FVal)) : Bool :=
  let low := fun (p : (Nat × FVal) × (Nat × FVal)) =>
    if fa = .l6 then (lnsProd p.1.1 p.2.1).reduced
    else (((valueTy fa p.1.1).mul p.1.2).reduced).mul (((valueTy fb p.2.1).mul p.2.2).reduced)
  ((chunks32 8 (a.zip b)).zipIdx).any fun c => (unit c.2).any fun r =>
    treeMiss (c.1.map fun p => mmaProd fa fb p.1 p.2) (c.1.map low) (.fin r.1 r.2.1 r.2.2)

/-- One outlier (R105): the exact product of three factors is rounded with the sum once. -/
def outlierAdd (fb : Ty) (t v : Nat) (b : Nat × FVal) : Nat :=
  (roundTo fp32 .rn false false 0
    ((fval t).add false ((valueTy .bf16 v).mul ((valueTy fb b.1).mul b.2)))).code

def oneVal : FVal := .fin false 1 1

/-- Dense elements of a row with their scales (R102, R323). -/
def rowElems (ty : Ty) (k row bs srow : Nat) : List (Nat × FVal) :=
  (List.range k).map fun j => (slice row (Ty.bits ty * j) (Ty.bits ty),
    if bs = 0 then oneVal else valueTy .e8m0 (slice srow (8 * (j / blockSize bs)) 8))

/-- The dense row that a sparse row and its metadata stand for (R104, R328). -/
def denseRow (ty : Ty) (k row meta_ : Nat) : Nat :=
  ((List.range k).map fun j =>
    let n := slice meta_ (4 * (j / 4)) 4
    let el := fun i => slice row (Ty.bits ty * i) (Ty.bits ty)
    (if n % 4 = j % 4 then el (2 * (j / 4)) else if n / 4 = j % 4 then el (2 * (j / 4) + 1) else zeroCode ty) *
      2 ^ (Ty.bits ty * j)).sum

/-- A metadata row with a nibble whose places do not rise (R328). -/
def badMeta (k meta_ : Nat) : Bool := (List.range (k / 4)).any fun g => let n := slice meta_ (4 * g) 4; n / 4 ≤ n % 4

/-- What an MMA reads: rows of A and B with their elements, and the rows and columns that hold undefined values. -/
structure MmaData where
  a : List (List (Nat × FVal))
  b : List (List (Nat × FVal))
  badRow : List Bool
  badCol : List Bool
  all : Bool
  outliers : List Nat

/-- Bytes of a row of one of a block's records; 0 where the record is not in use. -/
def MmaBlock.rowBytes (b : MmaBlock) (i : Nat) : Nat := (b.records.find? fun x => x.1 == i).elim 0 fun x => x.2.2

/-- Whether row `r` of one of the records `is` meets words of a set. -/
def State.meets (s : State) (g : Group) (b : MmaBlock) (m : NMap Bool) (is : List Nat) (r : Nat) : Bool :=
  is.any fun i => b.rowBytes i != 0 && s.rowMeets g m (b.pair i) r (b.rowBytes i)

/-- Whether the outlier list meets words of a set. -/
def State.listMeets (s : State) (g : Group) (b : MmaBlock) (m : NMap Bool) : Bool :=
  b.outCount != 0 && (match s.outliersAt g b with
    | .ok (some y) => (wordKeys [⟨.bank y.1 y.2.1 y.2.2, 4 * b.outCount⟩]).any fun k => NMap.get false m k
    | _ => false)

/-- Reads the operands of an MMA (R324, R328, R158): `m` are the scratchpad words written where R158 does not allow it. -/
def State.mmaRead (s : State) (g : Group) (b : MmaBlock) (m : NMap Bool) : MmaData :=
  let row := fun (i r : Nat) => if b.rowBytes i = 0 then (0, true) else s.readRow g (b.pair i) r (b.rowBytes i)
  let rowsA := (List.range 128).map fun r => (row 0 r, row 4 r, row 8 r)
  let rowsB := (List.range 256).map fun r => (row 2 r, row 6 r)
  let list := if b.outCount = 0 then (0, true) else match s.outliersAt g b with
    | .ok (some y) => (s.readBank y.1 y.2.1 y.2.2 (4 * b.outCount), true)
    | _ => (0, false)
  { a := rowsA.map fun x =>
      rowElems b.fa b.k (if b.sp then denseRow b.fa b.k x.1.1 x.2.2.1 else x.1.1) b.bsa x.2.1.1
    b := rowsB.map fun x => rowElems b.fb b.k x.1.1 b.bsb x.2.1
    badRow := rowsA.mapIdx fun r x => !x.1.2 || !x.2.1.2 || !x.2.2.2 || s.meets g b m [0, 4, 8] r ||
      (b.sp && badMeta b.k x.2.2.1)
    badCol := rowsB.mapIdx fun r x => !x.1.2 || !x.2.2 || s.meets g b m [2, 6] r
    all := !list.2 || s.listMeets g b m
    outliers := (List.range b.outCount).map fun e => slice list.1 (32 * e) 32 }

/-- The status of an MMA (R328): a bank that has left scratchpad mode, or a nibble of the metadata. -/
def State.mmaStatus (s : State) (g : Group) (b : MmaBlock) : Nat :=
  let gone := b.records.any fun x => (List.range x.2.1).any fun r => !(s.readRow g (b.pair x.1) r x.2.2).2
  let list := b.outCount != 0 && (match s.outliersAt g b with | .ok (some _) => false | _ => true)
  if gone || list then 0x2114
  else if b.sp && (List.range 128).any fun r => badMeta b.k (s.readRow g (b.pair 8) r (b.k / 8)).1 then 0x2196
  else 0

/-- The element of row `i` and column `n` (R101, R105, R328). -/
def mmaValue (b : MmaBlock) (x : MmaData) (t : Word) (i n : Nat) : Nat :=
  let bs := x.b.getD n []
  let base := mmaElem b.fa b.fb t.toNat (x.a.getD i []) bs
  x.outliers.foldl (fun t e =>
    if slice e 0 8 = i ∧ slice e 8 8 < b.k then outlierAdd b.fb t (slice e 16 16) (bs.getD (slice e 8 8) (0, oneVal)) else t) base

/-- Whether an MMA may complete: it has issued, those before it on its pair are done, and its lines are present. -/
def State.mmaMayEnd (s : State) (o : Op) (g : Group) : Bool :=
  o.at_ == .started && o.after.isEmpty && o.mmaBlock.all fun b => (s.blockUnits g b).all s.presentRun

/-- Adds one to a saturating 16-bit counter of a log register (R469). -/
def State.countUp (s : State) (off a : Nat) : State := s.setField off a 16 (min (s.field off a 16 + 1) 0xFFFF)

/-- MMA_COMPLETE (R101 to R105, R328, R472): the tile pair, the status, and the register idle again; the arrival is made next. Tree n forms
the elements of column n of the pair (DESIGN CHOICE: no rule says which tree forms which element; assumption 16). -/
def execMmaComplete (op : Nat) (s : State) : Outcome :=
  .next (match s.findOp op with
    | none => s
    | some o => match o.instr, s.findGroup o.gid, o.mmaBlock with
      | .mma _ x, some g, some b =>
        if s.mmaMayEnd o g then
          let t := x.t.toNat
          let c := g.conv x.c.toNat
          let d := s.mmaRead g b c.affected
          let new := fun (half : Nat) => Tile.make (fun i n =>
            let col := 128 * half + n
            if o.ctr = 1 || d.all || d.badRow.getD i true || d.badCol.getD col true
            then BitVec.ofNat 32 (s.free (610 + half) (128 * i + n))
            else BitVec.ofNat 32 (mmaValue b d ((g.tile (t + half)).at i n) i col)) (g.tile (t + half)).wait
          let st := s.mmaStatus g b
          let s' := ((s.setTile g.gid t (new 0)).setTile g.gid (t + 1) (new 1)).renew
          let s' := (s'.modOp op fun p => { (if st = 0 then p else p.fails st 0 0 0) with at_ := .ready }).setConv g.gid x.c.toNat
            { Conv.idle with past := c.past ++ [⟨o.seq, o.instr, o.vals, []⟩] }
          let stray := (List.range 256).filter fun n => (List.range 128).any fun i =>
            elemMiss b.fa b.fb (Config.treeResult op i n) (d.a.getD i []) (d.b.getD n [])
          stray.foldl (fun (s : State) n =>
            (s.countUp (0x20080 + 8 * g.agent) 16).hwError g.take 0x3141 (unitPath 2 g.agent 0 n 0) 0) s'
        else s
      | _, _, _ => s)

/-! ### MFENCE and MWAIT (R330, R331) -/

/-- MFENCE (R330): the warp issues nothing until its scratchpad stores and atomics are performed. -/
def execMfence (h : Hdr) (s : State) : Outcome :=
  .next (s.coreOnly h (s.withEnv h fun e =>
    let ids := (s.ops.filter fun p => p.gid == e.g.gid && p.owners.contains e.w.wid && (match p.instr with
      | .sts _ _ | .atoms _ _ => true
      | _ => false)).map Op.id
    let s := s.modWarp e.g.gid e.w.wid fun w => { w with hold := ids, dirty := [] }
    if ids.isEmpty then s else s.addOp { e.op s h (.mfence h) with after := ids }))

def Past.block (p : Past) : Option MmaBlock :=
  match p.instr with
  | .mma _ x => (mmaFormats x).map fun f => ⟨f.1, f.2.1, f.2.2, x.sp, p.vals⟩
  | _ => none

/-- A tile of a complete MMA whose operands have been written since: the elements that depend on them are undefined (R158). -/
def State.lateTile (s : State) (g : Group) (b : MmaBlock) (m : NMap Bool) (half : Nat) (t : Tile) : Tile :=
  let rows := (List.range 128).map fun i => s.meets g b m [0, 4, 8] i
  let cols := (List.range 128).map fun n => s.meets g b m [2, 6] (128 * half + n)
  let all := s.listMeets g b m
  Tile.make (fun i n => if all || rows.getD i true || cols.getD n true then BitVec.ofNat 32 (s.free (612 + half) (128 * i + n)) else t.at i n)
    t.wait

/-- What the late writes of one complete MMA do to its tiles. -/
def State.applyLate (s : State) (gid : Nat) (p : Past) : State :=
  match s.findGroup gid, p.block, Instr.tilesOf p.instr with
  | some g, some b, [t, u] =>
    if p.late.isEmpty then s
    else ((s.setTile gid t (s.lateTile g b p.late 0 (g.tile t))).setTile gid u (s.lateTile g b p.late 1 (g.tile u))).renew
  | _, _, _ => s

/-- The tile pairs whose last MMA went through a register are defined from its MWAIT on (R331), but for the elements that late writes have
spoilt (R158). -/
def State.settleTiles (s : State) (gid c : Nat) : State :=
  match s.findGroup gid with
  | none => s
  | some g =>
    let due := fun (p : Past) => (Instr.tilesOf p.instr).any fun t => (g.tile t).wait == some c
    ((g.convs.flatMap fun v => v.past.filter due).foldl (fun (s : State) p => s.applyLate gid p) s).modGroup gid fun g =>
      { g with
        tiles := g.tiles.map fun (t : Tile) => if t.wait = some c then { t with wait := none } else t
        convs := g.convs.map fun (v : Conv) => { v with past := v.past.filter fun p => !due p } }

/-- MWAIT (R331). -/
def execMwait (h : Hdr) (o : BitVec 3) (s : State) : Outcome :=
  .next (s.coreOnly h (s.withEnv h fun e =>
    if (e.g.conv o.toNat).st = .idle then s.settleTiles e.g.gid o.toNat
    else
      let op := { e.op s h (.mwait h o) with at_ := .held }
      (s.addOp op).modLanes e.g.gid e.act fun _ l => l.blockAt (.held op.id)))

/-- MWAIT_RELEASE (R331). The lanes of a group that is being evicted, or is evicted, stay blocked until it stands on a core again (R445). -/
def execMwaitRelease (op : Nat) (s : State) : Outcome :=
  .next (match s.findOp op with
    | none => s
    | some o => match o.instr, s.findGroup o.gid with
      | .mwait _ c, some g =>
        if (g.conv c.toNat).st = .idle && g.place == .core g.agent then ((s.settleTiles g.gid c.toNat).freeHeld o).finishOp o else s
      | _, _ => s)

end Sys2Proof.Machine
end

