-- ==== Sys2Proof/Machine/Walker.lean ====
section
/-!
DEFINITION. The affine walker (R333 to R336): AWALK, ASTOP and the points of a walk.
-/

namespace Sys2Proof.Machine

/-! ### Walk descriptors as 512-bit numbers (R334) -/

def walkOrigin (w i : Nat) : Int := signed 32 (slice w (32 * i) 32)
def walkCount (w l : Nat) : Nat := slice w (160 + 16 * l) 16
def walkDim (w l : Nat) : Nat := slice w (240 + 3 * l) 3
def walkStep (w l : Nat) : Int := signed 32 (slice w (255 + 32 * l) 32)
def walkLen (w : Nat) : Nat := slice w 415 12
def walkScratch (w : Nat) : Bool := bitAt w 427
def walkDest (w : Nat) : Nat := slice w 428 24
def walkPitch (w : Nat) : Nat := slice w 452 12

/-- The fault of a walk descriptor over a tensor of `rank` dimensions, in a group with `queues` queues. -/
def walkFault (w rank queues : Nat) : Option Nat :=
  if slice w 464 48 != 0 || walkLen w == 0 || (List.range 5).any (fun l => rank ≤ walkDim w l) ||
    (if walkScratch w then walkDest w % 4 != 0 else slice w 431 21 != 0 || walkPitch w != 0) then some 0x21A0
  else if !walkScratch w && queues ≤ slice w 428 3 then some 0x2113
  else none

/-- Points of a walk; a count of 0 at any level makes it empty. -/
def walkPoints (w : Nat) : Nat := ((List.range 5).map (walkCount w)).foldl (· * ·) 1

/-- The trip number of level `l` at point `j`, level 0 innermost (R335). -/
def walkTrip (w j l : Nat) : Nat := j / ((List.range l).map (walkCount w)).foldl (· * ·) 1 % walkCount w l

/-- The start coordinate of point `j` (R335). -/
def walkCoord (w j : Nat) : List Int :=
  (List.range 5).map fun d =>
    walkOrigin w d + ((List.range 5).map fun l => if walkDim w l = d then (walkTrip w j l : Int) * walkStep w l else 0).sum

/-! ### AWALK and ASTOP -/

/-- The walk of a group under a number. -/
def State.walkOf (s : State) (gid n : Nat) : Option Op :=
  s.ops.find? fun o => o.gid == gid && (match o.instr with
    | .awalk _ x => x.w.toNat == n
    | _ => false)

/-- AWALK (R128, R333, R334): `vals` holds the queue (8,192 for a walk to scratchpad), the two descriptors and whether the walk
ends after its current point. -/
def execAwalk (h : Hdr) (o : AwalkOps) (s : State) : Outcome :=
  let codes := [640 + o.desc, 641 + o.desc, 640 + o.walk, 641 + o.walk]
  .next (s.coreOnly h (s.command h codes o.bw fun e bw =>
    let td := s.uniS e true o.desc
    let wd := s.uniS e true o.walk
    if 2 ^ 52 ≤ td then s.failRead e codes 0x2142 td
    else if 2 ^ 52 ≤ wd then s.failRead e codes 0x2142 wd
    else if td % 64 ≠ 0 then s.failRead e codes 0x2144 td
    else if wd % 64 ≠ 0 then s.failRead e codes 0x2144 wd
    else
      let a := s.engineReadSpan e.g e.g.engineIn e.g.poisonCode td 64
      let b := a.1.engineReadSpan e.g e.g.engineIn e.g.poisonCode wd 64
      let op := { e.op s h (.awalk h o) with bw := bw, early := s.early e codes }
      match a.2.2 <|> b.2.2 with
      | some f => b.1.addOp { op.noting (some f) with at_ := .ready }
      | none =>
        match descFault a.2.1 <|> walkFault b.2.1 (descRank a.2.1) e.g.allot.queues with
        | some f => if s.early e codes then s else b.1.fail e f e.act 0
        | none =>
          b.1.addOp { op with
            vals := [if walkScratch b.2.1 then 8192 else slice b.2.1 428 3, a.2.1, b.2.1, 0]
            at_ := if walkPoints b.2.1 = 0 then .ready else .issued
            after := b.1.engineAfter e.w.wid e.g.gid op.seq [] [] }))

/-- ASTOP (R336): a walk ends after its current point. -/
def execAstop (h : Hdr) (o : BitVec 3) (s : State) : Outcome :=
  .next (s.coreOnly h (s.command h [] none fun e _ =>
    match s.walkOf e.g.gid o.toNat with
    | none => s
    | some op =>
      s.modOp op.id fun p => { p with
        vals := p.vals.set 3 1
        at_ := if p.at_ == .issued && p.lvals.isEmpty then .ready else p.at_ }))

/-! ### Points -/

/-- Reads the elements of a run (R129, R335): the bytes, and the operation with its status. A poisoned sector of a poison-tolerant page
counts once (R132), at the last of its elements that come one after another. -/
def State.walkRun (s : State) (g : Group) (o : Op) (w wd : Nat) : State × Op × Nat :=
  let size := descSize w
  (List.range (walkLen wd)).foldl (fun (r : State × Op × Nat) e =>
    let xs := runCoord (walkCoord wd o.ctr) e
    let put := fun (v : Nat) => r.2.2 + v % 2 ^ (8 * size) * 2 ^ (8 * size * e)
    if !(inBounds w xs) then (r.1, r.2.1, put (descFill w))
    else match elemAddr w xs with
      | none => (r.1.renew, r.2.1.fails 0x2147 0 0 0, put (r.1.free 600 e))
      | some a =>
        let q := r.1.engineRead g g.engineIn g.poisonCode a size
        let again := e + 1 < walkLen wd && inBounds w (runCoord (walkCoord wd o.ctr) (e + 1)) &&
          (elemAddr w (runCoord (walkCoord wd o.ctr) (e + 1))).any fun b => b / 32 == a / 32
        (if again then { q.1 with regs := r.1.regs } else q.1, r.2.1.noting q.2.2, put q.2.1)) (s, o, 0)

/-- Pushes as many words as the queue has room for (R79, R336); a queue that is gone takes and drops all. The rest is returned. -/
def State.pushWords (s : State) (gid q : Nat) (ws : List Nat) (tag : Nat) : State × List Nat :=
  match (s.findGroup gid).bind fun g => g.queues[q]? with
  | none => (s, [])
  | some xs =>
    let room := 4096 - xs.length
    (s.modGroup gid fun g => { g with queues := g.queues.set q (xs ++ (ws.take room).map fun w => (BitVec.ofNat 32 w, tag)) }, ws.drop room)

/-- The words of a run, zero bytes appended up to a multiple of 4 (R335). -/
def runWords (bytes x : Nat) : List Nat := (List.range ((bytes + 3) / 4)).map fun i => slice x (32 * i) 32

/-- The operation after a point, or a part of one, with `rest` words still to be pushed; they stand in `lvals` under 0. -/
def Op.walked (o : Op) (wd : Nat) (done : Bool) (rest : List Nat) : Op :=
  let j := if done then o.ctr + 1 else o.ctr
  { o with
    ctr := j
    lvals := if rest.isEmpty then [] else [(0, rest)]
    at_ := if rest.isEmpty && (walkPoints wd ≤ j || o.vals.getD 3 0 == 1) then .ready else .issued }

/-- The scratchpad place of point `j` (R336): none where the run breaks R112 or leaves its bank. -/
def State.walkPlace (s : State) (g : Group) (wd j bytes : Nat) : Option (Option (Nat × Nat × Nat)) :=
  match s.scratchLoc g ((walkDest wd + j * walkPitch wd * 16) % 2 ^ 24) with
  | .error _ => none
  | .ok none => some none
  | .ok (some y) => if 2 ^ 15 < y.2.2 + bytes then none else some (some y)

/-- Bytes of a run as delivered. -/
def runBytes (w wd : Nat) : Nat := (walkLen wd * descSize w + 3) / 4 * 4

/-- The scratchpad lines of a run. -/
def runLines (y : Nat × Nat × Nat) (n : Nat) : List Nat :=
  lineKeys ((pieces 128 256 y.2.2 n).map fun p => ⟨.bank y.1 y.2.1 p.1, p.2⟩)

/-- Whether a walk has a point to make, to land or to go on pushing. The walk of a group that leaves its core stops at a point boundary
(R320). -/
def State.walkMayStep (s : State) (o : Op) (g : Group) : Bool :=
  let w := o.vals.getD 1 0
  let wd := o.vals.getD 2 0
  o.at_ == .issued && o.after.isEmpty && (g.place == .core g.agent || !o.lvals.isEmpty) &&
  (if walkScratch wd then !o.lvals.isEmpty || (match s.walkPlace g wd o.ctr (runBytes w wd) with
    | none => true
    | some none => false
    | some (some y) => (runLines y (runBytes w wd)).all fun k => s.pendingOf k < 3)
   else (g.queues[o.vals.headD 0]?).all fun q => q.length < 4096)

/-- The run of a scratchpad point lands (R336): its lines' counts fall. A bank that has left scratchpad mode takes nothing (R120). -/
def State.landPoint (s : State) (o : Op) (g : Group) (y : Nat × Nat × Nat) (n : Nat) : State :=
  let wd := o.vals.getD 2 0
  let u : MUnit := ⟨.bank y.1 y.2.1 y.2.2, n⟩
  let r := s.walkRun g o (o.vals.getD 1 0) wd
  (((r.1.landUnit u r.2.2).noteOperands o false [u]).subPendings (runLines y n)).modOp o.id fun _ => r.2.1.walked wd true []

/-- WALK_POINT (R335, R336): one point of a walk, or as many of its words as its queue takes. A scratchpad point first raises the counts of
its lines and stands in `lvals` under 1 with its place; the next step lands it. -/
def execWalkPoint (op : Nat) (s : State) : Outcome :=
  .next (match s.findOp op with
    | none => s
    | some o => match o.instr, s.findGroup o.gid with
      | .awalk _ _, some g =>
        if s.walkMayStep o g then
          let q := o.vals.getD 0 0
          let w := o.vals.getD 1 0
          let wd := o.vals.getD 2 0
          let n := runBytes w wd
          match o.lvals with
          | (1, [a, b, off]) :: _ => s.landPoint o g (a, b, off) n
          | (_, ws) :: _ =>
            let r := s.pushWords g.gid q ws (descTag w)
            r.1.modOp op fun p => p.walked wd false r.2
          | [] =>
            if walkScratch wd then
              match s.walkPlace g wd o.ctr n with
              | none => s.modOp op fun p => { p.fails 0x21A1 0 0 0 with at_ := .ready }
              | some none => s
              | some (some y) => (s.addPendings (runLines y n)).modOp op fun p => { p with lvals := [(1, [y.1, y.2.1, y.2.2])] }
            else
              let r := s.walkRun g o w wd
              let p := r.1.pushWords g.gid q (runWords n r.2.2) (descTag w)
              p.1.modOp op fun _ => r.2.1.walked wd true p.2
        else s
      | _, _ => s)

end Sys2Proof.Machine
end

