-- ==== Sys2Proof/Machine/Plane.lean ====
section
/-!
DEFINITION. Bit-plane arrays (R107, R126, R337 to R347, R511): the commands as they issue, and what each does when it starts.
-/

namespace Sys2Proof.Machine

/-! ### Field parts of a command word (R338) -/

def fieldBase (f : Nat) : Nat := slice f 0 9
def fieldWidth (f : Nat) : Nat := slice f 9 4 + 1
def fieldSigned (f : Nat) : Bool := bitAt f 13

/-- Planes or reserved bits outside a field part's range. -/
def fieldBad (f : Nat) : Bool := slice f 14 2 != 0 || 512 < fieldBase f + fieldWidth f

/-- The four parts of a command word. -/
def partD (w : Nat) : Nat := slice w 0 16
def partA (w : Nat) : Nat := slice w 16 16
def partB (w : Nat) : Nat := slice w 32 16
def partX (w : Nat) : Nat := slice w 48 16

/-- A field's value in a lane. -/
def fieldVal (f : Nat) (v : BitVec 512) : Int :=
  let x := slice v.toNat (fieldBase f) (fieldWidth f)
  if fieldSigned f then signed (fieldWidth f) x else x

/-- A result narrowed to a field: wrap, or clamp with .sat (R107). -/
def fieldCode (f : Nat) (sat : Bool) (x : Int) : Nat :=
  let n := fieldWidth f
  wrap n (if sat then
      (if fieldSigned f then clampInt (-(2 ^ (n - 1) : Nat)) ((2 ^ (n - 1) : Nat) - 1) x else clampInt 0 ((2 ^ n : Nat) - 1) x)
    else x)

def putField (f : Nat) (v : BitVec 512) (x : Nat) : BitVec 512 :=
  BitVec.ofNat 512 (setBits v.toNat (fieldBase f) (fieldWidth f) x)

/-- Whether a run of planes overlaps a field only in part, or at all where `exactOk` is false (R338, R343). -/
def clashes (d base width : Nat) (exactOk : Bool) : Bool :=
  (decide (fieldBase d < base + width) && decide (base < fieldBase d + fieldWidth d)) &&
  !(exactOk && fieldBase d == base && fieldWidth d == width)

/-! ### Commands in common -/

/-- Lanes of an array (R340). -/
def Plane.count (p : Plane) : Nat := ((List.range 64).filter fun s => bitAt p.mask.toNat s).length * p.w * 2048

def Plane.lane (p : Plane) (n : Nat) : BitVec 512 := NMap.get 0 p.lanes n

/-- The array with every lane changed. -/
def Plane.mapLanes (p : Plane) (f : Nat → BitVec 512 → BitVec 512) : Plane :=
  { p with lanes := (List.range p.count).filterMap fun n =>
      let x := f n (p.lane n)
      if x = 0 then none else some (n, x) }

def Instr.isPlane : Instr → Bool
  | .plalloc _ _ | .plfree _ | .plfill _ _ | .pldrain _ _ | .plop _ _ | .plmul _ _ | .pldot _ _ | .plcmp _ _ | .plsel _ _
  | .plred _ _ | .plbmap _ _ => true
  | _ => false

/-- Bytes that PLRED or PLBMAP writes from its address on, at most. -/
def planeOutMax : Nat := 2 ^ 23

/-- The global ranges that a plane command with operands `vals` writes. -/
def Instr.planeOuts (i : Instr) (vals : List Nat) : List (Nat × Nat) :=
  match i with
  | .pldrain _ _ => [(vals.getD 0 0, slice (vals.getD 1 0) 64 32 * 256)]
  | .plred _ _ | .plbmap _ _ => [(vals.getD 1 0, planeOutMax)]
  | _ => []

/-- A plane command as it issues (R511): `vals` holds its clock (R71), its operands, and what it follows are the warp's accesses. -/
def State.issuePlane (s : State) (e : Env) (i : Instr) (h : Hdr) (bw : Option (Nat × Nat)) (vals : List Nat) : State :=
  s.addOp { e.op s h i with
    bw := bw
    vals := s.now e.g :: vals
    after := s.engineAfter e.w.wid e.g.gid s.nextOp [] (Instr.planeOuts i vals) }

/-- A command with a command word alone: `bad` says what is wrong with it. -/
def State.issueWordCmd (s : State) (h : Hdr) (i : Instr) (cmd : Nat) (bw : Option Bw) (bad : Nat → Option Nat) : State :=
  s.coreOnly h (s.command h [640 + cmd, 641 + cmd] bw fun e bw =>
    let w := s.uniS e true cmd
    match bad w with
    | some f => s.failRead e [640 + cmd, 641 + cmd] f 0
    | none => s.issuePlane e i h bw [w])

/-- 0x2182 where a test fails. -/
def planeFault (b : Bool) : Option Nat := if b then some 0x2182 else none

/-- PLALLOC (R339, R511). -/
def execPlalloc (h : Hdr) (o : PlallocOps) (s : State) : Outcome :=
  .next (s.coreOnly h (s.command h [640 + o.mask, 641 + o.mask] none fun e _ =>
    let m := s.uniS e true o.mask
    let w := o.w.toNat
    let p := s.domainOf e.g.agent
    if m = 0 ∨ w = 0 ∨ 12 < w ∨ e.g.allot.ways < w ∨ (List.range 64).any (fun k => bitAt m k && s.dpart (k / 8) != p)
    then s.failRead e [640 + o.mask, 641 + o.mask] 0x2181 0
    else s.issuePlane e (.plalloc h o) h none [m, w]))

/-- PLFREE (R339). -/
def execPlfree (h : Hdr) (s : State) : Outcome :=
  .next (s.coreOnly h (s.command h [] none fun e _ => s.issuePlane e (.plfree h) h none []))

/-- A PLFILL or PLDRAIN command (R345): field, format, fields per lane, first lane and lanes. -/
structure MoveCmd where
  d : Nat
  fmt : Nat
  ne : Nat
  first : Nat
  count : Nat

def moveCmd (w : Nat) : MoveCmd := ⟨slice w 0 16, slice w 16 2, slice w 18 7 + 1, slice w 32 32, slice w 64 32⟩

/-- Bytes of a memory element: 0 for the dense format. -/
def MoveCmd.size (c : MoveCmd) : Nat := match c.fmt with
  | 0 => 0 | 1 => 1 | 2 => 2 | _ => 4

/-- Bits of a memory element. -/
def MoveCmd.bits (c : MoveCmd) : Nat := if c.fmt = 0 then fieldWidth c.d else 8 * c.size

/-- Bytes that a command moves. -/
def MoveCmd.bytes (c : MoveCmd) : Nat := (c.count * c.ne * c.bits + 7) / 8

/-- The faults of a move at issue (R345, R511). Units past the end of the address space fail one by one. -/
def moveFault (w addr : Nat) : Option Nat :=
  let c := moveCmd w
  if slice w 25 7 != 0 || slice w 96 32 != 0 || fieldBad c.d || 512 < fieldBase c.d + c.ne * fieldWidth c.d then some 0x2182
  else if 2 ^ 52 ≤ addr then some 0x2142
  else if addr % (if c.fmt = 0 then 8 else c.size) ≠ 0 then some 0x2144
  else none

def State.issueMove (s : State) (h : Hdr) (i : Instr) (o : PlfillOps) : State :=
  let codes := [640 + o.addr, 641 + o.addr] ++ (List.range 4).map fun j => 640 + o.cmd + j
  s.coreOnly h (s.command h codes o.bw fun e bw =>
    let a := s.uniS e true o.addr
    let w := s.uniS e true o.cmd + 2 ^ 64 * s.uniS e true (o.cmd + 2)
    match moveFault w a with
    | some f => s.failRead e codes f a
    | none => s.issuePlane e i h bw [a, w])

def execPlfill (h : Hdr) (o : PlfillOps) (s : State) : Outcome := .next (s.issueMove h (.plfill h o) o)
def execPldrain (h : Hdr) (o : PlfillOps) (s : State) : Outcome := .next (s.issueMove h (.pldrain h o) o)

/-- The parts that PLOP uses (R342): A, B and X. -/
def plopUses (op : Nat) : Bool × Bool × Bool :=
  match op with
  | 4 | 5 => (true, false, false)
  | 10 => (true, false, true)
  | 11 => (false, false, true)
  | _ => (true, true, false)

/-- What is wrong with a word whose parts are used as said (R337, R338). -/
def wordBad (d a b x : Bool) (w : Nat) : Bool :=
  (if d then fieldBad (partD w) else partD w != 0) || (if a then fieldBad (partA w) else partA w != 0) ||
  (if b then fieldBad (partB w) else partB w != 0) || (!x && partX w != 0)

def execPlop (h : Hdr) (o : PlopOps) (s : State) : Outcome :=
  let u := plopUses o.op.toNat
  .next (s.issueWordCmd h (.plop h o) o.cmd o.bw fun w => planeFault (wordBad true u.1 u.2.1 u.2.2 w))

def execPlmul (h : Hdr) (o : PlopOps) (s : State) : Outcome :=
  .next (s.issueWordCmd h (.plmul h o) o.cmd o.bw fun w =>
    planeFault (wordBad true true (o.op.toNat == 0) (o.op.toNat != 0) w))

/-- n, the bits of a query element and its sign of PLDOT (R343). -/
def dotN (w : Nat) : Nat := slice (partX w) 0 7 + 1
def dotWq (w : Nat) : Nat := slice (partX w) 7 4 + 1
def dotSigned (w : Nat) : Bool := bitAt (partX w) 11

/-- PLDOT (R343): the query is read at issue. -/
def execPldot (h : Hdr) (o : PldotOps) (s : State) : Outcome :=
  .next (s.coreOnly h (s.command h [640 + o.z, 640 + o.cmd, 641 + o.cmd] o.bw fun e bw =>
    let w := s.uniS e true o.cmd
    let regs := (dotN w * dotWq w + 31) / 32
    if wordBad true true false true w || slice (partX w) 12 4 != 0 ||
        512 < fieldBase (partA w) + dotN w * fieldWidth (partA w) then s.failRead e [640 + o.cmd, 641 + o.cmd] 0x2182 0
    else if e.g.allot.s < o.z + regs then s.failRead e [640 + o.cmd, 641 + o.cmd] 0x2111 0
    else s.issuePlane e (.pldot h o) h bw
      [w, ((List.range regs).map fun j => s.uniS e false (o.z + j) * 2 ^ (32 * j)).sum]))

def execPlcmp (h : Hdr) (o : PlcmpOps) (s : State) : Outcome :=
  .next (s.issueWordCmd h (.plcmp h o) o.cmd o.bw fun w =>
    planeFault (wordBad true true (!o.imm) o.imm w || fieldWidth (partD w) != 1))

def execPlsel (h : Hdr) (o : PlselOps) (s : State) : Outcome :=
  .next (s.issueWordCmd h (.plsel h o) o.cmd o.bw fun w =>
    planeFault (wordBad true true true true w || slice (partX w) 9 7 != 0))

/-- A command that writes memory: its address and word (R337, R346). -/
def State.issueOut (s : State) (h : Hdr) (i : Instr) (addr cmd align : Nat) (bw : Option Bw) (bad : Nat → Option Nat) : State :=
  let codes := [640 + addr, 641 + addr, 640 + cmd, 641 + cmd]
  s.coreOnly h (s.command h codes bw fun e bw =>
    let a := s.uniS e true addr
    let w := s.uniS e true cmd
    match bad w with
    | some f => s.failRead e codes f 0
    | none =>
      if 2 ^ 52 ≤ a then s.failRead e codes 0x2142 a
      else if a % align ≠ 0 then s.failRead e codes 0x2144 a
      else s.issuePlane e i h bw [w, a])

def execPlred (h : Hdr) (o : PlredOps) (s : State) : Outcome :=
  .next (s.issueOut h (.plred h o) o.addr o.cmd 4 o.bw fun w =>
    if wordBad false true false true w || slice (partX w) 5 11 != 0 then some 0x2182
    else if 11 < slice (partX w) 0 5 ∧ slice (partX w) 0 5 ≠ 31 then some 0x2103
    else none)

def execPlbmap (h : Hdr) (o : PlbmapOps) (s : State) : Outcome :=
  .next (s.issueOut h (.plbmap h o) o.addr o.cmd 8 o.bw fun w =>
    planeFault (wordBad false true false true w || slice (partX w) 1 15 != 0 || fieldWidth (partA w) != 1))

/-! ### What commands do (R341 to R346) -/

/-- A bitwise operation on two's complement of unbounded width: 32 bits hold every operand. -/
def intBits (f : BitVec 32 → BitVec 32 → BitVec 32) (a b : Int) : Int := (f (BitVec.ofInt 32 a) (BitVec.ofInt 32 b)).toInt

/-- PLOP's result (R342). -/
def plopVal (op : Nat) (a b x : Int) : Int :=
  match op with
  | 0 => intBits (· &&& ·) a b
  | 1 => intBits (· ||| ·) a b
  | 2 => intBits (· ^^^ ·) a b
  | 3 => intBits (fun a b => a &&& ~~~b) a b
  | 4 => -a - 1
  | 5 => a
  | 6 => a + b
  | 7 => a - b
  | 8 => min a b
  | 9 => max a b
  | 10 => a + x
  | _ => x

/-- A command from a and b into D in every lane (R338): a D that meets a source only in part holds undefined values. -/
def State.planeMap (s : State) (p : Plane) (sat : Bool) (w : Nat) (srcs : List Nat) (f : BitVec 512 → Int) : Plane :=
  let d := partD w
  let bad := srcs.any fun a => clashes d (fieldBase a) (fieldWidth a) true
  p.mapLanes fun n v => putField d v (if bad then s.free 620 n else fieldCode d sat (f v))

/-- Element `j` of a PLDOT query. -/
def queryVal (w q j : Nat) : Int :=
  let x := slice q (j * dotWq w) (dotWq w)
  if dotSigned w then signed (dotWq w) x else x

/-- PLDOT's sum in a lane (R343). -/
def dotVal (w q : Nat) (v : BitVec 512) : Int :=
  ((List.range (dotN w)).map fun j =>
    fieldVal (partA w + j * fieldWidth (partA w)) v * queryVal w q j).sum

/-- The lanes of group `m` of `k` lanes, as values of A. -/
def groupVals (p : Plane) (a k m : Nat) : List Int := (List.range k).map fun i => fieldVal a (p.lane (k * m + i))

/-- PLRED's result over a group (R346), exact and clamped to i32 or z32. -/
def planeRed (op a : Nat) (xs : List Int) : Nat :=
  let x := match op with
    | 0 => xs.sum
    | 1 => xs.tail.foldl min (xs.headD 0)
    | 2 => xs.tail.foldl max (xs.headD 0)
    | _ => ((xs.filter fun x => x != 0).length : Int)
  if fieldSigned a ∧ op < 3 then wrap 32 (clampInt (-(2 ^ 31 : Nat)) ((2 ^ 31 : Nat) - 1) x)
  else wrap 32 (clampInt 0 ((2 ^ 32 : Nat) - 1) x)

/-- The first unit that a PLFILL has still to read is read (R137); `got` keeps it with its bytes, and a 1 above them where it failed.
A poisoned sector of a poison-tolerant page counts once (R132), at its last unit. -/
def State.fillUnit (s : State) (g : Group) (o : Op) : List (Nat × Nat) → State × Op
  | [] => (s, o)
  | (va, n) :: ps =>
    let r := s.engineRead g g.engineIn g.poisonCode va n
    let again := ps.head?.any fun p => p.1 / 32 == va / 32
    (if again then { r.1 with regs := s.regs } else r.1,
      { o.noting r.2.2 with got := o.got ++ [(va, n, r.2.1 + bit r.2.2.isSome * 2 ^ (8 * n))] })

/-- The rest of the units of a PLFILL. -/
def State.fillSpan (s : State) (g : Group) (o : Op) : List (Nat × Nat) → State × Op
  | [] => (s, o)
  | p :: ps =>
    let r := s.fillUnit g o (p :: ps)
    r.1.fillSpan g r.2 ps

/-- The units of a PLFILL (R345). -/
def fillPieces (a w : Nat) : List (Nat × Nat) := pieces 8 (moveCmd w).bytes a (moveCmd w).bytes

/-- The bytes that a PLFILL has read, as one number. -/
def gotValue : List (Nat × Nat × Nat) → Nat
  | [] => 0
  | (_, n, v) :: us => v % 2 ^ (8 * n) + 2 ^ (8 * n) * gotValue us

/-- Bits that failed units of a PLFILL from address `a` give, as first bit and bits. -/
def gotFails (a : Nat) (us : List (Nat × Nat × Nat)) : List (Nat × Nat) :=
  us.filterMap fun u => if 2 ^ (8 * u.2.1) ≤ u.2.2 then some (8 * (u.1 - a), 8 * u.2.1) else none

/-- PLFILL (R345). Of an element narrower than its field the rule gives no upper bits: they are free values (assumption 52). -/
def State.planeFill (s : State) (g : Group) (o : Op) (p : Plane) (a w : Nat) : State × Op × Plane :=
  let c := moveCmd w
  let r := s.fillSpan g o ((fillPieces a w).drop o.got.length)
  let x := gotValue r.2.got
  let fails := gotFails a r.2.got
  let width := fieldWidth c.d
  let p := p.mapLanes fun n v =>
    if c.first ≤ n ∧ n < c.first + c.count then
      (List.range c.ne).foldl (fun (v : BitVec 512) j =>
        let at_ := c.bits * ((n - c.first) * c.ne + j)
        let have_ := min width c.bits
        let bad := fails.any fun x => at_ < x.1 + x.2 && x.1 < at_ + have_
        let any := r.1.free 620 (128 * n + j)
        let y := if bad then any else slice x at_ have_ + any % 2 ^ (width - have_) * 2 ^ have_
        BitVec.ofNat 512 (setBits v.toNat (fieldBase c.d + j * width) width y)) v
    else v
  (r.1.renew, r.2, p)

/-- The bytes that PLDRAIN writes (R345). -/
def drainBytes (p : Plane) (w : Nat) : Nat :=
  let c := moveCmd w
  ((List.range (c.count * c.ne)).map fun k =>
    wrap c.bits (fieldVal (c.d + k % c.ne * fieldWidth c.d) (p.lane (c.first + k / c.ne))) * 2 ^ (c.bits * k)).sum

/-- Ways that other groups' arrays hold in a slice (R126, R339). -/
def State.waysHeld (s : State) (gid slice_ : Nat) : Nat :=
  ((s.groups.filter fun g => g.gid != gid).map fun g => g.plane.elim 0 fun p => if bitAt p.mask.toNat slice_ then p.w else 0).sum

/-- Whether the ways that a PLALLOC names are free. -/
def State.waysFree (s : State) (gid m w : Nat) : Bool := (List.range 64).all fun k => !bitAt m k || s.waysHeld gid k + w ≤ 12

/-- The dirty lines of slices that lose ways may be written back (R126, R127); which lines is open. -/
def State.evictSlices (s : State) (m : Nat) : State :=
  (s.l2.map Prod.fst).foldl (fun (s : State) line => if bitAt m (homeSlice (128 * line)) then s.touchLine line else s) s

/-- PLALLOC at its start (R339, R511). -/
def State.startAlloc (s : State) (g : Group) (o : Op) : State × Op :=
  if !bitAt (s.field 0x430A0 0 8) (s.domainOf g.agent) then (s, o.fails 0x2180 0 0 0)
  else if g.plane.isSome then (s, o.fails 0x2183 0 0 0)
  else
    let m := o.vals.getD 1 0
    ((s.evictSlices m).modGroup g.gid fun g => { g with plane := some ⟨BitVec.ofNat 64 m, o.vals.getD 2 0, []⟩ }, o)

/-- PLDRAIN writes its units (R345): the bytes of a unit that fails hold undefined values where they are mapped at all, but in a page that
the take may not write. -/
def State.drainUnits (s : State) (g : Group) (o : Op) : List (Nat × Nat) → Nat → State × Op
  | [], _ => (s, o)
  | (va, n) :: ps, x =>
    let r := s.engineWrite g g.engineOut va n (x % 2 ^ (8 * n))
    let s := match r.2 with
      | none => r.1
      | some f =>
        if f.1 = 0x21D0 then r.1
        else
          let t := r.1.transAcc g va .read
          match t.2 with
          | .error _ => t.1
          | .ok p => (t.1.writeUnit g.engineOut ⟨.mem p.a p.pg, n⟩ (t.1.free 622 0 % 2 ^ (8 * n))).renew
    s.drainUnits g (o.noting r.2 true) ps (x / 2 ^ (8 * n))

/-- PLRED and PLBMAP write their units. -/
def State.outPlane (s : State) (g : Group) (o : Op) (ps : List (Nat × Nat)) (x : Nat) : State × Op :=
  let r := s.engineWrites g g.engineOut ps x
  (r.1, o.noting r.2 true)

/-- What a command writes to memory from its array (R345, R346): address, bytes, and the bytes as one number. -/
def Op.planeOutput (o : Op) (p : Plane) : Option (Nat × Nat × Nat) :=
  let v1 := o.vals.getD 1 0
  let v2 := o.vals.getD 2 0
  match o.instr with
  | .pldrain _ _ => some (v1, (moveCmd v2).bytes, drainBytes p v2)
  | .plred _ x =>
    let k := if slice (partX v1) 0 5 = 31 then p.count else 2 ^ slice (partX v1) 0 5
    some (v2, 4 * (p.count / k), ((List.range (p.count / k)).map fun m =>
      planeRed x.op.toNat (partA v1) (groupVals p (partA v1) k m) * 2 ^ (32 * m)).sum)
  | .plbmap _ _ =>
    let k := if bitAt (partX v1) 0 then 64 else 1
    some (v2, p.count / k / 8, ((List.range (p.count / k)).map fun m =>
      bit ((groupVals p (partA v1) k m).any fun x => x != 0) * 2 ^ m).sum)
  | _ => none

/-- Writes some units of a command's output. -/
def State.outUnitsPlane (s : State) (g : Group) (o : Op) (ps : List (Nat × Nat)) (x : Nat) : State × Op :=
  match o.instr with
  | .pldrain _ _ => s.drainUnits g o ps x
  | _ => s.outPlane g o ps x

/-- Bytes that stand in `put`: those that a command has written ahead of the rest. -/
def Op.putBytes (o : Op) : Nat := (o.put.map fun u => u.2.1).sum

/-- A command writes the units of its output that it has not written yet (R137). -/
def State.planeWrites (s : State) (g : Group) (o : Op) (p : Plane) : State × Op :=
  match o.planeOutput p with
  | none => (s, o)
  | some (a, n, x) =>
    let r := s.outUnitsPlane g o ((pieces 8 n a n).drop o.put.length) (x / 2 ^ (8 * o.putBytes))
    (r.1.coverSectors g g.engineOut a n, r.2)

/-- The effect of a command on its array, other than PLALLOC and PLFREE. -/
def State.runPlane (s : State) (g : Group) (o : Op) (p : Plane) : State × Op × Plane :=
  let v1 := o.vals.getD 1 0
  let v2 := o.vals.getD 2 0
  match o.instr with
  | .plfill _ _ =>
    let c := moveCmd v2
    if p.count < c.first + c.count then (s, o.fails 0x2184 0 0 0, p) else s.planeFill g o p v1 v2
  | .pldrain _ _ =>
    let c := moveCmd v2
    if p.count < c.first + c.count then (s, o.fails 0x2184 0 0 0, p)
    else
      let r := s.planeWrites g o p
      (r.1, r.2, p)
  | .plop _ x =>
    let u := plopUses x.op.toNat
    let srcs := (if u.1 then [partA v1] else []) ++ (if u.2.1 then [partB v1] else [])
    (s.renew, o, s.planeMap p x.sat v1 srcs fun v =>
      plopVal x.op.toNat (fieldVal (partA v1) v) (fieldVal (partB v1) v) (signed 16 (partX v1)))
  | .plmul _ x =>
    let b := fun (v : BitVec 512) => if x.op = 0 then fieldVal (partB v1) v else signed 16 (partX v1)
    let srcs := partA v1 :: (if x.op = 0 then [partB v1] else [])
    (s.renew, o, s.planeMap p x.sat v1 srcs fun v => fieldVal (partA v1) v * b v)
  | .pldot _ x =>
    let bad := clashes (partD v1) (fieldBase (partA v1)) (dotN v1 * fieldWidth (partA v1)) false
    (s.renew, o, p.mapLanes fun n v =>
      putField (partD v1) v (if bad then s.free 620 n else fieldCode (partD v1) x.sat (dotVal v1 v2 v)))
  | .plcmp _ x =>
    let b := fun (v : BitVec 512) => if x.imm then signed 16 (partX v1) else fieldVal (partB v1) v
    (s.renew, o, s.planeMap p false v1 (partA v1 :: (if x.imm then [] else [partB v1])) fun v =>
      bit (Cond.holds x.cond (fieldVal (partA v1) v) (b v)))
  | .plsel _ x =>
    (s.renew, o, s.planeMap p x.sat v1 [partA v1, partB v1] fun v =>
      if bitAt v.toNat (slice (partX v1) 0 9) then fieldVal (partA v1) v else fieldVal (partB v1) v)
  | .plred _ _ | .plbmap _ _ =>
    let r := s.planeWrites g o p
    (r.1, r.2, p)
  | _ => (s, o, p)

/-- Whether plane command `o` comes before `p`: by the clock of issue, then R71's order. -/
def Op.planeBefore (o p : Op) : Bool :=
  let a := o.vals.headD 0
  let b := p.vals.headD 0
  decide (a < b) || (a == b && (decide (o.ord < p.ord) || (o.ord == p.ord && decide (o.seq < p.seq))))

/-- Whether a plane command may start (R339, R341). -/
def State.planeMayStart (s : State) (o : Op) (g : Group) : Bool :=
  Instr.isPlane o.instr && o.at_ == .issued && o.after.isEmpty &&
  (s.ops.all fun p => !(p.gid == o.gid && Instr.isPlane p.instr && p.id != o.id && p.planeBefore o)) &&
  (match o.instr with
    | .plalloc _ _ => g.plane.isSome || s.waysFree g.gid (o.vals.getD 1 0) (o.vals.getD 2 0)
    | _ => true)

/-- The units of memory that a command which has its turn has still to read or to write before it ends: none where it fails at its
start. -/
def Op.planeUnits (o : Op) (p : Plane) : List (Nat × Nat) :=
  let c := moveCmd (o.vals.getD 2 0)
  match o.instr with
  | .plfill _ _ => if p.count < c.first + c.count then [] else (fillPieces (o.vals.getD 1 0) (o.vals.getD 2 0)).drop o.got.length
  | .pldrain _ _ => if p.count < c.first + c.count then [] else (pieces 8 c.bytes (o.vals.getD 1 0) c.bytes).drop o.put.length
  | _ => match o.planeOutput p with
    | none => []
    | some (a, n, _) => (pieces 8 n a n).drop o.put.length

/-- A command that has its turn reads or writes one of its units ahead of the rest (R137): where it has one more. -/
def State.planePart (s : State) (o : Op) (g : Group) : Option State :=
  match g.plane with
  | none => none
  | some p =>
    if !s.planeMayStart o g then none
    else match o.planeUnits p with
      | u :: v :: us =>
        let r := match o.instr with
          | .plfill _ _ => s.fillUnit g o (u :: v :: us)
          | _ => match o.planeOutput p with
            | none => (s, o)
            | some (_, _, x) =>
              let q := s.outUnitsPlane g o [u] (x / 2 ^ (8 * o.putBytes))
              (q.1, { q.2 with put := q.2.put ++ [(u.1, u.2, 0)] })
        some (r.1.modOp o.id fun _ => r.2)
      | _ => none

/-- PLANE_COMMAND_START (R341, R511): the command is checked against the array and takes effect. -/
def execPlaneCommandStart (op : Nat) (s : State) : Outcome :=
  .next (match s.findOp op with
    | none => s
    | some o => match s.findGroup o.gid with
      | none => s
      | some g =>
        if s.planeMayStart o g then
          let r : State × Op := match o.instr, g.plane with
            | .plalloc _ _, _ => s.startAlloc g o
            | .plfree _, _ => (s.modGroup g.gid fun g => { g with plane := none }, o)
            | _, none => (s, o.fails 0x2183 0 0 0)
            | _, some p =>
              let q := s.runPlane g o p
              (q.1.modGroup g.gid fun g => { g with plane := some q.2.2 }, q.2.1)
          r.1.modOp op fun _ => { r.2 with at_ := .ready }
        else s)

end Sys2Proof.Machine
end

