-- ==== Sys2Proof/Machine/Room.lean ====
section
/-!
DEFINITION. Room on cores and stack cores: what their groups hold (R19, R20, R35, R160), whether a group fits (R38, R39, R169,
R352), where its warps are placed (R19, R40, R62), and the making of a group's lanes and warps (R40, R66, R75).
-/

namespace Sys2Proof.Machine

/-! ### Units that may take work -/

/-- Whether a core of a device partition passes its fuses and is not fenced (R498, R505). -/
def State.coreGood (s : State) (c : Nat) : Bool := bitAt s.fuses.cores.toNat c && !bitAt (s.regN 0x45000) c && s.dpartOfCore c < 8

/-- Whether the groups of a core may be admitted or restored there (R494, R498, R505). -/
def State.coreTakes (s : State) (c : Nat) : Bool :=
  s.coreGood c && bitAt (s.regN 0x43040) (c / 4) && bitAt (s.regN 0x43048) (c / 4)

/-- Whether a stack core takes messages and blocks (R170, R494, R505). -/
def State.scTakes (s : State) (sc : Nat) : Bool :=
  bitAt s.fuses.scores.toNat sc && bitAt (s.regN 0x43050) sc && bitAt (s.regN 0x43058) sc && !bitAt (s.regN 0x45008) sc &&
    s.dpartOfSc sc < 8

/-! ### What is held -/

/-- Whether a group holds warps and registers of an agent. -/
def Group.heldOn (g : Group) (agent : Nat) : Bool := match g.place with
  | .core c | .evicting c => c == agent
  | .stackCore k => 64 + k == agent
  | _ => false

def State.residents (s : State) (agent : Nat) : List Group := s.groups.filter fun g => g.heldOn agent

/-- The warp slots that a warp's lineage holds (R48): its own, and those of the cuts that it may still make. They go back with the warp
(R43; assumption 13). -/
def Group.slotsOf (g : Group) (w : Warp) : Nat := 2 ^ (g.cut - w.links.length)

/-- The slots that the groups hold in a partition. -/
def slotsHeld (gs : List Group) (part : Nat) : Nat :=
  (gs.map fun g => ((g.warps.filter fun w => w.part == part).map g.slotsOf).sum).sum

/-- The spans that groups hold, each with its register count. -/
def spansHeld (gs : List Group) : List (Span × Nat) := gs.flatMap fun g => g.spans.map fun x => (x, g.allot.v)

/-- Whether two spans with their register counts are apart (R20). -/
def apart (x y : Span × Nat) : Bool :=
  x.1.part != y.1.part || x.1.slice + x.1.n ≤ y.1.slice || y.1.slice + y.1.n ≤ x.1.slice ||
  x.1.base + x.2 ≤ y.1.base || y.1.base + y.2 ≤ x.1.base

/-- Partitions and warp slots per partition of an agent (R20, R160). -/
def partsOf (agent : Nat) : Nat := if agent < 64 then 4 else 1
def slotLimit (agent : Nat) : Nat := if agent < 64 then 32 else 16

/-- Slices of a partition of an agent (R2, R3, R160). -/
def slicesOf (agent : Nat) : Nat := if agent < 64 then 32 else 16

/-- Uniform registers, banks, tiles and groups that an agent has (R35, R160). -/
def uniformLimit (agent : Nat) : Nat := if agent < 64 then 1536 else 384
def bankLimit (agent : Nat) : Nat := if agent < 64 then 12 else 4
def tileLimit (agent : Nat) : Nat := if agent < 64 then 16 else 0
def groupLimit (agent : Nat) : Nat := if agent < 64 then 16 else 16

/-! ### Placing warps -/

/-- The spans at which a warp of `n` slices with `v` registers and `k` slots can stand, partitions first, then registers. -/
def openSpans (agent n v k : Nat) (slots : Nat → Nat) (used : List (Span × Nat)) : List Span :=
  ((List.range (partsOf agent)).filter fun p => slots p + k ≤ slotLimit agent).flatMap fun p =>
    (List.range ((1024 - v) / 8 + 1)).flatMap fun b =>
      ((List.range (slicesOf agent / n)).map fun i => (⟨p, n * i, n, 8 * b⟩ : Span)).filter fun x => v ≤ 1024 && used.all fun y => apart (x, v) y

/-- Places warps in turn, each at one of its open spans; `choose` picks among them. `ks` holds the slots of each. -/
def layout (agent n v : Nat) (choose : Nat → Nat) : List Nat → (Nat → Nat) → List (Span × Nat) → Option (List Span)
  | [], _, _ => some []
  | k :: ks, slots, used =>
    let xs := openSpans agent n v k slots used
    match xs[choose xs.length]? with
    | none => none
    | some x => (layout agent n v choose ks (fun p => slots p + if p = x.part then k else 0) ((x, v) :: used)).map (x :: ·)

/-- What a group asks of an agent: slices per warp of its shape, slots of each, whether it counts as a group, and its allotment. -/
structure Need where
  n : Nat
  ks : List Nat
  counts : Bool
  allot : Allot

/-- Whether the resources other than registers and slots suffice (R35). -/
def State.hasRest (s : State) (agent : Nat) (d : Need) : Bool :=
  let gs := s.residents agent
  let banks := if agent < 64 then ((s.groups.filter fun g => g.place.bankCore == some agent).map fun g => g.banks.length).sum
    else (gs.map fun g => g.banks.length).sum
  (gs.map fun g => g.allot.s).sum + d.allot.s ≤ uniformLimit agent && banks + d.allot.banks + d.allot.queues / 2 ≤ bankLimit agent &&
  (gs.map fun g => g.allot.tiles).sum + d.allot.tiles ≤ tileLimit agent &&
  (!d.counts || (gs.filter fun g => match g.kind with | .gathered _ => false | _ => true).length < groupLimit agent)

/-- A placement on an agent by a way of choosing among open spans, or none where that leaves the group without room. -/
def State.placeBy (s : State) (agent : Nat) (d : Need) (choose : Nat → Nat) : Option (List Span) :=
  if s.hasRest agent d then
    layout agent d.n d.allot.v choose d.ks (slotsHeld (s.residents agent)) (spansHeld (s.residents agent))
  else none

/-- A placement on an agent, or none where the group does not fit. The agent's choice is free (R40); a choice that leaves later warps
without room gives way to the densest placement (assumption 13). -/
def State.placeOn (s : State) (agent : Nat) (d : Need) : Option (List Span) :=
  s.placeBy agent d (fun n => s.free 950 agent % n) <|> s.placeBy agent d fun _ => 0

/-- The need of a new group of a shape (R40, R48). -/
def newNeed (warps width cut : Nat) (counts : Bool) (a : Allot) : Need := ⟨width / 4, List.replicate warps (2 ^ cut), counts, a⟩

/-- The need of a group that comes back or moves: each warp of its shape with the slots its lineage still holds (R62, R166). -/
def Group.need (g : Group) : Need :=
  ⟨g.shapeWidth / 4,
   (List.range g.shapeWarps).map fun k => ((g.warps.filter fun w => w.lane0 / g.shapeWidth == k).map g.slotsOf).sum,
   match g.kind with | .gathered _ => false | _ => true,
   { g.allot with banks := g.banks.length, queues := 0 }⟩

/-- The lowest slot of a partition that no warp holds: the core's choice of a slot (R40; assumption 13). -/
def lowestSlot (taken : List (Nat × Nat)) (part : Nat) : Nat :=
  ((List.range 32).find? fun i => !taken.contains (part, i)).getD 0

def slotsTaken (gs : List Group) : List (Nat × Nat) := gs.flatMap fun g => g.warps.map fun w => (w.part, w.slot)

/-- Gives each warp its partition, slices and slot, at the same offset in its shape's span (R62). -/
def seatWarps (width : Nat) (spans : List Span) : List Warp → List (Nat × Nat) → List Warp
  | [], _ => []
  | w :: ws, taken =>
    let x := spans.getD (w.lane0 / width) default
    let i := lowestSlot taken x.part
    { w with part := x.part, slot := i, slice := x.slice + w.lane0 % width / 4 } :: seatWarps width spans ws ((x.part, i) :: taken)

/-- A group seated at a place. -/
def State.seat (s : State) (g : Group) (p : Place) (spans : List Span) : Group :=
  { g with place := p, spans := spans, warps := seatWarps g.shapeWidth spans g.warps (slotsTaken (s.residents p.agent)) }

/-! ### Making groups -/

/-- A lane as admitted (R40, R66, R75). -/
def newLane (pc key : BitVec 64) (home : Nat) : Lane := { Lane.none with pc := pc, key := key, home := home, at_ := .live }

/-- A warp as admitted (R32, R49). -/
def newWarp (k width : Nat) : Warp where
  wid := k
  part := 0
  slot := 0
  slice := 0
  width := width
  lane0 := k * width
  flags := []
  j := []
  link := none
  links := []
  last := none
  until_ := 0
  yielded := []
  hold := []
  dirty := []
  unbarred := []
  halt := .run
  errSlots := none

/-- The banks of an allotment as the core takes them from cache mode (R120, R507). -/
def newBanks (fresh : Nat) (a : Allot) : List Bank :=
  (List.range a.banks).map (fun i => ⟨.sp, [], some (fresh + i), []⟩) ++ List.replicate (a.queues / 2) ⟨.fifo, [], none, []⟩

/-- A tile as a grant leaves it (R37): +0.0 with tag f32. -/
def newTile : Tile := ⟨6, [], none⟩

/-- A group of a shape with nothing yet done (R40). Undefined bytes of its banks are free values of `fresh`. -/
def newGroup (gid take : Nat) (kind : GroupKind) (groupId rank warps width cut order fresh : Nat) (a : Allot) (full : Bool)
    (lanes : List Lane) : Group where
  gid := gid
  take := take
  kind := kind
  place := .evicted
  groupId := groupId
  teamRank := rank
  shapeWarps := warps
  shapeWidth := width
  cut := cut
  allot := a
  full := full
  lanes := lanes
  warps := (List.range warps).map fun k => newWarp k width
  nextWid := warps
  spans := []
  s := []
  swrote := []
  banks := newBanks fresh a
  queues := List.replicate a.queues []
  tiles := List.replicate a.tiles newTile
  convs := List.replicate 8 Conv.idle
  guards := []
  bars := List.replicate 16 Bar.start
  plane := none
  triggered := false
  growAt := none
  order := order
  callers := []
  caller := 0
  record := none

/-- Adds a group at a place. -/
def State.addGroup (s : State) (g : Group) : State :=
  { s with groups := s.groups ++ [g], nextGid := s.nextGid + 1, nextOrder := s.nextOrder + 1, fresh := s.fresh + 16 }

end Sys2Proof.Machine
end

