-- ==== Sys2Proof/Machine/Calls.lean ====
section
/-!
DEFINITION. Near-memory calls (R159, R165 to R172, R348 to R353): NCALL.L, NCALL.B, NJOIN and NRET as they issue, delivery,
replies, completion, and the return trap's move to a core.
-/

namespace Sys2Proof.Machine

/-! ### Ranges (R159, R172) -/

/-- What is wrong with a declared range. -/
def rangeBad (w : Nat) : Bool := slice w 4 3 != 0 || slice w 7 45 % 2 ^ slice w 0 4 != 0

/-- A declared range's first address and bytes. -/
def rangeSpan (w : Nat) : Nat × Nat := (slice w 7 45 * 128, slice w 52 12 * 128 * 2 ^ slice w 0 4)

/-- Acts on every line of the mapped pages of declared ranges, as far as the address space goes. -/
def State.onRanges (s : State) (g : Group) (f : State → Nat → State) (ws : List Nat) : State :=
  ws.foldl (fun (s : State) w =>
    let r := s.rangeLines g (rangeSpan w).1 (min (rangeSpan w).2 (2 ^ 52 - (rangeSpan w).1))
    r.2.foldl f r.1) s

/-- Step 2: dirty lines are written to their memory and kept. -/
def State.cleanRanges (s : State) (g : Group) (ws : List Nat) : State := s.onRanges g State.cleanLine ws

/-- Step 5: the L2 lines are dropped; a call of which a callee has moved to a core cleans them first (R167), for what that callee has
written there. -/
def State.dropRanges (s : State) (g : Group) (moved : Bool) (ws : List Nat) : State :=
  s.onRanges g (fun s line => if moved then s.evictLine line else (s.touchLine line).dropLine line) ws

/-- The declared ranges by 32 KiB granule, each granule at its device physical address (coversCell). -/
def State.rangeAccs (s : State) (g : Group) (ws : List Nat) : List Acc :=
  ws.flatMap fun w =>
    let n := min (rangeSpan w).2 (2 ^ 52 - (rangeSpan w).1)
    (granuleStarts (rangeSpan w).1 n).filterMap fun a => match s.translateFresh (s.ctxOf g) a .read with
      | .error _ => none
      | .ok t => some ⟨0, [⟨.mem (t.pg.phys t.a) t.pg, min ((rangeSpan w).1 + n) ((a / 2 ^ 15 + 1) * 2 ^ 15) - a⟩], a⟩

/-- From the call's release on, writes by other agents into its declared ranges are noted (R159). -/
def State.watchRanges (s : State) (o : Op) (g : Group) (ws : List Nat) : State :=
  if o.dsts.isEmpty then s.modOp o.id fun p => { p with dsts := s.rangeAccs g ws } else s

/-- After step 5, the bytes that other agents have written into the declared ranges hold undefined values (R159). -/
def State.spoilRaced (s : State) (id : Nat) : State :=
  match s.findOp id with
  | none => s
  | some o =>
    (o.raced.eraseDups.foldl State.spoilSpan s).modOp id fun p => { p with raced := [] }

/-- A call's release is done and its NJOIN or BWWAIT is due: until then writes into its declared ranges still race with it (R159). -/
def State.watch (s : State) (w : Watch) : State :=
  if w.ranges.isEmpty || s.watches.contains w then s else { s with watches := s.watches ++ [w] }

/-- NJOIN on `j` has waited for the callers `ls`: their calls have ended for good (R159, step 7). -/
def State.endJoin (s : State) (gid j : Nat) (ls : List Nat) : State :=
  { s with watches := s.watches.filterMap fun w =>
      if w.gid == gid && w.join == some j then
        (if w.lanes.all ls.contains then none else some { w with lanes := w.lanes.filter fun l => !ls.contains l })
      else some w }

/-- What a group waited for goes with it. -/
def State.dropWatches (s : State) (gone : Nat → Bool) : State := { s with watches := s.watches.filter fun w => !gone w.gid }

/-! ### Entries of the stack-core image (R349) -/

/-- Reads an 8-byte word for an instruction as it issues; `k` goes on with it, and a failing translation parks the lanes. Where the registers
`codes`, which name the word, were read too early, no fault arises (R31). -/
def State.readAtIssue (s : State) (e : Env) (codes : List Nat) (poison va : Nat) (k : State → Nat → State) : State :=
  if 2 ^ 52 ≤ va then s.failRead e codes 0x2142 va
  else
    let r := s.transAcc e.g va .read
    match r.2 with
    | .error c => if s.early e codes then r.1 else r.1.settleLanes e (e.act.map fun l => (l, c, va)) false 0 fun s _ => s
    | .ok t =>
      let u : MUnit := ⟨.mem t.a t.pg, 8⟩
      let q := r.1.readUnit e.g.engineIn u
      if q.2.2 then (if s.early e codes then q.1 else q.1.hwError e.g.take poison u.trace.1 u.trace.2) else k q.1 q.2.1

/-- The entry PC under an index that the registers `codes` give; an index beyond the image has the fault `code`. -/
def State.callEntry (s : State) (e : Env) (codes : List Nat) (ix code : Nat) (k : State → Nat → State) : State :=
  match s.takeOf e.g with
  | none => s
  | some t => if t.slate.nent ≤ ix then s.failRead e codes code 0 else s.readAtIssue e codes 0x3112 (t.slate.scimg + 8 * ix) k

/-- The effect of an operation on what the warp orders after it has taken place (R141). -/
def State.performed (s : State) (id : Nat) : State :=
  { s with ops := s.ops.map fun (o : Op) => { o with after := o.after.filter fun k => k != id } }

/-! ### NCALL.L (R168, R349) -/

/-- The operands of NCALL.L: the target pair and the argument words. -/
def callArgs (o : NcallLOps) : List Arg :=
  Arg.v .i64 o.va :: (List.range o.na.toNat).map fun j => Arg.v .i32 (o.vx + j)

/-- Translates the targets of lanes: lane, stack and page; and the failures, a page of another placement with 0x2160. -/
def State.callTargets (s : State) (e : Env) : List (Nat × Nat) → State × List (Nat × Trans) × List (Nat × Nat × Nat)
  | [] => (s, [], [])
  | (lane, va) :: ts =>
    if 2 ^ 52 ≤ va then
      let q := s.callTargets e ts
      (q.1, q.2.1, (lane, 0x2142, va) :: q.2.2)
    else
      let r := s.translateFor e.g va .read
      let q := r.1.callTargets e ts
      match r.2 with
      | .error c => (q.1, q.2.1, (lane, c, va) :: q.2.2)
      | .ok t => if t.pg.place = 1 then (q.1, (lane, t) :: q.2.1, q.2.2) else (q.1, q.2.1, (lane, 0x2160, va) :: q.2.2)

/-- The messages of an operation that wait in a stack's queue (R170): `vals` holds the entry PC, the range, nr, and the stacks
to which no delivery has been made. -/
def Op.messages (o : Op) (m : Nat) : Nat :=
  match o.instr with
  | .ncallL _ _ => if (o.vals.drop 2).contains m then (o.accs.filter fun a => a.units.any fun u => match u.loc with
      | .mem _ pg => pg.stack == m
      | .bank _ _ _ => false).length else 0
  | _ => 0

def State.queuedMessages (s : State) (m : Nat) : Nat := (s.ops.map fun o => o.messages m).sum

/-- The stacks to which an NCALL.L about to issue sends its messages, one for each (R170). -/
def State.callStacks (s : State) (e : Env) (o : NcallLOps) : List Nat :=
  let rows := s.rows e (callArgs o) []
  (s.callTargets e (rows.map fun r => (r.1, (r.2.headD default).val))).2.1.map fun t => t.2.pg.stack

/-- NCALL.L (R168, R349). After a program error of its warp it is not dispatched (R465). -/
def execNcallL (h : Hdr) (o : NcallLOps) (s : State) : Outcome :=
  let dst := [o.vd] ++ (if o.nr2 then [o.vd + 1] else [])
  .next (s.coreOnly h (s.checked h (fun _ => dst ++ (callArgs o).flatMap Arg.codes ++ [640 + o.sr, 641 + o.sr]) (fun e =>
    if e.ending then s else
    let p := s.readRows e (callArgs o)
    let range := s.uniS e true o.sr
    let target := fun (x : Row) => (x.2.headD default).val
    let early := (p.2.filter Row.haz).map Prod.fst
    match p.2.filterMap fun x =>
        if !tagsOk (callArgs o) x.2 then some (x.1, 0x2130, 0)
        else if !x.haz && 2 ^ 52 ≤ target x then some (x.1, 0x2142, target x) else none with
    | f :: fs => s.fail e f.2.1 (f.1 :: fs.map Prod.fst) f.2.2
    | [] =>
    if rangeBad range then
      (if s.early e [640 + o.sr, 641 + o.sr] then s.undefine e (e.op s h (.ncallL h o)) dst 0 else s.fail e 0x2161 e.act 0)
    else s.callEntry e [] o.entry.toNat 0x2162 fun s pc =>
      let r := s.callTargets e (p.2.map fun x => (x.1, target x))
      let lost := (r.2.2.map Prod.fst).filter early.contains
      (r.1.settleLanes e (r.2.2.filter fun f => !early.contains f.1) false 0 fun s act =>
        let s := if lost.isEmpty then s else s.undefine { e with act := lost } (e.op s h (.ncallL h o)) dst 0
        let act := act.filter fun l => !lost.contains l
        if act.isEmpty then s
        else
          let accs := (r.2.1.filter fun t => act.contains t.1).map fun t => Acc.mk t.1 [⟨.mem t.2.a t.2.pg, 1⟩] t.2.a
          let dests := (List.range 8).filter fun m => r.2.1.any fun t => act.contains t.1 && t.2.pg.stack == m
          let op := { e.op s h (.ncallL h o) with
            lanes := act
            vals := [pc, range] ++ dests
            lvals := (p.2.filter fun x => act.contains x.1).map fun x => (x.1, bit x.haz :: x.2.map Opnd.val)
            accs := accs }
          let s := s.launch e op
          let s := s.modWarp e.g.gid e.w.wid fun w =>
            { w with j := NMap.put 0 w.j o.j.toNat (NMap.get 0 w.j o.j.toNat &&& ~~~(BitVec.ofNat 64 (laneMask e.w.lane0 act))) }
          s.block e act fun _ => .pool op.id).undefineLost e (e.op r.1 h (.ncallL h o)) dst 0) fun e =>
      s.undefineLost e (e.op s h (.ncallL h o)) dst 0))

/-- A stack core of a stack on which a group of this need has room (R168, R353), with its placement; the choice is free. -/
def State.stackRoom (s : State) (m : Nat) (d : Need) : Option (Nat × List Span) :=
  let xs := (List.range 8).filterMap fun i =>
    if s.scTakes (8 * m + i) then (s.placeOn (64 + 8 * m + i) d).map fun x => (8 * m + i, x) else none
  xs[s.free 951 m % max 1 xs.length]?

/-- The width of a gathered warp (R169). -/
def gatherWidth (n : Nat) : Nat := ([4, 8, 16, 32, 64].find? fun w => n ≤ w).getD 64

/-- A callee lane of NCALL.L (R168, R169): its words, its target, and the caller's key, counter, depth and private memory. -/
def calleeLane (pc : Nat) (c : Lane) (xs : List Nat) : Lane :=
  let t := xs.headD 0
  let v := NMap.putAll (0, 0) [] ((xs.drop 1).mapIdx fun j x => (j, (BitVec.ofNat 32 x, 0)))
  { newLane (BitVec.ofNat 64 pc) c.key c.home with
    ctr := c.ctr
    depth := c.depth
    v := NMap.putAll (0, 0) v [(4, (BitVec.ofNat 32 t, 3)), (5, (BitVec.ofNat 32 (t / 2 ^ 32), 3))] }

/-- The callee lanes of an operation for a stack, as group indices of the caller. -/
def Op.callersAt (o : Op) (m : Nat) : List Nat :=
  (o.accs.filter fun a => a.units.any fun u => match u.loc with
    | .mem _ pg => pg.stack == m
    | .bank _ _ _ => false).map Acc.lane

/-- Delivers the messages of an operation to one stack, if they find room there. -/
def State.deliver (s : State) (o : Op) (g : Group) (m : Nat) : State :=
  let ls := o.callersAt m
  let W := gatherWidth ls.length
  let a : Allot := ⟨g.allot.v, 0, 0, 0, 0, 0⟩
  let s := (s.cleanRanges g [o.vals.getD 1 0]).watchRanges o g [o.vals.getD 1 0]
  match s.stackRoom m (newNeed 1 W 0 false a) with
  | none => s
  | some x =>
    let lanes := ls.map (fun l => calleeLane (o.vals.headD 0) (g.lane l) ((o.lvals.find? fun y => y.1 == l).elim [] fun y => y.2.drop 1)) ++
      List.replicate (W - ls.length) Lane.none
    let y := { newGroup s.nextGid g.take (.gathered o.id) g.groupId 0 1 W 0 s.nextOrder s.fresh a true lanes with
      callers := ls.map fun l => (g.gid, l)
      caller := g.agent }
    let s := s.addGroup (s.seat y (.stackCore x.1) x.2)
    let left := (o.vals.drop 2).filter fun k => k != m
    if left.isEmpty then
      let s := (s.performed o.id).modOp o.id fun p => { p with vals := o.vals.take 2, at_ := .delivered, flag := 0 }
      let s := s.modWarp o.gid o.wid fun w => w.subFlag o.flag
      (s.checkHalt o.gid o.wid).checkHaltCtx (s.ctxOf g)
    else s.modOp o.id fun p => { p with vals := o.vals.take 2 ++ left }

/-- Whether messages of an operation wait for a stack, with the call's release done. -/
def Op.mayDeliver (o : Op) (m : Nat) : Bool :=
  o.at_ == .issued && o.after.isEmpty && (o.vals.drop 2).contains m && (match o.instr with | .ncallL _ _ => true | _ => false)

/-- NCALL_L_DELIVER (R159 steps 1 to 3, R168 to R170). -/
def execNcallLDeliver (op stack : Nat) (s : State) : Outcome :=
  .next (match s.findOp op with
    | none => s
    | some o => match s.findGroup o.gid with
      | none => s
      | some g => if o.mayDeliver stack then s.deliver o g stack else s)

/-! ### Replies (R159, R167, R171, R349) -/

/-- Whether the writes of a callee group have been performed: the release of step 6. -/
def State.quiet (s : State) (gid : Nat) : Bool :=
  s.ops.all fun o => !(o.gid == gid && Instr.writesMem o.instr && o.at_ != .held)

/-- Whether a group is one that the return trap has moved to a core. -/
def State.moved (s : State) (gid : Nat) : Bool := (s.findGroup gid).any fun g => g.agent < 64

/-- Whether the call of a callee has lines of a moved callee's writes in the L2 (R167). -/
def State.callMoved (s : State) (o : Op) (gid : Nat) : Bool := o.ctr == 1 || s.moved gid

/-- Lands one reply: the words in the caller's lane, its bit of the rejoin mask, and the lane in the frontier. -/
def State.landReply (s : State) (o : Op) (x : NcallLOps) (r : Reply) : State :=
  let nr := if x.nr2 then 2 else 1
  let ws := (List.range nr).map fun j =>
    RegW.mk r.lane (x.vd + j) (((r.words[j]?).getD none).getD (BitVec.ofNat 32 (s.free (700 + j) r.lane))) 0
  s.renew.modGroup o.gid fun g =>
    let g := (g.writes ws).modLane r.lane fun l =>
      if l.at_ = .pool o.id then { l with at_ := .live, age := 0, ctr := r.ctr } else { l with ctr := r.ctr }
    { g with warps := g.warps.map fun w =>
        if w.lane0 ≤ r.lane ∧ r.lane < w.lane0 + w.width then
          { w with j := NMap.put 0 w.j x.j.toNat (NMap.get 0 w.j x.j.toNat ||| BitVec.ofNat 64 (2 ^ (r.lane - w.lane0))) }
        else w }

/-- The first reply of an operation that may land. -/
def State.nextReply (s : State) (o : Op) : Option Reply := o.replies.find? fun r => s.quiet r.callee

/-- NCALL_REPLY (R171): steps 5 and 6 of R159 and one reply, after which the lane's NJOIN is due. The operation ends with its last reply. -/
def execNcallReply (op : Nat) (s : State) : Outcome :=
  .next (match s.findOp op with
    | none => s
    | some o => match o.instr, s.findGroup o.gid, s.nextReply o with
      | .ncallL _ x, some g, some r =>
        let s := (s.dropRanges g (s.callMoved o r.callee) [o.vals.getD 1 0]).spoilRaced op
        let s := s.watch ⟨g.gid, some x.j.toNat, [r.lane], none, o.dsts⟩
        let s := (s.landReply o x r).modOp op fun p => { p with
          replies := p.replies.erase r
          lanes := p.lanes.filter fun l => l != r.lane }
        match s.findOp op with
        | some p => if p.lanes.isEmpty then s.finishOp p else s
        | none => s
      | _, _, _ => s)

/-! ### NJOIN and NRET (R350, R351) -/

/-- NJOIN: the lanes wait, each for its own mask. -/
def execNjoin (h : Hdr) (o : NjoinOps) (s : State) : Outcome :=
  .next (s.checked h (fun _ => regCodes true o.mask) fun e =>
    let r := s.readRows e [Arg.reg .i64 o.mask]
    let bad := badTags [Arg.reg .i64 o.mask] r.2
    if bad.isEmpty then
      let op := { e.op s h (.njoin h o) with
        at_ := .held
        lvals := r.2.map fun x => (x.1, [(x.2.headD default).val])
        after := s.orderAfter e.w.wid (e.op s h (.njoin h o)) }
      (s.addOp op).block e e.act fun _ => .held op.id
    else s.fail e 0x2130 bad 0)

/-- The lanes of an NJOIN whose masks are covered. -/
def Op.joined (o : Op) (w : Warp) (n : Nat) : List Nat :=
  (o.lvals.filter fun x =>
    let m := x.2.headD 0 % 2 ^ w.width
    m &&& (NMap.get 0 w.j n).toNat == m).map Prod.fst

/-- The lanes for whose calls some lanes of an NJOIN have waited. -/
def Op.joinedFor (o : Op) (w : Warp) (ls : List Nat) : List Nat :=
  w.lanes.filter fun l => o.lvals.any fun x => ls.contains x.1 && bitAt (x.2.headD 0) (l - w.lane0)

/-- NJOIN_RELEASE (R350): the acquire at scope 2, and the lanes go on. -/
def execNjoinRelease (op : Nat) (s : State) : Outcome :=
  .next (match s.findOp op with
    | none => s
    | some o => match o.instr, s.findGroup o.gid with
      | .njoin _ x, some g => match g.findWarp o.wid with
        | none => s
        | some w =>
          let ls := o.joined w x.j.toNat
          if ls.isEmpty || !o.after.isEmpty || !g.inPlace then s
          else
            let s := ((s.acquireAt g 2).endJoin g.gid x.j.toNat (o.joinedFor w ls)).modLanes g.gid ls fun _ l => if l.at_ = .held op then { l with at_ := .live, age := 0 } else l
            let rest := o.lvals.filter fun y => !ls.contains y.1
            if rest.isEmpty then s.finishOp o else s.modOp op fun p => { p with lvals := rest, lanes := rest.map Prod.fst }
      | _, _ => s)

/-- The reply words of NRET. -/
def nretArgs (o : NretOps) : List Arg := Arg.any .b32 (.reg o.a) :: (match o.b with | none => [] | some b => [Arg.any .b32 (.reg b)])

/-- NRET (R171, R351): a callee lane sends its words and retires; a lane of a block retires as at EXIT. -/
def execNret (h : Hdr) (o : NretOps) (s : State) : Outcome :=
  .next (s.checked h (fun _ => (nretArgs o).flatMap Arg.codes) fun e =>
    match e.g.kind with
    | .kernel => s.fail e 0x2164 e.act 0
    | .block _ => s.retire e.g.gid e.act
    | .gathered _ =>
      let r := s.readRows e (nretArgs o)
      let words := fun (i : Nat) => ((r.2.find? fun x => x.1 == i).elim [] Prod.snd).map fun (x : Opnd) =>
        if x.haz then none else some (BitVec.ofNat 32 x.val)
      (r.1.sendReplies e.g e.act words).retire e.g.gid e.act)

/-! ### NCALL.B (R352, R353) -/

/-- A block as read at issue. -/
structure CallBlock where
  regs : List Nat

def CallBlock.reg (b : CallBlock) (i : Nat) : Nat := b.regs.getD i 0
def CallBlock.entry (b : CallBlock) : Nat := slice (b.reg 0) 0 10
def CallBlock.stack (b : CallBlock) : Nat := slice (b.reg 0) 10 3
def CallBlock.warps (b : CallBlock) : Nat := slice (b.reg 0) 13 3 + 1
def CallBlock.width (b : CallBlock) : Nat := 4 * 2 ^ slice (b.reg 0) 16 3
def CallBlock.cut (b : CallBlock) : Nat := slice (b.reg 0) 19 3
def CallBlock.nv (b : CallBlock) : Nat := slice (b.reg 1) 0 10
def CallBlock.ns (b : CallBlock) : Nat := slice (b.reg 1) 10 9
def CallBlock.nb (b : CallBlock) : Nat := slice (b.reg 1) 19 3
def CallBlock.na (b : CallBlock) : Nat := slice (b.reg 1) 22 7
def CallBlock.args (b : CallBlock) : Nat := slice (b.reg 2) 0 24
def CallBlock.ranges (b : CallBlock) : List Nat := (List.range 4).map fun i => b.reg (4 + 2 * i) + 2 ^ 32 * b.reg (5 + 2 * i)
def CallBlock.allot (b : CallBlock) : Allot := ⟨b.nv, b.ns, b.nb, 0, 0, 0⟩

/-- What R352 refuses with 0x2163. -/
def CallBlock.bad (b : CallBlock) : Bool :=
  slice (b.reg 0) 22 10 != 0 || slice (b.reg 1) 29 3 != 0 || slice (b.reg 2) 24 8 != 0 || b.reg 3 != 0 ||
  b.reg 12 != 0 || b.reg 13 != 0 || b.reg 14 != 0 || b.reg 15 != 0 ||
  64 < b.width || b.nv % 8 != 0 || b.nv < 8 || 640 < b.nv || b.ns % 8 != 0 || 384 < b.ns || 4 < b.nb || 64 < b.na || b.ns < b.na ||
  b.args % 4 != 0 || 16 < b.warps * 2 ^ b.cut || b.width / 4 < 2 ^ b.cut || 1024 < (b.warps * b.width + 63) / 64 * b.nv

/-- One argument word as the issuing group's scratchpad holds it now. -/
def State.argWord (s : State) (g : Group) (x : Nat) : Except Nat (Option Nat) :=
  match s.scratchLoc g x with
  | .error c => .error c
  | .ok none => .ok none
  | .ok (some y) => .ok (some (s.readBank y.1 y.2.1 y.2.2 4))

/-- The argument words of a block. -/
def State.argWords (s : State) (g : Group) (b : CallBlock) : List (Except Nat (Option Nat)) :=
  (List.range b.na).map fun i => s.argWord g ((b.args + 4 * i) % 2 ^ 24)

def wordOf : Except Nat (Option Nat) → Nat
  | .ok (some x) => x
  | _ => 2 ^ 32

/-- Block calls that wait for a stack (R353). -/
def State.queuedBlocks (s : State) (m : Nat) : Nat :=
  (s.ops.filter fun o => match o.instr with
    | .ncallB _ _ => o.at_ == .issued && (CallBlock.mk (o.vals.drop 1)).stack == m
    | _ => false).length

/-- The stack that an NCALL.B names. -/
def State.blockStack (s : State) (e : Env) (o : NcallBOps) : Nat := slice (s.uniS e false o.blk) 10 3

/-- The numbers of a block's argument words (wordKeys); one in a team member that has not started has none that is written. -/
def State.argKeys (s : State) (g : Group) (b : CallBlock) : List Nat :=
  (List.range b.na).map fun i => match s.scratchLoc g ((b.args + 4 * i) % 2 ^ 24) with
    | .ok (some y) => (wordKeys [⟨.bank y.1 y.2.1 y.2.2, 4⟩]).headD 0
    | _ => 2 ^ 60

/-- NCALL.B (R352, R353): `vals` holds the entry PC and the block, and `lvals` the numbers of the argument words. -/
def execNcallB (h : Hdr) (o : NcallBOps) (s : State) : Outcome :=
  let codes := (List.range 16).map fun j => 640 + o.blk + j
  .next (s.coreOnly h (s.command h codes (some o.bw) fun e bw =>
    let b : CallBlock := ⟨(List.range 16).map fun j => s.uniS e false (o.blk + j)⟩
    let ws := s.argWords e.g b
    if b.bad then s.failRead e codes 0x2163 0
    else if s.dpart b.stack ≠ s.domainOf e.g.agent then s.failRead e codes 0x2160 0
    else if b.ranges.any rangeBad then s.failRead e codes 0x2161 0
    else match ws.findSome? fun w => match w with | .error c => some c | .ok _ => none with
      | some c => s.failRead e codes c 0
      | none => s.callEntry e codes b.entry 0x2163 fun s pc =>
        s.launch e { e.op s h (.ncallB h o) with bw := bw, vals := pc :: b.regs, lvals := [(0, s.argKeys e.g b), (1, [])] }))

/-- The lanes of a block (R353, R75): lane i of the block has GLANE i. -/
def blockLanes (pc : Nat) (seed : BitVec 64) (groupId n : Nat) : List Lane :=
  (List.range n).map fun i => newLane (BitVec.ofNat 64 pc) (seed ^^^ BitVec.ofNat 64 (1024 * groupId + i)) i

/-- Admits a block on its stack, if one of its stack cores has room. An argument word that has been written since the issue, but by an
earlier store of the calling warp, is a free value (R353). -/
def State.deliverBlock (s : State) (o : Op) (g : Group) : State :=
  let b : CallBlock := ⟨o.vals.drop 1⟩
  let s := (s.cleanRanges g b.ranges).watchRanges o g b.ranges
  match s.stackRoom b.stack (newNeed b.warps b.width b.cut true b.allot) with
  | none => s
  | some x =>
    let now := (s.argWords g b).map wordOf
    let raced := (o.lvals.getD 1 (1, [])).2
    let words := (List.range b.na).map fun i =>
      if now.getD i 0 < 2 ^ 32 ∧ !raced.contains i then now.getD i 0 else s.free (740 + i) 0 % 2 ^ 32
    let seed := (s.takeOf g).elim 0 fun t => t.slate.seed
    let y := { newGroup s.nextGid g.take (.block o.id) g.groupId 0 b.warps b.width b.cut s.nextOrder s.fresh b.allot true
        (blockLanes (o.vals.headD 0) seed g.groupId (b.warps * b.width)) with
      s := NMap.putAll 0 [] (words.mapIdx fun i w => (i, BitVec.ofNat 32 w))
      caller := g.agent }
    let s := s.addGroup (s.seat y (.stackCore x.1) x.2)
    (s.performed o.id).modOp o.id fun p => { p with at_ := .delivered }

/-- NCALL_B_DELIVER (R159 steps 1 to 3, R353). -/
def execNcallBDeliver (op : Nat) (s : State) : Outcome :=
  .next (match s.findOp op with
    | none => s
    | some o => match o.instr, s.findGroup o.gid with
      | .ncallB _ _, some g => if o.at_ = .issued ∧ o.after = [] then s.deliverBlock o g else s
      | _, _ => s)

/-- Whether a group has nothing left to do: its warps are gone and so are the operations that it issued (R44). -/
def State.idleGroup (s : State) (g : Group) : Bool := g.warps.isEmpty && s.ops.all fun o => o.gid != g.gid

/-- NCALL_B_COMPLETE (R353): the block's last warp has retired; steps 5 and 6 of R159 take place, the pseudo-channels that it opened close
(R175), and the arrival is due. -/
def execNcallBComplete (gid : Nat) (s : State) : Outcome :=
  .next (match s.findGroup gid with
    | none => s
    | some y => match y.kind with
      | .block op => match s.findOp op with
        | none => s
        | some o => match s.findGroup o.gid with
          | none => s
          | some g =>
            if s.idleGroup y then
              let s := (s.dropRanges g (s.callMoved o gid) (CallBlock.ranges ⟨o.vals.drop 1⟩)).spoilRaced op
              let s := s.watch ⟨g.gid, none, [], o.bw.map Prod.fst, o.dsts⟩
              let s := s.dropWatches fun k => k == gid
              ({ s with
                groups := s.groups.filter fun k => k.gid != gid
                channels := s.channels.filter fun c => c.owner != gid }).modOp op fun p => { p with at_ := .ready }
            else s
      | _ => s)

/-! ### The return trap (R165 to R167, R473) -/

/-- The group that called a gathered warp or a block. -/
def State.callerOf (s : State) (g : Group) : Option Group :=
  match g.kind with
  | .kernel => none
  | .block op | .gathered op => (s.findOp op).bind fun o => s.findGroup o.gid

/-- A moved time: what lay `t` clocks back or ahead of one count lies so of the other (R160). -/
def moveTime (old new t : Nat) : Nat := new + t - old

/-- A group's times counted from another clock. -/
def State.rebase (s : State) (gid old new : Nat) : State :=
  ({ s with ops := s.ops.map fun (o : Op) => if o.gid = gid then { o with due := o.due.map (moveTime old new) } else o }).modGroup gid
    fun g => { g with warps := g.warps.map fun (w : Warp) =>
      { w with last := w.last.map (moveTime old new), until_ := moveTime old new w.until_ } }

/-- Whether a trapping group may leave its stack core: a gathered warp, or every warp of a block, has its flags at 0. -/
def Group.mayMove (g : Group) : Bool :=
  g.onStack && g.kind != .kernel && (g.warps.any fun w => w.halt == .trapping) && g.warps.all Warp.clear

/-- RETURN_TRAP (R165 steps 1 to 3, R166, R473): the state leaves for the calling core. -/
def execReturnTrap (gid wid : Nat) (s : State) : Outcome :=
  .next (match s.findGroup gid with
    | none => s
    | some g =>
      if g.mayMove && (g.findWarp wid).any fun w => w.halt == .trapping then
        let off := 0x20040 + 8 * g.stackNo
        let s := s.setField off 0 32 (s.field off 0 32 + 1)
        let old := s.now g
        let core := (s.callerOf g).elim g.caller Group.agent
        let s := s.modGroup gid fun g => { g with place := .toCore core, spans := [] }
        s.rebase gid old ((s.findGroup gid).elim 0 s.now)
      else s)

/-- The core on which a moved group is placed: that of its caller, wherever that is now. -/
def State.moveTarget (s : State) (g : Group) : Option Nat :=
  match g.place, s.callerOf g with
  | .toCore _, some c => match c.place with
    | .core k => some k
    | _ => none
  | _, _ => none

/-- The declared ranges of the call that a group runs for. -/
def State.callRanges (s : State) (g : Group) : List Nat :=
  match g.kind with
  | .kernel => []
  | .gathered k => ((s.findOp k).map fun o => [o.vals.getD 1 0]).getD []
  | .block k => ((s.findOp k).map fun o => CallBlock.ranges ⟨o.vals.drop 1⟩).getD []

/-- The call that a group runs for. -/
def State.callOf (s : State) (g : Group) : Option Op :=
  match g.kind with
  | .kernel => none
  | .gathered k | .block k => s.findOp k

/-- RETURN_TRAP_PLACE (R165 steps 4 and 5, R166): the group stands on the core, and its warps go on. Its work on the stack core is over, so
the declared ranges' L2 lines are dropped (step 5 of R159, which R167 has repeated at the end), those that another callee of the call has
written from a core being cleaned first, and the core's L1 keeps nothing of before. -/
def execReturnTrapPlace (gid : Nat) (s : State) : Outcome :=
  .next (match s.findGroup gid with
    | none => s
    | some g => match s.moveTarget g with
      | none => s
      | some c => match s.placeOn c g.need with
        | none => s
        | some spans =>
          let old := s.now g
          let s := s.dropRanges ((s.callerOf g).getD g) ((s.callOf g).any fun o => o.ctr == 1) (s.callRanges g)
          let s := (s.callOf g).elim s fun o => s.modOp o.id fun p => { p with ctr := 1 }
          let s := (s.invalidateL1 c).renew.modGroup gid fun g =>
            let y := s.seat g (.core c) spans
            { y with warps := y.warps.map fun (w : Warp) => if w.halt = .trapping then { w with halt := .run } else w }
          s.rebase gid old ((s.findGroup gid).elim 0 s.now))

end Sys2Proof.Machine
end

