-- ==== Sys2Proof/Machine/Crypto.lean ====
section
/-!
DEFINITION. The functions that R497 names and leaves to their standards: SHA-384 (FIPS 180-4), and the check of an ECDSA signature over the
384-bit brainpool curve of RFC 5639 in its random-parameter form, brainpoolP384r1 (PRESUMED from those standards, assumption 65).
-/

namespace Sys2Proof.Machine

/-! ### SHA-384 -/

/-- The first 64 bits of the fractional parts of the cube roots of the first eighty primes. -/
def shaK0 : List Nat :=
  [0x428a2f98d728ae22, 0x7137449123ef65cd, 0xb5c0fbcfec4d3b2f, 0xe9b5dba58189dbbc, 0x3956c25bf348b538,
   0x59f111f1b605d019, 0x923f82a4af194f9b, 0xab1c5ed5da6d8118, 0xd807aa98a3030242, 0x12835b0145706fbe,
   0x243185be4ee4b28c, 0x550c7dc3d5ffb4e2, 0x72be5d74f27b896f, 0x80deb1fe3b1696b1, 0x9bdc06a725c71235,
   0xc19bf174cf692694, 0xe49b69c19ef14ad2, 0xefbe4786384f25e3, 0x0fc19dc68b8cd5b5, 0x240ca1cc77ac9c65]

def shaK1 : List Nat :=
  [0x2de92c6f592b0275, 0x4a7484aa6ea6e483, 0x5cb0a9dcbd41fbd4, 0x76f988da831153b5, 0x983e5152ee66dfab,
   0xa831c66d2db43210, 0xb00327c898fb213f, 0xbf597fc7beef0ee4, 0xc6e00bf33da88fc2, 0xd5a79147930aa725,
   0x06ca6351e003826f, 0x142929670a0e6e70, 0x27b70a8546d22ffc, 0x2e1b21385c26c926, 0x4d2c6dfc5ac42aed,
   0x53380d139d95b3df, 0x650a73548baf63de, 0x766a0abb3c77b2a8, 0x81c2c92e47edaee6, 0x92722c851482353b]

def shaK2 : List Nat :=
  [0xa2bfe8a14cf10364, 0xa81a664bbc423001, 0xc24b8b70d0f89791, 0xc76c51a30654be30, 0xd192e819d6ef5218,
   0xd69906245565a910, 0xf40e35855771202a, 0x106aa07032bbd1b8, 0x19a4c116b8d2d0c8, 0x1e376c085141ab53,
   0x2748774cdf8eeb99, 0x34b0bcb5e19b48a8, 0x391c0cb3c5c95a63, 0x4ed8aa4ae3418acb, 0x5b9cca4f7763e373,
   0x682e6ff3d6b2b8a3, 0x748f82ee5defb2fc, 0x78a5636f43172f60, 0x84c87814a1f0ab72, 0x8cc702081a6439ec]

def shaK3 : List Nat :=
  [0x90befffa23631e28, 0xa4506cebde82bde9, 0xbef9a3f7b2c67915, 0xc67178f2e372532b, 0xca273eceea26619c,
   0xd186b8c721c0c207, 0xeada7dd6cde0eb1e, 0xf57d4f7fee6ed178, 0x06f067aa72176fba, 0x0a637dc5a2c898a6,
   0x113f9804bef90dae, 0x1b710b35131c471b, 0x28db77f523047d84, 0x32caab7b40c72493, 0x3c9ebe0a15c9bebc,
   0x431d67c49c100d4c, 0x4cc5d4becb3e42b6, 0x597f299cfc657e2a, 0x5fcb6fab3ad6faec, 0x6c44198c4a475817]

def shaK : List Nat := shaK0 ++ shaK1 ++ shaK2 ++ shaK3

/-- The first 64 bits of the fractional parts of the square roots of the ninth to the sixteenth prime. -/
def shaStart : List Nat :=
  [0xcbbb9d5dc1059ed8, 0x629a292a367cd507, 0x9159015a3070dd17, 0x152fecd8f70e5939, 0x67332667ffc00b31,
   0x8eb44a8768581511, 0xdb0c2e0d64f98fa7, 0x47b5481dbefa4fa4]

/-- A number modulo 2^64, and its rotation to the right. -/
def word64 (x : Nat) : Nat := x % 2 ^ 64
def rotr64 (x n : Nat) : Nat := x >>> n ||| word64 (x <<< (64 - n))

/-- The sixteen words of a block that precede the next word of the schedule, newest first. -/
def shaNext (w : List Nat) : Nat :=
  let x := w.getD 1 0
  let y := w.getD 14 0
  word64 (w.getD 15 0 + (rotr64 y 1 ^^^ rotr64 y 8 ^^^ y >>> 7) + w.getD 6 0 + (rotr64 x 19 ^^^ rotr64 x 61 ^^^ x >>> 6))

/-- The message schedule: the block's words and the 64 that follow, newest first. -/
def shaWords : Nat → List Nat → List Nat
  | 0, w => w
  | n + 1, w => shaWords n (shaNext w :: w)

/-- One round on the eight working words. -/
def shaRound (v : List Nat) (k : Nat × Nat) : List Nat :=
  match v with
  | [a, b, c, d, e, f, g, h] =>
    let t := h + (rotr64 e 14 ^^^ rotr64 e 18 ^^^ rotr64 e 41) + ((e &&& f) ^^^ ((2 ^ 64 - 1 - e) &&& g)) + k.1 + k.2
    let u := (rotr64 a 28 ^^^ rotr64 a 34 ^^^ rotr64 a 39) + ((a &&& b) ^^^ (a &&& c) ^^^ (b &&& c))
    [word64 (t + u), a, b, c, word64 (d + t), e, f, g]
  | v => v

/-- Bytes as a number, the first byte highest. -/
def ofBytesBE (xs : List Byte) : Nat := xs.foldl (fun n x => 256 * n + x.toNat) 0

/-- A number as `n` bytes, the highest first. -/
def toBytesBE (n x : Nat) : List Byte := (List.range n).map fun i => BitVec.ofNat 8 (x / 2 ^ (8 * (n - 1 - i)))

/-- One block of 128 bytes. -/
def shaBlock (v : List Nat) (block : List Byte) : List Nat :=
  let w := (List.range 16).map fun i => ofBytesBE ((block.drop (8 * i)).take 8)
  List.zipWith (fun x y => word64 (x + y)) v ((shaK.zip (shaWords 64 w.reverse).reverse).foldl shaRound v)

/-- A message with its padding: a 1 bit, zeros, and its length in bits as 16 bytes. -/
def shaPad (xs : List Byte) : List Byte :=
  xs ++ [0x80] ++ List.replicate ((239 - xs.length % 128) % 128) 0 ++ toBytesBE 16 (8 * xs.length)

/-- Whole blocks of 128 bytes. -/
def shaBlocks : Nat → List Byte → List Nat → List Nat
  | 0, _, v => v
  | n + 1, xs, v => shaBlocks n (xs.drop 128) (shaBlock v (xs.take 128))

/-- SHA-384 (R497): 48 bytes. -/
def sha384 (xs : List Byte) : List Byte :=
  ((shaBlocks ((shaPad xs).length / 128) (shaPad xs) shaStart).take 6).flatMap (toBytesBE 8)

/-! ### The curve -/

/-- The prime of the field, the coefficients of the curve, its generator and the generator's order. -/
def curveP : Nat :=
  0x8cb91e82a3386d280f5d6f7e50e641df152f7109ed5456b412b1da197fb71123acd3a729901d1a71874700133107ec53
def curveA : Nat :=
  0x7bc382c63d8c150c3c72080ace05afa0c2bea28e4fb22787139165efba91f90f8aa5814a503ad4eb04a8c7dd22ce2826
def curveB : Nat :=
  0x4a8c7dd22ce28268b39b55416f0447c2fb77de107dcd2a62e880ea53eeb62d57cb4390295dbc9943ab78696fa504c11
def curveG : Nat × Nat :=
  (0x1d1c64f068cf45ffa2a63a81b7c13f6b8847a3e77ef14fe3db7fcafe0cbd10e8e826e03436d646aaef87b2e247d4af1e,
   0x8abe1d7520f9c2a45cb1eb8e95cfd55262b70b29feec5864e19c054ff99129280e4646217791811142820341263c5315)
def curveN : Nat :=
  0x8cb91e82a3386d280f5d6f7e50e641df152f7109ed5456b31f166e6cac0425a7cf3ab6af6b7fc3103b883202e9046565

/-- A power modulo `m`, of an exponent of at most `fuel` bits. -/
def powMod (m : Nat) : Nat → Nat → Nat → Nat
  | 0, _, _ => 1
  | fuel + 1, x, e =>
    let h := powMod m fuel (x * x % m) (e / 2)
    if e % 2 = 1 then x * h % m else h

/-- The inverse modulo a prime of 384 bits. -/
def invMod (m x : Nat) : Nat := powMod m 384 (x % m) (m - 2)

/-- The sum of two points; none is the point at infinity. -/
def curveAdd : Option (Nat × Nat) → Option (Nat × Nat) → Option (Nat × Nat)
  | none, q => q
  | p, none => p
  | some (x, y), some (u, v) =>
    if x = u ∧ (y + v) % curveP = 0 then none
    else
      let l := if x = u then (3 * x * x + curveA) * invMod curveP (2 * y) % curveP
        else (v + curveP - y) * invMod curveP (u + curveP - x) % curveP
      let w := (l * l + 2 * curveP - x - u) % curveP
      some (w, (l * (x + curveP - w) + curveP - y) % curveP)

/-- A multiple of a point by a number of at most `fuel` bits. -/
def curveMul : Nat → Nat → Option (Nat × Nat) → Option (Nat × Nat)
  | 0, _, _ => none
  | fuel + 1, k, q =>
    let h := curveMul fuel (k / 2) (curveAdd q q)
    if k % 2 = 1 then curveAdd q h else h

/-- Whether a pair is a point of the curve. -/
def onCurve (x y : Nat) : Bool := decide (x < curveP) && decide (y < curveP) && (y * y) % curveP == (x * x * x + curveA * x + curveB) % curveP

/-- Whether an ECDSA signature over a message verifies under a public key (R497): `key` is 0x04, x, y and `sig` is r, s. -/
def ecdsaVerifies (key msg sig : List Byte) : Bool :=
  let x := ofBytesBE ((key.drop 1).take 48)
  let y := ofBytesBE ((key.drop 49).take 48)
  let r := ofBytesBE (sig.take 48)
  let t := ofBytesBE ((sig.drop 48).take 48)
  let w := invMod curveN t
  let z := ofBytesBE (sha384 msg)
  key.headD 0 == 4 && onCurve x y && decide (1 ≤ r) && decide (r < curveN) && decide (1 ≤ t) && decide (t < curveN) &&
    (match curveAdd (curveMul 384 (z * w % curveN) (some curveG)) (curveMul 384 (r * w % curveN) (some (x, y))) with
      | none => false
      | some p => p.1 % curveN == r)

end Sys2Proof.Machine
end

