-- ==== Sys2Proof/Machine/Near.lean ====
section
/-!
DEFINITION. The base-die reduce unit (R173, R186 to R188, R354, R355: XRED and XPREF) and the bank units (R106, R175, R176,
R356 to R359).
-/

namespace Sys2Proof.Machine

/-! ### Accesses of the reduce unit (R149, R354, R454) -/

/-- The 32 KiB granule of an address translated at the issue of a command of the reduce unit: `lane` holds the kind of access and, 4 times,
the code of a failure. -/
def State.rowTrans (s : State) (g : Group) (va : Nat) (k : AccKind) : State × Acc :=
  let r := s.translateFor g va k
  (r.1, match r.2 with
    | .error c => ⟨k.code + 4 * c, [], va⟩
    | .ok t => ⟨k.code, [⟨.mem t.a t.pg, 1⟩], va⟩)

/-- The translations at issue of all granules of ranges (R454). -/
def State.rowTranses (s : State) (g : Group) (rs : List (Nat × Nat × AccKind)) : State × List Acc :=
  (rs.flatMap fun r => (granuleStarts r.1 (min r.2.1 (2 ^ 52 - r.1))).map fun va => (va, r.2.2)).foldl (fun (r : State × List Acc) x =>
    if r.2.any fun a => a.lane % 4 == x.2.code && a.va / 2 ^ 15 == x.1 / 2 ^ 15 then r
    else
      let q := r.1.rowTrans g x.1 x.2
      (q.1, r.2 ++ [q.2])) (s, [])

/-- What the issue of an operation has translated an address to, if it has. -/
def Op.transAt (o : Op) (va : Nat) (k : AccKind) : Option (Except Nat Trans) :=
  (o.accs.find? fun a => a.lane % 4 == k.code && a.va / 2 ^ 15 == va / 2 ^ 15).map fun a => match a.units with
    | [⟨.mem c pg, _⟩] => .ok ⟨cellOf pg.place (pg.phys c / 2 ^ 15 * 2 ^ 15 + va % 2 ^ 15), pg⟩
    | _ => .error (a.lane / 4)

/-- The cell of an access of the unit of stack `m`: a page placed stack on that stack, else status 0x2165. What the operands name has been
translated at issue, and what the unit reads names the rest, which the issuing core's TLB serves (R454; assumption 64). -/
def State.nearCell (s : State) (g : Group) (o : Op) (m va : Nat) (k : AccKind) : State × Except Nat Trans :=
  if 2 ^ 52 ≤ va then (s, .error 0x2142)
  else
    let r := match o.transAt va k with
      | some x => (s, x)
      | none => s.translateFor g va k
    (r.1, match r.2 with
      | .error c => .error c
      | .ok t => if t.pg.place = 1 ∧ t.pg.stack = m then .ok t else .error 0x2165)

/-- Reads one piece of at most 8 bytes beneath the L2. -/
def State.nearPiece (s : State) (g : Group) (o : Op) (m : Nat) (p : Nat × Nat) : State × Nat × Option Fail :=
  let r := s.nearCell g o m p.1 .read
  match r.2 with
  | .error c => (r.1, 0, some (s.failAt g c p.1))
  | .ok t =>
    let u : MUnit := ⟨.mem t.a t.pg, p.2⟩
    let q := r.1.readUnit .below u
    (q.1, q.2.1, if q.2.2 then some (0x3301, p.1, u.trace) else none)

/-- Reads pieces beneath the L2: the bytes as one number, and the first failure. -/
def State.nearReads (s : State) (g : Group) (o : Op) (m : Nat) : List (Nat × Nat) → State × Nat × Option Fail
  | [] => (s, 0, none)
  | p :: ps =>
    let r := s.nearPiece g o m p
    let q := r.1.nearReads g o m ps
    (q.1, r.2.1 + 2 ^ (8 * p.2) * q.2.1, r.2.2 <|> q.2.2)

def State.nearRead (s : State) (g : Group) (o : Op) (m va n : Nat) : State × Nat × Option Fail := s.nearReads g o m (pieces 8 n va n)

/-- Writes one piece of at most 8 bytes beneath the L2; one that lies elsewhere is not written. -/
def State.nearPut (s : State) (g : Group) (o : Op) (m va n x : Nat) : State × Option Fail :=
  let r := s.nearCell g o m va .write
  match r.2 with
  | .error c => (r.1, some (s.failAt g c va))
  | .ok t =>
    if (r.1.takeOf g).any fun k => k.refuses t.pg then (r.1, some (0x21D0, va, 0, 0))
    else (((r.1.copyAll g.take [.mem t.a t.pg]).writeUnit .below ⟨.mem t.a t.pg, n⟩ x).noteRaces (some g.gid) [(t.a, n)], none)

/-- Writes pieces beneath the L2: the first failure. -/
def State.nearWrites (s : State) (g : Group) (o : Op) (m : Nat) : List (Nat × Nat × Nat) → State × Option Fail
  | [] => (s, none)
  | (va, n, x) :: ps =>
    let w := s.nearPut g o m va n x
    let q := w.1.nearWrites g o m ps
    (q.1, w.2 <|> q.2)

def State.nearWrite (s : State) (g : Group) (o : Op) (m va n x : Nat) : State × Option Fail :=
  let r := s.nearWrites g o m (withValues (pieces 8 n va n) x)
  (r.1.coverSectors g .below va n, r.2)

/-! ### The block of XRED and XPREF (R354, R355) -/

structure RowBlock where
  regs : List Nat

def RowBlock.reg (b : RowBlock) (i : Nat) : Nat := b.regs.getD i 0
def RowBlock.pair (b : RowBlock) (i : Nat) : Nat := b.reg i + 2 ^ 32 * b.reg (i + 1)
def RowBlock.map_ (b : RowBlock) : Nat := b.pair 0
def RowBlock.dest (b : RowBlock) : Nat := b.pair 2
def RowBlock.miss (b : RowBlock) : Nat := b.pair 4
def RowBlock.len (b : RowBlock) : Nat := slice (b.reg 6) 0 12
/-- Bytes of a row's element: BF16 or FP32. -/
def RowBlock.rsize (b : RowBlock) : Nat := if bitAt (b.reg 6) 12 then 4 else 2
def RowBlock.dsize (b : RowBlock) : Nat := if bitAt (b.reg 6) 13 then 4 else 2
def RowBlock.op (b : RowBlock) : Nat := slice (b.reg 6) 14 2
def RowBlock.stack (b : RowBlock) : Nat := slice (b.reg 6) 16 3

/-- What R354 refuses with 0x2165. -/
def RowBlock.badXred (b : RowBlock) : Bool :=
  b.len == 0 || b.op == 3 || slice (b.reg 6) 19 13 != 0 || b.reg 7 != 0 || b.dest % b.dsize != 0 || b.miss % 8 != 0

/-- What R355 refuses. -/
def RowBlock.badXpref (b : RowBlock) : Bool :=
  b.len == 0 || slice (b.reg 6) 13 3 != 0 || slice (b.reg 6) 19 13 != 0 || b.reg 7 != 0 || b.miss != 0

/-- The ranges that the operands of XRED and XPREF name (R454). -/
def RowBlock.named (b : RowBlock) (i : Instr) (ixs : List Nat) : List (Nat × Nat × AccKind) :=
  let ofMap (k : AccKind) : List (Nat × Nat × AccKind) := ixs.map fun ix => (b.map_ + 8 * ix, 8, k)
  match i with
  | .xred _ _ => ofMap .read ++ [(b.dest, b.len * b.dsize, .write)] ++
      (if b.miss = 0 then [] else [(b.miss, 8 + 8 * ixs.length, .write)])
  | _ => ofMap .read ++ ofMap .write ++ [(b.dest, 16, .read), (b.dest, 4, .write)]

/-- XRED and XPREF as they issue: `vals` holds the block, `lvals` the indices in ascending lane id, and `accs` the translations. -/
def State.issueRows (s : State) (h : Hdr) (i : Instr) (o : XredOps) (bad : RowBlock → Bool) : State :=
  let args := [Arg.v .i32 o.vi]
  s.command h ((List.range 8).map (fun j => 640 + o.blk + j) ++ args.flatMap Arg.codes) (some o.bw) fun e bw =>
    let b : RowBlock := ⟨(List.range 8).map fun j => s.uniS e false (o.blk + j)⟩
    let rows := s.rows e args []
    let wrong := badTags args rows
    if !wrong.isEmpty then s.fail e 0x2130 wrong 0
    else if bad b then s.failRead e ((List.range 8).map fun j => 640 + o.blk + j) 0x2165 0
    else s.reaching e (bw.toList.map fun w => (w.1, 8, .write)) fun s =>
      let r := s.rowTranses e.g (b.named i (rows.map Row.fst))
      (r.1.addOp { e.op r.1 h i with
        bw := bw
        vals := b.regs
        lvals := rows.map fun r => (r.1, [r.fst])
        accs := r.2
        early := rows.any fun r => r.haz || e.lost.contains r.1
        after := r.1.engineAfter e.w.wid e.g.gid r.1.nextOp [] [] }).renew

def execXred (h : Hdr) (o : XredOps) (s : State) : Outcome := .next (s.issueRows h (.xred h o) o RowBlock.badXred)
def execXpref (h : Hdr) (o : XredOps) (s : State) : Outcome := .next (s.issueRows h (.xpref h o) o RowBlock.badXpref)

/-! ### What XRED does (R173, R187, R354) -/

/-- An entry of the row map (R186): its state and the row's address; none where it is invalid. -/
def rowEntry (e : Nat) : Option (Nat × Nat) :=
  if slice e 2 5 != 0 || slice e 52 12 != 0 || slice e 0 2 == 3 then none else some (slice e 0 2, slice e 7 45 * 128)

/-- An element of a row as an FP32 code: BF16 is converted exactly. -/
def rowElem (size row j : Nat) : Nat := if size = 2 then slice row (16 * j) 16 * 2 ^ 16 else slice row (32 * j) 32

/-- One step of the combination (R173). The larger of two zeros is +0, as R268 orders them. -/
def xredStep (op x y : Nat) : Nat :=
  if op = 1 then (if (fval x).isNan || (fval y).isNan then fp32.nanCode else fminCode true x y)
  else (fadd32 .rn x y).code

/-- A value divided exactly by a count. -/
def FVal.divN (n : Nat) : FVal → FVal
  | .fin s a b => .fin s a (b * n)
  | v => v

/-- The combined value of an element, rounded into the destination format. -/
def xredOut (op dsize count : Nat) (rows : List Nat) : Nat :=
  match rows with
  | [] => 0
  | x :: xs =>
    let v := fval (xs.foldl (xredStep op) x)
    (roundTo (if dsize = 2 then Ty.fmt .bf16 else fp32) .rn false false 0 (if op = 2 then FVal.divN count v else v)).code

/-- The index list of an operation, with positions. -/
def Op.indices (o : Op) : List (Nat × Nat) := o.lvals.mapIdx fun i x => (i, x.2.headD 0)

/-- A transfer served from the units that an operation has read: its bytes, what its units met (0 nothing, 1 a failure, 2 poison), and
the units that follow; or the units that are still to be read. A unit stands in `got` with its bytes, and what it met above them. -/
def takeGot : List (Nat × Nat) → List (Nat × Nat × Nat) → Except (List (Nat × Nat)) (Nat × Nat × List (Nat × Nat × Nat))
  | [], got => .ok (0, 0, got)
  | p :: ps, [] => .error (p :: ps)
  | (_, n) :: ps, (_, _, v) :: got => match takeGot ps got with
    | .error e => .error e
    | .ok (x, m, rest) => .ok (v % 2 ^ (8 * n) + 2 ^ (8 * n) * x, max (v / 2 ^ (8 * n)) m, rest)

/-- The units of a row-map entry and of a row. -/
def RowBlock.entryUnits (b : RowBlock) (ix : Nat) : List (Nat × Nat) := pieces 8 8 (b.map_ + 8 * ix) 8
def RowBlock.rowUnits (b : RowBlock) (va : Nat) : List (Nat × Nat) := pieces 8 (b.len * b.rsize) va (b.len * b.rsize)

/-- What the units that XRED has read say of an index list: the rows in HBM4E, the misses, and whether a row was consumed (R130); or the units
that come next. -/
def RowBlock.gather (b : RowBlock) : List (Nat × Nat) → List (Nat × Nat × Nat) →
    Except (List (Nat × Nat)) (List Nat × List (Nat × Nat) × Bool)
  | [], _ => .ok ([], [], false)
  | (pos, ix) :: xs, got => match takeGot (b.entryUnits ix) got with
    | .error ps => .error ps
    | .ok (e, m, got) => match m, rowEntry e with
      | 0, some (1, va) => match takeGot (b.rowUnits va) got with
        | .error ps => .error ps
        | .ok (row, m, got) => (b.gather xs got).map fun q => (if m = 0 then row :: q.1 else q.1, q.2.1, m == 2 || q.2.2)
      | 0, some _ => (b.gather xs got).map fun q => (q.1, (ix, pos) :: q.2.1, q.2.2)
      | _, _ => b.gather xs got

/-- The first entry that XRED has read and that is invalid (R186). -/
def RowBlock.invalid (b : RowBlock) : List (Nat × Nat) → List (Nat × Nat × Nat) → Option Nat
  | [], _ => none
  | (_, ix) :: xs, got => match takeGot (b.entryUnits ix) got with
    | .error _ => none
    | .ok (e, m, got) => match m, rowEntry e with
      | 0, none => some (b.map_ + 8 * ix)
      | 0, some (1, va) => match takeGot (b.rowUnits va) got with
        | .error _ => none
        | .ok (_, _, got) => b.invalid xs got
      | _, _ => b.invalid xs got

/-- XRED reads the next of its units (R137). A poisoned sector of a poison-tolerant page counts once for a transfer (R132), at its last
unit. -/
def State.rowRead (s : State) (g : Group) (o : Op) : List (Nat × Nat) → State × Op
  | [] => (s, o)
  | p :: ps =>
    let b : RowBlock := ⟨o.vals⟩
    let r := s.nearPiece g o b.stack p
    let met := r.2.2.elim 0 fun f => if f.1 = 0x3301 then 2 else 1
    let q := { o.noting r.2.2 with got := o.got ++ [(p.1, p.2, r.2.1 % 2 ^ (8 * p.2) + met * 2 ^ (8 * p.2))] }
    (if ps.head?.any fun x => x.1 / 32 == p.1 / 32 then { r.1 with regs := s.regs } else r.1,
      match b.invalid q.indices q.got with
      | some va => q.fails 0x2171 va 0 0
      | none => q)

/-- XRED reads all units that it has not read. -/
def State.rowReads (s : State) (g : Group) (o : Op) : Nat → State × Op
  | 0 => (s, o)
  | fuel + 1 => match (RowBlock.mk o.vals).gather o.indices o.got with
    | .ok _ => (s, o)
    | .error ps =>
      let r := s.rowRead g o ps
      r.1.rowReads g r.2 fuel

/-- The miss list (R187). -/
def missList (ms : List (Nat × Nat)) : Nat :=
  ms.length + (ms.mapIdx fun i x => (x.1 + 2 ^ 32 * x.2) * 2 ^ (64 * (i + 1))).sum

/-- The units that XRED writes once its rows are read: the destination and the miss list. A consumed row leaves free values in the
destination (R130). -/
def State.xredWrites (s : State) (o : Op) : List (Nat × Nat × Nat) :=
  let b : RowBlock := ⟨o.vals⟩
  match b.gather o.indices o.got with
  | .error _ => []
  | .ok (rows, ms, consumed) =>
    let data := ((List.range b.len).map fun j =>
      (if consumed then s.free (600 + j % 4) j % 2 ^ (8 * b.dsize)
       else xredOut b.op b.dsize o.lvals.length (rows.map fun row => rowElem b.rsize row j)) * 2 ^ (8 * b.dsize * j)).sum
    withValues (pieces 8 (b.len * b.dsize) b.dest (b.len * b.dsize)) data ++
      (if b.miss = 0 then [] else withValues (pieces 8 (8 + 8 * ms.length) b.miss (8 + 8 * ms.length)) (missList ms))

/-- XRED writes one unit. -/
def State.xredWrite (s : State) (g : Group) (o : Op) (w : Nat × Nat × Nat) : State × Op :=
  let r := s.nearPut g o (RowBlock.mk o.vals).stack w.1 w.2.1 w.2.2
  (r.1, { o.noting r.2 true with put := o.put ++ [w] })

/-- XRED's work: what remains of the reads, of the destination and of the miss list. -/
def State.doXred (s : State) (o : Op) (g : Group) : State × Op :=
  let b : RowBlock := ⟨o.vals⟩
  let r := s.rowReads g o (o.lvals.length * (b.len * b.rsize / 8 + 4))
  let q := ((r.1.xredWrites r.2).drop o.put.length).foldl (fun (r : State × Op) w => r.1.xredWrite g r.2 w) (r.1.renew, r.2)
  let s := q.1.coverSectors g .below b.dest (b.len * b.dsize)
  (if b.miss = 0 then s else s.coverSectors g .below b.miss (8 + 8 * o.lvals.length), q.2)

/-- XRED reads or writes one unit ahead of the rest (R137). -/
def State.xredPart (s : State) (o : Op) (g : Group) : Option State :=
  let put := fun (r : State × Op) => r.1.modOp o.id fun _ => r.2
  match (RowBlock.mk o.vals).gather o.indices o.got with
  | .error ps => some (put (s.rowRead g o ps))
  | .ok _ => match (s.xredWrites o).drop o.put.length with
    | w :: _ :: _ => some (put (s.renew.xredWrite g o w))
    | _ => none

/-! ### What XPREF does (R188, R355) -/

/-- Reads a piece of a row of host memory for XPREF. -/
def State.hostPiece (s : State) (g : Group) (p : Nat × Nat) : State × Nat × Option Fail :=
  let r := s.translateFor g p.1 .read
  match r.2 with
  | .error c => (r.1, 0, some (s.failAt g c p.1))
  | .ok t =>
    if !isHost t.a then (r.1, 0, some (0x2165, p.1, 0, 0))
    else
      let u : MUnit := ⟨.mem t.a t.pg, p.2⟩
      let q := r.1.readUnit .home u
      (q.1, q.2.1, if q.2.2 then some (0x3301, p.1, u.trace) else none)

/-- The base-die atomic unit comes to `n` bytes of a ring: their home lines are written back and dropped (R124, R150). -/
def State.ringLines (s : State) (g : Group) (o : Op) (m va n : Nat) : State :=
  ((List.range ((va + n - 1) / 128 - va / 128 + 1)).map fun i => max va ((va / 128 + i) * 128)).foldl (fun (s : State) a =>
    let r := s.nearCell g o m a .read
    match r.2 with
    | .error _ => r.1
    | .ok t => r.1.evictLine (lineOf t.a)) s

/-- An index of XPREF is done. -/
def Op.indexDone (o : Op) : Op := { o with ctr := o.ctr + 1, got := [], put := [] }

/-- XPREF takes up an index: its entry and, where the row lies in host memory, a slot from the ring, which `got` keeps with the row's
address. An empty ring ends the command. The size, the head and a slot's alignment out of range give 0x2165, and the reserved bytes 12 to 15
of the ring are not looked at (assumption 14). -/
def State.fetchStart (s : State) (g : Group) (b : RowBlock) (o : Op) (ix : Nat) : State × Op :=
  let ring := b.dest
  let e := s.nearRead g o b.stack (b.map_ + 8 * ix) 8
  match e.2.2, rowEntry e.2.1 with
  | some f, _ => (e.1, (o.noting (some f)).indexDone)
  | none, none => (e.1, (o.fails 0x2171 (b.map_ + 8 * ix) 0 0).indexDone)
  | none, some (2, va) =>
    let h := (e.1.ringLines g o b.stack ring 16).nearRead g o b.stack ring 16
    let head := slice h.2.1 0 32
    let size := slice h.2.1 64 32
    match h.2.2 with
    | some f => (h.1, (o.noting (some f)).indexDone)
    | none =>
      if size = 0 ∨ 65536 < size ∨ size ≤ head then (h.1, (o.fails 0x2165 ring 0 0).indexDone)
      else if head = slice h.2.1 32 32 then (h.1, { o with ctr := o.lvals.length })
      else
        let t := (h.1.ringLines g o b.stack (ring + 16 + 8 * head) 8).nearRead g o b.stack (ring + 16 + 8 * head) 8
        let slot := t.2.1
        match t.2.2 with
        | some f => (t.1, (o.noting (some f)).indexDone)
        | none =>
          let a := t.1.nearCell g o b.stack slot .write
          match a.2 with
          | .error c => (a.1, (o.noting (some (s.failAt g c slot)) true).indexDone)
          | .ok _ =>
            if slot % 128 ≠ 0 then (a.1, (o.fails 0x2165 slot 0 0).indexDone)
            else
              let w := a.1.nearWrite g o b.stack ring 4 ((head + 1) % size)
              match w.2 with
              | some f => (w.1, (o.noting (some f) true).indexDone)
              | none => (w.1, { o with got := [(slot, va, 0)], put := [] })
  | none, some _ => (e.1, o.indexDone)

/-- XPREF copies one unit of a row into its slot; a poisoned one leaves undefined bytes there (R130). `put` notes what failed. -/
def State.fetchUnit (s : State) (g : Group) (b : RowBlock) (o : Op) (slot va : Nat) (p : Nat × Nat) : State × Op :=
  let d := s.hostPiece g p
  let a := slot + (p.1 - va)
  match d.2.2 with
  | some f =>
    let s := if f.1 = 0x3301 then (d.1.nearPut g o b.stack a p.2 (d.1.free 603 0 % 2 ^ (8 * p.2))).1.renew else d.1
    (s, { o.noting (some f) with put := o.put ++ [(a, p.2, 1)] })
  | none =>
    let w := d.1.nearPut g o b.stack a p.2 d.2.1
    (w.1, { o.noting w.2 true with put := o.put ++ [(a, p.2, bit w.2.isSome)] })

/-- The row is copied: its entry is written, unless a unit failed. -/
def State.fetchEnd (s : State) (g : Group) (b : RowBlock) (o : Op) (slot : Nat) : State × Op :=
  if o.put.any fun u => u.2.2 == 1 then (s, o.indexDone)
  else
    let ix := ((o.indices.map Prod.snd).eraseDups).getD o.ctr 0
    let x := (s.coverSectors g .below slot (b.len * b.rsize)).nearWrite g o b.stack (b.map_ + 8 * ix) 8 (slot + 1)
    (x.1, (o.noting x.2 true).indexDone)

/-- The next thing that XPREF does: none once every index is done. -/
def State.fetchStep (s : State) (g : Group) (o : Op) : Option (State × Op) :=
  let b : RowBlock := ⟨o.vals⟩
  match o.got with
  | (slot, va, _) :: _ => match (b.rowUnits va).drop o.put.length with
    | p :: _ => some (s.fetchUnit g b o slot va p)
    | [] => some (s.fetchEnd g b o slot)
  | [] => match ((o.indices.map Prod.snd).eraseDups).drop o.ctr with
    | [] => none
    | ix :: _ => some (s.fetchStart g b o ix)

def State.fetchSteps (s : State) (g : Group) (o : Op) : Nat → State × Op
  | 0 => (s, o)
  | fuel + 1 => match s.fetchStep g o with
    | none => (s, o)
    | some r => r.1.fetchSteps g r.2 fuel

/-- XPREF's work over the distinct indices, as far as the ring gives slots: what remains of it. -/
def State.doXpref (s : State) (o : Op) (g : Group) : State × Op :=
  let b : RowBlock := ⟨o.vals⟩
  s.fetchSteps g o (o.lvals.length * (b.len * b.rsize / 8 + 4))

/-- The cell of the ring of an XPREF. -/
def Op.ringCell (o : Op) : Option Nat := match o.instr, o.transAt (RowBlock.mk o.vals).dest .read with
  | .xpref _ _, some (.ok t) => some t.a
  | _, _ => none

/-- The XPREFs on one ring take effect one after another (R355): whether no other one on the ring has begun. -/
def State.ringFree (s : State) (o : Op) : Bool :=
  s.ops.all fun p => !(p.id != o.id && p.at_ == .issued && (p.ctr != 0 || !p.got.isEmpty) && p.ringCell.isSome && p.ringCell == o.ringCell)

/-- XPREF does one thing ahead of the rest (R137). -/
def State.xprefPart (s : State) (o : Op) (g : Group) : Option State :=
  (s.fetchStep g o).map fun r => r.1.modOp o.id fun _ => r.2

/-! ### Bank units -/

def State.findChannel (s : State) (m c : Nat) : Option Channel := s.channels.find? fun x => x.stack == m && x.pch == c

def Instr.isBank : Instr → Bool
  | .bkopen _ _ | .bkclose _ _ | .bkbcast _ _ | .bkmac _ _ | .bkread _ _ => true
  | _ => false

/-- The pseudo-channel of a bank command: `vals` opens with its stack, pseudo-channel and offset. -/
def Op.onChannel (o : Op) (gid m c : Nat) : Bool := Instr.isBank o.instr && o.gid == gid && o.vals.take 2 == [m, c]

def Instr.isBkclose : Instr → Bool
  | .bkclose _ _ => true
  | _ => false

/-- Whether a group has opened a pseudo-channel (R356): a BKOPEN of its own has taken effect (R395), and no later BKCLOSE has issued. -/
def State.hasOpened (s : State) (gid m c : Nat) : Bool :=
  (s.findChannel m c).any (fun x => x.owner == gid) && s.ops.all fun o => !(o.onChannel gid m c && Instr.isBkclose o.instr)

/-- A bank command whose address does not translate: bank units do not park (R456), so the failure is its status (R318), and on a stack core
the return trap (R163). Its destinations hold undefined values. -/
def State.bankLost (s : State) (e : Env) (h : Hdr) (i : Instr) (dst : List Nat) (bw : Option (Nat × Nat)) (code va : Nat) : State :=
  if e.g.onStack then s.returnTrap e
  else
    let o := { (e.op s h i).noting (some (s.failAt e.g code va)) with
      bw := bw
      vals := [e.g.agent / 8, 64, 0]
      writes := dst.flatMap fun c => e.act.map fun l => ⟨l, c, BitVec.ofNat 32 (s.free (740 + c) l), 8⟩
      at_ := .ready }
    ((s.addOp o).unsettle o dst).renew

/-- A bank command as it issues (R356): the tags of its sources in lanes 0 to 7, the pseudo-channel of its address, and `k` with it. An
address that was read too early raises no fault (R31): a command that then fails only leaves its destinations `dst` undefined. -/
def State.bankCommand (s : State) (h : Hdr) (i : Instr) (sa : Nat) (codes dst : List Nat) (args : List Arg) (bw : Option Bw)
    (opens : Bool) (k : State → Env → Option (Nat × Nat) → Nat → Nat → Nat → State) : State :=
  s.command h ([640 + sa, 641 + sa] ++ codes ++ dst) bw (fun e bw =>
    let va := s.uniS e true sa
    let wrong := badTags args ((s.rows e args []).filter fun r => e.id r.1 < 8)
    let early := s.early e [640 + sa, 641 + sa]
    let lost := s.undefine e (e.op s h i) dst 8
    if !wrong.isEmpty then s.fail e 0x2130 wrong 0
    else if 2 ^ 52 ≤ va then (if early then lost else s.fail e 0x2142 e.act va)
    else
      let r := s.translateFor e.g va .read
      match r.2 with
      | .error c => if early then lost else r.1.bankLost e h i dst bw c va
      | .ok t =>
        if t.pg.place ≠ 2 then (if early then lost else r.1.fail e 0x2167 e.act va)
        else if e.g.onStack && t.pg.stack != e.g.stackNo then (if early then lost else r.1.returnTrap e)
        else if !opens && !r.1.hasOpened e.g.gid t.pg.stack t.pg.pch then (if early then lost else r.1.fail e 0x2166 e.act va)
        else k r.1 e bw t.pg.stack t.pg.pch (t.a % 2 ^ 30)) fun e => s.undefineLost e (e.op s h i) dst 8

/-- A bank command in flight, behind the warp's accesses (R156). -/
def State.addBank (s : State) (e : Env) (h : Hdr) (i : Instr) (bw : Option (Nat × Nat)) (vals : List Nat) : State :=
  s.addOp { e.op s h i with bw := bw, vals := vals, after := s.engineAfter e.w.wid e.g.gid s.nextOp [] [] }

def execBkopen (h : Hdr) (o : Nat) (s : State) : Outcome :=
  .next (s.bankCommand h (.bkopen h o) o [] [] [] none true fun s e bw m c off => s.addBank e h (.bkopen h o) bw [m, c, off])

def execBkclose (h : Hdr) (o : Nat) (s : State) : Outcome :=
  .next (s.bankCommand h (.bkclose h o) o [] [] [] none false fun s e bw m c off => s.addBank e h (.bkclose h o) bw [m, c, off])

/-- The vector of BKBCAST (R357): lanes 0 to 7 of `active`, +0 elsewhere. -/
def bankVector (e : Env) (rows : List Row) : List Nat :=
  (List.range 8).flatMap fun j =>
    let x := (rows.find? fun r => e.id r.1 == j).elim 0 Row.fst
    [slice x 0 16, slice x 16 16]

def execBkbcast (h : Hdr) (o : BkbcastOps) (s : State) : Outcome :=
  let args := [Arg.v .f16 o.vs]
  .next (s.bankCommand h (.bkbcast h o) o.sa (args.flatMap Arg.codes) [] args none false fun s e bw m c off =>
    (s.addBank e h (.bkbcast h o) bw ([m, c, off] ++ bankVector e (s.rows e args []))).renew)

/-- BKMAC (R358): the control word and its limits. The word keeps its fields: waves, accumulator, XB and XSTEP (as R393 sets them). -/
def execBkmac (h : Hdr) (o : BkmacOps) (s : State) : Outcome :=
  .next (s.bankCommand h (.bkmac h o) o.sa [640 + o.sk] [] [] (some o.bw) false fun s e bw m c off =>
    let w := s.uniS e false o.sk
    if slice w 27 5 != 0 || 32767 < slice w 0 16 || slice off 0 15 != 0 || 32768 < slice off 15 15 + slice w 0 16
    then s.failRead e [640 + o.sa, 641 + o.sa, 640 + o.sk] 0x2167 0
    else s.reaching e (bw.toList.map fun w => (w.1, 8, .write)) fun s => s.addBank e h (.bkmac h o) bw [m, c, off, w])

/-- BKREAD (R359): 128 / W registers in each lane. A run that passes v639 is an encoding fault, which comes first and whatever lanes are
active (R210, R211). -/
def execBkread (h : Hdr) (o : BkreadOps) (s : State) : Outcome :=
  .next (match s.env h.guard with
    | none => s
    | some e =>
      let n := 128 / e.w.width
      let codes := (List.range n).map fun q => o.vd + q
      if 640 < o.vd + n then s.progError e.g.gid e.w.wid 0x2103 e.iss.lanes 0
      else s.bankCommand h (.bkread h o) o.sa [] codes [] none false fun s e bw m c off =>
        let op := { e.op s h (.bkread h o) with
          bw := bw, vals := [m, c, off, e.w.lane0], after := s.engineAfter e.w.wid e.g.gid s.nextOp [] [] }
        ((s.addOp op).unsettle op codes).undefineLost e op codes 8)

/-! ### Channels (R106, R175, R176) -/

/-- The number of a register of a bank: input (0) or accumulator (1) `k`, value `l`. -/
def bankKey (bank kind k l : Nat) : Nat := bank * 256 + kind * 128 + k * 16 + l

/-- A register's value; one that nothing has written is undefined. -/
def Channel.reg (x : Channel) (key : Nat) : Nat :=
  match NMap.get none x.regs key with
  | some v => v.toNat
  | none => (Config.freeWord x.undef (2 ^ 30 + key)).toNat % 2 ^ 16

def Channel.setReg (x : Channel) (key v : Nat) : Channel := { x with regs := NMap.put none x.regs key (some (BitVec.ofNat 16 v)) }

def State.setChannel (s : State) (x : Channel) : State :=
  { s with channels := s.channels.map fun y => if y.stack == x.stack && y.pch == x.pch then x else y }

/-- The operation of two FP16 values, rounded (R106). -/
def hmul16 (a b : Nat) : Nat := (roundTo (Ty.fmt .f16) .rn false false 0 ((valueTy .f16 a).mul (valueTy .f16 b))).code
def hadd16 (a b : Nat) : Nat := (roundTo (Ty.fmt .f16) .rn false false 0 ((valueTy .f16 a).add false (valueTy .f16 b))).code

/-- The banks in which a wave runs at once, as a power of two (R176). -/
def waveShare (lb h : Nat) : Nat := 2 ^ Nat.log2 (min 16 (max 1 (lb / max 1 h)))

/-- The order in which a wave takes the banks under a share. -/
def waveBanks (share : Nat) : List Nat := (List.range (16 / share)).flatMap fun i => (List.range share).map fun j => share * i + j

/-- h of R176: the pseudo-channels of a stack that are in all-bank mode. An open one counts (R398: another group that opens one gives
h = 2; R392: with no other, h = 1 at every sample). -/
def State.runningWaves (s : State) (m : Nat) : Nat := (s.channels.filter fun x => x.stack == m).length

/-- One bank's step of a wave (R358): the accumulator's 16 values. -/
def bankStep (x : Channel) (row : List Nat) (bank a xb : Nat) : Channel :=
  (List.range 16).foldl (fun (x : Channel) l =>
    x.setReg (bankKey bank 1 a l) ((List.range 64).foldl (fun acc c =>
      let i := (xb + c) % 128
      hadd16 acc (hmul16 (x.reg (bankKey bank 0 (i / 16) (i % 16))) (row.getD (16 * c + l) 0))) (x.reg (bankKey bank 1 a l)))) x

/-- Reads a row of a bank beneath the L2: its 1,024 values, and the first poisoned cell. -/
def State.readRowOf (s : State) (m c q bank : Nat) : State × List Nat × Option Nat :=
  (List.range 256).foldl (fun (r : State × List Nat × Option Nat) i =>
    let a := cellAt m c (q * 2 ^ 15 + bank * 2 ^ 11 + 8 * i)
    let t := r.1.readBelow a 8
    (t.1, r.2.1 ++ (List.range 4).map (fun j => slice t.2.1 (16 * j) 16), r.2.2 <|> if t.2.2 then some a else none)) (s, [], none)

/-- One wave of BKMAC (R176, R358): every bank in the order of its share. It reads positions XB + c of x_b, position i standing in input
register i / 16 (R393). A poisoned row leaves the bank's accumulator undefined. `lvals` notes the clock of the sample (R396). -/
def State.bankWave (s : State) (o : Op) (x : Channel) : State :=
  let m := o.vals.getD 0 0
  let c := o.vals.getD 1 0
  let w := o.vals.getD 3 0
  let a := slice w 16 3
  let row := slice (o.vals.getD 2 0) 15 15 + o.ctr
  let xb := (slice w 19 7 + 64 * o.ctr * slice w 26 1) % 128
  let share := waveShare (s.field (0x43060 + 8 * m) 0 11) (s.runningWaves m)
  let r := (waveBanks share).foldl (fun (r : State × Op × Channel) bank =>
    let d := r.1.readRowOf m c row bank
    let y := bankStep r.2.2 d.2.1 bank a xb
    match d.2.2 with
    | none => (d.1, r.2.1, y)
    | some cell => (d.1, r.2.1.fails 0x3301 0 (cellPath cell) cell, (List.range 16).foldl (fun (y : Channel) l =>
        y.setReg (bankKey bank 1 a l) (d.1.free (760 + bank) l)) y)) (s, o, x)
  let p := { r.2.1 with ctr := o.ctr + 1, lvals := [(s.counter, [])], at_ := if o.ctr + 1 = slice w 0 15 then .ready else .started }
  (r.1.renew.setChannel r.2.2).modOp o.id fun _ => p

/-- Whether a wave of an operation has sampled the bank activity limit in this clock (R396). -/
def State.sampledBy (s : State) (o : Op) : Bool :=
  o.lvals == [(s.counter, [])] && (match o.instr with
    | .bkmac _ _ => true
    | _ => false)

/-- Whether one on stack `m` has. -/
def State.sampledNow (s : State) (m : Nat) : Bool := s.ops.any fun o => o.vals.headD 0 == m && s.sampledBy o

/-- The words of accumulator k (R359). -/
def accWord (x : Channel) (k j : Nat) : Nat :=
  x.reg (bankKey (j / 8) 1 k (2 * (j % 8))) + 2 ^ 16 * x.reg (bankKey (j / 8) 1 k (2 * (j % 8) + 1))

/-- A command starts when its group's earlier ones on the pseudo-channel are done and, for BKOPEN, no other group holds it. -/
def State.mayStartBank (s : State) (o : Op) : Bool :=
  let m := o.vals.getD 0 0
  let c := o.vals.getD 1 0
  Instr.isBank o.instr && o.at_ == .issued && o.after.isEmpty &&
  (s.ops.all fun p => !(p.onChannel o.gid m c && p.seq < o.seq)) &&
  (match o.instr with
    | .bkopen _ _ => (s.findChannel m c).all fun x => x.owner == o.gid
    | _ => true)

/-- BANK_COMMAND_START (R175, R356 to R359). -/
def execBankCommandStart (op : Nat) (s : State) : Outcome :=
  .next (match s.findOp op with
    | none => s
    | some o =>
      if s.mayStartBank o then
        let m := o.vals.getD 0 0
        let c := o.vals.getD 1 0
        match o.instr, s.findChannel m c with
        | .bkopen _ _, none =>
          ({ s with channels := s.channels ++ [Channel.mk m c o.gid s.fresh []] }).renew.finishOp o
        | .bkopen _ _, some _ => s.finishOp o
        | .bkclose _ _, _ => ({ s with channels := s.channels.filter fun x => !(x.stack == m && x.pch == c) }).finishOp o
        | .bkbcast _ x, some y =>
          let v := o.vals.drop 3
          let z := (List.range 256).foldl (fun (y : Channel) i =>
            y.setReg (bankKey (i / 16) (bit x.acc) x.k.toNat (i % 16)) (v.getD (i % 16) 0)) y
          (s.setChannel z).finishOp o
        | .bkmac _ _, some _ =>
          s.modOp op fun p => { p with at_ := if slice (o.vals.getD 3 0) 0 15 = 0 then .ready else .started }
        | .bkread _ x, some y =>
          let w := o.width
          let lane0 := o.vals.getD 3 0
          let word (l q : Nat) : RegW := ⟨l, x.vd + q, BitVec.ofNat 32 (accWord y x.k.toNat (l - lane0 + w * q)), 8⟩
          s.finishOp { o with writes := o.lanes.flatMap fun l => (List.range (128 / w)).map (word l) }
        | _, _ => s
      else s)

/-- BKMAC_WAVE (R106, R176, R358). -/
def execBkmacWave (op : Nat) (s : State) : Outcome :=
  .next (match s.findOp op with
    | none => s
    | some o => match o.instr, s.findChannel (o.vals.getD 0 0) (o.vals.getD 1 0) with
      | .bkmac _ _, some x => if o.at_ = .started then s.bankWave o x else s
      | _, _ => s)

end Sys2Proof.Machine
end

