-- ==== Sys2Proof/Machine/Kv.lean ====
section
/-!
DEFINITION. KV block maps (R177 to R183): KVXLATE and KVMASK.
-/

namespace Sys2Proof.Machine

/-! ### Tables (R177 to R179) -/

def kvTokens (root : Nat) : Nat := 2 ^ slice root 0 4
def kvTable (root : Nat) : Nat := slice root 6 46 * 64
def kvLength (e : Nat) : Nat := slice e 0 32
def kvBlocks (e : Nat) : Nat := slice e 32 32
def kvList (e : Nat) : Nat := slice e 67 49 * 8
def kvState (b : Nat) : Nat := slice b 0 2
def kvAddr (b : Nat) : Nat := slice b 15 37 * 2 ^ 15

/-- Reserved fields that fault with 0x2170. -/
def badRoot (root : Nat) : Bool := slice root 4 2 != 0
def badHeader (h : Nat) : Bool := slice h 32 480 != 0
def badSeq (e : Nat) : Bool := slice e 64 3 != 0 || slice e 116 12 != 0
def badBlock (b : Nat) : Bool := slice b 2 13 != 0 || slice b 52 12 != 0 || kvState b == 3

/-- What a table read gives: bytes with their cell, a failure of the lanes that make it, or poison. -/
inductive KvRead
  | val (x cell : Nat)
  | fails (code va : Nat)
  | poison (path phys : Nat)
  deriving DecidableEq, Repr

/-- One read of a table by lanes of the warp. -/
def State.kvRead (s : State) (e : Env) (v : Via) (va n : Nat) : State × KvRead :=
  if 2 ^ 52 < va + n then (s, .fails 0x2142 va)
  else
    let r := s.transAcc e.g va .read
    match r.2 with
    | .error c => (r.1, .fails c va)
    | .ok t =>
      let q := r.1.readUnits v ((List.range (n / 8)).map fun i => ⟨.mem (t.a + 8 * i) t.pg, 8⟩)
      match q.2.2 with
      | some c => (q.1, .poison c.1 c.2)
      | none => (q.1, .val q.2.1 t.a)

/-- Reads each distinct address of a list once (R182). -/
def State.kvReads (s : State) (e : Env) (n : Nat) : List Nat → State × List (Nat × KvRead)
  | [] => (s, [])
  | a :: as =>
    let r := s.kvRead e (e.g.via 0) a n
    let q := r.1.kvReads e n as
    (q.1, (a, r.2) :: q.2)

/-- The read of an address. -/
def kvGot (rs : List (Nat × KvRead)) (a : Nat) : KvRead := (rs.find? fun x => x.1 == a).elim (.fails 0x2170 a) Prod.snd

/-- What a lane gets: its address and status, or its failure; undefined values, where what it read has been changed otherwise than R180
allows. -/
inductive KvOut
  | done (a st : Nat)
  | lost
  | fails (code va : Nat)
  | poison (path phys : Nat)
  deriving DecidableEq, Repr

/-- A lane's sequence entry address; none at or above NSEQ (R181). -/
def kvSeqAt (root nseq q : Nat) : Option Nat := if q < nseq then some (kvTable root + 64 + 16 * q) else none

/-- A lane's block entry address, where its token lies in a listed block. -/
def kvBlockAt (root x : Nat) : KvRead → Option Nat
  | .val e _ => if badSeq e || kvLength e ≤ x || kvBlocks e ≤ x / kvTokens root then none else some (kvList e + 8 * (x / kvTokens root))
  | _ => none

/-- Whether a table's 8-byte units have been written after `since` (R180). -/
def State.kvTouched (s : State) (since cell n : Nat) : Bool := (List.range (n / 8)).any fun i => decide (since < s.wordStamp (cell + 8 * i))

/-- R181's result for a lane from its two reads. `since` is when the root was published: from then on only an append may write the tables, a
block entry first and the sequence's length after it, so that a result which depends on another write is undefined (R180; assumption 53). A bad
sequence or block entry is reported without an address (assumption 57). -/
def State.kvLane (s : State) (since root x : Nat) (seq : Option KvRead) (block : Option KvRead) : KvOut :=
  match seq with
  | none => .done 0 1
  | some (.fails c va) => .fails c va
  | some (.poison p a) => .poison p a
  | some (.val e cell) =>
    if s.kvTouched since (cell + 8) 8 then .lost
    else if badSeq e then .fails 0x2170 0
    else if kvLength e ≤ x then .done 0 1
    else match block with
      | none => .done 0 2
      | some (.fails c va) => .fails c va
      | some (.poison p a) => .poison p a
      | some (.val b at_) =>
        if s.kvTouched (max since (s.wordStamp cell)) at_ 8 then .lost
        else if badBlock b then .fails 0x2170 0
        else if kvState b = 1 then .done (kvAddr b + x % kvTokens root * (32768 / kvTokens root)) 0
        else .done 0 2

/-- The lanes of a KVXLATE after the root and the header: each distinct entry is read once. -/
def State.kvLanes (s : State) (e : Env) (since root nseq : Nat) (rows : List (Nat × Nat × Nat)) : State × List (Nat × KvOut) :=
  let seqs := s.kvReads e 16 (rows.filterMap fun r => kvSeqAt root nseq r.2.1).eraseDups
  let seq := fun (r : Nat × Nat × Nat) => (kvSeqAt root nseq r.2.1).map (kvGot seqs.2)
  let at_ := fun (r : Nat × Nat × Nat) => (seq r).bind (kvBlockAt root r.2.2)
  let blocks := seqs.1.kvReads e 8 (rows.filterMap at_).eraseDups
  (blocks.1, rows.map fun r => (r.1, blocks.1.kvLane since root r.2.2 (seq r) ((at_ r).map (kvGot blocks.2))))

def kvArgs (o : KvxlateOps) : List Arg := [Arg.v .i32 o.vq, Arg.v .i32 o.vx]

/-- KVXLATE (R181, R182): the root is read as LD.acq, then the tables; the results are written at completion. A bad root or header is
reported with its address (assumption 57). A lane that read an operand too early, or a table that has been changed otherwise than R180 allows,
gets undefined values, and raises no fault (R31). -/
def execKvxlate (h : Hdr) (o : KvxlateOps) (s : State) : Outcome :=
  let dst := [o.vd, o.vd + 1, o.vt, predCode o.pd.toNat]
  .next (s.coreOnly h (s.checked h (fun _ => [o.vd, o.vd + 1, o.vt, 640 + o.root, 641 + o.root] ++ (kvArgs o).flatMap Arg.codes) (fun e =>
    let p := s.readRows e (kvArgs o)
    let bad := badTags (kvArgs o) p.2
    let ra := s.uniS e true o.root
    let early := (p.2.filter Row.haz).map Prod.fst
    let all := fun (c va : Nat) => e.act.map fun l => (l, c, va)
    if !bad.isEmpty then s.fail e 0x2130 bad 0
    else if s.early e [640 + o.root, 641 + o.root] then s.undefine e (e.op s h (.kvxlate h o)) dst 3
    else if 2 ^ 52 ≤ ra then s.fail e 0x2142 e.act ra
    else if ra % 8 ≠ 0 then s.fail e 0x2144 e.act ra
    else
      let r := s.kvRead e (if o.scope = 0 then e.g.via 0 else e.g.engineIn) ra 8
      match r.2 with
      | .fails c va => r.1.settleLanes e (all c va) false 0 fun s _ => s
      | .poison path phys => r.1.hwError e.g.take 0x3111 path phys
      | .val root cell =>
        let since := max (r.1.wordStamp cell) ((s.takeOf e.g).elim 0 Take.stamp)
        let s := r.1.acquireAt e.g o.scope.toNat
        if badRoot root then s.fail e 0x2170 e.act ra
        else
          let hd := s.kvRead e (e.g.via 0) (kvTable root) 64
          match hd.2 with
          | .fails c va => hd.1.settleLanes e (all c va) false 0 fun s _ => s
          | .poison path phys => hd.1.hwError e.g.take 0x3111 path phys
          | .val head at_ =>
            if hd.1.kvTouched since at_ 64 then hd.1.undefine e (e.op s h (.kvxlate h o)) dst 3
            else if badHeader head then hd.1.fail e 0x2170 e.act (kvTable root)
            else
              let q := hd.1.kvLanes e since root (slice head 0 32) (p.2.map fun x => (x.1, x.fst, x.snd))
              let fails := q.2.filterMap fun x => match x.2 with
                | .fails c va => if early.contains x.1 then none else some (x.1, c, va)
                | _ => none
              match q.2.findSome? fun x => match x.2 with
                | .poison path phys => if early.contains x.1 then none else some (path, phys)
                | _ => none with
              | some f => q.1.hwError e.g.take 0x3111 f.1 f.2
              | none => (q.1.settleLanes e fails false 0 fun s act =>
                if act.isEmpty then s
                else
                  let out := fun (l : Nat) =>
                    match early.contains l, (q.2.find? fun x => x.1 == l).elim .lost Prod.snd with
                      | false, .done a st => (a, st)
                      | _, _ => (s.free 730 l + 2 ^ 32 * s.free 731 l, s.free 732 l)
                  let ws := act.flatMap fun l =>
                    regWrites true (.v o.vd) l ⟨(out l).1, 3, 3, 0⟩ ++ regWrites false (.v o.vt) l ⟨(out l).2, 2, 2, 0⟩ ++
                    [predWrite l o.pd.toNat ((out l).2 == 2)]
                  let op := { e.op s h (.kvxlate h o) with lanes := act, writes := ws }
                  ((s.addOp op).unsettle op dst).renew).undefineLost e (e.op s h (.kvxlate h o)) dst 3) fun e =>
      s.undefineLost e (e.op s h (.kvxlate h o)) dst 3))

def kvmaskArgs (o : KvmaskOps) : List Arg := [Arg.reg .i32 o.vl, Arg.reg .i32 o.vb]

/-- KVMASK (R183). -/
def execKvmask (h : Hdr) (o : KvmaskOps) (s : State) : Outcome :=
  .next (s.fixed h (.kvmask h o) (regCodes false o.d) (kvmaskArgs o) (fun _ => 4) fun s e rows =>
    let T := 2 ^ o.logt.toNat
    let lane := fun (r : Row) => e.id r.1 + e.w.width * o.k.toNat
    (s.regOut false o.d (fun r => .of ((r.fst + T - 1) / T) 2) rows ++
      s.predOut o.pd.toNat (fun r => decide (lane r < T) && decide (r.snd * T + lane r < r.fst)) rows, []))

end Sys2Proof.Machine
end

