-- ==== Sys2Proof/Machine/Fabric.lean ====
section
/-!
DEFINITION. Fabric operations (R360 to R362, R485): FCOPY, FREDUCE and FSEM as they issue, what their acknowledgements do, and
the signal of FSEM. What the peer does is not this device's; its answers come from outside.
-/

namespace Sys2Proof.Machine

/-! ### Fabric addresses and peer entries (R360, R485) -/

def fabPeer (a : Nat) : Nat := slice a 52 10
def fabVa (a : Nat) : Nat := slice a 0 52

/-- The peer table of a group's context. -/
def State.peerTab (s : State) (g : Group) : Nat := (s.findCtx (s.ctxOf g)).elim 0 fun c => c.peertab.toNat

/-- The fault of a fabric address at issue. -/
def State.fabFault (s : State) (g : Group) (a : Nat) : Option Nat :=
  if slice a 62 2 != 0 then some 0x21B0 else if slice (s.peerTab g) 52 10 ≤ fabPeer a then some 0x21B1 else none

/-- An invalid peer entry (R360, R485). -/
def badPeer (e : Nat) : Bool := slice e 22 10 != 0 || slice e 56 72 != 0 || slice e 32 24 == 0

/-- The fabric engine reads a peer entry (R360): the entry, and the status that a failure gives. It reads any mapped page, for a stack
core too (R161), and at the home slice, as engine reads do (R124, R139). -/
def State.peerEntry (s : State) (g : Group) (a : Nat) : State × Nat × Option Fail :=
  let va := slice (s.peerTab g) 4 48 * 16 + 16 * fabPeer a
  let r := s.translateFor g va .read
  match r.2 with
  | .error c => (r.1, 0, some (if c / 4096 = 3 then s.failAt g c va else (0x21B1, va, 0, 0)))
  | .ok t =>
    let q := r.1.readUnits .home [⟨.mem t.a t.pg, 8⟩, ⟨.mem (t.a + 8) t.pg, 8⟩]
    (q.1, q.2.1, match q.2.2 with
      | some c => some (0x3112, va, c)
      | none => if badPeer q.2.1 then some (0x21B1, va, 0, 0) else none)

/-! ### FCOPY and FREDUCE (R360, R361) -/

/-- A fabric copy as it issues. `vals` holds the local address, the fabric address, the bytes, the peer entry once it is read, and one more
than the last local sector that has received poison or missed a unit; `ctr` counts the 8-byte units that are done. A unit past the end of
the address space fails on its own. -/
def State.fabricCopy (s : State) (h : Hdr) (i : Instr) (blk : Nat) (bw : Bw) (k : AccKind) : State :=
  let codes := (List.range 8).map fun j => 640 + blk + j
  s.command h codes (some bw) fun e bw =>
    let la := s.uniS e true blk
    let fa := s.uniS e true (blk + 2)
    let n := s.uniS e false (blk + 4)
    if s.uniS e false (blk + 5) ≠ 0 ∨ s.uniS e false (blk + 6) ≠ 0 ∨ s.uniS e false (blk + 7) ≠ 0 then s.failRead e codes 0x2101 0
    else if 2 ^ 52 ≤ la then s.failRead e codes 0x2142 la
    else if n % 16 ≠ 0 ∨ n = 0 ∨ 2 ^ 31 < n ∨ la % 16 ≠ 0 ∨ fa % 16 ≠ 0 then s.failRead e codes 0x21B0 0
    else match s.fabFault e.g fa with
      | some f => s.failRead e codes f fa
      | none => s.reaching e ((la, n, k) :: bw.toList.map fun w => (w.1, 8, .write)) fun s =>
        s.addOp { e.op s h i with
          bw := bw
          vals := [la, fa, n, 0, 0]
          after := s.engineAfter e.w.wid e.g.gid s.nextOp [] (if k == .write then [(la, n)] else []) }

def execFcopyPut (h : Hdr) (o : FcopyOps) (s : State) : Outcome :=
  .next (s.coreOnly h (s.fabricCopy h (.fcopyPut h o) o.blk o.bw .read))
def execFcopyGet (h : Hdr) (o : FcopyOps) (s : State) : Outcome :=
  .next (s.coreOnly h (s.fabricCopy h (.fcopyGet h o) o.blk o.bw .write))
def execFreduce (h : Hdr) (o : FreduceOps) (s : State) : Outcome := .next (s.fabricCopy h (.freduce h o) o.blk o.bw .read)

/-- The statuses that a peer or the link gives a unit (R360 to R362). -/
def fabStatus (c : Nat) : Bool := c == 0 || c == 0x21B1 || c == 0x21B2 || c == 0x31B0

def Instr.isFabricCopy : Instr → Bool
  | .fcopyPut _ _ | .fcopyGet _ _ | .freduce _ _ => true
  | _ => false

def Instr.isFsem : Instr → Bool
  | .fsem _ _ => true
  | _ => false

/-- Whether a fabric operation may start: what it follows is performed. -/
def Op.mayStartFabric (o : Op) : Bool := o.at_ == .issued && o.after.isEmpty && (Instr.isFabricCopy o.instr || Instr.isFsem o.instr)

/-- A fabric operation starts: it reads its peer entry (R360), which an FSEM keeps in `ctr`. -/
def State.startFabric (s : State) (o : Op) (g : Group) : State :=
  let r := s.peerEntry g (if Instr.isFsem o.instr then o.cause.1 else o.vals.getD 1 0)
  r.1.modOp o.id fun p => match r.2.2 with
    | none =>
      if Instr.isFsem o.instr then { p with at_ := .started, ctr := r.2.1 } else { p with at_ := .started, vals := p.vals.set 3 r.2.1 }
    | some f => { p.noting (some f) with at_ := .ready }

/-- Whether an operation takes acknowledgements: a copy or a reduction that has started. -/
def Op.mayAck (o : Op) : Bool := o.at_ == .started && Instr.isFabricCopy o.instr

/-- Unit path of a fabric unit (R471): a port that the peer entry allows, and a lane of it; which of them served is open (R484, R485). -/
def State.fabPath (s : State) (o : Op) : Nat :=
  let e := if Instr.isFsem o.instr then o.ctr else o.vals.getD 3 0
  let ports := (List.range 24).filter fun p => bitAt e (32 + p)
  unitPath 7 (ports.getD (s.free 983 0 % max 1 ports.length) 0) 0 0 (s.free 984 0 % 4)

/-- A fetched unit lands (R130, R131, R361): its bytes, and the sector's poison where it carries poison. A sector whose 32 bytes have all
landed without poison loses its poison. -/
def State.landFabric (s : State) (o : Op) (g : Group) (va x : Nat) (bad : Bool) : State × Op :=
  let r := s.engineWrite g g.engineOut va 8 x
  let o := o.noting r.2 true
  let sec := va / 32 + 1
  let last := if bad || r.2.isSome then sec else o.vals.getD 4 0
  let o := { o with vals := o.vals.set 4 last }
  match r.2 with
  | some _ => (r.1, o)
  | none =>
    let t := r.1.transAcc g va .write
    match t.2 with
    | .error _ => (t.1, o)
    | .ok c =>
      if bad then (t.1.setPoisonFor g.engineOut.beneath c.a true, o)
      else if va % 32 = 24 ∧ last ≠ sec ∧ o.vals.headD 0 + 24 ≤ va then (t.1.setPoisonFor g.engineOut.beneath c.a false, o)
      else (t.1, o)

/-- One unit of a copy is done. -/
def State.ackUnit (s : State) (o : Op) (g : Group) (status : Nat) (d : BitVec 64 × Bool) : State × Op :=
  let va := o.vals.headD 0 + 8 * o.ctr
  let r : State × Op := match o.instr with
    | .fcopyGet _ _ =>
      if status = 0 then s.landFabric o g va d.1.toNat d.2
      else (s, { o.fails status va (s.fabPath o) 0 true with vals := o.vals.set 4 (va / 32 + 1) })
    | _ =>
      let q := s.engineRead g g.engineIn 0x3112 va 8
      (q.1, (o.noting q.2.2).fails status va (s.fabPath o) 0)
  (r.1, { r.2 with ctr := o.ctr + 1 })

/-- FABRIC_ACK (R361): acknowledgements of the next units, one for each entry of `data`; a fetched unit lands with its bytes and its
poison. The arrival is due when every unit is done. -/
def execFabricAck (op : Nat) (status : Nat) (data : List (BitVec 64 × Bool)) (s : State) : Outcome :=
  .next (match s.findOp op with
    | none => s
    | some o => match s.findGroup o.gid with
      | none => s
      | some g =>
        if o.mayAck && fabStatus status then
          let n := o.vals.getD 2 0 / 8
          let r := (data.take (n - o.ctr)).foldl (fun (r : State × Op) d => r.1.ackUnit r.2 g status d) (s, o)
          r.1.modOp op fun _ => { r.2 with at_ := if n ≤ r.2.ctr then .ready else .started }
        else s)

/-! ### FSEM (R362) -/

/-- FSEM as it issues: the release at its scope; `vals` holds n, and then the fabric copies before it in the warp's order. Until it fails,
`cause` opens with its fabric address. -/
def execFsem (h : Hdr) (o : FsemOps) (s : State) : Outcome :=
  .next (s.command h ([640 + o.sa, 641 + o.sa] ++ (Arg.of .z32 o.n).codes) none fun e _ =>
    let fa := s.uniS e true o.sa
    match s.fabFault e.g fa with
    | some f => s.failRead e [640 + o.sa, 641 + o.sa] f fa
    | none =>
      if fa % 4 ≠ 0 then s.failRead e [640 + o.sa, 641 + o.sa] 0x2144 fa
      else
        let copies := (s.ops.filter fun p => p.gid == e.g.gid && p.owners.contains e.w.wid && Instr.isFabricCopy p.instr).map Op.id
        s.launch e { e.op s h (.fsem h o) with vals := (s.uni e .z32 o.n).val :: copies, cause := (fa, 0, 0) })

/-- Whether an FSEM may signal: its release is done, and every fabric copy before it has been acknowledged. -/
def State.maySignal (s : State) (o : Op) : Bool :=
  o.at_ == .started && Instr.isFsem o.instr &&
  (o.vals.drop 1).all fun k => (s.findOp k).all fun p => p.at_ == .ready

/-- FSEM_SIGNAL (R362): the peer has answered the addition, with the status that it gives. -/
def execFsemSignal (op status : Nat) (s : State) : Outcome :=
  .next (match s.findOp op with
    | none => s
    | some o =>
      if s.maySignal o && fabStatus status then
        s.modOp op fun p => { (p.fails status 0 (s.fabPath o) 0) with at_ := .ready }
      else s)

end Sys2Proof.Machine
end

