-- ==== Sys2Proof/Machine/Width.lean ====
section
/-!
DEFINITION. What blocked lanes wait for inside a warp or a group: WSYNC masks (R236), the grant of GROW (R37, R38), and the cut and
splice of warps (R47 to R58).
-/

namespace Sys2Proof.Machine

/-! ### WSYNC (R236) -/

/-- Whether a lane does not hold back a WSYNC that names it. -/
def Lane.synced (l : Lane) : Bool := match l.at_ with
  | .wsync _ | .retired | .parked _ => true
  | _ => false

/-- The lanes of a warp that WSYNC releases now. -/
def Group.wsyncFree (g : Group) (w : Warp) : List Nat :=
  w.lanes.filter fun i => match (g.lane i).at_ with
    | .wsync m => (List.range w.width).all fun j => !bitAt m.toNat j || j == i - w.lane0 || (g.lane (w.lane0 + j)).synced
    | _ => false

/-- WSYNC_RELEASE (R236): the lanes whose masks are met go on together. -/
def execWsyncRelease (gid wid : Nat) (s : State) : Outcome :=
  .next (match s.findGroup gid with
    | none => s
    | some g => match g.findWarp wid with
      | none => s
      | some w => s.modLanes gid (g.wsyncFree w) fun _ l => { l with at_ := .live, age := 0 })

/-! ### GROW_GRANT (R37, R38) -/

/-- Stacks spans anew, wider warps below (R37: a grant may move register ranges): the base of each is the height of what stands on its
slices already. -/
def restack : List (Nat × Nat × Span × Nat) → List (Span × Nat) → List (Nat × Nat × Span)
  | [], _ => []
  | (gid, k, x, v) :: xs, done =>
    let under := done.filter fun y => y.1.part == x.part && y.1.slice < x.slice + x.n && x.slice < y.1.slice + y.1.n
    let b := (under.map Prod.snd).sum
    let y := { x with base := b }
    (gid, k, y) :: restack xs (done ++ [(y, v)])

/-- The spans of a core's groups with the register counts `v`, widest first. -/
def spansBy (gs : List Group) (v : Group → Nat) : List (Nat × Nat × Span × Nat) :=
  let all := gs.flatMap fun g => g.spans.mapIdx fun k x => (g.gid, k, x, v g)
  [16, 8, 4, 2, 1].flatMap fun n => all.filter fun x => x.2.2.1.n == n

/-- The registers that spans ask of each slice. -/
def sliceLoad (xs : List (Nat × Nat × Span × Nat)) (p i : Nat) : Nat :=
  ((xs.filter fun x => x.2.2.1.part == p && x.2.2.1.slice ≤ i && i < x.2.2.1.slice + x.2.2.1.n).map fun x => x.2.2.2).sum

/-- Whether registers suffice on every slice, ranges being free to move. -/
def registersFit (xs : List (Nat × Nat × Span × Nat)) : Bool :=
  (List.range 4).all fun p => (List.range 32).all fun i => sliceLoad xs p i ≤ 1024

/-- What the grant adds to an allotment. -/
def addedBy (pro full : Allot) : Allot :=
  ⟨full.v, full.s - pro.s, full.banks - pro.banks, full.queues - pro.queues, full.tiles - pro.tiles, full.ways⟩

/-- The request at GROW that a core grants next: the group, if it has room (R38). A lane that is unparked between the last arrival and the grant
holds the grant back until it too stands at GROW, and the group keeps its place in the order (assumption 58). -/
def State.grantable (s : State) (g : Group) : Bool :=
  match g.growAt, s.takeOf g with
  | some n, some t =>
    let c := g.agent
    let gs := s.residents c
    let xs := spansBy gs fun y => if y.gid = g.gid then t.slate.full.v else y.allot.v
    g.place == .core c && g.allAtGrow && (gs.all fun y => y.growAt.all fun m => n ≤ m) && registersFit xs &&
    s.hasRest c ⟨1, [], false, addedBy t.slate.pro t.slate.full⟩
  | _, _ => false

/-- A group with its full allotment (R37, R507). -/
def Group.grow (g : Group) (pro full : Allot) : Group :=
  let add := addedBy pro full
  { g with
    full := true
    growAt := none
    banks := g.banks ++ List.replicate add.banks Bank.zero ++ List.replicate (add.queues / 2) ⟨.fifo, [], none, []⟩
    queues := g.queues ++ List.replicate add.queues []
    tiles := g.tiles ++ List.replicate add.tiles newTile
    allot := { full with queues := g.queues.length + add.queues }
    lanes := g.lanes.map fun (l : Lane) => if l.at_ = .grow then { l with at_ := .live, age := 0 } else l }

/-- GROW_GRANT. -/
def execGrowGrant (gid : Nat) (s : State) : Outcome :=
  .next (match s.findGroup gid with
    | none => s
    | some g => match s.takeOf g with
      | none => s
      | some t =>
        if s.grantable g then
          let xs := restack (spansBy (s.residents g.agent) fun y => if y.gid = gid then t.slate.full.v else y.allot.v) []
          let s := { s with groups := s.groups.map fun (y : Group) =>
            { y with spans := y.spans.mapIdx fun k (x : Span) => (xs.find? fun (z : Nat × Nat × Span) => z.1 == y.gid && z.2.1 == k).elim x fun z => z.2.2 } }
          (s.modGroup gid fun g => g.grow t.slate.pro t.slate.full).trimL1 g.agent
        else s)

/-! ### The cut (R51 to R53) -/

/-- The lanes of a warp at a WCUT. -/
def Group.atCut (g : Group) (w : Warp) : List Nat := w.lanes.filter fun i => (g.lane i).at_ == .wcut

/-- Whether every live lane of a warp stands at a WCUT or is parked, one does, and the flags are 0 (R51). -/
def Group.cutReady (g : Group) (w : Warp) : Bool :=
  !(g.atCut w).isEmpty && w.clear && w.errSlots.isNone &&
  w.lanes.all fun i => match (g.lane i).at_ with
    | .wcut | .retired | .parked _ => true
    | _ => false

/-- The bits of a mask from `a` upward. -/
def jBits (m : BitVec 64) (a n : Nat) : BitVec 64 := BitVec.ofNat 64 (slice m.toNat a n)

/-- Rejoin masks with every mask changed. -/
def jMap (f : BitVec 64 → BitVec 64) (j : NMap (BitVec 64)) : NMap (BitVec 64) :=
  NMap.putAll 0 [] ((List.range 4).map fun n => (n, f (NMap.get 0 j n)))

/-- A half of a cut warp (R49, R52). Both halves keep the clock of the cut warp's last issue as theirs (R30; assumption 58). -/
def Warp.half (w : Warp) (upper : Bool) (wid slot other : Nat) : Warp :=
  let n := w.width / 2
  let k := if upper then n else 0
  { w with
    wid := wid
    slot := slot
    slice := w.slice + k / 4
    width := n
    lane0 := w.lane0 + k
    j := jMap (fun m => jBits m k n) w.j
    link := some other
    links := w.link :: w.links
    yielded := [] }

/-- A warp's number in an operation's order after a cut: the order continues in both halves (R138). -/
def Op.cutOwner (o : Op) (gid wid upper : Nat) : Op :=
  if o.gid = gid ∧ o.owners.contains wid then { o with owners := o.owners ++ [upper] } else o

/-- Divides a warp. -/
def State.cutWarp (s : State) (g : Group) (w : Warp) : State :=
  let up := g.nextWid
  let slot := lowestSlot (slotsTaken (s.residents g.agent)) w.part
  let s := { s with ops := s.ops.map fun (o : Op) => o.cutOwner g.gid w.wid up }
  let s := s.modGroup g.gid fun g => { g with
    nextWid := up + 1
    warps := g.warps.flatMap fun (x : Warp) => if x.wid = w.wid then [x.half false x.wid x.slot up, x.half true up slot x.wid] else [x] }
  s.modLanes g.gid (g.atCut w) fun _ l => { l with at_ := .live, age := 0 }

/-- CUT (R51 to R53): in an open declaration the cut faults instead. -/
def execCut (gid wid : Nat) (s : State) : Outcome :=
  .next (match s.findGroup gid with
    | none => s
    | some g => match g.findWarp wid with
      | none => s
      | some w =>
        if g.cutReady w then
          if g.declared w.wid then s.progError gid wid 0x2121 (g.atCut w) 0 else s.cutWarp g w
        else s)

/-! ### The splice (R54 to R58) -/

/-- The lanes of a warp at a WSPLICE, with tag and destinations. -/
def Group.atSplice (g : Group) (w : Warp) : List (Nat × Nat × Nat × Nat) :=
  w.lanes.filterMap fun i => match (g.lane i).at_ with
    | .wsplice t vd pd => some (i, t, vd, pd)
    | _ => none

/-- A warp has arrived when every live lane that is neither parked nor pooled stands at a WSPLICE (R55). -/
def Group.arrived (g : Group) (w : Warp) : Bool :=
  !(g.atSplice w).isEmpty && w.errSlots.isNone &&
  w.lanes.all fun i => match (g.lane i).at_ with
    | .wsplice _ _ _ | .retired | .parked _ | .pool _ => true
    | _ => false

/-- A parked or pooled lane. -/
def Group.splits (g : Group) (w : Warp) : Bool :=
  w.lanes.any fun i => match (g.lane i).at_ with
    | .parked _ | .pool _ => true
    | _ => false

def Group.tagsDiffer (g : Group) (w : Warp) : Bool :=
  let ts := (g.atSplice w).map fun x => x.2.1
  ts.any fun t => t != ts.headD 0

/-- What the steps of R55 say. -/
inductive Verdict
  | waits
  | own (code : Nat)                    -- to this warp alone
  | both (code : Nat) (y : Warp)
  | joins (y : Warp)

/-- The register span of a warp's lineage. -/
def Group.spanOf (g : Group) (w : Warp) : Span := g.spans.getD (w.lane0 / g.shapeWidth) default

/-- Steps 1 to 10 of R55 for an arrived warp. -/
def Group.verdict (g : Group) (x : Warp) : Verdict :=
  if x.width = 64 then .own 6
  else if g.splits x then .own 5
  else if g.tagsDiffer x then .own 2
  else match x.link.bind g.findWarp with
    | none => .own 1
    | some y =>
      if y.width ≠ x.width then .own 3
      else if !g.arrived y || g.splits y || g.tagsDiffer y then .waits
      else if ((g.atSplice y).map fun z => z.2.1).headD 0 ≠ ((g.atSplice x).map fun z => z.2.1).headD 0 then .both 2 y
      else if (g.spanOf y).base ≠ (g.spanOf x).base then .both 4 y
      else if !x.clear || !y.clear then .waits
      else .joins y

/-- Writes an outcome to the lanes of a warp at WSPLICE; they go on (R58). -/
def Group.outcome (g : Group) (w : Warp) (code : Nat) : Group :=
  (g.atSplice w).foldl (fun (g : Group) x =>
    ((g.write ⟨x.1, x.2.2.1, BitVec.ofNat 32 code, 2⟩).write (predWrite x.1 x.2.2.2 (code == 0))).modLane x.1
      fun l => { l with at_ := .live, age := 0 }) g

/-- Writes to the destinations of a WSPLICE that were issued before it and are still under way are superseded by its outcome (R31, R58). That of
a PUSH into vd is, too, although R255 leaves vd undefined there: the outcome stands (DESIGN CHOICE; assumption 62). -/
def Op.superseded (gid : Nat) (xs : List (Nat × Nat × Nat × Nat)) (o : Op) : Op :=
  if o.gid = gid ∧ o.due.isSome then
    { o with writes := o.writes.filter fun w => !(xs.any fun x => x.1 == w.lane && (w.reg == x.2.2.1 || w.reg == predCode x.2.2.2)) }
  else o

/-- The outcome of a warp at WSPLICE, with its lanes' earlier writes of the destinations gone. -/
def State.giveOutcome (s : State) (gid : Nat) (w : Warp) (code : Nat) : State :=
  match s.findGroup gid with
  | none => s
  | some g => ({ s with ops := s.ops.map (Op.superseded gid (g.atSplice w)) }).modGroup gid fun g => g.outcome w code

/-- The joined warp (R57). Its last issue is the later of the two members' (R30; assumption 58). -/
def Warp.join (l u : Warp) : Warp :=
  { l with
    width := 2 * l.width
    flags := []
    j := NMap.putAll 0 [] ((List.range 4).map fun n =>
      (n, jBits (NMap.get 0 l.j n) 0 l.width ||| BitVec.ofNat 64 (Sys2Proof.slice (NMap.get 0 u.j n).toNat 0 l.width * 2 ^ l.width)))
    link := l.links.headD none
    links := l.links.tail
    last := max l.last u.last
    until_ := max l.until_ u.until_
    yielded := []
    hold := (l.hold ++ u.hold).eraseDups
    dirty := u.dirty.foldl (fun m k => NMap.put false m k.1 k.2) l.dirty
    unbarred := u.unbarred.foldl (fun m k => NMap.put 0 m k.1 (if NMap.get 0 m k.1 = 0 then k.2 else NMap.get 0 m k.1 &&& k.2)) l.unbarred }

/-- A warp's links after a warp has been joined to another (R49). -/
def Warp.relink (u l : Nat) (w : Warp) : Warp :=
  let f := fun (x : Option Nat) => if x = some u then some l else x
  { w with link := f w.link, links := w.links.map f }

/-- Sets of warps held by a convergence register after a join. -/
def Conv.rename (u l : Nat) (c : Conv) : Conv :=
  let f := fun (x : Nat) => if x = u then l else x
  { c with declared := (c.declared.map f).eraseDups, signed := (c.signed.map f).eraseDups }

/-- An operation after a join: the order of both warps continues in the joined one (R138). -/
def Op.joinOwner (gid u l : Nat) (o : Op) : Op :=
  if o.gid = gid then
    { o with
      wid := if o.wid = u then l else o.wid
      owners := if o.owners.contains u && !o.owners.contains l then o.owners ++ [l] else o.owners }
  else o

/-- Joins two warps. -/
def State.joinWarps (s : State) (g : Group) (x y : Warp) : State :=
  let l := if x.lane0 < y.lane0 then x else y
  let u := if x.lane0 < y.lane0 then y else x
  let moved (z : Stop) : Stop := if z.gid = g.gid ∧ z.wid = u.wid then { z with wid := l.wid } else z
  let s := { s with
    ops := s.ops.map (Op.joinOwner g.gid u.wid l.wid)
    ctxs := s.ctxs.map fun (c : Ctx) => { c with stops := c.stops.map moved } }
  ((s.giveOutcome g.gid l 0).giveOutcome g.gid u 0).modGroup g.gid fun g =>
    { g with
      warps := (g.warps.filter fun (w : Warp) => w.wid != u.wid).map fun (w : Warp) => Warp.relink u.wid l.wid (if w.wid = l.wid then l.join u else w)
      convs := g.convs.map (Conv.rename u.wid l.wid) }

/-- SPLICE (R55 to R58); a member of an open declaration faults instead of being joined (R54). -/
def execSplice (gid wid : Nat) (s : State) : Outcome :=
  .next (match s.findGroup gid with
    | none => s
    | some g => match g.findWarp wid with
      | none => s
      | some x =>
        if g.arrived x then
          match g.verdict x with
          | .waits => s
          | .own c => s.giveOutcome gid x c
          | .both c y => (s.giveOutcome gid x c).giveOutcome gid y c
          | .joins y =>
            if g.declared x.wid then s.progError gid x.wid 0x2121 ((g.atSplice x).map Prod.fst) 0
            else if g.declared y.wid then s.progError gid y.wid 0x2121 ((g.atSplice y).map Prod.fst) 0
            else s.joinWarps g x y
        else s)

end Sys2Proof.Machine
end

