-- ==== Sys2Proof/Machine/Lanes.lean ====
section
/-!
DEFINITION. What the long-latency operations of lanes do when they complete, each through the one definition of its family, and how
an operation that held its lanes takes effect after all (R41, R121, R458).
-/

namespace Sys2Proof.Machine

/-! ### Completion -/

/-- Whether a unit lies in a bank that has left scratchpad mode (R120). -/
def State.unitGone (s : State) (u : MUnit) : Bool := match u.loc with
  | .mem _ _ => false
  | .bank g b _ => ((s.findGroup g).bind fun y => y.banks[b]?).any fun k => k.mode != .sp

/-- Whether a bank that an operation reaches has left scratchpad mode since its issue (R120). -/
def State.bankGone (s : State) (o : Op) : Bool := o.units.any s.unitGone

/-- The lanes of an operation for which some accesses fail: all, where one access serves them all. -/
def Op.failing (o : Op) (bad : Acc → Bool) : List Nat :=
  match o.instr with
  | .lds _ _ | .sts _ _ | .atoms _ _ => (o.accs.filter bad).map Acc.lane
  | _ => o.lanes

/-- An access that takes effect after its bank has left scratchpad mode faults (R120, R301). -/
def State.lateFault (s : State) (o : Op) : State :=
  let bad := fun (a : Acc) => a.units.any s.unitGone
  (s.cancelOp o).progError o.gid o.wid 0x2114 (o.failing bad) ((o.accs.find? bad).elim 0 Acc.va) (Instr.writesMem o.instr)

/-- The effect of a lane's load, store, atomic or word operation, with its register writes and its flag; none for other operations. -/
def State.doAccess (s : State) (o : Op) (g : Group) : Option State :=
  if s.bankGone o then some (s.lateFault o) else
  match o.instr with
  | .ld _ x | .lds _ x => some (s.doLd o g x)
  | .st _ _ => some (s.doSt o g)
  | .sts _ _ => some ((s.noteOperands o true o.units).doSt o g)
  | .ldu _ x => some (s.doLdu o g x)
  | .ldt _ x => some (s.doLdt o g x)
  | .stt _ _ => some (s.doStt o g)
  | .atom _ x => some (s.doAtom o g x.op x.ty x.ord x.scope.toNat (some x.d))
  | .atoms _ x => some ((s.noteOperands o true o.units).doAtom o g x.op x.ty x.ord x.scope.toNat (some x.d))
  | .red _ x => some (s.doAtom o g x.op x.ty x.ord x.scope.toNat none)
  | .bwinit _ x => some ((s.noteOperands o true o.units).doBwinit o g x)
  | .bwarr _ x => some ((s.noteOperands o true o.units).doBwarr o g x)
  | .errack _ x => some ((s.noteOperands o true o.units).doErrack o g x)
  | .semsig _ x => some (s.doSemsig o g x)
  | _ => none

/-- The effect of a maintenance, mode, fence, mark or tile operation. -/
def State.doPlain (s : State) (o : Op) (g : Group) : Option State :=
  match o.instr with
  | .l2clean _ _ => some (s.doMaint o g .clean)
  | .l2inv _ _ => some (s.doMaint o g .inv)
  | .l2flush _ _ => some (s.doMaint o g .flush)
  | .bmode _ x => some (s.doBmode o g x)
  | .release _ _ | .barArr _ _ | .bartArr _ _ | .mfence _ | .kvxlate _ _ => some (s.finishOp o)
  | .acquire _ x | .fence _ x => some (s.doAcquire o g x.toNat)
  | .trigger _ => some (s.doTrigger o g)
  | .tflag _ x => some (s.doTflag o g x.toNat)
  | .mzero _ x => some (s.doMzero o g x.toNat)
  | .mload _ x => some (s.doMload o g x)
  | .mout _ x => some (s.doMout o g x)
  | _ => none

/-- Whether the copies that the writes of an operation wait for are made (R461). -/
def State.copiesDone (s : State) (o : Op) (g : Group) : Bool :=
  !(Instr.writesMem o.instr) || (s.copiesDue g.take o.units).isEmpty

/-- Copies into a line that follow an operation of their warp (R156). -/
def State.followers (s : State) (o : Op) (key : Nat) : Nat :=
  (s.ops.filter fun p => Instr.isCpa p.instr && p.after.contains o.id && (lineKeys (p.dsts.flatMap Acc.units)).contains key).length

/-- Whether the scratchpad lines of an operation let it take effect (R121): they are present, but for copies that follow it. MLOAD waits for
every line of its record. -/
def State.linesReady (s : State) (o : Op) (g : Group) : Bool :=
  ((lineKeys (o.units.filter fun u => u.sector.isNone)).all fun k => s.pendingOf k ≤ s.followers o k) &&
  (match o.instr with
    | .mload _ x => (s.recUnits g (o.vals.headD 0) (tileRow x.ty) 128).all s.presentRun
    | _ => true)

/-- Whether a lane's operation may take effect: what it follows is performed, its snapshot copies are made, and its lines are present. -/
def State.mayEnd (s : State) (o : Op) (g : Group) : Bool :=
  o.at_ == .issued && o.due.isNone && o.after.isEmpty && s.copiesDone o g && s.linesReady o g

/-! ### Operations that hold their lanes -/

/-- The units of a scratchpad access, as offsets and sizes. -/
def Instr.scratchUnits : Instr → List (Nat × Nat)
  | .lds _ o => memUnits (isSix o.ty) (accessBytes o.ty o.vec o.one)
  | .sts _ o => memUnits (isSix o.ty) (accessBytes o.ty o.vec o.one)
  | .atoms _ o => [(0, atomBytes o.ty)]
  | _ => [(0, 8)]

/-- A wait keeps its lanes whatever the state of its line. -/
def Instr.isWait : Instr → Bool
  | .bwwait _ _ | .semwait _ _ | .mwait _ _ | .njoin _ _ => true
  | _ => false

/-- A held operation takes its place in the warp's order now (R41, R121, R458), and its lanes go on. -/
def State.reissue (s : State) (o : Op) (k : State → Op → State) : State :=
  let p := { o with at_ := .issued, status := 0, seq := s.nextOp }
  k (({ s with nextOp := s.nextOp + 1 }).freeHeld o) p

/-- What a held lane access would follow in the warp's order if it resumed now. -/
def State.heldAfter (s : State) (o : Op) : List Nat := s.orderAfter o.wid { o with seq := s.nextOp }

/-- A held lane access takes effect in all of its lanes at once (R41, R121). -/
def State.goOut (s : State) (o : Op) (g : Group) : State :=
  s.reissue o fun s p =>
    let s := if Instr.writesMem p.instr then s.modWarp g.gid o.wid fun w => w.wrote p.units else s
    let s := s.modOp o.id fun _ => p
    ((s.findGroup g.gid).bind fun g => s.doAccess p g).getD s

/-- A held operation that turns out to fault in some lanes (R36, R112), with the address of the lowest. A command whose operands were read too
early only ends (R31). -/
def State.failHeld (s : State) (o : Op) (code : Nat) (lanes : List Nat) (addr : Nat) : State :=
  let s := (s.freeHeld o).cancelOp o
  if o.early then s else s.progError o.gid o.wid code lanes addr (Instr.writesMem o.instr || Instr.isCpout o.instr)

/-- The accesses of a held scratchpad operation, located again: those that fail, the others, and whether a member still has not started. A lane
whose address is undefined raises no fault, and makes no access where it fails (R31). -/
def State.relocate (s : State) (g : Group) (o : Op) : List (Acc × Nat × Nat) × List Acc × Bool :=
  o.accs.foldl (fun (r : List (Acc × Nat × Nat) × List Acc × Bool) a =>
    let q := s.locLane g .scratch .read a.lane a.va (Instr.scratchUnits o.instr)
    match q.2.2.1 with
    | some f => (if o.blind a.lane then r.1 else r.1 ++ [(a, f)], r.2)
    | none => (r.1, r.2.1 ++ [{ a with units := q.2.1 }], r.2.2 || q.2.2.2)) ([], [], false)

/-- SCRATCHPAD_ACCESS_RESUME (R121): every line of the access is present, and what it then follows is performed. The blocked lanes of a group
that leaves its core are saved so (R441). -/
def execScratchpadAccessResume (op : Nat) (s : State) : Outcome :=
  .next (match s.findOp op with
    | none => s
    | some o => match s.findGroup o.gid with
      | none => s
      | some g =>
        if o.at_ == .held && g.inPlace && o.status == 0 && !(Instr.isWait o.instr) && o.units.all s.presentUnit && (s.heldAfter o).isEmpty
        then s.goOut o g else s)

/-- A lane access whose members have all started: it takes effect, or waits on for its lines. -/
def State.resumeAccess (s : State) (o : Op) (g : Group) : State :=
  match s.relocate g o with
  | (f :: fs, _) => s.failHeld o f.2.1 (o.failing fun a => (f :: fs).any fun x => x.1 == a) f.2.2
  | ([], _, true) => s
  | ([], as, false) =>
    let p := { o with accs := as, status := 0 }
    let s := s.modOp o.id fun _ => p
    if Instr.isWait o.instr || !(p.units.all s.presentUnit) || !(s.heldAfter p).isEmpty then s else s.goOut p g

/-- A copy whose members have all started. A CPA that would raise a pending count above 3 waits on (R121). -/
def State.resumeCopy (s : State) (o : Op) (g : Group) : State :=
  let c := s.copyAccs g o.lvals
  match c.1.filter fun f => !o.lhaz f.1 with
  | f :: fs => s.failHeld o f.2 (f.1 :: fs.map Prod.fst) 0
  | [] =>
    if c.2.1 || (Instr.isCpa o.instr && (lineKeys (c.2.2.flatMap Acc.units)).any fun k => 3 ≤ s.pendingOf k) then s
    else s.reissue o fun s p => (s.modOp o.id fun _ => p).startCopy p c.2.2

/-- A tile operation whose record's members have all started. -/
def State.resumeTile (s : State) (o : Op) (g : Group) (ty : Ty) (t : Nat) : State :=
  match s.recCheck g (o.vals.headD 0) (tileRow ty) 128 with
  | .error c => s.failHeld o c o.lanes 0
  | .ok false => s
  | .ok true => s.reissue o fun s p =>
      (s.modOp o.id fun _ => p).startTile p g t (s.recUnits g (o.vals.headD 0) (tileRow ty) 128)

/-- An MMA whose operands' members have all started is staged now (R326). -/
def State.resumeMma (s : State) (o : Op) (g : Group) (x : MmaOps) : State :=
  match o.mmaBlock with
  | none => s
  | some b => match s.blockCheck g b with
    | .error c => s.failHeld o c o.lanes 0
    | .ok false => s
    | .ok true =>
      let c := g.conv x.c.toNat
      if c.st ≠ .open ∨ c.staged.isSome then s.failHeld o 0x2192 o.lanes 0
      else s.reissue o fun s p => (s.modOp o.id fun _ => p).setConv g.gid x.c.toNat { c with staged := some o.id }

/-- TEAM_MEMBER_ACCESS_RESUME (R41). -/
def execTeamMemberAccessResume (op : Nat) (s : State) : Outcome :=
  .next (match s.findOp op with
    | none => s
    | some o => match s.findGroup o.gid with
      | none => s
      | some g =>
        if o.at_ == .held && g.inPlace && o.status == 1 then
          match o.instr with
          | .cpa _ _ | .cpaLn _ _ | .cpout _ _ | .cpoutLn _ _ => s.resumeCopy o g
          | .mload _ x => s.resumeTile o g x.ty x.t.toNat
          | .mout _ x => s.resumeTile o g x.ty x.t.toNat
          | .mma _ x => s.resumeMma o g x
          | _ => s.resumeAccess o g
        else s)

end Sys2Proof.Machine
end

