-- ==== Sys2Proof/Machine/Stops.lean ====
section
/-!
DEFINITION. The system side of stops: what a command processor reads and writes for a context (R430, R454), trap records (R420 to
R422), snapshot copies (R461), and the two endings of a take and its retake (R464 to R467, R474 to R478).
-/

namespace Sys2Proof.Machine

/-! ### Accesses of the command processors -/

/-- Reads of a command processor at the points of coherence: the bytes, or 0x3112 with the place of a poisoned sector, or 0x2207. Cells that a
second placement maps read as undefined values (R117). -/
def State.cpReads (s : State) (ctx : Nat) : List (Nat × Nat) → State × Except (Nat × Nat) Nat
  | [] => (s, .ok 0)
  | (va, n) :: ps =>
    if 2 ^ 52 < va + n then (s, .error (0x2207, 0))
    else match s.translateFresh ctx va .read with
      | .error _ => (s.keepFresh ctx va .read, .error (0x2207, 0))
      | .ok t =>
        let r := (s.keepFresh ctx va .read).readHome t.a n
        if r.2.2 then (r.1, .error (0x3112, t.pg.phys t.a))
        else
          let twice := r.1.mappedTwice t.pg.place t.a
          let q := (if twice then r.1.renew else r.1).cpReads ctx ps
          (q.1, match q.2 with
            | .error e => .error e
            | .ok x => .ok ((if twice then r.1.free 602 0 % 2 ^ (8 * n) else r.2.1) + 2 ^ (8 * n) * x))

/-- Reads `n` bytes. -/
def State.cpRead (s : State) (ctx va n : Nat) : State × Except (Nat × Nat) Nat := s.cpReads ctx (pieces 8 n va n)

/-- Writes `n` bytes where every piece translates; none where one does not. -/
def State.cpWrites (s : State) (ctx : Nat) : List (Nat × Nat) → Nat → Option State
  | [], _ => some s
  | (va, n) :: ps, x =>
    if 2 ^ 52 < va + n then none
    else match s.translateFresh ctx va .write with
      | .error _ => none
      | .ok t =>
      (((s.keepFresh ctx va .write).writeHome t.a n (x % 2 ^ (8 * n))).noteRaces none [(t.a, n)]).cpWrites ctx ps (x / 2 ^ (8 * n))

/-- Poison of the sectors that a write of a command processor has covered goes (R131). -/
def State.cpCover (s : State) (ctx va n : Nat) : State :=
  (List.range ((va + n) / 32 - (va + 31) / 32)).foldl (fun (s : State) i =>
    match s.translateFresh ctx (((va + 31) / 32 + i) * 32) .write with
    | .error _ => s
    | .ok t => if s.poisonFor false t.a then s.setPoisonFor false t.a false else s) s

def State.cpWrite (s : State) (ctx va n x : Nat) : Option State :=
  (s.cpWrites ctx (pieces 64 n va n) x).map fun s => s.cpCover ctx va n

/-- The scope set of a command processor's entry or of the device's own signal (R135, R432): entries 0 and 1 hold no stack. -/
def State.cpScope (s : State) (ctx scope : Nat) : ScopeSet :=
  let p := (s.findCtx ctx).elim 8 Ctx.dpart
  match scope with
  | 0 | 1 => ⟨0, 0, false⟩
  | 2 => s.deviceSet p false
  | 3 => s.deviceSet p true
  | k =>
    let e := (s.findCtx ctx).elim 0 fun c => (NMap.get 0 c.scopes k).toNat
    ⟨slice e 0 64, slice e 64 8, bitAt e 72⟩

/-- An atomic of a command processor or of a peer on a word of a context: the value found, and whether it was poisoned. Mixed scope ids leave
the word undefined, by a try that takes nothing too (R151, R432). -/
def State.cpAtomic (s : State) (ctx scope : Nat) (t : Trans) (f : Nat → Option Nat) : State × Nat × Bool :=
  let below := !isHost t.a && t.pg.place == 1 && (s.cpScope ctx scope).stackBits != 0
  let s := if below then s.evictLine (lineOf t.a) else s
  let u : MUnit := ⟨.mem t.a t.pg, 4⟩
  let m := s.mixedAll u.loc scope
  let v : Via := if below then .below else .home
  let r := m.1.readUnit v u
  if r.2.2 then r
  else
    let x := if m.2 then r.1.free 721 0 % 2 ^ 32 else r.2.1
    match m.2, f x with
    | false, none => (r.1, x, false)
    | false, some y => (((r.1.writeUnit v u y).noteRaces none [(t.a, 4)]).renew, x, false)
    | true, _ => (((r.1.writeUnit v u (r.1.free 720 0 % 2 ^ 32)).noteRaces none [(t.a, 4)]).renew, x, false)

/-- The saturating addition of a signal (R315). -/
def semAdd (n v : Nat) : Option Nat := some (min (v + n) (2 ^ 32 - 1))

/-! ### Trap records (R420 to R422) -/

/-- A record's 64 bytes (R420). -/
def TrapRecord.bytes (r : TrapRecord) (handle : Nat) : Nat :=
  r.code + 2 ^ 16 * (r.ctx % 2 ^ 12) + 2 ^ 32 * (r.groupId % 2 ^ 32) + 2 ^ 64 * (r.take % 2 ^ 64) + 2 ^ 128 * handle +
  2 ^ 192 * (r.pc % 2 ^ 64) + 2 ^ 256 * (r.lanes % 2 ^ 64) + 2 ^ 320 * (r.addr % 2 ^ 64) + 2 ^ 384 * (r.core % 2 ^ 8) +
  2 ^ 392 * (r.part % 4) + 2 ^ 394 * (r.slot % 32) + 2 ^ 399 * bit r.write + 2 ^ 400 * (r.width % 2 ^ 8) +
  2 ^ 408 * (r.retakes % 4) + 2 ^ 448 * (r.clock % 2 ^ 64)

/-- STOP of a record: 0 for an error, 0xFFFF for a whole context (R421). -/
def TrapRecord.stopNo (r : TrapRecord) : Nat := if r.halt then 0xFFFF else r.stop.elim 0 Prod.snd

/-- The handle of a record written at an index (R421). -/
def TrapRecord.handle (r : TrapRecord) (head : Nat) : Nat :=
  if r.stopNo = 0 then 0
  else r.ctx % 2 ^ 12 + 2 ^ 12 * (r.groupId % 2 ^ 20) + 2 ^ 32 * r.stopNo + 2 ^ 48 * (head % 2 ^ 16)

/-- The number that stands for a group in the stop of a whole context. -/
def haltGid : Nat := 2 ^ 64

/-- A ring is full while HEAD and TAIL lie its whole size apart (R422). -/
def Ctx.ringFull (c : Ctx) : Bool := (c.head - c.tail).toNat == 2 ^ c.logn

/-- The address of a ring's next record (R420). -/
def Ctx.recordAt (c : Ctx) : Nat := slice c.trapring.toNat 6 46 * 64 + 64 * (c.head.toNat % 2 ^ c.logn)

/-- The running take of a context. -/
def State.takeIn (s : State) (ctx : Nat) : Option Take := s.takes.find? fun t => t.ctx == ctx && !t.complete

/-- A record that tells of a retake: a hardware error that is no ending of R476. -/
def TrapRecord.ofRetake (r : TrapRecord) : Bool := r.code / 0x1000 == 3 && !(0x3120 ≤ r.code && r.code ≤ 0x3124)

/-- The running take of a context ends with a program error that no warp has met; where it already ends or is being retaken, the error is a
later one (R467). -/
def State.takeFail (s : State) (ctx code : Nat) : State :=
  match s.takeIn ctx with
  | none => s
  | some t =>
    if t.hwErr.isSome || t.err.isSome then s.logError code t.ctx false true false 0 t.number 0
    else s.modTake t.tid fun t => { t with err := some ⟨code, haltGid, 0, [], 0, s.takeNow t, false⟩ }

/-- A record that cannot be written (R422): its take ends with 0x21C4, or, where the record tells of the ending itself, the log says so.
A refused launch has no take, and a retake whose take has since ended is told of by that ending's own entry. -/
def State.lostRecord (s : State) (c : Ctx) (r : TrapRecord) : State :=
  let s := s.modCtx c.id fun c => { c with records := c.records.tail }
  match r.stop, r.halt with
  | some (gid, no), _ =>
    match (c.stops.find? fun x => x.gid == gid && x.no == no), s.findGroup gid with
    | some x, some g => match g.findWarp x.wid with
      | some w => s.progError gid x.wid 0x21C4 (w.lanes.filter fun l => bitAt r.lanes (l - w.lane0)) r.addr
      | none => s
    | _, _ => s
  | none, true => match (s.groupsOf c.id).find? fun g => !g.warps.isEmpty with
    | some g => s.progError g.gid (g.warps.head?.elim 0 Warp.wid) 0x21C4 [] 0
    | none => s.takeFail c.id 0x21C4
  | none, false =>
    if r.take = 0 then s
    else if r.ofRetake then (if (s.takeIn c.id).any fun t => t.number == r.take then s.takeFail c.id 0x21C4 else s)
    else s.logError 0x21C4 c.id false true false 0 r.take 0

/-- Notes the handle of a stop whose record is written. -/
def Ctx.noteHandle (c : Ctx) (r : TrapRecord) (h : Nat) : Ctx :=
  if r.halt then { c with stops := c.stops ++ [⟨haltGid, 0xFFFF, .trap, 0, h⟩] }
  else { c with stops := c.stops.map fun (x : Stop) => if r.stop = some (x.gid, x.no) then { x with handle := h } else x }

/-- Steps 3 and 4 of R422. A semaphore word that cannot be reached gets no addition. -/
def State.notifyTrap (s : State) (c : Ctx) : State :=
  let va := slice c.trapsem.toNat 2 50 * 4
  let s := if va = 0 then s else match s.translateFresh c.id va .write with
    | .error _ => s
    | .ok t => ((s.keepFresh c.id va .write).cpAtomic c.id 3 t (semAdd 1)).1
  if bitAt c.trapsem.toNat 63 then s.raiseMsi (slice c.trapsem.toNat 52 11) else s

/-- TRAP_RECORD_WRITE (R420 to R422): the oldest record that waits. -/
def execTrapRecordWrite (c : Nat) (s : State) : Outcome :=
  .next (match s.findCtx c with
    | none => s
    | some x => match x.records with
      | [] => s
      | r :: rs =>
        if !x.ringValid then s.lostRecord x r
        else if x.ringFull then s
        else
          let h := r.handle x.head.toNat
          match s.cpWrite c x.recordAt 64 (r.bytes h) with
          | none => s.lostRecord x r
          | some s =>
            (s.modCtx c fun c => { (c.noteHandle r h) with records := rs, head := c.head + 1 }).notifyTrap x)

/-- TRAPPTR_TAIL_WRITE (R414, R422). -/
def execTrapptrTailWrite (c : Nat) (tail : BitVec 17) (s : State) : Outcome :=
  .next (s.modCtx c fun c => { c with tail := tail })

/-! ### Queues -/

/-- Device offset of a register block of queue `q` of command processor `n` (R428). -/
def queueOff (n q : Nat) : Nat := 0x1000 + 0x400 * n + 0x40 * q

def State.queueRun (s : State) (n q : Nat) : QueueRun := NMap.get QueueRun.start s.queues (16 * n + q)

def State.modQueue (s : State) (n q : Nat) (f : QueueRun → QueueRun) : State :=
  { s with queues := NMap.put QueueRun.start s.queues (16 * n + q) (f (s.queueRun n q)) }

/-- Stops a queue on an error (R431). -/
def State.stopQueue (s : State) (n q code idx : Nat) : State :=
  let b := queueOff n q
  let s := s.setField (b + 8) 15 1 1
  s.setReg (b + 0x20) (BitVec.ofNat 64 (code + 2 ^ 16 * idx))

/-! ### Abandoned operations (R466, R477) -/

/-- The slots of a ring that an XPREF of at most `n` rows may take (R355): their addresses and the bytes of a row. -/
def State.ringSlots (s : State) (g : Group) (o : Op) (b : RowBlock) (n : Nat) : List (Nat × Nat) :=
  let h := (s.nearRead g o b.stack b.dest 16).2.1
  let head := slice h 0 32
  let tail := slice h 32 32
  let size := slice h 64 32
  if size = 0 ∨ 65536 < size ∨ size ≤ head ∨ size ≤ tail then []
  else (List.range (min n ((tail + size - head) % size))).map fun k =>
    ((s.nearRead g o b.stack (b.dest + 16 + 8 * ((head + k) % size)) 8).2.1, b.len * b.rsize)

/-- Virtual ranges of memory that an engine operation of a group was to write. -/
def Op.targets (s : State) (o : Op) (g : Group) : List (Nat × Nat) :=
  let lanes := g.plane.elim 0 Plane.count
  match o.instr with
  | .cpout _ _ | .cpoutLn _ _ => o.lvals.map fun t => (t.2.getD 1 0, t.2.getD 3 0)
  | .fcopyGet _ _ => [(o.vals.getD 0 0, o.vals.getD 2 0)]
  | .pldrain _ _ => [(o.vals.getD 1 0, (moveCmd (o.vals.getD 2 0)).bytes)]
  | .plred _ _ =>
    let x := slice (partX (o.vals.getD 1 0)) 0 5
    [(o.vals.getD 2 0, 4 * (if x = 31 then 1 else lanes / 2 ^ x))]
  | .plbmap _ _ => [(o.vals.getD 2 0, lanes / (if bitAt (partX (o.vals.getD 1 0)) 0 then 64 else 1) / 8)]
  | .xred _ _ =>
    let b : RowBlock := ⟨o.vals⟩
    (b.dest, b.len * b.dsize) :: (if b.miss = 0 then [] else [(b.miss, 8 + 8 * o.lvals.length)])
  | .xpref _ _ =>
    let b : RowBlock := ⟨o.vals⟩
    let ixs := (o.indices.map Prod.snd).eraseDups
    s.ringSlots g o b ixs.length ++ (b.dest, 4) :: ixs.map fun ix => (b.map_ + 8 * ix, 8)
  | _ => []

/-- The destinations of an abandoned operation hold undefined values. -/
def State.spoilTargets (s : State) (o : Op) (g : Group) : State :=
  let v : Via := match o.instr with
    | .xred _ _ | .xpref _ _ => .below
    | _ => g.engineOut
  ((Op.targets s o g).flatMap fun r => pieces 8 r.2 r.1 r.2).foldl (fun (s : State) p =>
    (s.engineWrite g v p.1 p.2 (s.free 630 0 % 2 ^ (8 * p.2))).1.renew) s

/-- Every engine operation of a take that is under way is abandoned. -/
def State.abandon (s : State) (tid : Nat) : State :=
  s.ops.foldl (fun (s : State) o => match s.findGroup o.gid with
    | some g => if g.take = tid ∧ o.at_ ≠ .held then s.spoilTargets o g else s
    | none => s) s

/-- Inserts an operation in the order of issue. -/
def insertSeq (o : Op) : List Op → List Op
  | [] => [o]
  | p :: ps => if o.seq ≤ p.seq then o :: p :: ps else p :: insertSeq o ps

/-- The accesses that a take's lanes have issued take effect (R465), in the order of issue, with the copies that they need. -/
def State.drain (s : State) (tid : Nat) : State :=
  ((s.ops.filter fun o => o.at_ == .issued && o.due.isNone).foldr insertSeq []).foldl (fun (s : State) o =>
    match s.findOp o.id, s.findGroup o.gid with
    | some o, some g =>
      if g.take = tid then
        let s := if Instr.writesMem o.instr then s.copyAll tid (o.units.map MUnit.loc) else s
        (s.doAccess o g).getD (match o.range with
          | some _ => (s.doPlain o g).getD s
          | none => s)
      else s
    | _, _ => s) s

/-! ### The end of a take (R466) -/

/-- The groups, operations, channels and barriers of a take go, and its stops end; a stop's record that still waits for the ring goes
with it (R421). -/
def State.clearTake (s : State) (t : Take) : State :=
  let gids := (s.groups.filter fun g => g.take == t.tid).map Group.gid
  let s := { s with
    groups := s.groups.filter fun g => g.take != t.tid
    ops := s.ops.filter fun o => !gids.contains o.gid
    channels := s.channels.filter fun c => !gids.contains c.owner
    teams := s.teams.filter fun x => x.take != t.tid
    todo := s.todo.filter fun x => !gids.contains x.2.gid }
  (s.dropWatches gids.contains).modCtx t.ctx fun c => { c with
    stops := []
    stop := false
    haltDue := false
    records := c.records.filter fun r => r.stop.isNone && !r.halt }

/-- The copies of a take leave the pool (R463). -/
def State.freeCopies (s : State) (t : Take) : State :=
  let pool := s.poolReg ((s.findCtx t.ctx).elim 8 Ctx.dpart)
  s.setField (pool + 8) 0 32 (s.field (pool + 8) 0 32 - t.copies.length)

/-- Adds a record to those that wait for the ring. -/
def State.addRecord (s : State) (ctx : Nat) (r : TrapRecord) : State :=
  s.modCtx ctx fun c => { c with records := c.records ++ [r] }

/-- A record of an ending with no lanes to tell of. -/
def State.bareRecord (s : State) (t : Take) (code : Nat) : TrapRecord :=
  let g := s.groups.find? fun g => g.take == t.tid
  ⟨code, t.ctx, g.elim 0 Group.groupId, t.number, 0, 0, 0, g.elim 0 Group.agent, 0, 0, false, 0, t.retakes, s.counter, none, false⟩

/-- Steps 1 to 5 of R466 with the record `r` and the code of the ending. -/
def State.endTake (s : State) (t : Take) (code : Nat) (r : TrapRecord) : State :=
  let s := (s.drain t.tid).abandon t.tid
  let s := ((s.clearTake t).freeCopies ((s.findTake t.tid).getD t)).addRecord t.ctx r
  let s := s.modCtx t.ctx fun c => { c with state := 3, taint := false }
  let s := { s with takes := s.takes.filter fun x => x.tid != t.tid }
  let q := s.queueRun t.cp t.queue
  let s := if q.begun ∧ s.field (queueOff t.cp t.queue + 0x10) 0 17 = t.entry then s.modQueue t.cp t.queue fun q => { q with begun := false } else s
  (s.modQueue t.cp t.queue fun q => { q with grids := q.grids.filter fun x => x != t.tid }).stopQueue t.cp t.queue code t.entry

/-- The reported record of a program error (R465): the PC at which the faulting lanes stand. -/
def State.errRecord (s : State) (t : Take) (e : TakeErr) : TrapRecord :=
  match s.findGroup e.gid with
  | none => s.bareRecord t e.code
  | some g => match g.findWarp e.wid with
    | none => s.bareRecord t e.code
    | some w => s.record g w e.code e.lanes (e.lanes.head?.elim 0 fun l => (g.lane l).pc.toNat) e.addr e.write none

/-- TAKE_END (R466). -/
def execTakeEnd (take : Nat) (s : State) : Outcome :=
  .next (match s.findTake take with
    | none => s
    | some t => match t.err with
      | none => s
      | some e => s.endTake t e.code (s.errRecord t e))

/-! ### Retake (R476, R477) -/

/-- Why a hardware error ends the take instead (R476). -/
def Take.ending (t : Take) : Option Nat :=
  if !t.slate.retake then some 0x3120
  else if t.unrestorable then some 0x3121
  else if 2 ≤ t.retakes then some 0x3122
  else if t.laterEntry then some 0x3124
  else none

/-- A granule gets the bytes and the poison of its copy in the pool: its lines leave every cache first (R477). -/
def State.restoreGranule (s : State) (c : Nat × Nat) : State :=
  let lines := (List.range 256).map fun i => lineOf (granuleCell c.1 (128 * i))
  let s := { s with
    l2 := s.l2.filter fun x => !lines.contains x.1
    l1 := s.l1.filter fun x => !lines.contains (x.1 % 2 ^ 33) }
  (List.range 256).foldl (fun (s : State) i =>
    (s.copyLine (cellOf 1 (c.2 + 128 * i)) (granuleCell c.1 (128 * i))).noteWrite (granuleCell c.1 (128 * i)) 128) s

/-- Marks the granules that ranges overlap and that lie on mapped pages with SNAP set (R459). -/
def State.markRanges (s : State) (tid ctx : Nat) (rs : List (Nat × Nat)) : State :=
  let vas := rs.flatMap fun r => granuleStarts r.1 (min r.2 (2 ^ 52 - r.1))
  let marks := vas.filterMap fun va =>
    match s.translateFresh ctx va .read with
    | .ok t => if t.pg.snap then some (t.pg.vgran, t.pg.granule) else none
    | .error _ => none
  (vas.foldl (fun (s : State) va => s.keepFresh ctx va .read) s).modTake tid fun t =>
    { t with marked := t.marked ++ marks.filter fun m => !t.marked.contains m }

/-- A take as it stands at its start or at its retake (R437, R477). -/
def Take.fresh (t : Take) (stamp : Nat) : Take :=
  { t with
    nextGroup := 0
    entries := []
    flagsSet := []
    triggerDone := false
    complete := false
    taint := []
    sticky := false
    marked := []
    copies := []
    uncopied := []
    copyDue := []
    unrestorable := false
    err := none
    hwErr := none
    stamp := stamp
    atoms := []
    laterEntry := false
    words := [] }

/-- Steps 2 and 3 of R437: the write set is marked, and the grid start's acquire empties the L1s of the device partition. -/
def State.startTake (s : State) (t : Take) : State :=
  let s := s.modTake t.tid fun t => t.fresh s.stamp
  let s := if t.slate.retake then s.markRanges t.tid t.ctx t.slate.wset else s
  let p := (s.findCtx t.ctx).elim 8 Ctx.dpart
  ((List.range 64).filter fun c => s.dpartOfCore c == p).foldl State.invalidateL1 s

/-- Steps 1 to 4 of R477. A LAUNCH with dependency entries lets the queue go on at once, as at its start (R430). -/
def State.retakeTake (s : State) (t : Take) : State :=
  let s := (s.abandon t.tid).clearTake t
  let t := (s.findTake t.tid).getD t
  let s := t.copies.foldl State.restoreGranule s
  let s := (s.freeCopies t).modCtx t.ctx fun c => { c with
    state := 1
    taint := false }
  let s := s.modTake t.tid fun t => { t with retakes := t.retakes + 1 }
  let tied := !t.slate.deps.isEmpty
  let s := (s.setField (queueOff t.cp t.queue + 0x10) 0 17 (t.entry + bit tied)).modQueue t.cp t.queue fun q => { q with begun := !tied }
  s.startTake t

/-- RETAKE (R474, R476, R477): the error's entry, and then the ending's or the retake. -/
def execRetake (take : Nat) (s : State) : Outcome :=
  .next (match s.findTake take with
    | none => s
    | some t => match t.hwErr with
      | none => s
      | some (code, path, addr) =>
        match t.ending with
        | some e =>
          let s := (s.logError code t.ctx false false false path t.number addr).logError e t.ctx false true false 0 t.number 0
          s.endTake t e (s.bareRecord t e)
        | none =>
          let s := (s.logError code t.ctx true false false path t.number addr).addRecord t.ctx (s.bareRecord t code)
          s.retakeTake t)

/-! ### Snapshot copies (R461, R462) -/

/-- SNAPSHOT_COPY. -/
def execSnapshotCopy (take granule : Nat) (s : State) : Outcome :=
  .next (match s.findTake take with
    | none => s
    | some t => if t.copyDue.contains granule then s.copyGranule take granule else s)

end Sys2Proof.Machine
end

