-- ==== Sys2Proof/Machine/Record.lean ====
section
/-!
DEFINITION. The records of evicted groups (R441, R442, R444): their sections, their places in the record pool, what the pool's bytes
hold, and what a write into them changes at restoration. R442 gives the sections, their sizes and their contents. Where the sizes
tell the layout inside a section, its bytes are the values that R442 gives and come back as they have been written; the bytes of other sections
are free values (R12), the group's own state is kept beside them, and such a section that has been written since comes back with free values
(assumption 12).
-/

namespace Sys2Proof.Machine

/-! ### Sections -/

/-- What a section of a record holds (R442). -/
inductive Section
  | header
  | lane (l : Nat)
  | vector (l : Nat)
  | warp (k : Nat)
  | uniform
  | groupState
  | bank (b : Nat)
  | tile (t : Nat)
  | pool
  deriving DecidableEq, Repr

/-- The lanes of a group that stand in the waiting pool of a near-memory call. -/
def Group.pooled (g : Group) : List Nat := (List.range g.lanes.length).filter fun l => match (g.lane l).at_ with
  | .pool _ => true
  | _ => false

/-- The sections of a group's record with their bytes, in the order of R442's table. -/
def Group.sections (g : Group) : List (Section × Nat) :=
  let ls := List.range g.lanes.length
  [(.header, 256)] ++ ls.map (fun l => (.lane l, 64)) ++ ls.map (fun l => (.vector l, (9 * g.allot.v + 1) / 2)) ++
  (List.range g.warps.length).map (fun k => (.warp k, 64)) ++ [(.uniform, 4 * g.allot.s), (.groupState, 4096)] ++
  (List.range g.banks.length).map (fun b => (.bank b, 33 * 1024)) ++
  (List.range g.tiles.length).map (fun t => (.tile t, 65536 + 4)) ++ [(.pool, 16 * g.pooled.length)]

/-- Bytes of a group's record (R442), in whole lines. -/
def Group.recordBytes (g : Group) : Nat := ((g.sections.map Prod.snd).sum + 127) / 128 * 128

/-- Each section with its offset, one directly after the other. -/
def sectionSpans : Nat → List (Section × Nat) → List (Section × Nat × Nat)
  | _, [] => []
  | off, x :: xs => (x.1, off, x.2) :: sectionSpans (off + x.2) xs

/-! ### Places in the pool -/

/-- The device partition of a take. -/
def State.partOf (s : State) (t : Take) : Nat := (s.findCtx t.ctx).elim 8 Ctx.dpart

/-- The record-pool register of a device partition (R427, R442). -/
def State.recordPool (s : State) (p : Nat) : Nat := 0x3000 + 0x40 * (s.stacksOf p).headD 0

/-- The groups of a device partition that are evicted or being evicted. -/
def State.evictedIn (s : State) (p : Nat) : List Group :=
  s.groups.filter fun g => ((s.takeOf g).any fun t => s.partOf t == p) && (match g.place with
    | .evicted | .evicting _ => true
    | _ => false)

/-- The lowest place of `n` bytes between `lo` and `hi` that is apart from the places in use. -/
def firstFit (lo hi : Nat) (used : List (Nat × Nat)) (n : Nat) : Option Nat :=
  ((lo :: used.map fun r => r.1 + r.2).filter fun a =>
    lo ≤ a && a + n ≤ hi && used.all fun r => a + n ≤ r.1 || r.1 + r.2 ≤ a).min?

/-- Where the record of a group of a device partition can lie: in the pool, and in HBM4E. -/
def State.recordSpot (s : State) (p n : Nat) : Option Nat :=
  let off := s.recordPool p
  let base := s.field off 12 28 * 2 ^ 12
  firstFit base (min (base + s.field off 40 16 * 2 ^ 20) (2 ^ 39))
    (s.groups.filterMap fun g => if (s.takeOf g).any fun t => s.partOf t == p then g.record.map fun r => (r.base, r.size) else none) n

/-- Keeps a place in the pool for the record of each victim for which there is room (R441). -/
def State.reserve (s : State) : List Group → State
  | [] => s
  | v :: vs => match s.recordSpot (s.domainOf v.agent) v.recordBytes with
    | none => s.reserve vs
    | some a => (s.modGroup v.gid fun g => { g with record := some ⟨a, v.recordBytes, s.stamp⟩ }).reserve vs

/-! ### Bytes -/

/-- The cell of a byte of the pool: no page maps it, and it is taken as the host and the walkers take HBM4E (R451, R482). -/
def poolCell (a : Nat) : Nat := cellOf 1 a

/-- The tags of registers 2j and 2j + 1 of a lane as they stand in a record. -/
def Group.tagByte (g : Group) (l j : Nat) : Nat := (g.readV l (2 * j)).2 + 16 * (g.readV l (2 * j + 1)).2

/-- What a section holds whose place in it follows from R442's sizes: offset, bytes and value. The values of a run of registers stand in
their order, the lowest first, their tags after them, 4 bits each; a bank's contents stand before its 1 KiB of mode, presence and counts;
a tile's elements stand in their order, its tag after them (DEDUCED, assumption 12). -/
def Group.image (g : Group) : Section → List (Nat × Nat × Nat)
  | .uniform => (List.range g.allot.s).map fun i => (4 * i, 4, (g.readS i).toNat)
  | .vector l => (List.range g.allot.v).map (fun k => (4 * k, 4, (g.readV l k).1.toNat)) ++
      (List.range (g.allot.v / 2)).map fun j => (4 * g.allot.v + j, 1, g.tagByte l j)
  | .bank b => match g.banks[b]? with
    | some k => if k.mode == .sp then (List.range 8192).map fun i => (4 * i, 4, k.readNat (4 * i) 4) else []
    | none => []
  | .tile t => match g.tiles[t]? with
    | some y => (List.range 16384).map (fun k => (4 * k, 4, (NMap.get 0 y.elems k).toNat)) ++ [(65536, 4, y.tag)]
    | none => []
  | _ => []

/-- Writes a section: what R442 lays out as its image, and every other byte as a free value. -/
def State.writeSection (s : State) (g : Group) (x : Section) (a n : Nat) : State :=
  let s := (pieces 4 n a n).foldl (fun (s : State) p => s.writeHome (poolCell p.1) p.2 (veilBytes s.fresh (poolCell p.1) p.2)) s
  (g.image x).foldl (fun (s : State) w => s.writeHome (poolCell (a + w.1)) w.2.1 w.2.2) s

/-- Writes a record; no poison stands in it. -/
def State.writeRecord (s : State) (g : Group) (r : Record) : State :=
  let s := (sectionSpans 0 g.sections).foldl (fun (s : State) x => s.writeSection g x.1 (r.base + x.2.1) x.2.2) s
  ((List.range (r.size / 32)).foldl (fun (s : State) i =>
    let c := poolCell (r.base + 32 * i)
    if s.poisonFor false c then s.setPoisonFor false c false else s) s).renew

/-- Whether bytes of a record have been written since the record was. -/
def State.recordTouched (s : State) (r : Record) (off n : Nat) : Bool :=
  (pieces 8 n (r.base + off) n).any fun p => decide (r.stamp < s.wordStamp (poolCell p.1))

/-! ### Restored values -/

/-- Bytes of a record as restoration takes them: what a write has put there, or what the group holds (R444). -/
def State.restored (s : State) (r : Record) (off n old : Nat) : Nat :=
  if s.recordTouched r off n then s.peek (poolCell (r.base + off)) n else old

/-- A section's image goes back into the group. -/
def State.restoreImage (s : State) (r : Record) (g : Group) (x : Section) (off : Nat) : Group :=
  match x with
  | .uniform => { g with s := NMap.putAll 0 [] ((List.range g.allot.s).map fun i =>
      (i, BitVec.ofNat 32 (s.restored r (off + 4 * i) 4 (g.readS i).toNat))) }
  | .vector l => g.modLane l fun y => { y with v := NMap.putAll (0, 0) [] ((List.range g.allot.v).map fun k =>
      (k, (BitVec.ofNat 32 (s.restored r (off + 4 * k) 4 (g.readV l k).1.toNat),
        slice (s.restored r (off + 4 * g.allot.v + k / 2) 1 (g.tagByte l (k / 2))) (4 * (k % 2)) 4))) }
  | .bank b => { g with banks := g.banks.modify b fun (k : Bank) =>
      if k.mode == .sp then (List.range 8192).foldl (fun (k : Bank) i =>
        if s.recordTouched r (off + 4 * i) 4 then k.writeNat (4 * i) 4 (s.peek (poolCell (r.base + off + 4 * i)) 4) else k) k
      else k }
  | .tile t => { g with tiles := g.tiles.modify t fun (y : Tile) =>
      { y with
        tag := s.restored r (off + 65536) 4 y.tag
        elems := (Tile.make (fun i j => BitVec.ofNat 32
          (s.restored r (off + 4 * (128 * i + j)) 4 (NMap.get 0 y.elems (128 * i + j)).toNat)) none).elems } }
  | _ => g

/-- The bytes of a section whose layout R442 leaves open: their offset and number. -/
def Group.openPart (g : Group) (x : Section) (n : Nat) : Nat × Nat :=
  match x with
  | .uniform | .vector _ | .tile _ => (0, 0)
  | .bank b => if (g.banks[b]?).any fun k => k.mode == .sp then (32768, n - 32768) else (0, n)
  | _ => (0, n)

/-- A blocked lane as a write into its record leaves it: blocked, or not. -/
def LaneAt.freed (a : LaneAt) (go : Bool) : LaneAt :=
  match a, go with
  | .barrier _ _, true | .grow, true | .wsync _, true | .wcut, true | .wsplice _ _ _, true => .live
  | _, _ => a

/-- A lane of a written record. -/
def State.freeLane (s : State) (g : Group) (l : Nat) (y : Lane) : Lane :=
  let f := fun (k : Nat) => s.free 990 (32 * l + k)
  { y with
    pc := BitVec.ofNat 64 (f 0)
    prio := BitVec.ofNat 8 (f 1)
    age := f 2
    loops := (List.range (f 3 % 5)).map fun i => BitVec.ofNat 32 (f (16 + i))
    depth := f 4 % (s.privSize g / 16 + 1)
    p := BitVec.ofNat 7 (f 5)
    fp := BitVec.ofNat 5 (f 6)
    key := BitVec.ofNat 64 (f 7)
    ctr := BitVec.ofNat 64 (f 8)
    at_ := y.at_.freed (bitAt (f 9) 0) }

/-- A warp of a written record. -/
def State.freeWarp (s : State) (k : Nat) (w : Warp) : Warp :=
  { w with
    flags := NMap.putAll 0 [] ((List.range 12).map fun f => (f + 1, s.free 994 (16 * k + f) % 64))
    j := NMap.putAll 0 [] ((List.range 4).map fun i => (i, BitVec.ofNat 64 (s.free 995 (4 * k + i))))
    link := if bitAt (s.free 994 (16 * k + 12)) 0 then w.link else none
    links := w.links.drop (s.free 994 (16 * k + 13) % (w.links.length + 1)) }

/-- A barrier of a written record: its phase and which of a group's lanes have arrived. -/
def State.freeBar (s : State) (g : Group) (k : Nat) (b : Bar) : Bar :=
  ⟨bitAt (s.free 997 (32 + k)) 0, (b.arrived.filter fun x => x.1 != g.gid) ++
    ((List.range g.lanes.length).filter fun l => bitAt (s.free (1000 + k) l) 0).map fun l => (g.gid, l)⟩

/-- A convergence register of a written record: what it has declared and signed. -/
def State.freeConv (s : State) (g : Group) (k : Nat) (c : Conv) : Conv :=
  let sub := fun (i : Nat) (ws : List Nat) => ws.filter fun w => bitAt (s.free (1040 + k) (2 * w + i)) 0
  match c.st with
  | .idle => c
  | _ => { c with declared := sub 0 (g.warps.map Warp.wid), signed := sub 1 (sub 0 (g.warps.map Warp.wid)) }

def Op.isWalking (o : Op) : Bool := Instr.isWalk o.instr

/-- A call of a written record: the rejoin mask that its lanes name and the reply words that have come. -/
def Op.freePool (o : Op) (f : Nat → Nat → Nat) : Op :=
  { o with
    instr := match o.instr with
      | .ncallL h x => .ncallL h { x with j := BitVec.ofNat 2 (f 0 o.id) }
      | i => i
    replies := o.replies.map fun (r : Reply) => { r with words := r.words.mapIdx fun i _ => some (BitVec.ofNat 32 (f (1 + i) r.lane)) } }

/-- A section as a write into bytes of open layout leaves the group: each value that the section gives and that any number can stand for is
free within its limits. What a number could only break (the shape, the allotment, modes, held operations) stays, since such a number
ends in 0x2206. -/
def State.freeSection (s : State) (g : Group) (x : Section) : State × Group :=
  match x with
  | .header => (s, { g with groupId := s.free 989 0 % (s.takeOf g).elim 1 fun t => t.slate.gridX * t.slate.gridY * t.slate.gridZ })
  | .lane l => (s, g.modLane l (s.freeLane g l))
  | .warp k => (s, { g with warps := g.warps.modify k (s.freeWarp k) })
  | .groupState =>
    ({ s with
      ops := s.ops.map fun (o : Op) => if o.gid == g.gid && o.isWalking then { o with ctr := s.free 1060 o.id } else o
      teams := s.teams.map fun (t : Team) => if t.take == g.take && t.team == s.teamNo g then { t with bars := t.bars.mapIdx fun k b => s.freeBar g (16 + k) b } else t },
     { g with
      guards := NMap.putAll none [] ((List.range 16).map fun i => (i, if bitAt (s.free 997 i) 1 then none else some (bitAt (s.free 997 i) 0)))
      bars := g.bars.mapIdx fun k b => s.freeBar g k b
      convs := g.convs.mapIdx fun k c => s.freeConv g k c })
  | .bank b => (s, { g with
      banks := g.banks.modify b fun (y : Bank) =>
        if y.mode == .sp then { y with pend := NMap.putAll 0 [] ((List.range 256).map fun i => (i, s.free 1061 (256 * b + i) % 4)) } else y
      queues := if (g.banks[b]?).any fun y => y.mode == .fifo then
          g.queues.mapIdx fun q ws => ws.mapIdx fun i _ => (BitVec.ofNat 32 (s.free 998 (4096 * q + i)), s.free 999 (4096 * q + i) % 16)
        else g.queues })
  | .pool =>
    ({ s with ops := s.ops.map fun (o : Op) => if o.gid == g.gid then o.freePool (fun k l => s.free (1062 + k) l) else o }, g)
  | _ => (s, g)

/-- Whether a restored group breaks a limit that its own values show: a tile's tag is f32 or b32 (R80). -/
def Group.breaksLimit (g : Group) : Bool := g.tiles.any fun y => y.tag != 0 && y.tag != 6

/-- A group read back from its record: the group, and whether a write into the record has broken a limit (R444). Whether a write into bytes
of open layout has is a free choice. -/
def State.readBack (s : State) (g : Group) : State × Group × Bool :=
  match g.record with
  | none => (s, g, false)
  | some r =>
    let xs := (sectionSpans 0 g.sections).filter fun x => s.recordTouched r x.2.1 x.2.2
    let y := xs.foldl (fun (y : Group) x => s.restoreImage r y x.1 x.2.1) g
    let open_ := xs.filter fun x => let p := g.openPart x.1 x.2.2; s.recordTouched r (x.2.1 + p.1) p.2
    let z := open_.foldl (fun (z : State × Group) x => z.1.freeSection z.2 x.1) (s, y)
    let q := if open_.isEmpty then (false, z.1) else z.1.renew.coin
    (q.2, { z.2 with record := none }, q.1 || z.2.breaksLimit)

end Sys2Proof.Machine
end

