-- ==== Sys2Proof/Machine/Groups.lean ====
section
/-!
DEFINITION. The life of groups on the side of the cores and command processors: admission (R38 to R41, R438), retirement (R42 to R46,
R439), the trigger point (R430, R475), the end of a grid, and partial eviction with restoration (R39, R62, R440 to R445).
-/

namespace Sys2Proof.Machine

/-! ### Shapes -/

/-- Groups of a grid (R433). -/
def Slate.total (x : Slate) : Nat := x.gridX * x.gridY * x.gridZ

/-- The need of a new group of a take (R40, R48). -/
def Take.need (t : Take) : Need := newNeed t.slate.warps t.slate.width t.slate.cut true t.slate.pro

/-- Whether a take goes on: neither complete nor meeting an error. -/
def Take.going (t : Take) : Bool := !t.complete && t.err.isNone && t.hwErr.isNone

/-! ### Retirement of warps (R43, R49, R327) -/

/-- Whether a warp retires. -/
def State.warpDone (s : State) (g : Group) (w : Warp) : Bool :=
  w.clear && w.errSlots.isNone && w.halt == .run && (s.takeOf g).all Take.going &&
  w.lanes.all fun l => (g.lane l).at_ == .retired

/-- The links that designate a retired warp are emptied (R49). -/
def Warp.forget (u : Nat) (w : Warp) : Warp :=
  let f := fun (x : Option Nat) => if x = some u then none else x
  { w with link := f w.link, links := w.links.map f }

/-- A retired warp leaves the declared sets (R327). -/
def Conv.forget (u : Nat) (c : Conv) : Conv :=
  { c with declared := c.declared.filter fun x => x != u, signed := c.signed.filter fun x => x != u }

/-- WARP_RETIRE (R43). -/
def execWarpRetire (gid wid : Nat) (s : State) : Outcome :=
  .next (match s.findGroup gid with
    | none => s
    | some g => match g.findWarp wid with
      | none => s
      | some w =>
        if s.warpDone g w then
          s.modGroup gid fun g => { g with
            warps := (g.warps.filter fun (x : Warp) => x.wid != wid).map (Warp.forget wid)
            convs := g.convs.map (Conv.forget wid) }
        else s)

/-! ### Retirement of groups (R44, R45, R439) -/

/-- The other groups of a group's team that are on the device. -/
def State.teamMates (s : State) (g : Group) : List Group :=
  s.groups.filter fun y => y.take == g.take && y.kind == .kernel && y.gid != g.gid && s.teamNo y == s.teamNo g

/-- Whether a group is the last of its team to retire. -/
def State.lastOfTeam (s : State) (g : Group) : Bool :=
  (s.teamMates g).all (fun y => y.place.isLeft) && (s.takeOf g).all fun t => (s.teamNo g + 1) * s.teamSize g ≤ t.nextGroup

/-- Whether a callee's replies have all landed. -/
def State.landed (s : State) (g : Group) : Bool := s.ops.all fun o => o.replies.all fun r => r.callee != g.gid

/-- Whether a group retires. -/
def State.groupDone (s : State) (g : Group) : Bool :=
  s.idleGroup g && !g.place.isLeft && (s.takeOf g).all Take.going &&
  (match g.kind with
    | .kernel => match g.place with
      | .core _ => true
      | _ => false
    | .block _ => false
    | .gathered _ => s.landed g)

/-- A group leaves: its allotment is free, its ways return and its pseudo-channels close (R44, R175). The banks of a group whose team
goes on stay, as part of the team's windows (R45). -/
def State.leave (s : State) (g : Group) : State :=
  let s := { s.dropWatches (fun k => k == g.gid) with channels := s.channels.filter fun c => c.owner != g.gid }
  if g.kind != .kernel then { s with groups := s.groups.filter fun y => y.gid != g.gid }
  else if s.lastOfTeam g then
    let gone := g.gid :: (s.teamMates g).map Group.gid
    { s with
      groups := s.groups.filter fun y => !gone.contains y.gid
      teams := s.teams.filter fun x => !(x.take == g.take && x.team == s.teamNo g) }
  else s.modGroup g.gid fun g => { g with
    place := .left g.agent
    spans := []
    s := []
    queues := []
    tiles := []
    convs := List.replicate 8 Conv.idle
    guards := []
    bars := List.replicate 16 Bar.start
    plane := none }

/-- GROUP_RETIRE (R44, R45). -/
def execGroupRetire (gid : Nat) (s : State) : Outcome :=
  .next (match s.findGroup gid with
    | none => s
    | some g => if s.groupDone g then s.leave g else s)

/-! ### Trigger point and grid end (R46, R430, R439, R475) -/

/-- The kernel groups of a take that have not retired. -/
def State.liveGroups (s : State) (t : Take) : List Group :=
  s.groups.filter fun g => g.take == t.tid && g.kind == .kernel && !g.place.isLeft

def Take.tainted (t : Take) : Bool := !t.taint.isEmpty || t.sticky

/-- Whether a grid's trigger point takes effect: every group has triggered or retired, and the grid is untainted (R475). -/
def State.triggers (s : State) (t : Take) : Bool :=
  t.going && !t.triggerDone && !t.tainted && t.nextGroup == t.slate.total && (s.liveGroups t).all fun g => g.triggered

/-- A queue goes on past its entry (R428, R430). -/
def State.advanceQueue (s : State) (n q : Nat) : State :=
  let off := queueOff n q + 0x10
  (s.setField off 0 17 (s.field off 0 17 + 1)).modQueue n q fun q => { q with begun := false }

/-- A LAUNCH takes effect: its take is the nearest earlier one from now on (R436). -/
def State.passLaunch (s : State) (t : Take) : State :=
  (s.advanceQueue t.cp t.queue).modQueue t.cp t.queue fun q => { q with lastGrid := some t.tid }

/-- TRIGGER_POINT (R430). A LAUNCH with dependency entries has let the queue go on at its start. -/
def execTriggerPoint (take : Nat) (s : State) : Outcome :=
  .next (match s.findTake take with
    | none => s
    | some t =>
      if s.triggers t then
        let s := s.modTake take fun t => { t with triggerDone := true }
        if t.slate.deps.isEmpty then s.passLaunch t else s
      else s)

/-- Loads a queue's timer (R447). -/
def State.loadTimer (s : State) (n q : Nat) : State :=
  let k := s.field (queueOff n q + 8) 32 32
  s.modQueue n q fun q => { q with timer := k * 2 ^ 16 }

/-- Whether a grid ends: every group has retired, and its trigger point has passed or is held back by taint. -/
def State.gridDone (s : State) (t : Take) : Bool :=
  t.going && t.nextGroup == t.slate.total && (t.triggerDone || t.tainted) && s.groups.all fun g => g.take != t.tid

/-- GRID_END (R46, R439, R475): a tainted grid meets a hardware error instead. A halt's record that still waits for the ring goes with its
stop (R421). -/
def execGridEnd (take : Nat) (s : State) : Outcome :=
  .next (match s.findTake take with
    | none => s
    | some t =>
      if s.gridDone t then
        if t.tainted then s.hwError take 0x3123 0 0
        else
          let s := (s.freeCopies t).modTake take fun t => { t with complete := true, copies := [], uncopied := [], copyDue := [], words := [] }
          let s := { s with teams := s.teams.filter fun x => x.take != take }
          let s := s.modCtx t.ctx fun c => { c with
            state := 3
            stops := []
            stop := false
            haltDue := false
            records := c.records.filter fun r => r.stop.isNone && !r.halt }
          (s.modQueue t.cp t.queue fun q => { q with grids := q.grids.filter fun x => x != take }).loadTimer t.cp t.queue
      else s)

/-! ### Who may be placed (R38, R41, R165, R438) -/

/-- Whether the groups of a take's team numbered `k` have all been admitted. -/
def State.teamWhole (s : State) (g : Group) : Bool :=
  (s.takeOf g).all fun t => (s.teamNo g + 1) * s.teamSize g ≤ t.nextGroup

/-- Whether the teams of a core's cluster are whole but for the team numbered `k` of take `tid`: from the admission of a team's first group
until its last is resident, the cluster takes no group of another team (R41). A member that has retired meanwhile counts as long as its
team is not whole; of a team that comes back from eviction, the members already on cores keep the cluster for the others. -/
def State.clusterOpen (s : State) (cluster tid k : Nat) : Bool :=
  let here := s.groups.filter fun g => g.kind == .kernel && g.place.bankCore.any fun c => c / 4 == cluster
  here.all fun g => (g.take == tid && s.teamNo g == k) ||
    (s.teamWhole g && (g.place.isLeft || (s.teamMates g).all fun y => y.place != .evicted))

/-- The cores that hold the windows of a team's members, retired or not (R45). -/
def State.teamHere (s : State) (tid k : Nat) : List Nat :=
  s.groups.filterMap fun g => if g.kind == .kernel && g.take == tid && s.teamNo g == k then g.place.bankCore else none

/-- Whether a team has a group resident in a cluster. -/
def State.teamResident (s : State) (tid k cluster : Nat) : Bool :=
  s.groups.any fun g => g.kind == .kernel && g.take == tid && s.teamNo g == k && (match g.place with
    | .core c => c / 4 == cluster
    | _ => false)

/-- Whether any group on a core waits at GROW (R38). -/
def State.growWaits (s : State) (c : Nat) : Bool := (s.residents c).any fun g => g.lanes.any fun l => l.at_ == .grow

/-- Whether R38, R41 and R165 let a core take a group of team `k` of take `tid`. -/
def State.coreOpen (s : State) (tid k c : Nat) : Bool :=
  s.clusterOpen (c / 4) tid k && (!s.growWaits c || s.teamResident tid k (c / 4)) &&
  s.groups.all fun g => match g.place with
    | .toCore _ => s.moveTarget g != some c
    | _ => true

/-- The cores of a device partition that are in service and in the cluster of a team's other members, in ascending number. -/
def State.teamCores (s : State) (p tid k : Nat) : List Nat :=
  let home := (s.teamHere tid k).map fun c => c / 4
  (List.range 64).filter fun c => s.dpartOfCore c == p && s.coreTakes c && home.all fun x => x == c / 4

/-- The cores that may take a group of a team, in ascending number. -/
def State.openCores (s : State) (p tid k : Nat) : List Nat := (s.teamCores p tid k).filter fun c => s.coreOpen tid k c

/-- Something that waits to be placed: the next group of a take, or an evicted group. -/
inductive Waiting
  | new (t : Take)
  | old (g : Group) (t : Take)

def Waiting.take : Waiting → Take
  | .new t => t
  | .old _ t => t

/-- The team number of what waits. -/
def Waiting.team (s : State) : Waiting → Nat
  | .new t => t.nextGroup / t.slate.team
  | .old g _ => s.teamNo g

/-- What it needs. -/
def Waiting.need : Waiting → Need
  | .new t => t.need
  | .old g _ => g.need

/-- Whether it may stand on a core by where its own stand: a moved warp goes with its caller's group (R165). -/
def Waiting.follows (s : State) (c : Nat) : Waiting → Bool
  | .new _ => true
  | .old g _ => match g.kind with
    | .gathered _ => (s.callerOf g).any fun y => y.place == .core c
    | _ => true

/-- The flags that the next group of a take waits for, as ranges (R436). -/
def Take.waitsFor (t : Take) : List (Nat × Nat) :=
  (t.slate.deps.filter fun d => d.1 ≤ t.nextGroup && t.nextGroup ≤ d.2.1).map fun d => (d.2.2.1, d.2.2.2)

/-- Whether the next group of a take is offered: it exists, and its producer's flags are set (R40, R438). -/
def State.offers (s : State) (t : Take) : Bool :=
  t.going && t.nextGroup < t.slate.total &&
  (t.waitsFor.all fun r => (List.range (r.2 + 1 - r.1)).all fun i =>
    (t.producer.bind s.findTake).any fun x => x.flagsSet.contains (r.1 + i))

/-- Where what waits finds room: the core and the spans. -/
def State.roomFor (s : State) : Waiting → Option (Nat × List Span)
  | .new t =>
    let k := t.nextGroup / t.slate.team
    (s.openCores (s.partOf t) t.tid k).findSome? fun c => (s.placeOn c t.need).map fun x => (c, x)
  | .old g t =>
    let cs := (s.openCores (s.partOf t) t.tid (s.teamNo g)).filter fun c => (Waiting.old g t).follows s c
    let xs := cs.filterMap fun c => (s.placeOn c g.need).map fun x => (c, x)
    xs[s.free 952 g.gid % max 1 xs.length]?

/-- The priority of what waits, and its place among equals: restored groups first, then the order of LAUNCH and of admission. -/
def Waiting.before (x y : Waiting) : Bool :=
  let key : Waiting → Nat × Nat × Nat × Nat := fun
    | .new t => (3 - t.slate.prio, 1, t.number, 0)
    | .old g t => (3 - t.slate.prio, 0, t.number, g.order)
  let a := key x
  let b := key y
  decide (a.1 < b.1) || (a.1 == b.1 && (decide (a.2.1 < b.2.1) || (a.2.1 == b.2.1 && (decide (a.2.2.1 < b.2.2.1) ||
    (a.2.2.1 == b.2.2.1 && decide (a.2.2.2 < b.2.2.2))))))

/-- All that waits in a device partition. -/
def State.waiting (s : State) (p : Nat) : List Waiting :=
  (s.groups.filterMap fun g => if g.place = .evicted then
      (s.takeOf g).bind fun t => if t.going && s.partOf t == p then some (.old g t) else none
    else none) ++
  (s.takes.filter fun t => s.offers t && s.partOf t == p).map .new

/-- Whether nothing that comes before has room. -/
def State.nextPlaced (s : State) (x : Waiting) : Bool :=
  (s.waiting (s.partOf x.take)).all fun y => !y.before x || (s.roomFor y).isNone

/-! ### Admission (R40, R438) -/

/-- The lanes of a new group (R40, R75). -/
def groupLanes (t : Take) : List Lane :=
  (List.range (t.slate.warps * t.slate.width)).map fun i =>
    newLane (BitVec.ofNat 64 t.slate.code) (t.slate.seed ^^^ BitVec.ofNat 64 (1024 * t.nextGroup + i)) i

/-- The group that a take offers. -/
def State.offered (s : State) (t : Take) : Group :=
  { newGroup s.nextGid t.tid .kernel t.nextGroup (t.nextGroup % t.slate.team) t.slate.warps t.slate.width t.slate.cut s.nextOrder s.fresh
      t.slate.pro (t.slate.pro == t.slate.full) (groupLanes t) with
    s := NMap.putAll 0 [] (t.slate.args.mapIdx fun i w => (i, w)) }

/-- The acquire of an admission by tile flags (R155): the listed ranges leave the core's L1. -/
def State.acquireFlags (s : State) (g : Group) (core : Nat) (t : Take) : State :=
  let ranges := t.waitsFor.flatMap fun r => (List.range (r.2 + 1 - r.1)).filterMap fun i =>
    (t.producer.bind s.findTake).bind fun x => x.slate.flags[r.1 + i]?
  ranges.foldl (fun (s : State) r =>
    let q := s.rangeLines g r.1 (min r.2 (2 ^ 52 - r.1))
    q.2.foldl (fun (s : State) line => s.dropL1 core line) q.1) s

/-- GROUP_ADMISSION (R38, R40, R41, R438). -/
def execGroupAdmission (take : Nat) (s : State) : Outcome :=
  .next (match s.findTake take with
    | none => s
    | some t =>
      if s.offers t && s.nextPlaced (.new t) then
        match s.roomFor (.new t) with
        | none => s
        | some (c, spans) =>
          let g := s.seat (s.offered t) (.core c) spans
          (((s.addGroup g).modTake take fun t => { t with nextGroup := t.nextGroup + 1 }).acquireFlags g c t).trimL1 c
      else s)

/-! ### Eviction (R39, R440, R441) -/

/-- Whether a group stands on a core. -/
def Group.onCore (g : Group) : Bool := match g.place with
  | .core _ => true
  | _ => false

/-- The moved warps and blocks on cores that a group has called (R165, R166): they go into its record with it (R473). -/
def State.movedOf (s : State) (g : Group) : List Group :=
  s.groups.filter fun y => y.onCore && y.kind != .kernel && (s.callerOf y).any fun c => c.gid == g.gid

/-- A group with its whole team, as far as it stands on cores, and the warps that have moved to them. -/
def State.withTeam (s : State) (g : Group) : List Group :=
  (g :: (s.teamMates g).filter Group.onCore).flatMap fun y => y :: s.movedOf y

/-- The victims for whose records the pool has room (R441): a team's members all, or none of them (R440). -/
def State.evictable (s : State) (vs : List Group) : List Group :=
  vs.foldl (fun (got : List Group) v =>
    let team := vs.filter fun y => ((s.withTeam v).any fun z => z.gid == y.gid) && !(got.any fun z => z.gid == y.gid)
    if team.all fun y => ((s.reserve (got ++ team)).findGroup y.gid).any fun g => g.record.isSome then got ++ team else got) []

/-- The state with victims gone, to see what would fit. -/
def State.without (s : State) (gids : List Nat) : State := { s with groups := s.groups.filter fun g => !gids.contains g.gid }

/-- Whether what waits fits on a core: its allotment has room there, and R38, R41 and R165 let the core take it. -/
def State.fitsOn (s : State) (x : Waiting) (c : Nat) : Bool :=
  s.coreOpen x.take.tid (x.team s) c && x.follows s c && (s.placeOn c x.need).isSome

/-- Adds victims in turn until what waits fits on a core (R440). -/
def State.pickVictims (s : State) (c : Nat) (x : Waiting) : List Group → List Group → Option (List Group)
  | [], _ => none
  | v :: vs, got =>
    let got := got ++ (s.withTeam v).filter fun y => !(got.any fun z => z.gid == y.gid)
    if (s.without (got.map Group.gid)).fitsOn x c then some got else s.pickVictims c x vs got

/-- The candidates on a core: lower priority first, then the most recently admitted. A moved block is a group of the caller's grid (R166);
a moved warp goes with its group. -/
def State.candidates (s : State) (c prio : Nat) : List Group :=
  [0, 1, 2, 3].flatMap fun k => if prio ≤ k then [] else
    ((s.residents c).filter fun g => (match g.kind with | .gathered _ => false | _ => true) && g.onCore &&
      (s.takeOf g).any fun t => t.slate.prio == k).reverse

/-- The victims for what waits, on the first core where they give room. -/
def State.victims (s : State) (x : Waiting) : Option (List Group) :=
  (s.teamCores (s.partOf x.take) x.take.tid (x.team s)).findSome? fun c => s.pickVictims c x (s.candidates c x.take.slate.prio) []

/-- Whether an eviction is under way in a device partition. -/
def State.evicting (s : State) (p : Nat) : Bool :=
  s.groups.any fun g => (match g.place with | .evicting _ => true | _ => false) && (s.takeOf g).any fun t => s.partOf t == p

/-- Victims stop before their next issue, and the pool keeps room for their records (R441). -/
def State.evictAll (s : State) (vs : List Group) : State :=
  vs.foldl (fun (s : State) v => s.modGroup v.gid fun g => match g.place, g.record with
    | .core c, some _ => { g with place := .evicting c }
    | _, _ => g) (s.reserve vs)

/-- What there is to evict, if anything. -/
def someVictims : List Group → Option (List Group)
  | [] => none
  | vs => some vs

/-- What of a take waits first: an evicted group, or the next new one. -/
def State.waitsOf (s : State) (t : Take) : Option Waiting :=
  ((s.waiting (s.partOf t)).filter fun x => x.take.tid == t.tid).foldl (fun (b : Option Waiting) x =>
    match b with
    | none => some x
    | some y => if x.before y then some x else some y) none

/-- The victims of an eviction for a take that finds no room. -/
def State.evictionFor (s : State) (t : Take) : Option (List Group) :=
  if s.evicting (s.partOf t) then none
  else match s.waitsOf t with
    | none => none
    | some x =>
      if (s.roomFor x).isSome then none
      else (s.victims x).bind fun vs => someVictims (s.evictable vs)

/-- EVICTION (R440). -/
def execEviction (take : Nat) (s : State) : Outcome :=
  .next (match (s.findTake take).bind s.evictionFor with
    | none => s
    | some vs => s.evictAll vs)

/-- One round of R39: the groups that are stalled given those already found. An expected set (R307) holds the lanes that have not retired. -/
def State.stalledOn (s : State) (found : List Nat) (g : Group) : Bool :=
  let holds := fun (y : Group) => (y.lanes.any fun l => l.at_ == .grow) || (found.contains y.gid && y.lanes.any fun l => l.at_ != .retired)
  g.lanes.all fun l => match l.at_ with
    | .retired | .parked _ | .grow => true
    | .barrier team _ => (s.barGroups g team).1.any holds
    | _ => false

/-- The groups that are stalled on GROW (R39): the least set. -/
def State.stalled (s : State) : List Nat :=
  let gs := s.groups.filter fun g => match g.place with
    | .core _ => true
    | _ => false
  (List.range (gs.length + 1)).foldl (fun found _ => (gs.filter (s.stalledOn found)).map Group.gid) []

/-- The victims of a deadlock on a core. -/
def State.deadlock (s : State) (c : Nat) : Option (List Group) :=
  let gs := s.residents c
  let st := s.stalled
  if gs.isEmpty || !(gs.all fun g => st.contains g.gid) || gs.any s.grantable then none
  else match (gs.filter fun g => g.kind == .kernel && g.lanes.any fun l => l.at_ == .grow).reverse with
    | [] => none
    | v :: _ =>
      if s.evicting (s.domainOf c) then none else someVictims (s.evictable (s.withTeam v))

/-- GROW_DEADLOCK_EVICTION (R39, R440). -/
def execGrowDeadlockEviction (core : Nat) (s : State) : Outcome :=
  .next (match s.deadlock core with
    | none => s
    | some vs => s.evictAll vs)

/-- What may stay in flight when a record is closed (R320, R441, R445): waits, walks at a point boundary, staged MMAs, barrier arrivals and
near-memory calls. A walk whose queue is full in the middle of a point can reach no boundary, of which the spec says nothing: it keeps the
words that are still to be pushed (DESIGN CHOICE, assumption 12). -/
def Op.stays (o : Op) (g : Group) : Bool :=
  o.at_ == .held || (match o.instr with
    | .awalk _ _ => o.at_ != .ready && (o.lvals.isEmpty || (o.lvals.all fun x => x.1 == 0) &&
        (g.queues[o.vals.headD 0]?).any fun q => 4096 ≤ q.length)
    | .ncallL _ _ | .ncallB _ _ => o.at_ != .ready
    | .mma _ _ => o.at_ == .issued
    | .bar _ _ | .bart _ _ => o.after.isEmpty
    | _ => false)

/-- Whether a victim's record may be closed. -/
def State.drained (s : State) (g : Group) : Bool := s.ops.all fun o => o.gid != g.gid || o.stays g

/-- The record of an evicted group is written in its place in the pool (R441, R442). -/
def State.fileRecord (s : State) (gid : Nat) : State :=
  match (s.findGroup gid).bind Group.record with
  | none => s
  | some r =>
    let s := ((s.findGroup gid).map fun g => s.writeRecord g r).getD s
    s.modGroup gid fun g => { g with record := some { r with stamp := s.stamp } }

/-- EVICTION_RECORD (R441, R442): the record is written, and the allotment is free. -/
def execEvictionRecord (gid : Nat) (s : State) : Outcome :=
  .next (match s.findGroup gid with
    | none => s
    | some g => match g.place with
      | .evicting _ =>
        if s.drained g && (s.takeOf g).all Take.going then
          ((s.fileRecord gid).modGroup gid fun g => { g with place := .evicted, spans := [] }).modCtx (s.ctxOf g) fun c => { c with state := 2 }
        else s
      | _ => s)

/-! ### Restoration (R62, R443, R445) -/

/-- A group read back from its record stands on a core again (R443), whose L1 holds nothing older than the group's own accesses (R138); a
value in the record that breaks a limit faults the group (R444). -/
def State.bringBack (s : State) (g : Group) (c : Nat) (spans : List Span) : State :=
  let r := s.readBack g
  let y := r.1.seat r.2.1 (.core c) spans
  let s := ((r.1.renew.modGroup g.gid fun _ => y).invalidateL1 c).trimL1 c
  if r.2.2 then s.progError g.gid (y.warps.head?.elim 0 Warp.wid) 0x2206 [] 0 else s

/-- GROUP_RESTORE (R443, R444). -/
def execGroupRestore (gid : Nat) (s : State) : Outcome :=
  .next (match s.findGroup gid with
    | none => s
    | some g => match s.takeOf g with
      | none => s
      | some t =>
        if g.place == .evicted && t.going && s.nextPlaced (.old g t) then
          match s.roomFor (.old g t) with
          | none => s
          | some (c, spans) =>
            let s := s.bringBack g c spans
            if s.groups.any fun k => k.take == t.tid && k.place == .evicted then s
            else s.modCtx t.ctx fun c => { c with state := 1 }
        else s)

end Sys2Proof.Machine
end

