-- ==== Sys2Proof/Machine/Queues.lean ====
section
/-!
DEFINITION. Queues of the command processors (R427 to R432), slates and launches (R433 to R437), the time-slice timer with the partition
reset (R447, R448), and contexts (R446).
-/

namespace Sys2Proof.Machine

/-- Whether the full register path of the host is open (R500, R504). -/
def State.fullPath (s : State) : Bool := s.powered && decide (2 ≤ s.stage)

/-! ### Queue entries (R428 to R431) -/

def State.qctx (s : State) (n q : Nat) : Nat := s.field (queueOff n q + 8) 0 12
def State.qprio (s : State) (n q : Nat) : Nat := s.field (queueOff n q + 8) 12 2
def State.qhead (s : State) (n q : Nat) : Nat := s.field (queueOff n q + 0x10) 0 17
def State.qtail (s : State) (n q : Nat) : Nat := s.field (queueOff n q + 0x18) 0 17
def State.qlogn (s : State) (n q : Nat) : Nat := s.field (queueOff n q) 52 5

/-- Whether a queue takes entries up: enabled, not stopped, not empty, and its command processor serves a device partition. -/
def State.queueOpen (s : State) (n q : Nat) : Bool :=
  decide (n < 8) && decide (q < 16) && s.dpart n < 8 && s.field (queueOff n q + 8) 14 2 == 1 && s.qhead n q != s.qtail n q

/-- An entry (R429). -/
structure Entry where
  bits : Nat

def Entry.op (e : Entry) : Nat := slice e.bits 0 4
def Entry.scope (e : Entry) : Nat := slice e.bits 4 5
def Entry.ctx (e : Entry) : Option Nat := if bitAt e.bits 28 then some (slice e.bits 16 12) else none
def Entry.n (e : Entry) : Nat := slice e.bits 32 32
def Entry.a (e : Entry) : Nat := slice e.bits 64 64
def Entry.b (e : Entry) : Nat := slice e.bits 128 64

/-- The fields that an operation does not use: SCOPE; CTXID and CTXV; N; A; B. -/
def Entry.stray (e : Entry) : Bool :=
  let sc := e.scope != 0
  let cx := slice e.bits 16 13 != 0
  match e.op with
  | 1 => sc || e.n != 0 || e.b != 0
  | 2 | 3 => cx || e.b != 0
  | 4 => cx
  | 5 => sc || cx || e.n != 0 || e.a != 0 || e.b != 0
  | 6 => cx || e.n != 0 || e.b != 0
  | _ => true

/-- The alignment of A. -/
def Entry.align (e : Entry) : Nat := match e.op with
  | 1 => 256
  | 2 | 3 => 4
  | 4 => 16
  | 6 => 8
  | _ => 1

/-- The code of a faulty entry (R429, R430). -/
def Entry.fault (e : Entry) : Option Nat :=
  if slice e.bits 9 7 != 0 || slice e.bits 29 3 != 0 || slice e.bits 192 64 != 0 || e.stray then some 0x2201
  else if e.a % e.align ≠ 0 ∨ (e.op = 4 ∧ e.b % 16 ≠ 0) then some 0x2202
  else if e.op = 4 ∧ (e.n % 16 ≠ 0 ∨ e.n < 16 ∨ 2 ^ 31 < e.n) then some 0x2201
  else none

/-- The queue stops at its head entry (R431). -/
def State.failQueue (s : State) (n q code : Nat) : State :=
  (s.stopQueue n q code (s.qhead n q)).modQueue n q fun q => { q with begun := false }

/-- Poison that command processor `n` has read for an entry is logged, with the processor as the unit (R130, R471). -/
def State.logPoison (s : State) (n : Nat) (f : Nat × Nat) : State :=
  if f.1 = 0x3112 then s.logError 0x3112 0 false false false (unitPath 10 n 0 0 0) 0 f.2 else s

/-- A failed read or write of an entry (R130, R430): 0x2207, with a log entry for poison. -/
def State.failEntry (s : State) (n q : Nat) (f : Nat × Nat) : State := (s.logPoison n f).failQueue n q 0x2207

/-- The head entry: as it began, or as read now. -/
def State.headEntry (s : State) (n q : Nat) : State × Except (Nat × Nat) Nat :=
  if (s.queueRun n q).begun then (s, .ok (s.queueRun n q).entry)
  else s.cpRead (s.qctx n q) (s.field (queueOff n q) 12 40 * 4096 + 32 * (s.qhead n q % 2 ^ s.qlogn n q)) 32

/-- Takes up the head entry of a queue (R427, R428, R431): `k` acts on one of operation `op`. -/
def State.takeUp (s : State) (n q op : Nat) (k : State → Entry → State) : State :=
  if !s.queueOpen n q then s
  else if s.qlogn n q < 4 ∨ 16 < s.qlogn n q then s.failQueue n q 0x2201
  else
    let r := s.headEntry n q
    match r.2 with
    | .error f => r.1.failEntry n q f
    | .ok x =>
      let e : Entry := ⟨x⟩
      match e.fault with
      | some c => r.1.failQueue n q c
      | none => if e.op = op then k r.1 e else s

/-- The entry begins (R430): a hardware error of an earlier take of the queue now ends that take (R476). -/
def State.begin_ (s : State) (n q : Nat) (e : Entry) : State :=
  let gs := (s.queueRun n q).grids
  ({ s with takes := s.takes.map fun (t : Take) => if gs.contains t.tid then { t with laterEntry := true } else t }).modQueue n q
    fun q => { q with begun := true, entry := e.bits, wait := 0 }

/-- Whether every earlier grid of the queue has completed. -/
def State.earlierDone (s : State) (n q : Nat) : Bool := (s.queueRun n q).grids.isEmpty

/-! ### The slate (R433, R435, R436) -/

/-- An allotment word. -/
def allotOf (w : Nat) : Allot :=
  ⟨8 * slice w 0 7, 8 * slice w 7 6, slice w 13 4, slice w 17 4, slice w 21 4, slice w 25 4⟩

/-- What is wrong with an allotment word (R35, R433). TILES holds 0 to 16 in 4 bits, so 15 even steps at most. -/
def allotBad (w : Nat) : Bool :=
  let a := allotOf w
  a.v < 8 || 640 < a.v || 384 < a.s || 12 < a.banks || 8 < a.queues || a.queues % 2 != 0 || a.tiles % 2 != 0 || 12 < a.ways ||
  slice w 29 3 != 0

/-- Whether the prologue allotment exceeds the full one in any field. -/
def allotOver (p f : Allot) : Bool :=
  f.v < p.v || f.s < p.s || f.banks < p.banks || f.queues < p.queues || f.tiles < p.tiles || f.ways < p.ways

/-- The fixed part of a slate; the tables come from elsewhere. -/
def slateOf (x level : Nat) : Slate where
  code := slice x 0 64
  script := slice x 64 64
  scimg := slice x 134 46 * 64
  nent := slice x 180 10
  gridX := slice x 192 32
  gridY := slice x 224 32
  gridZ := slice x 256 32
  warps := slice x 288 7 + 1
  width := 4 * 2 ^ slice x 295 3
  cut := slice x 298 3
  team := slice x 301 4 + 1
  sys := bitAt x 305
  retake := bitAt x 306
  prio := min (slice x 307 2) level
  pro := allotOf (slice x 320 32)
  full := allotOf (slice x 352 32)
  seed := BitVec.ofNat 64 (slice x 448 64)
  privBase := slice x 512 64
  privSize := slice x 576 32
  constSize := slice x 608 32
  constBase := slice x 640 64
  args := []
  scopes := []
  wset := []
  flags := []
  deps := []

/-- Reserved fields, and fields outside their ranges (R433, R434). -/
def slateBad (x : Nat) : Bool :=
  let t := slateOf x 3
  let nargs := slice x 436 9
  slice x 64 6 != 0 || slice x 127 7 != 0 || slice x 190 2 != 0 || slice x 309 11 != 0 || slice x 384 2 != 0 || slice x 445 3 != 0 ||
  slice x 768 4 != 0 || slice x 896 1152 != 0 ||
  t.code % 64 != 0 || 1024 < slice x 116 11 || t.gridX == 0 || t.gridY == 0 || t.gridZ == 0 || 2 ^ 32 ≤ t.total ||
  4 < slice x 295 3 || 4 < t.cut || 1024 < t.warps * t.width || allotBad (slice x 320 32) || allotBad (slice x 352 32) ||
  allotOver t.pro t.full || 384 < nargs || t.pro.s < nargs || t.total % t.team != 0 ||
  t.privBase % 16 != 0 || t.privSize % 16 != 0 || 65536 < t.privSize || 65536 < t.constSize || t.constBase % 16 != 0 ||
  slice x 704 64 % 16 != 0 || slice x 832 64 % 16 != 0

/-- Entries of `n` bytes each in a table, first to last. -/
def tableEntries (n count x : Nat) : List Nat := (List.range count).map fun i => slice x (8 * n * i) (8 * n)

/-- Reads a table that a slate names; no table where it is empty. -/
def State.readTable (s : State) (ctx va n count : Nat) : State × Except (Nat × Nat) (List Nat) :=
  if count = 0 then (s, .ok [])
  else
    let r := s.cpRead ctx va (n * count)
    (r.1, match r.2 with
      | .error f => .error f
      | .ok x => .ok (tableEntries n count x))

/-- A tile map: its header, flag ranges and dependency entries. -/
structure TileMap where
  header : Nat
  flags : List Nat
  deps : List Nat

def TileMap.nflag (m : TileMap) : Nat := slice m.header 0 16
def TileMap.ndep (m : TileMap) : Nat := slice m.header 16 16

/-- Whether the header of a tile map is within R436. -/
def headerOk (h : Nat) : Bool := slice h 32 96 == 0 && slice h 0 16 ≤ 1024 && slice h 16 16 ≤ 4095

/-- Reads a tile map (R436). A header beyond R436 is not followed. -/
def State.readTileMap (s : State) (ctx va : Nat) : State × Except (Nat × Nat) TileMap :=
  if va = 0 then (s, .ok ⟨0, [], []⟩)
  else
    let h := s.cpRead ctx va 16
    match h.2 with
    | .error f => (h.1, .error f)
    | .ok x =>
      if !headerOk x then (h.1, .ok ⟨x, [], []⟩)
      else
        let f := h.1.readTable ctx (va + 16) 16 (slice x 0 16)
        match f.2 with
        | .error e => (f.1, .error e)
        | .ok fs =>
          let d := f.1.readTable ctx (va + 16 + 16 * slice x 0 16) 16 (slice x 16 16)
          (d.1, match d.2 with
            | .error e => .error e
            | .ok ds => .ok ⟨x, fs, ds⟩)

/-- A dependency entry: groups, then flags. -/
def depOf (d : Nat) : Nat × Nat × Nat × Nat := (slice d 0 32, slice d 32 32, slice d 64 10, slice d 74 10)

/-- What R436 refuses; `n` is the producer's number of flags, none without a producer. -/
def TileMap.bad (m : TileMap) (n : Option Nat) : Bool :=
  !headerOk m.header || m.deps.any fun d =>
    let x := depOf d
    slice d 84 44 != 0 || x.2.1 < x.1 || x.2.2.2 < x.2.2.1 || n.all fun k => k ≤ x.2.2.2

/-! ### Whether a shape fits (R39, R48, R434) -/

/-- How many groups of a need, up to `k`, an empty core holds: they are placed as densely as they can be, and each is seated with its
slots. -/
def State.fitCount (s : State) (d : Need) (width : Nat) : Nat → Nat
  | 0 => 0
  | k + 1 => match s.placeBy 0 d fun _ => 0 with
    | none => 0
    | some spans =>
      let g := newGroup s.nextGid 0 .kernel 0 0 d.ks.length width (Nat.log2 (d.ks.headD 1)) 0 0 d.allot true []
      1 + (s.addGroup (s.seat g (.core 0) spans)).fitCount d width k

/-- Usable cores of the fullest cluster of a device partition, whether they have power or not (R494). -/
def State.clusterSize (s : State) (p : Nat) : Nat :=
  ((List.range 16).map fun k => ((List.range 4).filter fun i => s.coreGood (4 * k + i) && s.dpartOfCore (4 * k + i) == p).length).foldl max 0

/-- Whether the full allotment fits an empty core, its team an empty cluster, and its cut depth the warps (R434). R39 and R434 do not say by
which allotment a team is counted: the model takes the full one of every member (DESIGN CHOICE, assumption 62). -/
def State.slateFits (s : State) (p : Nat) (t : Slate) : Bool :=
  decide (2 ^ t.cut ≤ t.width / 4) &&
  let d := newNeed t.warps t.width t.cut true t.full
  let n := ({ s with groups := [] }).fitCount d t.width t.team
  decide (0 < n) && decide (t.team ≤ n * s.clusterSize p)

/-! ### LAUNCH (R430, R431, R434, R437) -/

/-- What a LAUNCH reads beside the slate. -/
structure Tables where
  map : Except (Nat × Nat) TileMap
  scopes : Except (Nat × Nat) (List Nat)
  args : Except (Nat × Nat) (List Nat)
  wset : Except (Nat × Nat) (List Nat)

def State.readTables (s : State) (ctx x : Nat) : State × Tables :=
  let m := s.readTileMap ctx (slice x 832 64)
  let c := m.1.readTable ctx (slice x 704 64) 16 (if slice x 704 64 = 0 then 0 else 28)
  let a := c.1.readTable ctx (slice x 384 52) 4 (slice x 436 9)
  let w := a.1.readTable ctx (slice x 772 48 * 16) 16 (slice x 820 12)
  (w.1, ⟨m.2, c.2, a.2, w.2⟩)

/-- The failed reads of tables: the first, and all that met poison. -/
def Tables.fails (t : Tables) : List (Nat × Nat) :=
  let f {α : Type} (x : Except (Nat × Nat) α) : List (Nat × Nat) := match x with
    | .error e => [e]
    | .ok _ => []
  f t.map ++ f t.scopes ++ f t.args ++ f t.wset

def okList (x : Except (Nat × Nat) (List Nat)) : List Nat := match x with
  | .ok xs => xs
  | .error _ => []

/-- The code of a refusal, in the order of R434. -/
def State.refusal (s : State) (n q p x : Nat) (t : Tables) : Option Nat :=
  let producer := (s.queueRun n q).lastGrid.bind s.findTake
  let mapBad := match t.map with
    | .ok m => m.bad (producer.map fun k => k.slate.flags.length)
    | .error _ => false
  if slateBad x || mapBad then some 0x2203
  else if !s.slateFits p (slateOf x 3) then some 0x2204
  else if (okList t.scopes).any fun e => slice e 73 55 != 0 then some 0x2205
  else if !t.fails.isEmpty then some 0x2207
  else none

/-- A refused launch (R431): the queue stops, and a record goes into the ring of the take's context. -/
def State.refuse (s : State) (n q ctx code : Nat) (fails : List (Nat × Nat)) : State :=
  let s := fails.foldl (fun (s : State) f => s.logPoison n f) s
  (s.failQueue n q code).addRecord ctx ⟨code, ctx, 0, 0, 0, 0, 0, 0, 0, 0, false, 0, 0, s.counter, none, false⟩

/-- The slate with its tables. -/
def fullSlate (x level : Nat) (t : Tables) : Slate :=
  { slateOf x level with
    args := (okList t.args).map fun w => BitVec.ofNat 32 w
    scopes := (okList t.scopes).map fun w => BitVec.ofNat 128 w
    wset := (okList t.wset).map fun w => (slice w 0 64, slice w 64 64)
    flags := (match t.map with | .ok m => m.flags | .error _ => []).map fun w => (slice w 0 64, slice w 64 64)
    deps := (match t.map with | .ok m => m.deps | .error _ => []).map depOf }

/-- A take as it starts. -/
def newTake (tid ctx n q entry a : Nat) (sl : Slate) (producer : Option Nat) : Take where
  tid := tid
  ctx := ctx
  number := tid
  cp := n
  queue := q
  entry := entry
  slateAt := a
  slate := sl
  producer := producer
  nextGroup := 0
  retakes := 0
  entries := []
  flagsSet := []
  triggerDone := false
  complete := false
  taint := []
  sticky := false
  marked := []
  copies := []
  uncopied := []
  copyDue := []
  unrestorable := false
  err := none
  hwErr := none
  stamp := 0
  atoms := []
  laterEntry := false
  words := []

/-- Step 1 of R437 on the context. -/
def Ctx.load (c : Ctx) (t : Take) : Ctx :=
  { c with
    take := BitVec.ofNat 64 t.number
    slate := BitVec.ofNat 64 t.slateAt
    script := BitVec.ofNat 64 (setBits (setBits t.slate.script 0 6 0) 63 1 0)
    state := 1
    scopes := NMap.putAll 0 [] (t.slate.scopes.mapIdx fun i e => (i + 4, e)) }

/-- TAKE_START (R437), and the timer (R447). -/
def State.launchTake (s : State) (n q : Nat) (t : Take) : State :=
  let s := { s with takeCtr := s.takeCtr + 1, takes := s.takes ++ [t] }
  let s := (s.modCtx t.ctx fun c => c.load t).startTake t
  let s := (s.modQueue n q fun r => { r with grids := r.grids ++ [t.tid] }).loadTimer n q
  if t.slate.deps.isEmpty then s else s.passLaunch t

/-- QUEUE_LAUNCH (R430, R431, R434, R436, R437). -/
def execQueueLaunch (n q : Nat) (s : State) : Outcome :=
  .next (s.takeUp n q 1 fun s e =>
    let ctx := e.ctx.getD (s.qctx n q)
    match s.findCtx ctx with
    | none => s.failQueue n q 0x2208
    | some c =>
      if c.dpart ≠ s.dpart n then s.failQueue n q 0x2208
      else if c.state ≠ 0 ∨ (s.queueRun n q).begun then s
      else
        let s := s.begin_ n q e
        let r := s.cpRead ctx e.a 256
        match r.2 with
        | .error f => r.1.refuse n q ctx 0x2207 [f]
        | .ok x =>
          if slateBad x then r.1.refuse n q ctx 0x2203 []
          else
            let t := r.1.readTables ctx x
            match t.1.refusal n q c.dpart x t.2 with
            | some code => t.1.refuse n q ctx code t.2.fails
            | none =>
              let tid := s.takeCtr + 1
              t.1.launchTake n q
                (newTake tid ctx n q (s.qhead n q) e.a (fullSlate x (s.qprio n q) t.2) (s.queueRun n q).lastGrid))

/-! ### SEMWAIT and SEMSIG (R430, R432) -/

/-- One try of a SEMWAIT entry. -/
def State.trySem (s : State) (n q : Nat) (e : Entry) : State :=
  let ctx := s.qctx n q
  match s.translateFresh ctx e.a .write with
  | .error _ => s.failEntry n q (0x2207, 0)
  | .ok t =>
    if 2 ^ 52 ≤ e.a then s.failEntry n q (0x2207, 0)
    else
      let r := (s.keepFresh ctx e.a .write).cpAtomic ctx e.scope t fun v => if e.n ≤ v then some (v - e.n) else none
      if r.2.2 then r.1.failEntry n q (0x3112, t.pg.phys t.a)
      else if e.n ≤ r.2.1 then
        let p := s.dpart n
        let s := ((List.range 64).filter fun c => s.dpartOfCore c == p).foldl State.invalidateL1 r.1
        (s.loadTimer n q).advanceQueue n q
      else r.1.modQueue n q fun x => { x with wait := s.stamp + 1 }

/-- QUEUE_SEMWAIT (R432): the first try. -/
def execQueueSemwait (n q : Nat) (s : State) : Outcome :=
  .next (s.takeUp n q 2 fun s e => if (s.queueRun n q).begun then s else (s.begin_ n q e).trySem n q e)

/-- Whether the word of a waiting entry has been written since the last try. -/
def State.semWritten (s : State) (n q : Nat) (e : Entry) : Bool :=
  match s.translateFresh (s.qctx n q) e.a .write with
  | .error _ => true
  | .ok t => (s.queueRun n q).wait ≤ s.wordStamp t.a

/-- QUEUE_SEMWAIT_RETRY (R432). -/
def execQueueSemwaitRetry (n q : Nat) (s : State) : Outcome :=
  .next (s.takeUp n q 2 fun s e => if (s.queueRun n q).begun && s.semWritten n q e then s.trySem n q e else s)

/-- QUEUE_SEMSIG (R430, R432): the release covers the earlier grids, whose writes have all been performed. -/
def execQueueSemsig (n q : Nat) (s : State) : Outcome :=
  .next (s.takeUp n q 3 fun s e =>
    if !s.earlierDone n q then s
    else match s.translateFresh (s.qctx n q) e.a .write with
      | .error _ => s.failEntry n q (0x2207, 0)
      | .ok t =>
        if 2 ^ 52 ≤ e.a then s.failEntry n q (0x2207, 0)
        else
          let r := (s.keepFresh (s.qctx n q) e.a .write).cpAtomic (s.qctx n q) e.scope t (semAdd e.n)
          if r.2.2 then r.1.failEntry n q (0x3112, t.pg.phys t.a) else r.1.advanceQueue n q)

/-! ### COPY, BARRIER, TIMESTAMP (R430) -/

/-- QUEUE_COPY: the copy starts. -/
def execQueueCopy (n q : Nat) (s : State) : Outcome :=
  .next (s.takeUp n q 4 fun s e => if s.earlierDone n q && !(s.queueRun n q).begun then s.begin_ n q e else s)

/-- The next 8-byte unit of a copy (R137), which QueueRun.wait counts: what failed, if anything. -/
def State.copyUnit8 (s : State) (n q : Nat) (e : Entry) : State × Option (Nat × Nat) :=
  let ctx := s.qctx n q
  let k := (s.queueRun n q).wait
  let x := s.cpRead ctx (e.a + 8 * k) 8
  match x.2 with
  | .error f => (x.1, some f)
  | .ok v => match x.1.cpWrites ctx [(e.b + 8 * k, 8)] v with
    | none => (x.1, some (0x2207, 0))
    | some s => (s.modQueue n q fun r => { r with wait := k + 1 }, none)

/-- Up to `fuel` further units of a copy: the first failure, if any. -/
def State.copyUnits8 (s : State) (n q : Nat) (e : Entry) : Nat → State × Option (Nat × Nat)
  | 0 => (s, none)
  | fuel + 1 =>
    let r := s.copyUnit8 n q e
    match r.2 with
    | some f => (r.1, some f)
    | none => r.1.copyUnits8 n q e fuel

/-- A copy performs one unit ahead of the rest (R137). -/
def State.copyPart (s : State) (n q : Nat) : Option State :=
  let r := s.queueRun n q
  let e : Entry := ⟨r.entry⟩
  if s.queueOpen n q && r.begun && e.op == 4 && decide (r.wait + 1 < e.n / 8) then
    let x := s.copyUnit8 n q e
    some (match x.2 with
      | some f => x.1.failEntry n q f
      | none => x.1)
  else none

/-- QUEUE_COPY_COMPLETE: every unit is performed. -/
def execQueueCopyComplete (n q : Nat) (s : State) : Outcome :=
  .next (s.takeUp n q 4 fun s e =>
    if !(s.queueRun n q).begun then s
    else
      let r := s.copyUnits8 n q e (e.n / 8 - (s.queueRun n q).wait)
      match r.2 with
      | some f => r.1.failEntry n q f
      | none => (r.1.cpCover (s.qctx n q) e.b e.n).advanceQueue n q)

/-- QUEUE_BARRIER. -/
def execQueueBarrier (n q : Nat) (s : State) : Outcome :=
  .next (s.takeUp n q 5 fun s _ => if s.earlierDone n q then s.advanceQueue n q else s)

/-- QUEUE_TIMESTAMP. -/
def execQueueTimestamp (n q : Nat) (s : State) : Outcome :=
  .next (s.takeUp n q 6 fun s e =>
    if !s.earlierDone n q then s
    else match s.cpWrite (s.qctx n q) e.a 8 (s.counter % 2 ^ 64) with
      | none => s.failEntry n q (0x2207, 0)
      | some s => s.advanceQueue n q)

/-! ### Doorbell and ERR -/

/-- The doorbell (R428). -/
def State.ring (s : State) (n q tail : Nat) : State := s.setField (queueOff n q + 0x18) 0 17 tail

/-- ERR goes, and the entry is taken up again (R431). -/
def State.clearErr (s : State) (n q : Nat) : State := s.setField (queueOff n q + 8) 15 1 0

/-- QTAIL_WRITE (R428). -/
def execQtailWrite (n q : Nat) (tail : BitVec 17) (s : State) : Outcome :=
  .next (if s.fullPath && n < 8 && q < 16 then s.ring n q tail.toNat else s)

/-- ERR_CLEAR (R428, R431): the entry is taken up again. -/
def execErrClear (n q : Nat) (s : State) : Outcome :=
  .next (if s.fullPath && n < 8 && q < 16 then s.clearErr n q else s)

/-! ### The time-slice timer (R447, R448) -/

/-- Whether a queue's timer counts: it holds a started grid that has not completed, or a SEMWAIT entry that has begun. -/
def State.timerRuns (s : State) (n q : Nat) : Bool :=
  let r := s.queueRun n q
  !r.grids.isEmpty || (r.begun && (Entry.mk r.entry).op == 2)

/-- Dirty lines of a device partition are written back (R448). -/
def State.cleanPart (s : State) (p : Nat) : State :=
  ((s.l2.map Prod.fst).filter fun l => s.dpart (cellStack (128 * l)) == p).foldl State.cleanLine s

/-- A take ends by a partition reset: its context gets a record. -/
def State.resetTake (s : State) (t : Take) (code : Nat) : State :=
  let u := s.abandon t.tid
  let s := ((u.clearTake t).freeCopies ((u.findTake t.tid).getD t)).addRecord t.ctx (s.bareRecord t code)
  { s with takes := s.takes.filter fun x => x.tid != t.tid }

/-- A queue stops in a partition reset. -/
def State.resetQueue (s : State) (n q code : Nat) : State :=
  (s.stopQueue n q code (s.qhead n q)).modQueue n q fun r => { r with begun := false, grids := [], timer := 0, expired := false }

/-- The partition reset (R448); `by_` is the expiring queue. -/
def State.partitionReset (s : State) (p : Nat) (by_ : Option (Nat × Nat)) : State :=
  let own := by_.map fun x => s.qctx x.1 x.2
  let s := (s.takes.filter fun t => s.partOf t == p && !t.complete).foldl (fun (s : State) t =>
    s.resetTake t (if own = some t.ctx then 0x22F0 else 0x22F1)) s
  let s := s.cleanPart p
  let s := { s with ctxs := s.ctxs.map fun (c : Ctx) =>
    if c.dpart = p then { c with state := 0, taint := false, stop := false, haltDue := false } else c }
  ((List.range 8).filter fun n => s.dpart n == p).foldl (fun (s : State) n =>
    (List.range 16).foldl (fun (s : State) q => s.resetQueue n q (if by_ = some (n, q) then 0x22F0 else 0x22F1)) s) s

/-- TIME_SLICE_EXPIRY (R447, R448). -/
def execTimeSliceExpiry (n q : Nat) (s : State) : Outcome :=
  .next (if (s.queueRun n q).expired && s.dpart n < 8 then s.partitionReset (s.dpart n) (some (n, q)) else s)

/-! ### Contexts (R446) -/

/-- A context as created (R411 to R414). -/
def newCtx (id dpart : Nat) (priv dpriv : Bool) : Ctx where
  id := id
  dpart := dpart
  priv := priv
  dpriv := dpriv
  take := 0
  ptroot := 0
  debug := false
  stop := false
  haltDue := false
  state := 0
  taint := false
  trapring := 0
  head := 0
  tail := 0
  trapsem := 0
  slate := 0
  script := 0
  peertab := 0
  scopes := []
  records := []
  stops := []

/-- The status of a write of the context register. -/
def State.ctxStatus (s : State) (k : Nat) : State := s.setReg 0x3408 (BitVec.ofNat 64 k)

/-- A create command (R446): in recovery mode, and before the device is ready, it has status 3 (R500, R504). -/
def State.contextCreate (s : State) (id dpart : Nat) (priv dpriv : Bool) : State :=
  if s.mode = 2 ∨ s.stage ≠ 6 ∨ (s.stacksOf dpart).isEmpty then s.ctxStatus 3
  else if (s.findCtx id).isSome then s.ctxStatus 1
  else ({ s with ctxs := s.ctxs ++ [newCtx id dpart priv dpriv] }).ctxStatus 0

/-- An end command (R446): the context's translations and waiting records go with it. -/
def State.contextEnd (s : State) (id : Nat) : State :=
  match s.findCtx id with
  | none => s.ctxStatus 1
  | some c =>
    if c.state ≠ 0 then s.ctxStatus 2
    else ({ s with
      ctxs := s.ctxs.filter fun x => x.id != id
      tlb := s.tlb.filter fun x => x.ctx != id
      walkers := s.walkers.filter fun x => x.ctx != id
      seen := s.seen.filter fun x => x.ctx != id }).ctxStatus 0

/-- CONTEXT_CREATE. -/
def execContextCreate (id : BitVec 12) (dpart : BitVec 3) (priv dpriv : Bool) (s : State) : Outcome :=
  .next (s.contextCreate id.toNat dpart.toNat priv dpriv)

/-- CONTEXT_END. -/
def execContextEnd (id : BitVec 12) (s : State) : Outcome := .next (s.contextEnd id.toNat)

end Sys2Proof.Machine
end

