-- ==== Sys2Proof/Machine/Device.lean ====
section
/-!
DEFINITION. The device around its command processors: self-test (R479, R480), fencing, repair, bring-up and the resets (R496,
R499, R500, R503 to R505), the host link and the host's own accesses (R481 to R483), UALink (R484 to R488), device partitions (R489)
and power (R491 to R496).
-/

namespace Sys2Proof.Machine

/-! ### Self-test (R479, R480) -/

/-- The order of results: KIND, A, B, C, D. -/
def pathKey (x : Nat) : Nat :=
  slice x 0 4 * 2 ^ 36 + slice x 4 6 * 2 ^ 30 + slice x 10 6 * 2 ^ 24 + slice x 16 16 * 2 ^ 8 + slice x 32 8

def insertPath (x : Nat) : List Nat → List Nat
  | [] => [x]
  | y :: ys => if pathKey x ≤ pathKey y then x :: y :: ys else y :: insertPath x ys

/-- The path words of failing units, in order, one for each unit. -/
def failPaths (xs : List (BitVec 64)) : List Nat :=
  ((xs.map BitVec.toNat).filter fun x => 1 ≤ slice x 0 4 && slice x 0 4 ≤ 10 && slice x 40 24 == 0).eraseDups.foldr insertPath []

/-- The results of a run, with its STATE. -/
def State.bistResults (s : State) (st : Nat) (paths : List Nat) : State :=
  let s := { s with regs := s.regs.filter fun x => x.1 < 0x30100 || 0x30300 ≤ x.1 }
  let s := s.setReg 0x30008 (BitVec.ofNat 64 (st + 2 ^ 8 * min paths.length 255 + 2 ^ 16 * min paths.length 64))
  (paths.take 64).zipIdx.foldl (fun (s : State) x => s.setReg (0x30100 + 8 * x.2) (BitVec.ofNat 64 x.1)) s

/-- What the test of a stack's HBM4E leaves: undefined values, and poison clear. -/
def State.testStack (s : State) (m : Nat) : State :=
  { s with
    mem := s.mem.filter fun x => isHost x.1 || cellStack x.1 != m
    poison := s.poison.filter fun x => isHost (32 * x.1) || cellStack (32 * x.1) != m
    veil := NMap.put 0 s.veil m (s.fresh + 1)
    fresh := s.fresh + 1 }

/-- Free bits for a line. -/
def State.freeLine (s : State) (line : Nat) : BitVec 1024 :=
  BitVec.ofNat 1024 ((List.range 16).foldl (fun x i => x * 2 ^ 64 + s.free (980 + i) line) 0)

/-- What the test of a stack's L2 slices leaves of the lines that they hold. -/
def State.testL2 (s : State) (m : Nat) : State :=
  { s with
    l2 := s.l2.map fun x => if cellStack (128 * x.1) = m then
      (x.1, x.2.map fun (l : L2Line) => { l with data := s.freeLine x.1, poison := 0 }) else x
    fresh := s.fresh + 1 }

/-- What a run over classes `scope` leaves of the memories of stacks `ms` (R480). -/
def State.testMemory (s : State) (scope : Nat) (ms : List Nat) : State :=
  let s := if bitAt scope 3 then ms.foldl State.testL2 s else s
  if bitAt scope 4 then ms.foldl State.testStack s else s

/-- A write of GO with its selection. A run in progress goes on, and the GO is refused. -/
def State.bistGo (s : State) (scope mask : Nat) : State :=
  let s := s.setReg 0x30000 (BitVec.ofNat 64 (2 ^ 8 * scope + 2 ^ 32 * mask))
  if s.bistRun ≠ 0 then s.setField 0x30008 0 2 3
  else if s.ctxs.any fun c => bitAt mask c.dpart && c.state != 0 then s.bistResults 3 []
  else { s.bistResults 1 [] with bistRun := 1 + 2 * scope + 2 ^ 11 * mask }

/-- BIST_GO. -/
def execBistGo (scope : BitVec 10) (dpmask : BitVec 8) (s : State) : Outcome :=
  .next (if s.fullPath then s.bistGo scope.toNat dpmask.toNat else s)

/-- The class that tests a unit of a kind (R471, R479); core SRAM is named by its core's lanes, and the host link has none. -/
def bistClasses (kind : Nat) : List Nat := match kind with
  | 1 => [0, 2]
  | 2 => [1]
  | 3 => [3]
  | 4 => [4]
  | 5 => [5]
  | 6 => [6]
  | 7 => [7]
  | 9 => [8]
  | 10 => [9]
  | _ => []

/-- The stacks with whose device partition a unit comes (R427, R489): a walker serves those of its die, a UALink port all. -/
def unitStacks (x : Nat) : List Nat :=
  let a := slice x 4 6
  match slice x 0 4 with
  | 1 | 2 | 3 | 5 => [a / 8]
  | 4 | 6 | 10 => [a]
  | 9 => (List.range 4).map fun i => 4 * a + i
  | 7 => List.range 8
  | _ => []

/-- The failing units that a run over classes `scope` of stacks `ms` has tested (R480). -/
def testedPaths (scope : Nat) (ms : List Nat) (xs : List (BitVec 64)) : List Nat :=
  (failPaths xs).filter fun x => ((bistClasses (slice x 0 4)).any fun k => bitAt scope k) && (unitStacks x).any ms.contains

/-- The stacks of the device partitions that a run tests. -/
def State.bistStacks (s : State) (mask : Nat) : List Nat := (List.range 8).filter fun m => s.dpart m < 8 && bitAt mask (s.dpart m)

/-- BIST_DONE. -/
def execBistDone (failing : List (BitVec 64)) (s : State) : Outcome :=
  .next (if s.bistRun = 0 then s
  else
    let scope := slice s.bistRun 1 10
    let ms := s.bistStacks (slice s.bistRun 11 8)
    { (s.testMemory scope ms).bistResults 2 (testedPaths scope ms failing) with bistRun := 0 })

/-! ### UALink ports (R484, R486, R505) -/

def portOff (i : Nat) : Nat := 0x41008 + 8 * i

/-- Whether lane `j` of port `i` is fenced. -/
def State.laneFenced (s : State) (i j : Nat) : Bool :=
  if i < 16 then bitAt (s.regN 0x45010) (4 * i + j) else bitAt (s.regN 0x45018) (4 * i + j - 64)

/-- WIDTH of a port with so many working lanes. -/
def widthCode (n : Nat) : Nat := if 4 ≤ n then 3 else if 2 ≤ n then 2 else n

/-- A port trains: `lanes` is the mask of its working lanes, of which fenced ones are out. A port that is not enabled is down. -/
def State.trainPort (s : State) (i lanes peer : Nat) : State :=
  let w := if s.field (portOff i) 0 1 = 0 then 0
    else widthCode ((List.range 4).filter fun j => bitAt lanes j && !s.laneFenced i j).length
  s.setReg (portOff i) (BitVec.ofNat 64 (s.field (portOff i) 0 1 + 2 * w + 8 * (if w = 0 then 0 else peer)))

/-- Whether some port is up. -/
def State.portUp (s : State) : Bool := (List.range 24).any fun i => s.field (portOff i) 1 2 != 0

/-- UALINK_PORT_TRAIN. -/
def execUalinkPortTrain (port lanes : Nat) (peer : BitVec 10) (s : State) : Outcome :=
  .next (if port < 24 then s.trainPort port lanes peer.toNat else s)

/-- Ports that are up and hold a lane that `old` did not fence go down until they train again (R505). -/
def State.dropPorts (s : State) (old : State) : State :=
  (List.range 24).foldl (fun (s : State) i =>
    if (List.range 4).any fun j => s.laneFenced i j && !old.laneFenced i j then s.trainPort i 0 0 else s) s

/-! ### Fencing (R504, R505) -/

/-- Firmware fences the units that the self-test of bring-up found. -/
def State.fence (s : State) (x : Nat) : State :=
  let a := slice x 4 6
  let set := fun (off b : Nat) => s.setField off b 1 1
  match slice x 0 4 with
  | 1 | 2 => set 0x45000 a
  | 5 => set 0x45008 a
  | 7 =>
    let j := slice x 32 8
    if 24 ≤ a ∨ 4 ≤ j then s else if a < 16 then set 0x45010 (4 * a + j) else set 0x45018 (4 * a + j - 64)
  | _ => s

/-! ### The host link (R481, R483) -/

/-- What the link has reached: WIDTH 0 is down, or, where a rate is aimed at, training. -/
def State.setLink (s : State) (width rate : Nat) (ide : Bool) : State :=
  s.setReg 0x40000 (BitVec.ofNat 64 (if width = 0 then (if rate = 0 then 0 else 2 ^ 8)
    else width + 2 ^ 5 * rate + 2 ^ 8 * 2 + 2 ^ 10 * bit ide))

/-- The link trains at bring-up; what it reaches is the part's and the host's. -/
def State.trainLink (s : State) : State :=
  s.setLink (match s.free 960 0 % 3 with | 0 => 16 | 1 => 8 | _ => 4) (1 + s.free 961 0 % 6) (bitAt (s.free 962 0) 0)

/-- HOST_LINK_RETRAIN: the link goes down (WIDTH and RATE 0), trains (WIDTH 0), or has trained to a width and rate. It trains from stage 2
on, or in the hold of stage 1 (R500, R504). -/
def execHostLinkRetrain (width rate : Nat) (ide : Bool) (s : State) : Outcome :=
  .next (if s.powered && decide (1 ≤ s.stage) && [0, 4, 8, 16].contains width && decide (rate ≤ 6) && (width == 0 || decide (1 ≤ rate))
    then s.setLink width rate ide else s)

/-! ### Bring-up (R500, R504) -/

/-- Whether the slot is active (R498). -/
def Fuses.slotState (f : Fuses) (n : Nat) : Nat := slice f.slots.toNat (2 * n) 2

/-- MODE that the mask ROM reaches: 1 the primary image, 2 the recovery image, 0 none (R500). -/
def State.bootMode (s : State) : Nat :=
  if !s.rstrap && s.fuses.primary.any (fun (i : Image) =>
      s.fuses.slotState i.slot == 1 && i.sigOk && i.digestOk && decide (s.fuses.ctr ≤ i.version)) then 1
  else if s.fuses.recoveryOk then 2 else 0

/-- Stacks train (R504): which fail is the part's; one that is not usable does. -/
def State.trainStacks (s : State) : State :=
  s.setField 0x45028 8 8 ((s.free 963 0 ||| (255 - s.fuses.stackSet.toNat)) % 256)

/-- Firmware's self-test over every unit (R480, R504). -/
def State.bootTest (s : State) (warm : Bool) : State :=
  let paths := failPaths (Config.selfTest s.fresh)
  let s := s.testMemory (if warm then 0x3EF else 0x3FF) (List.range 8)
  paths.foldl State.fence (s.bistResults 2 paths)

/-- Bring-up, up to ready or to the hold of stage 1 (R500, R504). -/
def State.bringUp (s : State) (warm : Bool) : State :=
  let s := s.trainLink
  let m := s.bootMode
  if m = 0 then ((s.setField 0x45028 0 4 1).setField 0x45028 4 4 (1 + s.free 964 0 % 15)).renew
  else ((({ s with mode := m, running := if m = 1 then s.fuses.primary else none }).trainStacks.bootTest warm).setField 0x45028 0 4 6).renew

/-! ### Resets (R496, R503) -/

/-- The device with all state lost but fuses and flash, the straps' levels and the host's memory. -/
def State.lost (s : State) (on : Bool) : State :=
  { State.reset with
    powered := on
    fresh := s.fresh + 1
    picks := s.picks
    inputs := s.inputs
    rstrap := s.rstrap
    ostrap := s.ostrap
    nonce := Config.nextNonce s.fresh
    fuses := s.fuses
    mem := s.mem.filter fun x => isHost x.1
    poison := s.poison.filter fun x => isHost (32 * x.1) }

/-- COLD_RESET (R503, R504): HBM4E holds undefined values with poison clear. -/
def execColdReset (s : State) : Outcome :=
  .next (((List.range 8).foldl State.testStack (s.lost true)).bringUp false)

/-- The warm reset: HBM4E keeps its contents and poison, and TRIPS counts on, since it counts the trips since the cold reset (R492 over
R503). -/
def State.warm (s : State) : State :=
  (({ s.lost true with mem := s.mem, poison := s.poison, veil := s.veil }).setField 0x430B8 8 8 (s.field 0x430B8 8 8)).bringUp true

/-- WARM_RESET. -/
def execWarmReset (s : State) : Outcome := .next (if s.powered then s.warm else s)

/-- FUNCTION_RESET (R448, R503). -/
def execFunctionReset (p : BitVec 3) (s : State) : Outcome :=
  .next (if (s.stacksOf p.toNat).isEmpty then s else s.partitionReset p.toNat none)

/-- PACKAGE_SUPPLY_LOSS (R496). -/
def execPackageSupplyLoss (s : State) : Outcome := .next (s.lost false)

/-- STRAP_CHANGE (R498). -/
def execStrapChange (recovery owner : Bool) (s : State) : Outcome := .next { s with rstrap := recovery, ostrap := owner }

/-! ### Repair and scrub (R130, R505) -/

/-- A write of PPR (R505), while no context exists and no repair runs. -/
def State.pprWrite (s : State) (v : Nat) : State :=
  if !s.ctxs.isEmpty || s.field 0x45030 29 2 = 1 then s
  else s.setReg 0x45030 (BitVec.ofNat 64 (slice v 0 28 + 2 ^ 29 * (if bitAt v 28 then 1 else s.field 0x45030 29 2)))

/-- PPR_REPAIR: GO with its row. -/
def execPprRepair (v : BitVec 64) (s : State) : Outcome := .next (if s.fullPath then s.pprWrite (setBits v.toNat 28 1 1) else s)

/-- A row's cells hold undefined values (R505, R471). -/
def State.spoilRow (s : State) (m c bank row : Nat) : State :=
  ((List.range 256).foldl (fun (s : State) i =>
    s.setCells (cellAt m c (2 ^ 15 * row + 2 ^ 11 * bank + 8 * i)) 8 (s.free 965 i)) s).renew

/-- PPR_DONE. -/
def execPprDone (spare : Bool) (s : State) : Outcome :=
  .next (if s.field 0x45030 29 2 = 1 then
    let s := s.setField 0x45030 29 2 (if spare then 2 else 3)
    if spare then s.spoilRow (s.field 0x45030 0 3) (s.field 0x45030 3 6) (s.field 0x45030 9 4) (s.field 0x45030 13 15) else s
  else s)

/-- ECC_SCRUB (R130). -/
def execEccScrub (sector : Nat) (s : State) : Outcome :=
  .next (if isHost (32 * sector) then s else s.setPoisonBelow sector true)

/-! ### Device partitions (R489) -/

/-- A write of DPCFG: ignored while a context exists or the device is not ready; the field of a stack that failed is ignored. -/
def State.dpcfg (s : State) (v : Nat) : State :=
  if !s.ctxs.isEmpty || s.stage != 6 then s
  else (List.range 8).foldl (fun (s : State) m =>
    if s.stackFailed m then s else s.setField 0x42000 (3 * m) 3 (slice v (3 * m) 3)) s

/-- DPCFG_WRITE. -/
def execDpcfgWrite (v : BitVec 64) (s : State) : Outcome := .next (s.dpcfg v.toNat)

/-! ### Power (R491 to R496) -/

/-- The longest pause of a change of P-state, in device clocks: 20 µs at 2.0 GHz (R493). -/
def pauseMax : Nat := 40000

/-- A write of PSTATE; a change pauses the clocks of the partition. -/
def State.pstate (s : State) (p v : Nat) : State :=
  if s.field (0x43000 + 8 * p) 0 3 = v then s
  else { s.setReg (0x43000 + 8 * p) (BitVec.ofNat 64 v) with
    domains := s.domains.modify p fun (d : Domain) => { d with pause := pauseMax } }

/-- PSTATE_WRITE. -/
def execPstateWrite (p v : BitVec 3) (s : State) : Outcome := .next (if s.fullPath then s.pstate p.toNat v.toNat else s)

/-- PSTATE_RESUME. -/
def execPstateResume (p : BitVec 3) (s : State) : Outcome :=
  .next { s with domains := s.domains.modify p.toNat fun (d : Domain) => { d with pause := 0 } }

/-- A write of CLON (R494): a cluster that powers on has every bank in cache mode and an empty L1. -/
def State.clon (s : State) (v : Nat) : State :=
  let new := fun (k : Nat) => bitAt v k && !bitAt (s.regN 0x43048) k
  let s' := (s.setReg 0x43040 (BitVec.ofNat 64 (v % 2 ^ 16))).setReg 0x43048 (BitVec.ofNat 64 (s.regN 0x43048 ||| v % 2 ^ 16))
  ((List.range 64).filter fun c => new (c / 4)).foldl State.invalidateL1 s'

/-- CLON_WRITE. -/
def execClonWrite (v : BitVec 16) (s : State) : Outcome := .next (if s.fullPath then s.clon v.toNat else s)

/-- Whether a core holds a group or awaits a moved warp or block (R494). -/
def State.coreEmpty (s : State) (c : Nat) : Bool :=
  s.groups.all fun g => match g.place with
    | .core k | .evicting k | .left k => k != c
    | .toCore _ => s.moveTarget g != some c
    | _ => true

/-- CLUSTER_POWER_OFF. -/
def execClusterPowerOff (k : BitVec 4) (s : State) : Outcome :=
  let k := k.toNat
  .next (if !bitAt (s.regN 0x43040) k && (List.range 4).all fun i => s.coreEmpty (4 * k + i) then
    (List.range 4).foldl (fun (s : State) i => s.invalidateL1 (4 * k + i)) (s.setField 0x43048 k 1 0)
  else s)

/-- A write of SCON (R494). -/
def State.scon (s : State) (v : BitVec 64) : State := (s.setReg 0x43050 v).setReg 0x43058 (s.reg 0x43058 ||| v)

/-- SCON_WRITE. -/
def execSconWrite (v : BitVec 64) (s : State) : Outcome := .next (if s.fullPath then s.scon v else s)

/-- STACK_CORE_POWER_OFF. -/
def execStackCorePowerOff (sc : BitVec 6) (s : State) : Outcome :=
  .next (if !bitAt (s.regN 0x43050) sc.toNat && (s.residents (64 + sc.toNat)).isEmpty then s.setField 0x43058 sc.toNat 1 0 else s)

/-- A write of BANKLIM (R492). -/
def State.banklim (s : State) (m v : Nat) : State :=
  if 1 ≤ v % 2 ^ 11 ∧ v % 2 ^ 11 ≤ 1024 then s.setReg (0x43060 + 8 * m) (BitVec.ofNat 64 (v % 2 ^ 11)) else s

/-- BANKLIM_WRITE. -/
def execBanklimWrite (m : BitVec 3) (v : BitVec 64) (s : State) : Outcome := .next (if s.fullPath then s.banklim m.toNat v.toNat else s)

/-- What the sensors of power and temperature read (R492), a free value at each reading: POWER, then TEMP. -/
def State.sensors (s : State) : Nat := s.free 966 0 % 2 ^ 24

/-- THERMAL_TRIP (R496). -/
def execThermalTrip (s : State) : Outcome :=
  .next (if s.frozen then s else
    { (s.setField 0x430B8 0 1 1).setField 0x430B8 8 8 (min 255 (s.field 0x430B8 8 8 + 1)) with frozen := true })

/-- A write of 1 to TRIP (R496): ignored above 95 °C. -/
def State.clearTrip (s : State) : State :=
  if !s.frozen || 95 < s.sensors / 2 ^ 16 then s.renew
  else
    let s := { (s.setField 0x430B8 0 1 0).renew with frozen := false }
    ((s.takes.filter fun t => !t.complete).map Take.tid).foldl (fun (s : State) t => s.hwError t 0x3F01 0 0) s

/-- TRIP_CLEAR. -/
def execTripClear (s : State) : Outcome := .next (if s.fullPath then s.clearTrip else s)

/-! ### The host's own accesses (R482, R483) -/

/-- Whether memory is served: the device is up, and its clocks run. -/
def State.serving (s : State) : Bool := s.powered && !s.frozen && decide (3 ≤ s.stage)

/-- Bytes as one number, little-endian. -/
def ofBytes (xs : List Byte) : Nat := xs.foldr (fun x n => x.toNat + 256 * n) 0

/-- The cell of a host address: HBM4E under the placement stack (R482), or the host's own memory. -/
def hostCell (a : Nat) : Nat := if isHost a then a else cellOf 1 a

/-- The host reads a piece: of device memory at the home slice, after which the host may hold the line; of its own memory once it has taken
back a line that the L2 holds (R483). The result is what the host gets, with the poison indication. -/
def State.hostPieceRead (s : State) (a n : Nat) : State × Nat × Bool :=
  let c := hostCell a
  if isHost c then (s.evictLine (lineOf c)).readBelow c n
  else
    let r := s.readHome c n
    ({ r.1 with hostHeld := NMap.put false r.1.hostHeld (lineOf c) true }, r.2)

/-- The host writes a piece, as it reads one. -/
def State.hostPieceWrite (s : State) (a n x : Nat) : State :=
  let c := hostCell a
  if isHost c then (s.evictLine (lineOf c)).writeBelow c n x else s.writeHome c n x

/-- The host reads: what it gets, and whether any of it comes with poison (R483). -/
def State.hostRead (s : State) (a n : Nat) : State × Nat × Bool :=
  (pieces 8 n a n).foldr (fun p (k : State → State × Nat × Bool) s =>
    let r := s.hostPieceRead p.1 p.2
    let q := k r.1
    (q.1, r.2.1 + 2 ^ (8 * p.2) * q.2.1, r.2.2 || q.2.2)) (fun s => (s, 0, false)) s

/-- The host writes; delivered poison marks its sectors, and a sector written whole without poison loses its bit (R130, R131, R483). -/
def State.hostWrite (s : State) (a n x : Nat) (poison : Bool) : State :=
  let ps := pieces 8 n a n
  let r := ps.foldl (fun (r : State × Nat) p =>
    (r.1.hostPieceWrite p.1 p.2 (r.2 % 2 ^ (8 * p.2)), r.2 / 2 ^ (8 * p.2))) (s, x)
  let spans := ps.map fun p => (hostCell p.1, p.2)
  let s := r.1.noteRaces none spans
  if poison then spans.foldl (fun (s : State) p => s.setPoisonFor (isHost a) p.1 true) s else s.clearCovered (isHost a) spans

/-- Whether a function of the device may reach device memory at an address: function 0 all of it, function p + 1 the HBM4E of the stacks of
device partition p (R482). -/
def State.inHdm (s : State) (fn a : Nat) : Bool := fn == 0 || (s.dpart (slice a 36 3) + 1 == fn && fn < 9)

/-- HOST_MEM_ACCESS: of device memory over the link by a function of the device, or of the host's own memory. A read is of as many bytes as `data` has. -/
def execHostMemAccess (write : Bool) (addr : HostAddr) (data : List (BitVec 8)) (poison : Bool) (s : State) : Outcome :=
  let a := addr.addr.toNat
  .next (if isHost a || (s.serving && s.field 0x40000 8 2 == 2 && s.inHdm addr.fn a) then
    (if write then s.hostWrite a data.length (ofBytes data) poison else (s.hostRead a data.length).1)
  else s)

/-- HOST_SNOOP (R483): served at the home slice, which writes a dirty line back and gives the line up. -/
def execHostSnoop (line : Nat) (s : State) : Outcome :=
  .next (if s.serving && isHost (128 * line) then { s.evictLine line with snoops := s.snoops + 1 } else s)

/-! ### Incoming UALink traffic (R174, R486 to R488) -/

/-- A window register pair. -/
structure Window where
  lo : Nat
  hi : Nat

def Window.kind (w : Window) : Nat := slice w.hi 32 2
def Window.bf16 (w : Window) : Bool := bitAt w.hi 34
def Window.rd (w : Window) : Bool := bitAt w.hi 35

/-- The windows as one incoming unit finds them: a pair that the host writes in this clock is found old or new, whole (R488). -/
def State.windows (s : State) : List Window :=
  (List.range 64).map fun w =>
    match (s.winOld.find? fun x => x.1 == w), bitAt (s.free 970 w) 0 with
    | some x, true => ⟨x.2.1.toNat, x.2.2.toNat⟩
    | _, _ => ⟨s.regN (0x41200 + 16 * w), s.regN (0x41208 + 16 * w)⟩

/-- Whether a window takes a unit of `n` bytes (R487). -/
def Window.takes (w : Window) (sender ctx va n : Nat) : Bool :=
  w.kind != 0 && slice w.lo 12 40 * 2 ^ 12 ≤ va && va + n ≤ slice w.lo 12 40 * 2 ^ 12 + slice w.hi 0 32 * 2 ^ 12 &&
  (slice w.hi 36 10 == 0x3FF || slice w.hi 36 10 == sender) && slice w.lo 52 12 == ctx

/-- An incoming unit: where a window of the right kind takes it and its address translates with permission, `f` performs it under the lowest such
window. -/
def State.incoming (s : State) (sender ctx va n : Nat) (k : AccKind) (fits : Window → Bool) (f : State → Window → Trans → State) : State :=
  if s.serving && s.portUp && va % 8 + n ≤ 8 && va + n ≤ 2 ^ 52 then
    match s.windows.find? fun w => w.takes sender ctx va n && fits w with
    | none => s.renew
    | some w => match s.renew.translateFresh ctx va k with
      | .error _ => s.renew.keepFresh ctx va k
      | .ok t => f (s.renew.keepFresh ctx va k) w t
  else s.renew

/-- UALINK_READ. -/
def execUalinkRead (sender : BitVec 10) (ctx : BitVec 12) (va : BitVec 64) (s : State) : Outcome :=
  .next (s.incoming sender.toNat ctx.toNat va.toNat (8 - va.toNat % 8) .read Window.rd fun s _ t => (s.readHome t.a (8 - va.toNat % 8)).1)

/-- The elementwise sum of a reduce unit (R174). -/
def reduceSum (bf16 : Bool) (n x y : Nat) : Nat :=
  let w := if bf16 then 16 else 32
  let f := if bf16 then Ty.fmt .bf16 else fp32
  ((List.range (8 * n / w)).map fun i => (faddE f .rn false 0 (slice x (w * i) w) (slice y (w * i) w)).code * 2 ^ (w * i)).sum

/-- A unit is added at the base die, beneath the L2 (R174). A poisoned sector is consumed by the reduce unit: a class-3 event with no
arrival on this device, so it is logged alone, and its bytes are undefined (R130, R469; assumption 16). -/
def State.addReduce (s : State) (n x : Nat) (bf16 : Bool) (t : Trans) : State :=
  let s := (s.evictLine (lineOf t.a)).noteRaces none [(t.a, n)]
  let r := s.readBelow t.a n
  if r.2.2 then
    ((r.1.writeBelow t.a n (r.1.free 971 0 % 2 ^ (8 * n))).renew).logError 0x3301 0 false false false (cellPath t.a) 0 (t.pg.phys t.a)
  else r.1.writeBelow t.a n (reduceSum bf16 n r.2.1 x)

/-- A write lands in a window (R487): at the home slice, or, in a reduce window, added in the window's format at the base die on a page placed
stack. Of bytes that are no whole elements of the format the sum is open (R12). Delivered poison marks the sector (R130, R483). -/
def State.writeWindow (s : State) (w : Window) (t : Trans) (n x : Nat) (poison : Bool) : State :=
  let e := if w.bf16 then 2 else 4
  let put := fun (s : State) (below : Bool) => if poison then s.setPoisonFor below t.a true else s
  if w.kind = 1 then put ((s.writeHome t.a n x).noteRaces none [(t.a, n)]) false
  else if t.pg.place ≠ 1 then s
  else if n % e ≠ 0 ∨ t.a % e ≠ 0 then
    put (((s.evictLine (lineOf t.a)).noteRaces none [(t.a, n)]).writeBelow t.a n (s.free 971 0 % 2 ^ (8 * n))).renew true
  else put (s.addReduce n x w.bf16 t) true

/-- UALINK_WRITE. -/
def execUalinkWrite (sender : BitVec 10) (ctx : BitVec 12) (va : BitVec 64) (data : List (BitVec 8)) (poison : Bool) (s : State) : Outcome :=
  .next (s.incoming sender.toNat ctx.toNat va.toNat data.length .write (fun w => w.kind == 1 || w.kind == 2) fun s w t =>
    s.writeWindow w t data.length (ofBytes data) poison)

/-- UALINK_REDUCE_WRITE. -/
def execUalinkReduceWrite (sender : BitVec 10) (ctx : BitVec 12) (va : BitVec 64) (bf16 : Bool) (data : List (BitVec 8)) (s : State) :
    Outcome :=
  let e := if bf16 then 2 else 4
  .next (if data.length % e ≠ 0 ∨ va.toNat % e ≠ 0 then s
  else s.incoming sender.toNat ctx.toNat va.toNat data.length .write (fun w => w.kind == 2 && w.bf16 == bf16) fun s w t =>
    s.writeWindow w t data.length (ofBytes data) false)

/-- UALINK_ATOMIC_ADD: as SEMSIG at scope 2 of the receiving device partition. -/
def execUalinkAtomicAdd (sender : BitVec 10) (ctx : BitVec 12) (va : BitVec 64) (n : BitVec 32) (s : State) : Outcome :=
  .next (if va.toNat % 4 ≠ 0 then s
  else s.incoming sender.toNat ctx.toNat va.toNat 4 .write (fun w => w.kind == 3) fun s _ t =>
    (s.cpAtomic ctx.toNat 2 t (semAdd n.toNat)).1)

end Sys2Proof.Machine
end

