-- ==== Sys2Proof/Machine/Security.lean ====
section
/-!
DEFINITION. The security controller (R497 to R502): slots, the mailbox, and the commands of R501. A command runs whole within its
step, so BUSY is never seen set.
-/

namespace Sys2Proof.Machine

/-! ### Mailbox, slots and signatures -/

/-- Byte `i` of the mailbox. -/
def State.mboxByte (s : State) (i : Nat) : Byte := NMap.get 0 s.mbox i

def State.mboxBytes (s : State) (i n : Nat) : List Byte := (List.range n).map fun j => s.mboxByte (i + j)

/-- Writes bytes into the mailbox from byte `i`. -/
def State.setMbox (s : State) (i : Nat) (xs : List Byte) : State :=
  { s with mbox := NMap.putAll 0 s.mbox (xs.mapIdx fun j x => (i + j, x)) }

/-- A number as `n` bytes, little-endian (R7). -/
def toBytes (n x : Nat) : List Byte := (List.range n).map fun i => BitVec.ofNat 8 (x / 2 ^ (8 * i))

/-- The public key of a slot: what ENROLL put there, or the maker's. -/
def Fuses.keyOf (f : Fuses) (n : Nat) : List Byte :=
  match NMap.get [] f.pubs n with
  | [] => Config.slotKey n
  | k => k

/-- The SHA-384 digest that an occupied slot holds (R498); an empty slot's is zero. -/
def Fuses.digestOf (f : Fuses) (n : Nat) : List Byte :=
  if f.slotState n = 0 then List.replicate 48 0 else sha384 (f.keyOf n)

/-- Sets a slot's state. -/
def Fuses.setSlot (f : Fuses) (n st : Nat) : Fuses := { f with slots := BitVec.ofNat 8 (setBits f.slots.toNat (2 * n) 2 st) }

/-- Bits 0-22 of SECSTAT (R498). -/
def State.secstat (s : State) : Nat :=
  s.mode + 2 ^ 2 * bit s.rstrap + 2 ^ 3 * bit s.ostrap + 2 ^ 8 * s.fuses.slots.toNat + 2 ^ 16 * s.fuses.ctr

/-- NONCE advances (R498): by a free amount that is never a whole turn. -/
def State.newNonce (s : State) : State :=
  { s with nonce := s.nonce + 1 + (Config.nextNonce s.fresh >>> 1), fresh := s.fresh + 1 }

/-- STATUS of a command (R498, R501). -/
def State.secStatus (s : State) (st : Nat) : State := s.setReg 0x44010 (BitVec.ofNat 64 (2 ^ 8 * st))

/-- What a signed command is signed over (R501): OP, the mailbox inputs and NONCE. -/
def State.signedText (s : State) (op n : Nat) : List Byte := [BitVec.ofNat 8 op] ++ s.mboxBytes 0 n ++ toBytes 8 s.nonce.toNat

/-- The signature in the mailbox (R501), and whether there is one. -/
def State.signature (s : State) : List Byte := s.mboxBytes 112 96
def State.signs (s : State) : Bool := s.signature.any fun b => b != 0

/-- Whether commands are served: an image runs (R500, R501). -/
def State.secure (s : State) : Bool := s.powered && s.mode != 0

/-! ### ENROLL and REVOKE -/

/-- ENROLL with its authorisation given: the slot becomes active and holds the key. -/
def State.enrolled (s : State) (t : Nat) : State :=
  ({ s with fuses := { s.fuses.setSlot t 1 with pubs := NMap.put [] s.fuses.pubs t (s.mboxBytes 8 97) } }).secStatus 0

/-- ENROLL (R501): in recovery mode with the owner present, no signature is asked for; in primary mode one without a signature is not
permitted. -/
def State.enroll (s : State) : State :=
  let t := (s.mboxByte 0).toNat
  let a := (s.mboxByte 1).toNat
  if 4 ≤ t ∨ s.mboxByte 8 ≠ 4 then s.secStatus 6
  else if s.mode = 2 then
    if !s.ostrap then s.secStatus 4
    else if s.fuses.slotState t ≠ 0 then s.secStatus 2
    else s.enrolled t
  else if !s.signs then s.secStatus 4
  else if 4 ≤ a then s.secStatus 6
  else if s.fuses.slotState t ≠ 0 ∨ s.fuses.slotState a ≠ 1 then s.secStatus 2
  else if ecdsaVerifies (s.fuses.keyOf a) (s.signedText 2 105) s.signature then s.newNonce.enrolled t
  else s.newNonce.secStatus 1

/-- ENROLL. -/
def execEnroll (s : State) : Outcome := .next (if s.secure then s.enroll else s)

/-- Active slots. -/
def Fuses.actives (f : Fuses) : List Nat := (List.range 4).filter fun n => f.slotState n == 1

/-- REVOKE (R501): by another active slot. -/
def State.revoke (s : State) : State :=
  let t := (s.mboxByte 0).toNat
  let a := (s.mboxByte 1).toNat
  if 4 ≤ t ∨ 4 ≤ a then s.secStatus 6
  else if s.fuses.slotState t ≠ 1 then s.secStatus 2
  else if s.fuses.actives = [t] then s.secStatus 3
  else if a = t then s.secStatus 6
  else if s.fuses.slotState a ≠ 1 then s.secStatus 2
  else if ecdsaVerifies (s.fuses.keyOf a) (s.signedText 3 2) s.signature then
    ({ s.newNonce with fuses := s.fuses.setSlot t 2 }).secStatus 0
  else s.newNonce.secStatus 1

/-- REVOKE. -/
def execRevoke (s : State) : Outcome := .next (if s.secure then s.revoke else s)

/-! ### UPDATE (R499, R501) -/

/-- Bytes of HBM4E at a device physical address, as the host sees them (R482). -/
def State.devBytes (s : State) (a n : Nat) : List Byte := (List.range n).map fun i => s.peekByte (cellOf 1 (a + i))

/-- Whether bytes are a header of R499 with a body of `n` bytes. -/
def headerGood (h : List Byte) (n : Nat) : Bool :=
  let f := fun (i k : Nat) => ofBytes ((h.drop i).take k)
  f 0 4 == 0x5A46494D && f 4 4 ≤ 64 && f 8 1 < 4 && f 9 7 == 0 && f 16 8 == n && f 168 88 == 0

/-- UPDATE: the image is checked as R500 checks it, and flash is rewritten. -/
def State.update (s : State) : State :=
  let a := ofBytes (s.mboxBytes 0 8)
  let n := ofBytes (s.mboxBytes 8 8)
  if n < 256 ∨ 2 ^ 39 < a + n then s.secStatus 6
  else
    let h := s.devBytes a 256
    let body := s.devBytes (a + 256) (n - 256)
    let version := ofBytes ((h.drop 4).take 4)
    let slot := ofBytes ((h.drop 8).take 1)
    let digest := (h.drop 24).take 48
    if !headerGood h (n - 256) then s.secStatus 6
    else if s.fuses.slotState slot ≠ 1 then s.secStatus 2
    else if !ecdsaVerifies (s.fuses.keyOf slot) (h.take 72) ((h.drop 72).take 96) then s.newNonce.secStatus 1
    else if sha384 body ≠ digest then s.newNonce.secStatus 6
    else if version < s.fuses.ctr then s.newNonce.secStatus 5
    else ({ s.newNonce with fuses := { s.fuses with
      primary := some ⟨version, slot, true, true, digest⟩
      ctr := max s.fuses.ctr version } }).secStatus 0

/-- UPDATE. -/
def execUpdate (s : State) : Outcome := .next (if s.secure then s.update else s)

/-! ### ATTEST and DEVKEY (R501, R502) -/

/-- The identity register at offset 0 (R416). -/
def State.identity (s : State) : Nat := 0x9200 + 2 ^ 16 * s.fuses.step.toNat

/-- DIGEST and VERSION of the running image: the one that boot has chosen, whatever flash holds since. -/
def State.runDigest (s : State) : List Byte :=
  if s.mode = 1 then (s.running.elim [] Image.digest ++ List.replicate 48 0).take 48 else List.replicate 48 0
def State.runVersion (s : State) : Nat := if s.mode = 1 then s.running.elim 0 Image.version else s.fuses.recoveryVersion

/-- Bytes 0-407 of the report. -/
def State.report (s : State) : List Byte :=
  s.mboxBytes 0 48 ++ (Config.serial ++ List.replicate 8 0).take 8 ++ toBytes 8 s.identity ++ s.runDigest ++
  (s.fuses.recoveryDigest ++ List.replicate 48 0).take 48 ++ toBytes 4 s.runVersion ++ toBytes 4 s.fuses.ctr ++
  toBytes 8 (s.secstat % 2 ^ 16) ++ (List.range 4).flatMap s.fuses.digestOf ++ toBytes 8 (s.regN 0x42000) ++
  [0x45000, 0x45008, 0x45010, 0x45018].flatMap fun r => toBytes 8 (s.regN r)

/-- ATTEST. -/
def State.attest (s : State) : State :=
  (({ s with mbox := [] }).setMbox 0 (s.report ++ (Config.deviceSign s.report ++ List.replicate 96 0).take 96)).secStatus 0

def execAttest (s : State) : Outcome := .next (if s.secure then s.attest else s)

/-- DEVKEY. -/
def State.devkey (s : State) : State := (s.setMbox 0 ((Config.deviceKey ++ List.replicate 97 0).take 97)).secStatus 0

def execDevkey (s : State) : Outcome := .next (if s.secure then s.devkey else s)

/-- SECURITY_BAD_OP. -/
def execSecurityBadOp (op : BitVec 4) (s : State) : Outcome :=
  .next (if s.secure && (op.toNat == 0 || 5 < op.toNat) then s.secStatus 7 else s)

/-- A write of the command register (R498): GO starts OP. -/
def State.secCommand (s : State) (v : Nat) : State :=
  if !bitAt v 4 || !s.secure then s
  else match slice v 0 4 with
    | 1 => s.attest
    | 2 => s.enroll
    | 3 => s.revoke
    | 4 => s.update
    | 5 => s.devkey
    | _ => s.secStatus 7

end Sys2Proof.Machine
end

