-- ==== Sys2Proof/Machine/Regs.lean ====
section
/-!
DEFINITION. Reading and writing device registers and context registers (R411 to R416, R418, R428, R442, R446, R450, R463, R469, R479,
R483 to R486, R489, R492, R498, R505), and the host's write of a register.
-/

namespace Sys2Proof.Machine

/-! ### Where registers lie -/

/-- Queue register at an offset: command processor, queue and offset within the block (R428). -/
def queueAt (off : Nat) : Option (Nat × Nat × Nat) :=
  if 0x1000 ≤ off ∧ off < 0x3000 then some ((off - 0x1000) / 0x400, (off - 0x1000) / 0x40 % 16, off % 0x40) else none

/-- Entry `i` of a block of registers that lie `step` apart. -/
def blockAt (off base step n : Nat) : Option Nat :=
  if base ≤ off ∧ off < base + step * n ∧ (off - base) % step = 0 then some ((off - base) / step) else none

/-- How software on the device may write a register (R418). -/
inductive RegAccess
  | absent                          -- not listed
  | readOnly                        -- no field to write, or the host's alone
  | fields (ro : Nat)               -- writable, but for the bits of the mask
  deriving DecidableEq, Repr

/-- Blocks of registers: base, step, count and access. -/
def regBlocks : List (Nat × Nat × Nat × RegAccess) :=
  [(0x0, 8, 4, .readOnly), (0x3000, 0x40, 8, .fields 0), (0x3400, 8, 2, .readOnly), (0x10000, 0x40, 8, .fields 0),
   (0x10008, 0x40, 8, .readOnly), (0x20000, 8, 1, .fields 0), (0x20008, 8, 1, .fields (2 ^ 32 - 1)), (0x20010, 8, 2, .fields 0),
   (0x20020, 8, 1, .readOnly), (0x20040, 8, 8, .readOnly), (0x20080, 8, 64, .readOnly), (0x20280, 8, 64, .readOnly),
   (0x30000, 8, 1, .fields 0), (0x30008, 8, 1, .readOnly), (0x30100, 8, 64, .readOnly), (0x40000, 8, 1, .readOnly),
   (0x41000, 8, 1, .fields 0), (0x41008, 8, 24, .fields 0x1FFE), (0x41200, 8, 128, .fields 0), (0x42000, 8, 1, .readOnly),
   (0x43000, 8, 9, .fields 0), (0x43048, 8, 1, .readOnly), (0x43050, 8, 1, .fields 0), (0x43058, 8, 1, .readOnly),
   (0x43060, 8, 8, .fields 0), (0x430A0, 8, 2, .fields 0), (0x430B0, 8, 1, .readOnly), (0x430B8, 8, 1, .fields 0xFF00),
   (0x44000, 8, 3, .readOnly), (0x44040, 8, 6, .readOnly), (0x44080, 8, 6, .readOnly), (0x440C0, 8, 6, .readOnly),
   (0x44100, 8, 6, .readOnly), (0x44200, 8, 64, .readOnly), (0x45000, 8, 7, .readOnly)]

/-- How software on the device may write the register at an offset. -/
def regAccess (off : Nat) : RegAccess :=
  match queueAt off with
  | some (_, _, r) =>
    if r = 0 ∨ r = 8 ∨ r = 0x18 then .fields 0 else if r = 0x10 ∨ r = 0x20 ∨ r = 0x28 then .readOnly else .absent
  | none => ((regBlocks.find? fun b => (blockAt off b.1 b.2.1 b.2.2.1).isSome).elim .absent fun b => b.2.2.2)

/-! ### Reading a device register -/

/-- A device register as the host or SYSRD reads it; an unlisted one reads as zero (R415). -/
def State.readDev (s : State) (off : Nat) : BitVec 64 :=
  match queueAt off with
  | some (n, q, 0x28) => BitVec.ofNat 64 (((s.queueRun n q).timer + 2 ^ 16 - 1) / 2 ^ 16 % 2 ^ 32)
  | some _ => s.reg off
  | none =>
    if off = 0 then BitVec.ofNat 64 s.identity
    else if off = 8 then s.fuses.cores
    else if off = 0x10 then s.fuses.scores
    else if off = 0x18 then BitVec.ofNat 64 s.fuses.stackSet.toNat
    else if off = 0x430B0 then BitVec.ofNat 64 s.sensors
    else if off = 0x44000 then BitVec.ofNat 64 s.secstat
    else if off = 0x44008 then s.nonce
    else if 0x44040 ≤ off ∧ off < 0x44140 then
      BitVec.ofNat 64 (if off % 64 / 8 < 6 then ofBytes (((s.fuses.digestOf ((off - 0x44040) / 64)).drop (off % 64)).take 8) else 0)
    else if 0x44200 ≤ off ∧ off < 0x44400 then BitVec.ofNat 64 (ofBytes (s.mboxBytes (off - 0x44200) 8))
    else s.reg off

/-! ### Context registers (R411 to R414) -/

/-- CTXCTL (R413). -/
def Ctx.ctl (c : Ctx) : Nat := bit c.debug + 2 * bit c.stop + 4 * c.state + 16 * bit c.taint

/-- Whether the table lists an index. -/
def ctxListed (i : Nat) : Bool := i < 10 || (0x40 ≤ i && i < 0x80)

/-- A context register. -/
def Ctx.read (c : Ctx) (i : Nat) : BitVec 64 :=
  match i with
  | 0 => BitVec.ofNat 64 (c.id + 2 ^ 12 * c.dpart + 2 ^ 16 * bit c.priv + 2 ^ 17 * bit c.dpriv)
  | 1 => c.take
  | 2 => c.ptroot
  | 3 => BitVec.ofNat 64 c.ctl
  | 4 => c.trapring
  | 5 => BitVec.ofNat 64 (c.head.toNat + 2 ^ 32 * c.tail.toNat)
  | 6 => c.trapsem
  | 7 => c.slate
  | 8 => c.script
  | 9 => c.peertab
  | i =>
    if 0x48 ≤ i ∧ i < 0x80 then
      let e := (NMap.get 0 c.scopes ((i - 0x40) / 2)).toNat
      BitVec.ofNat 64 (if i % 2 = 0 then slice e 0 64 else slice e 64 64)
    else 0

/-- A context after a write of a register; the fault where the write is refused. -/
def Ctx.write (c : Ctx) (i v : Nat) : Except Nat Ctx :=
  let idle := fun (x : Ctx) => if c.state = 0 then Except.ok x else .error 0x21C3
  match i with
  | 0 | 1 | 7 | 8 => .error 0x21C1
  | 2 => if slice v 0 16 ≠ 0 ∨ slice v 39 25 ≠ 0 then .error 0x21C1 else idle { c with ptroot := BitVec.ofNat 64 v }
  | 3 => if slice v 1 63 ≠ 0 then .error 0x21C1 else .ok { c with debug := bitAt v 0 }
  | 4 => if slice v 0 6 ≠ 0 ∨ slice v 57 7 ≠ 0 then .error 0x21C1 else .ok { c with trapring := BitVec.ofNat 64 v }
  | 5 => if slice v 0 32 ≠ 0 ∨ slice v 49 15 ≠ 0 then .error 0x21C1 else .ok { c with tail := BitVec.ofNat 17 (slice v 32 17) }
  | 6 => if slice v 0 2 ≠ 0 then .error 0x21C1 else .ok { c with trapsem := BitVec.ofNat 64 v }
  | 9 => if slice v 0 4 ≠ 0 ∨ slice v 62 2 ≠ 0 then .error 0x21C1 else idle { c with peertab := BitVec.ofNat 64 v }
  | i =>
    let n := (i - 0x40) / 2
    let e := (NMap.get 0 c.scopes n).toNat
    if i < 0x40 ∨ 0x80 ≤ i then .error 0x21C0
    else if n < 4 then .error 0x21C1
    else if i % 2 = 0 then idle { c with scopes := NMap.put 0 c.scopes n (BitVec.ofNat 128 (setBits e 0 64 v)) }
    else if slice v 9 55 ≠ 0 then .error 0x21C1
    else idle { c with scopes := NMap.put 0 c.scopes n (BitVec.ofNat 128 (setBits e 64 64 v)) }

/-! ### Writing a device register -/

/-- A write of a queue register (R428). -/
def State.writeQueue (s : State) (n q r v : Nat) : State :=
  let b := queueOff n q
  let on := s.field (b + 8) 14 1 = 1
  if r = 0 then
    if on ∨ slice v 0 12 ≠ 0 then s
    else (s.setReg b (BitVec.ofNat 64 (slice v 12 45 * 2 ^ 12))).modQueue n q fun q => { q with begun := false }
  else if r = 8 then
    let keep := if on then slice (s.regN (b + 8)) 0 14 else slice v 0 14
    let err := if bitAt v 15 then 0 else s.field (b + 8) 15 1
    s.setReg (b + 8) (BitVec.ofNat 64 (keep + 2 ^ 14 * slice v 14 1 + 2 ^ 15 * err + 2 ^ 32 * slice v 32 32))
  else if r = 0x18 then s.ring n q (slice v 0 17)
  else s

/-- A write of a pool register: BASE and SIZE (R442, R463). -/
def poolValue (v : Nat) : BitVec 64 := BitVec.ofNat 64 (slice v 12 28 * 2 ^ 12 + slice v 40 16 * 2 ^ 40)

/-- A write of the command register for contexts (R446). -/
def State.ctxCommand (s : State) (v : Nat) : State :=
  match slice v 32 2 with
  | 1 => s.contextCreate (slice v 0 12) (slice v 12 3) (bitAt v 16) (bitAt v 17)
  | 2 => s.contextEnd (slice v 0 12)
  | _ => s.ctxStatus 3

/-- Notes a window pair as it stands before a write in this clock (R488). -/
def State.noteWindow (s : State) (w : Nat) : State :=
  if s.winOld.any fun x => x.1 == w then s
  else { s with winOld := s.winOld ++ [(w, s.reg (0x41200 + 16 * w), s.reg (0x41208 + 16 * w))] }

/-- A write of a fence register (R505). -/
def State.fenceWrite (s : State) (off v : Nat) : State :=
  if !s.ctxs.isEmpty then s
  else (s.setReg off (BitVec.ofNat 64 (if off = 0x45018 then slice v 0 32 else v))).dropPorts s

/-- A write of RESET (R503, R505). -/
def State.resetWrite (s : State) (v : Nat) : State :=
  if bitAt v 0 then s.warm
  else ((List.range 8).filter fun p => bitAt v (8 + p) && !(s.stacksOf p).isEmpty).foldl (fun (s : State) p => s.partitionReset p none) s

/-- Writes in the blocks of power and partitions (R489, R492). -/
def State.writePower (s : State) (off v : Nat) : State :=
  match blockAt off 0x43000 8 8, blockAt off 0x43060 8 8 with
  | some p, _ => s.pstate p (slice v 0 3)
  | none, some m => s.banklim m v
  | none, none =>
    if off = 0x42000 then s.dpcfg v
    else if off = 0x43040 then s.clon (slice v 0 16)
    else if off = 0x43050 then s.scon (BitVec.ofNat 64 v)
    else if off = 0x430A0 then s.setReg off (BitVec.ofNat 64 (slice v 0 8))
    else if off = 0x430A8 then s.setReg off (BitVec.ofNat 64 (slice v 0 16))
    else if off = 0x430B8 then (if bitAt v 0 then s.clearTrip else s)
    else s

/-- Writes in the block of UALink (R486). -/
def State.writeLink (s : State) (off v : Nat) : State :=
  match blockAt off 0x41008 8 24, blockAt off 0x41200 8 128 with
  | some _, _ =>
    if bitAt v 0 then s.setField off 0 1 1 else s.setReg off 0
  | none, some k =>
    (s.noteWindow (k / 2)).setReg off (BitVec.ofNat 64 (if k % 2 = 0 then slice v 12 52 * 2 ^ 12 else slice v 0 46))
  | none, none => if off = 0x41000 ∧ !s.portUp then s.setReg off (BitVec.ofNat 64 (slice v 0 10)) else s

/-- Writes in the block of the error log (R469). -/
def State.writeLog (s : State) (off v : Nat) : State :=
  if off = 0x20000 then (if slice v 0 12 ≠ 0 then s else s.setReg off (BitVec.ofNat 64 (slice v 12 33 * 2 ^ 12)))
  else if off = 0x20008 then s.setField off 32 32 (slice v 32 32)
  else if off = 0x20010 then
    (s.setField off 0 12 (slice v 0 12)).setField off 32 32 (if slice v 32 32 = 0 then 0 else s.field off 32 32)
  else if off = 0x20018 then (if slice v 0 32 = 0 then s.setReg off 0 else s)
  else s

/-- Writes in the blocks of security, reset and repair (R498, R505). -/
def State.writeHostOnly (s : State) (off v : Nat) : State :=
  match blockAt off 0x44200 8 64, blockAt off 0x45000 8 4 with
  | some i, _ => s.setMbox (8 * i) (toBytes 8 v)
  | none, some _ => s.fenceWrite off v
  | none, none =>
    if off = 0x44010 then s.secCommand v
    else if off = 0x45020 then s.resetWrite v
    else if off = 0x45030 then s.pprWrite v
    else s

/-- Writes in the blocks of the command processors and the snapshot pools (R428, R442, R446, R463). -/
def State.writeCp (s : State) (off v : Nat) : State :=
  match queueAt off, blockAt off 0x3000 0x40 8, blockAt off 0x10000 0x40 8 with
  | some (n, q, r), _, _ => s.writeQueue n q r v
  | none, some n, _ => if s.dpart n < 8 ∧ !(s.evictedIn (s.dpart n)).isEmpty then s else s.setReg off (poolValue v)
  | none, none, some n =>
    if slice v 0 12 ≠ 0 ∨ s.takes.any fun t => !t.complete && s.partOf t == s.dpart n && s.dpart n < 8 then s
    else s.setReg off (poolValue v)
  | none, none, none => if off = 0x3400 then s.ctxCommand v else s

/-- A write of a device register, with whatever behaviour it has; one that no rule makes writable is ignored (R415). -/
def State.writeDev (s : State) (off v : Nat) : State :=
  if off % 8 ≠ 0 then s
  else if off < 0x20000 then s.writeCp off v
  else if off < 0x30000 then s.writeLog off v
  else if off = 0x30000 then (if bitAt v 0 then s.bistGo (slice v 8 10) (slice v 32 8)
    else s.setReg off (BitVec.ofNat 64 (slice v 8 10 * 2 ^ 8 + slice v 32 8 * 2 ^ 32)))
  else if off < 0x40000 then s
  else if off < 0x42000 then s.writeLink off v
  else if off < 0x44000 then s.writePower off v
  else s.writeHostOnly off v

/-! ### The host's register writes (R411, R415) -/

/-- Whether a function of the device shows the register at an offset (R482): function 0 the whole space, function p + 1 the queue registers of
the command processors of device partition p and the context registers of its contexts. -/
def State.shows (s : State) (fn offset : Nat) : Bool :=
  fn == 0 || (match queueAt offset with
    | some (n, _, _) => s.dpart n + 1 == fn && fn < 9
    | none => 0x1000000 ≤ offset && offset < 0x1800000 &&
        ((s.findCtx ((offset - 0x1000000) / 0x800)).any fun c => c.dpart + 1 == fn))

/-- REGISTER_WRITE: the host writes, through a function, a device register, or a context register at 0x100_0000 and above; a write that a
context register refuses is ignored. -/
def execRegisterWrite (offset : HostReg) (v : BitVec 64) (s : State) : Outcome :=
  let fn := offset.fn
  let offset := offset.offset
  .next (if !s.fullPath || !s.shows fn offset then s
  else if offset < 0x1000000 then s.writeDev offset v.toNat
  else if offset % 8 ≠ 0 ∨ 0x1800000 ≤ offset then s
  else
    let c := (offset - 0x1000000) / 0x800
    match s.findCtx c with
    | none => s
    | some x => match x.write (offset % 0x800 / 8) v.toNat with
      | .error _ => s
      | .ok y => s.modCtx c fun _ => y)

/-- What the host reads at an offset through a function (R411, R415, R482, R500). -/
def State.hostReadReg (s : State) (fn offset : Nat) : BitVec 64 :=
  if !s.powered ∨ offset % 8 ≠ 0 ∨ !s.shows fn offset then 0
  else if s.stage < 2 ∧ !(offset < 0x20 ∨ offset = 0x44000 ∨ offset = 0x45028) then 0
  else if offset < 0x1000000 then s.readDev offset
  else if 0x1800000 ≤ offset then 0
  else (s.findCtx ((offset - 0x1000000) / 0x800)).elim 0 fun c => c.read (offset % 0x800 / 8)

end Sys2Proof.Machine
end

