-- ==== Sys2Proof/Machine/System.lean ====
section
/-!
DEFINITION. The system instructions (R209, R417, R418, R423 to R426): each is checked at its issue, performs a release at scope 3, and
has its effect when that release is done; what could fault is checked again there.
-/

namespace Sys2Proof.Machine

/-! ### Who may act on what (R409, R417) -/

/-- The context of a group. -/
def State.ownCtx (s : State) (g : Group) : Option Ctx := s.findCtx (s.ctxOf g)

/-- Whether a group runs in a privileged context. -/
def State.privileged (s : State) (g : Group) : Bool := (s.ownCtx g).any Ctx.priv

def State.devicePrivileged (s : State) (g : Group) : Bool := (s.ownCtx g).any fun c => c.priv && c.dpriv

/-- The context that a selector names. -/
def State.selected (s : State) (g : Group) (sel : Nat) : Nat := if bitAt sel 31 then s.ctxOf g else slice sel 0 12

/-- Whether a context is within reach. -/
def State.inReach (s : State) (g : Group) (c : Ctx) : Bool :=
  s.devicePrivileged g || (s.ownCtx g).any fun x => x.dpart == c.dpart

/-- The selected context, or the fault of R418. -/
def State.target (s : State) (g : Group) (sel : Nat) : Except Nat Ctx :=
  match s.findCtx (s.selected g sel) with
  | none => .error 0x21C2
  | some c => if s.inReach g c then .ok c else .error 0x21C2

/-- The offset of a device register (R415). -/
def regOff (reg : Nat) : Nat := 8 * (reg - 0x1000)

/-! ### What faults -/

/-- SYSRD: the value, or the fault. -/
def State.sysRead (s : State) (g : Group) (sel reg : Nat) : Except Nat (BitVec 64) :=
  if 0x1000 ≤ reg then
    if !s.devicePrivileged g then .error 0x21C2
    else if regAccess (regOff reg) = .absent then .error 0x21C0
    else .ok (s.readDev (regOff reg))
  else match s.target g sel with
    | .error f => .error f
    | .ok c => if ctxListed reg then .ok (c.read reg) else .error 0x21C0

/-- SYSWR: the state after it, or the fault. A write to the identity block has no effect, and no fault of R418 (R416; assumption 54). -/
def State.sysWrite (s : State) (g : Group) (sel reg v : Nat) : Except Nat State :=
  if 0x1000 ≤ reg then
    if !s.devicePrivileged g then .error 0x21C2
    else if regOff reg < 0x20 then .ok s
    else match regAccess (regOff reg) with
      | .absent => .error 0x21C0
      | .readOnly => .error 0x21C1
      | .fields ro => if v &&& ro ≠ 0 then .error 0x21C1 else .ok (s.writeDev (regOff reg) v)
  else match s.target g sel with
    | .error f => .error f
    | .ok c => match c.write reg v with
      | .error f => .error f
      | .ok y => .ok (s.modCtx c.id fun _ => y)

/-- A handle of a context that is out of reach (R409). -/
def State.handleFault (s : State) (g : Group) (handle : Nat) : Option Nat :=
  match s.findCtx (slice handle 0 12) with
  | none => none
  | some c => if s.inReach g c then none else some 0x21C2

/-- A selector with a range; a count of 0 has no effect, whatever the address (R425, R426). -/
def State.rangeFault (s : State) (g : Group) (sel va n : Nat) : Option (Nat × Nat) :=
  match s.target g sel with
  | .error f => some (f, 0)
  | .ok _ => if 2 ^ 52 ≤ va ∧ n ≠ 0 then some (0x2142, va) else none

/-- The fault of a system instruction with the operands it has read, and its address. -/
def State.sysFault (s : State) (g : Group) (i : Instr) (vals : List Nat) : Option (Nat × Nat) :=
  let v := fun k => vals.getD k 0
  let only : Option Nat → Option (Nat × Nat) := fun f => f.map fun c => (c, 0)
  match i with
  | .sysrd _ o => (match s.sysRead g (v 0) o.reg.toNat with | .error f => some (f, 0) | .ok _ => none)
  | .syswr _ o => (match s.sysWrite g (v 0) o.reg.toNat (v 1) with | .error f => some (f, 0) | .ok _ => none)
  | .tret _ _ | .resume _ _ => only (s.handleFault g (v 0))
  | .tlbinvAll _ _ | .halt _ _ | .haltKill _ _ => (match s.target g (v 0) with | .error f => some (f, 0) | .ok _ => none)
  | .tlbinvVa _ _ | .snapmark _ _ => s.rangeFault g (v 0) (v 1) (v 2)
  | _ => none

/-! ### Issue -/

/-- A system instruction as it issues: in a kernel it is a fault whatever the guard (R209, R211). The destinations of lanes that read
their guard too early hold undefined values (R31). -/
def State.sysIssue (s : State) (h : Hdr) (i : Instr) (codes dst : List Nat) (vals : Env → List Nat) : State :=
  match s.env h.guard with
  | none => s
  | some e =>
    if !s.privileged e.g then s.progError e.g.gid e.w.wid 0x2109 e.iss.lanes 0
    else s.checked h (fun _ => codes ++ dst) (fun e =>
      let xs := vals e
      match s.sysFault e.g i xs with
      | some f => if s.early e codes then s.undefine e (e.op s h i) dst 0 else s.fail e f.1 e.act f.2
      | none =>
        let o := { e.op s h i with vals := xs, status := bit (s.early e codes) }
        (((s.launch e o).unsettle o dst).undefineLost e (e.op s h i) dst 0).renew)
      fun e => s.undefineLost e (e.op s h i) dst 0

def sCodes (wide : Bool) (n : Nat) : List Nat := if wide then [640 + n, 641 + n] else [640 + n]

def execSysrd (h : Hdr) (o : SysrdOps) (s : State) : Outcome :=
  .next (s.sysIssue h (.sysrd h o) (sCodes false o.sel) (sCodes true o.d) fun e => [s.uniS e false o.sel])

def execSyswr (h : Hdr) (o : SyswrOps) (s : State) : Outcome :=
  .next (s.sysIssue h (.syswr h o) (sCodes false o.sel ++ sCodes true o.a) [] fun e => [s.uniS e false o.sel, s.uniS e true o.a])

def execTret (h : Hdr) (o : TretOps) (s : State) : Outcome :=
  .next (s.sysIssue h (.tret h o) (sCodes true o.a) (sCodes false o.d) fun e => [s.uniS e true o.a])

def execResume (h : Hdr) (o : TretOps) (s : State) : Outcome :=
  .next (s.sysIssue h (.resume h o) (sCodes true o.a) (sCodes false o.d) fun e => [s.uniS e true o.a])

def execTlbinvAll (h : Hdr) (o : Nat) (s : State) : Outcome :=
  .next (s.sysIssue h (.tlbinvAll h o) (sCodes false o) [] fun e => [s.uniS e false o])

def rangeCodes (o : RangeOps) : List Nat := sCodes false o.sel ++ sCodes true o.a ++ sCodes false o.n

def State.rangeVals (s : State) (o : RangeOps) (e : Env) : List Nat := [s.uniS e false o.sel, s.uniS e true o.a, s.uniS e false o.n]

def execTlbinvVa (h : Hdr) (o : RangeOps) (s : State) : Outcome :=
  .next (s.sysIssue h (.tlbinvVa h o) (rangeCodes o) [] (s.rangeVals o))

def execSnapmark (h : Hdr) (o : RangeOps) (s : State) : Outcome :=
  .next (s.sysIssue h (.snapmark h o) (rangeCodes o) [] (s.rangeVals o))

def execHalt (h : Hdr) (o : HaltOps) (s : State) : Outcome :=
  .next (s.sysIssue h (.halt h o) (sCodes false o.sel) (sCodes false o.d) fun e => [s.uniS e false o.sel])

def execHaltKill (h : Hdr) (o : HaltOps) (s : State) : Outcome :=
  .next (s.sysIssue h (.haltKill h o) (sCodes false o.sel) (sCodes false o.d) fun e => [s.uniS e false o.sel])

/-! ### Effects -/

/-- The status of TRET (`tret`) or RESUME on a handle, and the state after it (R423). -/
def State.endByHandle (s : State) (tret : Bool) (handle : Nat) : State × Nat :=
  match s.findCtx (slice handle 0 12) with
  | none => (s, 1)
  | some c =>
    match if handle = 0 then none else c.findStop handle with
    | none => (s, 1)
    | some x =>
      if (x.kind == .trap) != tret then (s, 2)
      else if x.gid = haltGid then
        (s.modCtx c.id fun c => { c with stop := false, stops := c.stops.filter fun y => y != x }, 0)
      else (s.endStop c.id x, 0)

/-- HALT (R424). -/
def State.haltCtx (s : State) (own : Nat) (c : Ctx) : State × Nat :=
  if c.id = own then (s, 3)
  else if c.stop then (s, 0)
  else ((s.modCtx c.id fun c => { c with stop := true, haltDue := true }).checkHaltCtx c.id, 0)

/-- HALT.kill (R424, R466). -/
def State.killCtx (s : State) (own : Nat) (c : Ctx) : State × Nat :=
  if c.id = own then (s, 3)
  else match s.takeIn c.id with
    | none => (s, 0)
    | some t => (s.endTake t 0x21FF (s.bareRecord t 0x21FF), 0)

/-- Whether a cached translation serves a byte of a range. -/
def TlbEntry.covers (t : TlbEntry) (va n : Nat) : Bool :=
  let k := 2 ^ indexLow t.level
  va < (t.vpage + 1) * k && t.vpage * k < va + n

/-- Whether an access lies in the page of a cached translation, wherever in it. -/
def TlbEntry.serves (t : TlbEntry) (va : Nat) : Bool := va / 2 ^ indexLow t.level == t.vpage

/-- TLBINV's first part (R425): the entries go; it completes when the accesses that used them have been performed, wherever in a
dropped entry's page they lie. `range` is none for every address. -/
def State.dropTlb (s : State) (o : Op) (c : Nat) (range : Option (Nat × Nat)) : State :=
  let gone := s.tlb.filter fun t => t.ctx == c && range.all fun r => t.covers r.1 r.2
  let hit := fun (va : Nat) => (range.all fun r => va < r.1 + r.2 && r.1 < va + 16) || gone.any fun t => t.serves va || t.serves (va + 15)
  let used := (s.ops.filter fun p => p.id != o.id && p.at_ == .issued && p.due.isNone && !p.after.contains o.id &&
    ((s.findGroup p.gid).any fun g => s.ctxOf g == c) && (p.accs ++ p.dsts).any fun a => hit a.va).map Op.id
  { s with
    tlb := s.tlb.filter fun t => !(t.ctx == c && range.all fun r => t.covers r.1 r.2)
    walkers := s.walkers.filter fun t => !(t.ctx == c && range.all fun r => t.covers r.1 r.2)
    ops := s.ops.map fun (p : Op) => if p.id == o.id then { p with after := used, ctr := 1 } else p }

/-- TLBINV at its first effect, and again at its completion. -/
def State.doTlbinv (s : State) (o : Op) (g : Group) (range : Option (Nat × Nat)) : State :=
  if o.ctr = 1 then s.finishOp o
  else
    let s := s.dropTlb o (s.selected g (o.vals.getD 0 0)) range
    match s.findOp o.id with
    | some p => if p.after.isEmpty then s.finishOp p else s
    | none => s

/-- An operation that ends with a status in an s register. -/
def State.finishStatus (r : State × Nat) (o : Op) (d : Nat) : State :=
  r.1.finishOp { o with writes := [⟨o.lanes.headD 0, 640 + d, BitVec.ofNat 32 r.2, 0⟩] }

/-- The effect of a system instruction whose release is done. -/
def State.sysEffect (s : State) (o : Op) (g : Group) : State :=
  let v := fun k => o.vals.getD k 0
  let own := s.ctxOf g
  match o.instr with
  | .sysrd _ x => (match s.sysRead g (v 0) x.reg.toNat with
    | .error _ => s.finishOp o
    | .ok y => s.renew.finishOp { o with writes :=
        [⟨o.lanes.headD 0, 640 + x.d, y.setWidth 32, 0⟩, ⟨o.lanes.headD 0, 641 + x.d, (y >>> 32).setWidth 32, 0⟩] })
  | .syswr _ x => (match s.sysWrite g (v 0) x.reg.toNat (v 1) with
    | .error _ => s.finishOp o
    | .ok t => t.finishOp o)
  | .tret _ x => State.finishStatus (s.endByHandle true (v 0)) o x.d
  | .resume _ x => State.finishStatus (s.endByHandle false (v 0)) o x.d
  | .halt _ x => (match s.target g (v 0) with
    | .error _ => s.finishOp o
    | .ok c => State.finishStatus (s.haltCtx own c) o x.d)
  | .haltKill _ x => (match s.target g (v 0) with
    | .error _ => s.finishOp o
    | .ok c => State.finishStatus (s.killCtx own c) o x.d)
  | .tlbinvAll _ _ => s.doTlbinv o g none
  | .tlbinvVa _ _ => if v 2 = 0 then s.finishOp o else s.doTlbinv o g (some (v 1, v 2))
  | .snapmark _ _ =>
    let c := s.selected g (v 0)
    (match s.takeIn c with
      | some t => if t.slate.retake ∧ v 2 ≠ 0 then s.markRanges t.tid c [(v 1, v 2)] else s
      | none => s).finishOp o
  | _ => s

/-- Instructions of R417. -/
def Instr.isSystem : Instr → Bool
  | .sysrd _ _ | .syswr _ _ | .tret _ _ | .resume _ _ | .tlbinvAll _ _ | .tlbinvVa _ _ | .snapmark _ _ | .halt _ _ | .haltKill _ _ => true
  | _ => false

/-- A system instruction takes effect, or faults there; what it read too early makes no fault (R31; assumption 46). -/
def State.doSystem (s : State) (o : Op) (g : Group) : State :=
  match s.sysFault g o.instr o.vals with
  | some f => if o.status = 1 then s.finishOp o else (s.finishOp o).progError o.gid o.wid f.1 o.lanes f.2
  | none => s.sysEffect o g

end Sys2Proof.Machine
end

