-- ==== Sys2Proof/Machine/Complete.lean ====
section
/-!
DEFINITION. Completions: of fixed-latency operations (R31, R71, R265, with FLAGS, GSET, GCLR and the shadows of R108), of long-latency
operations (R32, R319), and the arrival of engine operations (R318, R509).
-/

namespace Sys2Proof.Machine

/-! ### Fixed latency -/

/-- Whether the shadow of R108 checks an instruction. -/
def Instr.isShadowed : Instr → Bool
  | .fadd _ _ | .fsub _ _ | .fmul _ _ | .ffma _ _ | .hadd2 _ _ | .hfma2 _ _ | .redW _ _ | .scanW _ _ => true
  | _ => false

/-- The unit path of a lane (R471). -/
def Group.lanePath (g : Group) (w : Warp) (lane : Nat) : Nat :=
  let i := lane - w.lane0
  if g.onStack then unitPath 5 (g.agent - 64) 0 (w.slice + i / 4) (i % 4) else unitPath 1 g.agent w.part (w.slice + i / 4) (i % 4)

/-- A failed check of a lane's shadow (R472). -/
def State.shadowFail (s : State) (o : Op) (g : Group) (lane : Nat) : State :=
  (s.countUp (if g.onStack then 0x20280 + 8 * (g.agent - 64) else 0x20080 + 8 * g.agent) 0).hwError g.take 0x3140
    (((g.warps.find? fun w => w.lanes.contains lane).orElse fun _ => g.findWarp o.wid).elim 0 fun w => g.lanePath w lane) 0

/-- The check of R108 at an operation's completion: `vals` names the lanes whose shadows find their results wrong. The result stands
(R110, R472); after the first failed check the others are later errors (R467). -/
def State.shadowTrap (s : State) (o : Op) (g : Group) : State :=
  if Instr.isShadowed o.instr then o.vals.foldl (fun s l => s.shadowFail o g l) s else s

/-- Resolves a guard slot, unless it is resolved (R78, R240). -/
def Group.setGuard (g : Group) (n : Nat) (v : Bool) : Group :=
  match NMap.get none g.guards n with
  | some _ => g
  | none => { g with guards := NMap.put none g.guards n (some v) }

/-- What a fixed-latency operation does in its completion clock beside its register writes: FLAGS reads and changes the flags in one
step (R265, R279), GSET and GCLR act on their slot (R240). -/
def State.doFixed (s : State) (o : Op) (g : Group) : State :=
  let old := o.writes.map fun (w : RegW) => { w with val := (g.lane w.lane).fp.setWidth 32 }
  let src := fun (l : Nat) => BitVec.ofNat 5 ((o.lvals.find? fun x => x.1 == l).elim 0 fun x => x.2.headD 0)
  match o.instr with
  | .flags _ _ => s.finishOp { o with writes := old }
  | .flagsSet _ _ => (s.finishOp { o with writes := old }).modLanes g.gid o.lanes fun i l => { l with fp := src i }
  | .flagsClr _ _ => (s.finishOp { o with writes := old }).modLanes g.gid o.lanes fun i l => { l with fp := l.fp &&& ~~~(src i) }
  | .gset _ x => (s.finishOp o).modGroup g.gid fun y => y.setGuard x.g.toNat (o.vals.headD 0 == 1)
  | .gclr _ n => (s.finishOp o).modGroup g.gid fun y => { y with guards := NMap.put none y.guards n.toNat none }
  | _ => s.finishOp o

/-- FIXED_LATENCY_COMPLETE (R31, R71, R265). -/
def execFixedLatencyComplete (op : Nat) (s : State) : Outcome :=
  .next (match s.findOp op with
    | none => s
    | some o => match s.findGroup o.gid with
      | none => s
      | some g => if o.due.any fun d => d ≤ s.now g then (s.doFixed o g).shadowTrap o g else s)

/-! ### Arrivals -/

/-- XRED and XPREF, which act as a whole. -/
def Instr.isRows : Instr → Bool
  | .xred _ _ | .xpref _ _ => true
  | _ => false

/-- The data of an operation of the reduce unit. -/
def State.doRows (s : State) (o : Op) (g : Group) : State × Op :=
  match o.instr with
  | .xred _ _ => s.doXred o g
  | .xpref _ _ => s.doXpref o g
  | _ => (s, o)

/-- The agent that makes an arrival: the stack whose stack core runs the block, whose base-die reduce unit or whose bank units did
the work (R133, R353), or the group's own (R150). -/
def Op.arriver (o : Op) (g : Group) : Nat :=
  match o.instr with
  | .ncallB _ _ => 64 + 8 * (CallBlock.mk (o.vals.drop 1)).stack
  | .xred _ _ | .xpref _ _ => 64 + 8 * (RowBlock.mk o.vals).stack
  | .bkmac _ _ => 64 + 8 * o.vals.getD 0 0
  | _ => g.agent

/-- ENGINE_ARRIVAL (R318, R509): the operation has ended, or its data moves now, and its word is reached. -/
def execEngineArrival (op : Nat) (s : State) : Outcome :=
  .next (match s.findOp op with
    | none => s
    | some o => match s.findGroup o.gid with
      | none => s
      | some g =>
        if o.bw.isNone then s
        else if o.at_ = .ready then s.arrive o g (o.arriver g)
        else if s.canMoveOut o then
          let r := s.moveOut o g
          r.1.arrive r.2 g (o.arriver g)
        else if Instr.isRows o.instr && o.at_ == .issued && o.after.isEmpty && s.ringFree o then
          let r := s.doRows o g
          (r.1.modOp op fun _ => { r.2 with at_ := .ready }).arrive r.2 g (o.arriver g)
        else s)

/-! ### Long latency -/

/-- An engine operation that has ended and made its arrival, if it has one: without a word its status is raised now (R318). -/
def State.endEngine (s : State) (o : Op) : State :=
  (if o.status = 0 then s else s.engineError o).finishOp o

/-- LONG_LATENCY_COMPLETE (R32, R319). -/
def execLongLatencyComplete (op : Nat) (s : State) : Outcome :=
  .next (match s.findOp op with
    | none => s
    | some o => match s.findGroup o.gid with
      | none => s
      | some g =>
        if o.at_ = .ready then (if o.bw.isNone then s.endEngine o else s)
        else if o.bw.isNone && s.canMoveOut o then (s.moveOut o g).1
        else if s.mayEnd o g then
          if Instr.isSystem o.instr then s.doSystem o g
          else ((s.doAccess o g).or (s.doPlain o g)).getD s
        else s)

end Sys2Proof.Machine
end

