-- ==== Sys2Proof/Machine/Pair.lean ====
section
/-!
DEFINITION. Pairs (R203): what each member reads, writes and pops, the rule that a pair must keep, and the issue of both members in one
clock.
-/

namespace Sys2Proof.Machine

/-- The uniform registers of a block operand. -/
def blockCodes (first n : Nat) : List Nat := (List.range n).map fun j => 640 + first + j

def pairCodes (s : Nat) : List Nat := blockCodes s 2

/-- What an operand reads or pops: registers, the queue, or the predicate; p7 is no register (R72). -/
def Arg.uses : Arg → List Nat
  | .pred p => if p.p = 7 then [] else [predCode p.p.toNat]
  | a => a.codes

/-- The header of an issued word. -/
def Instr.hdr? : Instr → Option Hdr
  | .nop h | .bra h _ | .brx h _ | .call h _ | .callx h _ | .ret h | .exit h | .loop h _ | .endl h _ | .endlBrk h | .wsync h _ | .yield h
  | .wait h _ | .trigger h | .trap h _ | .bkpt h | .gset h _ | .gclr h _ | .grow h | .wcut h | .wsplice h _ | .iadd h _ | .isub h _
  | .imul h _ | .imulh h _ | .imad h _ | .imadw h _ | .imin h _ | .imax h _ | .iabs h _ | .ineg h _ | .idot4 h _ | .and h _ | .or h _
  | .xor h _ | .not h _ | .lop3 h _ | .shl h _ | .shr h _ | .sha h _ | .rot h _ | .shf h _ | .popc h _ | .clz h _ | .brev h _ | .bfe h _
  | .bfi h _ | .isetp h _ | .isel h _ | .lea h _ | .psetp h _ | .psetpG h _ | .mov h _ | .movi h _ | .smov h _ | .smovSt h _
  | .ubcast h _ | .spr h _ | .shfl h _ | .push h _ | .permb h _ | .vote h _ | .matchLanes h _ | .redW h _ | .scanW h _ | .vslide h _
  | .rng h _ | .fadd h _ | .fsub h _ | .fmul h _ | .ffma h _ | .fmin h _ | .fmax h _ | .fsetp h _ | .fclass h _ | .frcp h _ | .frsq h _
  | .fsqrt h _ | .fex2 h _ | .flg2 h _ | .fsin h _ | .fcos h _ | .hadd2 h _ | .hfma2 h _ | .cvt h _ | .pack h _ | .unpack h _ | .qnt h _
  | .dqnt h _ | .tagset h _ | .tagget h _ | .flags h _ | .flagsSet h _ | .flagsClr h _ | .ld h _ | .st h _ | .lds h _ | .sts h _
  | .ldu h _ | .ldt h _ | .stt h _ | .atom h _ | .atoms h _ | .red h _ | .cpa h _ | .cpaLn h _ | .cpout h _ | .cpoutLn h _ | .pref h _
  | .l2clean h _ | .l2inv h _ | .l2flush h _ | .bmode h _ | .pres h _ | .release h _ | .acquire h _ | .fence h _ | .bar h _ | .barArr h _
  | .bart h _ | .bartArr h _ | .bwinit h _ | .bwarr h _ | .bwwait h _ | .tflag h _ | .semsig h _ | .semwait h _ | .errack h _
  | .mdecl h _ | .msign h _ | .mma h _ | .mzero h _ | .mload h _ | .mout h _ | .mfence h | .mwait h _ | .awalk h _ | .astop h _
  | .plalloc h _ | .plfree h | .plfill h _ | .pldrain h _ | .plop h _ | .plmul h _ | .pldot h _ | .plcmp h _ | .plsel h _ | .plred h _
  | .plbmap h _ | .ncallL h _ | .ncallB h _ | .njoin h _ | .nret h _ | .xred h _ | .xpref h _ | .bkopen h _ | .bkclose h _
  | .bkbcast h _ | .bkmac h _ | .bkread h _ | .kvxlate h _ | .kvmask h _ | .fcopyPut h _ | .fcopyGet h _ | .freduce h _ | .fsem h _
  | .sysrd h _ | .syswr h _ | .tret h _ | .resume h _ | .tlbinvAll h _ | .tlbinvVa h _ | .snapmark h _ | .halt h _ | .haltKill h _ =>
    some h
  | _ => none

/-- Source operands: read lane by lane, or as the lowest lane holds them. -/
def Instr.args : Instr → List Arg
  | .iadd _ o | .isub _ o | .imul _ o | .imulh _ o | .imin _ o | .imax _ o | .and _ o | .or _ o | .xor _ o | .bfe _ o | .permb _ o =>
    [.any o.ty o.a, .any o.ty o.b]
  | .shl _ o | .shr _ o | .sha _ o | .rot _ o | .push _ o => [.any o.ty o.a, .any .b32 o.b]
  | .imad _ o | .idot4 _ o | .bfi _ o => [.any o.ty o.a, .any o.ty o.b, .any o.ty o.c]
  | .imadw _ o => [.any o.ty o.a, .any o.ty o.b, .any (wideOf o.ty) o.c]
  | .iabs _ o | .ineg _ o | .not _ o | .popc _ o | .clz _ o | .brev _ o | .mov _ o | .matchLanes _ o => [.any o.ty o.a]
  | .lop3 _ o => [.any .b32 o.a, .any .b32 o.b, .any .b32 o.c]
  | .shf _ o => [.any .b32 o.a, .any .b32 o.b, .any .b32 o.c]
  | .isetp _ o => [.any o.ty o.a, .any o.ty o.b, combArg o.comb o.pc]
  | .isel _ o => [.any o.ty o.a, .any o.ty o.b, .pred o.pc]
  | .lea _ o => [.reg .i64 o.a, .any o.ty o.b]
  | .psetp _ o => [.pred ⟨o.pa, false⟩, .pred ⟨o.pb, false⟩, .pred ⟨o.pc, false⟩]
  | .movi _ o => [.any o.ty o.imm]
  | .smov _ o => [.any .b32 o.idx]
  | .smovSt _ o => [.any o.ty (.reg (.s o.a)), .any .b32 o.idx]
  | .ubcast _ o => [.any o.ty o.a, .any .b32 o.idx]
  | .shfl _ o => [.any o.ty o.a, .any .b32 o.b]
  | .vote _ o => [.pred o.pa]
  | .redW _ o => [.any o.ty o.a]
  | .scanW _ o => [.any o.ty o.a]
  | .vslide _ o => [.any .b32 o.a, .any .b32 o.f]
  | .fadd _ o | .fsub _ o | .fmul _ o | .hadd2 _ o => [.any o.ty o.a, .any o.ty o.b]
  | .ffma _ o | .hfma2 _ o => [.any o.ty o.a, .any o.ty o.b, .any o.ty o.c]
  | .fmin _ o | .fmax _ o => [.any .f32 o.a, .any .f32 o.b]
  | .fsetp _ o => [.any .f32 o.a, .any .f32 o.b, combArg o.comb o.pc]
  | .fclass _ o => [.any .f32 o.a]
  | .frcp _ o | .frsq _ o | .fsqrt _ o | .fex2 _ o | .flg2 _ o | .fsin _ o | .fcos _ o => [.any .f32 o.a]
  | .cvt _ o => [.reg o.st o.a]
  | .pack _ o => packArgs o
  | .unpack _ o => [.reg o.ty o.a]
  | .qnt _ o => (List.range o.ty.qntCount).map fun j => Arg.v .f32 (o.va + j)
  | .dqnt _ o => [.reg o.ty o.a, .reg .e8m0 o.sc]
  | .tagset _ o => [.reg .b32 o.a]
  | .tagget _ o | .flagsSet _ o | .flagsClr _ o => [.reg .b32 o.a]
  | .ld _ o => addrArgs (MemMode.space o.mode == .global) o.base o.off
  | .ldu _ o => addrArgs false o.base o.off
  | .lds _ o => addrArgs false o.base o.off
  | .st _ o => addrArgs (MemMode.space o.mode == .global) o.base o.off ++ dataArgs o.ty o.vec o.one o.data
  | .sts _ o => addrArgs false o.base o.off ++ dataArgs o.ty o.vec o.one o.data
  | .ldt _ o => [.v .b32 o.vc]
  | .stt _ o => .v .b32 o.vc :: (List.range (vecCount o.vec)).map fun j => Arg.v .b32 (o.vs + j)
  | .atom _ o => addrArgs true o.base o.off ++ atomArgs o.ty o.b o.c
  | .atoms _ o => addrArgs false o.base o.off ++ atomArgs o.ty o.b o.c
  | .red _ o => addrArgs true o.base o.off ++ atomArgs o.ty o.b o.c
  | .cpa _ o | .cpout _ o => [.of .z32 o.n]
  | .cpaLn _ o | .cpoutLn _ o => [.reg .z32 o.sp, .reg .i64 o.ga]
  | .pref _ o => [.reg (if MemMode.space o.mode = .global then .i64 else .z32) o.base, .of .i32 o.off]
  | .l2clean _ o | .l2inv _ o | .l2flush _ o => [.of .z32 o.n]
  | .pres _ o => addrArgs false o.base o.off
  | .bwinit _ o => [.of .z32 o.n]
  | .bwarr _ o => [.of .z32 o.n]
  | .bwwait _ o => [.of .z32 o.ph]
  | .semsig _ o => [.of .z32 o.n]
  | .semwait _ o => [.of .z32 o.n]
  | .ncallL _ o => callArgs o
  | .njoin _ o => [.reg .i64 o.mask]
  | .nret _ o => nretArgs o
  | .xred _ o | .xpref _ o => [.v .b32 o.vi]
  | .bkbcast _ o => [.v .b32 o.vs]
  | .kvxlate _ o => kvArgs o
  | .kvmask _ o => kvmaskArgs o
  | .fsem _ o => [.of .z32 o.n]
  | _ => []

/-- Uniform registers that an instruction reads beside its operands: addresses and blocks. -/
def Instr.uniforms : Instr → List Nat
  | .ldt _ o => pairCodes o.desc
  | .stt _ o => pairCodes o.desc
  | .cpa _ o | .cpout _ o => (640 + o.sp) :: pairCodes o.ga ++ bwCodes o.bw
  | .cpaLn _ o | .cpoutLn _ o => bwCodes o.bw
  | .l2clean _ o | .l2inv _ o | .l2flush _ o => pairCodes o.sa
  | .bwinit _ o => WordRef.codes o.word
  | .bwarr _ o => WordRef.codes o.word
  | .bwwait _ o => WordRef.codes o.word
  | .errack _ o => WordRef.codes o.word
  | .semsig _ o => pairCodes o.sa
  | .semwait _ o => pairCodes o.sa
  | .mdecl _ o => blockCodes o.sm 4
  | .mma _ o => blockCodes o.blk 16 ++ bwCodes o.bw
  | .mload _ o => pairCodes o.record
  | .mout _ o => pairCodes o.record
  | .awalk _ o => pairCodes o.desc ++ pairCodes o.walk ++ bwCodes o.bw
  | .plalloc _ o => pairCodes o.mask
  | .plfill _ o | .pldrain _ o => pairCodes o.addr ++ blockCodes o.cmd 4 ++ bwCodes o.bw
  | .plop _ o | .plmul _ o => pairCodes o.cmd ++ bwCodes o.bw
  | .pldot _ o => (640 + o.z) :: pairCodes o.cmd ++ bwCodes o.bw
  | .plcmp _ o => pairCodes o.cmd ++ bwCodes o.bw
  | .plsel _ o => pairCodes o.cmd ++ bwCodes o.bw
  | .plred _ o => pairCodes o.addr ++ pairCodes o.cmd ++ bwCodes o.bw
  | .plbmap _ o => pairCodes o.addr ++ pairCodes o.cmd ++ bwCodes o.bw
  | .ncallL _ o => pairCodes o.sr
  | .ncallB _ o => blockCodes o.blk 16 ++ pairCodes o.bw.word
  | .xred _ o | .xpref _ o => blockCodes o.blk 8 ++ pairCodes o.bw.word
  | .bkopen _ o | .bkclose _ o => pairCodes o
  | .bkbcast _ o => pairCodes o.sa
  | .bkmac _ o => (640 + o.sk) :: pairCodes o.sa ++ pairCodes o.bw.word
  | .bkread _ o => pairCodes o.sa
  | .kvxlate _ o => pairCodes o.root
  | .fcopyPut _ o | .fcopyGet _ o => blockCodes o.blk 8 ++ pairCodes o.bw.word
  | .freduce _ o => blockCodes o.blk 8 ++ pairCodes o.bw.word
  | .fsem _ o => pairCodes o.sa
  | _ => []

/-- Numbers for convergence registers, rejoin masks and tiles among the codes of registers. -/
def convCode (c : BitVec 3) : Nat := 1536 + c.toNat
def joinCode (j : BitVec 2) : Nat := 1552 + j.toNat
def tileUse (t : BitVec 4) : Nat := 1568 + t.toNat

/-- Convergence registers, rejoin masks and tiles that an instruction reads. -/
def Instr.groupReads : Instr → List Nat
  | .msign _ c | .mwait _ c => [convCode c]
  | .mma _ o => [convCode o.c, tileUse o.t, tileUse (o.t + 1)]
  | .mout _ o => [tileUse o.t]
  | .njoin _ o => [joinCode o.j]
  | .ncallL _ o => [joinCode o.j]
  | _ => []

/-- Those that it writes: a convergence register is declared, signed or staged, a rejoin mask gains lanes (R171), a tile gets values. -/
def Instr.groupDests : Instr → List Nat
  | .mdecl _ o => [convCode o.c]
  | .msign _ c => [convCode c]
  | .mma _ o => [convCode o.c, tileUse o.t, tileUse (o.t + 1)]
  | .mzero _ t => [tileUse t]
  | .mload _ o => [tileUse o.t]
  | .ncallL _ o => [joinCode o.j]
  | _ => []

def predDst (n : BitVec 3) : List Nat := if n = 7 then [] else [predCode n.toNat]

/-- Vector and uniform registers and predicates that an instruction writes in a warp of width `w`. -/
def Instr.regDests (w : Nat) : Instr → List Nat
  | .iadd _ o | .isub _ o | .imul _ o | .imulh _ o | .imin _ o | .imax _ o | .and _ o | .or _ o | .xor _ o | .bfe _ o | .permb _ o
  | .shl _ o | .shr _ o | .sha _ o | .rot _ o | .push _ o => regCodes o.ty.is64 o.d
  | .imad _ o | .idot4 _ o | .bfi _ o => regCodes o.ty.is64 o.d
  | .imadw _ o => regCodes true o.d
  | .iabs _ o | .ineg _ o | .not _ o | .popc _ o | .clz _ o | .brev _ o | .mov _ o => regCodes o.ty.is64 o.d
  | .matchLanes _ o => regCodes true o.d
  | .lop3 _ o => [o.d.code]
  | .shf _ o => [o.d.code]
  | .isetp _ o => predDst o.pd
  | .isel _ o => regCodes o.ty.is64 o.d
  | .lea _ o => regCodes true o.d
  | .psetp _ o => predDst o.pd
  | .psetpG _ o => predDst o.pd ++ predDst o.pe
  | .movi _ o => regCodes o.ty.is64 o.d
  | .smov _ o => regCodes o.ty.is64 (.s o.d)
  | .ubcast _ o => regCodes o.ty.is64 (.s o.d)
  | .spr _ o => [o.d.code]
  | .shfl _ o => regCodes o.ty.is64 o.d
  | .vote _ o => match o.dst with
    | .all p | .any p | .uni p => predDst p
    | .ballot d => regCodes true d
  | .redW _ o => regCodes o.ty.is64 o.d
  | .scanW _ o => regCodes o.ty.is64 o.d
  | .vslide _ o => [o.d.code]
  | .rng _ o => regCodes o.ty.is64 o.d
  | .fadd _ o | .fsub _ o | .fmul _ o | .hadd2 _ o => [o.d.code]
  | .ffma _ o | .hfma2 _ o => [o.d.code]
  | .fmin _ o | .fmax _ o => [o.d.code]
  | .fsetp _ o => predDst o.pd
  | .fclass _ o => [o.d.code]
  | .frcp _ o | .frsq _ o | .fsqrt _ o | .fex2 _ o | .flg2 _ o | .fsin _ o | .fcos _ o => [o.d.code]
  | .cvt _ o => regCodes o.dt.is64 o.d
  | .pack _ o => [o.d.code]
  | .unpack _ o => (List.range (if loneElement o.ty.unpackCount o.e.toNat then 1 else 2)).map fun j => o.vd + j
  | .qnt _ o => [o.vd, o.vs]
  | .dqnt _ o => (List.range o.ty.qntCount).map fun j => o.vd + j
  | .tagset _ o => [o.d.code]
  | .tagget _ o | .flagsSet _ o | .flagsClr _ o => [o.d.code]
  | .flags _ o => [o.code]
  | .ld _ o | .lds _ o | .ldu _ o => runCodes o.d (if o.one then 1 else accessRegs o.ty o.vec)
  | .ldt _ o => (List.range (vecCount o.vec)).map fun j => o.vd + j
  | .atom _ o | .atoms _ o => regCodes o.ty.is64 o.d
  | .pres _ o => predDst o.pd
  | .bwarr _ o => [o.d.code]
  | .bwwait _ o => predDst o.pd
  | .semwait _ o => [o.d.code]
  | .errack _ o => [o.d.code]
  | .ncallL _ o => o.vd :: if o.nr2 then [o.vd + 1] else []
  | .bkread _ o => (List.range (128 / w)).map fun j => o.vd + j
  | .kvxlate _ o => [o.vd, o.vd + 1, o.vt] ++ predDst o.pd
  | .kvmask _ o => o.d.code :: predDst o.pd
  | _ => []

/-- All that an instruction writes. -/
def Instr.dests (w : Nat) (i : Instr) : List Nat := Instr.regDests w i ++ Instr.groupDests i

/-- Whether a type is a floating format. -/
def Ty.isFp : Ty → Bool
  | .f32 | .bf16 | .f16 | .e4m3 | .e5m2 | .e3m2 | .e2m3 | .e2m1 | .l6 | .e8m0 => true
  | _ => false

/-- Whether an instruction may raise FP flags, or changes them (R265): a conversion between integers raises none, an unpacking only of
LNS6, a packing of none but floating formats, and a reduction or scan only as a sum (R99, R274, R275). -/
def Instr.setsFp : Instr → Bool
  | .fadd _ _ | .fsub _ _ | .fmul _ _ | .ffma _ _ | .hadd2 _ _ | .hfma2 _ _ | .frcp _ _ | .frsq _ _ | .fsqrt _ _ | .fex2 _ _ | .flg2 _ _
  | .fsin _ _ | .fcos _ _ | .qnt _ _ | .dqnt _ _ | .flagsSet _ _ | .flagsClr _ _ => true
  | .cvt _ o => Ty.isFp o.st || Ty.isFp o.dt
  | .pack _ o => Ty.isFp o.ty
  | .unpack _ o => o.ty == .l6
  | .redW _ o => o.ty == .f32 && o.op == .add
  | .scanW _ o => o.ty == .f32 && o.op == .add
  | _ => false

/-- Whether an instruction reads the FP flags (R279). -/
def Instr.getsFp : Instr → Bool
  | .flags _ _ | .flagsSet _ _ | .flagsClr _ _ => true
  | _ => false

/-- All that a member reads or pops, with its guard. -/
def Instr.reads (i : Instr) : List Nat :=
  ((Instr.hdr? i).elim [] fun h => (Arg.pred h.guard.a).uses ++ (Arg.pred h.guard.b).uses) ++ (Instr.args i).flatMap Arg.uses ++
    Instr.uniforms i ++ Instr.groupReads i

/-- The registers at SMOV's effective number (R251); none where the index is read too early, or where the number names no register. -/
def State.smovCodes (s : State) (e : Env) (ty : Ty) (base : Nat) (idx : Src) : List Nat :=
  let x := s.readArg e 1 e.low [] (.of .b32 idx)
  if x.haz || decide ((base : Int) + smovIdx x < 0) then []
  else (regCodes ty.is64 (.s (base + smovIdx x).toNat)).filter isUniform

/-- Registers that a member reads and that only its operands' values tell: the coordinates of LDT and STT by the descriptor's rank (R290),
the query of PLDOT (R343), the effective source of SMOV (R251). -/
def State.runReads (s : State) (e : Env) : Instr → List Nat
  | .smov _ o => s.smovCodes e o.ty o.a o.idx
  | .ldt _ o => (List.range (s.rankAt e o.desc)).map fun j => o.vc + j
  | .stt _ o => (List.range (s.rankAt e o.desc)).map fun j => o.vc + j
  | .pldot _ o =>
    let w := s.uniS e true o.cmd
    (List.range ((dotN w * dotWq w + 31) / 32)).map fun j => 640 + o.z + j
  | _ => []

/-- Registers that a member writes and that only its operands' values tell: the effective destination of SMOV.ST (R251). -/
def State.runDests (s : State) (e : Env) : Instr → List Nat
  | .smovSt _ o => s.smovCodes e o.ty o.d o.idx
  | _ => []

/-- Instructions that no pair holds: the control family, WCUT and WSPLICE, and the system instructions. -/
def Instr.alone : Instr → Bool
  | .nop _ | .bra _ _ | .brx _ _ | .call _ _ | .callx _ _ | .ret _ | .exit _ | .loop _ _ | .endl _ _ | .endlBrk _ | .wsync _ _ | .yield _
  | .wait _ _ | .trigger _ | .trap _ _ | .bkpt _ | .gset _ _ | .gclr _ _ | .grow _ | .wcut _ | .wsplice _ _ | .pair _ _ => true
  | i => Instr.isSystem i || (Instr.hdr? i).isNone

def common (xs ys : List Nat) : Bool := xs.any fun x => ys.contains x

/-- The rule of R203 on two members in a warp of width `w`, beside what their line says of them; `runs` are the registers that the
second reads by its operands' values, and `da` and `db` those that the members write so. -/
def pairOk (w : Nat) (runs da db : List Nat) (a b : Instr) : Bool :=
  let wa := Instr.dests w a ++ da
  let queues := fun (i : Instr) => (Instr.reads i).filter fun c => 2048 ≤ c
  !(Instr.alone a) && !(Instr.alone b) && !common wa (Instr.reads b ++ runs) && !((Instr.setsFp a) && (Instr.getsFp b)) && !common wa (Instr.dests w b ++ db) &&
  !(((Instr.hdr? a).any fun x => x.setf ≠ 0 && (Instr.hdr? b).any fun y => bitAt y.wait.toNat (x.setf - 1))) &&
  !common (queues a) (queues b)

/-- The meaning of an instruction whose target R202 or R234 judges. -/
def Instr.branches : Instr → Option (State → Outcome)
  | .bra h o => some (execBra h o)
  | .brx h o => some (execBrx h o)
  | .call h o => some (execCall h o)
  | .callx h o => some (execCallx h o)
  | .ret h => some (execRet h)
  | .loop h o => some (execLoop h o)
  | .endl h o => some (execEndl h o)
  | _ => none

/-- The lanes of the entry in issue that would fail row 2 of R210 at this instruction, as its meaning finds them in a take without
errors. -/
def State.wrongLanes (s : State) (i : Instr) : List Nat :=
  match Instr.branches i, s.cur.bind fun c => s.findGroup c.gid with
  | some f, some g => match f { s with takes := s.takes.map fun (t : Take) => { t with err := none, hwErr := none } } with
    | .next u => match (u.findTake g.take).bind Take.err with
      | some e => if e.code = 0x2107 then e.lanes else []
      | none => []
    | _ => []
  | _, _ => []

/-- Whether BKREAD's run passes v639 in a warp of width `w`, row 8 of R210 (R359). -/
def Instr.runOver (w : Nat) : Instr → Bool
  | .bkread _ o => decide (640 < o.vd + 128 / w)
  | _ => false

/-- What R210 finds wrong with a pair beside row 2: row 8 comes before row 10. -/
def State.pairFault (s : State) (e : Env) (a b : Instr) : Option Nat :=
  if Instr.runOver e.w.width a || Instr.runOver e.w.width b then some 0x2103
  else if pairOk e.w.width (s.runReads e b) (s.runDests e a) (s.runDests e b) a b then none else some 0x2106

/-- A pair issues: both members act in this clock for one entry, the second for the lanes that have not executed it already (R203,
R458); a pair with an encoding fault is a program error, row 2 of R210 before it. -/
def execPair (a b : Instr) (s : State) : Outcome :=
  .next (match s.env Guard.always with
    | none => s
    | some e => match s.pairFault e a b with
      | none =>
        let second := e.iss.lanes.filter fun l => !(e.g.lane l).solo
        let s := { s with todo := [(a, { e.iss with pos := 1 }), (b, { e.iss with pos := 2, pc := e.iss.pc + 8, lanes := second })] }
        s.modLanes e.g.gid e.iss.lanes fun _ l => { l with solo := false }
      | some c => match s.wrongLanes a ++ ({ s with cur := some { e.iss with pc := e.iss.pc + 8 } } : State).wrongLanes b with
        | [] => s.fail e c e.iss.lanes 0
        | ls => s.fail e 0x2107 ls 0)

end Sys2Proof.Machine
end

