-- ==== Sys2Proof/Machine/Dispatch.lean ====
section
/-!
DEFINITION. Every row of the opcode table with its meaning.
-/

namespace Sys2Proof.Machine

/-- What an issued word, a step of the part, or an act of the outside does (spec/95_what_each_step_holds.md). -/
def exec (i : Instr) (s : State) : Host.Outcome State Fault Refusal :=
  match i with
  | .nop h => Sys2Proof.Machine.execNop h s
  | .bra h o => Sys2Proof.Machine.execBra h o s
  | .brx h o => Sys2Proof.Machine.execBrx h o s
  | .call h o => Sys2Proof.Machine.execCall h o s
  | .callx h o => Sys2Proof.Machine.execCallx h o s
  | .ret h => Sys2Proof.Machine.execRet h s
  | .exit h => Sys2Proof.Machine.execExit h s
  | .loop h o => Sys2Proof.Machine.execLoop h o s
  | .endl h o => Sys2Proof.Machine.execEndl h o s
  | .endlBrk h => Sys2Proof.Machine.execEndlBrk h s
  | .wsync h o => Sys2Proof.Machine.execWsync h o s
  | .yield h => Sys2Proof.Machine.execYield h s
  | .wait h o => Sys2Proof.Machine.execWait h o s
  | .trigger h => Sys2Proof.Machine.execTrigger h s
  | .trap h o => Sys2Proof.Machine.execTrap h o s
  | .bkpt h => Sys2Proof.Machine.execBkpt h s
  | .gset h o => Sys2Proof.Machine.execGset h o s
  | .gclr h o => Sys2Proof.Machine.execGclr h o s
  | .grow h => Sys2Proof.Machine.execGrow h s
  | .wcut h => Sys2Proof.Machine.execWcut h s
  | .wsplice h o => Sys2Proof.Machine.execWsplice h o s
  | .iadd h o => Sys2Proof.Machine.execIadd h o s
  | .isub h o => Sys2Proof.Machine.execIsub h o s
  | .imul h o => Sys2Proof.Machine.execImul h o s
  | .imulh h o => Sys2Proof.Machine.execImulh h o s
  | .imad h o => Sys2Proof.Machine.execImad h o s
  | .imadw h o => Sys2Proof.Machine.execImadw h o s
  | .imin h o => Sys2Proof.Machine.execImin h o s
  | .imax h o => Sys2Proof.Machine.execImax h o s
  | .iabs h o => Sys2Proof.Machine.execIabs h o s
  | .ineg h o => Sys2Proof.Machine.execIneg h o s
  | .idot4 h o => Sys2Proof.Machine.execIdot4 h o s
  | .and h o => Sys2Proof.Machine.execAnd h o s
  | .or h o => Sys2Proof.Machine.execOr h o s
  | .xor h o => Sys2Proof.Machine.execXor h o s
  | .not h o => Sys2Proof.Machine.execNot h o s
  | .lop3 h o => Sys2Proof.Machine.execLop3 h o s
  | .shl h o => Sys2Proof.Machine.execShl h o s
  | .shr h o => Sys2Proof.Machine.execShr h o s
  | .sha h o => Sys2Proof.Machine.execSha h o s
  | .rot h o => Sys2Proof.Machine.execRot h o s
  | .shf h o => Sys2Proof.Machine.execShf h o s
  | .popc h o => Sys2Proof.Machine.execPopc h o s
  | .clz h o => Sys2Proof.Machine.execClz h o s
  | .brev h o => Sys2Proof.Machine.execBrev h o s
  | .bfe h o => Sys2Proof.Machine.execBfe h o s
  | .bfi h o => Sys2Proof.Machine.execBfi h o s
  | .isetp h o => Sys2Proof.Machine.execIsetp h o s
  | .isel h o => Sys2Proof.Machine.execIsel h o s
  | .lea h o => Sys2Proof.Machine.execLea h o s
  | .psetp h o => Sys2Proof.Machine.execPsetp h o s
  | .psetpG h o => Sys2Proof.Machine.execPsetpG h o s
  | .mov h o => Sys2Proof.Machine.execMov h o s
  | .movi h o => Sys2Proof.Machine.execMovi h o s
  | .smov h o => Sys2Proof.Machine.execSmov h o s
  | .smovSt h o => Sys2Proof.Machine.execSmovSt h o s
  | .ubcast h o => Sys2Proof.Machine.execUbcast h o s
  | .spr h o => Sys2Proof.Machine.execSpr h o s
  | .shfl h o => Sys2Proof.Machine.execShfl h o s
  | .push h o => Sys2Proof.Machine.execPush h o s
  | .permb h o => Sys2Proof.Machine.execPermb h o s
  | .vote h o => Sys2Proof.Machine.execVote h o s
  | .matchLanes h o => Sys2Proof.Machine.execMatchLanes h o s
  | .redW h o => Sys2Proof.Machine.execRedW h o s
  | .scanW h o => Sys2Proof.Machine.execScanW h o s
  | .vslide h o => Sys2Proof.Machine.execVslide h o s
  | .rng h o => Sys2Proof.Machine.execRng h o s
  | .fadd h o => Sys2Proof.Machine.execFadd h o s
  | .fsub h o => Sys2Proof.Machine.execFsub h o s
  | .fmul h o => Sys2Proof.Machine.execFmul h o s
  | .ffma h o => Sys2Proof.Machine.execFfma h o s
  | .fmin h o => Sys2Proof.Machine.execFmin h o s
  | .fmax h o => Sys2Proof.Machine.execFmax h o s
  | .fsetp h o => Sys2Proof.Machine.execFsetp h o s
  | .fclass h o => Sys2Proof.Machine.execFclass h o s
  | .frcp h o => Sys2Proof.Machine.execFrcp h o s
  | .frsq h o => Sys2Proof.Machine.execFrsq h o s
  | .fsqrt h o => Sys2Proof.Machine.execFsqrt h o s
  | .fex2 h o => Sys2Proof.Machine.execFex2 h o s
  | .flg2 h o => Sys2Proof.Machine.execFlg2 h o s
  | .fsin h o => Sys2Proof.Machine.execFsin h o s
  | .fcos h o => Sys2Proof.Machine.execFcos h o s
  | .hadd2 h o => Sys2Proof.Machine.execHadd2 h o s
  | .hfma2 h o => Sys2Proof.Machine.execHfma2 h o s
  | .cvt h o => Sys2Proof.Machine.execCvt h o s
  | .pack h o => Sys2Proof.Machine.execPack h o s
  | .unpack h o => Sys2Proof.Machine.execUnpack h o s
  | .qnt h o => Sys2Proof.Machine.execQnt h o s
  | .dqnt h o => Sys2Proof.Machine.execDqnt h o s
  | .tagset h o => Sys2Proof.Machine.execTagset h o s
  | .tagget h o => Sys2Proof.Machine.execTagget h o s
  | .flags h o => Sys2Proof.Machine.execFlags h o s
  | .flagsSet h o => Sys2Proof.Machine.execFlagsSet h o s
  | .flagsClr h o => Sys2Proof.Machine.execFlagsClr h o s
  | .ld h o => Sys2Proof.Machine.execLd h o s
  | .st h o => Sys2Proof.Machine.execSt h o s
  | .lds h o => Sys2Proof.Machine.execLds h o s
  | .sts h o => Sys2Proof.Machine.execSts h o s
  | .ldu h o => Sys2Proof.Machine.execLdu h o s
  | .ldt h o => Sys2Proof.Machine.execLdt h o s
  | .stt h o => Sys2Proof.Machine.execStt h o s
  | .atom h o => Sys2Proof.Machine.execAtom h o s
  | .atoms h o => Sys2Proof.Machine.execAtoms h o s
  | .red h o => Sys2Proof.Machine.execRed h o s
  | .cpa h o => Sys2Proof.Machine.execCpa h o s
  | .cpaLn h o => Sys2Proof.Machine.execCpaLn h o s
  | .cpout h o => Sys2Proof.Machine.execCpout h o s
  | .cpoutLn h o => Sys2Proof.Machine.execCpoutLn h o s
  | .pref h o => Sys2Proof.Machine.execPref h o s
  | .l2clean h o => Sys2Proof.Machine.execL2clean h o s
  | .l2inv h o => Sys2Proof.Machine.execL2inv h o s
  | .l2flush h o => Sys2Proof.Machine.execL2flush h o s
  | .bmode h o => Sys2Proof.Machine.execBmode h o s
  | .pres h o => Sys2Proof.Machine.execPres h o s
  | .release h o => Sys2Proof.Machine.execRelease h o s
  | .acquire h o => Sys2Proof.Machine.execAcquire h o s
  | .fence h o => Sys2Proof.Machine.execFence h o s
  | .bar h o => Sys2Proof.Machine.execBar h o s
  | .barArr h o => Sys2Proof.Machine.execBarArr h o s
  | .bart h o => Sys2Proof.Machine.execBart h o s
  | .bartArr h o => Sys2Proof.Machine.execBartArr h o s
  | .bwinit h o => Sys2Proof.Machine.execBwinit h o s
  | .bwarr h o => Sys2Proof.Machine.execBwarr h o s
  | .bwwait h o => Sys2Proof.Machine.execBwwait h o s
  | .tflag h o => Sys2Proof.Machine.execTflag h o s
  | .semsig h o => Sys2Proof.Machine.execSemsig h o s
  | .semwait h o => Sys2Proof.Machine.execSemwait h o s
  | .errack h o => Sys2Proof.Machine.execErrack h o s
  | .mdecl h o => Sys2Proof.Machine.execMdecl h o s
  | .msign h o => Sys2Proof.Machine.execMsign h o s
  | .mma h o => Sys2Proof.Machine.execMma h o s
  | .mzero h o => Sys2Proof.Machine.execMzero h o s
  | .mload h o => Sys2Proof.Machine.execMload h o s
  | .mout h o => Sys2Proof.Machine.execMout h o s
  | .mfence h => Sys2Proof.Machine.execMfence h s
  | .mwait h o => Sys2Proof.Machine.execMwait h o s
  | .awalk h o => Sys2Proof.Machine.execAwalk h o s
  | .astop h o => Sys2Proof.Machine.execAstop h o s
  | .plalloc h o => Sys2Proof.Machine.execPlalloc h o s
  | .plfree h => Sys2Proof.Machine.execPlfree h s
  | .plfill h o => Sys2Proof.Machine.execPlfill h o s
  | .pldrain h o => Sys2Proof.Machine.execPldrain h o s
  | .plop h o => Sys2Proof.Machine.execPlop h o s
  | .plmul h o => Sys2Proof.Machine.execPlmul h o s
  | .pldot h o => Sys2Proof.Machine.execPldot h o s
  | .plcmp h o => Sys2Proof.Machine.execPlcmp h o s
  | .plsel h o => Sys2Proof.Machine.execPlsel h o s
  | .plred h o => Sys2Proof.Machine.execPlred h o s
  | .plbmap h o => Sys2Proof.Machine.execPlbmap h o s
  | .ncallL h o => Sys2Proof.Machine.execNcallL h o s
  | .ncallB h o => Sys2Proof.Machine.execNcallB h o s
  | .njoin h o => Sys2Proof.Machine.execNjoin h o s
  | .nret h o => Sys2Proof.Machine.execNret h o s
  | .xred h o => Sys2Proof.Machine.execXred h o s
  | .xpref h o => Sys2Proof.Machine.execXpref h o s
  | .bkopen h o => Sys2Proof.Machine.execBkopen h o s
  | .bkclose h o => Sys2Proof.Machine.execBkclose h o s
  | .bkbcast h o => Sys2Proof.Machine.execBkbcast h o s
  | .bkmac h o => Sys2Proof.Machine.execBkmac h o s
  | .bkread h o => Sys2Proof.Machine.execBkread h o s
  | .kvxlate h o => Sys2Proof.Machine.execKvxlate h o s
  | .kvmask h o => Sys2Proof.Machine.execKvmask h o s
  | .fcopyPut h o => Sys2Proof.Machine.execFcopyPut h o s
  | .fcopyGet h o => Sys2Proof.Machine.execFcopyGet h o s
  | .freduce h o => Sys2Proof.Machine.execFreduce h o s
  | .fsem h o => Sys2Proof.Machine.execFsem h o s
  | .sysrd h o => Sys2Proof.Machine.execSysrd h o s
  | .syswr h o => Sys2Proof.Machine.execSyswr h o s
  | .tret h o => Sys2Proof.Machine.execTret h o s
  | .resume h o => Sys2Proof.Machine.execResume h o s
  | .tlbinvAll h o => Sys2Proof.Machine.execTlbinvAll h o s
  | .tlbinvVa h o => Sys2Proof.Machine.execTlbinvVa h o s
  | .snapmark h o => Sys2Proof.Machine.execSnapmark h o s
  | .halt h o => Sys2Proof.Machine.execHalt h o s
  | .haltKill h o => Sys2Proof.Machine.execHaltKill h o s
  | .pair a b => Sys2Proof.Machine.execPair a b s
  | .wsyncRelease g w => Sys2Proof.Machine.execWsyncRelease g w s
  | .growGrant g => Sys2Proof.Machine.execGrowGrant g s
  | .cut g w => Sys2Proof.Machine.execCut g w s
  | .splice g w => Sys2Proof.Machine.execSplice g w s
  | .cpaLineLand op line => Sys2Proof.Machine.execCpaLineLand op line s
  | .scratchpadAccessResume op => Sys2Proof.Machine.execScratchpadAccessResume op s
  | .teamMemberAccessResume op => Sys2Proof.Machine.execTeamMemberAccessResume op s
  | .barrierComplete team g n => Sys2Proof.Machine.execBarrierComplete team g n s
  | .bwwaitRetest op => Sys2Proof.Machine.execBwwaitRetest op s
  | .semwaitRetry op => Sys2Proof.Machine.execSemwaitRetry op s
  | .longLatencyComplete op => Sys2Proof.Machine.execLongLatencyComplete op s
  | .fixedLatencyComplete op => Sys2Proof.Machine.execFixedLatencyComplete op s
  | .mmaIssue g c => Sys2Proof.Machine.execMmaIssue g c s
  | .mmaComplete op => Sys2Proof.Machine.execMmaComplete op s
  | .mwaitRelease op => Sys2Proof.Machine.execMwaitRelease op s
  | .walkPoint op => Sys2Proof.Machine.execWalkPoint op s
  | .planeCommandStart op => Sys2Proof.Machine.execPlaneCommandStart op s
  | .ncallLDeliver op stack => Sys2Proof.Machine.execNcallLDeliver op stack s
  | .ncallReply op => Sys2Proof.Machine.execNcallReply op s
  | .ncallBDeliver op => Sys2Proof.Machine.execNcallBDeliver op s
  | .ncallBComplete g => Sys2Proof.Machine.execNcallBComplete g s
  | .njoinRelease op => Sys2Proof.Machine.execNjoinRelease op s
  | .returnTrap g w => Sys2Proof.Machine.execReturnTrap g w s
  | .returnTrapPlace g => Sys2Proof.Machine.execReturnTrapPlace g s
  | .bankCommandStart op => Sys2Proof.Machine.execBankCommandStart op s
  | .bkmacWave op => Sys2Proof.Machine.execBkmacWave op s
  | .fabricAck op status data => Sys2Proof.Machine.execFabricAck op status data s
  | .fsemSignal op status => Sys2Proof.Machine.execFsemSignal op status s
  | .engineArrival op => Sys2Proof.Machine.execEngineArrival op s
  | .trapRecordWrite c => Sys2Proof.Machine.execTrapRecordWrite c s
  | .trapptrTailWrite c tail => Sys2Proof.Machine.execTrapptrTailWrite c tail s
  | .snapshotCopy take granule => Sys2Proof.Machine.execSnapshotCopy take granule s
  | .warpRetire g w => Sys2Proof.Machine.execWarpRetire g w s
  | .groupRetire g => Sys2Proof.Machine.execGroupRetire g s
  | .gridEnd take => Sys2Proof.Machine.execGridEnd take s
  | .triggerPoint take => Sys2Proof.Machine.execTriggerPoint take s
  | .groupAdmission take => Sys2Proof.Machine.execGroupAdmission take s
  | .eviction take => Sys2Proof.Machine.execEviction take s
  | .growDeadlockEviction core => Sys2Proof.Machine.execGrowDeadlockEviction core s
  | .evictionRecord g => Sys2Proof.Machine.execEvictionRecord g s
  | .groupRestore g => Sys2Proof.Machine.execGroupRestore g s
  | .qtailWrite n q tail => Sys2Proof.Machine.execQtailWrite n q tail s
  | .errClear n q => Sys2Proof.Machine.execErrClear n q s
  | .queueLaunch n q => Sys2Proof.Machine.execQueueLaunch n q s
  | .queueSemwait n q => Sys2Proof.Machine.execQueueSemwait n q s
  | .queueSemwaitRetry n q => Sys2Proof.Machine.execQueueSemwaitRetry n q s
  | .queueSemsig n q => Sys2Proof.Machine.execQueueSemsig n q s
  | .queueCopy n q => Sys2Proof.Machine.execQueueCopy n q s
  | .queueCopyComplete n q => Sys2Proof.Machine.execQueueCopyComplete n q s
  | .queueBarrier n q => Sys2Proof.Machine.execQueueBarrier n q s
  | .queueTimestamp n q => Sys2Proof.Machine.execQueueTimestamp n q s
  | .timeSliceExpiry n q => Sys2Proof.Machine.execTimeSliceExpiry n q s
  | .takeEnd take => Sys2Proof.Machine.execTakeEnd take s
  | .retake take => Sys2Proof.Machine.execRetake take s
  | .contextCreate id dpart priv dpriv => Sys2Proof.Machine.execContextCreate id dpart priv dpriv s
  | .contextEnd id => Sys2Proof.Machine.execContextEnd id s
  | .bistGo scope dpmask => Sys2Proof.Machine.execBistGo scope dpmask s
  | .bistDone failing => Sys2Proof.Machine.execBistDone failing s
  | .pprDone spare => Sys2Proof.Machine.execPprDone spare s
  | .dpcfgWrite v => Sys2Proof.Machine.execDpcfgWrite v s
  | .pstateWrite p v => Sys2Proof.Machine.execPstateWrite p v s
  | .pstateResume p => Sys2Proof.Machine.execPstateResume p s
  | .clonWrite v => Sys2Proof.Machine.execClonWrite v s
  | .clusterPowerOff k => Sys2Proof.Machine.execClusterPowerOff k s
  | .sconWrite v => Sys2Proof.Machine.execSconWrite v s
  | .stackCorePowerOff sc => Sys2Proof.Machine.execStackCorePowerOff sc s
  | .banklimWrite m v => Sys2Proof.Machine.execBanklimWrite m v s
  | .thermalTrip => Sys2Proof.Machine.execThermalTrip s
  | .tripClear => Sys2Proof.Machine.execTripClear s
  | .attest => Sys2Proof.Machine.execAttest s
  | .enroll => Sys2Proof.Machine.execEnroll s
  | .revoke => Sys2Proof.Machine.execRevoke s
  | .update => Sys2Proof.Machine.execUpdate s
  | .devkey => Sys2Proof.Machine.execDevkey s
  | .securityBadOp op => Sys2Proof.Machine.execSecurityBadOp op s
  | .coldReset => Sys2Proof.Machine.execColdReset s
  | .warmReset => Sys2Proof.Machine.execWarmReset s
  | .functionReset p => Sys2Proof.Machine.execFunctionReset p s
  | .pprRepair v => Sys2Proof.Machine.execPprRepair v s
  | .hostLinkRetrain width rate ide => Sys2Proof.Machine.execHostLinkRetrain width rate ide s
  | .ualinkPortTrain port lanes peer => Sys2Proof.Machine.execUalinkPortTrain port lanes peer s
  | .hostMemAccess write addr data poison => Sys2Proof.Machine.execHostMemAccess write addr data poison s
  | .hostSnoop line => Sys2Proof.Machine.execHostSnoop line s
  | .ualinkRead sender ctx va => Sys2Proof.Machine.execUalinkRead sender ctx va s
  | .ualinkWrite sender ctx va data poison => Sys2Proof.Machine.execUalinkWrite sender ctx va data poison s
  | .ualinkReduceWrite sender ctx va bf16 data => Sys2Proof.Machine.execUalinkReduceWrite sender ctx va bf16 data s
  | .ualinkAtomicAdd sender ctx va n => Sys2Proof.Machine.execUalinkAtomicAdd sender ctx va n s
  | .registerWrite offset v => Sys2Proof.Machine.execRegisterWrite offset v s
  | .eccScrub sector => Sys2Proof.Machine.execEccScrub sector s
  | .packageSupplyLoss => Sys2Proof.Machine.execPackageSupplyLoss s
  | .strapChange recovery owner => Sys2Proof.Machine.execStrapChange recovery owner s

end Sys2Proof.Machine
end

