-- ==== Sys2Proof/Machine/Sched.lean ====
section
/-!
DEFINITION. What the device does next: the frontier of a warp and the choice among its entries (R22 to R27), what holds an issue (R30,
R32, R203), the issue of a word (R25, R193, R210, R211), the events that fall due at once and those whose moment is open (assumption 3),
and the advance of the clocks (R9, R491).
-/

namespace Sys2Proof.Machine

/-- The next move: an instruction or event with the state in which it acts, or a change of the device's own. -/
inductive Move
  | run (i : Instr) (s : State)
  | settle (s : State)

/-! ### The frontier (R24, R25, R29) -/

/-- An entry of the frontier. -/
structure Front where
  pc : BitVec 64
  lanes : List Nat
  prio : Nat
  age : Nat
  deriving DecidableEq, Repr

/-- The live lanes of a warp that nothing blocks. -/
def State.liveLanes (s : State) (g : Group) (w : Warp) : List Nat :=
  w.lanes.filter fun i => (g.lane i).at_ == .live &&
    s.ops.all fun o => !(o.gid == g.gid && o.at_ == .held && o.lanes.contains i)

/-- Adds a lane to the entry of its PC. -/
def addFront (i : Nat) (l : Lane) : List Front → List Front
  | [] => [⟨l.pc, [i], l.prio.toNat, l.age⟩]
  | f :: fs =>
    if f.pc = l.pc then { f with lanes := f.lanes ++ [i], prio := max f.prio l.prio.toNat, age := max f.age l.age } :: fs
    else f :: addFront i l fs

def State.frontier (s : State) (g : Group) (w : Warp) : List Front :=
  (s.liveLanes g w).foldl (fun fs i => addFront i (g.lane i) fs) []

/-- Whether an entry issues before another of the warp (R25). -/
def Front.before (x y : Front) : Bool :=
  if 256 ≤ x.age ∨ 256 ≤ y.age then decide (y.age < x.age) || (x.age == y.age && decide (x.pc.toNat < y.pc.toNat))
  else decide (y.prio < x.prio) || (x.prio == y.prio && decide (x.pc.toNat < y.pc.toNat))

/-- The entry that comes first. -/
def firstFront : List Front → Option Front
  | [] => none
  | f :: fs => match firstFront fs with
    | none => some f
    | some x => some (if x.before f then x else f)

/-! ### What stands at a PC -/

/-- What an entry finds at its PC. -/
inductive Reach
  | failed (code addr : Nat)                    -- the fetch fails (R456, R192, R204)
  | skip (pc : Nat)                             -- a filler, with the PC after it (R193)
  /-- An encoding fault (R210), with the PC after the word, the branches that row 2 may judge before it, with their PCs, and the
  members of a pair whose issue it waits for (R211). -/
  | bad (code next : Nat) (branches : List (Nat × Instr)) (members : List Instr)
  | word (i : Instr) (script : Bool) (next : Nat)

/-- What a decoded word, or a word that does not decode, is to the issue; `alt` is what it says beside rows 6 and 7. -/
def reachOf (pc next : Nat) (script : Bool) (alt : Option Instr) : Except DecodeError Instr → Reach
  | .error e => .bad e.code next (alt.toList.map fun i => (pc, i)) []
  | .ok i => .word i script next

/-- The pair that begins at a PC (R203): the encoding faults of both members come first (R210). Where either slot is not of kind 0, the
pair rule is broken before the second slot is reached, so 0x2106 stands even if that slot breaks R191 (DESIGN CHOICE, R210;
assumption 62). -/
def pairAt (l : Line) (pc : Nat) (priv : Bool) (alt : Option Instr) (a : Except DecodeError Instr) : Reach :=
  let i := pcSlot pc
  let next := l.next (l.next pc)
  let first := alt.toList.map fun x => (pc, x)
  let both := first ++ ((clearedAt l (pc + 8) priv 0 fun _ => 0).toList.map fun x => (pc + 8, x))
  match a with
  | .error e => .bad e.code next (if l.kind (i + 1) = 0 then both else first) []
  | .ok a =>
    if l.kind i ≠ 0 ∨ l.kind (i + 1) ≠ 0 then .bad DecodeError.pairRule.code (l.next pc) first [a]
    else match decodeAt l (pc + 8) priv 0 fun _ => 0 with
      | .error e => .bad e.code next both []
      | .ok b => if l.isPair (i + 1) then .bad DecodeError.pairRule.code next both [a, b] else .word (.pair a b) false next

/-- Fetches and decodes what stands at a PC (R189 to R211). An entry that reaches the second slot of a pair by a branch issues that member
alone, since its own PAIR bit is what marks a pair (DESIGN CHOICE, R203; assumption 55). -/
def State.reach (s : State) (g : Group) (pc : Nat) : State × Reach :=
  let r := s.fetchLine g pc
  match r.2 with
  | .error c => (r.1, .failed c (pcLine pc))
  | .ok l =>
    if l.skip 1 pc ≠ pc then (r.1, .skip (l.skip 1 pc))
    else
      let priv := s.privileged g
      match l.at pc with
      | .ok (.script ix _ _) =>
        let size := s.scriptSize g
        if size ≤ ix then (r.1, .bad DecodeError.scriptIndex.code (l.next pc) [] [])
        else
          let q := r.1.scriptEntry g ix
          match q.2 with
          | .error c => (q.1, .failed c.1 c.2)
          | .ok w =>
            let i := decodeAt l pc priv size fun _ => w
            let alt := clearedAt l pc priv size fun _ => w
            if l.isPair (pcSlot pc) then (q.1, pairAt l pc priv alt i) else (q.1, reachOf pc (l.next pc) true alt i)
      | _ =>
        let i := decodeAt l pc priv 0 fun _ => 0
        let alt := clearedAt l pc priv 0 fun _ => 0
        if l.isPair (pcSlot pc) then (r.1, pairAt l pc priv alt i) else (r.1, reachOf pc (l.next pc) false alt i)

/-! ### What holds an issue -/

/-- Every flag of the wait mask is 0, and the set flag has room for `k` more (R32). -/
def Warp.flagsOk (w : Warp) (h : Hdr) (k : Nat) : Bool :=
  ((List.range 12).all fun f => !bitAt h.wait.toNat f || NMap.get 0 w.flags (f + 1) == 0) &&
  (h.setf == 0 || decide (NMap.get 0 w.flags h.setf + k ≤ 63))

/-- What an instruction takes room of at its issue: the pending count of a scratchpad line, a place in a stack's queue of messages or of
block calls, a walk. -/
inductive Room
  | line (key : Nat)
  | message (stack : Nat)
  | block (stack : Nat)
  | walk (gid w : Nat)
  deriving DecidableEq, Repr

/-- How much room there is (R121, R170, R353, R333), and how much is taken. -/
def Room.cap : Room → Nat
  | .line _ => 3
  | .message _ => 4096
  | .block _ => 16
  | .walk _ _ => 1

def State.taken (s : State) : Room → Nat
  | .line k => s.pendingOf k
  | .message m => s.queuedMessages m
  | .block m => s.queuedBlocks m
  | .walk gid w => bit (s.walkOf gid w).isSome

/-- The room that an instruction takes: one for each entry. -/
def State.roomOf (s : State) (e : Env) (i : Instr) : List Room :=
  if e.act.isEmpty then []
  else match i with
    | .cpa _ _ | .cpaLn _ _ => (s.cpaLines e i).map .line
    | .ncallL _ o => (s.callStacks e o).map .message
    | .ncallB _ o => [.block (s.blockStack e o)]
    | .awalk _ o => [.walk e.g.gid o.w.toNat]
    | _ => []

/-- Whether there is room for all of these (R121, R170, R203, R333, R353). -/
def State.hasRoom (s : State) (rs : List Room) : Bool := rs.all fun r => decide (s.taken r + rs.count r ≤ r.cap)

/-- The room that an instruction of an entry takes. -/
def State.needs (s : State) (g : Group) (w : Warp) (f : Front) (i : Instr) : List Room :=
  ((Instr.hdr? i).bind fun h => (({ s with cur := some ⟨g.gid, w.wid, f.lanes, f.pc, 0, false⟩ } : State).env h.guard)).elim [] fun e => s.roomOf e i

/-- Whether the flags let an instruction issue; `k` is how often its set flag rises with it. -/
def Warp.flagsLet (w : Warp) (k : Nat) (i : Instr) : Bool := (Instr.hdr? i).all fun h => w.flagsOk h k

/-- The stall distance of a word (R30); a pair has its first member's. -/
def Instr.stallOf (i : Instr) : Nat := (Instr.hdr? i).elim 0 fun h => h.stall.toNat

/-- Whether a warp has waited the stall distance since its last issue (R30). -/
def Warp.rested (w : Warp) (now d : Nat) : Bool := w.last.all fun t => t + 1 + d ≤ now

/-- Whether the instructions of one word, or of a pair, meet every condition of their issue (R30, R32, R203). -/
def State.allReady (s : State) (g : Group) (w : Warp) (f : Front) : List Instr → Bool
  | [a, b] =>
    let k := if (Instr.hdr? a).map Hdr.setf = (Instr.hdr? b).map Hdr.setf then 2 else 1
    w.rested (s.now g) (Instr.stallOf a) && w.flagsLet k a && w.flagsLet k b && s.hasRoom (s.needs g w f a ++ s.needs g w f b)
  | [i] => w.rested (s.now g) (Instr.stallOf i) && w.flagsLet 1 i && s.hasRoom (s.needs g w f i)
  | _ => true

/-- Whether what an entry finds may issue: an encoding fault is raised when its word reaches issue, a pair fault when the pair would
issue (R211). -/
def State.frontReady (s : State) (g : Group) (w : Warp) (f : Front) : Bool :=
  match (s.reach g f.pc.toNat).2 with
  | .word (.pair a b) _ _ => s.allReady g w f [a, b]
  | .word i _ _ => s.allReady g w f [i]
  | .bad _ _ _ ms => s.allReady g w f ms
  | _ => true

/-- The entry chosen in the warp's next issue slot (R25, R237). -/
def State.chosen (s : State) (g : Group) (w : Warp) : Option Front :=
  let fs := s.frontier g w
  match firstFront (fs.filter fun f => 256 ≤ f.age) with
  | some f => some f
  | none =>
    if w.yielded.isEmpty then firstFront fs
    else
      let yields := fun (f : Front) => f.lanes.any w.yielded.contains
      match firstFront (fs.filter fun f => !yields f && s.frontReady g w f) with
      | some f => some f
      | none => firstFront (fs.filter yields)

/-- Whether a program error of a take lets a warp issue still: when each warp stops is open, within its bound of 24 issue slots for the
warp of the cause (`errSlots`, R465) and of 64 clocks for every other one (R466). -/
def State.errLets (s : State) (t : Take) (g : Group) (w : Warp) (e : TakeErr) : Bool :=
  s.free 970 w.wid % 2 == 0 && ((e.gid == g.gid && e.wid == w.wid) || decide (s.takeNow t < e.clock + 64))

/-- Whether a warp issues at all: it stands still for no stop, no error, no wait of its own (R237, R330, R419, R465). -/
def State.warpRuns (s : State) (g : Group) (w : Warp) : Bool :=
  w.halt == .run && w.errSlots != some 0 && decide (w.until_ ≤ s.now g) && w.rested (s.now g) 0 &&
  (w.hold.all fun k => (s.findOp k).isNone) &&
  ((s.takeOf g).all fun t => t.hwErr.isNone && t.err.all (s.errLets t g w))

/-- Whether the groups of an agent run: no stop, no move, no eviction (R166, R419, R441). -/
def State.groupRuns (s : State) (g : Group) : Bool :=
  g.inPlace &&
  (s.findCtx (s.ctxOf g)).all (fun c => !c.stop) && g.warps.all fun w => w.halt != .trapping

/-- The port that a warp takes when it issues now (R22). -/
def State.portOf (s : State) (g : Group) (w : Warp) : Port := ⟨g.agent, w.part, w.slice, w.width / 4, s.now g⟩

/-- Whether two ports are of one partition and one clock. -/
def Port.with (x y : Port) : Bool := x.agent == y.agent && x.part == y.part && x.clock == y.clock

/-- Whether two ports of a partition serve a common slice. -/
def Port.overlaps (x y : Port) : Bool := x.slice < y.slice + y.n && y.slice < x.slice + x.n

/-- Whether a port is free beside those taken (R22): four in a clock, on slices that are apart. -/
def Port.fits (x : Port) (taken : List Port) : Bool :=
  let ys := taken.filter x.with
  decide (ys.length < 4) && ys.all fun y => !x.overlaps y

/-- Notes that a port has been taken; those of earlier clocks go. -/
def State.takePort (s : State) (x : Port) : State :=
  { s with ports := (s.ports.filter fun y => y.agent != x.agent || y.clock == x.clock) ++ [x] }

/-- Whether a port of the partition is free for a warp (R22). -/
def State.portFree (s : State) (g : Group) (w : Warp) : Bool := (s.portOf g w).fits s.ports

/-- A warp that may issue now, with its group and entry. -/
structure Ready where
  g : Group
  w : Warp
  f : Front

/-- A warp of a group whose clock begins, if it is eligible (R22). -/
def State.eligible (s : State) (g : Group) (w : Warp) : Option Ready :=
  if s.groupRuns g && s.edge g.agent && s.warpRuns g w && s.portFree g w then
    (s.chosen g w).bind fun f => if s.frontReady g w f then some ⟨g, w, f⟩ else none
  else none

/-- The warps that are eligible in this clock (R22). -/
def State.readyWarps (s : State) : List Ready := s.groups.flatMap fun g => g.warps.filterMap fun w => s.eligible g w

/-- The order in which warps get the ports of their partition: by the clock of the last issue, then by the slot (R22). A warp that has
never issued has no such clock and comes before every one that has (DESIGN CHOICE; assumption 55). -/
def Ready.before (x y : Ready) : Bool :=
  let key := fun (r : Ready) => ((r.w.last.elim 0 fun t => t + 1), r.w.slot)
  let a := key x
  let b := key y
  decide (a.1 < b.1) || (a.1 == b.1 && decide (a.2 < b.2))

def insertReady (r : Ready) : List Ready → List Ready
  | [] => [r]
  | x :: xs => if x.before r then x :: insertReady r xs else r :: x :: xs

/-- The warps that get ports in this clock (R22). -/
def State.winners (s : State) (rs : List Ready) : List Ready :=
  (rs.foldr insertReady []).foldl (fun ws r =>
    if (s.portOf r.g r.w).fits (s.ports ++ ws.map fun x => s.portOf x.g x.w) then ws ++ [r] else ws) []

/-- Whether one of the warps that issue in a clock comes before another: in the order of partition and slot, in which pops of a queue
and other effects of one clock apply (R71, R79). -/
def Ready.ahead (x y : Ready) : Bool :=
  decide (x.g.agent * 128 + x.w.part * 32 + x.w.slot < y.g.agent * 128 + y.w.part * 32 + y.w.slot)

/-- Puts a warp into the order in which those of one clock issue. -/
def insertAhead (r : Ready) : List Ready → List Ready
  | [] => [r]
  | x :: xs => if r.ahead x then r :: x :: xs else x :: insertAhead r xs

/-! ### The issue -/

/-- What a lane of the entry undergoes at the issue (R26, R33, R193): it goes to the next word, its age is 0, and results whose flags
the word waits for are defined from now on. -/
def Lane.issued (l : Lane) (next : Nat) (waits : Nat) (pair : Bool) : Lane :=
  { l with
    pc := BitVec.ofNat 64 next
    age := 0
    solo := l.solo && pair
    unsettled := l.unsettled.filter fun u => u.2 == 0 || !bitAt waits (u.2 - 1) }

/-- The lanes that stand by grow older (R26). -/
def Lane.older (l : Lane) : Lane := { l with age := min 511 (l.age + 1) }

/-- The flags that a word waits for. -/
def Instr.waits : Instr → Nat
  | .pair a b => ((Instr.hdr? a).elim 0 fun h => h.wait.toNat) ||| ((Instr.hdr? b).elim 0 fun h => h.wait.toNat)
  | i => (Instr.hdr? i).elim 0 fun h => h.wait.toNat

def Instr.isPair : Instr → Bool
  | .pair _ _ => true
  | _ => false

/-- Whether an instruction reads memory at its issue: a frame, a descriptor, a table, a block's argument words. -/
def Instr.readsAtIssue : Instr → Bool
  | .call _ _ | .callx _ _ | .ret _ | .ldt _ _ | .stt _ _ | .kvxlate _ _ | .awalk _ _ | .ncallB _ _ => true
  | .pair a b => Instr.readsAtIssue a || Instr.readsAtIssue b
  | _ => false

/-- Whether an operation is an access that such a read follows in the warp's order (R138). -/
def Op.precedes (o : Op) (g : Group) (w : Warp) : Bool :=
  o.gid == g.gid && o.owners.contains w.wid && o.due.isNone && o.at_ == .issued && !(Instr.isWait o.instr) &&
  (Instr.isAcquire o.instr || Instr.readsMem o.instr || Instr.writesMem o.instr || o.range.isSome)

/-- Before an instruction that reads memory at its issue, the warp's earlier accesses are performed, in the order of issue, with the
copies that they need (R138; assumption 17). -/
def State.perform (s : State) (g : Group) (w : Warp) (i : Instr) : State :=
  if !(Instr.readsAtIssue i) then s
  else ((s.ops.filter fun o => o.precedes g w).foldr insertSeq []).foldl (fun (s : State) o =>
    match s.findOp o.id, s.findGroup g.gid with
    | some o, some g =>
      let s := if Instr.writesMem o.instr then s.copyAll g.take (o.units.map MUnit.loc) else s
      if s.mayEnd o g then ((s.doAccess o g).or (s.doPlain o g)).getD s else s
    | _, _ => s) s

/-- The issue slot of a warp (R23, R25, R26): the entry leaves its word, and the others age. -/
def State.takeSlot (s : State) (r : Ready) (next waits : Nat) (pair script : Bool) : State :=
  let others := (s.liveLanes r.g r.w).filter fun i => !r.f.lanes.contains i
  let s := s.modLanes r.g.gid r.f.lanes fun _ l => l.issued next waits pair
  let s := s.modLanes r.g.gid others fun _ l => l.older
  let s := s.modWarp r.g.gid r.w.wid fun w => { w with
    last := some (s.now r.g)
    yielded := []
    errSlots := w.errSlots.map fun k => k - 1 }
  let s := s.takePort (s.portOf r.g r.w)
  { s.renew with cur := some ⟨r.g.gid, r.w.wid, r.f.lanes, r.f.pc, 0, script⟩ }

/-- A fetch that fails (R192, R456, R163): a hardware error, the return trap, or a parked entry. -/
def State.fetchFails (s : State) (r : Ready) (code addr : Nat) : State :=
  let e : Env := ⟨⟨r.g.gid, r.w.wid, r.f.lanes, r.f.pc, 0, false⟩, r.g, r.w, r.f.lanes, []⟩
  if code / 4096 = 3 then s.settleError r.g code 0 addr
  else if r.g.onStack then s.returnTrap e
  else s.park e r.f.lanes code addr false

/-- The encoding fault of a word: row 2 of R210, where a taking lane of a branch goes to a target that it forbids, before the others. -/
def State.badWord (s : State) (r : Ready) (code : Nat) (branches : List (Nat × Instr)) : State :=
  match branches.flatMap fun b => ({ s with cur := s.cur.map fun c => { c with pc := BitVec.ofNat 64 b.1 } } : State).wrongLanes b.2 with
  | [] => s.progError r.g.gid r.w.wid code r.f.lanes 0
  | ls => s.progError r.g.gid r.w.wid 0x2107 ls 0

/-- The issue of one warp. Lanes whose PC rests on a filler are an entry of their own until it is chosen, and join the entry at the next
instruction only then (DESIGN CHOICE, R193; assumption 55). -/
def State.issue (s : State) (r : Ready) : Move :=
  let q := s.reach r.g r.f.pc.toNat
  match q.2 with
  | .failed code addr => .settle (q.1.fetchFails r code addr)
  | .skip pc => .settle (q.1.modLanes r.g.gid r.f.lanes fun _ l => { l with pc := BitVec.ofNat 64 pc })
  | .bad code next branches _ => .settle ((q.1.takeSlot r next 0 false false).badWord r code branches)
  | .word i script next => .run i (q.1.takeSlot r next (Instr.waits i) (Instr.isPair i) script)

/-- The issues of a clock begin: the warps that get ports are known, in the order in which they issue, and the earlier accesses that
their instructions follow are performed (R22, R71, R138). -/
def State.openTurn (s : State) : State :=
  let rs := (s.winners s.readyWarps).foldr insertAhead []
  let s := rs.foldl (fun (s : State) r => match (s.reach r.g r.f.pc.toNat).2 with
    | .word i _ _ => s.perform r.g r.w i
    | _ => s) s
  { s with turn := some (rs.map fun r => (r.g.gid, r.w.wid)) }

/-- The warp whose turn it is issues, if it still may. -/
def State.takeTurn (s : State) (x : Nat × Nat) (rest : List (Nat × Nat)) : Move :=
  let s := { s with turn := some rest }
  match (s.findGroup x.1).bind fun g => (g.findWarp x.2).bind (s.eligible g) with
  | some r => s.issue r
  | none => .settle s

/-! ### Events that fall due at once -/

/-- The first of some operations: by its clock, then in the order of partition and slot, then of issue (R71, R240, R265). -/
def firstDue : List Op → Option Op
  | [] => none
  | o :: os => match firstDue os with
    | none => some o
    | some p =>
      let key := fun (o : Op) => (o.due.getD 0, o.ord, o.seq)
      let a := key o
      let b := key p
      some (if a.1 < b.1 ∨ (a.1 = b.1 ∧ (a.2.1 < b.2.1 ∨ (a.2.1 = b.2.1 ∧ a.2.2 ≤ b.2.2))) then o else p)

/-- Fixed-latency operations whose clock has come. -/
def State.dueOps (s : State) : List Op :=
  s.ops.filter fun o => (s.findGroup o.gid).any fun g => o.due.any fun d => d ≤ s.now g

/-- Whether the end of a take is held up by an instruction that takes its effect first: a system instruction, or one of fixed
latency (R465). -/
def State.systemDue (s : State) (t : Take) : Bool :=
  s.ops.any fun o => (o.due.isSome || (Instr.isSystem o.instr && o.after.isEmpty)) &&
    (s.findGroup o.gid).any fun g => g.take == t.tid

/-- The end or retake of a take that has fallen due (R466, R477). -/
def State.dueTake (s : State) : Option Instr :=
  s.takes.findSome? fun t =>
    if t.hwErr.isSome then some (.retake t.tid)
    else t.err.bind fun e => if e.clock + 64 ≤ s.takeNow t && !s.systemDue t then some (.takeEnd t.tid) else none

/-- Lanes of a warp that go on (R236, R51, R55). -/
def State.dueWarp (s : State) (g : Group) (w : Warp) : Option Instr :=
  if !(g.wsyncFree w).isEmpty then some (.wsyncRelease g.gid w.wid)
  else if !(s.takeOf g).all Take.going then none
  else if g.cutReady w then some (.cut g.gid w.wid)
  else if g.arrived w && (match g.verdict w with
      | .waits => false
      | _ => true) then some (.splice g.gid w.wid)
  else none

/-- What a group does at once: its warps retire (R43, R49); and, where it is not being evicted (R445), its warps, its barriers, its MMAs, the grant of GROW (R37, R307, R327). -/
def State.dueGroup (s : State) (g : Group) : Option Instr :=
  ((g.warps.find? fun w => s.warpDone g w).map fun w => .warpRetire g.gid w.wid).orElse fun _ =>
  if !g.inPlace then none
  else (g.warps.findSome? fun w => s.dueWarp g w).orElse fun _ =>
  (((List.range 16).find? fun n => s.barDone g false n).map fun n => .barrierComplete false g.gid n).orElse fun _ =>
  (((List.range 4).find? fun n => s.barDone g true n).map fun n => .barrierComplete true g.gid n).orElse fun _ =>
  (((List.range 8).find? fun c => g.mmaReady c && ((g.conv c).staged.bind s.findOp).isSome).map fun c => .mmaIssue g.gid c).orElse fun _ =>
  if s.grantable g && (s.takeOf g).all Take.going then some (.growGrant g.gid) else none

/-- Waits that end at once (R331, R350). Those of a group that leaves its core wait for its restoration (R445). -/
def State.dueWait (s : State) (o : Op) : Option Instr :=
  match o.instr, s.findGroup o.gid with
  | .mwait _ c, some g => if (g.conv c.toNat).st = .idle ∧ g.inPlace then some (.mwaitRelease o.id) else none
  | .njoin _ x, some g => match g.findWarp o.wid with
    | some w => if (o.joined w x.j.toNat).isEmpty || !o.after.isEmpty || !g.inPlace then none else some (.njoinRelease o.id)
    | none => none
  | _, _ => none

/-- Timers that have run out (R447). -/
def State.dueTimer (s : State) : Option Instr :=
  (s.queues.find? fun x => x.2.expired && s.dpart (x.1 / 16) < 8).map fun x => .timeSliceExpiry (x.1 / 16) (x.1 % 16)

/-- What happens before anything else. -/
def State.prompt (s : State) : Option Instr :=
  ((firstDue s.dueOps).map fun o => .fixedLatencyComplete o.id).orElse fun _ =>
  s.dueTake.orElse fun _ =>
  (s.groups.findSome? s.dueGroup).orElse fun _ =>
  (s.ops.findSome? s.dueWait).orElse fun _ => s.dueTimer

/-! ### Events whose moment is open -/

/-- Whether the bank activity limit at a device register's offset has been sampled in this clock: a write of it then waits for the next one,
since a write of the sample's clock would have been seen (R396). -/
def State.limitSampled (s : State) (off : Nat) : Bool := (blockAt off 0x43060 8 8).any s.sampledNow

/-- Whether an instruction or input is such a write. -/
def State.limitHeld (s : State) : Instr → Bool
  | .banklimWrite m _ => s.sampledNow m.toNat
  | .registerWrite x _ => s.limitSampled x.offset
  | .syswr _ o => s.limitSampled (regOff o.reg.toNat)
  | _ => false

/-- What may happen to an operation in flight. -/
def State.openOp (s : State) (o : Op) : List Instr :=
  match s.findGroup o.gid with
  | none => []
  | some g =>
    let free := s.free 980 0
    let status := if bitAt free 0 then 0 else [0x21B1, 0x21B2, 0x31B0].getD (free / 2 % 3) 0
    (if o.at_ == .ready && !s.sampledBy o then [if o.bw.isSome then .engineArrival o.id else .longLatencyComplete o.id] else []) ++
    (if s.canMoveOut o then [if o.bw.isSome then .engineArrival o.id else .longLatencyComplete o.id] else []) ++
    (if s.mayEnd o g && !s.limitHeld o.instr then
      (if Instr.isRows o.instr then (if s.ringFree o then [.engineArrival o.id] else []) else [.longLatencyComplete o.id])
     else []) ++
    ((lineKeys (o.dsts.flatMap Acc.units)).filter o.canLand).map (fun k => .cpaLineLand o.id k) ++
    (if o.at_ == .held && g.inPlace then
      (if o.status = 1 then [.teamMemberAccessResume o.id] else if Instr.isWait o.instr then [] else [.scratchpadAccessResume o.id]) ++
      (if s.mayTest o then (match o.instr with
        | .bwwait _ _ => [.bwwaitRetest o.id]
        | .semwait _ _ => [.semwaitRetry o.id]
        | _ => []) else [])
     else []) ++
    (match o.instr with
      | .mma _ _ => if s.mmaMayEnd o g then [.mmaComplete o.id] else []
      | .awalk _ _ => if s.walkMayStep o g then [.walkPoint o.id] else []
      | .ncallL _ _ => ((List.range 8).filter o.mayDeliver).map (fun m => .ncallLDeliver o.id m) ++
          if (s.nextReply o).isSome then [.ncallReply o.id] else []
      | .ncallB _ _ => if o.at_ == .issued && o.after.isEmpty then [.ncallBDeliver o.id] else []
      | .fcopyPut _ _ | .fcopyGet _ _ | .freduce _ _ =>
        if o.mayAck then [.fabricAck o.id status [(Config.freeWord s.fresh 981, bitAt free 3)]] else []
      | .fsem _ _ => if s.maySignal o then [.fsemSignal o.id status] else []
      | _ => []) ++
    (if s.planeMayStart o g then [.planeCommandStart o.id] else []) ++
    (if s.mayStartBank o then [.bankCommandStart o.id] else []) ++
    (match o.instr with
      | .bkmac _ _ => if o.at_ == .started then [.bkmacWave o.id] else []
      | _ => [])

/-- The parts in which an operation may act, one ahead of the rest: the units of an access, of a plane command and of the reduce unit's
rows (R137), and the start of a fabric operation (R360). An access to a bank that has left scratchpad mode is not split (R120). -/
def State.openParts (s : State) (o : Op) : List State :=
  match s.findGroup o.gid with
  | none => []
  | some g =>
    let here := !s.bankGone o
    let split := here && decide (2 ≤ (o.accs.flatMap Acc.units).length)
    let wide := here && o.accs.any fun a => decide (2 ≤ a.units.length)
    match o.instr with
    | .st _ _ => if split && s.mayEnd o g then [s.storePart o g 0] else []
    | .sts _ _ => if split && s.mayEnd o g then [(s.noteOperands o true ((o.accs.flatMap Acc.units).take 1)).storePart o g 0] else []
    | .stt _ _ => if split && s.mayEnd o g then [s.storePart o g 1] else []
    | .ld _ x | .lds _ x => if wide && s.mayEnd o g then [s.readPart o (g.loadVia x) 0] else []
    | .ldt _ x => if wide && s.mayEnd o g then [s.readPart o (g.via x.hint.toNat) 1] else []
    | .cpa _ _ | .cpaLn _ _ => if (lineKeys (o.dsts.flatMap Acc.units)).any o.canLand then [s.landPart o g] else []
    | .cpout _ _ | .cpoutLn _ _ => if s.canMoveOut o && decide (2 ≤ o.dsts.length) then [s.outPart o g] else []
    | .fcopyPut _ _ | .fcopyGet _ _ | .freduce _ _ | .fsem _ _ => if o.mayStartFabric then [s.startFabric o g] else []
    | .plfill _ _ | .pldrain _ _ | .plred _ _ | .plbmap _ _ => (s.planePart o g).toList
    | .xred _ _ => if s.mayEnd o g then (s.xredPart o g).toList else []
    | .xpref _ _ => if s.mayEnd o g && s.ringFree o then (s.xprefPart o g).toList else []
    | _ => []

/-- What may happen to a group. -/
def State.openGroup (s : State) (g : Group) : List Instr :=
  (if s.groupDone g then [.groupRetire g.gid] else []) ++
  (match g.kind with
    | .block _ => if s.idleGroup g then [.ncallBComplete g.gid] else []
    | _ => []) ++
  (if g.mayMove then ((g.warps.filter fun w => w.halt == .trapping).take 1).map fun w => .returnTrap g.gid w.wid else []) ++
  (match g.place with
    | .toCore _ => [.returnTrapPlace g.gid]
    | .evicting _ => if s.drained g then [.evictionRecord g.gid] else []
    | .evicted => [.groupRestore g.gid]
    | _ => [])

/-- What may happen to a take. -/
def State.openTake (s : State) (t : Take) : List Instr :=
  (t.copyDue.map fun k => .snapshotCopy t.tid k) ++
  (if s.triggers t then [.triggerPoint t.tid] else []) ++
  (if s.gridDone t then [.gridEnd t.tid] else []) ++
  (if s.offers t && s.nextPlaced (.new t) && (s.roomFor (.new t)).isSome then [.groupAdmission t.tid] else []) ++
  (if (s.evictionFor t).isSome then [.eviction t.tid] else []) ++
  (if t.err.isSome && !s.systemDue t then [.takeEnd t.tid] else [])

/-- The event of a queue's head entry (R428 to R432). -/
def State.openQueue (s : State) (n q : Nat) : Option Instr :=
  let r := s.queueRun n q
  if !s.queueOpen n q then none
  else if s.qlogn n q < 4 ∨ 16 < s.qlogn n q then some (.queueBarrier n q)
  else match (s.headEntry n q).2 with
    | .error _ => some (.queueBarrier n q)
    | .ok x =>
      let e : Entry := ⟨x⟩
      match e.fault, e.op with
      | some _, _ => some (.queueBarrier n q)
      | none, 1 => if !r.begun && (s.findCtx (e.ctx.getD (s.qctx n q))).all (fun c => c.dpart != s.dpart n || c.state == 0)
          then some (.queueLaunch n q) else none
      | none, 2 => if r.begun then (if s.semWritten n q e then some (.queueSemwaitRetry n q) else none) else some (.queueSemwait n q)
      | none, 3 => if s.earlierDone n q then some (.queueSemsig n q) else none
      | none, 4 => if r.begun then some (.queueCopyComplete n q) else if s.earlierDone n q then some (.queueCopy n q) else none
      | none, 5 => if s.earlierDone n q then some (.queueBarrier n q) else none
      | none, _ => if s.earlierDone n q then some (.queueTimestamp n q) else none

/-- The queues of a command processor in the order in which their entries are taken up (R427). -/
def State.queueOrder (s : State) (n : Nat) : List Nat :=
  [3, 2, 1, 0].flatMap fun k => (List.range 16).filter fun q => s.qprio n q == k

/-- What may happen to the device as a whole: queues, records, deadlocks of GROW, power, and the ends of self-test and repair. -/
def State.openDevice (s : State) : List Instr :=
  ((List.range 8).filterMap fun n => (s.queueOrder n).findSome? fun q => s.openQueue n q) ++
  ((s.ctxs.filter fun c => !c.records.isEmpty && (!c.ringValid || !c.ringFull)).map fun c => .trapRecordWrite c.id) ++
  (((List.range 64).filter fun c => (s.deadlock c).isSome).map fun c => .growDeadlockEviction c) ++
  (((List.range 8).filter fun p => (s.domains.getD p Domain.start).pause != 0).map fun p => .pstateResume (BitVec.ofNat 3 p)) ++
  (((List.range 16).filter fun k => !bitAt (s.regN 0x43040) k && bitAt (s.regN 0x43048) k).map fun k => .clusterPowerOff (BitVec.ofNat 4 k)) ++
  (((List.range 64).filter fun k => !bitAt (s.regN 0x43050) k && bitAt (s.regN 0x43058) k).map fun k => .stackCorePowerOff (BitVec.ofNat 6 k)) ++
  (if s.bistRun ≠ 0 then [.bistDone (Config.selfTest s.fresh)] else []) ++
  (if s.field 0x45030 29 2 = 1 then [.pprDone (bitAt (s.free 982 0) 0)] else [])

/-- Whether the clocks of a group's part of the device run (R493). -/
def State.clocked (s : State) (g : Group) : Bool := (s.domains.getD (s.domainOf g.agent) Domain.start).pause == 0

/-- All events whose moment is open. -/
def State.openEvents (s : State) : List Instr :=
  (s.ops.flatMap fun o => if (s.findGroup o.gid).all s.clocked then s.openOp o else []) ++
  (s.groups.flatMap fun g => if s.clocked g then s.openGroup g else []) ++
  (s.takes.flatMap s.openTake) ++ s.openDevice

/-! ### The clocks -/

/-- One device clock of a part of the device (R9, R491, R493). -/
def Domain.tick (d : Domain) (rate : Nat) : Domain :=
  if d.pause ≠ 0 then { d with pause := d.pause - 1 }
  else
    { d with
      clock := d.clock + (d.phase + rate) / 8
      phase := (d.phase + rate) % 8
      scClock := d.scClock + (d.scPhase + 3 * rate) / 32
      scPhase := (d.scPhase + 3 * rate) % 32 }

/-- A queue's timer counts one core clock (R447). -/
def QueueRun.count (r : QueueRun) : QueueRun :=
  if r.timer = 0 then r else { r with timer := r.timer - 1, expired := r.expired || r.timer == 1 }

/-- The timers of the queues whose command processors' parts have begun a core clock. -/
def State.countTimers (s : State) : State :=
  { s with queues := s.queues.map fun (x : Nat × QueueRun) =>
      let n := x.1 / 16
      if s.edge (8 * n) && s.timerRuns n (x.1 % 16) then (x.1, x.2.count) else x }

/-- A context whose take has ended and whose records are written is idle again (R439). -/
def Ctx.rest (c : Ctx) : Ctx := if c.state = 3 ∧ c.records = [] then { c with state := 0 } else c

/-- The next device clock. -/
def State.tick (s : State) : State :=
  let s := { s with
    counter := s.counter + 1
    domains := s.domains.mapIdx fun p (d : Domain) => d.tick (s.rateOf p)
    ctxs := s.ctxs.map Ctx.rest
    turn := none
    cur := none
    winOld := [] }
  s.countTimers

/-! ### The next move -/

/-- The next input of the outside, if there is one that need not wait. -/
def State.nextInput (s : State) : Option Move := match s.inputs with
  | [] => none
  | i :: is => if s.limitHeld i then none else some (.run i { s with inputs := is, cur := none })

/-- One of the open events, the next input, or the issues of this clock. -/
def State.openMove (s : State) : Move :=
  let s := { s with picks := s.picks + 1, cur := none }
  let go := Move.settle s.openTurn
  let parts := (s.ops.flatMap fun o => if (s.findGroup o.gid).all s.clocked then s.openParts o else []) ++
    (List.range 8).flatMap fun n => (List.range 16).filterMap fun q => s.copyPart n q
  let ms := (s.openEvents.map fun i => Move.run i s) ++ parts.map Move.settle ++ s.nextInput.toList
  if ms.isEmpty then go else (ms[Config.pick s.picks % (ms.length + 1)]?).getD go

/-- What happens next: what has begun goes on, then the warps whose turn it is issue, and what falls due by their issues follows. Without
supply only the outside acts; a device with supply at stage 0 comes up (R504); while the trip is in
force the clocks stand and only the register path and the counter go on (R491, R496). -/
def State.nextMove (s : State) : Move :=
  if !s.powered then s.nextInput.getD (.settle s)
  else if s.stage = 0 then .run .coldReset s
  else if s.frozen then s.nextInput.getD (.settle { s with counter := s.counter + 1, winOld := [] })
  else match s.todo with
    | x :: xs => .run x.1 { s.renew with todo := xs, cur := some x.2 }
    | [] => match s.turn with
      | some (x :: rest) => s.takeTurn x rest
      | turn => match s.prompt with
        | some i => .run i { s with cur := none }
        | none => if turn.isSome then .settle s.tick else s.openMove

end Sys2Proof.Machine
end

