-- ==== Sys2Proof/Machine/Step.lean ====
section
/-!
DEFINITION. One step of the device: its next move, carried out; and a state that is about to fetch a given word.
-/

namespace Sys2Proof.Machine

/-- One step. -/
def step (s : State) : Host.Outcome State Fault Refusal :=
  match s.nextMove with
  | .run i s' => exec i s'
  | .settle s' => .next s'

/-! ### A state about to issue one word (assumption 4) -/

/-- A line that holds a word in its first slot, or in its first two. -/
def fetchLineOf (nbits w : Nat) : Line :=
  if nbits ≤ 96 then Line.make 0 0 0 [w % 2 ^ 96, 0, 0, 0, 0] else Line.make (1 + 4 * 2) 0 0 [w % 2 ^ 96, w / 2 ^ 96 % 2 ^ 96, 0, 0, 0]

/-- The allotment of that state's group: what a core has. -/
def fetchAllot : Allot := ⟨640, 384, 4, 8, 16, 12⟩

/-- Its slate: one group of one warp of four lanes, at PC 0. -/
def fetchSlate : Slate :=
  ⟨0, 0, 0, 0, 1, 1, 1, 1, 4, 0, 1, false, false, 0, fetchAllot, fetchAllot, 0, 2 ^ 20, 4096, 0, 0, [], [], [], [], []⟩

/-- Its context: privileged, with one page of 128 MiB at virtual address 0 that may be read, written and fetched from. -/
def fetchCtx : Ctx := { newCtx 0 0 true true with ptroot := 0x10000, state := 1, take := 1 }

/-- The page tables and the line in memory (R449, R452). -/
def fetchMemory (nbits w : Nat) (m : Memory) : Memory :=
  let m := m.writeNat (cellOf 1 0x10000) 8 0x20001
  let m := m.writeNat (cellOf 1 0x20000) 8 (0x8000000 + 2 ^ 6 + 0xF)
  m.writeNat (cellOf 1 0x8000000) 64 (leNat (fetchLineOf nbits w).toBytes)

/-- The state with one take under way, whose one warp stands at the word. -/
def State.withFetchWord (s : State) (nbits w : Nat) : State :=
  let s := ((s.setReg 0x45028 6).setReg 0x42000 0)
  let t := { newTake 1 0 0 0 0 0 fetchSlate none with nextGroup := 1 }
  let g := newGroup 0 1 .kernel 0 0 1 4 0 0 s.fresh fetchAllot true ((List.range 4).map fun i => newLane 0 (BitVec.ofNat 64 i) i)
  let s := { s with
    domains := List.replicate 8 Domain.start
    powered := true
    frozen := false
    cur := none
    todo := []
    mem := fetchMemory nbits w s.mem
    veil := []
    poison := []
    l2 := []
    l1 := []
    tlb := []
    walkers := []
    ctxs := [fetchCtx]
    takes := [t]
    queues := []
    groups := []
    ops := []
    ports := []
    nextGid := 1
    turn := some [(0, 0)] }
  { s with groups := [s.seat g (.core 0) [⟨0, 0, 1, 0⟩]] }

end Sys2Proof.Machine
end

