-- ==== Sys2Proof/Safety.lean ====
section
/-!
DEFINITION. What counts as a safe run, and the invariants that statements are made of.
-/

namespace Sys2Proof

/-- A step goes on: it meets neither a fault nor a refusal. -/
def Safe (s : Machine.State) : Prop := ∃ t, Machine.step s = .next t

/-- A run of `k` steps that meets neither a fault nor a refusal. -/
def SafeRun (k : Nat) (s : Machine.State) : Prop := ∃ t, core.run k s = .next t

end Sys2Proof

namespace Sys2Proof.Claims

open Sys2Proof.Machine

/-- Memory and the L2 are listed in canonical form. -/
def Tidy (s : State) : Prop := Memory.wf s.mem = true ∧ NMap.wf none s.l2 = true

/-- The keys of a sparse map rise. -/
def Rising {α : Type} (m : NMap α) : Prop := (m.map Prod.fst).Pairwise (· < ·)

/-- The device registers, and each group's s registers, v registers and completion flags, are listed under rising numbers. -/
def Listed (s : State) : Prop :=
  Rising s.regs ∧ ∀ g ∈ s.groups, Rising g.s ∧ (∀ l ∈ g.lanes, Rising l.v) ∧ ∀ w ∈ g.warps, Rising w.flags

/-- No agent has written beneath the clean lines of the L2: they hold what HBM4E holds (R124, R125). -/
def Coherent (s : State) : Prop :=
  Tidy s ∧ ∀ line l, NMap.get none s.l2 line = some l → l.dirty = false →
    ∀ k, k < 128 → BitVec.ofNat 8 (l.data.toNat / 2 ^ (8 * k)) = BitVec.ofNat 8 (s.cells (128 * line + k) 1)

end Sys2Proof.Claims
end

