-- ==== Sys2Proof/Certificates/Slice0/Obligations.lean ====
section
/-!
DEFINITION. The statements for the provers, and the notions they are stated in.
-/

namespace Sys2Proof.Claims

open Sys2Proof.Machine

/-! ### Notions of the statements -/

/-- The word in issue acts for environment `e`: its group and warp are there, `active` (R15) is not empty, and no lane reads its guard
before a write of it has completed (R31). -/
structure Acts (s : State) (h : Hdr) (e : Env) : Prop where
  issue : s.env h.guard = some e
  active : e.act ≠ []
  sure : e.lost = []

/-- The word acts, the registers it names are within the allotment, the words it pops from queues are `qs` (leaving `t`), and every
lane's operands pass the tag check (R36, R69, R79). -/
structure Reads (s : State) (h : Hdr) (e : Env) (dst : List Nat) (args : List Arg) (t : State) (qs : List (List (Word × Nat))) : Prop where
  acts : Acts s h e
  within : e.g.codesFault (dst ++ args.flatMap Arg.codes) = none
  pops : s.popArgs e args = (t, qs)
  tags : badTags args (s.rows e args qs) = []

/-- The state in which a fixed-latency word has issued: one operation is in flight that falls due `lat` clocks later with the register and
flag writes `w`, and the random draws are taken; `t` is the state after the queues were popped. -/
def issued (s t : State) (e : Env) (h : Hdr) (i : Instr) (lat : Nat) (w : Writes) : State :=
  (t.addOp { e.op s h i with
    writes := w.1
    fp := w.2
    due := some (s.now e.g + lat) }).advance e (Instr.draws i)

/-- A fixed-latency word: wherever its operands can be read, it issues, and all it does is to put one operation in flight that falls
due `lat` clocks later with the register and flag writes `out`, having popped its queues and taken its random draws. -/
def Launches (i : Instr) (h : Hdr) (dst : List Nat) (args : List Arg) (lat : Env → Nat)
    (out : State → Env → List (List (Word × Nat)) → List Row → Writes) : Prop :=
  ∀ s e t qs, Reads s h e dst args t qs →
    exec i s = .next (issued s t e h i (lat e) (out s e qs (s.rows e args qs)))

/-- As `Launches`, for a word whose one register destination receives `f` of a lane's operands. -/
def Gives (i : Instr) (h : Hdr) (lat : Nat) (wide : Bool) (d : Reg) (args : List Arg) (f : List Opnd → Res) : Prop :=
  Launches i h (regCodes wide d) args (fun _ => lat) fun s _ _ rows =>
    (s.regOut wide d (fun r => f r.2) rows, fpOut (fun r => f r.2) rows)

/-- As `Launches`, for lane accesses (R283): where the operands of every lane can be read, every address passes its checks and every
unit is located, the instruction issues: the operation holds what its lanes read and where they access, and it goes out, or waits with
its lanes for team members or absent lines (R41, R121). `dst` are the registers that hold no value until the completion (R33). The
operation keeps which lanes read an operand too early, and whose address is undefined (R12, R31, R79). -/
def Accesses (i : Instr) (h : Hdr) (dst : List Nat) (args : List Arg) (sp : Space) (k : AccKind) (six : Bool) (n : Nat) (addr : Row → Nat)
    (lv : Row → List Nat) : Prop :=
  ∀ s e t qs u accs late, Reads s h e dst args t qs → (∀ r ∈ s.rows e args qs, s.addrFault e.g sp six n (addr r) = none) →
    t.locLanes e.g sp k (memUnits six n) ((s.rows e args qs).map fun r => (r.1, addr r)) = (u, accs, [], late) →
    let blind := fun (r : Row) => (r.2.take 2).any Opnd.haz || e.short args qs r.1
    let o : Op := { e.op u h i with
      lvals := (s.rows e args qs).map fun r => (r.1, (bit r.haz + 2 * bit (blind r)) :: lv r)
      accs := accs }
    exec i s = .next ((u.launchOrHold e o late).unsettle o dst)

/-- Every lane of `active` has room for a frame, its own place (or, for RET, its last frame's) in private memory translates (R229, R114);
`t` is the state after the targets were fetched. -/
def Framed (s t : State) (e : Env) (k : AccKind) (room : Nat) : Prop :=
  let depth := fun l => if room = 0 then (e.g.lane l).depth - 1 else (e.g.lane l).depth
  (room = 1 → ∀ l ∈ e.act, 16 * (depth l + 1) ≤ s.privSize e.g) ∧ (t.frames e k depth e.act).2.2 = []

/-- The frames written, and the lanes at their targets one level deeper (R230). -/
def called (t : State) (e : Env) (prio : BitVec 8) (ts : List (Nat × Nat)) : State :=
  let r := t.frames e .write (fun l => (e.g.lane l).depth) e.act
  let u := r.2.1.foldl (fun (u : State) f =>
    u.writeUnits (e.g.via 0) (splitUnits f.2.1 16) ((e.g.lane f.1).pc.toNat + 2 ^ 64 * (e.g.lane f.1).prio.toNat))
    (r.1.copyAll e.g.take (r.2.1.map fun f => f.2.1))
  (u.goTo e ts (some prio)).modLanes e.g.gid e.act fun _ l => { l with depth := l.depth + 1 }

/-- An engine command of the warp is dispatched (R317, R318, R465): no program error of the warp came before, its registers are within the
allotment, its uniform operands are read after their latency (R31), and its barrier word, if it has one, is aligned in the address space;
`bw` is the word's address with the scope of the arrival. -/
def Commands (s : State) (e : Env) (codes : List Nat) (b : Option Bw) (bw : Option (Nat × Nat)) : Prop :=
  e.w.errSlots = none ∧ e.g.codesFault (codes ++ bwCodes b) = none ∧ (∀ c ∈ codes ++ bwCodes b, isUniform c = true → s.hazard e.g e.low c = false) ∧
  bw = b.map (fun b => (s.uniS e true b.word, b.scope.toNat)) ∧ ∀ x ∈ bw, x.1 + 8 ≤ 2 ^ 52 ∧ x.1 % 8 = 0

/-- On a stack core every range is within reach of the engines; `u` is the state after their translations (R163). -/
def Within (s : State) (e : Env) (rs : List (Nat × Nat × AccKind)) (u : State) : Prop :=
  if e.g.onStack then s.reaches e.g rs = (u, true) else u = s

/-- An operation in flight that may complete now: everything it follows is performed. -/
structure Ending (s : State) (o : Op) (g : Group) : Prop where
  op : s.findOp o.id = some o
  group : s.findGroup o.gid = some g
  may : s.mayEnd o g = true

/-- Nothing of the operation's warp or context waits for the operation's flag to record a stop (R419). -/
def Quiet (s : State) (o : Op) (g : Group) : Prop :=
  (∀ k ∈ o.wid :: o.owners, ∀ w, g.findWarp k = some w → ∀ c p l, w.halt ≠ .draining c p l) ∧
  ∀ c, s.findCtx (s.ctxOf g) = some c → c.haltDue = false

/-- The word of the stack-core image under index `ix` can be read: it holds the entry PC `pc`, and `u` is the state after the read (R349). -/
def Enters (s : State) (e : Env) (ix : Nat) (u : State) (pc : Nat) : Prop :=
  ∃ k x r, s.takeOf e.g = some k ∧ ix < k.slate.nent ∧ k.slate.scimg + 8 * ix < 2 ^ 52 ∧
    s.transAcc e.g (k.slate.scimg + 8 * ix) .read = (r, .ok x) ∧
    r.readUnit e.g.engineIn ⟨.mem x.a x.pg, 8⟩ = (u, pc, false)

end Sys2Proof.Claims

open Sys2Proof Sys2Proof.Machine Sys2Proof.Claims

/-! ### Encoding -/

/-- The words that the spec writes out bit by bit as examples ("An encoded word", R418) decode to the instructions they stand for, as do
an unguarded EXIT and a guarded IADD of R194; a set flag of 13 and a reserved field that is not zero are no instruction (R210). -/
def Obligations.WrittenWordsDecode : Prop :=
  let h : Hdr := ⟨0, 0, 0, Guard.always⟩
  decodeWords 0x00126850300B029420028903 none =
    .ok (.ffma ⟨2, 0x014, 0, ⟨⟨1, false⟩, ⟨2, true⟩, false⟩⟩ ⟨.f32, .ru, false, 0, 0, .v 10, .reg (.v 11), .reg (.v 12), .reg (.s 5)⟩) ∧
  decodeWords 0x09300030080101CEE000008E none = .ok (.lop3 h ⟨.v 7, .reg (.v 1), .reg (.v 2), .reg (.v 3), 0x96⟩) ∧
  decodeWords 0x200300000801024EE0000181 none = .ok (.pack h ⟨.e4m3, false, 2, .rn, false, .v 9, .v 1, some (.v 2)⟩) ∧
  decodeWords 0x42424001028A018EE4000200 none =
    .ok (.ld { h with setf := 2 } ⟨.f32, 0, false, .sync 1, 0, .v 6, .reg (.s 10), .i10 64⟩) ∧
  decodeWords 0x42632B0A8000000EE2000302 none = .ok (.mma { h with setf := 1 } ⟨12, 12, false, some ⟨48, 1⟩, 0, 0, 32⟩) ∧
  decodeWords 0x4000288A0A80000E20002310 none =
    .ok (.awalk ⟨0, 1, 0, ⟨⟨1, false⟩, ⟨7, false⟩, false⟩⟩ ⟨some ⟨8, 0⟩, 0, 0, 2⟩) ∧
  decodeWords 0x000100000007068EE0000019 none = .ok (.wsplice h ⟨26, 4, 7⟩) ∧
  decodeWords 0x3001800002BF014EE0000B8C none = .ok (.kvmask { h with stall := 2 } ⟨.v 5, 6, .s 63, .v 0, 6, 0⟩) ∧
  decodeWords 0x440029800688000E20006384 none = .ok (.xred ⟨0, 3, 0, ⟨⟨1, false⟩, ⟨7, false⟩, false⟩⟩ ⟨8, 1, ⟨24, 2⟩⟩) ∧
  decodeWords 0x4400286A2682000EE0000389 none = .ok (.bkmac h ⟨2, 9, ⟨6, 2⟩⟩) ∧
  decodeWords 0x440029E00288000EE00003A1 none = .ok (.freduce h ⟨false, 8, ⟨30, 2⟩⟩) ∧
  decodeWords 0x0000C0000282AA0EE00003C0 none = .ok (.sysrd h ⟨40, 2, 3⟩) ∧
  decodeWords (0x006 + 7 * 2 ^ 29 + 7 * 2 ^ 33) none = .ok (.exit h) ∧
  decodeWords (0x080 + 2 * 2 ^ 10 + 2 * 2 ^ 13 + 3 * 2 ^ 25 + 1 * 2 ^ 29 + 2 ^ 32 + 7 * 2 ^ 33 + 5 * 2 ^ 38 + 6 * 2 ^ 48 + 642 * 2 ^ 58 + 1 * 2 ^ 78)
    none = .ok (.iadd ⟨2, 2, 3, ⟨⟨1, true⟩, ⟨7, false⟩, false⟩⟩ ⟨.i32, false, .v 5, .reg (.v 6), .reg (.s 2)⟩) ∧
  decodeWords (0x000 + 13 * 2 ^ 25 + 7 * 2 ^ 29 + 7 * 2 ^ 33) none = .error .setFlag ∧
  decodeWords (0x006 + 2 ^ 38 + 7 * 2 ^ 29 + 7 * 2 ^ 33) none = .error .reserved

/-- Decoding the words of a well-formed instruction gives it back: no bit of an encoding is dropped (R194 to R200). -/
def Obligations.EncodingRoundTrips : Prop :=
  ∀ (i : Instr) (w : Nat × Option Nat), i.wf = true → encode i = some w → decodeWords w.1 w.2 = .ok i

/-- Every instruction the decoder gives is well formed and has an encoding, and it gives none for a set flag of 13 to 15, a reserved bit of the line word, or a
system instruction outside a privileged context (R210). -/
def Obligations.DecodedWordsAreWellFormed : Prop :=
  ∀ (r : Raw) (priv bad : Bool) (b : Nat) (i : Instr), decodeRaw r priv bad b = .ok i →
    i.wf = true ∧ (encode i).isSome = true ∧ r.setf ≤ 12 ∧ bad = false ∧ (0x3C0 ≤ r.opcode → priv = true)

/-- A lane of the issued entry is in `active` exactly where the word's guard holds for it; an unguarded instruction is encoded with p7 AND p7;
and where the guard holds for no lane, read after its latency, the instruction has no effect (R195, R12, R15, R31). A LOOP then takes its
lanes to the exit (R226; stated with R233), YIELD and WAIT take their delay (R237), and a system instruction in a kernel and a BKREAD whose
run passes v639 fault all the same (R211). -/
def Obligations.GuardsChooseTheActiveLanes : Prop :=
  (∀ (s : State) (h : Hdr) e, s.env h.guard = some e → ∀ l, (∀ n, n < 7 → s.hazard e.g l (predCode n) = false) →
    (l ∈ e.act ↔ l ∈ e.iss.lanes ∧
      let ga := Bool.xor (e.g.readP l h.guard.a.p.toNat) h.guard.a.neg
      let gb := Bool.xor (e.g.readP l h.guard.b.p.toNat) h.guard.b.neg
      (if h.guard.isOr = false then ga && gb else ga || gb) = true)) ∧
  (∀ i h r, Instr.hdr? i = some h → h.guard = Guard.always → rawOf i = some r →
    r.gpa = 7 ∧ r.gna = 0 ∧ r.gpb = 7 ∧ r.gnb = 0 ∧ r.gop = 0) ∧
  (∀ i s h e, Instr.hdr? i = some h → s.env h.guard = some e → e.act = [] → e.lost = [] → (Instr.isSystem i = true → s.privileged e.g = true) →
    (match i with
      | .loop _ _ | .yield _ | .wait _ _ => False
      | .bkread _ o => o.vd + 128 / e.w.width ≤ 640
      | _ => True) → exec i s = .next s)

/-! ### Integer arithmetic, logic and moves -/

/-- Integers are 8, 16, 32 or 64 bits wide, two's complement or plain binary. The exact result is kept modulo 2^n, or clamped to the type's
range under .sat; the elements of a packed type each on their own; no FP flag is raised (R85). -/
def Obligations.IntegerResultsWrapOrClamp : Prop :=
  ∀ (ty : Ty), ty.isInt = true →
    let n := Ty.bits ty
    let lo : Int := if ty.isSigned then -(2 ^ (n - 1) : Nat) else 0
    let hi : Int := if ty.isSigned then (2 ^ (n - 1) : Nat) - 1 else (2 ^ n : Nat) - 1
    n ∈ [8, 16, 32, 64] ∧
    (∀ b, b < 2 ^ n → intVal ty b = if ty.isSigned ∧ 2 ^ (n - 1) ≤ b then (b : Int) - (2 ^ n : Nat) else b) ∧
    (∀ x : Int, (x - intVal ty (intRes ty false x)) % ((2 ^ n : Nat) : Int) = 0 ∧
      intVal ty (intRes ty true x) = (if x < lo then lo else if hi < x then hi else x) ∧
      ∀ sat, lo ≤ intVal ty (intRes ty sat x) ∧ intVal ty (intRes ty sat x) ≤ hi ∧ intRes ty sat x < 2 ^ n) ∧
    ∀ sat (f : Int → Int → Int) (g : Int → Int) (t : Int → Int → Int → Int) (a b c : Opnd) k, k < Ty.count ty →
      let e := fun (x : Nat) => (elems ty x).getD k 0
      e (intOp2 ty sat f a b).val = intRes ty sat (f (intVal ty (e a.val)) (intVal ty (e b.val))) ∧
      e (intOp1 ty sat g a).val = intRes ty sat (g (intVal ty (e a.val))) ∧
      e (intOp3 ty sat t a b c).val = intRes ty sat (t (intVal ty (e a.val)) (intVal ty (e b.val)) (intVal ty (e c.val))) ∧
      (intOp2 ty sat f a b).fp = 0 ∧ (intOp1 ty sat g a).fp = 0 ∧ (intOp3 ty sat t a b c).fp = 0

/-- Integer arithmetic (R242), logic and bit fields (R243, R245, R246) and shifts (R244): each result of a lane is narrowed once and falls
due after the latency of R225. -/
def Obligations.IntegerArithmeticIssues : Prop :=
  ((∀ h (o : Int2), Gives (.iadd h o) h (latInt o.ty) o.ty.is64 o.d [.of o.ty o.a, .of o.ty o.b] (bin (intOp2 o.ty o.sat fun a b => a + b))) ∧
  (∀ h (o : Int2), Gives (.isub h o) h (latInt o.ty) o.ty.is64 o.d [.of o.ty o.a, .of o.ty o.b] (bin (intOp2 o.ty o.sat fun a b => a - b))) ∧
  (∀ h (o : Int2), Gives (.imul h o) h (latMul o.ty) o.ty.is64 o.d [.of o.ty o.a, .of o.ty o.b] (bin (intOp2 o.ty o.sat fun a b => a * b))) ∧
  (∀ h (o : Int2), Gives (.imulh h o) h (latMul o.ty) o.ty.is64 o.d [.of o.ty o.a, .of o.ty o.b]
    (bin (intOp2 o.ty o.sat fun a b => (a * b).fdiv (2 ^ Ty.bits o.ty : Nat)))) ∧
  (∀ h (o : Int3), Gives (.imad h o) h (latMul o.ty) o.ty.is64 o.d [.of o.ty o.a, .of o.ty o.b, .of o.ty o.c]
    (tern (intOp3 o.ty o.sat fun a b c => a * b + c))) ∧
  (∀ h (o : Int3), Gives (.imadw h o) h 10 true o.d [.of o.ty o.a, .of o.ty o.b, .of (wideOf o.ty) o.c]
    (tern fun a b c => .of (intRes (wideOf o.ty) o.sat (intVal o.ty a.val * intVal o.ty b.val + intVal (wideOf o.ty) c.val)) 3)) ∧
  (∀ h (o : Int2), Gives (.imin h o) h (latInt o.ty) o.ty.is64 o.d [.of o.ty o.a, .of o.ty o.b] (bin (intOp2 o.ty o.sat fun a b => min a b))) ∧
  (∀ h (o : Int2), Gives (.imax h o) h (latInt o.ty) o.ty.is64 o.d [.of o.ty o.a, .of o.ty o.b] (bin (intOp2 o.ty o.sat fun a b => max a b))) ∧
  (∀ h (o : Int1), Gives (.iabs h o) h (latInt o.ty) o.ty.is64 o.d [.of o.ty o.a] (un (intOp1 o.ty o.sat fun a => if a < 0 then -a else a))) ∧
  (∀ h (o : Int1), Gives (.ineg h o) h (latInt o.ty) o.ty.is64 o.d [.of o.ty o.a] (un (intOp1 o.ty o.sat fun a => -a))) ∧
  (∀ h (o : Int3), Gives (.idot4 h o) h 6 false o.d [.of o.ty o.a, .of o.ty o.b, .of (accOf o.ty) o.c] (tern (dot4 o.ty o.sat)))) ∧
  ((∀ h (o : Int2), Gives (.and h o) h 4 false o.d [.of .b32 o.a, .of .b32 o.b] (bin fun a b => .of (a.val &&& b.val) 0)) ∧
  (∀ h (o : Int2), Gives (.or h o) h 4 false o.d [.of .b32 o.a, .of .b32 o.b] (bin fun a b => .of (a.val ||| b.val) 0)) ∧
  (∀ h (o : Int2), Gives (.xor h o) h 4 false o.d [.of .b32 o.a, .of .b32 o.b] (bin fun a b => .of (a.val ^^^ b.val) 0)) ∧
  (∀ h (o : Int1), Gives (.not h o) h 4 false o.d [.of .b32 o.a] (un fun a => .of (2 ^ 32 - 1 - a.val % 2 ^ 32) 0)) ∧
  (∀ h (o : Lop3Ops), Gives (.lop3 h o) h 4 false o.d [.of .b32 o.a, .of .b32 o.b, .of .b32 o.c]
    (tern fun a b c => .of (lop3Val o.lut.toNat a.val b.val c.val) 0)) ∧
  (∀ h (o : Int1), Gives (.popc h o) h 4 false o.d [.of .b32 o.a] (un fun a => .of (ones a.val 32) 0)) ∧
  (∀ h (o : Int1), Gives (.clz h o) h 4 false o.d [.of .b32 o.a] (un fun a => .of (clz32 a.val) 0)) ∧
  (∀ h (o : Int1), Gives (.brev h o) h 4 false o.d [.of .b32 o.a] (un fun a => .of (brev32 a.val) 0)) ∧
  (∀ h (o : Int2), Gives (.bfe h o) h 4 false o.d [.any o.ty o.a, .any o.ty o.b] (bin fun a b => .of (bfeVal o.ty a.val b.val) 0)) ∧
  (∀ h (o : Int3), Gives (.bfi h o) h 4 false o.d [.of .b32 o.a, .of .b32 o.b, .of .b32 o.c]
    (tern fun a b c => .of (bfiVal a.val b.val c.val) 0))) ∧
  ((∀ h (o : Int2), Gives (.shl h o) h (latInt o.ty) o.ty.is64 o.d [.of (shiftTy o.ty) o.a, .any .b32 o.b]
    (bin fun a b => .of (a.val * 2 ^ (b.val % 256) % 2 ^ Ty.bits o.ty) (Ty.tag (shiftTy o.ty)))) ∧
  (∀ h (o : Int2), Gives (.shr h o) h (latInt o.ty) o.ty.is64 o.d [.of (shiftTy o.ty) o.a, .any .b32 o.b]
    (bin fun a b => .of (a.val / 2 ^ (b.val % 256)) (Ty.tag (shiftTy o.ty)))) ∧
  (∀ h (o : Int2), Gives (.sha h o) h (latInt o.ty) o.ty.is64 o.d [.of (shiftTy o.ty) o.a, .any .b32 o.b]
    (bin fun a b => .of (wrap (Ty.bits o.ty) ((signed (Ty.bits o.ty) a.val).fdiv (2 ^ (b.val % 256) : Nat))) (Ty.tag (shiftTy o.ty)))) ∧
  (∀ h (o : Int2), Gives (.rot h o) h (latInt o.ty) o.ty.is64 o.d [.of (shiftTy o.ty) o.a, .any .b32 o.b]
    (bin fun a b => .of (a.val * 2 ^ (b.val % 256 % Ty.bits o.ty) % 2 ^ Ty.bits o.ty +
      a.val / 2 ^ (Ty.bits o.ty - b.val % 256 % Ty.bits o.ty)) (Ty.tag (shiftTy o.ty)))) ∧
  (∀ h (o : ShfOps), Gives (.shf h o) h 4 false o.d [.of .b32 o.a, .of .b32 o.b, .of .b32 o.c]
    (tern fun a b c => .of (let t := min (c.val % 256) 32; let v := b.val * 2 ^ 32 + a.val
      if o.right then v / 2 ^ t % 2 ^ 32 else v * 2 ^ t / 2 ^ 32 % 2 ^ 32) 0)))

/-- Bit by bit: LOP3 looks its table up, POPC counts ones, CLZ counts the zeros above the highest one, BREV reverses (R243, R245). -/
def Obligations.BitFunctionsCompute : Prop :=
  (∀ lut a b c k, k < 32 → bitAt (lop3Val lut a b c) k = bitAt lut (4 * bit (bitAt a k) + 2 * bit (bitAt b k) + bit (bitAt c k))) ∧
  (∀ x k, k < 32 → bitAt (brev32 x) k = bitAt x (31 - k)) ∧
  (∀ x, ones x 32 = ((List.range 32).filter (bitAt x)).length) ∧
  (∀ x, x < 2 ^ 32 → clz32 x ≤ 32 ∧ x < 2 ^ (32 - clz32 x) ∧ (x ≠ 0 → bitAt x (31 - clz32 x) = true))

/-- Compares, selection, addresses, predicate logic, moves, special registers and random draws (R247 to R251, R260): wherever the operands
can be read, the instruction answers the next state in which its result is under way. A special register holds what R81 lists. SMOV and
SMOV.ST move between s registers, one of them at a computed number within the allotment (R251); of an index that is read too early only the
register it picks is open (R31). That only the computed number is held against the allotment, and not the base register's, is the model's
choice (assumption 44), and so are PSETP.G's two predicates being one, and the pair at an odd number (assumption 62). -/
def Obligations.ComparesAndMovesIssue : Prop :=
  (∀ (s : State) (e : Env) (l : Nat) (t : Take), s.takeOf e.g = some t →
    let v := s.special e l
    let a := e.g.agent
    v 0 = l - e.w.lane0 ∧ v 1 = e.w.width ∧ v 2 = e.w.slice ∧ v 3 = e.w.slot ∧ v 4 = e.w.part ∧ v 5 = l ∧ v 6 = e.g.groupId ∧
    (e.g.kind = .kernel → v 7 = e.g.shapeWarps * e.g.shapeWidth ∧ v 9 = t.slate.team) ∧ v 8 = e.g.teamRank ∧
    v 10 = e.g.groupId % t.slate.gridX ∧ v 11 = e.g.groupId / t.slate.gridX % t.slate.gridY ∧
    v 12 = e.g.groupId / (t.slate.gridX * t.slate.gridY) ∧ v 13 = t.slate.gridX ∧ v 14 = t.slate.gridY ∧ v 15 = t.slate.gridZ ∧ v 16 = a ∧
    (e.g.onStack = false → v 17 = a / 4 ∧ v 18 = 0xFFFFFFFF ∧ v 19 = a / 32) ∧
    (e.g.onStack = true → v 17 = 0xFFFFFFFF ∧ v 18 = (a - 64) / 8 ∧ v 19 = (a - 64) / 8 / 4) ∧
    v 20 = t.number % 2 ^ 32 ∧ v 21 = t.number / 2 ^ 32 ∧ v 22 = t.retakes ∧ v 23 = s.counter % 2 ^ 32 ∧ v 24 = s.counter / 2 ^ 32) ∧
  (∀ (s t : State) (h : Hdr) (e : Env) (qs : List (List (Word × Nat))),
    (∀ (o : IsetpOps), let args := [.of o.ty o.a, .of o.ty o.b, combArg o.comb o.pc]
      Reads s h e [] args t qs → exec (.isetp h o) s = .next (issued s t e h (.isetp h o) (latInt o.ty)
        (s.predOut o.pd.toNat (fun r => Comb.apply o.comb
          (Cond.holds o.cond (intVal o.ty (r.2.getD 0 default).val) (intVal o.ty (r.2.getD 1 default).val)) ((r.2.getD 2 default).val == 1))
          (s.rows e args qs), []))) ∧
    (∀ (o : IselOps), let args := [.any o.ty o.a, .any o.ty o.b, .pred o.pc]
      let res := fun (r : Row) => let x := if (r.2.getD 2 default).val = 1 then r.2.getD 0 default else r.2.getD 1 default
        (⟨x.val, x.tag, x.tag2, 0⟩ : Res)
      Reads s h e (regCodes o.ty.is64 o.d) args t qs → exec (.isel h o) s = .next (issued s t e h (.isel h o) (latInt o.ty)
        (s.regOut o.ty.is64 o.d res (s.rows e args qs), fpOut res (s.rows e args qs)))) ∧
    (∀ (o : LeaOps), let args := [.reg .i64 o.a, .of o.ty o.b]
      let res := fun (r : Row) => Res.of
        (wrap 64 (((r.2.getD 0 default).val : Int) + intVal o.ty (r.2.getD 1 default).val * (2 ^ o.sh.toNat : Nat))) 3
      Reads s h e (regCodes true o.d) args t qs → exec (.lea h o) s = .next (issued s t e h (.lea h o) 6
        (s.regOut true o.d res (s.rows e args qs), fpOut res (s.rows e args qs)))) ∧
    (∀ (o : PsetpOps), let args := [.pred ⟨o.pa, false⟩, .pred ⟨o.pb, false⟩, .pred ⟨o.pc, false⟩]
      Reads s h e [] args t qs → exec (.psetp h o) s = .next (issued s t e h (.psetp h o) 4
        (s.predOut o.pd.toNat (fun r => bitAt o.lut.toNat
          (4 * (r.2.getD 0 default).val + 2 * (r.2.getD 1 default).val + (r.2.getD 2 default).val)) (s.rows e args qs), []))) ∧
    (∀ (o : PsetpGOps), let slot := NMap.get none e.g.guards o.g.toNat
      Reads s h e [] [] t qs → exec (.psetpG h o) s = .next (issued s t e h (.psetpG h o) 4
        (e.act.flatMap fun l => [predWrite l o.pd.toNat slot.isSome, predWrite l o.pe.toNat (slot == some true)], []))) ∧
    (∀ (o : Int1), let args := [Arg.any o.ty o.a]
      let res := fun (r : Row) => let x := r.2.getD 0 default; (⟨x.val, x.tag, x.tag2, 0⟩ : Res)
      Reads s h e (regCodes o.ty.is64 o.d) args t qs → exec (.mov h o) s = .next (issued s t e h (.mov h o) (latInt o.ty)
        (s.regOut o.ty.is64 o.d res (s.rows e args qs), fpOut res (s.rows e args qs)))) ∧
    (∀ (o : MoviOps), let args := [Arg.any o.ty o.imm]
      let res := fun (r : Row) => Res.of (r.2.getD 0 default).val (Ty.tag o.ty)
      Reads s h e (regCodes o.ty.is64 o.d) args t qs → exec (.movi h o) s = .next (issued s t e h (.movi h o) (latInt o.ty)
        (s.regOut o.ty.is64 o.d res (s.rows e args qs), fpOut res (s.rows e args qs)))) ∧
    (∀ (o : SprOps), Reads s h e [o.d.code] [] t qs → exec (.spr h o) s = .next (issued s t e h (.spr h o) 4
        (s.regOut false o.d (fun r => .of (s.special e r.1 o.idx.toNat) 2) (e.act.map fun l => (l, [])), []))) ∧
    (∀ (o : RngOps), Reads s h e (regCodes o.ty.is64 o.d) [] t qs → exec (.rng h o) s = .next (issued s t e h (.rng h o) 8
        (s.regOut o.ty.is64 o.d (fun r => rngRes o.ty ((e.g.lane r.1).draw 0).toNat) (e.act.map fun l => (l, [])), [])))) ∧
  (∀ s h (o : SmovOps) e, Acts s h e →
    let k : Int := if o.ty.is64 then 2 else 1
    let idx := s.readArg e 1 e.low [] (.of .b32 o.idx)
    let moved := fun (i : Instr) (d a : Nat) =>
      let x := s.readReg e.g o.ty.is64 0 e.low (.s a)
      s.addOp { e.op s h i with
        writes := regWrites o.ty.is64 (.s d) e.low (.of (if idx.haz || x.haz then s.free 700 e.low else x.val) 0)
        due := some (s.now e.g + latInt o.ty) }
    (e.g.codesFault (regCodes o.ty.is64 (.s o.d) ++ (Arg.of .b32 o.idx).codes) = none → (o.d : Int) + k ≤ e.g.allot.s →
      (idx.haz = false → ∀ a : Nat, (o.a : Int) + signed 32 idx.val = a → (a : Int) + k ≤ e.g.allot.s →
        exec (.smov h o) s = .next (moved (.smov h o) o.d a)) ∧
      (idx.haz = true → ∃ a, exec (.smov h o) s = .next (moved (.smov h o) o.d a))) ∧
    (e.g.codesFault (regCodes o.ty.is64 (.s o.a) ++ (Arg.of .b32 o.idx).codes) = none → (o.a : Int) + k ≤ e.g.allot.s →
      (idx.haz = false → ∀ d : Nat, (o.d : Int) + signed 32 idx.val = d → (d : Int) + k ≤ e.g.allot.s →
        exec (.smovSt h o) s = .next (moved (.smovSt h o) d o.a)) ∧
      (idx.haz = true → ∃ d : Nat, (d : Int) + k ≤ e.g.allot.s ∧ exec (.smovSt h o) s = .next (moved (.smovSt h o) d o.a))))

/-! ### Cross-lane, floating point, conversions -/

/-- The cross-lane instructions (R252 to R259) and UBCAST (R251): wherever the operands can be read, the instruction answers the next state
in which its results are under way. A reduction or scan keeps the lanes whose sums its shadows will find wrong at its completion (R108,
R472). -/
def Obligations.CrossLaneIssues : Prop :=
  ∀ (s t : State) (h : Hdr) (e : Env) (qs : List (List (Word × Nat))),
    (∀ (o : ShflOps), let args := [.any o.ty o.a, .any .b32 o.b]
      Reads s h e (regCodes o.ty.is64 o.d) args t qs → exec (.shfl h o) s = .next (issued s t e h (.shfl h o) 8
        (s.regOut o.ty.is64 o.d (fun r => let x := r.2.headD default; ⟨x.val, x.tag, x.tag2, 0⟩)
          ((s.rows e args qs).map fun r =>
            (r.1, [s.look e (qs.headD []) (.any o.ty o.a) (shflLane o.mode e.w.width (e.id r.1) r.snd), r.2.getD 1 default])), []))) ∧
    (∀ (o : Int2), let args := [.any o.ty o.a, .any .b32 o.b]
      let res := fun (r : Row) => let x := r.2.headD default; (⟨if r.haz then s.free 700 r.1 else x.val, x.tag, x.tag2, 0⟩ : Res)
      Reads s h e (regCodes o.ty.is64 o.d) args t qs → exec (.push h o) s = .next (issued s t e h (.push h o) 8
        ((match o.d with
          | .v _ => (pushRows e (s.rows e args qs)).flatMap fun p => regWrites o.ty.is64 o.d p.1 (res p.2)
          | .s _ => ((s.rows e args qs).take 1).flatMap fun r => regWrites o.ty.is64 o.d r.1 (res r)), []))) ∧
    (∀ (o : Int2), let args := [Arg.any .b32 o.a, .any .b32 o.b]
      let look := s.look e (qs.headD []) (.any .b32 o.a)
      Reads s h e [o.d.code] args t qs → exec (.permb h o) s = .next (issued s t e h (.permb h o) 8
        (s.regOut false o.d (fun r => .of (permbVal look e.w.width (r.2.getLastD default).val) 0)
          ((s.rows e args qs).map fun r => taint (permbHaz look e.w.width r.snd || (r.2.getD 1 default).haz)
            (r.1, [default, ⟨r.snd, 0, 0, false⟩])), []))) ∧
    (∀ (o : VoteOps), let rows := s.rows e [.pred o.pa] qs
      let rows' := rows.map fun r => taint (rows.any Row.haz) (r.1, [⟨r.fst, 0, 0, false⟩])
      let all := rows.all fun r => r.fst == 1
      let any := rows.any fun r => r.fst == 1
      Reads s h e (match o.dst with | .ballot d => regCodes true d | _ => []) [.pred o.pa] t qs →
        exec (.vote h o) s = .next (issued s t e h (.vote h o) 8 ((match o.dst with
          | .all pd => s.predOut pd.toNat (fun _ => all) rows'
          | .any pd => s.predOut pd.toNat (fun _ => any) rows'
          | .uni pd => s.predOut pd.toNat (fun _ => all || !any) rows'
          | .ballot d => s.regOut true d (fun _ => .of (laneMask e.w.lane0 ((rows.filter fun r => r.fst == 1).map Prod.fst)) 3) rows'), []))) ∧
    (∀ (o : Int1), let rows := s.rows e [.of o.ty o.a] qs
      Reads s h e (regCodes true o.d) [.of o.ty o.a] t qs → exec (.matchLanes h o) s = .next (issued s t e h (.matchLanes h o) 8
        (s.regOut true o.d
          (fun r => .of (laneMask e.w.lane0 ((rows.filter fun x => x.fst == (r.2.getLastD default).val).map Prod.fst)) 3)
          (rows.map fun r => taint (rows.any Row.haz) r), []))) ∧
    (∀ (o : RedWOps), let rows := s.rows e [.of o.ty o.a] qs
      let res := redVal o.op o.ty o.sat o.rnd (rows.map Row.fst)
      Reads s h e (regCodes o.ty.is64 o.d) [.of o.ty o.a] t qs → exec (.redW h o) s = .next ((issued s t e h (.redW h o) (latRed o.ty e)
        (s.regOut o.ty.is64 o.d (fun _ => .of res.code (Ty.tag o.ty)) (rows.map fun r => taint (rows.any Row.haz) r),
          if rows.any Row.haz then [] else rows.map fun r => (r.1, BitVec.ofNat 5 (rows.foldl (fun m _ => m ||| res.fl) 0)))).modOp
        s.nextOp fun p => { p with vals := s.straySums h o.op o.ty o.rnd o.a fun _ _ => true })) ∧
    (∀ (o : ScanWOps), let rows := s.rows e [.of o.ty o.a] qs
      let below := fun (i : Nat) => rows.filter fun r => if o.ex then decide (r.1 < i) else decide (r.1 ≤ i)
      let res := fun (i : Nat) => redVal o.op o.ty o.sat o.rnd ((below i).map Row.fst)
      Reads s h e (regCodes o.ty.is64 o.d) [.of o.ty o.a] t qs → exec (.scanW h o) s = .next ((issued s t e h (.scanW h o) (latRed o.ty e)
        (s.regOut o.ty.is64 o.d (fun r => .of (res r.1).code (Ty.tag o.ty)) (rows.map fun r => taint ((below r.1).any Row.haz) r),
          if rows.any Row.haz then [] else rows.map fun r =>
            (r.1, BitVec.ofNat 5 (rows.foldl (fun m r => m ||| (res r.1).fl) 0)))).modOp
        s.nextOp fun p => { p with vals := s.straySums h o.op o.ty o.rnd o.a fun i j => if o.ex then j < i else j ≤ i })) ∧
    (∀ (o : VslideOps), let args := [Arg.any .b32 o.a, .any .b32 o.f]
      let la := s.look e (qs.headD []) (.any .b32 o.a)
      let lf := s.look e (qs.getD 1 []) (.any .b32 o.f)
      Reads s h e [o.d.code] args t qs → exec (.vslide h o) s = .next (issued s t e h (.vslide h o) 8
        (s.regOut false o.d (fun r => .of (slideVal o.down e.w.width o.n.toNat (e.id r.1) la lf) (la (e.id r.1)).tag)
          ((s.rows e args qs).map fun r =>
            taint (slideHaz o.down e.w.width o.n.toNat (e.id r.1) la lf) (r.1, [r.2.headD default])), []))) ∧
    (∀ (o : UbcastOps), let args := [Arg.of o.ty o.a, .any .b32 o.idx]
      Reads s h e (regCodes o.ty.is64 (.s o.d)) args t qs → exec (.ubcast h o) s = .next (issued s t e h (.ubcast h o) 8
        (s.regOut o.ty.is64 (.s o.d) (fun r => .of (r.2.headD default).val 0)
          ((s.rows e args qs).map fun r =>
            (r.1, [s.look e (qs.headD []) (.of o.ty o.a) (r.snd % e.w.width), r.2.getD 1 default])), [])))

/-- Floating-point arithmetic and compares: modifiers, one rounding of the exact result, and the flags it raises (R261 to R270); and the
functions of one FP32 source, of which a stack core has some only (R161, R271, R272). An addition, subtraction, product or fused product
keeps the lanes that its shadows will find wrong at its completion (R108). -/
def Obligations.FloatArithmeticIssues : Prop :=
  (
  let fpu := fun (i : Instr) (h : Hdr) (k : Shadow) (ty : Ty) (abs neg : Nat) (d : Reg) (srcs : List Src) (f : Nat → List Nat → FRes) =>
    ∀ s e t qs, Reads s h e [d.code] (srcs.map (Arg.of ty)) t qs →
      let rows := s.rows e (srcs.map (Arg.of ty)) qs
      let res := fun (r : Row) => packF ty (e.g.lane r.1) f ((List.range srcs.length).map (modSrc ty abs neg r))
      exec i s = .next ((issued s t e h i 4 (s.regOut false d res rows, fpOut res rows)).modOp s.nextOp fun o =>
        { o with vals := s.strayLanes h k ty abs neg srcs })
  (∀ h (o : F2Ops), fpu (.fadd h o) h .sum .f32 o.abs.toNat o.neg.toNat o.d [o.a, o.b] fun u xs => faddE fp32 o.rnd o.sat u (xs.getD 0 0) (xs.getD 1 0)) ∧
  (∀ h (o : F2Ops), fpu (.fsub h o) h .diff .f32 o.abs.toNat o.neg.toNat o.d [o.a, o.b] fun u xs =>
    faddE fp32 o.rnd o.sat u (xs.getD 0 0) (signMod .f32 false true (xs.getD 1 0))) ∧
  (∀ h (o : F2Ops), fpu (.fmul h o) h .product .f32 o.abs.toNat o.neg.toNat o.d [o.a, o.b] fun u xs => fmulE fp32 o.rnd o.sat u (xs.getD 0 0) (xs.getD 1 0)) ∧
  (∀ h (o : F3Ops), fpu (.ffma h o) h .fma .f32 o.abs.toNat o.neg.toNat o.d [o.a, o.b, o.c] fun u xs =>
    ffmaE fp32 o.rnd o.sat u (xs.getD 0 0) (xs.getD 1 0) (xs.getD 2 0)) ∧
  (∀ h (o : F2Ops), fpu (.hadd2 h o) h .sum o.ty o.abs.toNat o.neg.toNat o.d [o.a, o.b] fun u xs =>
    faddE (Ty.fmt o.ty) o.rnd o.sat u (xs.getD 0 0) (xs.getD 1 0)) ∧
  (∀ h (o : F3Ops), fpu (.hfma2 h o) h .fma o.ty o.abs.toNat o.neg.toNat o.d [o.a, o.b, o.c] fun u xs =>
    ffmaE (Ty.fmt o.ty) o.rnd o.sat u (xs.getD 0 0) (xs.getD 1 0) (xs.getD 2 0)) ∧
  (∀ h (o : FMinOps), Launches (.fmin h o) h [o.d.code] [.of .f32 o.a, .of .f32 o.b] (fun _ => 4) fun s _ _ rows =>
    (s.regOut false o.d (fun r => .of (fminCode false (modSrc .f32 o.abs.toNat o.neg.toNat r 0) (modSrc .f32 o.abs.toNat o.neg.toNat r 1)) 6) rows, [])) ∧
  (∀ h (o : FMinOps), Launches (.fmax h o) h [o.d.code] [.of .f32 o.a, .of .f32 o.b] (fun _ => 4) fun s _ _ rows =>
    (s.regOut false o.d (fun r => .of (fminCode true (modSrc .f32 o.abs.toNat o.neg.toNat r 0) (modSrc .f32 o.abs.toNat o.neg.toNat r 1)) 6) rows, [])) ∧
  (∀ h (o : FsetpOps), Launches (.fsetp h o) h [] [.of .f32 o.a, .of .f32 o.b, combArg o.comb o.pc] (fun _ => 4) fun s _ _ rows =>
    (s.predOut o.pd.toNat (fun r => Comb.apply o.comb
      (FCond.holds o.cond (modSrc .f32 o.abs.toNat o.neg.toNat r 0) (modSrc .f32 o.abs.toNat o.neg.toNat r 1))
      ((r.2.getD 2 default).val == 1)) rows, [])) ∧
  (∀ h (o : FclassOps), Gives (.fclass h o) h 4 false o.d [.of .f32 o.a] (un fun a => .of (fclassVal a.val) 2))) ∧
  (
  let fn := fun (i : Instr) (h : Hdr) (lat : Nat) (core : Bool) (o : FunOps) (f : Nat → Nat → FRes) =>
    ∀ s e t qs, Reads s h e [o.d.code] [.of .f32 o.a] t qs → (core = true → e.g.onStack = false) →
      let rows := s.rows e [.of .f32 o.a] qs
      let res := fun (r : Row) => let x := f ((e.g.lane r.1).drawU 0) r.fst; (⟨x.code, 6, 6, BitVec.ofNat 5 x.fl⟩ : Res)
      exec i s = .next (issued s t e h i lat (s.regOut false o.d res rows, fpOut res rows))
  (∀ h o, fn (.frcp h o) h 12 false o (frcpE o.rnd o.sat)) ∧ (∀ h o, fn (.frsq h o) h 12 false o (frsqE o.rnd o.sat)) ∧
  (∀ h o, fn (.fsqrt h o) h 16 false o (fsqrtE o.rnd o.sat)) ∧ (∀ h o, fn (.fex2 h o) h 12 true o (fex2E o.rnd o.sat)) ∧
  (∀ h o, fn (.flg2 h o) h 12 true o (flg2E o.rnd o.sat)) ∧ (∀ h o, fn (.fsin h o) h 20 true o (fsinE o.rnd o.sat)) ∧
  (∀ h o, fn (.fcos h o) h 20 true o (fcosE o.rnd o.sat)))

/-- Conversions, packing, block quantisation, tags and flags (R273 to R279); FLAGS.SET and FLAGS.CLR capture their source, whose bits 5 to 31
must be zero in every lane, one that reads it too early included, and write at their completion (R279). -/
def Obligations.ConversionsIssue : Prop :=
  ((∀ h (o : CvtOps), Launches (.cvt h o) h (regCodes o.dt.is64 o.d) [.reg o.st o.a] (fun _ => if o.dt.is64 || o.st.is64 then 6 else 4)
    fun s e _ rows =>
      let res := fun (r : Row) => (cvtVal o ((e.g.lane r.1).drawU 0) r.fst).res (Ty.tag o.dt)
      (s.regOut o.dt.is64 o.d res rows, fpOut res rows)) ∧
  (∀ h (o : PackOps), Launches (.pack h o) h [o.d.code] (packArgs o) (fun _ => 4) fun s e _ rows =>
    (s.regOut false o.d (fun r => packRes o (e.g.lane r.1) r) rows, fpOut (fun r => packRes o (e.g.lane r.1) r) rows)) ∧
  (∀ h (o : UnpackOps), Launches (.unpack h o) h ((List.range (pairElems o.ty o.e)).map fun j => o.vd + j) [.reg o.ty o.a] (fun _ => 4)
    fun s e _ rows => s.runOut o.vd (fun r => (List.range (pairElems o.ty o.e)).map fun j =>
      unpackElem o.ty o.rnd ((e.g.lane r.1).drawU j) ((elems o.ty r.fst).getD (o.e.toNat + j) 0)) rows) ∧
  (∀ h (o : QntOps), Launches (.qnt h o) h [o.vd, o.vs] ((List.range o.ty.qntCount).map fun j => Arg.v .f32 (o.va + j))
    (fun e => 12 + e.w.width / 4) fun s e _ rows =>
      let k := o.ty.qntCount
      let blk := fun (lane : Nat) => e.id lane / min (2 ^ o.m.toNat) e.w.width
      let peers := fun (r : Row) => rows.filter fun x => blk x.1 == blk r.1
      let code := fun (r : Row) => scaleCode o.ty ((peers r).flatMap fun x => x.2.map fun v => fval v.val)
      let qs := fun (r : Row) => (List.range k).map fun j =>
        qntElem o.ty o.rnd ((e.g.lane r.1).drawU j) (code r) (r.2.getD j default).val
      let bad := fun (r : Row) => (peers r).any Row.haz
      (rows.flatMap fun r =>
        [⟨r.1, o.vd, BitVec.ofNat 32 (if bad r then s.free 700 r.1 else ofElems o.ty ((qs r).map FRes.code)), Ty.tag o.ty⟩,
         ⟨r.1, o.vs, BitVec.ofNat 32 (if bad r then s.free 701 r.1 else code r * 0x01010101), 15⟩],
        (rows.filter fun r => !bad r).map fun r => (r.1, BitVec.ofNat 5 ((qs r).foldl (fun m x => m ||| x.fl) 0)))) ∧
  (∀ h (o : DqntOps), Launches (.dqnt h o) h ((List.range o.ty.qntCount).map fun j => o.vd + j) [.reg o.ty o.a, .reg .e8m0 o.sc] (fun _ => 4)
    fun s e _ rows => s.runOut o.vd (fun r => (List.range o.ty.qntCount).map fun j =>
      (dqntElem o.ty o.rnd o.sat ((e.g.lane r.1).drawU j) (r.snd % 256) ((elems o.ty r.fst).getD j 0), 6)) rows) ∧
  (∀ h (o : TagsetOps), Gives (.tagset h o) h 4 false o.d [.any .b32 (.reg o.a)] (un fun a => .of a.val o.t.toNat)) ∧
  (∀ h (o : DaOps), Gives (.tagget h o) h 4 false o.d [.any .b32 (.reg o.a)] (un fun a => .of a.tag 2)) ∧
  (∀ h (o : Reg), Launches (.flags h o) h [o.code] [] (fun _ => 4) fun s _ _ rows => (s.regOut false o (fun _ => .of 0 2) rows, []))) ∧
  (∀ s h (o : DaOps) e, Acts s h e → e.g.codesFault [o.d.code, o.a.code] = none →
    let rows := s.rows e [.any .b32 (.reg o.a)] []
    (∀ r ∈ rows, r.fst < 32) →
    let op := fun (i : Instr) => ({ e.op s h i with
      lvals := rows.map fun r => (r.1, [r.fst])
      writes := (dstRows o.d rows).map fun r => ⟨r.1, o.d.code, 0, 2⟩
      due := some (s.now e.g + 4) } : Op)
    exec (.flagsSet h o) s = .next (s.addOp (op (.flagsSet h o))) ∧ exec (.flagsClr h o) s = .next (s.addOp (op (.flagsClr h o))))

/-! ### Steps, reset and memory -/

/-- The word that stands at the PC of the entry of the warp whose turn it is to issue is decoded, and the step is its meaning, in the state in
which the entry has left the word (R22 to R26, R193, R210). A marked pair runs as one; it puts both members before anything else, the second
for the lanes that have not executed it, and each of the next two steps runs one (R203, R458). That the issues of one clock are steps, taken
in the order of partition and slot, is the model's choice (assumption 3). That the second slot runs for the lanes that have not executed it
is its reading of R458 (assumption 15), and that a marked pair's second slot runs alone where a branch has reached it, its choice
(assumption 55). -/
def Obligations.StepRunsTheDecodedWord : Prop :=
  (∀ (s : State) (r : Ready) (l : Line) x rest, s.powered = true → s.stage ≠ 0 → s.frozen = false → s.todo = [] →
    s.turn = some (x :: rest) →
    let v := { s with turn := some rest }
    (v.findGroup x.1).bind (fun g => (g.findWarp x.2).bind (v.eligible g)) = some r → (v.fetchLine r.g r.f.pc.toNat).2 = .ok l →
    l.skip 1 r.f.pc.toNat = r.f.pc.toNat →
    let pc := r.f.pc.toNat
    let u := (v.fetchLine r.g pc).1
    (∀ w half i, l.isPair (pcSlot pc) = false → l.at pc = .ok (.one w half) →
      decodeRaw (Raw.ofNat w half) (s.privileged r.g) (l.badFor (pcSlot pc)) 0 = .ok i →
      step s = exec i (u.takeSlot r (l.next pc) (Instr.waits i) (Instr.isPair i) false)) ∧
    (∀ ix st b w i, l.isPair (pcSlot pc) = false → l.at pc = .ok (.script ix st b) → ix < s.scriptSize r.g →
      (u.scriptEntry r.g ix).2 = .ok w →
      decodeRaw { Raw.ofNat w none with stall := st } (s.privileged r.g) (l.badFor (pcSlot pc)) b = .ok i →
      step s = exec i ((u.scriptEntry r.g ix).1.takeSlot r (l.next pc) (Instr.waits i) (Instr.isPair i) true)) ∧
    (∀ wa wb a b, l.isPair (pcSlot pc) = true → l.isPair (pcSlot pc + 1) = false → l.kind (pcSlot pc) = 0 → l.kind (pcSlot pc + 1) = 0 →
      l.at pc = .ok (.one wa none) → l.at (pc + 8) = .ok (.one wb none) →
      decodeRaw (Raw.ofNat wa none) (s.privileged r.g) (l.badFor (pcSlot pc)) 0 = .ok a →
      decodeRaw (Raw.ofNat wb none) (s.privileged r.g) (l.badFor (pcSlot (pc + 8))) 0 = .ok b →
      step s = exec (.pair a b) (u.takeSlot r (l.next (l.next pc)) (Instr.waits (.pair a b)) true false))) ∧
  ((∀ s a b e, s.env Guard.always = some e → s.pairFault e a b = none →
    exec (.pair a b) s = .next ({ s with todo := [(a, { e.iss with pos := 1 }),
        (b, { e.iss with pos := 2, pc := e.iss.pc + 8, lanes := e.iss.lanes.filter fun l => !(e.g.lane l).solo })] }.modLanes e.g.gid e.iss.lanes
      fun _ l => { l with solo := false })) ∧
  (∀ (s : State) i x xs, s.powered = true → s.stage ≠ 0 → s.frozen = false → s.todo = (i, x) :: xs →
    step s = exec i { s.renew with todo := xs, cur := some x }))

/-- At an issue each lane of the entry leaves the word for the next one with age 0, and each other live lane of the warp grows older, up to
511 (R26, R193). The note of the lanes that have executed a pair's second slot alone is the model's (assumption 15), and so is that a wait
mask settles every lane of the entry, those whose guard fails too (assumption 44). -/
def Obligations.IssueMovesTheEntry : Prop :=
  ∀ (s : State) (r : Ready) next waits pair script, s.findGroup r.g.gid = some r.g → r.g.findWarp r.w.wid = some r.w → r.f.lanes.Nodup →
    let t := s.takeSlot r next waits pair script
    t.mem = s.mem ∧ t.cur = some ⟨r.g.gid, r.w.wid, r.f.lanes, r.f.pc, 0, script⟩ ∧
    ∃ g, t.findGroup r.g.gid = some g ∧ ∀ i, i < r.g.lanes.length → g.lane i =
      if i ∈ r.f.lanes then { r.g.lane i with
          pc := BitVec.ofNat 64 next
          age := 0
          solo := (r.g.lane i).solo && pair
          unsettled := (r.g.lane i).unsettled.filter fun u => u.2 == 0 || !bitAt waits (u.2 - 1) }
      else if i ∈ s.liveLanes r.g r.w then { r.g.lane i with age := min 511 ((r.g.lane i).age + 1) }
      else r.g.lane i

/-- No step faults or is refused: every stop of the spec is a next state. -/
def Obligations.EveryStepAnswers : Prop := ∀ s : State, ∃ t, step s = .next t

/-- Bring-up begins at stage 0 with nothing running, no context, and the registers at the values that R492 and R505 give. The identity block
reads as R416 says in every state: the part number, the fused fields of the part, zeros elsewhere; a write to it has no effect. That an
unlisted cell reads as 0 is the model's choice (assumption 1). -/
def Obligations.ResetState : Prop :=
  (∀ (s : State) (off v : Nat), off < 0x20 → slice (s.readDev 0).toNat 0 16 = 0x9200 ∧
    slice (s.readDev 0).toNat 16 8 = s.fuses.step.toNat ∧ slice (s.readDev 0).toNat 24 40 = 0 ∧ s.readDev 8 = s.fuses.cores ∧
    s.readDev 0x10 = s.fuses.scores ∧ (s.readDev 0x18).toNat = s.fuses.stackSet.toNat ∧ s.writeDev off v = s) ∧
  let s := State.reset
  s.stage = 0 ∧ s.groups = [] ∧ s.takes = [] ∧ s.ctxs = [] ∧ s.ops = [] ∧ s.tlb = [] ∧ s.walkers = [] ∧
  (∀ p, p < 8 → s.regN (0x43000 + 8 * p) = 7) ∧ (∀ m, m < 8 → s.regN (0x43060 + 8 * m) = 1024) ∧
  s.regN 0x43040 = 0xFFFF ∧ s.regN 0x43048 = 0xFFFF ∧ s.regN 0x43050 = 2 ^ 64 - 1 ∧ s.regN 0x43058 = 2 ^ 64 - 1 ∧
  Coherent s ∧ Listed s ∧ ∀ a, s.peekByte a = 0

/-- Memory and the L2 keep their canonical form in every step: rising keys, none listed that holds what an unlisted one reads as. -/
def Obligations.MemoryStaysCanonical : Prop :=
  ∀ s t : State, Tidy s → step s = .next t → Tidy t

/-- Registers and flags stay listed under rising numbers in every step. -/
def Obligations.RegistersStayCanonical : Prop :=
  ∀ s t : State, Listed s → step s = .next t → Listed t

/-- Bytes are stored and read little-endian, and a write of `n` bytes changes no other, in memory and in a scratchpad bank (R7, R112, R119).
-/
def Obligations.WrittenBytesAreRead : Prop :=
  (∀ (m : Memory) (a n x : Nat), Memory.wf m = true →
    Memory.wf (m.writeNat a n x) = true ∧ (m.writeNat a n x).readNat a n = x % 256 ^ n ∧
    (∀ k, k < n → (m.writeNat a n x).read (a + k) = BitVec.ofNat 8 (x / 256 ^ k)) ∧
    ∀ b, b < a ∨ a + n ≤ b → (m.writeNat a n x).read b = m.read b) ∧
  (∀ (k : Bank) (off n x : Nat), (∀ j, j < n → (k.writeNat off n x).byte (off + j) = BitVec.ofNat 8 (x / 256 ^ j)) ∧
    (k.writeNat off n x).readNat off n = x % 256 ^ n ∧ (∀ b, b < off ∨ off + n ≤ b → (k.writeNat off n x).byte b = k.byte b))

/-- As the home slice has them: a write of `n` bytes within one line puts them there and leaves every other byte (R124, R139). -/
def Obligations.HomeWritesChangeTheirBytes : Prop :=
  ∀ (s : State) (a n x : Nat), Coherent s → a % 128 + n ≤ 128 →
    Coherent (s.writeHome a n x) ∧
    (∀ k, k < n → (s.writeHome a n x).peekByte (a + k) = BitVec.ofNat 8 (x / 256 ^ k)) ∧
    ∀ b, b < a ∨ a + n ≤ b → (s.writeHome a n x).peekByte b = s.peekByte b

/-! ### Completions -/

/-- An operation of fixed latency completes once its clock has come: it writes what it computed at its issue (R31, R225, R265). FLAGS
reads the FP flags then and FLAGS.SET and FLAGS.CLR change them (R279); GSET resolves its slot unless it is resolved, and GCLR makes it
unresolved (R78, R240); where the shadows of lanes find their results wrong, the results stand, each failed check is counted, and the take has
the hardware error 0x3140, later ones being logged (R108, R110, R467, R472). -/
def Obligations.FixedLatencyCompletes : Prop :=
  ∀ s o g, s.findOp o.id = some o → s.findGroup o.gid = some g → (o.due.any fun d => d ≤ s.now g) = true →
    let old := o.writes.map fun (w : RegW) => { w with val := (g.lane w.lane).fp.setWidth 32 }
    let src := fun (l : Nat) => BitVec.ofNat 5 ((o.lvals.find? fun x => x.1 == l).elim 0 fun x => x.2.headD 0)
    let done := exec (.fixedLatencyComplete o.id) s
    match o.instr with
    | .flags _ _ => done = .next (s.finishOp { o with writes := old })
    | .flagsSet _ _ => done = .next ((s.finishOp { o with writes := old }).modLanes g.gid o.lanes fun i l => { l with fp := src i })
    | .flagsClr _ _ => done = .next ((s.finishOp { o with writes := old }).modLanes g.gid o.lanes fun i l => { l with fp := l.fp &&& ~~~src i })
    | .gset _ x => done = .next ((s.finishOp o).modGroup g.gid fun y => match NMap.get none y.guards x.g.toNat with
        | some _ => y
        | none => { y with guards := NMap.put none y.guards x.g.toNat (some (o.vals.headD 0 == 1)) })
    | .gclr _ n => done = .next ((s.finishOp o).modGroup g.gid fun y => { y with guards := NMap.put none y.guards n.toNat none })
    | i => (Instr.isShadowed i = false → done = .next (s.finishOp o)) ∧
      (Instr.isShadowed i = true → done = .next (o.vals.foldl (fun (u : State) l =>
        (u.countUp (if g.onStack then 0x20280 + 8 * (g.agent - 64) else 0x20080 + 8 * g.agent) 0).hwError g.take 0x3140
          (((g.warps.find? fun w => w.lanes.contains l).orElse fun _ => g.findWarp o.wid).elim 0 fun w => g.lanePath w l) 0) (s.finishOp o)))

/-- A completed operation has written its registers, the last write of a register standing; p7 takes no write (R72). Of an s register the
write of a later warp in the same clock stands instead (R71), and a write that a PUSH has met is of an undefined value (R255). Every other register and predicate of every lane, and all of memory, are as
before. The operation is gone, and its flag is one lower (R32). -/
def Obligations.CompletionWritesRegisters : Prop :=
  ∀ s o g, Listed s → s.findGroup o.gid = some g → Quiet s o g →
    let t := s.finishOp o
    let last := fun (p : RegW → Bool) => ((s.landing o).filter p).getLast?
    t.findOp o.id = none ∧ t.mem = s.mem ∧ t.l2 = s.l2 ∧ t.l1 = s.l1 ∧ t.regs = s.regs ∧
    (∀ y ∈ s.groups, y.gid ≠ o.gid → y ∈ t.groups) ∧
    ∃ g', t.findGroup o.gid = some g' ∧ g'.banks = g.banks ∧ g'.queues = g.queues ∧ g'.tiles = g.tiles ∧ g'.guards = g.guards ∧
      (∀ n, n < 384 → g'.readS n = if ((NMap.get none g.swrote (640 + n)).any fun k => k.1 == s.seenAt g && o.ord < k.2) then g.readS n
        else (last fun w => w.reg == 640 + n).elim (g.readS n) RegW.val) ∧
      (∀ i, i < g.lanes.length →
        (∀ n, n < 640 → g'.readV i n = ((last fun w => w.lane == i && w.reg == n).elim (g.readV i n) fun w => (w.val, w.tag))) ∧
        (∀ n, n < 7 → g'.readP i n = ((last fun w => w.lane == i && w.reg == predCode n).elim (g.readP i n) fun w => bitAt w.val.toNat 0)) ∧
        g'.readP i 7 = true ∧ (g'.lane i).pc = (g.lane i).pc ∧ (g'.lane i).loops = (g.lane i).loops ∧ (g'.lane i).ctr = (g.lane i).ctr ∧
        (g'.lane i).fp = o.fp.foldl (fun (x : BitVec 5) f => if f.1 = i then x ||| f.2 else x) (g.lane i).fp) ∧
      (∀ w, g.findWarp o.wid = some w → ∃ w', g'.findWarp o.wid = some w' ∧
        (o.flag ≠ 0 → NMap.get 0 w'.flags o.flag = NMap.get 0 w.flags o.flag - 1))

/-- An operation of long latency completes with the effect of its family (R32, R319). An engine operation that has ended arrives on its
barrier word, and then completes; one without a word completes at once, and a failure that no word has taken is raised (R318, R509). XPREFs
on one ring act one after another (R355). Which arrivals and stores leave a barrier word undefined, at BWINIT (R310) and later, is read from
R154 as assumption 61 says. -/
def Obligations.LongLatencyCompletes : Prop :=
  (∀ s o g, Ending s o g →
    let done := exec (.longLatencyComplete o.id) s
    let mark := s.noteOperands o true o.units
    (s.bankGone o = true → (match o.instr with
      | .lds _ _ | .sts _ _ | .atoms _ _ | .bwinit _ _ | .bwarr _ _ | .errack _ _ => done = .next (s.lateFault o)
      | _ => True)) ∧
    (s.bankGone o = false → match o.instr with
    | .ld _ x | .lds _ x => done = .next (s.doLd o g x)
    | .ldu _ x => done = .next (s.doLdu o g x)
    | .ldt _ x => done = .next (s.doLdt o g x)
    | .st _ _ => done = .next (s.doSt o g)
    | .sts _ _ => done = .next (mark.doSt o g)
    | .stt _ _ => done = .next (s.doStt o g)
    | .atom _ x => done = .next (s.doAtom o g x.op x.ty x.ord x.scope.toNat (some x.d))
    | .atoms _ x => done = .next (mark.doAtom o g x.op x.ty x.ord x.scope.toNat (some x.d))
    | .red _ x => done = .next (s.doAtom o g x.op x.ty x.ord x.scope.toNat none)
    | .bwinit _ x => done = .next ((o.units.foldl (fun (u : State) y => u.setWordState g.take y 1) mark).doWord o g x.scope.toNat
        (fun _ => if mark.wordOwed o g x.word then mark.free 723 0 else bwStart (o.vals.headD 0)) none)
    | .bwarr _ x => done = .next (mark.doWord o g x.scope.toNat
        (fun w => (o.units.head?).elim w fun y => mark.arrival y (o.vals.headD 0) 0 w) (some (x.d, bwPhase)))
    | .errack _ x => done = .next (mark.doErrack o g x)
    | .semsig _ x => done = .next (s.doWord o g x.scope.toNat (fun v => min (v + o.vals.headD 0) (2 ^ 32 - 1)) none)
    | .l2clean _ _ => done = .next (s.doMaint o g .clean)
    | .l2inv _ _ => done = .next (s.doMaint o g .inv)
    | .l2flush _ _ => done = .next (s.doMaint o g .flush)
    | .bmode _ x => done = .next ((s.switchBank g x.b.toNat x.mode).finishOp o)
    | .release _ _ | .barArr _ _ | .bartArr _ _ | .mfence _ | .kvxlate _ _ => done = .next (s.finishOp o)
    | .acquire _ x | .fence _ x => done = .next ((s.acquireAt g x.toNat).finishOp o)
    | .trigger _ => done = .next ((s.modGroup g.gid fun y => { y with triggered := true }).finishOp o)
    | .tflag _ x => done = .next (s.doTflag o g x.toNat)
    | .mzero _ x => done = .next (s.doMzero o g x.toNat)
    | .mload _ x => done = .next (s.doMload o g x)
    | .mout _ x => done = .next (s.doMout o g x)
    | .sysrd _ _ | .syswr _ _ | .tret _ _ | .resume _ _ | .tlbinvAll _ _ | .tlbinvVa _ _ | .snapmark _ _ | .halt _ _ | .haltKill _ _ =>
      done = .next (s.doSystem o g)
    | _ => True)) ∧
  ((∀ s o g, s.findOp o.id = some o → s.findGroup o.gid = some g → o.bw ≠ none →
    let done := fun (t : State) => exec (.engineArrival o.id) s = .next t
    (o.at_ = .ready → done (s.arrive o g (o.arriver g))) ∧
    (s.canMoveOut o = true → done ((s.moveOut o g).1.arrive (s.moveOut o g).2 g (o.arriver g))) ∧
    (∀ h x, o.instr = .xred h x → o.at_ = .issued → o.after = [] →
      done (((s.doXred o g).1.modOp o.id fun _ => { (s.doXred o g).2 with at_ := .ready }).arrive (s.doXred o g).2 g (o.arriver g))) ∧
    (∀ h x, o.instr = .xpref h x → o.at_ = .issued → o.after = [] → s.ringFree o = true →
      done (((s.doXpref o g).1.modOp o.id fun _ => { (s.doXpref o g).2 with at_ := .ready }).arrive (s.doXpref o g).2 g (o.arriver g)))) ∧
  (∀ s o g, s.findOp o.id = some o → s.findGroup o.gid = some g → o.bw = none →
    (o.at_ = .ready → exec (.longLatencyComplete o.id) s = .next ((if o.status = 0 then s else s.engineError o).finishOp o)) ∧
    (s.canMoveOut o = true → exec (.longLatencyComplete o.id) s = .next (s.moveOut o g).1)) ∧
  (∀ (s : State) (o : Op) (g : Group) agent va scope v t, o.bw = some (va, scope) →
    (s.modOp o.id fun o => { o with bw := none, status := 0 }).translateFor g va .write = (v, .ok t) →
    (∀ k, s.takeOf g = some k → k.refuses t.pg = false) →
    let c := v.copyAll g.take [.mem t.a t.pg]
    let q := c.rmw agent (c.ctxOf g) scope ⟨.mem t.a t.pg, 8⟩ (c.arrival ⟨.mem t.a t.pg, 8⟩ 1 o.status)
    q.2.2 = false → o.status / 4096 ≠ 3 → s.arrive o g agent = q.1.noteRaces (some g.gid) [(t.a, 8)]))

/-- What the issue of a fixed-latency word leaves unchanged, whether it goes on or raises a program error: every register, predicate, FP
flag, counter stack and PC of every lane, every uniform register, bank and tile; and, unless some take is already ending, every byte of
memory and every device register. Its registers are written at its completion. FEX2, FLG2, FSIN and FCOS do so on a core; on a stack core
they raise the return trap (R161, R165), but for a queue operand, which it does not have (R162). -/
def Obligations.FixedLatencyIssueFrame : Prop :=
  (∀ (i : Instr) (s t : State), (match i with
      | .iadd _ _ | .isub _ _ | .imul _ _ | .imulh _ _ | .imad _ _ | .imadw _ _ | .imin _ _ | .imax _ _ | .iabs _ _ | .ineg _ _
      | .idot4 _ _ | .and _ _ | .or _ _ | .xor _ _ | .not _ _ | .lop3 _ _ | .shl _ _ | .shr _ _ | .sha _ _ | .rot _ _ | .shf _ _
      | .popc _ _ | .clz _ _ | .brev _ _ | .bfe _ _ | .bfi _ _ | .isetp _ _ | .isel _ _ | .lea _ _ | .psetp _ _ | .psetpG _ _
      | .mov _ _ | .movi _ _ | .smov _ _ | .smovSt _ _ | .ubcast _ _ | .spr _ _ | .shfl _ _ | .push _ _ | .permb _ _ | .vote _ _
      | .matchLanes _ _ | .redW _ _ | .scanW _ _ | .vslide _ _ | .rng _ _ | .fadd _ _ | .fsub _ _ | .fmul _ _ | .ffma _ _ | .fmin _ _
      | .fmax _ _ | .fsetp _ _ | .fclass _ _ | .hadd2 _ _ | .hfma2 _ _ | .cvt _ _ | .pack _ _ | .unpack _ _ | .qnt _ _ | .dqnt _ _
      | .tagset _ _ | .tagget _ _ | .flags _ _ | .flagsSet _ _ | .flagsClr _ _ | .gset _ _ | .gclr _ _ => True
      | .frcp _ _ | .frsq _ _ | .fsqrt _ _ | .kvmask _ _ | .pres _ _ => True
      | .fex2 h o | .flg2 h o | .fsin h o | .fcos h o => (∃ n, o.a = .q n) ∨ ∀ e, s.env h.guard = some e → e.g.onStack = false
      | _ => False) →
    exec i s = .next t →
    t.groups.map Group.gid = s.groups.map Group.gid ∧
    (∀ k, k < s.groups.length → ∀ g g', s.groups[k]? = some g → t.groups[k]? = some g' →
      g'.s = g.s ∧ g'.banks = g.banks ∧ g'.tiles = g.tiles ∧ g'.guards = g.guards ∧ g'.lanes.length = g.lanes.length ∧
      ∀ j, let l := g.lane j
        let l' := g'.lane j
        l'.pc = l.pc ∧ l'.v = l.v ∧ l'.p = l.p ∧ l'.fp = l.fp ∧ l'.loops = l.loops ∧ l'.depth = l.depth ∧ l'.at_ = l.at_) ∧
    ((∀ k ∈ s.takes, k.err = none ∧ k.hwErr = none) → t.mem = s.mem ∧ t.l2 = s.l2 ∧ t.l1 = s.l1 ∧ t.regs = s.regs ∧ t.poison = s.poison)) ∧
  (∀ s h (o : FunOps) e, s.env h.guard = some e → e.act ≠ [] → e.g.onStack = true → (∀ n, o.a ≠ .q n) →
    exec (.fex2 h o) s = .next (s.returnTrap e) ∧ exec (.flg2 h o) s = .next (s.returnTrap e) ∧
    exec (.fsin h o) s = .next (s.returnTrap e) ∧ exec (.fcos h o) s = .next (s.returnTrap e))

/-! ### Control -/

/-- BRA and BRX: each lane of `active` goes to its target with the target priority, and no other lane moves (R201, R202, R228). A target
that R202 forbids is 0x2107, and a pair of BRX whose tags are neither x64 nor b32 is 0x2130. -/
def Obligations.BranchesGoToTheirTargets : Prop :=
  (∀ s h (o : BraOps) e t, Acts s h e → s.fetchTargets e.g targetOk (branchTargets e o.offset) = (t, []) →
    exec (.bra h o) s = .next (t.modLanes e.g.gid e.act fun _ l =>
      { l with pc := BitVec.ofNat 64 (branchTarget e.iss.pc.toNat (signed 32 o.offset.toNat)), prio := o.prio })) ∧
  (∀ s h (o : BrxOps) e t, Reads s h e [] [Arg.v .i64 o.va] s [[]] →
    let target := fun (l : Nat) => (s.readReg e.g true 0 l (.v o.va)).val
    (∀ l ∈ e.act, (s.readReg e.g true 0 l (.v o.va)).haz = false) →
    s.fetchTargets e.g targetOk (e.act.map fun l => (l, target l)) = (t, []) →
    exec (.brx h o) s = .next (t.modLanes e.g.gid e.act fun i l => { l with pc := BitVec.ofNat 64 (target i), prio := o.prio })) ∧
  (∀ s h (o : BraOps) e t l ls, Acts s h e →
    s.fetchTargets e.g targetOk (branchTargets e o.offset) = (t, (l :: ls).map fun l => (l, 0x2107, 0)) →
    exec (.bra h o) s = .next (t.progError e.g.gid e.w.wid 0x2107 (l :: ls) 0)) ∧
  (∀ s h (o : BrxOps) e t fs l ls, Acts s h e → e.g.codesFault [o.va, o.va + 1] = none →
    (∀ l ∈ e.act, (s.readReg e.g true 0 l (.v o.va)).haz = false) →
    s.fetchTargets e.g targetOk (e.act.map fun l => (l, (s.readReg e.g true 0 l (.v o.va)).val)) = (t, fs) →
    (∀ f ∈ fs, f.2.1 / 4096 ≠ 3) → wrongTargets fs = l :: ls →
    exec (.brx h o) s = .next (t.progError e.g.gid e.w.wid 0x2107 (l :: ls) 0)) ∧
  (∀ s h (o : BrxOps) e t fs, Acts s h e → e.g.codesFault [o.va, o.va + 1] = none →
    (∀ l ∈ e.act, (s.readReg e.g true 0 l (.v o.va)).haz = false) →
    s.fetchTargets e.g targetOk (e.act.map fun l => (l, (s.readReg e.g true 0 l (.v o.va)).val)) = (t, fs) →
    (∀ f ∈ fs, f.2.1 / 4096 ≠ 3) → wrongTargets fs = [] →
    let bad := e.act.filter fun l =>
      let x := s.readReg e.g true 0 l (.v o.va)
      !([0, 3].contains x.tag && [0, 3].contains x.tag2)
    bad ≠ [] → exec (.brx h o) s = .next (t.progError e.g.gid e.w.wid 0x2130 bad 0))

/-- CALL and CALLX write each lane's frame (its PC and priority) in its private memory and send it to its target one level deeper;
RET brings back PC and priority and drops the frame (R229 to R231). -/
def Obligations.CallsAndReturns : Prop :=
  (∀ s h (o : BraOps) e t, Acts s h e → s.fetchTargets e.g targetOk (branchTargets e o.offset) = (t, []) → Framed s t e .write 1 →
    exec (.call h o) s = .next (called t e o.prio (branchTargets e o.offset))) ∧
  (∀ s h (o : BrxOps) e t, Reads s h e [] [Arg.v .i64 o.va] s [[]] →
    let ts := e.act.map fun l => (l, (s.readReg e.g true 0 l (.v o.va)).val)
    (∀ l ∈ e.act, (s.readReg e.g true 0 l (.v o.va)).haz = false) → s.fetchTargets e.g targetOk ts = (t, []) → Framed s t e .write 1 →
    exec (.callx h o) s = .next (called t e o.prio ts)) ∧
  (∀ s h e t, Acts s h e → (∀ l ∈ e.act, (e.g.lane l).depth ≠ 0) → Framed s s e .read 0 →
    let r := s.frames e .read (fun l => (e.g.lane l).depth - 1) e.act
    let fs := r.1.readFrames e r.2.1
    (∀ f ∈ fs.2, f.2.2 = none) → fs.1.fetchTargets e.g Line.wellFormed (fs.2.map fun f => (f.1, slice f.2.1 0 64)) = (t, []) →
    exec (.ret h) s = .next (t.modLanes e.g.gid e.act fun i l =>
      let f := (fs.2.find? fun f => f.1 == i).elim 0 fun f => f.2.1
      { l with pc := BitVec.ofNat 64 (slice f 0 64), prio := BitVec.ofNat 8 (slice f 64 8), depth := l.depth - 1 }))

/-- LOOP pushes its count in each lane of `active`, or, for a count of 0, and where the guard fails, goes to the exit (R226, R233), also where
the guard fails in every lane; of a count that is read too early no fault arises (R31; assumption 46). ENDL goes back while trips are left and drops the counter after the last; ENDL.BRK drops it (R234). -/
def Obligations.LoopsCount : Prop :=
  (∀ s h (o : LoopOps) e e' u v, s.env h.guard = some e →
    let skip := branchTarget e.iss.pc.toNat (signed 20 o.skip.toNat)
    s.goTo e ((e.iss.lanes.filter fun l => !e.act.contains l).map fun l => (l, skip)) none = u →
    Reads u h e' [] [loopArg o] u [[]] → e'.iss.script = false →
    let rows := u.rows e' [loopArg o] [[]]
    let count := fun (r : Row) => if r.haz && (e'.g.lane r.1).loops.length == 4 then 0 else r.fst
    let zero := rows.filter fun r => count r == 0
    (∀ r ∈ rows, count r ≠ 0 → (e'.g.lane r.1).loops.length ≠ 4) →
    u.fetchTargets e'.g loopTargetOk ((zero.filter fun r => !r.haz).map fun r => (r.1, skip)) = (v, []) →
    exec (.loop h o) s = .next ((v.goTo e' (zero.map fun r => (r.1, skip)) none).modLanes e'.g.gid
      ((rows.filter fun r => count r != 0).map Prod.fst) fun i l =>
      { l with loops := BitVec.ofNat 32 ((rows.find? fun r => r.1 == i).elim 0 count) :: l.loops })) ∧
  (∀ s h (o : LoopOps) e, s.env h.guard = some e → e.act = [] → e.lost = [] → exec (.loop h o) s =
    .next (s.goTo e (e.iss.lanes.map fun l => (l, branchTarget e.iss.pc.toNat (signed 20 o.skip.toNat))) none)) ∧
  (∀ s h (o : BitVec 20) e t, Acts s h e → e.iss.script = false → (∀ l ∈ e.act, (e.g.lane l).loops ≠ []) →
    let top := fun l => (e.g.lane l).loops.headD 0
    let back := (e.act.filter fun l => top l != 1).map fun l => (l, branchTarget e.iss.pc.toNat (signed 20 o.toNat))
    s.fetchTargets e.g loopTargetOk back = (t, []) →
    exec (.endl h o) s = .next ((t.goTo e back none).modLanes e.g.gid e.act fun _ l => match l.loops with
      | [] => l
      | c :: cs => { l with loops := if c = 1 then cs else (c - 1) :: cs })) ∧
  (∀ s h e, Acts s h e → e.iss.script = false → (∀ l ∈ e.act, (e.g.lane l).loops ≠ []) →
    exec (.endlBrk h) s = .next (s.modLanes e.g.gid e.act fun _ l => { l with loops := l.loops.tail }))

/-- NOP, YIELD and WAIT (R237), EXIT (R232), WSYNC (R236), GROW (R37, R241), WCUT (R51) and WSPLICE (R55): what each does as it issues. GSET
and GCLR issue: the value that the lowest lane of `active` reads is captured (R240). -/
def Obligations.LanesStopAndYield : Prop :=
  ((∀ s h, exec (.nop h) s = .next s) ∧
  (∀ (s : State) h i, s.cur = some i → exec (.yield h) s = .next (s.modWarp i.gid i.wid fun w => { w with yielded := i.lanes })) ∧
  (∀ (s : State) h (n : BitVec 10) i g, s.cur = some i → s.findGroup i.gid = some g →
    exec (.wait h n) s = .next (s.modWarp i.gid i.wid fun w => { w with until_ := s.now g + n.toNat })) ∧
  (∀ s h e, Acts s h e → exec (.exit h) s = .next (((s.sendReplies e.g e.act fun _ => []).modLanes e.g.gid e.act
    fun _ l => { l with at_ := .retired, age := 0 }).checkGrow e.g.gid)) ∧
  (∀ s h (o : Reg) e, Reads s h e [] [Arg.reg .i64 o] s [[]] → exec (.wsync h o) s = .next (s.modLanes e.g.gid e.act fun i l =>
    l.blockAt (.wsync (BitVec.ofNat 64 (s.readReg e.g true 0 i o).val)))) ∧
  (∀ s h e, Acts s h e → e.g.full = true → exec (.grow h) s = .next s) ∧
  (∀ s h e, Acts s h e → e.g.full = false →
    exec (.grow h) s = .next ((s.modLanes e.g.gid e.act fun _ l => l.blockAt .grow).checkGrow e.g.gid)) ∧
  (∀ s h e, Acts s h e → e.w.links.length < e.g.cut → 4 < e.w.width →
    exec (.wcut h) s = .next (s.modLanes e.g.gid e.act fun _ l => l.blockAt .wcut)) ∧
  (∀ s h (o : WspliceOps) e, Acts s h e → e.g.codesFault [o.vd] = none → exec (.wsplice h o) s =
    .next (s.modLanes e.g.gid e.act fun _ l => l.blockAt (.wsplice o.tag.toNat o.vd o.pd.toNat)))) ∧
  ((∀ s h (o : GsetOps) e, Acts s h e → exec (.gset h o) s = .next (s.addOp { e.op s h (.gset h o) with
    vals := [bit (s.predVal e.g e.low o.pa)]
    due := some (s.now e.g + 4) })) ∧
  (∀ s h (o : BitVec 4) e, Acts s h e → exec (.gclr h o) s = .next (s.addOp { e.op s h (.gclr h o) with due := some (s.now e.g + 4) })))

/-- TRAP n, and BKPT where the context's debug enable is set, stop the warp: its record falls due when its flags are 0. BKPT has no other
effect (R239, R419). -/
def Obligations.TrapsStopTheWarp : Prop :=
  let stop := fun (s : State) (e : Env) (code : Nat) => (s.modWarp e.g.gid e.w.wid fun w =>
    { w with halt := .draining code e.iss.pc (BitVec.ofNat 64 (laneMask e.w.lane0 e.act)) }).checkHalt e.g.gid e.w.wid
  (∀ s h (n : BitVec 8) e, Acts s h e → exec (.trap h n) s = .next (stop s e (0x4000 + n.toNat))) ∧
  (∀ s h e, Acts s h e → ((s.findCtx (s.ctxOf e.g)).any fun c => c.debug) = true → exec (.bkpt h) s = .next (stop s e 0x4100)) ∧
  (∀ s h e, Acts s h e → ((s.findCtx (s.ctxOf e.g)).any fun c => c.debug) = false → exec (.bkpt h) s = .next s)

/-- A warp that drains with all its flags at 0, and whose earlier instructions have all taken their effect, in a context with a valid ring stops, with one record that names its code and PC and a STOP
that no other stop of the group holds (R419 to R421). -/
def Obligations.StopsAreRecorded : Prop :=
  ∀ (s : State) g w c code pc lanes, s.findGroup g.gid = some g → g.findWarp w.wid = some w → s.findCtx (s.ctxOf g) = some c →
    w.halt = .draining code pc lanes → w.clear = true →
    s.warpSettled g.gid w.wid = true → c.ringValid = true →
    let t := s.checkHalt g.gid w.wid
    (∃ g', t.findGroup g.gid = some g' ∧ ∃ w', g'.findWarp w.wid = some w' ∧ w'.halt = .stopped ∧ g'.lanes = g.lanes ∧ g'.s = g.s) ∧
    (∃ c' r, t.findCtx c.id = some c' ∧ c'.records = c.records ++ [r] ∧ c'.stops = c.stops ++ [⟨g.gid, c.freeStop g.gid, .trap, w.wid, 0⟩] ∧
      r.code = code ∧ r.pc = pc.toNat ∧ r.ctx = c.id ∧ r.groupId = g.groupId ∧ r.stop = some (g.gid, c.freeStop g.gid) ∧ r.addr = 0) ∧
    c.stops.all (fun x => !(x.gid == g.gid && x.no == c.freeStop g.gid)) = true ∧ t.mem = s.mem

/-! ### Stops and program errors -/

/-- A program error begins to end the take, with the lanes, code and address of its record, and leaves memory and every register alone
(R465, R466); in a take that has a hardware error nothing more happens (R467). -/
def Obligations.ProgramErrorsEndTheTake : Prop :=
  ∀ (s : State) g t wid code lanes addr write, s.findGroup g.gid = some g → s.findTake g.take = some t →
    let u := s.progError g.gid wid code lanes addr write
    (t.hwErr.isSome = true → u = s) ∧
    (t.hwErr = none → t.err = none →
      u.mem = s.mem ∧ u.ops = s.ops ∧ (∃ g', u.findGroup g.gid = some g' ∧ g'.lanes = g.lanes ∧ g'.s = g.s ∧ g'.banks = g.banks) ∧
      ∃ t', u.findTake g.take = some t' ∧ t'.err = some ⟨code, g.gid, wid, lanes, addr, s.takeNow t, write⟩ ∧ t'.slate = t.slate)

/-- Where an instruction fails its operand checks it has no effect but the error: a register outside the allotment (R36), a tag that the
operand's type refuses (R69: 0x2130), a branch target that is none (R202: 0x2107), a call without room (R230: 0x2132), a return without a
frame (R231: 0x2133), a fifth loop (R233: 0x2131), the end of no loop (R234: 0x2134), a cut beyond the depth or at width 4 (R48: 0x2120).
Forbidden targets of the other lanes come first (R210). A program error after that of R36, R69 and R202 comes from a lane's address:
misaligned (0x2144), or beyond its space (0x2142, 0x2143), in the lowest lane that has one (R283). That alignment is judged before the last
byte passes 2^52 is the model's reading (assumption 20). -/
def Obligations.ProgramErrorsStopInstructions : Prop :=
  ((∀ s h (o : Int2) e c, Acts s h e →
    let args := [Arg.of o.ty o.a, Arg.of o.ty o.b]
    e.g.codesFault (regCodes o.ty.is64 o.d ++ args.flatMap Arg.codes) = some c →
    exec (.iadd h o) s = .next (s.progError e.g.gid e.w.wid c e.act 0)) ∧
  (∀ s h (o : Int2) e, Acts s h e →
    let args := [Arg.of o.ty o.a, Arg.of o.ty o.b]
    let bad := badTags args (s.rows e args (s.popArgs e args).2)
    e.g.codesFault (regCodes o.ty.is64 o.d ++ args.flatMap Arg.codes) = none → bad ≠ [] →
    exec (.iadd h o) s = .next (s.progError e.g.gid e.w.wid 0x2130 bad 0)) ∧
  (∀ s h (o : BraOps) e t, Acts s h e →
    s.fetchTargets e.g targetOk (branchTargets e o.offset) = (t, e.act.map fun l => (l, 0x2107, 0)) →
    exec (.bra h o) s = .next (t.progError e.g.gid e.w.wid 0x2107 e.act 0)) ∧
  (∀ s h (o : BraOps) e t, Acts s h e → s.fetchTargets e.g targetOk (branchTargets e o.offset) = (t, []) →
    let full := e.act.filter fun l => s.privSize e.g < 16 * ((e.g.lane l).depth + 1)
    let q := t.frames e .write (fun l => (e.g.lane l).depth) (e.act.filter fun l => !full.contains l)
    full ≠ [] → q.2.2 = [] → exec (.call h o) s = .next (q.1.progError e.g.gid e.w.wid 0x2132 full 0)) ∧
  (∀ s h e t, Acts s h e → e.frameless ≠ [] →
    let r := s.frames e .read (fun l => (e.g.lane l).depth - 1) (e.act.filter fun l => !e.frameless.contains l)
    let fs := r.1.readFrames e r.2.1
    r.2.2 = [] → (∀ f ∈ fs.2, f.2.2 = none) → fs.1.fetchTargets e.g Line.wellFormed (fs.2.map fun f => (f.1, slice f.2.1 0 64)) = (t, []) →
    exec (.ret h) s = .next (t.progError e.g.gid e.w.wid 0x2133 e.frameless 0)) ∧
  (∀ s h (o : LoopOps) e e' u v, s.env h.guard = some e →
    let skip := branchTarget e.iss.pc.toNat (signed 20 o.skip.toNat)
    s.goTo e ((e.iss.lanes.filter fun l => !e.act.contains l).map fun l => (l, skip)) none = u →
    Reads u h e' [] [loopArg o] u [[]] → e'.iss.script = false →
    let rows := u.rows e' [loopArg o] [[]]
    let full := (rows.filter fun r => r.fst != 0 && (e'.g.lane r.1).loops.length == 4).map Prod.fst
    (∀ r ∈ rows, r.haz = false) → full ≠ [] →
    u.fetchTargets e'.g loopTargetOk ((rows.filter fun r => r.fst == 0).map fun r => (r.1, skip)) = (v, []) →
    exec (.loop h o) s = .next (v.progError e'.g.gid e'.w.wid 0x2131 full 0)) ∧
  (∀ s h (o : BitVec 20) e t, Acts s h e → e.iss.script = false → e.loopless ≠ [] →
    s.fetchTargets e.g loopTargetOk ((e.act.filter fun l => (e.g.lane l).loops.headD 0 != 1 && !(e.g.lane l).loops.isEmpty).map fun l =>
      (l, branchTarget e.iss.pc.toNat (signed 20 o.toNat))) = (t, []) →
    exec (.endl h o) s = .next (t.progError e.g.gid e.w.wid 0x2134 e.loopless 0)) ∧
  (∀ s h e, Acts s h e → (e.g.cut ≤ e.w.links.length ∨ e.w.width ≤ 4) →
    exec (.wcut h) s = .next (s.progError e.g.gid e.w.wid 0x2120 e.act 0))) ∧
  ((∀ s h (o : StoreOps) e t qs f fs,
    let sp := MemMode.space o.mode
    let args := addrArgs (sp == .global) o.base o.off ++ dataArgs o.ty o.vec o.one o.data
    Reads s h e [] args t qs → (∀ r ∈ s.rows e args qs, r.haz = false ∧ e.short args qs r.1 = false) →
    ((s.rows e args qs).filterMap fun r =>
      (s.addrFault e.g sp (isSix o.ty) (accessBytes o.ty o.vec o.one) (rowAddr (sp == .global) r)).map fun c =>
        (r.1, c, rowAddr (sp == .global) r)) = f :: fs →
    exec (.st h o) s = .next (s.progError e.g.gid e.w.wid f.2.1 (f.1 :: fs.map Prod.fst) f.2.2 true)) ∧
  (∀ (s : State) (g : Group) (six : Bool) (n a : Nat), s.addrFault g .global six n a = some 0x2144 ↔ a < 2 ^ 52 ∧ a % (if six then 4 else n) ≠ 0) ∧
  (∀ (s : State) (g : Group) (six : Bool) (n a : Nat), s.addrFault g .global six n a = some 0x2142 ↔
    2 ^ 52 ≤ a ∨ a % (if six then 4 else n) = 0 ∧ 2 ^ 52 < a + n) ∧
  (∀ (s : State) (g : Group) (six : Bool) (n a : Nat), s.addrFault g .priv six n a = some 0x2143 ↔ s.privSize g < a + n))

/-! ### Loads, stores, atomics -/

/-- Loads, stores and atomics of lanes (R281 to R287, R292). -/
def Obligations.LaneAccessesIssue : Prop :=
  (∀ h (o : LoadOps), Accesses (.ld h o) h (runCodes o.d (if o.one then 1 else accessRegs o.ty o.vec))
    (addrArgs (MemMode.space o.mode == .global) o.base o.off) (MemMode.space o.mode) .read (isSix o.ty) (accessBytes o.ty o.vec o.one)
    (rowAddr (MemMode.space o.mode == .global)) fun _ => []) ∧
  (∀ h (o : LoadOps), Accesses (.lds h o) h (runCodes o.d (if o.one then 1 else accessRegs o.ty o.vec)) (addrArgs false o.base o.off)
    .scratch .read (isSix o.ty) (accessBytes o.ty o.vec o.one) (rowAddr false) fun _ => []) ∧
  (∀ h (o : StoreOps), Accesses (.st h o) h []
    (addrArgs (MemMode.space o.mode == .global) o.base o.off ++ dataArgs o.ty o.vec o.one o.data) (MemMode.space o.mode) .write (isSix o.ty)
    (accessBytes o.ty o.vec o.one) (rowAddr (MemMode.space o.mode == .global)) fun r => [storeVal o.ty o.one (rowData r)]) ∧
  (∀ h (o : StoreOps), Accesses (.sts h o) h [] (addrArgs false o.base o.off ++ dataArgs o.ty o.vec o.one o.data) .scratch .write
    (isSix o.ty) (accessBytes o.ty o.vec o.one) (rowAddr false) fun r => [storeVal o.ty o.one (rowData r)]) ∧
  (∀ h (o : AtomOps), Accesses (.atom h o) h (regCodes o.ty.is64 o.d) (addrArgs true o.base o.off ++ atomArgs o.ty o.b o.c) .global .write
    false (atomBytes o.ty) (rowAddr true) rowData) ∧
  (∀ h (o : AtomOps), Accesses (.atoms h o) h (regCodes o.ty.is64 o.d) (addrArgs false o.base o.off ++ atomArgs o.ty o.b o.c) .scratch .write
    false (atomBytes o.ty) (rowAddr false) rowData) ∧
  (∀ h (o : RedOps), Accesses (.red h o) h [] (addrArgs true o.base o.off ++ atomArgs o.ty o.b o.c) .global .write false (atomBytes o.ty)
    (rowAddr true) rowData)

/-- LDU (R288), and the cache and bank forms: PREF (R298), range maintenance (R299), BMODE (R301) and PRES (R302). -/
def Obligations.OtherMemoryFormsIssue : Prop :=
  (∀ s h (o : LoadOps) e t u us, Acts s h e →
    let args := addrArgs false o.base o.off
    let dst := runCodes o.d (if o.one then 1 else accessRegs o.ty o.vec)
    let n := accessBytes o.ty o.vec o.one
    let a := wrap 32 ((s.uni e .z32 o.base).val + signed 32 (s.uni e .i32 o.off).val)
    e.g.codesFault (dst ++ args.flatMap Arg.codes) = none → s.takeOf e.g = some t → (s.uni e .z32 o.base).haz = false →
    (s.uni e .i32 o.off).haz = false → a + n ≤ t.slate.constSize → a % (if isSix o.ty then 4 else n) = 0 →
    s.locLane e.g .global .read e.low (t.slate.constBase + a) (memUnits (isSix o.ty) n) = (u, us, none, false) →
    let op := { e.op u h (.ldu h o) with
      lvals := e.act.map fun l => (l, [0])
      accs := [⟨e.low, us, t.slate.constBase + a⟩] }
    exec (.ldu h o) s = .next ((u.launch e op).unsettle op dst)) ∧
  (∀ s h (o : PrefOps) e t qs, Acts s h e →
    let sp := MemMode.space o.mode
    let args := [Arg.reg (if sp = .global then .i64 else .z32) o.base, Arg.of .i32 o.off]
    e.g.codesFault (args.flatMap Arg.codes) = none → s.popArgs e args = (t, qs) →
    exec (.pref h o) s = .next ((s.rows e args qs).foldl (fun (s : State) r =>
      if tagsOk args r.2 then s.prefetch e.g o r.1 (rowAddr (sp == .global) r) else s) t)) ∧
  (∀ s h (o : MaintOps) e, Acts s h e → e.g.onStack = false →
    let n := (s.uni e .z32 o.n).val
    e.g.codesFault ([640 + o.sa, 641 + o.sa] ++ (Arg.of .z32 o.n).codes) = none → (n ≠ 0 → s.uniS e true o.sa < 2 ^ 52) →
    let out := fun (i : Instr) => Host.Outcome.next (if n = 0 then s else s.launch e { e.op s h i with vals := [s.uniS e true o.sa, n] })
    exec (.l2clean h o) s = out (.l2clean h o) ∧ exec (.l2inv h o) s = out (.l2inv h o) ∧ exec (.l2flush h o) s = out (.l2flush h o)) ∧
  (∀ s h (o : BmodeOps) e, Acts s h e → e.g.onStack = false → o.b.toNat < e.g.banks.length →
    exec (.bmode h o) s = .next (s.launch e (e.op s h (.bmode h o)))) ∧
  (∀ s h (o : PresOps) e t qs, Reads s h e [] (addrArgs false o.base o.off) t qs →
    let rows := s.rows e (addrArgs false o.base o.off) qs
    (∀ r ∈ rows, ∃ x, s.scratchLoc e.g (rowAddr false r) = .ok x) →
    exec (.pres h o) s = .next (t.addOp { e.op s h (.pres h o) with
      writes := s.predOut o.pd.toNat (fun r => s.presentAt e.g r.1 (rowAddr false r)) rows
      due := some (s.now e.g + 4) }))

/-- LDT and STT issue (R290, R291): the descriptor at the aligned address is read and found right, the coordinates are read, and each lane
accesses the elements of its run that lie in bounds. An element in bounds lies at its base plus the sum of coordinate times stride; one out
of bounds is not accessed (R129, R291). -/
def Obligations.TensorAccessesIssue : Prop :=
  (
  let tensor := fun (i : Instr) (h : Hdr) (k : AccKind) (c desc vc : Nat) (dst vs : List Nat) =>
    ∀ s e d w rows locs u accs, Acts s h e →
      let va := s.uniS e true desc
      let early := s.early e [640 + desc, 641 + desc]
      let n := 4 * c / descSize w
      let args := (List.range (descRank w)).map (fun j => Arg.v .i32 (vc + j)) ++ vs.map fun r => Arg.any .b32 (.reg (.v r))
      e.g.codesFault (dst ++ [640 + desc, 641 + desc, vc] ++ vs) = none → va < 2 ^ 52 → va % 64 = 0 →
      s.readDesc e va = (d, .ok w) →
      descFault w = none → n ≠ 0 → vc + descRank w ≤ e.g.allot.v → d.readRows e args = (d, rows) → badTags args rows = [] →
      (∀ r ∈ rows, ∀ x ∈ r.2.drop (descRank w), x.tag = 0 ∨ x.tag = descTag w) →
      (∀ r ∈ rows, ∀ x ∈ laneElems w (rowCoord r (descRank w)) n, x.2 ≠ none) →
      locs = rows.map (fun r => (r.1, laneElems w (rowCoord r (descRank w)) n)) →
      (locs.foldl (fun (a : State × List Acc × List (Nat × Nat × Nat)) x =>
        let q := a.1.locLane e.g .global k x.1 0 (x.2.map fun y => (y.2.getD 0, descSize w))
        match q.2.2.1 with
        | some f => (q.1, a.2.1, a.2.2 ++ [(x.1, f.1, f.2)])
        | none => (q.1, a.2.1 ++ [⟨x.1, q.2.1, (x.2.head?.bind Prod.snd).getD 0⟩], a.2.2)) (d, [], [])) = (u, accs, []) →
      let op := { e.op s h i with
        vals := [w]
        lvals := rows.map fun r =>
          let x := laneElems w (rowCoord r (descRank w)) n
          let str := ((r.2.drop (descRank w)).mapIdx fun j (o : Opnd) => o.val * 2 ^ (32 * j)).sum
          (r.1, [bit (early || r.haz) + 2 * bit (early || (r.2.take (descRank w)).any Opnd.haz), ofBits (fun b => x.any fun y => y.1 == b) 16, packElems (descSize w) str (x.map Prod.fst)])
        accs := accs }
      exec i s = .next ((u.launch e op).unsettle op dst)
  (∀ h (o : LdtOps), tensor (.ldt h o) h .read (vecCount o.vec) o.desc o.vc ((List.range (vecCount o.vec)).map fun j => o.vd + j) []) ∧
  (∀ h (o : SttOps), tensor (.stt h o) h .write (vecCount o.vec) o.desc o.vc [] ((List.range (vecCount o.vec)).map fun j => o.vs + j))) ∧
  (∀ (w : Nat) (xs : List Int) (n e : Nat) (a : Option Nat), (e, a) ∈ laneElems w xs n →
    e < n ∧ a = elemAddr w (runCoord xs e) ∧ inBounds w (runCoord xs e) = true ∧
    ∀ i, i < descRank w → 0 ≤ (runCoord xs e).getD i 0 ∧ (runCoord xs e).getD i 0 < descExt w i)

/-- What an atomic leaves in its location (R292): the exact sum modulo 2^n, the smaller or greater, bitwise results, exchange, compare and
swap, and the wrapping increment and decrement. A floating-point atomic leaves, element by element, the sum rounded once to nearest even, or
the smaller or greater (R294, R268), an invalid sum and a NaN giving the canonical NaN (R95). -/
def Obligations.AtomicsCompute : Prop :=
  (∀ (ty : Ty) (old b c k : Nat), ty ∈ [.f32, .bf16, .f16] → k < Ty.count ty →
    let e := fun (x : Nat) => (elems ty x).getD k 0
    let f := Ty.fmt ty
    e (atomNew .add ty old b c) = (faddE f .rn false 0 (e old) (e b)).code ∧
    (∀ x y, (f.value x).isNan = true ∨ (f.value y).isNan = true ∨ (f.value x).badSum (f.value y) = true →
      (faddE f .rn false 0 x y).code = f.nanCode) ∧
    (∀ x y, (f.value x).isNan = false → (f.value y).isNan = false → (f.value x).badSum (f.value y) = false →
      (faddE f .rn false 0 x y).code = (roundTo f .rn false false 0 (FVal.add false (f.value x) (f.value y))).code) ∧
    (ty = .f32 → old < 2 ^ 32 → b < 2 ^ 32 →
      atomNew .min ty old b c = fminCode false old b ∧ atomNew .max ty old b c = fminCode true old b)) ∧
  ∀ (ty : Ty) (old b c : Nat), ty.isInt = true ∨ ty = .b32 → old < 2 ^ Ty.bits ty → b < 2 ^ Ty.bits ty →
    atomNew .add ty old b c = (old + b) % 2 ^ Ty.bits ty ∧
    intVal ty (atomNew .min ty old b c) = min (intVal ty old) (intVal ty b) ∧
    intVal ty (atomNew .max ty old b c) = max (intVal ty old) (intVal ty b) ∧
    (∀ k, bitAt (atomNew .and ty old b c) k = (bitAt old k && bitAt b k)) ∧
    (∀ k, bitAt (atomNew .or ty old b c) k = (bitAt old k || bitAt b k)) ∧
    (∀ k, bitAt (atomNew .xor ty old b c) k = (bitAt old k != bitAt b k)) ∧
    atomNew .exch ty old b c = b ∧ atomNew .cas ty old b c = (if old = c then b else old) ∧
    atomNew .inc ty old b c = (if old ≥ b then 0 else old + 1) ∧
    atomNew .dec ty old b c = (if old = 0 ∨ old > b then b else old - 1)

/-- A store that completes changes, as the home slices have them, only the bytes that its lanes store to, and the rest of the barrier words
in use that it meets, which it leaves undefined (R154; which words are in use is assumption 61's reading); a store to the scratchpad changes no byte of memory (R286, R287, R124). -/
def Obligations.StoresChangeOnlyTheirBytes : Prop :=
  ∀ s o g, Ending s o g → Quiet s o g → Coherent s → s.bankGone o = false → (∀ u ∈ o.units, ∀ a p, u.loc = .mem a p → a % 128 + u.n ≤ 128) →
    ((∃ h x, o.instr = .st h x) ∨ (∃ h x, o.instr = .sts h x) ∨ ∃ h x, o.instr = .stt h x) →
    ∀ t, exec (.longLatencyComplete o.id) s = .next t →
      t.regs = s.regs ∧ ∀ b, (∀ u ∈ o.units, ∀ a p, u.loc = .mem a p → b < a ∨ a + u.n ≤ b) →
        (∀ q ∈ o.accs.flatMap Acc.placed, s.inUse o q.1 q.2 = true → ∀ a p, q.1.loc = .mem a p → b < a / 8 * 8 ∨ a / 8 * 8 + 8 ≤ b) →
        t.peekByte b = s.peekByte b

/-- A load that meets no poison, or none but on poison-tolerant pages, which it counts (R132, R469), changes no byte of memory and no other
device register (R285, R287, R288, R291). -/
def Obligations.LoadsChangeNoMemory : Prop :=
  ∀ s o g, Ending s o g → Quiet s o g → Coherent s → Listed s → s.bankGone o = false →
    ((∃ h x, o.instr = .ld h x) ∨ (∃ h x, o.instr = .lds h x) ∨ (∃ h x, o.instr = .ldu h x) ∨ ∃ h x, o.instr = .ldt h x) →
    (∀ v, (s.readAccs v (fun _ => false) o.accs).2.2 = none) →
    ∀ t, exec (.longLatencyComplete o.id) s = .next t →
      (∀ off, off ≠ 0x20018 → off ≠ 0x20020 → t.reg off = s.reg off) ∧ ∀ b, t.peekByte b = s.peekByte b

/-! ### Copies and barrier words -/

/-- Copies issue (R295 to R297): the block form moves n bytes, the lane form 4, 8 or 16 for each lane; a member that has not started holds
the lanes (R41). On a stack core every range must be within reach (R163). A destination line of a CPA lands: its units are read from their
sources and written, and its pending count falls; the copy is ready when no line is left (R121, R296). An operation that held its lanes goes
out, in all its lanes at once, when every line of its access is present and what it follows is performed; one whose team members had not started is located again (R41, R121). -/
def Obligations.CopiesIssue : Prop :=
  (
  let start := fun (s u : State) (e : Env) (o : Op) =>
    let c := s.copyAccs e.g o.lvals
    if c.2.1 then (u.addOp { o with at_ := .held, status := 1 }).modLanes e.g.gid o.lanes fun _ l => l.blockAt (.held o.id)
    else (u.addOp o).startCopy o c.2.2
  (∀ s h (o : CpaOps) e bw u, Acts s h e → Commands s e ([640 + o.sp, 640 + o.ga, 641 + o.ga] ++ (Arg.of .z32 o.n).codes) o.bw bw →
    let ga := s.uniS e true o.ga
    let sp := s.uniS e false o.sp
    let n := (s.uni e .z32 o.n).val
    let run := fun (i : Instr) (k : AccKind) =>
      let op := { e.op s h i with bw := bw, lvals := [(e.low, [0, ga, sp, n])] }
      (s.copyAccs e.g op.lvals).1 = [] → Within s e ([(ga, n, k)] ++ bw.toList.map fun b => (b.1, 8, .write)) u →
      exec i s = .next (start s u e op)
    n % 16 = 0 → n ≠ 0 → n ≤ 32768 → ga % 16 = 0 → sp % 16 = 0 → slice sp 0 15 + n ≤ 32768 → ga < 2 ^ 52 →
    run (.cpa h o) .read ∧ run (.cpout h o) .write) ∧
  (∀ s h (o : CpaLnOps) e bw u, Acts s h e →
    let args := [Arg.reg .z32 o.sp, Arg.reg .i64 o.ga]
    Commands s e (args.flatMap Arg.codes) o.bw bw → badTags args (s.rows e args []) = [] →
    let n := 4 * 2 ^ o.vec.toNat
    let ga := fun (r : Row) => (r.2.getD 1 default).val
    let sp := fun (r : Row) => (r.2.getD 0 default).val
    let run := fun (i : Instr) (k : AccKind) =>
      let op := { e.op s h i with bw := bw, lvals := (s.rows e args []).map fun r => (r.1, [bit r.haz, ga r, sp r, n]) }
      (s.copyAccs e.g op.lvals).1 = [] → Within s e ((s.rows e args []).map (fun r => (ga r, n, k)) ++ bw.toList.map fun b => (b.1, 8, .write)) u →
      exec i s = .next (start s u e op)
    (∀ r ∈ s.rows e args [], ga r < 2 ^ 52 ∧ ga r % n = 0 ∧ sp r % n = 0) → run (.cpaLn h o) .read ∧ run (.cpoutLn h o) .write)) ∧
  (∀ s o g line, s.findOp o.id = some o → s.findGroup o.gid = some g → o.canLand line = true →
    exec (.cpaLineLand o.id line) s = .next (s.landLine o g line) ∧
    ∃ t o', s.landLine o g line = t ∧ t.findOp o.id = some o' ∧
      o'.dsts = o.dsts.filter (fun a => !(a.units.any fun u => lineKey u.loc == line)) ∧ (o'.at_ = .ready ↔ o'.dsts = [])) ∧
  ((∀ s o g, s.findOp o.id = some o → s.findGroup o.gid = some g → o.at_ = .held → g.inPlace = true → o.status = 0 →
    Instr.isWait o.instr = false →
    o.units.all s.presentUnit = true → s.heldAfter o = [] → exec (.scratchpadAccessResume o.id) s = .next (s.goOut o g)) ∧
  (∀ s o g, s.findOp o.id = some o → s.findGroup o.gid = some g → o.at_ = .held → g.inPlace = true → o.status = 1 →
    exec (.teamMemberAccessResume o.id) s = .next (match o.instr with
      | .cpa _ _ | .cpaLn _ _ | .cpout _ _ | .cpoutLn _ _ => s.resumeCopy o g
      | .mload _ x => s.resumeTile o g x.ty x.t.toNat
      | .mout _ x => s.resumeTile o g x.ty x.t.toNat
      | .mma _ x => s.resumeMma o g x
      | _ => s.resumeAccess o g)))

/-- An arrival takes its count from a word's pending count; at zero the phase flips and the count starts again, and too great a count, or a
status, leaves its code with the error bit, the first code standing (R153, R310, R313). -/
def Obligations.ArrivalsCount : Prop :=
  ∀ w n e : Nat, w < 2 ^ 64 → e < 2 ^ 14 →
    let t := bwArrive w n e
    let pend := slice w 24 24
    slice t 0 24 = slice w 0 24 ∧
    (n < pend → slice t 24 24 = pend - n ∧ bwPhase t = bwPhase w) ∧
    (pend ≤ n → slice t 24 24 = slice w 0 24 ∧ bwPhase t = 1 - bwPhase w) ∧
    bwError t = (bwError w || e != 0 || decide (pend < n)) ∧
    (bwError w = true → slice t 50 14 = slice w 50 14) ∧
    (bwError w = false → e ≠ 0 → slice t 50 14 = e) ∧
    (bwError w = false → e = 0 → pend < n → slice t 50 14 = 0x2152) ∧
    bwError (bwAck w) = false ∧ bwPhase (bwAck w) = bwPhase w ∧ slice (bwAck w) 0 48 = slice w 0 48

/-- The synchronisation words issue (R305, R310 to R315): the count or phase is read and checked, the word is reached, and the operation goes
out, or, for the waits, holds its lanes. A BWWAIT tests its word and goes on at another phase than its own; a SEMWAIT takes its count once
the word holds as much, by one atomic (R312, R315); otherwise each waits for a later write. Both reach their word afresh (R510), as an atomic does (R150); where two scope ids have been used
on it, the value is undefined, and so is the word (R151). -/
def Obligations.WordOperationsIssue : Prop :=
  (
  let word := fun (i : Instr) (h : Hdr) (w : WordRef) (size : Nat) (k : AccKind) (n : Src) (ok : Nat → Prop) (dst : List Nat) (waits : Bool) =>
    ∀ s e u us late, Acts s h e → e.g.codesFault (dst.filter (fun c => c < 1024) ++ WordRef.codes w ++ (Arg.of .z32 n).codes) = none →
      let x := s.uni e .z32 n
      let addr := s.wordAddr e w
      ok x.val → s.addrFault e.g (WordRef.space w) false size addr = none →
      s.locLane e.g (WordRef.space w) k e.low addr [(0, size)] = (u, us, none, late) →
      let op := { e.op u h i with
        accs := [⟨e.low, us, addr⟩]
        vals := [x.val, addr]
        lvals := e.act.map fun l => (l, [bit (x.haz || s.wordHaz e w) + 2 * bit (s.wordHaz e w)])
        status := bit late }
      exec i s = .next ((if waits then u.holdOp e op else u.launchOrHold e op late).unsettle op dst)
  let count := fun n => n ≠ 0 ∧ n < 2 ^ 24
  (∀ h (o : BwinitOps), word (.bwinit h o) h o.word 8 .write o.n count [] false) ∧
  (∀ h (o : BwarrOps), word (.bwarr h o) h o.word 8 .write o.n count [o.d.code] false) ∧
  (∀ h (o : BwwaitOps), word (.bwwait h o) h o.word 8 .read o.ph (fun _ => True) [predCode o.pd.toNat] true) ∧
  (∀ h (o : SemsigOps), word (.semsig h o) h (.global o.sa) 4 .write o.n (fun _ => True) [] false) ∧
  (∀ h (o : SemwaitOps), word (.semwait h o) h (.global o.sa) 4 .write o.n (fun _ => True) [o.d.code] true) ∧
  (∀ h (o : ErrackOps), word (.errack h o) h o.word 8 .write (.i10 0) (fun _ => True) [o.d.code] false)) ∧
  ((∀ s o g w h x u, s.findOp o.id = some o → s.findGroup o.gid = some g → g.findWarp o.wid = some w → o.instr = .bwwait h x →
    s.mayTest o = true → o.lhaz (o.lanes.headD 0) = false →
    s.locUnit g (WordRef.space x.word) .read (o.lanes.headD 0) (o.vals.getD 1 0) 8 = (s, .ok (some u)) → s.presentUnit u = true →
    let r := s.atomRead g.agent (s.ctxOf g) x.scope.toNat u
    let v := r.2.2.1
    r.2.2.2.2 = false →
    let o' := { o with writes := o.lanes.map fun l => predWrite l x.pd.toNat (if o.lhaz l then bitAt (r.1.free 724 l) 0 else bwError v) }
    exec (.bwwaitRetest o.id) s = .next (if bwPhase v = o.vals.headD 0 % 2 then r.1.waitOn o
      else (((r.1.renew.acquireAt g x.scope.toNat).endWatch g x.word (o.vals.getD 1 0)).freeHeld o').finishOp o')) ∧
  (∀ s o g w h x u, s.findOp o.id = some o → s.findGroup o.gid = some g → g.findWarp o.wid = some w → o.instr = .semwait h x →
    s.mayTest o = true → s.locUnit g .global .write (o.lanes.headD 0) (o.vals.getD 1 0) 4 = (s, .ok (some u)) → s.presentUnit u = true →
    let n := o.vals.headD 0
    let r := s.atomRead g.agent (s.ctxOf g) x.scope.toNat u
    let v := r.2.2.1
    r.2.2.2.2 = false →
    let c := r.1.copyAll g.take [u.loc]
    let q := (if r.2.2.2.1 then c else c.writeUnit r.2.1 u (v - n)).noteRaces (some g.gid) (memSpans [u])
    let o' := { o with writes := q.uniOut o x.d v false }
    exec (.semwaitRetry o.id) s = .next (if v < n then r.1.waitOn o
      else ((q.renew.acquireAt g x.scope.toNat).freeHeld o').finishOp o')))

/-- Fences, TRIGGER, barriers and TFLAG issue (R238, R306 to R309, R314): each takes its place in the warp's order; an arrival is counted for
each lane of `active`, and a BAR's lanes wait. A barrier whose expected lanes have all arrived completes: its phase flips, nobody has arrived
at it any more, and the waiting lanes of each of its groups go on after the group's acquire (R307). The scratchpad writes before an arrival
that does not wait, or before the completion where lanes wait, are ordered before later MMAs: that is the model's reading of R158 (assumption
60), and so is the set of operations that a TFLAG follows (assumption 19). -/
def Obligations.FencesAndBarriersIssue : Prop :=
  ((∀ s h (x : BitVec 5) e, Acts s h e → exec (.release h x) s = .next (s.launch e (e.op s h (.release h x))) ∧
    exec (.acquire h x) s = .next (s.launch e (e.op s h (.acquire h x))) ∧ exec (.fence h x) s = .next (s.launch e (e.op s h (.fence h x)))) ∧
  (∀ s h e, Acts s h e → exec (.trigger h) s = .next (s.launch e (e.op s h (.trigger h)))) ∧
  (
    let arrive := fun (i : Instr) (h : Hdr) (team : Bool) (n : Nat) (wait : Bool) => ∀ s e, Acts s h e →
      let b := s.getBar e.g team n
      (∀ l ∈ e.act, (e.g.gid, l) ∉ b.arrived) →
      let t := ((s.launch e (e.op s h i)).setBar e.g team n { b with arrived := b.arrived ++ e.act.map fun l => (e.g.gid, l) }).modWarp
        e.g.gid e.w.wid fun w => if wait then w else w.coverWrites (barNo team n)
      exec i s = .next (if wait then t.modLanes e.g.gid e.act fun _ l => l.blockAt (.barrier team n) else t)
    (∀ h (n : BitVec 4), arrive (.bar h n) h false n.toNat true ∧ arrive (.barArr h n) h false n.toNat false) ∧
    (∀ h (n : BitVec 2), arrive (.bart h n) h true n.toNat true ∧ arrive (.bartArr h n) h true n.toNat false)) ∧
  (∀ s h (n : BitVec 10) e t r, Acts s h e → s.takeOf e.g = some t → t.slate.flags[n.toNat]? = some r →
    exec (.tflag h n) s = .next (s.addOp { e.op s h (.tflag h n) with after := (s.ops.filter fun p => p.gid == e.g.gid &&
      p.owners.contains e.w.wid && p.due.isNone && p.at_ != .held && Instr.writesMem p.instr && p.inRange r).map Op.id }))) ∧
  (∀ s team g n y, s.findGroup g = some y → s.barDone y team n = true →
    exec (.barrierComplete team g n) s = .next ((s.barGroups y team).1.foldl (fun (s : State) (k : Group) =>
      let ls := (List.range k.lanes.length).filter fun l => (k.lane l).at_ == .barrier team n
      let s := s.modGroup k.gid fun y => y.barred (barNo team n) ls
      if ls.isEmpty then s
      else
        let u := (s.acquireAt k (bit team)).modLanes k.gid ls fun _ l => { l with at_ := .live, age := 0 }
        (u.ops.filter fun o => o.gid == k.gid && Instr.barOf o.instr == some (team, n, true)).foldl State.finishOp u)
      (s.setBar y team n ⟨!(s.getBar y team n).phase, []⟩)))

/-! ### System instructions -/

/-- The system instructions: in a kernel each is the program error 0x2109 whatever its guard (R209, R211); in a privileged context each is
checked at its issue (R418) and goes out as a release at scope 3 (R417); of operands that were read too early no fault arises (R31). SYSRD
reads a context register as R412 to R414 lay it out, and a device register as the host does (R415, R418). -/
def Obligations.SystemInstructionsIssue : Prop :=
  (∀ (s : State) (g : Group) (sel reg : Nat) (c : Ctx), reg < 0x1000 → s.target g sel = .ok c →
    s.sysRead g sel 0 = .ok (BitVec.ofNat 64 (c.id + 2 ^ 12 * c.dpart + 2 ^ 16 * bit c.priv + 2 ^ 17 * bit c.dpriv)) ∧
    s.sysRead g sel 1 = .ok c.take ∧ s.sysRead g sel 2 = .ok c.ptroot ∧
    s.sysRead g sel 3 = .ok (BitVec.ofNat 64 (bit c.debug + 2 * bit c.stop + 4 * c.state + 16 * bit c.taint)) ∧
    s.sysRead g sel 4 = .ok c.trapring ∧ s.sysRead g sel 5 = .ok (BitVec.ofNat 64 (c.head.toNat + 2 ^ 32 * c.tail.toNat)) ∧
    s.sysRead g sel 6 = .ok c.trapsem ∧ s.sysRead g sel 7 = .ok c.slate ∧ s.sysRead g sel 8 = .ok c.script ∧
    s.sysRead g sel 9 = .ok c.peertab ∧
    ((10 ≤ reg ∧ reg < 0x40) ∨ 0x80 ≤ reg → s.sysRead g sel reg = .error 0x21C0)) ∧
  (∀ (s : State) (g : Group) (sel reg : Nat), 0x1000 ≤ reg →
    (s.devicePrivileged g = false → s.sysRead g sel reg = .error 0x21C2) ∧
    (s.devicePrivileged g = true → regAccess (8 * (reg - 0x1000)) ≠ .absent → s.sysRead g sel reg = .ok (s.readDev (8 * (reg - 0x1000)))) ∧
    (s.devicePrivileged g = true → regAccess (8 * (reg - 0x1000)) = .absent → s.sysRead g sel reg = .error 0x21C0)) ∧
  let sys := fun (i : Instr) (h : Hdr) (codes dst : List Nat) (vals : State → Env → List Nat) => ∀ s e, s.env h.guard = some e →
    (s.privileged e.g = false → exec i s = .next (s.progError e.g.gid e.w.wid 0x2109 e.iss.lanes 0)) ∧
    (s.privileged e.g = true → e.act ≠ [] → e.lost = [] → e.g.codesFault (codes ++ dst) = none → s.sysFault e.g i (vals s e) = none →
      let o := { e.op s h i with vals := vals s e, status := bit (s.early e codes) }
      exec i s = .next ((s.launch e o).unsettle o dst).renew) ∧
    (∀ f, s.privileged e.g = true → e.act ≠ [] → e.lost = [] → e.g.codesFault (codes ++ dst) = none → s.sysFault e.g i (vals s e) = some f →
      exec i s = .next (if s.early e codes then s.undefine e (e.op s h i) dst 0 else s.progError e.g.gid e.w.wid f.1 e.act f.2))
  (∀ h (o : SysrdOps), sys (.sysrd h o) h [640 + o.sel] [640 + o.d, 641 + o.d] fun s e => [s.uniS e false o.sel]) ∧
  (∀ h (o : SyswrOps), sys (.syswr h o) h [640 + o.sel, 640 + o.a, 641 + o.a] [] fun s e => [s.uniS e false o.sel, s.uniS e true o.a]) ∧
  (∀ h (o : TretOps), sys (.tret h o) h [640 + o.a, 641 + o.a] [640 + o.d] fun s e => [s.uniS e true o.a]) ∧
  (∀ h (o : TretOps), sys (.resume h o) h [640 + o.a, 641 + o.a] [640 + o.d] fun s e => [s.uniS e true o.a]) ∧
  (∀ h (o : Nat), sys (.tlbinvAll h o) h [640 + o] [] fun s e => [s.uniS e false o]) ∧
  (∀ h (o : RangeOps), sys (.tlbinvVa h o) h [640 + o.sel, 640 + o.a, 641 + o.a, 640 + o.n] []
    fun s e => [s.uniS e false o.sel, s.uniS e true o.a, s.uniS e false o.n]) ∧
  (∀ h (o : RangeOps), sys (.snapmark h o) h [640 + o.sel, 640 + o.a, 641 + o.a, 640 + o.n] []
    fun s e => [s.uniS e false o.sel, s.uniS e true o.a, s.uniS e false o.n]) ∧
  (∀ h (o : HaltOps), sys (.halt h o) h [640 + o.sel] [640 + o.d] fun s e => [s.uniS e false o.sel]) ∧
  (∀ h (o : HaltOps), sys (.haltKill h o) h [640 + o.sel] [640 + o.d] fun s e => [s.uniS e false o.sel])

/-- TRET and RESUME end the stop that their handle names, and say 0; 1 where no stop has the handle, 2 where it is of the other kind. A
translation stop's lanes return to the instruction, a trap's warp goes on after it (R423). -/
def Obligations.StopsEnd : Prop :=
  ∀ (s : State) (c : Ctx) (handle : Nat), s.findCtx (slice handle 0 12) = some c → handle ≠ 0 →
    (∀ tret, c.findStop handle = none → s.endByHandle tret handle = (s, 1)) ∧
    (∀ x, c.findStop handle = some x → x.kind = .translation → s.endByHandle true handle = (s, 2)) ∧
    (∀ x, c.findStop handle = some x → x.kind = .trap → s.endByHandle false handle = (s, 2)) ∧
    (∀ x g, c.findStop handle = some x → x.kind = .translation → x.gid ≠ haltGid → s.findGroup x.gid = some g →
      (s.endByHandle false handle).2 = 0 ∧ ∃ g', (s.endByHandle false handle).1.findGroup x.gid = some g' ∧ g'.s = g.s ∧
        ∀ i, i < g.lanes.length → g'.lane i = if (g.lane i).at_ = .parked x.no then { g.lane i with at_ := .live, age := 0 } else g.lane i) ∧
    (∀ x g w, c.findStop handle = some x → x.kind = .trap → x.gid ≠ haltGid → s.findGroup x.gid = some g → g.findWarp x.wid = some w →
      (s.endByHandle true handle).2 = 0 ∧ ∃ g' w', (s.endByHandle true handle).1.findGroup x.gid = some g' ∧
        g'.findWarp x.wid = some w' ∧ w'.halt = .run ∧ w'.flags = w.flags ∧
        ∀ i, i < g.lanes.length → (g'.lane i).pc = (g.lane i).pc ∧ (g'.lane i).v = (g.lane i).v ∧ (g'.lane i).at_ = (g.lane i).at_)

/-! ### Warps and groups -/

/-- WSYNC's lanes go on together (R236); GROW's grant gives the full allotment (R37, R38); a cut divides a warp and a splice joins two
(R51 to R58). -/
def Obligations.LanesAndWarpsGoOn : Prop :=
  (∀ (s : State) gid wid g w, s.findGroup gid = some g → g.findWarp wid = some w →
    exec (.wsyncRelease gid wid) s = .next (s.modLanes gid (g.wsyncFree w) fun _ l => { l with at_ := .live, age := 0 })) ∧
  (∀ (s : State) gid g t, s.findGroup gid = some g → s.takeOf g = some t → s.grantable g = true →
    let xs := restack (spansBy (s.residents g.agent) fun y => if y.gid = gid then t.slate.full.v else y.allot.v) []
    exec (.growGrant gid) s = .next ((({ s with groups := s.groups.map fun (y : Group) =>
      { y with spans := y.spans.mapIdx fun k (x : Span) => (xs.find? fun (z : Nat × Nat × Span) => z.1 == y.gid && z.2.1 == k).elim x fun z => z.2.2 } }).modGroup gid fun g =>
      g.grow t.slate.pro t.slate.full).trimL1 g.agent)) ∧
  (∀ (s : State) gid wid g w, s.findGroup gid = some g → g.findWarp wid = some w → g.cutReady w = true →
    exec (.cut gid wid) s = .next (if g.declared w.wid then s.progError gid wid 0x2121 (g.atCut w) 0 else s.cutWarp g w)) ∧
  (∀ (s : State) gid wid g x, s.findGroup gid = some g → g.findWarp wid = some x → g.arrived x = true →
    exec (.splice gid wid) s = .next (match g.verdict x with
      | .waits => s
      | .own c => s.giveOutcome gid x c
      | .both c y => (s.giveOutcome gid x c).giveOutcome gid y c
      | .joins y =>
        if g.declared x.wid then s.progError gid x.wid 0x2121 ((g.atSplice x).map Prod.fst) 0
        else if g.declared y.wid then s.progError gid y.wid 0x2121 ((g.atSplice y).map Prod.fst) 0
        else s.joinWarps g x y)) ∧
  (∀ (s : State) gid wid g w, s.findGroup gid = some g → g.findWarp wid = some w → s.warpDone g w = true →
    exec (.warpRetire gid wid) s = .next (s.modGroup gid fun g => { g with
      warps := (g.warps.filter fun (x : Warp) => x.wid != wid).map (Warp.forget wid)
      convs := g.convs.map (Conv.forget wid) })) ∧
  (∀ (s : State) gid g, s.findGroup gid = some g → s.groupDone g = true → exec (.groupRetire gid) s = .next (s.leave g))

/-- A cut leaves a lower and an upper half of half the width that take over the warp's lanes in order, with its flags and their own part of
each rejoin mask; no register changes (R49, R52). -/
def Obligations.CutsHalveTheWarp : Prop :=
  ∀ (s : State) g w gid, s.findGroup gid = some g → g.gid = gid → g.findWarp w.wid = some w → g.cutReady w = true →
    g.declared w.wid = false → w.width % 8 = 0 →
    ∃ t g', exec (.cut gid w.wid) s = .next t ∧ t.mem = s.mem ∧ t.findGroup gid = some g' ∧ g'.s = g.s ∧ g'.banks = g.banks ∧
      g'.warps.length = g.warps.length + (g.warps.filter fun x => x.wid == w.wid).length ∧
      (∃ l u, l ∈ g'.warps ∧ u ∈ g'.warps ∧ l.wid = w.wid ∧ u.wid = g.nextWid ∧ l.width = w.width / 2 ∧ u.width = w.width / 2 ∧
        l.lane0 = w.lane0 ∧ u.lane0 = w.lane0 + w.width / 2 ∧ l.link = some u.wid ∧ u.link = some l.wid ∧
        l.links = w.link :: w.links ∧ u.links = w.link :: w.links ∧ l.flags = w.flags ∧ u.flags = w.flags ∧
        ∀ n, n < 4 → (NMap.get 0 l.j n).toNat = (NMap.get 0 w.j n).toNat % 2 ^ (w.width / 2) ∧
          (NMap.get 0 u.j n).toNat = (NMap.get 0 w.j n).toNat / 2 ^ (w.width / 2) % 2 ^ (w.width / 2)) ∧
      ∀ i, i < g.lanes.length → (g'.lane i).v = (g.lane i).v ∧ (g'.lane i).p = (g.lane i).p ∧ (g'.lane i).pc = (g.lane i).pc

/-! ### Takes -/

/-- Admission, trigger point and end of a grid (R38, R40, R430, R438, R439, R475), eviction and restoration (R39, R440, R441, R443): each
where it is due. What ends a take, or begins it again (R461, R466, R474, R476, R477), and the records of its stops (R420 to R422). -/
def Obligations.GroupsAndTakesComeAndGo : Prop :=
  ((∀ (s : State) tid t c spans, s.findTake tid = some t → s.offers t = true → s.nextPlaced (.new t) = true →
    s.roomFor (.new t) = some (c, spans) →
    exec (.groupAdmission tid) s = .next ((((s.addGroup (s.seat (s.offered t) (.core c) spans)).modTake tid
      fun t => { t with nextGroup := t.nextGroup + 1 }).acquireFlags (s.seat (s.offered t) (.core c) spans) c t).trimL1 c)) ∧
  (∀ (s : State) tid t, s.findTake tid = some t → s.triggers t = true →
    let u := s.modTake tid fun t => { t with triggerDone := true }
    exec (.triggerPoint tid) s = .next (if t.slate.deps.isEmpty then u.passLaunch t else u)) ∧
  (∀ (s : State) tid t, s.findTake tid = some t → s.gridDone t = true → t.tainted = true →
    exec (.gridEnd tid) s = .next (s.hwError tid 0x3123 0 0)) ∧
  (∀ (s : State) tid t, s.findTake tid = some t → s.gridDone t = true → t.tainted = false →
    let u := (s.freeCopies t).modTake tid fun t => { t with complete := true, copies := [], uncopied := [], copyDue := [], words := [] }
    let u := ({ u with teams := u.teams.filter fun x => x.take != tid }).modCtx t.ctx fun c =>
      { c with
        state := 3
        stops := []
        stop := false
        haltDue := false
        records := c.records.filter fun r => r.stop.isNone && !r.halt }
    exec (.gridEnd tid) s = .next ((u.modQueue t.cp t.queue fun q =>
      { q with grids := q.grids.filter fun x => x != tid }).loadTimer t.cp t.queue)) ∧
  (∀ (s : State) tid vs, (s.findTake tid).bind s.evictionFor = some vs → exec (.eviction tid) s = .next (s.evictAll vs)) ∧
  (∀ (s : State) c vs, s.deadlock c = some vs → exec (.growDeadlockEviction c) s = .next (s.evictAll vs)) ∧
  (∀ (s : State) gid g c, s.findGroup gid = some g → g.place = .evicting c → s.drained g = true → (s.takeOf g).all Take.going = true →
    exec (.evictionRecord gid) s = .next (((s.fileRecord gid).modGroup gid fun g => { g with place := .evicted, spans := [] }).modCtx (s.ctxOf g)
      fun c => { c with state := 2 })) ∧
  (∀ (s : State) gid g t c spans, s.findGroup gid = some g → s.takeOf g = some t → g.place = .evicted → t.going = true →
    s.nextPlaced (.old g t) = true → s.roomFor (.old g t) = some (c, spans) →
    let u := s.bringBack g c spans
    exec (.groupRestore gid) s = .next (if u.groups.any fun k => k.take == t.tid && k.place == .evicted then u
      else u.modCtx t.ctx fun c => { c with state := 1 }))) ∧
  ((∀ (s : State) tid t e, s.findTake tid = some t → t.err = some e → exec (.takeEnd tid) s = .next (s.endTake t e.code (s.errRecord t e))) ∧
  (∀ (s : State) tid t code path addr, s.findTake tid = some t → t.hwErr = some (code, path, addr) →
    exec (.retake tid) s = .next (
      if !t.slate.retake ∨ t.unrestorable ∨ 2 ≤ t.retakes ∨ t.laterEntry then
        let e := if !t.slate.retake then 0x3120 else if t.unrestorable then 0x3121 else if 2 ≤ t.retakes then 0x3122 else 0x3124
        let u := (s.logError code t.ctx false false false path t.number addr).logError e t.ctx false true false 0 t.number 0
        u.endTake t e (u.bareRecord t e)
      else
        let u := s.logError code t.ctx true false false path t.number addr
        (u.addRecord t.ctx (u.bareRecord t code)).retakeTake t)) ∧
  (∀ (s : State) tid t k, s.findTake tid = some t → k ∈ t.copyDue → exec (.snapshotCopy tid k) s = .next (s.copyGranule tid k)) ∧
  (∀ (s : State) c x r rs u, s.findCtx c = some x → x.records = r :: rs → x.ringValid = true → x.ringFull = false →
    s.cpWrite c x.recordAt 64 (r.bytes (r.handle x.head.toNat)) = some u →
    exec (.trapRecordWrite c) s = .next ((u.modCtx c fun c => { (c.noteHandle r (r.handle x.head.toNat)) with
      records := rs, head := c.head + 1 }).notifyTrap x)) ∧
  (∀ (s : State) c (tail : BitVec 17), exec (.trapptrTailWrite c tail) s = .next (s.modCtx c fun c => { c with tail := tail })))

/-- A lane as admitted: at the slate's code with its own key, every v register 0 with tag b32, no predicate, flag, loop or frame; the first
s registers hold the arguments and the others 0 (R40, R66, R75, R433). -/
def Obligations.AdmittedLanesStartClear : Prop :=
  ∀ (s : State) (t : Take) (i : Nat), i < t.slate.warps * t.slate.width →
    let g := s.offered t
    let l := g.lane i
    g.lanes.length = t.slate.warps * t.slate.width ∧ l.pc = BitVec.ofNat 64 t.slate.code ∧ l.at_ = .live ∧
    l.key = t.slate.seed ^^^ BitVec.ofNat 64 (1024 * t.nextGroup + i) ∧ l.ctr = 0 ∧ l.fp = 0 ∧ l.loops = [] ∧ l.depth = 0 ∧
    (∀ n, g.readV i n = (0, 0)) ∧ (∀ n, n < 7 → g.readP i n = false) ∧ g.readP i 7 = true ∧
    (∀ n, g.readS n = t.slate.args.getD n 0) ∧ g.groupId = t.nextGroup ∧ g.teamRank = t.nextGroup % t.slate.team

/-! ### Queues and contexts -/

/-- The entries of a queue, taken up at its head (R427 to R432, R434, R436, R437), and what happens to the queue itself (R428, R431,
R447). -/
def Obligations.QueueEntriesAct : Prop :=
  let takes := fun (s : State) (n q op : Nat) (e : Entry) (u : State) => s.queueOpen n q = true ∧ 4 ≤ s.qlogn n q ∧ s.qlogn n q ≤ 16 ∧
    s.headEntry n q = (u, .ok e.bits) ∧ e.fault = none ∧ e.op = op
  (∀ s n q e u c x, takes s n q 1 e u →
    let ctx := e.ctx.getD (u.qctx n q)
    u.findCtx ctx = some c → c.dpart = u.dpart n → c.state = 0 → (u.queueRun n q).begun = false →
    let b := u.begin_ n q e
    (b.cpRead ctx e.a 256).2 = .ok x → slateBad x = false →
    let t := (b.cpRead ctx e.a 256).1.readTables ctx x
    t.1.refusal n q c.dpart x t.2 = none →
    exec (.queueLaunch n q) s = .next (t.1.launchTake n q (newTake (b.takeCtr + 1) ctx n q (b.qhead n q) e.a
      (fullSlate x (b.qprio n q) t.2) (b.queueRun n q).lastGrid))) ∧
  (∀ s n q e u, takes s n q 2 e u → (u.queueRun n q).begun = false → exec (.queueSemwait n q) s = .next ((u.begin_ n q e).trySem n q e)) ∧
  (∀ s n q e u, takes s n q 2 e u → (u.queueRun n q).begun = true → u.semWritten n q e = true →
    exec (.queueSemwaitRetry n q) s = .next (u.trySem n q e)) ∧
  (∀ s n q e u t, takes s n q 3 e u → u.earlierDone n q = true → u.translateFresh (u.qctx n q) e.a .write = .ok t → e.a < 2 ^ 52 →
    let r := (u.keepFresh (u.qctx n q) e.a .write).cpAtomic (u.qctx n q) e.scope t (semAdd e.n)
    r.2.2 = false → exec (.queueSemsig n q) s = .next (r.1.advanceQueue n q)) ∧
  (∀ s n q e u, takes s n q 4 e u → u.earlierDone n q = true → (u.queueRun n q).begun = false →
    exec (.queueCopy n q) s = .next (u.begin_ n q e)) ∧
  (∀ s n q e u, takes s n q 4 e u → (u.queueRun n q).begun = true →
    let r := u.copyUnits8 n q e (e.n / 8 - (u.queueRun n q).wait)
    r.2 = none → exec (.queueCopyComplete n q) s = .next ((r.1.cpCover (u.qctx n q) e.b e.n).advanceQueue n q)) ∧
  (∀ s n q e u, takes s n q 5 e u → u.earlierDone n q = true → exec (.queueBarrier n q) s = .next (u.advanceQueue n q)) ∧
  (∀ s n q e u v, takes s n q 6 e u → u.earlierDone n q = true → u.cpWrite (u.qctx n q) e.a 8 (u.counter % 2 ^ 64) = some v →
    exec (.queueTimestamp n q) s = .next (v.advanceQueue n q)) ∧
  (∀ (s : State) n q (tail : BitVec 17), s.fullPath = true → n < 8 → q < 16 →
    exec (.qtailWrite n q tail) s = .next (s.setField (queueOff n q + 0x18) 0 17 tail.toNat)) ∧
  (∀ (s : State) n q, s.fullPath = true → n < 8 → q < 16 → exec (.errClear n q) s = .next (s.setField (queueOff n q + 8) 15 1 0)) ∧
  (∀ (s : State) n q, (s.queueRun n q).expired = true → s.dpart n < 8 →
    exec (.timeSliceExpiry n q) s = .next (s.partitionReset (s.dpart n) (some (n, q))))

/-! ### The device -/

/-- Contexts (R446), device partitions (R489), power (R491 to R496), self-test (R479, R480), repair and scrub (R130, R505). The host's writes
of these registers need its full register path (R500). That a GO, refused or started, drops the results of an earlier run, and that a GO during
a run is refused, is the model's reading (assumption 34); what PPR ignores and which rows it leaves undefined is assumption 36's. -/
def Obligations.DeviceIsManaged : Prop :=
  (∀ (s : State) (id : BitVec 12) (p : BitVec 3) priv dpriv, s.mode ≠ 2 → s.stage = 6 → s.stacksOf p.toNat ≠ [] → s.findCtx id.toNat = none →
    exec (.contextCreate id p priv dpriv) s =
      .next (({ s with ctxs := s.ctxs ++ [newCtx id.toNat p.toNat priv dpriv] }).setReg 0x3408 0)) ∧
  (∀ (s : State) (id : BitVec 12) c, s.findCtx id.toNat = some c → c.state = 0 → exec (.contextEnd id) s =
    .next (({ s with
      ctxs := s.ctxs.filter fun x => x.id != id.toNat
      tlb := s.tlb.filter fun x => x.ctx != id.toNat
      walkers := s.walkers.filter fun x => x.ctx != id.toNat
      seen := s.seen.filter fun x => x.ctx != id.toNat }).setReg 0x3408 0)) ∧
  (∀ (s : State) (id : BitVec 12) c, s.findCtx id.toNat = some c → c.state ≠ 0 → exec (.contextEnd id) s = .next (s.setReg 0x3408 2)) ∧
  (∀ (s : State) (v : BitVec 64), Listed s → s.ctxs = [] → s.stage = 6 → ∃ t, exec (.dpcfgWrite v) s = .next t ∧
    ∀ m, m < 8 → s.stackFailed m = false → t.dpart m = slice v.toNat (3 * m) 3) ∧
  (∀ (s : State) (p v : BitVec 3), s.fullPath = true → s.field (0x43000 + 8 * p.toNat) 0 3 ≠ v.toNat → exec (.pstateWrite p v) s =
    .next { s.setReg (0x43000 + 8 * p.toNat) (BitVec.ofNat 64 v.toNat) with
      domains := s.domains.modify p.toNat fun (d : Domain) => { d with pause := pauseMax } }) ∧
  (∀ (s : State) (p : BitVec 3), exec (.pstateResume p) s =
    .next { s with domains := s.domains.modify p.toNat fun (d : Domain) => { d with pause := 0 } }) ∧
  (∀ (s : State) (v : BitVec 16), s.fullPath = true → Listed s → ∃ t, exec (.clonWrite v) s = .next t ∧ t.regN 0x43040 = v.toNat ∧
    t.regN 0x43048 = s.regN 0x43048 ||| v.toNat ∧ t.mem = s.mem) ∧
  (∀ (s : State) (k : BitVec 4), Listed s → bitAt (s.regN 0x43040) k.toNat = false → ((List.range 4).all fun i => s.coreEmpty (4 * k.toNat + i)) = true →
    ∃ t, exec (.clusterPowerOff k) s = .next t ∧ bitAt (t.regN 0x43048) k.toNat = false ∧ t.mem = s.mem) ∧
  (∀ (s : State) (v : BitVec 64), s.fullPath = true → exec (.sconWrite v) s = .next ((s.setReg 0x43050 v).setReg 0x43058 (s.reg 0x43058 ||| v))) ∧
  (∀ (s : State) (k : BitVec 6), bitAt (s.regN 0x43050) k.toNat = false → s.residents (64 + k.toNat) = [] →
    exec (.stackCorePowerOff k) s = .next (s.setField 0x43058 k.toNat 1 0)) ∧
  (∀ (s : State) (m : BitVec 3) (v : BitVec 64), s.fullPath = true → 1 ≤ v.toNat % 2 ^ 11 → v.toNat % 2 ^ 11 ≤ 1024 →
    exec (.banklimWrite m v) s = .next (s.setReg (0x43060 + 8 * m.toNat) (BitVec.ofNat 64 (v.toNat % 2 ^ 11)))) ∧
  (∀ (s : State), s.frozen = false → exec .thermalTrip s = .next { (s.setField 0x430B8 0 1 1).setField 0x430B8 8 8
    (min 255 (s.field 0x430B8 8 8 + 1)) with frozen := true }) ∧
  (∀ (s : State), s.fullPath = true → s.frozen = true → exec .tripClear s = .next (if 95 < s.sensors / 2 ^ 16 then s.renew
    else ((s.takes.filter fun t => !t.complete).map Take.tid).foldl (fun (s : State) t => s.hwError t 0x3F01 0 0)
      { (s.setField 0x430B8 0 1 0).renew with frozen := false })) ∧
  (∀ (s : State) (scope : BitVec 10) (mask : BitVec 8),
    let t := s.setReg 0x30000 (BitVec.ofNat 64 (2 ^ 8 * scope.toNat + 2 ^ 32 * mask.toNat))
    s.fullPath = true → exec (.bistGo scope mask) s = .next (
      if s.bistRun ≠ 0 then t.setField 0x30008 0 2 3
      else if t.ctxs.any fun c => bitAt mask.toNat c.dpart && c.state != 0 then t.bistResults 3 []
      else { t.bistResults 1 [] with bistRun := 1 + 2 * scope.toNat + 2 ^ 11 * mask.toNat })) ∧
  (∀ (s : State) xs, s.bistRun ≠ 0 →
    let scope := slice s.bistRun 1 10
    let ms := (List.range 8).filter fun m => s.dpart m < 8 && bitAt (slice s.bistRun 11 8) (s.dpart m)
    exec (.bistDone xs) s = .next { (s.testMemory scope ms).bistResults 2 (testedPaths scope ms xs) with bistRun := 0 }) ∧
  (∀ (s : State) (v : BitVec 64), s.fullPath = true → s.ctxs = [] → s.field 0x45030 29 2 ≠ 1 → exec (.pprRepair v) s =
    .next (s.setReg 0x45030 (BitVec.ofNat 64 (slice v.toNat 0 28 + 2 ^ 29)))) ∧
  (∀ (s : State), s.field 0x45030 29 2 = 1 → exec (.pprDone false) s = .next (s.setField 0x45030 29 2 3) ∧
    let t := s.setField 0x45030 29 2 2
    exec (.pprDone true) s = .next (t.spoilRow (t.field 0x45030 0 3) (t.field 0x45030 3 6) (t.field 0x45030 9 4) (t.field 0x45030 13 15))) ∧
  (∀ (s : State) sec, isHost (32 * sec) = false → exec (.eccScrub sec) s = .next { s with poison := NMap.put false s.poison sec true })

/-- The resets, the straps and the supply (R448, R496, R498, R503), the host's accesses and link (R415, R481 to R483), peers over UALink
(R174, R484 to R488), and the security controller (R497 to R502). Accesses of the host at 2^39 and above, to its own memory, are the model's
choice (assumption 33); so are units of peers within one aligned 8 bytes, and partial elements in a reduce window (assumption 39), and the log
entry of a poisoned reduce unit (assumption 16). -/
def Obligations.OutsideActs : Prop :=
  (∀ (s : State), exec .coldReset s = .next (((List.range 8).foldl State.testStack (s.lost true)).bringUp false)) ∧
  (∀ (s : State), s.powered = true → exec .warmReset s =
    .next ((({ s.lost true with mem := s.mem, poison := s.poison, veil := s.veil }).setField 0x430B8 8 8
      (s.field 0x430B8 8 8)).bringUp true)) ∧
  (∀ (s : State) (p : BitVec 3), s.stacksOf p.toNat ≠ [] → exec (.functionReset p) s = .next (s.partitionReset p.toNat none)) ∧
  (∀ (s : State), exec .packageSupplyLoss s = .next (s.lost false)) ∧
  (∀ (s : State) a b, exec (.strapChange a b) s = .next { s with rstrap := a, ostrap := b }) ∧
  (∀ (s : State) w r ide, s.powered = true → 1 ≤ s.stage → w ∈ [0, 4, 8, 16] → r ≤ 6 → w = 0 ∨ 1 ≤ r →
    exec (.hostLinkRetrain w r ide) s = .next (s.setReg 0x40000 (BitVec.ofNat 64
      (if w = 0 then (if r = 0 then 0 else 2 ^ 8) else w + 2 ^ 5 * r + 2 ^ 9 + 2 ^ 10 * bit ide)))) ∧
  (∀ (s : State) port lanes (peer : BitVec 10), port < 24 → exec (.ualinkPortTrain port lanes peer) s =
    .next (s.trainPort port lanes peer.toNat)) ∧
  (∀ (s : State) fn w (a : BitVec 40) xs poison, (isHost a.toNat || (s.serving && s.field 0x40000 8 2 == 2 &&
      (fn == 0 || (s.dpart (slice a.toNat 36 3) + 1 == fn && fn < 9)))) = true →
    exec (.hostMemAccess w ⟨fn, a⟩ xs poison) s =
      .next (if w then s.hostWrite a.toNat xs.length (ofBytes xs) poison else (s.hostRead a.toNat xs.length).1)) ∧
  (∀ (s : State) line, s.serving = true → isHost (128 * line) = true →
    exec (.hostSnoop line) s = .next { s.evictLine line with snoops := s.snoops + 1 }) ∧
  (∀ (s : State) fn off (v : BitVec 64), s.fullPath = true → s.shows fn off = true → off < 0x1000000 →
    exec (.registerWrite ⟨fn, off⟩ v) s = .next (s.writeDev off v.toNat)) ∧
  (∀ (s : State) fn off (v : BitVec 64), s.shows fn off = false → exec (.registerWrite ⟨fn, off⟩ v) s = .next s) ∧
  (∀ (s : State) fn off (v : BitVec 64) c y, s.fullPath = true → s.shows fn off = true → 0x1000000 ≤ off → off < 0x1800000 → off % 8 = 0 →
    s.findCtx ((off - 0x1000000) / 0x800) = some c → c.write (off % 0x800 / 8) v.toNat = .ok y →
    exec (.registerWrite ⟨fn, off⟩ v) s = .next (s.modCtx ((off - 0x1000000) / 0x800) fun _ => y)) ∧
  (∀ (s : State) (from_ : BitVec 10) (ctx : BitVec 12) (va : BitVec 64) t w, s.serving = true → s.portUp = true →
    let a := va.toNat
    let in_ := fun (n : Nat) (fits : Window → Bool) (k : AccKind) => a % 8 + n ≤ 8 ∧ a + n ≤ 2 ^ 52 ∧
      (s.windows.find? fun w => w.takes from_.toNat ctx.toNat a n && fits w) = some w ∧ s.renew.translateFresh ctx.toNat a k = .ok t
    let at_ := fun (k : AccKind) => s.renew.keepFresh ctx.toNat a k
    let added := fun (xs : List Byte) =>
      let r := (((at_ .write).evictLine (lineOf t.a)).noteRaces none [(t.a, xs.length)]).readBelow t.a xs.length
      if r.2.2 then ((r.1.writeBelow t.a xs.length (r.1.free 971 0 % 2 ^ (8 * xs.length))).renew).logError 0x3301 0 false false false
        (cellPath t.a) 0 (t.pg.phys t.a)
      else r.1.writeBelow t.a xs.length (reduceSum w.bf16 xs.length r.2.1 (ofBytes xs))
    let poisoned := fun (below poison : Bool) (u : State) => if poison then u.setPoisonFor below t.a true else u
    (in_ (8 - a % 8) Window.rd .read → exec (.ualinkRead from_ ctx va) s = .next ((at_ .read).readHome t.a (8 - a % 8)).1) ∧
    (∀ (xs : List Byte) poison, in_ xs.length (fun w => w.kind == 1 || w.kind == 2) .write →
      (w.kind = 1 → exec (.ualinkWrite from_ ctx va xs poison) s =
        .next (poisoned false poison (((at_ .write).writeHome t.a xs.length (ofBytes xs)).noteRaces none [(t.a, xs.length)]))) ∧
      (w.kind = 2 → t.pg.place = 1 → xs.length % (if w.bf16 then 2 else 4) = 0 → t.a % (if w.bf16 then 2 else 4) = 0 →
        exec (.ualinkWrite from_ ctx va xs poison) s = .next (poisoned true poison (added xs)))) ∧
    (∀ b (xs : List Byte), in_ xs.length (fun w => w.kind == 2 && w.bf16 == b) .write → xs.length % (if b then 2 else 4) = 0 →
      a % (if b then 2 else 4) = 0 → t.a % (if b then 2 else 4) = 0 → t.pg.place = 1 →
      exec (.ualinkReduceWrite from_ ctx va b xs) s = .next (added xs)) ∧
    (∀ n : BitVec 32, in_ 4 (fun w => w.kind == 3) .write → a % 4 = 0 →
      exec (.ualinkAtomicAdd from_ ctx va n) s = .next ((at_ .write).cpAtomic ctx.toNat 2 t (semAdd n.toNat)).1)) ∧
  (∀ (s : State), s.secure = true → exec .attest s = .next s.attest ∧ exec .devkey s = .next s.devkey ∧ exec .enroll s = .next s.enroll ∧
    exec .revoke s = .next s.revoke ∧ exec .update s = .next s.update) ∧
  (∀ (s : State) (op : BitVec 4), s.secure = true → op = 0 ∨ 5 < op.toNat → exec (.securityBadOp op) s = .next (s.setReg 0x44010 (7 * 2 ^ 8)))

/-! ### Engines -/

/-- The matrix engine: MDECL opens a register, MSIGN signs (R325, R327), an MMA is staged (R326), and the tile operations, MFENCE and
MWAIT take their places (R330 to R332). -/
def Obligations.MatrixInstructionsIssue : Prop :=
  (∀ s h (o : MdeclOps) e ws, Acts s h e → e.g.onStack = false → e.g.codesFault ((List.range 4).map fun j => 640 + o.sm + j) = none →
    (((List.range 128).filter fun b => bitAt (s.declMask e o.sm (b / 32)) (b % 32)).map fun b =>
      e.g.warps.find? fun w => w.part == b / 32 && w.slot == b % 32) = ws.map some → ws ≠ [] → (e.g.conv o.c.toNat).st = .idle →
    exec (.mdecl h o) s = .next ((s.setConv e.g.gid o.c.toNat { Conv.idle with
        st := .open, declared := ws.map Warp.wid, past := (e.g.conv o.c.toNat).past }).addOp
      { e.op s h (.mdecl h o) with due := some (s.now e.g + 4) })) ∧
  (∀ s h (n : BitVec 3) e, Acts s h e → e.g.onStack = false →
    let c := e.g.conv n.toNat
    c.st = .open → c.declared.contains e.w.wid = true → c.signed.contains e.w.wid = false →
    exec (.msign h n) s = .next ((s.setConv e.g.gid n.toNat { c with
        signed := c.signed ++ [e.w.wid]
        affected := e.w.dirty.foldl (fun m k => NMap.put false m k.1 true) c.affected }).addOp
      { e.op s h (.msign h n) with due := some (s.now e.g + 4) })) ∧
  (∀ s h (o : MmaOps) e bw f started, Acts s h e →
    Commands s e ([tileCode o.t.toNat, tileCode (o.t.toNat + 1)] ++ (List.range 16).map fun j => 640 + o.blk + j) o.bw bw →
    let c := e.g.conv o.c.toNat
    let regs := (List.range 16).map fun j => s.uniS e false (o.blk + j)
    let op := { e.op s h (.mma h o) with bw := bw, vals := regs }
    (e.g.tile o.t.toNat).tag = 6 → (e.g.tile (o.t.toNat + 1)).tag = 6 → c.st = .open → c.staged = none → mmaFormats o = some f →
    s.blockCheck e.g ⟨f.1, f.2.1, f.2.2, o.sp, regs⟩ = .ok started →
    exec (.mma h o) s = .next (if started then (s.addOp op).setConv e.g.gid o.c.toNat { c with staged := some op.id }
      else (s.addOp { op with at_ := .held, status := 1 }).modLanes e.g.gid e.act fun _ l => l.blockAt (.held op.id))) ∧
  (∀ s h (n : BitVec 4) e, Acts s h e → e.g.codesFault [tileCode n.toNat] = none →
    exec (.mzero h n) s = .next ((s.addOp (e.op s h (.mzero h n))).startTile (e.op s h (.mzero h n)) e.g n.toNat [])) ∧
  (
    let tile := fun (i : Instr) (h : Hdr) (ty : Ty) (t rec_ : Nat) (f32 : Bool) => ∀ s e b, Acts s h e →
      e.g.codesFault [tileCode t, 640 + rec_, 641 + rec_] = none → (f32 = true → (e.g.tile t).tag = 6) →
      let x := s.uniS e true rec_
      s.recCheck e.g x (tileRow ty) 128 = .ok b →
      exec i s = .next ((s.issueTile e { e.op s h i with vals := [x] } t b (s.recUnits e.g x (tileRow ty) 128)).markEarly s.nextOp
        (s.early e [640 + rec_, 641 + rec_]))
    (∀ h (o : MloadOps), tile (.mload h o) h o.ty o.t.toNat o.record false) ∧
    (∀ h (o : MoutOps), tile (.mout h o) h o.ty o.t.toNat o.record true)) ∧
  (∀ s h e, Acts s h e → e.g.onStack = false →
    let ids := (s.ops.filter fun p => p.gid == e.g.gid && p.owners.contains e.w.wid && (match p.instr with
      | .sts _ _ | .atoms _ _ => true
      | _ => false)).map Op.id
    let t := s.modWarp e.g.gid e.w.wid fun w => { w with hold := ids, dirty := [] }
    exec (.mfence h) s = .next (if ids = [] then t else t.addOp { e.op t h (.mfence h) with after := ids })) ∧
  (∀ s h (n : BitVec 3) e, Acts s h e → e.g.onStack = false →
    let op := { e.op s h (.mwait h n) with at_ := .held }
    exec (.mwait h n) s = .next (if (e.g.conv n.toNat).st = .idle then s.settleTiles e.g.gid n.toNat
      else (s.addOp op).modLanes e.g.gid e.act fun _ l => l.blockAt (.held op.id)))

/-- A staged MMA issues once every declared warp has signed (R327); it completes with each element of its tile pair the old one plus its
products and outliers (R101 to R105, R328), and its register idle; then its MWAITs go on (R331). -/
def Obligations.MatricesMultiply : Prop :=
  (∀ (s : State) gid c g o, s.findGroup gid = some g → g.mmaReady c = true → (g.conv c).staged.bind s.findOp = some o →
    let ts := Instr.tilesOf o.instr
    ∃ t g', exec (.mmaIssue gid c) s = .next t ∧ t.findGroup gid = some g' ∧ g'.conv c = { g.conv c with
      st := .issued, affected := (s.loose gid (g.conv c)).foldl (fun m k => NMap.put false m k true) (g.conv c).affected } ∧
      g'.lanes = g.lanes ∧ g'.banks = g.banks ∧
      ∀ i, i < g.tiles.length → g'.tile i = if i ∈ ts then { g.tile i with wait := some c } else g.tile i) ∧
  (∀ (s : State) op h x g o b, s.findOp op = some o → o.instr = .mma h x → s.findGroup o.gid = some g → o.mmaBlock = some b →
    s.mmaMayEnd o g = true → x.t.toNat + 1 < g.tiles.length →
    let c := x.c.toNat
    let d := s.mmaRead g b (g.conv c).affected
    let pair := fun (k : Nat) => x.t.toNat + k
    ∃ t g', exec (.mmaComplete op) s = .next t ∧ t.findGroup o.gid = some g' ∧ (g'.conv c).st = .idle ∧ g'.lanes = g.lanes ∧
      g'.banks = g.banks ∧ g'.s = g.s ∧
      ∀ k i n, k < 2 → i < 128 → n < 128 → (g'.tile (pair k)).at i n =
        if o.ctr = 1 ∨ d.all = true ∨ d.badRow.getD i true = true ∨ d.badCol.getD (128 * k + n) true = true
        then BitVec.ofNat 32 (s.free (610 + k) (128 * i + n))
        else BitVec.ofNat 32 (mmaValue b d ((g.tile (pair k)).at i n) i (128 * k + n))) ∧
  (∀ (s : State) op h c g o, s.findOp op = some o → o.instr = .mwait h c → s.findGroup o.gid = some g → (g.conv c.toNat).st = .idle →
    g.place = .core g.agent →
    exec (.mwaitRelease op) s = .next (((s.settleTiles g.gid c.toNat).freeHeld o).finishOp o))

/-- AWALK starts a walk whose two descriptors are in order, ASTOP ends it after its current point, and each point is read and pushed to its
queue, or written to its place, whose lines are absent from the point's start until it lands (R121, R333 to R336). -/
def Obligations.WalksRun : Prop :=
  (∀ s h (o : AwalkOps) e bw a b td wd, Acts s h e → e.g.onStack = false →
    Commands s e [640 + o.desc, 641 + o.desc, 640 + o.walk, 641 + o.walk] o.bw bw →
    let ta := s.uniS e true o.desc
    let wa := s.uniS e true o.walk
    ta < 2 ^ 52 → wa < 2 ^ 52 → ta % 64 = 0 → wa % 64 = 0 →
    s.engineReadSpan e.g e.g.engineIn e.g.poisonCode ta 64 = (a, td, none) →
    a.engineReadSpan e.g e.g.engineIn e.g.poisonCode wa 64 = (b, wd, none) →
    descFault td = none → walkFault wd (descRank td) e.g.allot.queues = none →
    exec (.awalk h o) s = .next (b.addOp { e.op s h (.awalk h o) with
      bw := bw
      vals := [if walkScratch wd then 8192 else slice wd 428 3, td, wd, 0]
      at_ := if walkPoints wd = 0 then .ready else .issued
      after := b.engineAfter e.w.wid e.g.gid s.nextOp [] [] })) ∧
  (∀ s h (n : BitVec 3) e, Acts s h e → e.g.onStack = false → Commands s e [] none none →
    exec (.astop h n) s = .next (match s.walkOf e.g.gid n.toNat with
      | none => s
      | some op => s.modOp op.id fun p => { p with
          vals := p.vals.set 3 1
          at_ := if p.at_ == .issued && p.lvals.isEmpty then .ready else p.at_ })) ∧
  (∀ (s : State) op o g h x, s.findOp op = some o → s.findGroup o.gid = some g → o.instr = .awalk h x → s.walkMayStep o g = true →
    let q := o.vals.getD 0 0
    let w := o.vals.getD 1 0
    let wd := o.vals.getD 2 0
    let n := runBytes w wd
    let r := s.walkRun g o w wd
    (∀ k ws rest, o.lvals = (k, ws) :: rest → k ≠ 1 →
      exec (.walkPoint op) s = .next ((s.pushWords g.gid q ws (descTag w)).1.modOp op fun p =>
        p.walked wd false (s.pushWords g.gid q ws (descTag w)).2)) ∧
    (o.lvals = [] → walkScratch wd = false →
      exec (.walkPoint op) s = .next ((r.1.pushWords g.gid q (runWords n r.2.2) (descTag w)).1.modOp op fun _ =>
        r.2.1.walked wd true (r.1.pushWords g.gid q (runWords n r.2.2) (descTag w)).2)) ∧
    (∀ y, o.lvals = [] → walkScratch wd = true → s.walkPlace g wd o.ctr n = some (some y) →
      exec (.walkPoint op) s = .next ((s.addPendings (runLines y n)).modOp op fun p => { p with lvals := [(1, [y.1, y.2.1, y.2.2])] })) ∧
    (∀ y : Nat × Nat × Nat, o.lvals = [(1, [y.1, y.2.1, y.2.2])] →
      let u : MUnit := ⟨.bank y.1 y.2.1 y.2.2, n⟩
      exec (.walkPoint op) s = .next ((((r.1.landUnit u r.2.2).noteOperands o false [u]).subPendings (runLines y n)).modOp op fun _ =>
        r.2.1.walked wd true [])) ∧
    (o.lvals = [] → walkScratch wd = true → s.walkPlace g wd o.ctr n = none →
      exec (.walkPoint op) s = .next (s.modOp op fun p => { p.fails 0x21A1 0 0 0 with at_ := .ready }))) ∧
  (∀ (wd l : Nat), (∀ k, k < 5 → walkCount wd k ≠ 0) → l < 5 → ∀ j, j < walkPoints wd →
    walkTrip wd j l < walkCount wd l ∧ (j = 0 → walkTrip wd j l = 0))

/-- The bit-plane commands issue: the operands of each are checked, and it waits for its place in the group's order (R337 to R346, R511). -/
def Obligations.PlaneCommandsIssue : Prop :=
  (∀ s h (o : PlallocOps) e, Acts s h e → e.g.onStack = false → Commands s e [640 + o.mask, 641 + o.mask] none none →
    let m := s.uniS e true o.mask
    m ≠ 0 → o.w ≠ 0 → o.w.toNat ≤ 12 → o.w.toNat ≤ e.g.allot.ways → (∀ k, k < 64 → bitAt m k = true → s.dpart (k / 8) = s.domainOf e.g.agent) →
    exec (.plalloc h o) s = .next (s.issuePlane e (.plalloc h o) h none [m, o.w.toNat])) ∧
  (∀ s h e, Acts s h e → e.g.onStack = false → Commands s e [] none none →
    exec (.plfree h) s = .next (s.issuePlane e (.plfree h) h none [])) ∧
  (
    let move := fun (i : Instr) (h : Hdr) (o : PlfillOps) => ∀ s e bw, Acts s h e → e.g.onStack = false →
      Commands s e ([640 + o.addr, 641 + o.addr] ++ (List.range 4).map fun j => 640 + o.cmd + j) o.bw bw →
      let a := s.uniS e true o.addr
      let w := s.uniS e true o.cmd + 2 ^ 64 * s.uniS e true (o.cmd + 2)
      moveFault w a = none → exec i s = .next (s.issuePlane e i h bw [a, w])
    (∀ h o, move (.plfill h o) h o) ∧ ∀ h o, move (.pldrain h o) h o) ∧
  (
    let word := fun (i : Instr) (h : Hdr) (cmd : Nat) (b : Option Bw) (bad : Nat → Bool) => ∀ s e bw, Acts s h e → e.g.onStack = false →
      Commands s e [640 + cmd, 641 + cmd] b bw → bad (s.uniS e true cmd) = false →
      exec i s = .next (s.issuePlane e i h bw [s.uniS e true cmd])
    (∀ h (o : PlopOps), word (.plop h o) h o.cmd o.bw fun w =>
      wordBad true (plopUses o.op.toNat).1 (plopUses o.op.toNat).2.1 (plopUses o.op.toNat).2.2 w) ∧
    (∀ h (o : PlopOps), word (.plmul h o) h o.cmd o.bw (wordBad true true (o.op.toNat == 0) (o.op.toNat != 0))) ∧
    (∀ h (o : PlcmpOps), word (.plcmp h o) h o.cmd o.bw fun w => wordBad true true (!o.imm) o.imm w || fieldWidth (partD w) != 1) ∧
    (∀ h (o : PlselOps), word (.plsel h o) h o.cmd o.bw fun w => wordBad true true true true w || slice (partX w) 9 7 != 0)) ∧
  (∀ s h (o : PldotOps) e bw, Acts s h e → e.g.onStack = false → Commands s e [640 + o.z, 640 + o.cmd, 641 + o.cmd] o.bw bw →
    let w := s.uniS e true o.cmd
    let regs := (dotN w * dotWq w + 31) / 32
    wordBad true true false true w = false → slice (partX w) 12 4 = 0 → fieldBase (partA w) + dotN w * fieldWidth (partA w) ≤ 512 →
    o.z + regs ≤ e.g.allot.s → exec (.pldot h o) s = .next (s.issuePlane e (.pldot h o) h bw
      [w, ((List.range regs).map fun j => s.uniS e false (o.z + j) * 2 ^ (32 * j)).sum])) ∧
  (
    let out := fun (i : Instr) (h : Hdr) (addr cmd align : Nat) (b : Option Bw) (good : Nat → Prop) => ∀ s e bw, Acts s h e →
      e.g.onStack = false → Commands s e [640 + addr, 641 + addr, 640 + cmd, 641 + cmd] b bw →
      let a := s.uniS e true addr
      good (s.uniS e true cmd) → a < 2 ^ 52 → a % align = 0 →
      exec i s = .next (s.issuePlane e i h bw [s.uniS e true cmd, a])
    (∀ h (o : PlredOps), out (.plred h o) h o.addr o.cmd 4 o.bw fun w => wordBad false true false true w = false ∧
      slice (partX w) 5 11 = 0 ∧ (slice (partX w) 0 5 ≤ 11 ∨ slice (partX w) 0 5 = 31)) ∧
    (∀ h (o : PlbmapOps), out (.plbmap h o) h o.addr o.cmd 8 o.bw fun w => wordBad false true false true w = false ∧
      slice (partX w) 1 15 = 0 ∧ fieldWidth (partA w) = 1))

/-- A plane command starts in its order: with no array it fails with 0x2183, else it acts on the array (R339, R341). One that computes into a
field D leaves each lane's field holding its result, wrapped, or clamped under .sat, and every other plane of the lane as it was (R107, R338). -/
def Obligations.PlaneCommandsAct : Prop :=
  (∀ (s : State) op o g, s.findOp op = some o → s.findGroup o.gid = some g → s.planeMayStart o g = true →
    let done := fun (r : State × Op) => exec (.planeCommandStart op) s = .next (r.1.modOp op fun _ => { r.2 with at_ := .ready })
    (∀ h x, o.instr = .plalloc h x → done (s.startAlloc g o)) ∧
    (∀ h, o.instr = .plfree h → done (s.modGroup g.gid fun g => { g with plane := none }, o)) ∧
    ((∀ h x, o.instr ≠ .plalloc h x) → (∀ h, o.instr ≠ .plfree h) →
      (g.plane = none → done (s, o.fails 0x2183 0 0 0)) ∧
      ∀ p, g.plane = some p → done ((s.runPlane g o p).1.modGroup g.gid fun g => { g with plane := some (s.runPlane g o p).2.2 },
        (s.runPlane g o p).2.1))) ∧
  (∀ (s : State) (p : Plane) sat w srcs (f : BitVec 512 → Int) n, n < p.count →
    (∀ a ∈ srcs, clashes (partD w) (fieldBase a) (fieldWidth a) true = false) → fieldBad (partD w) = false →
    let d := partD w
    let v := p.lane n
    let q := (s.planeMap p sat w srcs f).lane n
    slice q.toNat (fieldBase d) (fieldWidth d) = fieldCode d sat (f v) ∧
    (∀ b, b < fieldBase d ∨ fieldBase d + fieldWidth d ≤ b → bitAt q.toNat b = bitAt v.toNat b)) ∧
  (∀ (d : Nat) (sat : Bool) (x : Int) (v : BitVec 512), fieldBad d = false →
    let y := fieldVal d (putField d v (fieldCode d sat x))
    (sat = false → (x - y) % ((2 ^ fieldWidth d : Nat) : Int) = 0) ∧
    (sat = true → y = if fieldSigned d then clampInt (-(2 ^ (fieldWidth d - 1) : Nat)) ((2 ^ (fieldWidth d - 1) : Nat) - 1) x
      else clampInt 0 ((2 ^ fieldWidth d : Nat) - 1) x))

/-! ### Calls to stacks, the base dies, the fabric -/

/-- Near-memory calls: NCALL.L sends a lane's words to the stack of its target and waits for the reply, NCALL.B launches a block, NJOIN waits
for its mask, and NRET replies (R168, R349 to R353). -/
def Obligations.CallsIssue : Prop :=
  (∀ s h (o : NcallLOps) e u v pc ts, Acts s h e → e.g.onStack = false → e.w.errSlots = none →
    e.g.codesFault ([o.vd] ++ (if o.nr2 then [o.vd + 1] else []) ++ (callArgs o).flatMap Arg.codes ++ [640 + o.sr, 641 + o.sr]) = none →
    let rows := (s.readRows e (callArgs o)).2
    let range := s.uniS e true o.sr
    badTags (callArgs o) rows = [] → rangeBad range = false → Enters s e o.entry.toNat u pc →
    u.callTargets e (rows.map fun x => (x.1, (x.2.headD default).val)) = (v, ts, []) →
    let op := { e.op v h (.ncallL h o) with
      vals := [pc, range] ++ (List.range 8).filter fun m => ts.any fun t => e.act.contains t.1 && t.2.pg.stack == m
      lvals := (rows.filter fun x => e.act.contains x.1).map fun x => (x.1, bit x.haz :: x.2.map Opnd.val)
      accs := (ts.filter fun t => e.act.contains t.1).map fun t => Acc.mk t.1 [⟨.mem t.2.a t.2.pg, 1⟩] t.2.a }
    exec (.ncallL h o) s = .next (((v.launch e op).modWarp e.g.gid e.w.wid fun w =>
      { w with j := NMap.put 0 w.j o.j.toNat (NMap.get 0 w.j o.j.toNat &&& ~~~(BitVec.ofNat 64 (laneMask e.w.lane0 e.act))) }).block e e.act
      fun _ => .pool op.id)) ∧
  (∀ s h (o : NcallBOps) e bw u pc, Acts s h e → e.g.onStack = false → Commands s e ((List.range 16).map fun j => 640 + o.blk + j) (some o.bw) bw →
    let b : CallBlock := ⟨(List.range 16).map fun j => s.uniS e false (o.blk + j)⟩
    b.bad = false → s.dpart b.stack = s.domainOf e.g.agent → (∀ w ∈ b.ranges, rangeBad w = false) →
    (∀ w ∈ s.argWords e.g b, ∀ c, w ≠ .error c) → Enters s e b.entry u pc →
    exec (.ncallB h o) s = .next (u.launch e { e.op u h (.ncallB h o) with
      bw := bw, vals := pc :: b.regs, lvals := [(0, u.argKeys e.g b), (1, [])] })) ∧
  (∀ s h (o : NjoinOps) e, Acts s h e → e.g.codesFault (regCodes true o.mask) = none →
    let rows := (s.readRows e [Arg.reg .i64 o.mask]).2
    badTags [Arg.reg .i64 o.mask] rows = [] →
    let op := { e.op s h (.njoin h o) with
      at_ := .held
      lvals := rows.map fun x => (x.1, [(x.2.headD default).val])
      after := s.orderAfter e.w.wid (e.op s h (.njoin h o)) }
    exec (.njoin h o) s = .next ((s.addOp op).block e e.act fun _ => .held op.id)) ∧
  (∀ s h (o : NretOps) e, Acts s h e → e.g.codesFault ((nretArgs o).flatMap Arg.codes) = none →
    let r := s.readRows e (nretArgs o)
    let words := fun (i : Nat) => ((r.2.find? fun x => x.1 == i).elim [] Prod.snd).map fun (x : Opnd) =>
      if x.haz then none else some (BitVec.ofNat 32 x.val)
    exec (.nret h o) s = .next (match e.g.kind with
      | .kernel => s.fail e 0x2164 e.act 0
      | .block _ => s.retire e.g.gid e.act
      | .gathered _ => (r.1.sendReplies e.g e.act words).retire e.g.gid e.act))

/-- Messages are delivered where their stack has room, replies land, blocks start and end (R159, R168 to R171, R353), an NJOIN's lanes go on
once their masks are covered (R350), and a trapped warp moves to a core (R165, R166). -/
def Obligations.CallsAct : Prop :=
  (∀ (s : State) o g m, s.findOp o.id = some o → s.findGroup o.gid = some g → o.mayDeliver m = true →
    exec (.ncallLDeliver o.id m) s = .next (s.deliver o g m)) ∧
  (∀ (pc : Nat) (c : Lane) (t : Nat) (xs : List Nat), t < 2 ^ 64 → xs.length ≤ 4 → (∀ x ∈ xs, x < 2 ^ 32) →
    let l := calleeLane pc c (t :: xs)
    l.pc = BitVec.ofNat 64 pc ∧ l.at_ = .live ∧ l.key = c.key ∧ l.ctr = c.ctr ∧ l.depth = c.depth ∧ l.home = c.home ∧ l.fp = 0 ∧ l.loops = [] ∧
    (∀ j, j < xs.length → NMap.get (0, 0) l.v j = (BitVec.ofNat 32 (xs.getD j 0), 0)) ∧
    NMap.get (0, 0) l.v 4 = (BitVec.ofNat 32 t, 3) ∧ NMap.get (0, 0) l.v 5 = (BitVec.ofNat 32 (t / 2 ^ 32), 3) ∧
    ∀ j, (xs.length ≤ j ∧ j < 4) ∨ 6 ≤ j → NMap.get (0, 0) l.v j = (0, 0)) ∧
  (∀ (s : State) op h x o g r, s.findOp op = some o → o.instr = .ncallL h x → s.findGroup o.gid = some g → s.nextReply o = some r →
    let v := ((s.dropRanges g (s.callMoved o r.callee) [o.vals.getD 1 0]).spoilRaced op).watch ⟨g.gid, some x.j.toNat, [r.lane], none, o.dsts⟩
    let u := (v.landReply o x r).modOp op fun p => { p with
      replies := p.replies.erase r
      lanes := p.lanes.filter fun l => l != r.lane }
    exec (.ncallReply op) s = .next (match u.findOp op with
      | some p => if p.lanes = [] then u.finishOp p else u
      | none => u)) ∧
  (∀ (s : State) op h x o g, s.findOp op = some o → o.instr = .ncallB h x → s.findGroup o.gid = some g → o.at_ = .issued → o.after = [] →
    exec (.ncallBDeliver op) s = .next (s.deliverBlock o g)) ∧
  (∀ (s : State) gid y op o g, s.findGroup gid = some y → y.kind = .block op → s.findOp op = some o → s.findGroup o.gid = some g →
    s.idleGroup y = true →
    let v := ((s.dropRanges g (s.callMoved o gid) (CallBlock.ranges ⟨o.vals.drop 1⟩)).spoilRaced op).watch
      ⟨g.gid, none, [], o.bw.map Prod.fst, o.dsts⟩
    let u := v.dropWatches fun k => k == gid
    exec (.ncallBComplete gid) s = .next (({ u with
      groups := u.groups.filter fun k => k.gid != gid
      channels := u.channels.filter fun c => c.owner != gid }).modOp op fun p => { p with at_ := .ready })) ∧
  (∀ (s : State) op h x o g w, s.findOp op = some o → o.instr = .njoin h x → s.findGroup o.gid = some g → g.findWarp o.wid = some w →
    o.joined w x.j.toNat ≠ [] → o.after = [] → g.inPlace = true →
    let ls := o.joined w x.j.toNat
    let u := ((s.acquireAt g 2).endJoin g.gid x.j.toNat (o.joinedFor w ls)).modLanes g.gid ls fun _ l =>
      if l.at_ = .held op then { l with at_ := .live, age := 0 } else l
    let rest := o.lvals.filter fun y => !ls.contains y.1
    exec (.njoinRelease op) s = .next (if rest = [] then u.finishOp o else u.modOp op fun p => { p with lvals := rest, lanes := rest.map Prod.fst })) ∧
  (∀ (s : State) gid wid g w, s.findGroup gid = some g → g.mayMove = true → g.findWarp wid = some w → w.halt = .trapping →
    let off := 0x20040 + 8 * g.stackNo
    let u := s.setField off 0 32 (s.field off 0 32 + 1)
    let v := u.modGroup gid fun y => { y with place := .toCore ((u.callerOf g).elim g.caller Group.agent), spans := [] }
    exec (.returnTrap gid wid) s = .next (v.rebase gid (u.now g) ((v.findGroup gid).elim 0 v.now))) ∧
  (∀ (s : State) gid g c spans, s.findGroup gid = some g → s.moveTarget g = some c → s.placeOn c g.need = some spans →
    let q := s.dropRanges ((s.callerOf g).getD g) ((s.callOf g).any fun o => o.ctr == 1) (s.callRanges g)
    let r := (q.callOf g).elim q fun o => q.modOp o.id fun p => { p with ctr := 1 }
    let v := (r.invalidateL1 c).renew.modGroup gid fun y => { r.seat y (.core c) spans with
      warps := (r.seat y (.core c) spans).warps.map fun (w : Warp) => if w.halt = .trapping then { w with halt := .run } else w }
    exec (.returnTrapPlace gid) s = .next (v.rebase gid (s.now g) ((v.findGroup gid).elim 0 v.now)))

/-- The reduce units and bank units of the base dies take their commands (R354 to R359), and start them in order (R175, R176); KVXLATE
and KVMASK resolve blocks of a KV table (R181 to R183). What the operands of XRED and XPREF name is translated at issue, which is the model's
reading of R454 (assumption 64), as is what of R180's free values a KVXLATE gives (assumption 53). -/
def Obligations.BaseDieCommandsIssue : Prop :=
  (
    let rowsCmd := fun (i : Instr) (h : Hdr) (o : XredOps) (bad : RowBlock → Bool) => ∀ s e bw u, Acts s h e →
      let args := [Arg.v .i32 o.vi]
      Commands s e ((List.range 8).map (fun j => 640 + o.blk + j) ++ args.flatMap Arg.codes) (some o.bw) bw →
      let b : RowBlock := ⟨(List.range 8).map fun j => s.uniS e false (o.blk + j)⟩
      let rows := s.rows e args []
      badTags args rows = [] → bad b = false → Within s e (bw.toList.map fun w => (w.1, 8, .write)) u →
      let r := u.rowTranses e.g (b.named i (rows.map Row.fst))
      exec i s = .next (r.1.addOp { e.op r.1 h i with
        bw := bw
        vals := b.regs
        lvals := rows.map fun r => (r.1, [r.fst])
        accs := r.2
        early := rows.any Row.haz
        after := r.1.engineAfter e.w.wid e.g.gid r.1.nextOp [] [] }).renew
    (∀ h o, rowsCmd (.xred h o) h o RowBlock.badXred) ∧ ∀ h o, rowsCmd (.xpref h o) h o RowBlock.badXpref) ∧
  (
    let bank := fun (i : Instr) (h : Hdr) (sa : Nat) (codes : Env → List Nat) (args : List Arg) (b : Option Bw)
        (opens : Bool) (out : State → Env → Option (Nat × Nat) → Nat → Nat → Nat → State → Prop) => ∀ s e bw u t v, Acts s h e →
      Commands s e ([640 + sa, 641 + sa] ++ codes e) b bw →
      let va := s.uniS e true sa
      badTags args ((s.rows e args []).filter fun r => e.id r.1 < 8) = [] → va < 2 ^ 52 → s.translateFor e.g va .read = (u, .ok t) → t.pg.place = 2 → (e.g.onStack = true → t.pg.stack = e.g.stackNo) →
      (opens = false → u.hasOpened e.g.gid t.pg.stack t.pg.pch = true) → out u e bw t.pg.stack t.pg.pch (t.a % 2 ^ 30) v → exec i s = .next v
    (∀ h o, bank (.bkopen h o) h o (fun _ => []) [] none true fun u e bw m c off v => v = u.addBank e h (.bkopen h o) bw [m, c, off]) ∧
    (∀ h o, bank (.bkclose h o) h o (fun _ => []) [] none false fun u e bw m c off v => v = u.addBank e h (.bkclose h o) bw [m, c, off]) ∧
    (∀ h (o : BkbcastOps), bank (.bkbcast h o) h o.sa (fun _ => [o.vs]) [Arg.v .f16 o.vs] none false fun u e bw m c off v =>
      v = (u.addBank e h (.bkbcast h o) bw ([m, c, off] ++ bankVector e (u.rows e [Arg.v .f16 o.vs] []))).renew) ∧
    (∀ h (o : BkmacOps), bank (.bkmac h o) h o.sa (fun _ => [640 + o.sk]) [] (some o.bw) false fun u e bw m c off v =>
      let w := u.uniS e false o.sk
      slice w 27 5 = 0 ∧ slice w 0 16 ≤ 32767 ∧ slice off 0 15 = 0 ∧ slice off 15 15 + slice w 0 16 ≤ 32768 ∧
        ∃ x, Within u e (bw.toList.map fun w => (w.1, 8, .write)) x ∧ v = x.addBank e h (.bkmac h o) bw [m, c, off, w]) ∧
    (∀ h (o : BkreadOps), bank (.bkread h o) h o.sa (fun e => (List.range (128 / e.w.width)).map fun q => o.vd + q) [] none false fun u e bw m c off v =>
      let codes := (List.range (128 / e.w.width)).map fun q => o.vd + q
      let op := { e.op u h (.bkread h o) with
        bw := bw, vals := [m, c, off, e.w.lane0], after := u.engineAfter e.w.wid e.g.gid u.nextOp [] [] }
      o.vd + 128 / e.w.width ≤ 640 ∧ v = (u.addOp op).unsettle op codes)) ∧
  (∀ s h (o : KvxlateOps) e r rt rc hd t head hc q, Acts s h e → e.g.onStack = false →
    e.g.codesFault ([o.vd, o.vd + 1, o.vt, 640 + o.root, 641 + o.root] ++ (kvArgs o).flatMap Arg.codes) = none →
    let rows := (s.readRows e (kvArgs o)).2
    let ra := s.uniS e true o.root
    badTags (kvArgs o) rows = [] → (∀ x ∈ rows, x.haz = false) → s.early e [640 + o.root, 641 + o.root] = false → ra < 2 ^ 52 → ra % 8 = 0 →
    s.kvRead e (if o.scope = 0 then e.g.via 0 else e.g.engineIn) ra 8 = (r, .val rt rc) → badRoot rt = false →
    r.acquireAt e.g o.scope.toNat = t → t.kvRead e (e.g.via 0) (kvTable rt) 64 = (hd, .val head hc) → badHeader head = false →
    let since := max (r.wordStamp rc) ((s.takeOf e.g).elim 0 Take.stamp)
    hd.kvTouched since hc 64 = false → hd.kvLanes e since rt (slice head 0 32) (rows.map fun x => (x.1, x.fst, x.snd)) = q →
    (∀ x ∈ q.2, ∃ a st, x.2 = .done a st) →
    let out := fun (l : Nat) => match (q.2.find? fun x => x.1 == l).elim (.done 0 1) Prod.snd with
      | .done a st => (a, st)
      | _ => (0, 1)
    let op := { e.op q.1 h (.kvxlate h o) with
      writes := e.act.flatMap fun l => regWrites true (.v o.vd) l ⟨(out l).1, 3, 3, 0⟩ ++ regWrites false (.v o.vt) l ⟨(out l).2, 2, 2, 0⟩ ++
        [predWrite l o.pd.toNat ((out l).2 == 2)] }
    exec (.kvxlate h o) s = .next ((q.1.addOp op).unsettle op [o.vd, o.vd + 1, o.vt, predCode o.pd.toNat]).renew) ∧
  (∀ h (o : KvmaskOps), Launches (.kvmask h o) h (regCodes false o.d) (kvmaskArgs o) (fun _ => 4) fun s e _ rows =>
    let T := 2 ^ o.logt.toNat
    let lane := fun (r : Row) => e.id r.1 + e.w.width * o.k.toNat
    (s.regOut false o.d (fun r => .of ((r.fst + T - 1) / T) 2) rows ++
      s.predOut o.pd.toNat (fun r => decide (lane r < T) && decide (r.snd * T + lane r < r.fst)) rows, []))

/-- Bank commands start in the order of issue (R175, R356): opening makes the pseudo-channel the group's, closing gives it up, a broadcast
fills a register of each bank, and a read gives the accumulators; BKMAC runs its waves (R106, R176, R358). -/
def Obligations.BankCommandsAct : Prop :=
  (∀ (s : State) op o, s.findOp op = some o → s.mayStartBank o = true →
    let m := o.vals.getD 0 0
    let c := o.vals.getD 1 0
    let done := fun (t : State) => exec (.bankCommandStart op) s = .next t
    (∀ h x, o.instr = .bkopen h x → s.findChannel m c = none →
      done (({ s with channels := s.channels ++ [Channel.mk m c o.gid s.fresh []] }).renew.finishOp o)) ∧
    (∀ h x y, o.instr = .bkopen h x → s.findChannel m c = some y → done (s.finishOp o)) ∧
    (∀ h x, o.instr = .bkclose h x →
      done (({ s with channels := s.channels.filter fun x => !(x.stack == m && x.pch == c) }).finishOp o)) ∧
    (∀ h x y, o.instr = .bkbcast h x → s.findChannel m c = some y → ∃ z, done ((s.setChannel z).finishOp o) ∧
      z.stack = y.stack ∧ z.pch = y.pch ∧ z.owner = y.owner ∧ ∀ b k l n, b < 16 → k < 8 → l < 16 → n < 2 →
        z.reg (bankKey b n k l) = if n = bit x.acc ∧ k = x.k.toNat then (o.vals.drop 3).getD l 0 % 2 ^ 16 else y.reg (bankKey b n k l)) ∧
    (∀ h x y, o.instr = .bkmac h x → s.findChannel m c = some y →
      done (s.modOp op fun p => { p with at_ := if slice (o.vals.getD 3 0) 0 15 = 0 then .ready else .started })) ∧
    (∀ h x y, o.instr = .bkread h x → s.findChannel m c = some y →
      let ws : List RegW := o.lanes.flatMap fun l => (List.range (128 / o.width)).map fun q =>
        ⟨l, x.vd + q, BitVec.ofNat 32 (accWord y x.k.toNat (l - o.vals.getD 3 0 + o.width * q)), 8⟩
      done (s.finishOp { o with writes := ws }))) ∧
  (∀ (s : State) op o h x y, s.findOp op = some o → o.instr = .bkmac h x → s.findChannel (o.vals.getD 0 0) (o.vals.getD 1 0) = some y →
    o.at_ = .started → exec (.bkmacWave op) s = .next (s.bankWave o y))

/-- FCOPY, FREDUCE and FSEM issue where their block and fabric address are in order, and start by reading their peer entry, whose failure is
their status (R360 to R362); each acknowledgement does the next units, and FSEM is answered once the copies before it are. -/
def Obligations.FabricOperationsRun : Prop :=
  (
    let copy := fun (i : Instr) (h : Hdr) (blk : Nat) (b : Bw) (k : AccKind) (core : Bool) => ∀ s e bw u, Acts s h e →
      (core = true → e.g.onStack = false) → Commands s e ((List.range 8).map fun j => 640 + blk + j) (some b) bw →
      let la := s.uniS e true blk
      let fa := s.uniS e true (blk + 2)
      let n := s.uniS e false (blk + 4)
      s.uniS e false (blk + 5) = 0 → s.uniS e false (blk + 6) = 0 → s.uniS e false (blk + 7) = 0 → n ≠ 0 → n ≤ 2 ^ 31 →
      n % 16 = 0 → la % 16 = 0 → fa % 16 = 0 → la < 2 ^ 52 → s.fabFault e.g fa = none →
      Within s e ((la, n, k) :: bw.toList.map fun w => (w.1, 8, .write)) u →
      exec i s = .next (u.addOp { e.op u h i with
        bw := bw
        vals := [la, fa, n, 0, 0]
        after := u.engineAfter e.w.wid e.g.gid u.nextOp [] (if k == .write then [(la, n)] else []) })
    (∀ h (o : FcopyOps), copy (.fcopyPut h o) h o.blk o.bw .read true) ∧ (∀ h (o : FcopyOps), copy (.fcopyGet h o) h o.blk o.bw .write true) ∧
    ∀ h (o : FreduceOps), copy (.freduce h o) h o.blk o.bw .read false) ∧
  (∀ s h (o : FsemOps) e, Acts s h e → Commands s e ([640 + o.sa, 641 + o.sa] ++ (Arg.of .z32 o.n).codes) none none →
    let fa := s.uniS e true o.sa
    s.fabFault e.g fa = none → fa % 4 = 0 →
    exec (.fsem h o) s = .next (s.launch e { e.op s h (.fsem h o) with
      vals := (s.uni e .z32 o.n).val ::
        (s.ops.filter fun p => p.gid == e.g.gid && p.owners.contains e.w.wid && Instr.isFabricCopy p.instr).map Op.id
      cause := (fa, 0, 0) })) ∧
  (∀ (s : State) o g, s.findOp o.id = some o → o.mayStartFabric = true →
    let r := s.peerEntry g (if Instr.isFsem o.instr then o.cause.1 else o.vals.getD 1 0)
    let va := slice (s.peerTab g) 4 48 * 16 + 16 * fabPeer (if Instr.isFsem o.instr then o.cause.1 else o.vals.getD 1 0)
    ((∃ u c, s.translateFor g va .read = (u, .error c) ∧ c / 4096 ≠ 3) → r.2.2 = some (0x21B1, va, 0, 0)) ∧
    (r.2.2 = none → badPeer r.2.1 = false ∧ s.startFabric o g = r.1.modOp o.id fun p =>
      if Instr.isFsem o.instr then { p with at_ := .started, ctr := r.2.1 } else { p with at_ := .started, vals := p.vals.set 3 r.2.1 }) ∧
    ∀ f, r.2.2 = some f → s.startFabric o g = r.1.modOp o.id fun p => { p.noting (some f) with at_ := .ready }) ∧
  (∀ (s : State) op o g status data, s.findOp op = some o → s.findGroup o.gid = some g → o.mayAck = true → fabStatus status = true →
    let n := o.vals.getD 2 0 / 8
    let r := (data.take (n - o.ctr)).foldl (fun (r : State × Op) d => r.1.ackUnit r.2 g status d) (s, o)
    exec (.fabricAck op status data) s = .next (r.1.modOp op fun _ => { r.2 with at_ := if n ≤ r.2.ctr then .ready else .started })) ∧
  (∀ (s : State) op o status, s.findOp op = some o → s.maySignal o = true → fabStatus status = true →
    exec (.fsemSignal op status) s = .next (s.modOp op fun p => { p.fails status 0 (s.fabPath o) 0 with at_ := .ready }))
end

