-- ==== Sys2Proof/Laws/Maps.lean ====
section
/-!
SUPPORT. Laws of sparse maps and of memory: what is read after a write, and that every operation keeps the canonical form.
-/

namespace Sys2Proof

variable {α : Type} [DecidableEq α] {d : α}

/-! ### Reading after writing -/

theorem NMap.get_of_wfFrom {lo i : Nat} {m : NMap α} (h : NMap.wfFrom d lo m = true) (hi : i < lo) : NMap.get d m i = d := by
  cases m with
  | nil => rfl
  | cons e m =>
    obtain ⟨k, v⟩ := e
    simp [NMap.wfFrom] at h
    have h1 : ¬ i = k := by omega
    have h2 : i < k := by omega
    simp [NMap.get, h1, h2]

theorem NMap.get_put_self {lo : Nat} {m : NMap α} (h : NMap.wfFrom d lo m = true) (i : Nat) (v : α) :
    NMap.get d (NMap.put d m i v) i = v := by
  induction m generalizing lo with
  | nil => by_cases hv : v = d <;> simp [NMap.put, hv, NMap.get]
  | cons e m ih =>
    obtain ⟨k, w⟩ := e
    simp [NMap.wfFrom] at h
    unfold NMap.put
    split
    · rename_i hlt
      by_cases hv : v = d
      · have : ¬ i = k := by omega
        simp [hv, NMap.get, this, hlt]
      · simp [hv, NMap.get]
    · split
      · rename_i _ heq
        by_cases hv : v = d
        · have h0 : i < k + 1 := by omega
          simp [hv, NMap.get_of_wfFrom h.2 h0]
        · simp [hv, NMap.get]
      · rename_i h1 h2
        simp [NMap.get, h2, h1, ih h.2]

/-- Any map reads back a value that its unlisted keys do not have. -/
theorem NMap.get_put_listed {m : NMap α} {v : α} (hv : v ≠ d) (i : Nat) : NMap.get d (NMap.put d m i v) i = v := by
  induction m with
  | nil => simp [NMap.put, hv, NMap.get]
  | cons e m ih =>
    obtain ⟨k, w⟩ := e
    unfold NMap.put
    split
    · simp [NMap.get]
    · split
      · simp [NMap.get]
      · rename_i h1 h2
        simp [NMap.get, h2, h1, ih]

theorem NMap.get_put_of_ne {lo i j : Nat} {m : NMap α} {v : α} (h : NMap.wfFrom d lo m = true) (hj : j ≠ i) :
    NMap.get d (NMap.put d m i v) j = NMap.get d m j := by
  induction m generalizing lo with
  | nil => by_cases hv : v = d <;> simp [NMap.put, hv, NMap.get, hj]
  | cons e m ih =>
    obtain ⟨k, w⟩ := e
    simp [NMap.wfFrom] at h
    unfold NMap.put
    split
    · rename_i hlt
      by_cases hv : v = d
      · simp [hv]
      · by_cases hji : j < i
        · have h1 : ¬ j = k := by omega
          have h2 : j < k := by omega
          simp [hv, NMap.get, hj, hji, h1, h2]
        · simp [hv, NMap.get, hj, hji]
    · split
      · rename_i _ heq
        subst heq
        by_cases hv : v = d
        · by_cases hji : j < i
          · have h0 : j < i + 1 := by omega
            simp [hv, NMap.get, hj, hji, NMap.get_of_wfFrom h.2 h0]
          · simp [hv, NMap.get, hj, hji]
        · simp [hv, NMap.get, hj]
      · simp [NMap.get, ih h.2]

/-- Any map keeps its other keys through a write that lists a value. -/
theorem NMap.get_put_listed_of_ne {i j : Nat} {m : NMap α} {v : α} (hv : v ≠ d) (hj : j ≠ i) :
    NMap.get d (NMap.put d m i v) j = NMap.get d m j := by
  induction m with
  | nil => simp [NMap.put, hv, NMap.get, hj]
  | cons e m ih =>
    obtain ⟨k, w⟩ := e
    unfold NMap.put
    split
    · rename_i hlt
      by_cases hji : j < i
      · have h1 : ¬ j = k := by omega
        have h2 : j < k := by omega
        simp [NMap.get, hj, hji, h1, h2]
      · simp [NMap.get, hj, hji]
    · split
      · rename_i _ heq
        subst heq
        simp [NMap.get, hj]
      · simp [NMap.get, ih]

/-! ### The canonical form -/

theorem NMap.wfFrom_mono {lo lo' : Nat} {m : NMap α} (h : NMap.wfFrom d lo m = true) (hl : lo' ≤ lo) : NMap.wfFrom d lo' m = true := by
  cases m with
  | nil => rfl
  | cons e m =>
    obtain ⟨k, v⟩ := e
    simp [NMap.wfFrom] at h ⊢
    exact ⟨⟨by omega, h.1.2⟩, h.2⟩

theorem NMap.wfFrom_put {lo i : Nat} {m : NMap α} (h : NMap.wfFrom d lo m = true) (hi : lo ≤ i) (v : α) :
    NMap.wfFrom d lo (NMap.put d m i v) = true := by
  induction m generalizing lo with
  | nil => by_cases hv : v = d <;> simp [NMap.put, hv, NMap.wfFrom, hi]
  | cons e m ih =>
    obtain ⟨k, w⟩ := e
    have h0 := h
    simp [NMap.wfFrom] at h
    unfold NMap.put
    split
    · by_cases hv : v = d
      · simpa [hv] using h0
      · simp [hv, NMap.wfFrom, hi, h.1.2, h.2]
        omega
    · split
      · rename_i _ heq
        subst heq
        by_cases hv : v = d
        · simp [hv]
          exact NMap.wfFrom_mono h.2 (by omega)
        · simp [hv, NMap.wfFrom, hi, h.2]
      · rename_i h1 h2
        simp [NMap.wfFrom, h.1, ih h.2 (by omega)]

/-- A write keeps the canonical form. -/
theorem NMap.wf_put {m : NMap α} (h : NMap.wf d m = true) (i : Nat) (v : α) : NMap.wf d (NMap.put d m i v) = true :=
  NMap.wfFrom_put h (Nat.zero_le _) v

theorem NMap.wfFrom_filter {lo : Nat} {m : NMap α} (p : Nat × α → Bool) (h : NMap.wfFrom d lo m = true) :
    NMap.wfFrom d lo (m.filter p) = true := by
  induction m generalizing lo with
  | nil => rfl
  | cons e m ih =>
    obtain ⟨k, v⟩ := e
    simp [NMap.wfFrom] at h
    by_cases hp : p (k, v) = true
    · simp [hp, NMap.wfFrom, h.1, ih h.2]
    · simp only [List.filter_cons, hp]
      exact NMap.wfFrom_mono (ih h.2) (by omega)

/-- Dropping entries keeps the canonical form. -/
theorem NMap.wf_filter {m : NMap α} (p : Nat × α → Bool) (h : NMap.wf d m = true) : NMap.wf d (m.filter p) = true :=
  NMap.wfFrom_filter p h

/-- So does writing a list of entries. -/
theorem NMap.wf_putAll {m : NMap α} (es : List (Nat × α)) (h : NMap.wf d m = true) : NMap.wf d (NMap.putAll d m es) = true := by
  induction es generalizing m with
  | nil => exact h
  | cons e es ih => exact ih (NMap.wf_put h e.1 e.2)

/-- A kept entry reads as before, a dropped one as unlisted. -/
theorem NMap.get_filter {lo : Nat} {m : NMap α} (p : Nat → Bool) (h : NMap.wfFrom d lo m = true) (i : Nat) :
    NMap.get d (m.filter fun e => p e.1) i = if p i then NMap.get d m i else d := by
  induction m generalizing lo with
  | nil => simp [NMap.get]
  | cons e m ih =>
    obtain ⟨k, v⟩ := e
    simp [NMap.wfFrom] at h
    by_cases hk : i = k
    · subst hk
      cases hp : p i
      · have := ih h.2
        simp [hp] at this
        simp [hp, this]
      · simp [hp, NMap.get]
    · by_cases hlt : i < k
      · have h0 : NMap.get d (m.filter fun e => p e.1) i = d := NMap.get_of_wfFrom (NMap.wfFrom_filter _ h.2) (by omega)
        cases hp : p k
        · simp [hp, NMap.get, hk, hlt, h0]
        · simp [hp, NMap.get, hk, hlt]
      · cases hp : p k
        · simp [hp, NMap.get, hk, hlt, ih h.2]
        · simp [hp, NMap.get, hk, hlt, ih h.2]

/-! ### Memory -/

/-- A byte written is read back. -/
theorem Memory.read_write_self {m : Memory} (h : Memory.wf m = true) (a : Nat) (b : Byte) : (m.write a b).read a = b :=
  NMap.get_put_self h a b

/-- A write leaves every other byte. -/
theorem Memory.read_write_of_ne {m : Memory} (h : Memory.wf m = true) {a b : Nat} (x : Byte) (hab : b ≠ a) :
    (m.write a x).read b = m.read b :=
  NMap.get_put_of_ne h hab

/-- A write of one byte keeps the canonical form. -/
theorem Memory.wf_write {m : Memory} (h : Memory.wf m = true) (a : Nat) (b : Byte) : Memory.wf (m.write a b) = true := NMap.wf_put h a b

/-- So does a write of several. -/
theorem Memory.wf_writeNat {m : Memory} (h : Memory.wf m = true) (a n x : Nat) : Memory.wf (m.writeNat a n x) = true := by
  induction n generalizing m a x with
  | zero => exact h
  | succ n ih => exact ih (Memory.wf_write h a _) _ _

theorem Memory.wf_filter {m : Memory} (p : Nat × Byte → Bool) (h : Memory.wf m = true) : Memory.wf (m.filter p) = true := NMap.wf_filter p h

/-- So do writes in turn. -/
theorem Memory.wf_foldl_write {β : Type} (xs : List β) (f : β → Nat) (g : β → Byte) {m : Memory} (h : Memory.wf m = true) :
    Memory.wf (xs.foldl (fun m x => m.write (f x) (g x)) m) = true := by
  induction xs generalizing m with
  | nil => exact h
  | cons x xs ih => exact ih (Memory.wf_write h _ _)

/-- A write below or above a byte leaves it. -/
theorem Memory.read_writeNat_of_disjoint {m : Memory} (h : Memory.wf m = true) {a n b : Nat} (x : Nat) (hb : b < a ∨ a + n ≤ b) :
    (m.writeNat a n x).read b = m.read b := by
  induction n generalizing m a x with
  | zero => rfl
  | succ n ih =>
    have h1 := ih (Memory.wf_write h a (BitVec.ofNat 8 x)) (a := a + 1) (x / 256) (by omega)
    exact h1.trans (Memory.read_write_of_ne h _ (by omega))

end Sys2Proof
end

