-- ==== Sys2Proof/Laws/State.lean ====
section
/-!
SUPPORT. What each update of the state leaves: one law for every field and update.
-/

namespace Sys2Proof.Machine

/-! ### modGroup -/

@[simp] theorem State.modGroup_counter (s : State) (gid : Nat) (f : Group → Group) : (s.modGroup gid f).counter = s.counter := rfl
@[simp] theorem State.modGroup_domains (s : State) (gid : Nat) (f : Group → Group) : (s.modGroup gid f).domains = s.domains := rfl
@[simp] theorem State.modGroup_turn (s : State) (gid : Nat) (f : Group → Group) : (s.modGroup gid f).turn = s.turn := rfl
@[simp] theorem State.modGroup_ports (s : State) (gid : Nat) (f : Group → Group) : (s.modGroup gid f).ports = s.ports := rfl
@[simp] theorem State.modGroup_fresh (s : State) (gid : Nat) (f : Group → Group) : (s.modGroup gid f).fresh = s.fresh := rfl
@[simp] theorem State.modGroup_picks (s : State) (gid : Nat) (f : Group → Group) : (s.modGroup gid f).picks = s.picks := rfl
@[simp] theorem State.modGroup_inputs (s : State) (gid : Nat) (f : Group → Group) : (s.modGroup gid f).inputs = s.inputs := rfl
@[simp] theorem State.modGroup_cur (s : State) (gid : Nat) (f : Group → Group) : (s.modGroup gid f).cur = s.cur := rfl
@[simp] theorem State.modGroup_todo (s : State) (gid : Nat) (f : Group → Group) : (s.modGroup gid f).todo = s.todo := rfl
@[simp] theorem State.modGroup_nextOp (s : State) (gid : Nat) (f : Group → Group) : (s.modGroup gid f).nextOp = s.nextOp := rfl
@[simp] theorem State.modGroup_nextGid (s : State) (gid : Nat) (f : Group → Group) : (s.modGroup gid f).nextGid = s.nextGid := rfl
@[simp] theorem State.modGroup_nextOrder (s : State) (gid : Nat) (f : Group → Group) : (s.modGroup gid f).nextOrder = s.nextOrder := rfl
@[simp] theorem State.modGroup_powered (s : State) (gid : Nat) (f : Group → Group) : (s.modGroup gid f).powered = s.powered := rfl
@[simp] theorem State.modGroup_frozen (s : State) (gid : Nat) (f : Group → Group) : (s.modGroup gid f).frozen = s.frozen := rfl
@[simp] theorem State.modGroup_mode (s : State) (gid : Nat) (f : Group → Group) : (s.modGroup gid f).mode = s.mode := rfl
@[simp] theorem State.modGroup_rstrap (s : State) (gid : Nat) (f : Group → Group) : (s.modGroup gid f).rstrap = s.rstrap := rfl
@[simp] theorem State.modGroup_ostrap (s : State) (gid : Nat) (f : Group → Group) : (s.modGroup gid f).ostrap = s.ostrap := rfl
@[simp] theorem State.modGroup_nonce (s : State) (gid : Nat) (f : Group → Group) : (s.modGroup gid f).nonce = s.nonce := rfl
@[simp] theorem State.modGroup_fuses (s : State) (gid : Nat) (f : Group → Group) : (s.modGroup gid f).fuses = s.fuses := rfl
@[simp] theorem State.modGroup_running (s : State) (gid : Nat) (f : Group → Group) : (s.modGroup gid f).running = s.running := rfl
@[simp] theorem State.modGroup_regs (s : State) (gid : Nat) (f : Group → Group) : (s.modGroup gid f).regs = s.regs := rfl
@[simp] theorem State.modGroup_mbox (s : State) (gid : Nat) (f : Group → Group) : (s.modGroup gid f).mbox = s.mbox := rfl
@[simp] theorem State.modGroup_mem (s : State) (gid : Nat) (f : Group → Group) : (s.modGroup gid f).mem = s.mem := rfl
@[simp] theorem State.modGroup_veil (s : State) (gid : Nat) (f : Group → Group) : (s.modGroup gid f).veil = s.veil := rfl
@[simp] theorem State.modGroup_poison (s : State) (gid : Nat) (f : Group → Group) : (s.modGroup gid f).poison = s.poison := rfl
@[simp] theorem State.modGroup_stamp (s : State) (gid : Nat) (f : Group → Group) : (s.modGroup gid f).stamp = s.stamp := rfl
@[simp] theorem State.modGroup_wlog (s : State) (gid : Nat) (f : Group → Group) : (s.modGroup gid f).wlog = s.wlog := rfl
@[simp] theorem State.modGroup_l2 (s : State) (gid : Nat) (f : Group → Group) : (s.modGroup gid f).l2 = s.l2 := rfl
@[simp] theorem State.modGroup_l1 (s : State) (gid : Nat) (f : Group → Group) : (s.modGroup gid f).l1 = s.l1 := rfl
@[simp] theorem State.modGroup_tlb (s : State) (gid : Nat) (f : Group → Group) : (s.modGroup gid f).tlb = s.tlb := rfl
@[simp] theorem State.modGroup_walkers (s : State) (gid : Nat) (f : Group → Group) : (s.modGroup gid f).walkers = s.walkers := rfl
@[simp] theorem State.modGroup_seen (s : State) (gid : Nat) (f : Group → Group) : (s.modGroup gid f).seen = s.seen := rfl
@[simp] theorem State.modGroup_ctxs (s : State) (gid : Nat) (f : Group → Group) : (s.modGroup gid f).ctxs = s.ctxs := rfl
@[simp] theorem State.modGroup_takeCtr (s : State) (gid : Nat) (f : Group → Group) : (s.modGroup gid f).takeCtr = s.takeCtr := rfl
@[simp] theorem State.modGroup_takes (s : State) (gid : Nat) (f : Group → Group) : (s.modGroup gid f).takes = s.takes := rfl
@[simp] theorem State.modGroup_teams (s : State) (gid : Nat) (f : Group → Group) : (s.modGroup gid f).teams = s.teams := rfl
@[simp] theorem State.modGroup_queues (s : State) (gid : Nat) (f : Group → Group) : (s.modGroup gid f).queues = s.queues := rfl
@[simp] theorem State.modGroup_ops (s : State) (gid : Nat) (f : Group → Group) : (s.modGroup gid f).ops = s.ops := rfl
@[simp] theorem State.modGroup_channels (s : State) (gid : Nat) (f : Group → Group) : (s.modGroup gid f).channels = s.channels := rfl
@[simp] theorem State.modGroup_watches (s : State) (gid : Nat) (f : Group → Group) : (s.modGroup gid f).watches = s.watches := rfl
@[simp] theorem State.modGroup_notes (s : State) (gid : Nat) (f : Group → Group) : (s.modGroup gid f).notes = s.notes := rfl
@[simp] theorem State.modGroup_snoops (s : State) (gid : Nat) (f : Group → Group) : (s.modGroup gid f).snoops = s.snoops := rfl
@[simp] theorem State.modGroup_hostHeld (s : State) (gid : Nat) (f : Group → Group) : (s.modGroup gid f).hostHeld = s.hostHeld := rfl
@[simp] theorem State.modGroup_backSnoops (s : State) (gid : Nat) (f : Group → Group) : (s.modGroup gid f).backSnoops = s.backSnoops := rfl
@[simp] theorem State.modGroup_bistRun (s : State) (gid : Nat) (f : Group → Group) : (s.modGroup gid f).bistRun = s.bistRun := rfl
@[simp] theorem State.modGroup_winOld (s : State) (gid : Nat) (f : Group → Group) : (s.modGroup gid f).winOld = s.winOld := rfl

/-! ### modWarp -/

@[simp] theorem State.modWarp_counter (s : State) (gid wid : Nat) (f : Warp → Warp) : (s.modWarp gid wid f).counter = s.counter := rfl
@[simp] theorem State.modWarp_domains (s : State) (gid wid : Nat) (f : Warp → Warp) : (s.modWarp gid wid f).domains = s.domains := rfl
@[simp] theorem State.modWarp_turn (s : State) (gid wid : Nat) (f : Warp → Warp) : (s.modWarp gid wid f).turn = s.turn := rfl
@[simp] theorem State.modWarp_ports (s : State) (gid wid : Nat) (f : Warp → Warp) : (s.modWarp gid wid f).ports = s.ports := rfl
@[simp] theorem State.modWarp_fresh (s : State) (gid wid : Nat) (f : Warp → Warp) : (s.modWarp gid wid f).fresh = s.fresh := rfl
@[simp] theorem State.modWarp_picks (s : State) (gid wid : Nat) (f : Warp → Warp) : (s.modWarp gid wid f).picks = s.picks := rfl
@[simp] theorem State.modWarp_inputs (s : State) (gid wid : Nat) (f : Warp → Warp) : (s.modWarp gid wid f).inputs = s.inputs := rfl
@[simp] theorem State.modWarp_cur (s : State) (gid wid : Nat) (f : Warp → Warp) : (s.modWarp gid wid f).cur = s.cur := rfl
@[simp] theorem State.modWarp_todo (s : State) (gid wid : Nat) (f : Warp → Warp) : (s.modWarp gid wid f).todo = s.todo := rfl
@[simp] theorem State.modWarp_nextOp (s : State) (gid wid : Nat) (f : Warp → Warp) : (s.modWarp gid wid f).nextOp = s.nextOp := rfl
@[simp] theorem State.modWarp_nextGid (s : State) (gid wid : Nat) (f : Warp → Warp) : (s.modWarp gid wid f).nextGid = s.nextGid := rfl
@[simp] theorem State.modWarp_nextOrder (s : State) (gid wid : Nat) (f : Warp → Warp) : (s.modWarp gid wid f).nextOrder = s.nextOrder := rfl
@[simp] theorem State.modWarp_powered (s : State) (gid wid : Nat) (f : Warp → Warp) : (s.modWarp gid wid f).powered = s.powered := rfl
@[simp] theorem State.modWarp_frozen (s : State) (gid wid : Nat) (f : Warp → Warp) : (s.modWarp gid wid f).frozen = s.frozen := rfl
@[simp] theorem State.modWarp_mode (s : State) (gid wid : Nat) (f : Warp → Warp) : (s.modWarp gid wid f).mode = s.mode := rfl
@[simp] theorem State.modWarp_rstrap (s : State) (gid wid : Nat) (f : Warp → Warp) : (s.modWarp gid wid f).rstrap = s.rstrap := rfl
@[simp] theorem State.modWarp_ostrap (s : State) (gid wid : Nat) (f : Warp → Warp) : (s.modWarp gid wid f).ostrap = s.ostrap := rfl
@[simp] theorem State.modWarp_nonce (s : State) (gid wid : Nat) (f : Warp → Warp) : (s.modWarp gid wid f).nonce = s.nonce := rfl
@[simp] theorem State.modWarp_fuses (s : State) (gid wid : Nat) (f : Warp → Warp) : (s.modWarp gid wid f).fuses = s.fuses := rfl
@[simp] theorem State.modWarp_running (s : State) (gid wid : Nat) (f : Warp → Warp) : (s.modWarp gid wid f).running = s.running := rfl
@[simp] theorem State.modWarp_regs (s : State) (gid wid : Nat) (f : Warp → Warp) : (s.modWarp gid wid f).regs = s.regs := rfl
@[simp] theorem State.modWarp_mbox (s : State) (gid wid : Nat) (f : Warp → Warp) : (s.modWarp gid wid f).mbox = s.mbox := rfl
@[simp] theorem State.modWarp_mem (s : State) (gid wid : Nat) (f : Warp → Warp) : (s.modWarp gid wid f).mem = s.mem := rfl
@[simp] theorem State.modWarp_veil (s : State) (gid wid : Nat) (f : Warp → Warp) : (s.modWarp gid wid f).veil = s.veil := rfl
@[simp] theorem State.modWarp_poison (s : State) (gid wid : Nat) (f : Warp → Warp) : (s.modWarp gid wid f).poison = s.poison := rfl
@[simp] theorem State.modWarp_stamp (s : State) (gid wid : Nat) (f : Warp → Warp) : (s.modWarp gid wid f).stamp = s.stamp := rfl
@[simp] theorem State.modWarp_wlog (s : State) (gid wid : Nat) (f : Warp → Warp) : (s.modWarp gid wid f).wlog = s.wlog := rfl
@[simp] theorem State.modWarp_l2 (s : State) (gid wid : Nat) (f : Warp → Warp) : (s.modWarp gid wid f).l2 = s.l2 := rfl
@[simp] theorem State.modWarp_l1 (s : State) (gid wid : Nat) (f : Warp → Warp) : (s.modWarp gid wid f).l1 = s.l1 := rfl
@[simp] theorem State.modWarp_tlb (s : State) (gid wid : Nat) (f : Warp → Warp) : (s.modWarp gid wid f).tlb = s.tlb := rfl
@[simp] theorem State.modWarp_walkers (s : State) (gid wid : Nat) (f : Warp → Warp) : (s.modWarp gid wid f).walkers = s.walkers := rfl
@[simp] theorem State.modWarp_seen (s : State) (gid wid : Nat) (f : Warp → Warp) : (s.modWarp gid wid f).seen = s.seen := rfl
@[simp] theorem State.modWarp_ctxs (s : State) (gid wid : Nat) (f : Warp → Warp) : (s.modWarp gid wid f).ctxs = s.ctxs := rfl
@[simp] theorem State.modWarp_takeCtr (s : State) (gid wid : Nat) (f : Warp → Warp) : (s.modWarp gid wid f).takeCtr = s.takeCtr := rfl
@[simp] theorem State.modWarp_takes (s : State) (gid wid : Nat) (f : Warp → Warp) : (s.modWarp gid wid f).takes = s.takes := rfl
@[simp] theorem State.modWarp_teams (s : State) (gid wid : Nat) (f : Warp → Warp) : (s.modWarp gid wid f).teams = s.teams := rfl
@[simp] theorem State.modWarp_queues (s : State) (gid wid : Nat) (f : Warp → Warp) : (s.modWarp gid wid f).queues = s.queues := rfl
@[simp] theorem State.modWarp_ops (s : State) (gid wid : Nat) (f : Warp → Warp) : (s.modWarp gid wid f).ops = s.ops := rfl
@[simp] theorem State.modWarp_channels (s : State) (gid wid : Nat) (f : Warp → Warp) : (s.modWarp gid wid f).channels = s.channels := rfl
@[simp] theorem State.modWarp_watches (s : State) (gid wid : Nat) (f : Warp → Warp) : (s.modWarp gid wid f).watches = s.watches := rfl
@[simp] theorem State.modWarp_notes (s : State) (gid wid : Nat) (f : Warp → Warp) : (s.modWarp gid wid f).notes = s.notes := rfl
@[simp] theorem State.modWarp_snoops (s : State) (gid wid : Nat) (f : Warp → Warp) : (s.modWarp gid wid f).snoops = s.snoops := rfl
@[simp] theorem State.modWarp_hostHeld (s : State) (gid wid : Nat) (f : Warp → Warp) : (s.modWarp gid wid f).hostHeld = s.hostHeld := rfl
@[simp] theorem State.modWarp_backSnoops (s : State) (gid wid : Nat) (f : Warp → Warp) : (s.modWarp gid wid f).backSnoops = s.backSnoops := rfl
@[simp] theorem State.modWarp_bistRun (s : State) (gid wid : Nat) (f : Warp → Warp) : (s.modWarp gid wid f).bistRun = s.bistRun := rfl
@[simp] theorem State.modWarp_winOld (s : State) (gid wid : Nat) (f : Warp → Warp) : (s.modWarp gid wid f).winOld = s.winOld := rfl

/-! ### modLanes -/

@[simp] theorem State.modLanes_counter (s : State) (gid : Nat) (ls : List Nat) (f : Nat → Lane → Lane) : (s.modLanes gid ls f).counter = s.counter := rfl
@[simp] theorem State.modLanes_domains (s : State) (gid : Nat) (ls : List Nat) (f : Nat → Lane → Lane) : (s.modLanes gid ls f).domains = s.domains := rfl
@[simp] theorem State.modLanes_turn (s : State) (gid : Nat) (ls : List Nat) (f : Nat → Lane → Lane) : (s.modLanes gid ls f).turn = s.turn := rfl
@[simp] theorem State.modLanes_ports (s : State) (gid : Nat) (ls : List Nat) (f : Nat → Lane → Lane) : (s.modLanes gid ls f).ports = s.ports := rfl
@[simp] theorem State.modLanes_fresh (s : State) (gid : Nat) (ls : List Nat) (f : Nat → Lane → Lane) : (s.modLanes gid ls f).fresh = s.fresh := rfl
@[simp] theorem State.modLanes_picks (s : State) (gid : Nat) (ls : List Nat) (f : Nat → Lane → Lane) : (s.modLanes gid ls f).picks = s.picks := rfl
@[simp] theorem State.modLanes_inputs (s : State) (gid : Nat) (ls : List Nat) (f : Nat → Lane → Lane) : (s.modLanes gid ls f).inputs = s.inputs := rfl
@[simp] theorem State.modLanes_cur (s : State) (gid : Nat) (ls : List Nat) (f : Nat → Lane → Lane) : (s.modLanes gid ls f).cur = s.cur := rfl
@[simp] theorem State.modLanes_todo (s : State) (gid : Nat) (ls : List Nat) (f : Nat → Lane → Lane) : (s.modLanes gid ls f).todo = s.todo := rfl
@[simp] theorem State.modLanes_nextOp (s : State) (gid : Nat) (ls : List Nat) (f : Nat → Lane → Lane) : (s.modLanes gid ls f).nextOp = s.nextOp := rfl
@[simp] theorem State.modLanes_nextGid (s : State) (gid : Nat) (ls : List Nat) (f : Nat → Lane → Lane) : (s.modLanes gid ls f).nextGid = s.nextGid := rfl
@[simp] theorem State.modLanes_nextOrder (s : State) (gid : Nat) (ls : List Nat) (f : Nat → Lane → Lane) : (s.modLanes gid ls f).nextOrder = s.nextOrder := rfl
@[simp] theorem State.modLanes_powered (s : State) (gid : Nat) (ls : List Nat) (f : Nat → Lane → Lane) : (s.modLanes gid ls f).powered = s.powered := rfl
@[simp] theorem State.modLanes_frozen (s : State) (gid : Nat) (ls : List Nat) (f : Nat → Lane → Lane) : (s.modLanes gid ls f).frozen = s.frozen := rfl
@[simp] theorem State.modLanes_mode (s : State) (gid : Nat) (ls : List Nat) (f : Nat → Lane → Lane) : (s.modLanes gid ls f).mode = s.mode := rfl
@[simp] theorem State.modLanes_rstrap (s : State) (gid : Nat) (ls : List Nat) (f : Nat → Lane → Lane) : (s.modLanes gid ls f).rstrap = s.rstrap := rfl
@[simp] theorem State.modLanes_ostrap (s : State) (gid : Nat) (ls : List Nat) (f : Nat → Lane → Lane) : (s.modLanes gid ls f).ostrap = s.ostrap := rfl
@[simp] theorem State.modLanes_nonce (s : State) (gid : Nat) (ls : List Nat) (f : Nat → Lane → Lane) : (s.modLanes gid ls f).nonce = s.nonce := rfl
@[simp] theorem State.modLanes_fuses (s : State) (gid : Nat) (ls : List Nat) (f : Nat → Lane → Lane) : (s.modLanes gid ls f).fuses = s.fuses := rfl
@[simp] theorem State.modLanes_running (s : State) (gid : Nat) (ls : List Nat) (f : Nat → Lane → Lane) : (s.modLanes gid ls f).running = s.running := rfl
@[simp] theorem State.modLanes_regs (s : State) (gid : Nat) (ls : List Nat) (f : Nat → Lane → Lane) : (s.modLanes gid ls f).regs = s.regs := rfl
@[simp] theorem State.modLanes_mbox (s : State) (gid : Nat) (ls : List Nat) (f : Nat → Lane → Lane) : (s.modLanes gid ls f).mbox = s.mbox := rfl
@[simp] theorem State.modLanes_mem (s : State) (gid : Nat) (ls : List Nat) (f : Nat → Lane → Lane) : (s.modLanes gid ls f).mem = s.mem := rfl
@[simp] theorem State.modLanes_veil (s : State) (gid : Nat) (ls : List Nat) (f : Nat → Lane → Lane) : (s.modLanes gid ls f).veil = s.veil := rfl
@[simp] theorem State.modLanes_poison (s : State) (gid : Nat) (ls : List Nat) (f : Nat → Lane → Lane) : (s.modLanes gid ls f).poison = s.poison := rfl
@[simp] theorem State.modLanes_stamp (s : State) (gid : Nat) (ls : List Nat) (f : Nat → Lane → Lane) : (s.modLanes gid ls f).stamp = s.stamp := rfl
@[simp] theorem State.modLanes_wlog (s : State) (gid : Nat) (ls : List Nat) (f : Nat → Lane → Lane) : (s.modLanes gid ls f).wlog = s.wlog := rfl
@[simp] theorem State.modLanes_l2 (s : State) (gid : Nat) (ls : List Nat) (f : Nat → Lane → Lane) : (s.modLanes gid ls f).l2 = s.l2 := rfl
@[simp] theorem State.modLanes_l1 (s : State) (gid : Nat) (ls : List Nat) (f : Nat → Lane → Lane) : (s.modLanes gid ls f).l1 = s.l1 := rfl
@[simp] theorem State.modLanes_tlb (s : State) (gid : Nat) (ls : List Nat) (f : Nat → Lane → Lane) : (s.modLanes gid ls f).tlb = s.tlb := rfl
@[simp] theorem State.modLanes_walkers (s : State) (gid : Nat) (ls : List Nat) (f : Nat → Lane → Lane) : (s.modLanes gid ls f).walkers = s.walkers := rfl
@[simp] theorem State.modLanes_seen (s : State) (gid : Nat) (ls : List Nat) (f : Nat → Lane → Lane) : (s.modLanes gid ls f).seen = s.seen := rfl
@[simp] theorem State.modLanes_ctxs (s : State) (gid : Nat) (ls : List Nat) (f : Nat → Lane → Lane) : (s.modLanes gid ls f).ctxs = s.ctxs := rfl
@[simp] theorem State.modLanes_takeCtr (s : State) (gid : Nat) (ls : List Nat) (f : Nat → Lane → Lane) : (s.modLanes gid ls f).takeCtr = s.takeCtr := rfl
@[simp] theorem State.modLanes_takes (s : State) (gid : Nat) (ls : List Nat) (f : Nat → Lane → Lane) : (s.modLanes gid ls f).takes = s.takes := rfl
@[simp] theorem State.modLanes_teams (s : State) (gid : Nat) (ls : List Nat) (f : Nat → Lane → Lane) : (s.modLanes gid ls f).teams = s.teams := rfl
@[simp] theorem State.modLanes_queues (s : State) (gid : Nat) (ls : List Nat) (f : Nat → Lane → Lane) : (s.modLanes gid ls f).queues = s.queues := rfl
@[simp] theorem State.modLanes_ops (s : State) (gid : Nat) (ls : List Nat) (f : Nat → Lane → Lane) : (s.modLanes gid ls f).ops = s.ops := rfl
@[simp] theorem State.modLanes_channels (s : State) (gid : Nat) (ls : List Nat) (f : Nat → Lane → Lane) : (s.modLanes gid ls f).channels = s.channels := rfl
@[simp] theorem State.modLanes_watches (s : State) (gid : Nat) (ls : List Nat) (f : Nat → Lane → Lane) : (s.modLanes gid ls f).watches = s.watches := rfl
@[simp] theorem State.modLanes_notes (s : State) (gid : Nat) (ls : List Nat) (f : Nat → Lane → Lane) : (s.modLanes gid ls f).notes = s.notes := rfl
@[simp] theorem State.modLanes_snoops (s : State) (gid : Nat) (ls : List Nat) (f : Nat → Lane → Lane) : (s.modLanes gid ls f).snoops = s.snoops := rfl
@[simp] theorem State.modLanes_hostHeld (s : State) (gid : Nat) (ls : List Nat) (f : Nat → Lane → Lane) : (s.modLanes gid ls f).hostHeld = s.hostHeld := rfl
@[simp] theorem State.modLanes_backSnoops (s : State) (gid : Nat) (ls : List Nat) (f : Nat → Lane → Lane) : (s.modLanes gid ls f).backSnoops = s.backSnoops := rfl
@[simp] theorem State.modLanes_bistRun (s : State) (gid : Nat) (ls : List Nat) (f : Nat → Lane → Lane) : (s.modLanes gid ls f).bistRun = s.bistRun := rfl
@[simp] theorem State.modLanes_winOld (s : State) (gid : Nat) (ls : List Nat) (f : Nat → Lane → Lane) : (s.modLanes gid ls f).winOld = s.winOld := rfl

/-! ### modTake -/

@[simp] theorem State.modTake_counter (s : State) (tid : Nat) (f : Take → Take) : (s.modTake tid f).counter = s.counter := rfl
@[simp] theorem State.modTake_domains (s : State) (tid : Nat) (f : Take → Take) : (s.modTake tid f).domains = s.domains := rfl
@[simp] theorem State.modTake_turn (s : State) (tid : Nat) (f : Take → Take) : (s.modTake tid f).turn = s.turn := rfl
@[simp] theorem State.modTake_ports (s : State) (tid : Nat) (f : Take → Take) : (s.modTake tid f).ports = s.ports := rfl
@[simp] theorem State.modTake_fresh (s : State) (tid : Nat) (f : Take → Take) : (s.modTake tid f).fresh = s.fresh := rfl
@[simp] theorem State.modTake_picks (s : State) (tid : Nat) (f : Take → Take) : (s.modTake tid f).picks = s.picks := rfl
@[simp] theorem State.modTake_inputs (s : State) (tid : Nat) (f : Take → Take) : (s.modTake tid f).inputs = s.inputs := rfl
@[simp] theorem State.modTake_cur (s : State) (tid : Nat) (f : Take → Take) : (s.modTake tid f).cur = s.cur := rfl
@[simp] theorem State.modTake_todo (s : State) (tid : Nat) (f : Take → Take) : (s.modTake tid f).todo = s.todo := rfl
@[simp] theorem State.modTake_nextOp (s : State) (tid : Nat) (f : Take → Take) : (s.modTake tid f).nextOp = s.nextOp := rfl
@[simp] theorem State.modTake_nextGid (s : State) (tid : Nat) (f : Take → Take) : (s.modTake tid f).nextGid = s.nextGid := rfl
@[simp] theorem State.modTake_nextOrder (s : State) (tid : Nat) (f : Take → Take) : (s.modTake tid f).nextOrder = s.nextOrder := rfl
@[simp] theorem State.modTake_powered (s : State) (tid : Nat) (f : Take → Take) : (s.modTake tid f).powered = s.powered := rfl
@[simp] theorem State.modTake_frozen (s : State) (tid : Nat) (f : Take → Take) : (s.modTake tid f).frozen = s.frozen := rfl
@[simp] theorem State.modTake_mode (s : State) (tid : Nat) (f : Take → Take) : (s.modTake tid f).mode = s.mode := rfl
@[simp] theorem State.modTake_rstrap (s : State) (tid : Nat) (f : Take → Take) : (s.modTake tid f).rstrap = s.rstrap := rfl
@[simp] theorem State.modTake_ostrap (s : State) (tid : Nat) (f : Take → Take) : (s.modTake tid f).ostrap = s.ostrap := rfl
@[simp] theorem State.modTake_nonce (s : State) (tid : Nat) (f : Take → Take) : (s.modTake tid f).nonce = s.nonce := rfl
@[simp] theorem State.modTake_fuses (s : State) (tid : Nat) (f : Take → Take) : (s.modTake tid f).fuses = s.fuses := rfl
@[simp] theorem State.modTake_running (s : State) (tid : Nat) (f : Take → Take) : (s.modTake tid f).running = s.running := rfl
@[simp] theorem State.modTake_regs (s : State) (tid : Nat) (f : Take → Take) : (s.modTake tid f).regs = s.regs := rfl
@[simp] theorem State.modTake_mbox (s : State) (tid : Nat) (f : Take → Take) : (s.modTake tid f).mbox = s.mbox := rfl
@[simp] theorem State.modTake_mem (s : State) (tid : Nat) (f : Take → Take) : (s.modTake tid f).mem = s.mem := rfl
@[simp] theorem State.modTake_veil (s : State) (tid : Nat) (f : Take → Take) : (s.modTake tid f).veil = s.veil := rfl
@[simp] theorem State.modTake_poison (s : State) (tid : Nat) (f : Take → Take) : (s.modTake tid f).poison = s.poison := rfl
@[simp] theorem State.modTake_stamp (s : State) (tid : Nat) (f : Take → Take) : (s.modTake tid f).stamp = s.stamp := rfl
@[simp] theorem State.modTake_wlog (s : State) (tid : Nat) (f : Take → Take) : (s.modTake tid f).wlog = s.wlog := rfl
@[simp] theorem State.modTake_l2 (s : State) (tid : Nat) (f : Take → Take) : (s.modTake tid f).l2 = s.l2 := rfl
@[simp] theorem State.modTake_l1 (s : State) (tid : Nat) (f : Take → Take) : (s.modTake tid f).l1 = s.l1 := rfl
@[simp] theorem State.modTake_tlb (s : State) (tid : Nat) (f : Take → Take) : (s.modTake tid f).tlb = s.tlb := rfl
@[simp] theorem State.modTake_walkers (s : State) (tid : Nat) (f : Take → Take) : (s.modTake tid f).walkers = s.walkers := rfl
@[simp] theorem State.modTake_seen (s : State) (tid : Nat) (f : Take → Take) : (s.modTake tid f).seen = s.seen := rfl
@[simp] theorem State.modTake_ctxs (s : State) (tid : Nat) (f : Take → Take) : (s.modTake tid f).ctxs = s.ctxs := rfl
@[simp] theorem State.modTake_takeCtr (s : State) (tid : Nat) (f : Take → Take) : (s.modTake tid f).takeCtr = s.takeCtr := rfl
@[simp] theorem State.modTake_teams (s : State) (tid : Nat) (f : Take → Take) : (s.modTake tid f).teams = s.teams := rfl
@[simp] theorem State.modTake_queues (s : State) (tid : Nat) (f : Take → Take) : (s.modTake tid f).queues = s.queues := rfl
@[simp] theorem State.modTake_groups (s : State) (tid : Nat) (f : Take → Take) : (s.modTake tid f).groups = s.groups := rfl
@[simp] theorem State.modTake_ops (s : State) (tid : Nat) (f : Take → Take) : (s.modTake tid f).ops = s.ops := rfl
@[simp] theorem State.modTake_channels (s : State) (tid : Nat) (f : Take → Take) : (s.modTake tid f).channels = s.channels := rfl
@[simp] theorem State.modTake_watches (s : State) (tid : Nat) (f : Take → Take) : (s.modTake tid f).watches = s.watches := rfl
@[simp] theorem State.modTake_notes (s : State) (tid : Nat) (f : Take → Take) : (s.modTake tid f).notes = s.notes := rfl
@[simp] theorem State.modTake_snoops (s : State) (tid : Nat) (f : Take → Take) : (s.modTake tid f).snoops = s.snoops := rfl
@[simp] theorem State.modTake_hostHeld (s : State) (tid : Nat) (f : Take → Take) : (s.modTake tid f).hostHeld = s.hostHeld := rfl
@[simp] theorem State.modTake_backSnoops (s : State) (tid : Nat) (f : Take → Take) : (s.modTake tid f).backSnoops = s.backSnoops := rfl
@[simp] theorem State.modTake_bistRun (s : State) (tid : Nat) (f : Take → Take) : (s.modTake tid f).bistRun = s.bistRun := rfl
@[simp] theorem State.modTake_winOld (s : State) (tid : Nat) (f : Take → Take) : (s.modTake tid f).winOld = s.winOld := rfl

/-! ### modCtx -/

@[simp] theorem State.modCtx_counter (s : State) (id : Nat) (f : Ctx → Ctx) : (s.modCtx id f).counter = s.counter := rfl
@[simp] theorem State.modCtx_domains (s : State) (id : Nat) (f : Ctx → Ctx) : (s.modCtx id f).domains = s.domains := rfl
@[simp] theorem State.modCtx_turn (s : State) (id : Nat) (f : Ctx → Ctx) : (s.modCtx id f).turn = s.turn := rfl
@[simp] theorem State.modCtx_ports (s : State) (id : Nat) (f : Ctx → Ctx) : (s.modCtx id f).ports = s.ports := rfl
@[simp] theorem State.modCtx_fresh (s : State) (id : Nat) (f : Ctx → Ctx) : (s.modCtx id f).fresh = s.fresh := rfl
@[simp] theorem State.modCtx_picks (s : State) (id : Nat) (f : Ctx → Ctx) : (s.modCtx id f).picks = s.picks := rfl
@[simp] theorem State.modCtx_inputs (s : State) (id : Nat) (f : Ctx → Ctx) : (s.modCtx id f).inputs = s.inputs := rfl
@[simp] theorem State.modCtx_cur (s : State) (id : Nat) (f : Ctx → Ctx) : (s.modCtx id f).cur = s.cur := rfl
@[simp] theorem State.modCtx_todo (s : State) (id : Nat) (f : Ctx → Ctx) : (s.modCtx id f).todo = s.todo := rfl
@[simp] theorem State.modCtx_nextOp (s : State) (id : Nat) (f : Ctx → Ctx) : (s.modCtx id f).nextOp = s.nextOp := rfl
@[simp] theorem State.modCtx_nextGid (s : State) (id : Nat) (f : Ctx → Ctx) : (s.modCtx id f).nextGid = s.nextGid := rfl
@[simp] theorem State.modCtx_nextOrder (s : State) (id : Nat) (f : Ctx → Ctx) : (s.modCtx id f).nextOrder = s.nextOrder := rfl
@[simp] theorem State.modCtx_powered (s : State) (id : Nat) (f : Ctx → Ctx) : (s.modCtx id f).powered = s.powered := rfl
@[simp] theorem State.modCtx_frozen (s : State) (id : Nat) (f : Ctx → Ctx) : (s.modCtx id f).frozen = s.frozen := rfl
@[simp] theorem State.modCtx_mode (s : State) (id : Nat) (f : Ctx → Ctx) : (s.modCtx id f).mode = s.mode := rfl
@[simp] theorem State.modCtx_rstrap (s : State) (id : Nat) (f : Ctx → Ctx) : (s.modCtx id f).rstrap = s.rstrap := rfl
@[simp] theorem State.modCtx_ostrap (s : State) (id : Nat) (f : Ctx → Ctx) : (s.modCtx id f).ostrap = s.ostrap := rfl
@[simp] theorem State.modCtx_nonce (s : State) (id : Nat) (f : Ctx → Ctx) : (s.modCtx id f).nonce = s.nonce := rfl
@[simp] theorem State.modCtx_fuses (s : State) (id : Nat) (f : Ctx → Ctx) : (s.modCtx id f).fuses = s.fuses := rfl
@[simp] theorem State.modCtx_running (s : State) (id : Nat) (f : Ctx → Ctx) : (s.modCtx id f).running = s.running := rfl
@[simp] theorem State.modCtx_regs (s : State) (id : Nat) (f : Ctx → Ctx) : (s.modCtx id f).regs = s.regs := rfl
@[simp] theorem State.modCtx_mbox (s : State) (id : Nat) (f : Ctx → Ctx) : (s.modCtx id f).mbox = s.mbox := rfl
@[simp] theorem State.modCtx_mem (s : State) (id : Nat) (f : Ctx → Ctx) : (s.modCtx id f).mem = s.mem := rfl
@[simp] theorem State.modCtx_veil (s : State) (id : Nat) (f : Ctx → Ctx) : (s.modCtx id f).veil = s.veil := rfl
@[simp] theorem State.modCtx_poison (s : State) (id : Nat) (f : Ctx → Ctx) : (s.modCtx id f).poison = s.poison := rfl
@[simp] theorem State.modCtx_stamp (s : State) (id : Nat) (f : Ctx → Ctx) : (s.modCtx id f).stamp = s.stamp := rfl
@[simp] theorem State.modCtx_wlog (s : State) (id : Nat) (f : Ctx → Ctx) : (s.modCtx id f).wlog = s.wlog := rfl
@[simp] theorem State.modCtx_l2 (s : State) (id : Nat) (f : Ctx → Ctx) : (s.modCtx id f).l2 = s.l2 := rfl
@[simp] theorem State.modCtx_l1 (s : State) (id : Nat) (f : Ctx → Ctx) : (s.modCtx id f).l1 = s.l1 := rfl
@[simp] theorem State.modCtx_tlb (s : State) (id : Nat) (f : Ctx → Ctx) : (s.modCtx id f).tlb = s.tlb := rfl
@[simp] theorem State.modCtx_walkers (s : State) (id : Nat) (f : Ctx → Ctx) : (s.modCtx id f).walkers = s.walkers := rfl
@[simp] theorem State.modCtx_seen (s : State) (id : Nat) (f : Ctx → Ctx) : (s.modCtx id f).seen = s.seen := rfl
@[simp] theorem State.modCtx_takeCtr (s : State) (id : Nat) (f : Ctx → Ctx) : (s.modCtx id f).takeCtr = s.takeCtr := rfl
@[simp] theorem State.modCtx_takes (s : State) (id : Nat) (f : Ctx → Ctx) : (s.modCtx id f).takes = s.takes := rfl
@[simp] theorem State.modCtx_teams (s : State) (id : Nat) (f : Ctx → Ctx) : (s.modCtx id f).teams = s.teams := rfl
@[simp] theorem State.modCtx_queues (s : State) (id : Nat) (f : Ctx → Ctx) : (s.modCtx id f).queues = s.queues := rfl
@[simp] theorem State.modCtx_groups (s : State) (id : Nat) (f : Ctx → Ctx) : (s.modCtx id f).groups = s.groups := rfl
@[simp] theorem State.modCtx_ops (s : State) (id : Nat) (f : Ctx → Ctx) : (s.modCtx id f).ops = s.ops := rfl
@[simp] theorem State.modCtx_channels (s : State) (id : Nat) (f : Ctx → Ctx) : (s.modCtx id f).channels = s.channels := rfl
@[simp] theorem State.modCtx_watches (s : State) (id : Nat) (f : Ctx → Ctx) : (s.modCtx id f).watches = s.watches := rfl
@[simp] theorem State.modCtx_notes (s : State) (id : Nat) (f : Ctx → Ctx) : (s.modCtx id f).notes = s.notes := rfl
@[simp] theorem State.modCtx_snoops (s : State) (id : Nat) (f : Ctx → Ctx) : (s.modCtx id f).snoops = s.snoops := rfl
@[simp] theorem State.modCtx_hostHeld (s : State) (id : Nat) (f : Ctx → Ctx) : (s.modCtx id f).hostHeld = s.hostHeld := rfl
@[simp] theorem State.modCtx_backSnoops (s : State) (id : Nat) (f : Ctx → Ctx) : (s.modCtx id f).backSnoops = s.backSnoops := rfl
@[simp] theorem State.modCtx_bistRun (s : State) (id : Nat) (f : Ctx → Ctx) : (s.modCtx id f).bistRun = s.bistRun := rfl
@[simp] theorem State.modCtx_winOld (s : State) (id : Nat) (f : Ctx → Ctx) : (s.modCtx id f).winOld = s.winOld := rfl

/-! ### modOp -/

@[simp] theorem State.modOp_counter (s : State) (id : Nat) (f : Op → Op) : (s.modOp id f).counter = s.counter := rfl
@[simp] theorem State.modOp_domains (s : State) (id : Nat) (f : Op → Op) : (s.modOp id f).domains = s.domains := rfl
@[simp] theorem State.modOp_turn (s : State) (id : Nat) (f : Op → Op) : (s.modOp id f).turn = s.turn := rfl
@[simp] theorem State.modOp_ports (s : State) (id : Nat) (f : Op → Op) : (s.modOp id f).ports = s.ports := rfl
@[simp] theorem State.modOp_fresh (s : State) (id : Nat) (f : Op → Op) : (s.modOp id f).fresh = s.fresh := rfl
@[simp] theorem State.modOp_picks (s : State) (id : Nat) (f : Op → Op) : (s.modOp id f).picks = s.picks := rfl
@[simp] theorem State.modOp_inputs (s : State) (id : Nat) (f : Op → Op) : (s.modOp id f).inputs = s.inputs := rfl
@[simp] theorem State.modOp_cur (s : State) (id : Nat) (f : Op → Op) : (s.modOp id f).cur = s.cur := rfl
@[simp] theorem State.modOp_todo (s : State) (id : Nat) (f : Op → Op) : (s.modOp id f).todo = s.todo := rfl
@[simp] theorem State.modOp_nextOp (s : State) (id : Nat) (f : Op → Op) : (s.modOp id f).nextOp = s.nextOp := rfl
@[simp] theorem State.modOp_nextGid (s : State) (id : Nat) (f : Op → Op) : (s.modOp id f).nextGid = s.nextGid := rfl
@[simp] theorem State.modOp_nextOrder (s : State) (id : Nat) (f : Op → Op) : (s.modOp id f).nextOrder = s.nextOrder := rfl
@[simp] theorem State.modOp_powered (s : State) (id : Nat) (f : Op → Op) : (s.modOp id f).powered = s.powered := rfl
@[simp] theorem State.modOp_frozen (s : State) (id : Nat) (f : Op → Op) : (s.modOp id f).frozen = s.frozen := rfl
@[simp] theorem State.modOp_mode (s : State) (id : Nat) (f : Op → Op) : (s.modOp id f).mode = s.mode := rfl
@[simp] theorem State.modOp_rstrap (s : State) (id : Nat) (f : Op → Op) : (s.modOp id f).rstrap = s.rstrap := rfl
@[simp] theorem State.modOp_ostrap (s : State) (id : Nat) (f : Op → Op) : (s.modOp id f).ostrap = s.ostrap := rfl
@[simp] theorem State.modOp_nonce (s : State) (id : Nat) (f : Op → Op) : (s.modOp id f).nonce = s.nonce := rfl
@[simp] theorem State.modOp_fuses (s : State) (id : Nat) (f : Op → Op) : (s.modOp id f).fuses = s.fuses := rfl
@[simp] theorem State.modOp_running (s : State) (id : Nat) (f : Op → Op) : (s.modOp id f).running = s.running := rfl
@[simp] theorem State.modOp_regs (s : State) (id : Nat) (f : Op → Op) : (s.modOp id f).regs = s.regs := rfl
@[simp] theorem State.modOp_mbox (s : State) (id : Nat) (f : Op → Op) : (s.modOp id f).mbox = s.mbox := rfl
@[simp] theorem State.modOp_mem (s : State) (id : Nat) (f : Op → Op) : (s.modOp id f).mem = s.mem := rfl
@[simp] theorem State.modOp_veil (s : State) (id : Nat) (f : Op → Op) : (s.modOp id f).veil = s.veil := rfl
@[simp] theorem State.modOp_poison (s : State) (id : Nat) (f : Op → Op) : (s.modOp id f).poison = s.poison := rfl
@[simp] theorem State.modOp_stamp (s : State) (id : Nat) (f : Op → Op) : (s.modOp id f).stamp = s.stamp := rfl
@[simp] theorem State.modOp_wlog (s : State) (id : Nat) (f : Op → Op) : (s.modOp id f).wlog = s.wlog := rfl
@[simp] theorem State.modOp_l2 (s : State) (id : Nat) (f : Op → Op) : (s.modOp id f).l2 = s.l2 := rfl
@[simp] theorem State.modOp_l1 (s : State) (id : Nat) (f : Op → Op) : (s.modOp id f).l1 = s.l1 := rfl
@[simp] theorem State.modOp_tlb (s : State) (id : Nat) (f : Op → Op) : (s.modOp id f).tlb = s.tlb := rfl
@[simp] theorem State.modOp_walkers (s : State) (id : Nat) (f : Op → Op) : (s.modOp id f).walkers = s.walkers := rfl
@[simp] theorem State.modOp_seen (s : State) (id : Nat) (f : Op → Op) : (s.modOp id f).seen = s.seen := rfl
@[simp] theorem State.modOp_ctxs (s : State) (id : Nat) (f : Op → Op) : (s.modOp id f).ctxs = s.ctxs := rfl
@[simp] theorem State.modOp_takeCtr (s : State) (id : Nat) (f : Op → Op) : (s.modOp id f).takeCtr = s.takeCtr := rfl
@[simp] theorem State.modOp_takes (s : State) (id : Nat) (f : Op → Op) : (s.modOp id f).takes = s.takes := rfl
@[simp] theorem State.modOp_teams (s : State) (id : Nat) (f : Op → Op) : (s.modOp id f).teams = s.teams := rfl
@[simp] theorem State.modOp_queues (s : State) (id : Nat) (f : Op → Op) : (s.modOp id f).queues = s.queues := rfl
@[simp] theorem State.modOp_groups (s : State) (id : Nat) (f : Op → Op) : (s.modOp id f).groups = s.groups := rfl
@[simp] theorem State.modOp_channels (s : State) (id : Nat) (f : Op → Op) : (s.modOp id f).channels = s.channels := rfl
@[simp] theorem State.modOp_watches (s : State) (id : Nat) (f : Op → Op) : (s.modOp id f).watches = s.watches := rfl
@[simp] theorem State.modOp_notes (s : State) (id : Nat) (f : Op → Op) : (s.modOp id f).notes = s.notes := rfl
@[simp] theorem State.modOp_snoops (s : State) (id : Nat) (f : Op → Op) : (s.modOp id f).snoops = s.snoops := rfl
@[simp] theorem State.modOp_hostHeld (s : State) (id : Nat) (f : Op → Op) : (s.modOp id f).hostHeld = s.hostHeld := rfl
@[simp] theorem State.modOp_backSnoops (s : State) (id : Nat) (f : Op → Op) : (s.modOp id f).backSnoops = s.backSnoops := rfl
@[simp] theorem State.modOp_bistRun (s : State) (id : Nat) (f : Op → Op) : (s.modOp id f).bistRun = s.bistRun := rfl
@[simp] theorem State.modOp_winOld (s : State) (id : Nat) (f : Op → Op) : (s.modOp id f).winOld = s.winOld := rfl

/-! ### dropOp -/

@[simp] theorem State.dropOp_counter (s : State) (id : Nat) : (s.dropOp id).counter = s.counter := rfl
@[simp] theorem State.dropOp_domains (s : State) (id : Nat) : (s.dropOp id).domains = s.domains := rfl
@[simp] theorem State.dropOp_turn (s : State) (id : Nat) : (s.dropOp id).turn = s.turn := rfl
@[simp] theorem State.dropOp_ports (s : State) (id : Nat) : (s.dropOp id).ports = s.ports := rfl
@[simp] theorem State.dropOp_fresh (s : State) (id : Nat) : (s.dropOp id).fresh = s.fresh := rfl
@[simp] theorem State.dropOp_picks (s : State) (id : Nat) : (s.dropOp id).picks = s.picks := rfl
@[simp] theorem State.dropOp_inputs (s : State) (id : Nat) : (s.dropOp id).inputs = s.inputs := rfl
@[simp] theorem State.dropOp_cur (s : State) (id : Nat) : (s.dropOp id).cur = s.cur := rfl
@[simp] theorem State.dropOp_todo (s : State) (id : Nat) : (s.dropOp id).todo = s.todo := rfl
@[simp] theorem State.dropOp_nextOp (s : State) (id : Nat) : (s.dropOp id).nextOp = s.nextOp := rfl
@[simp] theorem State.dropOp_nextGid (s : State) (id : Nat) : (s.dropOp id).nextGid = s.nextGid := rfl
@[simp] theorem State.dropOp_nextOrder (s : State) (id : Nat) : (s.dropOp id).nextOrder = s.nextOrder := rfl
@[simp] theorem State.dropOp_powered (s : State) (id : Nat) : (s.dropOp id).powered = s.powered := rfl
@[simp] theorem State.dropOp_frozen (s : State) (id : Nat) : (s.dropOp id).frozen = s.frozen := rfl
@[simp] theorem State.dropOp_mode (s : State) (id : Nat) : (s.dropOp id).mode = s.mode := rfl
@[simp] theorem State.dropOp_rstrap (s : State) (id : Nat) : (s.dropOp id).rstrap = s.rstrap := rfl
@[simp] theorem State.dropOp_ostrap (s : State) (id : Nat) : (s.dropOp id).ostrap = s.ostrap := rfl
@[simp] theorem State.dropOp_nonce (s : State) (id : Nat) : (s.dropOp id).nonce = s.nonce := rfl
@[simp] theorem State.dropOp_fuses (s : State) (id : Nat) : (s.dropOp id).fuses = s.fuses := rfl
@[simp] theorem State.dropOp_running (s : State) (id : Nat) : (s.dropOp id).running = s.running := rfl
@[simp] theorem State.dropOp_regs (s : State) (id : Nat) : (s.dropOp id).regs = s.regs := rfl
@[simp] theorem State.dropOp_mbox (s : State) (id : Nat) : (s.dropOp id).mbox = s.mbox := rfl
@[simp] theorem State.dropOp_mem (s : State) (id : Nat) : (s.dropOp id).mem = s.mem := rfl
@[simp] theorem State.dropOp_veil (s : State) (id : Nat) : (s.dropOp id).veil = s.veil := rfl
@[simp] theorem State.dropOp_poison (s : State) (id : Nat) : (s.dropOp id).poison = s.poison := rfl
@[simp] theorem State.dropOp_stamp (s : State) (id : Nat) : (s.dropOp id).stamp = s.stamp := rfl
@[simp] theorem State.dropOp_wlog (s : State) (id : Nat) : (s.dropOp id).wlog = s.wlog := rfl
@[simp] theorem State.dropOp_l2 (s : State) (id : Nat) : (s.dropOp id).l2 = s.l2 := rfl
@[simp] theorem State.dropOp_l1 (s : State) (id : Nat) : (s.dropOp id).l1 = s.l1 := rfl
@[simp] theorem State.dropOp_tlb (s : State) (id : Nat) : (s.dropOp id).tlb = s.tlb := rfl
@[simp] theorem State.dropOp_walkers (s : State) (id : Nat) : (s.dropOp id).walkers = s.walkers := rfl
@[simp] theorem State.dropOp_seen (s : State) (id : Nat) : (s.dropOp id).seen = s.seen := rfl
@[simp] theorem State.dropOp_ctxs (s : State) (id : Nat) : (s.dropOp id).ctxs = s.ctxs := rfl
@[simp] theorem State.dropOp_takeCtr (s : State) (id : Nat) : (s.dropOp id).takeCtr = s.takeCtr := rfl
@[simp] theorem State.dropOp_takes (s : State) (id : Nat) : (s.dropOp id).takes = s.takes := rfl
@[simp] theorem State.dropOp_teams (s : State) (id : Nat) : (s.dropOp id).teams = s.teams := rfl
@[simp] theorem State.dropOp_queues (s : State) (id : Nat) : (s.dropOp id).queues = s.queues := rfl
@[simp] theorem State.dropOp_groups (s : State) (id : Nat) : (s.dropOp id).groups = s.groups := rfl
@[simp] theorem State.dropOp_channels (s : State) (id : Nat) : (s.dropOp id).channels = s.channels := rfl
@[simp] theorem State.dropOp_watches (s : State) (id : Nat) : (s.dropOp id).watches = s.watches := rfl
@[simp] theorem State.dropOp_notes (s : State) (id : Nat) : (s.dropOp id).notes = s.notes := rfl
@[simp] theorem State.dropOp_snoops (s : State) (id : Nat) : (s.dropOp id).snoops = s.snoops := rfl
@[simp] theorem State.dropOp_hostHeld (s : State) (id : Nat) : (s.dropOp id).hostHeld = s.hostHeld := rfl
@[simp] theorem State.dropOp_backSnoops (s : State) (id : Nat) : (s.dropOp id).backSnoops = s.backSnoops := rfl
@[simp] theorem State.dropOp_bistRun (s : State) (id : Nat) : (s.dropOp id).bistRun = s.bistRun := rfl
@[simp] theorem State.dropOp_winOld (s : State) (id : Nat) : (s.dropOp id).winOld = s.winOld := rfl

/-! ### addOp -/

@[simp] theorem State.addOp_counter (s : State) (o : Op) : (s.addOp o).counter = s.counter := rfl
@[simp] theorem State.addOp_domains (s : State) (o : Op) : (s.addOp o).domains = s.domains := rfl
@[simp] theorem State.addOp_turn (s : State) (o : Op) : (s.addOp o).turn = s.turn := rfl
@[simp] theorem State.addOp_ports (s : State) (o : Op) : (s.addOp o).ports = s.ports := rfl
@[simp] theorem State.addOp_fresh (s : State) (o : Op) : (s.addOp o).fresh = s.fresh := rfl
@[simp] theorem State.addOp_picks (s : State) (o : Op) : (s.addOp o).picks = s.picks := rfl
@[simp] theorem State.addOp_inputs (s : State) (o : Op) : (s.addOp o).inputs = s.inputs := rfl
@[simp] theorem State.addOp_cur (s : State) (o : Op) : (s.addOp o).cur = s.cur := rfl
@[simp] theorem State.addOp_todo (s : State) (o : Op) : (s.addOp o).todo = s.todo := rfl
@[simp] theorem State.addOp_nextGid (s : State) (o : Op) : (s.addOp o).nextGid = s.nextGid := rfl
@[simp] theorem State.addOp_nextOrder (s : State) (o : Op) : (s.addOp o).nextOrder = s.nextOrder := rfl
@[simp] theorem State.addOp_powered (s : State) (o : Op) : (s.addOp o).powered = s.powered := rfl
@[simp] theorem State.addOp_frozen (s : State) (o : Op) : (s.addOp o).frozen = s.frozen := rfl
@[simp] theorem State.addOp_mode (s : State) (o : Op) : (s.addOp o).mode = s.mode := rfl
@[simp] theorem State.addOp_rstrap (s : State) (o : Op) : (s.addOp o).rstrap = s.rstrap := rfl
@[simp] theorem State.addOp_ostrap (s : State) (o : Op) : (s.addOp o).ostrap = s.ostrap := rfl
@[simp] theorem State.addOp_nonce (s : State) (o : Op) : (s.addOp o).nonce = s.nonce := rfl
@[simp] theorem State.addOp_fuses (s : State) (o : Op) : (s.addOp o).fuses = s.fuses := rfl
@[simp] theorem State.addOp_running (s : State) (o : Op) : (s.addOp o).running = s.running := rfl
@[simp] theorem State.addOp_regs (s : State) (o : Op) : (s.addOp o).regs = s.regs := rfl
@[simp] theorem State.addOp_mbox (s : State) (o : Op) : (s.addOp o).mbox = s.mbox := rfl
@[simp] theorem State.addOp_mem (s : State) (o : Op) : (s.addOp o).mem = s.mem := rfl
@[simp] theorem State.addOp_veil (s : State) (o : Op) : (s.addOp o).veil = s.veil := rfl
@[simp] theorem State.addOp_poison (s : State) (o : Op) : (s.addOp o).poison = s.poison := rfl
@[simp] theorem State.addOp_stamp (s : State) (o : Op) : (s.addOp o).stamp = s.stamp := rfl
@[simp] theorem State.addOp_wlog (s : State) (o : Op) : (s.addOp o).wlog = s.wlog := rfl
@[simp] theorem State.addOp_l2 (s : State) (o : Op) : (s.addOp o).l2 = s.l2 := rfl
@[simp] theorem State.addOp_l1 (s : State) (o : Op) : (s.addOp o).l1 = s.l1 := rfl
@[simp] theorem State.addOp_tlb (s : State) (o : Op) : (s.addOp o).tlb = s.tlb := rfl
@[simp] theorem State.addOp_walkers (s : State) (o : Op) : (s.addOp o).walkers = s.walkers := rfl
@[simp] theorem State.addOp_seen (s : State) (o : Op) : (s.addOp o).seen = s.seen := rfl
@[simp] theorem State.addOp_ctxs (s : State) (o : Op) : (s.addOp o).ctxs = s.ctxs := rfl
@[simp] theorem State.addOp_takeCtr (s : State) (o : Op) : (s.addOp o).takeCtr = s.takeCtr := rfl
@[simp] theorem State.addOp_takes (s : State) (o : Op) : (s.addOp o).takes = s.takes := rfl
@[simp] theorem State.addOp_teams (s : State) (o : Op) : (s.addOp o).teams = s.teams := rfl
@[simp] theorem State.addOp_queues (s : State) (o : Op) : (s.addOp o).queues = s.queues := rfl
@[simp] theorem State.addOp_channels (s : State) (o : Op) : (s.addOp o).channels = s.channels := rfl
@[simp] theorem State.addOp_watches (s : State) (o : Op) : (s.addOp o).watches = s.watches := rfl
@[simp] theorem State.addOp_notes (s : State) (o : Op) : (s.addOp o).notes = s.notes := rfl
@[simp] theorem State.addOp_snoops (s : State) (o : Op) : (s.addOp o).snoops = s.snoops := rfl
@[simp] theorem State.addOp_hostHeld (s : State) (o : Op) : (s.addOp o).hostHeld = s.hostHeld := rfl
@[simp] theorem State.addOp_backSnoops (s : State) (o : Op) : (s.addOp o).backSnoops = s.backSnoops := rfl
@[simp] theorem State.addOp_bistRun (s : State) (o : Op) : (s.addOp o).bistRun = s.bistRun := rfl
@[simp] theorem State.addOp_winOld (s : State) (o : Op) : (s.addOp o).winOld = s.winOld := rfl

/-! ### setReg -/

@[simp] theorem State.setReg_counter (s : State) (off : Nat) (v : BitVec 64) : (s.setReg off v).counter = s.counter := rfl
@[simp] theorem State.setReg_domains (s : State) (off : Nat) (v : BitVec 64) : (s.setReg off v).domains = s.domains := rfl
@[simp] theorem State.setReg_turn (s : State) (off : Nat) (v : BitVec 64) : (s.setReg off v).turn = s.turn := rfl
@[simp] theorem State.setReg_ports (s : State) (off : Nat) (v : BitVec 64) : (s.setReg off v).ports = s.ports := rfl
@[simp] theorem State.setReg_fresh (s : State) (off : Nat) (v : BitVec 64) : (s.setReg off v).fresh = s.fresh := rfl
@[simp] theorem State.setReg_picks (s : State) (off : Nat) (v : BitVec 64) : (s.setReg off v).picks = s.picks := rfl
@[simp] theorem State.setReg_inputs (s : State) (off : Nat) (v : BitVec 64) : (s.setReg off v).inputs = s.inputs := rfl
@[simp] theorem State.setReg_cur (s : State) (off : Nat) (v : BitVec 64) : (s.setReg off v).cur = s.cur := rfl
@[simp] theorem State.setReg_todo (s : State) (off : Nat) (v : BitVec 64) : (s.setReg off v).todo = s.todo := rfl
@[simp] theorem State.setReg_nextOp (s : State) (off : Nat) (v : BitVec 64) : (s.setReg off v).nextOp = s.nextOp := rfl
@[simp] theorem State.setReg_nextGid (s : State) (off : Nat) (v : BitVec 64) : (s.setReg off v).nextGid = s.nextGid := rfl
@[simp] theorem State.setReg_nextOrder (s : State) (off : Nat) (v : BitVec 64) : (s.setReg off v).nextOrder = s.nextOrder := rfl
@[simp] theorem State.setReg_powered (s : State) (off : Nat) (v : BitVec 64) : (s.setReg off v).powered = s.powered := rfl
@[simp] theorem State.setReg_frozen (s : State) (off : Nat) (v : BitVec 64) : (s.setReg off v).frozen = s.frozen := rfl
@[simp] theorem State.setReg_mode (s : State) (off : Nat) (v : BitVec 64) : (s.setReg off v).mode = s.mode := rfl
@[simp] theorem State.setReg_rstrap (s : State) (off : Nat) (v : BitVec 64) : (s.setReg off v).rstrap = s.rstrap := rfl
@[simp] theorem State.setReg_ostrap (s : State) (off : Nat) (v : BitVec 64) : (s.setReg off v).ostrap = s.ostrap := rfl
@[simp] theorem State.setReg_nonce (s : State) (off : Nat) (v : BitVec 64) : (s.setReg off v).nonce = s.nonce := rfl
@[simp] theorem State.setReg_fuses (s : State) (off : Nat) (v : BitVec 64) : (s.setReg off v).fuses = s.fuses := rfl
@[simp] theorem State.setReg_running (s : State) (off : Nat) (v : BitVec 64) : (s.setReg off v).running = s.running := rfl
@[simp] theorem State.setReg_mbox (s : State) (off : Nat) (v : BitVec 64) : (s.setReg off v).mbox = s.mbox := rfl
@[simp] theorem State.setReg_mem (s : State) (off : Nat) (v : BitVec 64) : (s.setReg off v).mem = s.mem := rfl
@[simp] theorem State.setReg_veil (s : State) (off : Nat) (v : BitVec 64) : (s.setReg off v).veil = s.veil := rfl
@[simp] theorem State.setReg_poison (s : State) (off : Nat) (v : BitVec 64) : (s.setReg off v).poison = s.poison := rfl
@[simp] theorem State.setReg_stamp (s : State) (off : Nat) (v : BitVec 64) : (s.setReg off v).stamp = s.stamp := rfl
@[simp] theorem State.setReg_wlog (s : State) (off : Nat) (v : BitVec 64) : (s.setReg off v).wlog = s.wlog := rfl
@[simp] theorem State.setReg_l2 (s : State) (off : Nat) (v : BitVec 64) : (s.setReg off v).l2 = s.l2 := rfl
@[simp] theorem State.setReg_l1 (s : State) (off : Nat) (v : BitVec 64) : (s.setReg off v).l1 = s.l1 := rfl
@[simp] theorem State.setReg_tlb (s : State) (off : Nat) (v : BitVec 64) : (s.setReg off v).tlb = s.tlb := rfl
@[simp] theorem State.setReg_walkers (s : State) (off : Nat) (v : BitVec 64) : (s.setReg off v).walkers = s.walkers := rfl
@[simp] theorem State.setReg_seen (s : State) (off : Nat) (v : BitVec 64) : (s.setReg off v).seen = s.seen := rfl
@[simp] theorem State.setReg_ctxs (s : State) (off : Nat) (v : BitVec 64) : (s.setReg off v).ctxs = s.ctxs := rfl
@[simp] theorem State.setReg_takeCtr (s : State) (off : Nat) (v : BitVec 64) : (s.setReg off v).takeCtr = s.takeCtr := rfl
@[simp] theorem State.setReg_takes (s : State) (off : Nat) (v : BitVec 64) : (s.setReg off v).takes = s.takes := rfl
@[simp] theorem State.setReg_teams (s : State) (off : Nat) (v : BitVec 64) : (s.setReg off v).teams = s.teams := rfl
@[simp] theorem State.setReg_queues (s : State) (off : Nat) (v : BitVec 64) : (s.setReg off v).queues = s.queues := rfl
@[simp] theorem State.setReg_groups (s : State) (off : Nat) (v : BitVec 64) : (s.setReg off v).groups = s.groups := rfl
@[simp] theorem State.setReg_ops (s : State) (off : Nat) (v : BitVec 64) : (s.setReg off v).ops = s.ops := rfl
@[simp] theorem State.setReg_channels (s : State) (off : Nat) (v : BitVec 64) : (s.setReg off v).channels = s.channels := rfl
@[simp] theorem State.setReg_watches (s : State) (off : Nat) (v : BitVec 64) : (s.setReg off v).watches = s.watches := rfl
@[simp] theorem State.setReg_notes (s : State) (off : Nat) (v : BitVec 64) : (s.setReg off v).notes = s.notes := rfl
@[simp] theorem State.setReg_snoops (s : State) (off : Nat) (v : BitVec 64) : (s.setReg off v).snoops = s.snoops := rfl
@[simp] theorem State.setReg_hostHeld (s : State) (off : Nat) (v : BitVec 64) : (s.setReg off v).hostHeld = s.hostHeld := rfl
@[simp] theorem State.setReg_backSnoops (s : State) (off : Nat) (v : BitVec 64) : (s.setReg off v).backSnoops = s.backSnoops := rfl
@[simp] theorem State.setReg_bistRun (s : State) (off : Nat) (v : BitVec 64) : (s.setReg off v).bistRun = s.bistRun := rfl
@[simp] theorem State.setReg_winOld (s : State) (off : Nat) (v : BitVec 64) : (s.setReg off v).winOld = s.winOld := rfl

/-! ### setField -/

@[simp] theorem State.setField_counter (s : State) (off a n v : Nat) : (s.setField off a n v).counter = s.counter := rfl
@[simp] theorem State.setField_domains (s : State) (off a n v : Nat) : (s.setField off a n v).domains = s.domains := rfl
@[simp] theorem State.setField_turn (s : State) (off a n v : Nat) : (s.setField off a n v).turn = s.turn := rfl
@[simp] theorem State.setField_ports (s : State) (off a n v : Nat) : (s.setField off a n v).ports = s.ports := rfl
@[simp] theorem State.setField_fresh (s : State) (off a n v : Nat) : (s.setField off a n v).fresh = s.fresh := rfl
@[simp] theorem State.setField_picks (s : State) (off a n v : Nat) : (s.setField off a n v).picks = s.picks := rfl
@[simp] theorem State.setField_inputs (s : State) (off a n v : Nat) : (s.setField off a n v).inputs = s.inputs := rfl
@[simp] theorem State.setField_cur (s : State) (off a n v : Nat) : (s.setField off a n v).cur = s.cur := rfl
@[simp] theorem State.setField_todo (s : State) (off a n v : Nat) : (s.setField off a n v).todo = s.todo := rfl
@[simp] theorem State.setField_nextOp (s : State) (off a n v : Nat) : (s.setField off a n v).nextOp = s.nextOp := rfl
@[simp] theorem State.setField_nextGid (s : State) (off a n v : Nat) : (s.setField off a n v).nextGid = s.nextGid := rfl
@[simp] theorem State.setField_nextOrder (s : State) (off a n v : Nat) : (s.setField off a n v).nextOrder = s.nextOrder := rfl
@[simp] theorem State.setField_powered (s : State) (off a n v : Nat) : (s.setField off a n v).powered = s.powered := rfl
@[simp] theorem State.setField_frozen (s : State) (off a n v : Nat) : (s.setField off a n v).frozen = s.frozen := rfl
@[simp] theorem State.setField_mode (s : State) (off a n v : Nat) : (s.setField off a n v).mode = s.mode := rfl
@[simp] theorem State.setField_rstrap (s : State) (off a n v : Nat) : (s.setField off a n v).rstrap = s.rstrap := rfl
@[simp] theorem State.setField_ostrap (s : State) (off a n v : Nat) : (s.setField off a n v).ostrap = s.ostrap := rfl
@[simp] theorem State.setField_nonce (s : State) (off a n v : Nat) : (s.setField off a n v).nonce = s.nonce := rfl
@[simp] theorem State.setField_fuses (s : State) (off a n v : Nat) : (s.setField off a n v).fuses = s.fuses := rfl
@[simp] theorem State.setField_running (s : State) (off a n v : Nat) : (s.setField off a n v).running = s.running := rfl
@[simp] theorem State.setField_mbox (s : State) (off a n v : Nat) : (s.setField off a n v).mbox = s.mbox := rfl
@[simp] theorem State.setField_mem (s : State) (off a n v : Nat) : (s.setField off a n v).mem = s.mem := rfl
@[simp] theorem State.setField_veil (s : State) (off a n v : Nat) : (s.setField off a n v).veil = s.veil := rfl
@[simp] theorem State.setField_poison (s : State) (off a n v : Nat) : (s.setField off a n v).poison = s.poison := rfl
@[simp] theorem State.setField_stamp (s : State) (off a n v : Nat) : (s.setField off a n v).stamp = s.stamp := rfl
@[simp] theorem State.setField_wlog (s : State) (off a n v : Nat) : (s.setField off a n v).wlog = s.wlog := rfl
@[simp] theorem State.setField_l2 (s : State) (off a n v : Nat) : (s.setField off a n v).l2 = s.l2 := rfl
@[simp] theorem State.setField_l1 (s : State) (off a n v : Nat) : (s.setField off a n v).l1 = s.l1 := rfl
@[simp] theorem State.setField_tlb (s : State) (off a n v : Nat) : (s.setField off a n v).tlb = s.tlb := rfl
@[simp] theorem State.setField_walkers (s : State) (off a n v : Nat) : (s.setField off a n v).walkers = s.walkers := rfl
@[simp] theorem State.setField_seen (s : State) (off a n v : Nat) : (s.setField off a n v).seen = s.seen := rfl
@[simp] theorem State.setField_ctxs (s : State) (off a n v : Nat) : (s.setField off a n v).ctxs = s.ctxs := rfl
@[simp] theorem State.setField_takeCtr (s : State) (off a n v : Nat) : (s.setField off a n v).takeCtr = s.takeCtr := rfl
@[simp] theorem State.setField_takes (s : State) (off a n v : Nat) : (s.setField off a n v).takes = s.takes := rfl
@[simp] theorem State.setField_teams (s : State) (off a n v : Nat) : (s.setField off a n v).teams = s.teams := rfl
@[simp] theorem State.setField_queues (s : State) (off a n v : Nat) : (s.setField off a n v).queues = s.queues := rfl
@[simp] theorem State.setField_groups (s : State) (off a n v : Nat) : (s.setField off a n v).groups = s.groups := rfl
@[simp] theorem State.setField_ops (s : State) (off a n v : Nat) : (s.setField off a n v).ops = s.ops := rfl
@[simp] theorem State.setField_channels (s : State) (off a n v : Nat) : (s.setField off a n v).channels = s.channels := rfl
@[simp] theorem State.setField_watches (s : State) (off a n v : Nat) : (s.setField off a n v).watches = s.watches := rfl
@[simp] theorem State.setField_notes (s : State) (off a n v : Nat) : (s.setField off a n v).notes = s.notes := rfl
@[simp] theorem State.setField_snoops (s : State) (off a n v : Nat) : (s.setField off a n v).snoops = s.snoops := rfl
@[simp] theorem State.setField_hostHeld (s : State) (off a n v : Nat) : (s.setField off a n v).hostHeld = s.hostHeld := rfl
@[simp] theorem State.setField_backSnoops (s : State) (off a n v : Nat) : (s.setField off a n v).backSnoops = s.backSnoops := rfl
@[simp] theorem State.setField_bistRun (s : State) (off a n v : Nat) : (s.setField off a n v).bistRun = s.bistRun := rfl
@[simp] theorem State.setField_winOld (s : State) (off a n v : Nat) : (s.setField off a n v).winOld = s.winOld := rfl

/-! ### renew -/

@[simp] theorem State.renew_counter (s : State) : (s.renew).counter = s.counter := rfl
@[simp] theorem State.renew_domains (s : State) : (s.renew).domains = s.domains := rfl
@[simp] theorem State.renew_turn (s : State) : (s.renew).turn = s.turn := rfl
@[simp] theorem State.renew_ports (s : State) : (s.renew).ports = s.ports := rfl
@[simp] theorem State.renew_picks (s : State) : (s.renew).picks = s.picks := rfl
@[simp] theorem State.renew_inputs (s : State) : (s.renew).inputs = s.inputs := rfl
@[simp] theorem State.renew_cur (s : State) : (s.renew).cur = s.cur := rfl
@[simp] theorem State.renew_todo (s : State) : (s.renew).todo = s.todo := rfl
@[simp] theorem State.renew_nextOp (s : State) : (s.renew).nextOp = s.nextOp := rfl
@[simp] theorem State.renew_nextGid (s : State) : (s.renew).nextGid = s.nextGid := rfl
@[simp] theorem State.renew_nextOrder (s : State) : (s.renew).nextOrder = s.nextOrder := rfl
@[simp] theorem State.renew_powered (s : State) : (s.renew).powered = s.powered := rfl
@[simp] theorem State.renew_frozen (s : State) : (s.renew).frozen = s.frozen := rfl
@[simp] theorem State.renew_mode (s : State) : (s.renew).mode = s.mode := rfl
@[simp] theorem State.renew_rstrap (s : State) : (s.renew).rstrap = s.rstrap := rfl
@[simp] theorem State.renew_ostrap (s : State) : (s.renew).ostrap = s.ostrap := rfl
@[simp] theorem State.renew_nonce (s : State) : (s.renew).nonce = s.nonce := rfl
@[simp] theorem State.renew_fuses (s : State) : (s.renew).fuses = s.fuses := rfl
@[simp] theorem State.renew_running (s : State) : (s.renew).running = s.running := rfl
@[simp] theorem State.renew_regs (s : State) : (s.renew).regs = s.regs := rfl
@[simp] theorem State.renew_mbox (s : State) : (s.renew).mbox = s.mbox := rfl
@[simp] theorem State.renew_mem (s : State) : (s.renew).mem = s.mem := rfl
@[simp] theorem State.renew_veil (s : State) : (s.renew).veil = s.veil := rfl
@[simp] theorem State.renew_poison (s : State) : (s.renew).poison = s.poison := rfl
@[simp] theorem State.renew_stamp (s : State) : (s.renew).stamp = s.stamp := rfl
@[simp] theorem State.renew_wlog (s : State) : (s.renew).wlog = s.wlog := rfl
@[simp] theorem State.renew_l2 (s : State) : (s.renew).l2 = s.l2 := rfl
@[simp] theorem State.renew_l1 (s : State) : (s.renew).l1 = s.l1 := rfl
@[simp] theorem State.renew_tlb (s : State) : (s.renew).tlb = s.tlb := rfl
@[simp] theorem State.renew_walkers (s : State) : (s.renew).walkers = s.walkers := rfl
@[simp] theorem State.renew_seen (s : State) : (s.renew).seen = s.seen := rfl
@[simp] theorem State.renew_ctxs (s : State) : (s.renew).ctxs = s.ctxs := rfl
@[simp] theorem State.renew_takeCtr (s : State) : (s.renew).takeCtr = s.takeCtr := rfl
@[simp] theorem State.renew_takes (s : State) : (s.renew).takes = s.takes := rfl
@[simp] theorem State.renew_teams (s : State) : (s.renew).teams = s.teams := rfl
@[simp] theorem State.renew_queues (s : State) : (s.renew).queues = s.queues := rfl
@[simp] theorem State.renew_groups (s : State) : (s.renew).groups = s.groups := rfl
@[simp] theorem State.renew_ops (s : State) : (s.renew).ops = s.ops := rfl
@[simp] theorem State.renew_channels (s : State) : (s.renew).channels = s.channels := rfl
@[simp] theorem State.renew_watches (s : State) : (s.renew).watches = s.watches := rfl
@[simp] theorem State.renew_notes (s : State) : (s.renew).notes = s.notes := rfl
@[simp] theorem State.renew_snoops (s : State) : (s.renew).snoops = s.snoops := rfl
@[simp] theorem State.renew_hostHeld (s : State) : (s.renew).hostHeld = s.hostHeld := rfl
@[simp] theorem State.renew_backSnoops (s : State) : (s.renew).backSnoops = s.backSnoops := rfl
@[simp] theorem State.renew_bistRun (s : State) : (s.renew).bistRun = s.bistRun := rfl
@[simp] theorem State.renew_winOld (s : State) : (s.renew).winOld = s.winOld := rfl

/-! ### raiseMsi -/

@[simp] theorem State.raiseMsi_counter (s : State) (v : Nat) : (s.raiseMsi v).counter = s.counter := rfl
@[simp] theorem State.raiseMsi_domains (s : State) (v : Nat) : (s.raiseMsi v).domains = s.domains := rfl
@[simp] theorem State.raiseMsi_turn (s : State) (v : Nat) : (s.raiseMsi v).turn = s.turn := rfl
@[simp] theorem State.raiseMsi_ports (s : State) (v : Nat) : (s.raiseMsi v).ports = s.ports := rfl
@[simp] theorem State.raiseMsi_fresh (s : State) (v : Nat) : (s.raiseMsi v).fresh = s.fresh := rfl
@[simp] theorem State.raiseMsi_picks (s : State) (v : Nat) : (s.raiseMsi v).picks = s.picks := rfl
@[simp] theorem State.raiseMsi_inputs (s : State) (v : Nat) : (s.raiseMsi v).inputs = s.inputs := rfl
@[simp] theorem State.raiseMsi_cur (s : State) (v : Nat) : (s.raiseMsi v).cur = s.cur := rfl
@[simp] theorem State.raiseMsi_todo (s : State) (v : Nat) : (s.raiseMsi v).todo = s.todo := rfl
@[simp] theorem State.raiseMsi_nextOp (s : State) (v : Nat) : (s.raiseMsi v).nextOp = s.nextOp := rfl
@[simp] theorem State.raiseMsi_nextGid (s : State) (v : Nat) : (s.raiseMsi v).nextGid = s.nextGid := rfl
@[simp] theorem State.raiseMsi_nextOrder (s : State) (v : Nat) : (s.raiseMsi v).nextOrder = s.nextOrder := rfl
@[simp] theorem State.raiseMsi_powered (s : State) (v : Nat) : (s.raiseMsi v).powered = s.powered := rfl
@[simp] theorem State.raiseMsi_frozen (s : State) (v : Nat) : (s.raiseMsi v).frozen = s.frozen := rfl
@[simp] theorem State.raiseMsi_mode (s : State) (v : Nat) : (s.raiseMsi v).mode = s.mode := rfl
@[simp] theorem State.raiseMsi_rstrap (s : State) (v : Nat) : (s.raiseMsi v).rstrap = s.rstrap := rfl
@[simp] theorem State.raiseMsi_ostrap (s : State) (v : Nat) : (s.raiseMsi v).ostrap = s.ostrap := rfl
@[simp] theorem State.raiseMsi_nonce (s : State) (v : Nat) : (s.raiseMsi v).nonce = s.nonce := rfl
@[simp] theorem State.raiseMsi_fuses (s : State) (v : Nat) : (s.raiseMsi v).fuses = s.fuses := rfl
@[simp] theorem State.raiseMsi_running (s : State) (v : Nat) : (s.raiseMsi v).running = s.running := rfl
@[simp] theorem State.raiseMsi_regs (s : State) (v : Nat) : (s.raiseMsi v).regs = s.regs := rfl
@[simp] theorem State.raiseMsi_mbox (s : State) (v : Nat) : (s.raiseMsi v).mbox = s.mbox := rfl
@[simp] theorem State.raiseMsi_mem (s : State) (v : Nat) : (s.raiseMsi v).mem = s.mem := rfl
@[simp] theorem State.raiseMsi_veil (s : State) (v : Nat) : (s.raiseMsi v).veil = s.veil := rfl
@[simp] theorem State.raiseMsi_poison (s : State) (v : Nat) : (s.raiseMsi v).poison = s.poison := rfl
@[simp] theorem State.raiseMsi_stamp (s : State) (v : Nat) : (s.raiseMsi v).stamp = s.stamp := rfl
@[simp] theorem State.raiseMsi_wlog (s : State) (v : Nat) : (s.raiseMsi v).wlog = s.wlog := rfl
@[simp] theorem State.raiseMsi_l2 (s : State) (v : Nat) : (s.raiseMsi v).l2 = s.l2 := rfl
@[simp] theorem State.raiseMsi_l1 (s : State) (v : Nat) : (s.raiseMsi v).l1 = s.l1 := rfl
@[simp] theorem State.raiseMsi_tlb (s : State) (v : Nat) : (s.raiseMsi v).tlb = s.tlb := rfl
@[simp] theorem State.raiseMsi_walkers (s : State) (v : Nat) : (s.raiseMsi v).walkers = s.walkers := rfl
@[simp] theorem State.raiseMsi_seen (s : State) (v : Nat) : (s.raiseMsi v).seen = s.seen := rfl
@[simp] theorem State.raiseMsi_ctxs (s : State) (v : Nat) : (s.raiseMsi v).ctxs = s.ctxs := rfl
@[simp] theorem State.raiseMsi_takeCtr (s : State) (v : Nat) : (s.raiseMsi v).takeCtr = s.takeCtr := rfl
@[simp] theorem State.raiseMsi_takes (s : State) (v : Nat) : (s.raiseMsi v).takes = s.takes := rfl
@[simp] theorem State.raiseMsi_teams (s : State) (v : Nat) : (s.raiseMsi v).teams = s.teams := rfl
@[simp] theorem State.raiseMsi_queues (s : State) (v : Nat) : (s.raiseMsi v).queues = s.queues := rfl
@[simp] theorem State.raiseMsi_groups (s : State) (v : Nat) : (s.raiseMsi v).groups = s.groups := rfl
@[simp] theorem State.raiseMsi_ops (s : State) (v : Nat) : (s.raiseMsi v).ops = s.ops := rfl
@[simp] theorem State.raiseMsi_channels (s : State) (v : Nat) : (s.raiseMsi v).channels = s.channels := rfl
@[simp] theorem State.raiseMsi_watches (s : State) (v : Nat) : (s.raiseMsi v).watches = s.watches := rfl
@[simp] theorem State.raiseMsi_snoops (s : State) (v : Nat) : (s.raiseMsi v).snoops = s.snoops := rfl
@[simp] theorem State.raiseMsi_hostHeld (s : State) (v : Nat) : (s.raiseMsi v).hostHeld = s.hostHeld := rfl
@[simp] theorem State.raiseMsi_backSnoops (s : State) (v : Nat) : (s.raiseMsi v).backSnoops = s.backSnoops := rfl
@[simp] theorem State.raiseMsi_bistRun (s : State) (v : Nat) : (s.raiseMsi v).bistRun = s.bistRun := rfl
@[simp] theorem State.raiseMsi_winOld (s : State) (v : Nat) : (s.raiseMsi v).winOld = s.winOld := rfl

/-! ### unsettle -/

@[simp] theorem State.unsettle_counter (s : State) (o : Op) (codes : List Nat) : (s.unsettle o codes).counter = s.counter := rfl
@[simp] theorem State.unsettle_domains (s : State) (o : Op) (codes : List Nat) : (s.unsettle o codes).domains = s.domains := rfl
@[simp] theorem State.unsettle_turn (s : State) (o : Op) (codes : List Nat) : (s.unsettle o codes).turn = s.turn := rfl
@[simp] theorem State.unsettle_ports (s : State) (o : Op) (codes : List Nat) : (s.unsettle o codes).ports = s.ports := rfl
@[simp] theorem State.unsettle_fresh (s : State) (o : Op) (codes : List Nat) : (s.unsettle o codes).fresh = s.fresh := rfl
@[simp] theorem State.unsettle_picks (s : State) (o : Op) (codes : List Nat) : (s.unsettle o codes).picks = s.picks := rfl
@[simp] theorem State.unsettle_inputs (s : State) (o : Op) (codes : List Nat) : (s.unsettle o codes).inputs = s.inputs := rfl
@[simp] theorem State.unsettle_cur (s : State) (o : Op) (codes : List Nat) : (s.unsettle o codes).cur = s.cur := rfl
@[simp] theorem State.unsettle_todo (s : State) (o : Op) (codes : List Nat) : (s.unsettle o codes).todo = s.todo := rfl
@[simp] theorem State.unsettle_nextOp (s : State) (o : Op) (codes : List Nat) : (s.unsettle o codes).nextOp = s.nextOp := rfl
@[simp] theorem State.unsettle_nextGid (s : State) (o : Op) (codes : List Nat) : (s.unsettle o codes).nextGid = s.nextGid := rfl
@[simp] theorem State.unsettle_nextOrder (s : State) (o : Op) (codes : List Nat) : (s.unsettle o codes).nextOrder = s.nextOrder := rfl
@[simp] theorem State.unsettle_powered (s : State) (o : Op) (codes : List Nat) : (s.unsettle o codes).powered = s.powered := rfl
@[simp] theorem State.unsettle_frozen (s : State) (o : Op) (codes : List Nat) : (s.unsettle o codes).frozen = s.frozen := rfl
@[simp] theorem State.unsettle_mode (s : State) (o : Op) (codes : List Nat) : (s.unsettle o codes).mode = s.mode := rfl
@[simp] theorem State.unsettle_rstrap (s : State) (o : Op) (codes : List Nat) : (s.unsettle o codes).rstrap = s.rstrap := rfl
@[simp] theorem State.unsettle_ostrap (s : State) (o : Op) (codes : List Nat) : (s.unsettle o codes).ostrap = s.ostrap := rfl
@[simp] theorem State.unsettle_nonce (s : State) (o : Op) (codes : List Nat) : (s.unsettle o codes).nonce = s.nonce := rfl
@[simp] theorem State.unsettle_fuses (s : State) (o : Op) (codes : List Nat) : (s.unsettle o codes).fuses = s.fuses := rfl
@[simp] theorem State.unsettle_running (s : State) (o : Op) (codes : List Nat) : (s.unsettle o codes).running = s.running := rfl
@[simp] theorem State.unsettle_regs (s : State) (o : Op) (codes : List Nat) : (s.unsettle o codes).regs = s.regs := rfl
@[simp] theorem State.unsettle_mbox (s : State) (o : Op) (codes : List Nat) : (s.unsettle o codes).mbox = s.mbox := rfl
@[simp] theorem State.unsettle_mem (s : State) (o : Op) (codes : List Nat) : (s.unsettle o codes).mem = s.mem := rfl
@[simp] theorem State.unsettle_veil (s : State) (o : Op) (codes : List Nat) : (s.unsettle o codes).veil = s.veil := rfl
@[simp] theorem State.unsettle_poison (s : State) (o : Op) (codes : List Nat) : (s.unsettle o codes).poison = s.poison := rfl
@[simp] theorem State.unsettle_stamp (s : State) (o : Op) (codes : List Nat) : (s.unsettle o codes).stamp = s.stamp := rfl
@[simp] theorem State.unsettle_wlog (s : State) (o : Op) (codes : List Nat) : (s.unsettle o codes).wlog = s.wlog := rfl
@[simp] theorem State.unsettle_l2 (s : State) (o : Op) (codes : List Nat) : (s.unsettle o codes).l2 = s.l2 := rfl
@[simp] theorem State.unsettle_l1 (s : State) (o : Op) (codes : List Nat) : (s.unsettle o codes).l1 = s.l1 := rfl
@[simp] theorem State.unsettle_tlb (s : State) (o : Op) (codes : List Nat) : (s.unsettle o codes).tlb = s.tlb := rfl
@[simp] theorem State.unsettle_walkers (s : State) (o : Op) (codes : List Nat) : (s.unsettle o codes).walkers = s.walkers := rfl
@[simp] theorem State.unsettle_seen (s : State) (o : Op) (codes : List Nat) : (s.unsettle o codes).seen = s.seen := rfl
@[simp] theorem State.unsettle_ctxs (s : State) (o : Op) (codes : List Nat) : (s.unsettle o codes).ctxs = s.ctxs := rfl
@[simp] theorem State.unsettle_takeCtr (s : State) (o : Op) (codes : List Nat) : (s.unsettle o codes).takeCtr = s.takeCtr := rfl
@[simp] theorem State.unsettle_takes (s : State) (o : Op) (codes : List Nat) : (s.unsettle o codes).takes = s.takes := rfl
@[simp] theorem State.unsettle_teams (s : State) (o : Op) (codes : List Nat) : (s.unsettle o codes).teams = s.teams := rfl
@[simp] theorem State.unsettle_queues (s : State) (o : Op) (codes : List Nat) : (s.unsettle o codes).queues = s.queues := rfl
@[simp] theorem State.unsettle_ops (s : State) (o : Op) (codes : List Nat) : (s.unsettle o codes).ops = s.ops := rfl
@[simp] theorem State.unsettle_channels (s : State) (o : Op) (codes : List Nat) : (s.unsettle o codes).channels = s.channels := rfl
@[simp] theorem State.unsettle_watches (s : State) (o : Op) (codes : List Nat) : (s.unsettle o codes).watches = s.watches := rfl
@[simp] theorem State.unsettle_notes (s : State) (o : Op) (codes : List Nat) : (s.unsettle o codes).notes = s.notes := rfl
@[simp] theorem State.unsettle_snoops (s : State) (o : Op) (codes : List Nat) : (s.unsettle o codes).snoops = s.snoops := rfl
@[simp] theorem State.unsettle_hostHeld (s : State) (o : Op) (codes : List Nat) : (s.unsettle o codes).hostHeld = s.hostHeld := rfl
@[simp] theorem State.unsettle_backSnoops (s : State) (o : Op) (codes : List Nat) : (s.unsettle o codes).backSnoops = s.backSnoops := rfl
@[simp] theorem State.unsettle_bistRun (s : State) (o : Op) (codes : List Nat) : (s.unsettle o codes).bistRun = s.bistRun := rfl
@[simp] theorem State.unsettle_winOld (s : State) (o : Op) (codes : List Nat) : (s.unsettle o codes).winOld = s.winOld := rfl

/-! ### What the updates change -/

@[simp] theorem State.modGroup_groups (s : State) (gid : Nat) (f : Group → Group) :
    (s.modGroup gid f).groups = s.groups.map fun g => if g.gid == gid then f g else g := rfl
@[simp] theorem State.modTake_takes (s : State) (tid : Nat) (f : Take → Take) :
    (s.modTake tid f).takes = s.takes.map fun t => if t.tid == tid then f t else t := rfl
@[simp] theorem State.modCtx_ctxs (s : State) (id : Nat) (f : Ctx → Ctx) :
    (s.modCtx id f).ctxs = s.ctxs.map fun c => if c.id == id then f c else c := rfl
@[simp] theorem State.modOp_ops (s : State) (id : Nat) (f : Op → Op) :
    (s.modOp id f).ops = s.ops.map fun o => if o.id == id then f o else o := rfl
@[simp] theorem State.addOp_ops (s : State) (o : Op) : (s.addOp o).ops = s.ops ++ [o] := rfl
@[simp] theorem State.addOp_nextOp (s : State) (o : Op) : (s.addOp o).nextOp = s.nextOp + 1 := rfl
@[simp] theorem State.setReg_regs (s : State) (off : Nat) (v : BitVec 64) :
    (s.setReg off v).regs = NMap.put (resetReg off) s.regs off v := rfl
@[simp] theorem State.renew_fresh (s : State) : s.renew.fresh = s.fresh + 1 := rfl

/-! ### Registers of a lane -/

@[simp] theorem Group.modLane_gid (g : Group) (i : Nat) (f : Lane → Lane) : (g.modLane i f).gid = g.gid := rfl
@[simp] theorem Group.modLane_s (g : Group) (i : Nat) (f : Lane → Lane) : (g.modLane i f).s = g.s := rfl
@[simp] theorem Group.modLane_banks (g : Group) (i : Nat) (f : Lane → Lane) : (g.modLane i f).banks = g.banks := rfl
@[simp] theorem Group.modLane_queues (g : Group) (i : Nat) (f : Lane → Lane) : (g.modLane i f).queues = g.queues := rfl
@[simp] theorem Group.modLane_tiles (g : Group) (i : Nat) (f : Lane → Lane) : (g.modLane i f).tiles = g.tiles := rfl
@[simp] theorem Group.modLane_guards (g : Group) (i : Nat) (f : Lane → Lane) : (g.modLane i f).guards = g.guards := rfl
@[simp] theorem Group.modLane_warps (g : Group) (i : Nat) (f : Lane → Lane) : (g.modLane i f).warps = g.warps := rfl
@[simp] theorem Group.modWarp_gid (g : Group) (wid : Nat) (f : Warp → Warp) : (g.modWarp wid f).gid = g.gid := rfl
@[simp] theorem Group.modWarp_lanes (g : Group) (wid : Nat) (f : Warp → Warp) : (g.modWarp wid f).lanes = g.lanes := rfl
@[simp] theorem Group.modWarp_s (g : Group) (wid : Nat) (f : Warp → Warp) : (g.modWarp wid f).s = g.s := rfl
@[simp] theorem Group.modWarp_banks (g : Group) (wid : Nat) (f : Warp → Warp) : (g.modWarp wid f).banks = g.banks := rfl
@[simp] theorem Group.modWarp_tiles (g : Group) (wid : Nat) (f : Warp → Warp) : (g.modWarp wid f).tiles = g.tiles := rfl
@[simp] theorem Group.modWarp_guards (g : Group) (wid : Nat) (f : Warp → Warp) : (g.modWarp wid f).guards = g.guards := rfl

/-- p7 reads as true whatever a lane holds (R72). -/
@[simp] theorem Group.readP_seven (g : Group) (lane : Nat) : g.readP lane 7 = true := rfl

/-- A write of p7, or of what is no register, changes nothing (R72). -/
theorem Group.write_p7 (g : Group) (lane : Nat) (v : Word) (tag : Nat) : g.write ⟨lane, predCode 7, v, tag⟩ = g := by
  simp [Group.write, predCode]

end Sys2Proof.Machine
end

