-- ==== Sys2Proof/Laws/Memory.lean ====
section
/-!
SUPPORT. Every memory operation keeps memory and the L2 in canonical form.
-/

namespace Sys2Proof.Claims

open Sys2Proof.Machine

/-! ### What the notion says -/

/-- Only memory and the L2 count. -/
theorem Tidy.of_eq {s t : State} (h : Tidy s) (hm : t.mem = s.mem) (hl : t.l2 = s.l2) : Tidy t := by
  simpa only [Tidy, hm, hl] using h

/-- Reset memory lists nothing. -/
theorem Tidy.reset : Tidy State.reset := ⟨rfl, rfl⟩

/-- An entry of the L2. -/
theorem Tidy.put_l2 {s : State} (h : Tidy s) (line : Nat) (x : Option L2Line) : Tidy { s with l2 := NMap.put none s.l2 line x } :=
  ⟨h.1, NMap.wf_put h.2 _ _⟩

/-- Lines that leave the L2. -/
theorem Tidy.filter_l2 {s : State} (h : Tidy s) (p : Nat → Bool) : Tidy { s with l2 := s.l2.filter fun x => p x.1 } :=
  ⟨h.1, NMap.wf_filter _ h.2⟩

/-! ### HBM4E and the L2 -/

theorem Tidy.setCells {s : State} (h : Tidy s) (a n x : Nat) : Tidy (s.setCells a n x) := ⟨Memory.wf_writeNat h.1 _ _ _, h.2⟩

theorem Tidy.dropLine {s : State} (h : Tidy s) (line : Nat) : Tidy (s.dropLine line) := h.put_l2 line none

/-- A write to cells with an entry of a listed line. -/
theorem Tidy.writeBack {s : State} (h : Tidy s) (line : Nat) (k : Option L2Line) (a n x : Nat) (p : NMap Bool) :
    Tidy { s.setCells a n x with poison := p, l2 := NMap.put none s.l2 line k } := ⟨(h.setCells a n x).1, (h.put_l2 line k).2⟩

theorem Tidy.cleanLine {s : State} (h : Tidy s) (line : Nat) : Tidy (s.cleanLine line) := by
  unfold State.cleanLine
  split
  · split
    · exact h.writeBack _ _ _ _ _ _
    · exact h
  · exact h

theorem Tidy.evictLine {s : State} (h : Tidy s) (line : Nat) : Tidy (s.evictLine line) := (h.cleanLine line).dropLine line

theorem Tidy.touchLine {s : State} (h : Tidy s) (line : Nat) : Tidy (s.touchLine line) := by
  unfold State.touchLine
  split
  · exact h
  · split
    · exact h
    dsimp only [State.coin]
    split
    · exact Tidy.evictLine (s := { s with fresh := s.fresh + 1 }) (h.of_eq rfl rfl) line
    · exact h.of_eq rfl rfl

theorem Tidy.fillLine {s : State} (h : Tidy s) (line : Nat) : Tidy (s.fillLine line) := by
  unfold State.fillLine
  split
  · exact h
  · exact h.put_l2 line _

theorem Tidy.readHome {s : State} (h : Tidy s) (a n : Nat) : Tidy (s.readHome a n).1 := (h.touchLine _).fillLine _

theorem Tidy.noteWrite {s : State} (h : Tidy s) (a n : Nat) : Tidy (s.noteWrite a n) := h.of_eq rfl rfl

theorem Tidy.backInvalidate {s : State} (h : Tidy s) (line : Nat) : Tidy (s.backInvalidate line) := by
  unfold State.backInvalidate
  split
  · exact h.of_eq rfl rfl
  · exact h

theorem Tidy.writeHome {s : State} (h : Tidy s) (a n v : Nat) : Tidy (s.writeHome a n v) := by
  have h2 := (((h.noteWrite a n).backInvalidate (lineOf a)).touchLine (lineOf a)).fillLine (lineOf a)
  unfold State.writeHome
  dsimp only
  split
  · exact h2
  · exact h2.put_l2 _ _

theorem Tidy.readBelow {s : State} (h : Tidy s) (a n : Nat) : Tidy (s.readBelow a n).1 := h.touchLine _

theorem Tidy.writeBelow {s : State} (h : Tidy s) (a n v : Nat) : Tidy (s.writeBelow a n v) := ((h.noteWrite a n).touchLine _).setCells _ _ _

theorem Tidy.setPoisonBelow {s : State} (h : Tidy s) (sec : Nat) (b : Bool) : Tidy (s.setPoisonBelow sec b) := h.of_eq rfl rfl

theorem Tidy.setPoison {s : State} (h : Tidy s) (a : Nat) (b : Bool) : Tidy (s.setPoison a b) := by
  unfold State.setPoison
  split
  · exact h.setPoisonBelow _ b
  · exact h.put_l2 _ _

/-- What every element of a list keeps, the list keeps. -/
theorem Tidy.foldl {β : Type} {f : State → β → State} (hf : ∀ s b, Tidy s → Tidy (f s b)) (xs : List β) {s : State} (h : Tidy s) :
    Tidy (xs.foldl f s) := by
  induction xs generalizing s with
  | nil => exact h
  | cons x xs ih => exact ih (hf _ _ h)

theorem Tidy.setPoisonFor {s : State} (h : Tidy s) (below : Bool) (a : Nat) (b : Bool) : Tidy (s.setPoisonFor below a b) := by
  unfold State.setPoisonFor
  split
  · exact h.setPoisonBelow _ b
  · exact h.setPoison a b

theorem Tidy.clearCovered {s : State} (h : Tidy s) (below : Bool) (spans : List (Nat × Nat)) : Tidy (s.clearCovered below spans) := by
  refine Tidy.foldl (fun s k h => ?_) _ h
  split
  · exact h.setPoisonFor below _ false
  · exact h

/-! ### The L1 of a core -/

theorem Tidy.trimL1 {s : State} (h : Tidy s) (c : Nat) : Tidy (s.trimL1 c) := by
  unfold State.trimL1
  split
  · exact h
  · exact h.of_eq rfl rfl

theorem Tidy.readCore {s : State} (h : Tidy s) (c a n hint : Nat) (tol : Bool) : Tidy (s.readCore c a n hint tol).1 := by
  have h1 := h.trimL1 c
  unfold State.readCore
  dsimp only
  generalize s.trimL1 c = t at h1 ⊢
  split
  · rename_i d _
    have hu : Tidy (if t.asHome (lineOf a) d then (true, t) else t.coin).2 := by
      split
      · exact h1
      · exact h1.of_eq rfl rfl
    generalize (if t.asHome (lineOf a) d then (true, t) else t.coin) = q at hu ⊢
    obtain ⟨stay, u⟩ := q
    cases stay
    · exact Tidy.readHome (s := u.dropL1 c (lineOf a)) (hu.of_eq rfl rfl) a n
    · exact hu
  · have h2 := h1.readHome a n
    generalize t.readHome a n = q at h2
    obtain ⟨u, x, bad⟩ := q
    dsimp only at h2 ⊢
    split
    · exact h2
    · split
      · split
        · exact h2
        · exact h2.of_eq rfl rfl
      · exact h2.of_eq rfl rfl

theorem Tidy.writeCore {s : State} (h : Tidy s) (c a n v : Nat) : Tidy (s.writeCore c a n v) := by
  unfold State.writeCore
  refine Tidy.writeHome ?_ a n v
  split
  · exact h
  · exact h.of_eq rfl rfl

/-! ### Units of an access -/

theorem Tidy.readUnit {s : State} (h : Tidy s) (v : Via) (u : MUnit) : Tidy (s.readUnit v u).1 := by
  unfold State.readUnit
  split
  · exact h
  · rename_i a pg _
    have tol : ∀ r : State × Nat × Bool, Tidy r.1 → Tidy (if (r.2.2 && pg.ptro) = true then (r.1.tolerate (pg.phys a), 0, false)
        else if r.1.mappedTwice pg.place a = true then (r.1.renew, r.1.free 602 0 % 2 ^ (8 * u.n), r.2.2) else r).1 := by
      intro r hr
      split
      · exact hr.of_eq rfl rfl
      · split
        · exact hr.of_eq rfl rfl
        · exact hr
    refine tol _ ?_
    split
    · exact h.readCore _ _ _ _ _
    · exact h.readHome _ _
    · split
      · exact h.readHome _ _
      · exact h.readBelow _ _

theorem Tidy.writeUnit {s : State} (h : Tidy s) (v : Via) (u : MUnit) (x : Nat) : Tidy (s.writeUnit v u x) := by
  unfold State.writeUnit
  split
  · exact h.of_eq rfl rfl
  · split
    · exact h.writeCore _ _ _ _
    · exact h.writeHome _ _ _
    · split
      · exact h.writeHome _ _ _
      · exact h.writeBelow _ _ _

theorem Tidy.readUnits {s : State} (h : Tidy s) (v : Via) (us : List MUnit) : Tidy (s.readUnits v us).1 := by
  induction us generalizing s with
  | nil => exact h
  | cons u us ih =>
    have hr := h.readUnit v u
    simp only [State.readUnits]
    refine ih ?_
    split
    · exact hr.of_eq rfl rfl
    · exact hr

theorem Tidy.writeUnits {s : State} (h : Tidy s) (v : Via) (us : List MUnit) (x : Nat) : Tidy (s.writeUnits v us x) := by
  induction us generalizing s x with
  | nil => exact h
  | cons u us ih => exact ih (h.writeUnit v u _) _

/-! ### What the device keeps without its clocks -/

/-- Loss of state leaves host memory alone (R503). -/
theorem Tidy.lost {s : State} (h : Tidy s) (on : Bool) : Tidy (s.lost on) :=
  ⟨Memory.wf_filter _ h.1, rfl⟩

/-- A self-test of a stack's HBM4E (R480). -/
theorem Tidy.testStack {s : State} (h : Tidy s) (m : Nat) : Tidy (s.testStack m) := ⟨Memory.wf_filter _ h.1, h.2⟩

end Sys2Proof.Claims
end

