-- ==== Sys2Proof/Laws/Ops.lean ====
section
/-!
SUPPORT. Laws of the shared frames: what an instruction does where its conditions hold, and the one other thing it can do where they do not.
-/

namespace Sys2Proof.Machine

/-! ### Acting on the issue in progress -/

theorem State.withEnv_of {s : State} {h : Hdr} {k k' : Env → State} {e : Env} (he : s.env h.guard = some e) (ha : e.act ≠ []) :
    s.withEnv h k k' = k e := by
  simp [State.withEnv, he, ha]

/-- With no issue in progress, or an empty `active` and guards read in time, nothing happens (R12). -/
theorem State.withEnv_idle {s : State} {h : Hdr} {k k' : Env → State} (he : ∀ e, s.env h.guard = some e → e.act = [] ∧ e.lost = []) :
    s.withEnv h k k' = s := by
  unfold State.withEnv
  split
  · rfl
  · rename_i e heq
    simp [he e heq]

/-- Every way an instruction goes under `withEnv`. -/
theorem State.withEnv_cases (s : State) (h : Hdr) (k k' : Env → State) :
    s.withEnv h k k' = s ∨ ∃ e, s.env h.guard = some e ∧
      ((e.act ≠ [] ∧ s.withEnv h k k' = k e) ∨ (e.lost ≠ [] ∧ s.withEnv h k k' = k' e)) := by
  unfold State.withEnv
  split
  · exact .inl rfl
  · rename_i e heq
    split
    · split
      · exact .inl rfl
      · rename_i hl
        exact .inr ⟨e, heq, .inr ⟨by simpa using hl, rfl⟩⟩
    · rename_i hne
      exact .inr ⟨e, heq, .inl ⟨by simpa using hne, rfl⟩⟩

/-- With its guards read in time, a program error of an issue is that of its lanes. -/
theorem State.fail_of {s : State} {e : Env} (hl : e.lost = []) (code : Nat) (lanes : List Nat) (addr : Nat) (write : Bool) :
    s.fail e code lanes addr write = s.progError e.g.gid e.w.wid code lanes addr write := by
  simp [State.fail, hl]

theorem State.coreOnly_of {s k : State} {h : Hdr} {e : Env} (he : s.env h.guard = some e) (hc : e.g.onStack = false) : s.coreOnly h k = k := by
  simp [State.coreOnly, he, hc]

/-- On a stack core an instruction that its cores lack raises the return trap (R161, R165). -/
theorem State.coreOnly_stack {s k : State} {h : Hdr} {e : Env} (he : s.env h.guard = some e) (ha : e.act ≠ []) (hc : e.g.onStack = true) :
    s.coreOnly h k = s.returnTrap e := by
  simp [State.coreOnly, he, hc, ha]

theorem State.checked_of {s : State} {h : Hdr} {codes : Env → List Nat} {k k' : Env → State} {e : Env} (he : s.env h.guard = some e)
    (ha : e.act ≠ []) (hc : e.g.codesFault (codes e) = none) : s.checked h codes k k' = k e := by
  simp [State.checked, State.withEnv_of he ha, hc]

/-- A register beyond the allotment is a program error of the whole instruction (R36). -/
theorem State.checked_fault {s : State} {h : Hdr} {codes : Env → List Nat} {k k' : Env → State} {e : Env} {f : Nat}
    (he : s.env h.guard = some e) (ha : e.act ≠ []) (hl : e.lost = []) (hc : e.g.codesFault (codes e) = some f) :
    s.checked h codes k k' = s.progError e.g.gid e.w.wid f e.act 0 := by
  simp [State.checked, State.withEnv_of he ha, hc, State.fail_of hl]

/-- Every way an instruction goes whose guards are read in time. -/
theorem State.checked_cases {s : State} {h : Hdr} (hl : ∀ e, s.env h.guard = some e → e.lost = []) (codes : Env → List Nat)
    (k k' : Env → State) :
    s.checked h codes k k' = s ∨ ∃ e, s.env h.guard = some e ∧ e.act ≠ [] ∧
      ((e.g.codesFault (codes e) = none ∧ s.checked h codes k k' = k e) ∨
        ∃ f, s.checked h codes k k' = s.progError e.g.gid e.w.wid f e.act 0) := by
  unfold State.checked
  rcases State.withEnv_cases s h (fun e => match e.g.codesFault (codes e) with
    | some f => s.fail e f e.act 0
    | none => k e) (fun e => if (e.g.codesFault (codes e)).isSome then s else k' e) with h0 | ⟨e, he, ⟨ha, h0⟩ | ⟨ha, h0⟩⟩
  · exact .inl h0
  · refine .inr ⟨e, he, ha, ?_⟩
    cases hc : e.g.codesFault (codes e) with
    | none => exact .inl ⟨rfl, h0.trans (by simp only [hc])⟩
    | some f => exact .inr ⟨f, h0.trans (by simp only [hc, State.fail_of (hl e he)])⟩
  · exact absurd (hl e he) ha

/-! ### Fixed latency -/

/-- A fixed-latency instruction whose operands can be read puts one operation in flight (R31, R225). -/
theorem State.fixedQ_of {s : State} {h : Hdr} {i : Instr} {dst : List Nat} {args : List Arg} {lat : Env → Nat}
    {out : State → Env → List (List (Word × Nat)) → List Row → Writes} {e : Env} {t : State} {qs : List (List (Word × Nat))}
    (he : s.env h.guard = some e) (ha : e.act ≠ []) (hl : e.lost = []) (hc : e.g.codesFault (dst ++ args.flatMap Arg.codes) = none)
    (hp : s.popArgs e args = (t, qs)) (ht : badTags args (s.rows e args qs) = []) :
    s.fixedQ h i dst args lat out = (t.addOp { e.op s h i with
      writes := (out s e qs (s.rows e args qs)).1
      fp := (out s e qs (s.rows e args qs)).2
      due := some (s.now e.g + lat e) }).advance e (Instr.draws i) := by
  unfold State.fixedQ
  rw [State.checked_of he ha hc]
  simp only [hp, ht, hl, List.filter_nil, List.isEmpty_nil, if_true]

/-- Every way a fixed-latency instruction goes whose guards are read in time: nothing, its operation, or a program error (R36, R69). -/
theorem State.fixedQ_cases {s : State} {h : Hdr} (hl : ∀ e, s.env h.guard = some e → e.lost = []) (i : Instr) (dst : List Nat)
    (args : List Arg) (lat : Env → Nat) (out : State → Env → List (List (Word × Nat)) → List Row → Writes) :
    s.fixedQ h i dst args lat out = s ∨ ∃ e, s.env h.guard = some e ∧
      ((∃ w : Writes, s.fixedQ h i dst args lat out = ((s.popArgs e args).1.addOp { e.op s h i with
          writes := w.1, fp := w.2, due := some (s.now e.g + lat e) }).advance e (Instr.draws i)) ∨
        ∃ f ls, s.fixedQ h i dst args lat out = s.progError e.g.gid e.w.wid f ls 0) := by
  unfold State.fixedQ
  extract_lets act
  rcases State.checked_cases hl (fun _ => dst ++ args.flatMap Arg.codes) act act with h0 | ⟨e, he, _, ⟨_, h0⟩ | ⟨f, h0⟩⟩
  · exact .inl h0
  · refine .inr ⟨e, he, ?_⟩
    rw [h0]
    simp only [act, hl e he, List.isEmpty_nil, if_true]
    split
    · exact .inl ⟨_, rfl⟩
    · exact .inr ⟨_, _, State.fail_of (hl e he) _ _ _ _⟩
  · exact .inr ⟨e, he, .inr ⟨f, e.act, h0⟩⟩

/-! ### Engine commands -/

@[simp] theorem State.markEarly_false (s : State) (id : Nat) : s.markEarly id false = s := rfl

/-- A command whose operands and barrier word are in order is dispatched (R317, R318). -/
theorem State.command_of {s : State} {h : Hdr} {codes : List Nat} {b : Option Bw} {k : Env → Option (Nat × Nat) → State}
    {k' : Env → State} {e : Env} (he : s.env h.guard = some e) (ha : e.act ≠ []) (hs : e.w.errSlots = none)
    (hc : e.g.codesFault (codes ++ bwCodes b) = none)
    (hb : ∀ x ∈ b.map (fun b => (s.uniS e true b.word, b.scope.toNat)), x.1 + 8 ≤ 2 ^ 52 ∧ x.1 % 8 = 0) :
    s.command h codes b k k' = (k e (b.map fun b => (s.uniS e true b.word, b.scope.toNat))).markEarly s.nextOp
      (s.early e ((codes ++ bwCodes b).filter isUniform)) := by
  have hend : e.ending = false := by simp [Env.ending, hs]
  unfold State.command State.dispatch
  rw [State.withEnv_of he ha]
  simp only [hend, hc]
  rw [if_neg (by simp)]
  congr 1
  cases b with
  | none => rfl
  | some b =>
    have h1 := hb (s.uniS e true b.word, b.scope.toNat) (by simp)
    have h2 : ¬ 2 ^ 52 ≤ s.uniS e true b.word := by omega
    have h3 : ¬ s.uniS e true b.word % 8 ≠ 0 := by omega
    simp only [State.barrierWord, Option.map_some]
    rw [if_neg h2, if_neg h3]

/-! ### Single lanes -/

theorem State.settleLanes_nil (s : State) (e : Env) (write : Bool) (path : Nat) (k : State → List Nat → State) :
    s.settleLanes e [] write path k = k s e.act := rfl

/-! ### Groups -/

theorem State.findGroup_gid {s : State} {gid : Nat} {g : Group} (h : s.findGroup gid = some g) : g.gid = gid := by
  have := List.find?_some h
  simpa using this

theorem find_map_mod {α : Type} (key : α → Nat) (f : α → α) (hf : ∀ x, key (f x) = key x) (k n : Nat) (xs : List α) :
    (xs.map fun x => if key x == k then f x else x).find? (fun x => key x == n) =
      (xs.find? fun x => key x == n).map fun x => if key x == k then f x else x := by
  induction xs with
  | nil => rfl
  | cons x xs ih =>
    have hk : key (if key x == k then f x else x) = key x := by split <;> simp [hf]
    simp only [List.map_cons, List.find?_cons, hk]
    cases key x == n
    · exact ih
    · rfl

/-- A changed group is found with its change. -/
theorem State.findGroup_modGroup {s : State} {gid : Nat} {f : Group → Group} {g : Group} (h : s.findGroup gid = some g)
    (hf : ∀ x, (f x).gid = x.gid) : (s.modGroup gid f).findGroup gid = some (f g) := by
  have hg := State.findGroup_gid h
  have := find_map_mod Group.gid f hf gid gid s.groups
  unfold State.findGroup at h ⊢
  rw [State.modGroup_groups, this, h]
  simp [hg]

/-- Another group stays as it is. -/
theorem State.findGroup_modGroup_of_ne {s : State} {gid k : Nat} {f : Group → Group} (hk : k ≠ gid) (hf : ∀ x, (f x).gid = x.gid) :
    (s.modGroup gid f).findGroup k = s.findGroup k := by
  have := find_map_mod Group.gid f hf gid k s.groups
  unfold State.findGroup at *
  rw [State.modGroup_groups, this]
  cases hx : s.groups.find? fun g => g.gid == k with
  | none => rfl
  | some x =>
    have : x.gid = k := by simpa using List.find?_some hx
    simp [this, hk]

theorem Group.modLanes_gid (g : Group) (ls : List Nat) (f : Nat → Lane → Lane) : (g.modLanes ls f).gid = g.gid := by
  induction ls generalizing g with
  | nil => rfl
  | cons i is ih => exact ih _

theorem Group.modLanes_warps (g : Group) (ls : List Nat) (f : Nat → Lane → Lane) : (g.modLanes ls f).warps = g.warps := by
  induction ls generalizing g with
  | nil => rfl
  | cons i is ih => exact ih _

theorem Group.modLanes_s (g : Group) (ls : List Nat) (f : Nat → Lane → Lane) : (g.modLanes ls f).s = g.s := by
  induction ls generalizing g with
  | nil => rfl
  | cons i is ih => exact ih _

theorem Group.modLanes_banks (g : Group) (ls : List Nat) (f : Nat → Lane → Lane) : (g.modLanes ls f).banks = g.banks := by
  induction ls generalizing g with
  | nil => rfl
  | cons i is ih => exact ih _

theorem Group.modLanes_tiles (g : Group) (ls : List Nat) (f : Nat → Lane → Lane) : (g.modLanes ls f).tiles = g.tiles := by
  induction ls generalizing g with
  | nil => rfl
  | cons i is ih => exact ih _

theorem Group.modLanes_guards (g : Group) (ls : List Nat) (f : Nat → Lane → Lane) : (g.modLanes ls f).guards = g.guards := by
  induction ls generalizing g with
  | nil => rfl
  | cons i is ih => exact ih _

theorem Group.modLanes_length (g : Group) (ls : List Nat) (f : Nat → Lane → Lane) : (g.modLanes ls f).lanes.length = g.lanes.length := by
  induction ls generalizing g with
  | nil => rfl
  | cons i is ih => rw [Group.modLanes, ih]; simp [Group.modLane]

theorem Group.lane_modLane (g : Group) (i j : Nat) (f : Lane → Lane) (hi : i < g.lanes.length) :
    (g.modLane i f).lane j = if i = j then f (g.lane j) else g.lane j := by
  unfold Group.lane Group.modLane
  simp only [List.getD_eq_getElem?_getD, List.getElem?_modify]
  by_cases h : i = j
  · subst h
    simp [List.getElem?_eq_getElem hi]
  · simp [h]

/-- The lanes listed change, the others do not. -/
theorem Group.lane_modLanes (g : Group) (ls : List Nat) (f : Nat → Lane → Lane) (hn : ls.Nodup) (hl : ∀ i ∈ ls, i < g.lanes.length) (j : Nat) :
    (g.modLanes ls f).lane j = if j ∈ ls then f j (g.lane j) else g.lane j := by
  induction ls generalizing g with
  | nil => simp [Group.modLanes]
  | cons i is ih =>
    have hi : i < g.lanes.length := hl i (by simp)
    have hn' := List.nodup_cons.1 hn
    rw [Group.modLanes, ih _ hn'.2 (fun k hk => by simpa [Group.modLane] using hl k (by simp [hk])), Group.lane_modLane g i j _ hi]
    by_cases hj : i = j
    · subst hj
      simp [hn'.1]
    · have : j ≠ i := fun h => hj h.symm
      by_cases hm : j ∈ is <;> simp [hm, hj, this]

end Sys2Proof.Machine
end

