-- ==== Sys2Proof/Laws/PerInstr.lean ====
section
/-!
SUPPORT. One lemma per instruction: the header of an encoded word reads back as the instruction's header, so that no bit of stall distance,
wait mask, set flag or guard is dropped or displaced by the operands (R194, R195).
-/

namespace Sys2Proof.Laws.Header

open Sys2Proof.Machine

/-- The header of the fields that encode the instruction is the instruction's header. -/
def Statement (i : Instr) : Prop := ∀ r h, rawOf i = some r → Instr.hdr? i = some h → r.hdr = h

/-- The header's fields read back, whatever the rest of the word. -/
theorem hdr_raw (h : Hdr) (op : Nat) : (h.raw op).hdr = h := by
  obtain ⟨st, w, f, ⟨⟨pa, na⟩, ⟨pb, nb⟩, g⟩⟩ := h
  cases na <;> cases nb <;> cases g <;> simp [Hdr.raw, Raw.hdr, bit]

/-- A word with the fields of `h` in its header. -/
theorem of_eq {i : Instr} {h : Hdr} {r : Raw} {op : Nat} (hr : rawOf i = some r) (hh : Instr.hdr? i = some h)
    (he : r.hdr = (h.raw op).hdr) : Statement i := by
  intro r' h' hr' hh'
  rw [hr] at hr'
  rw [hh] at hh'
  cases hr'
  cases hh'
  exact he.trans (hdr_raw h op)

/-- A barrier word leaves the header alone (R318). -/
theorem withBw_hdr (r : Raw) (k : Nat) (b : Option Bw) : (withBw r k b).hdr = r.hdr := by cases b <;> rfl

theorem nop (h : Hdr) : Statement (.nop h) := of_eq (op := 0x000) rfl rfl rfl
theorem bra (h : Hdr) (o : BraOps) : Statement (.bra h o) := of_eq (op := 0x001) rfl rfl rfl
theorem brx (h : Hdr) (o : BrxOps) : Statement (.brx h o) := of_eq (op := 0x002) rfl rfl rfl
theorem call (h : Hdr) (o : BraOps) : Statement (.call h o) := of_eq (op := 0x003) rfl rfl rfl
theorem callx (h : Hdr) (o : BrxOps) : Statement (.callx h o) := of_eq (op := 0x004) rfl rfl rfl
theorem ret (h : Hdr) : Statement (.ret h) := of_eq (op := 0x005) rfl rfl rfl
theorem exit (h : Hdr) : Statement (.exit h) := of_eq (op := 0x006) rfl rfl rfl
theorem loop (h : Hdr) (o : LoopOps) : Statement (.loop h o) := of_eq (op := 0x007) rfl rfl rfl
theorem endl (h : Hdr) (o : BitVec 20) : Statement (.endl h o) := of_eq (op := 0x008) rfl rfl rfl
theorem endlBrk (h : Hdr) : Statement (.endlBrk h) := of_eq (op := 0x008) rfl rfl rfl
theorem wsync (h : Hdr) (o : Reg) : Statement (.wsync h o) := of_eq (op := 0x009) rfl rfl rfl
theorem yield (h : Hdr) : Statement (.yield h) := of_eq (op := 0x00A) rfl rfl rfl
theorem wait (h : Hdr) (o : BitVec 10) : Statement (.wait h o) := of_eq (op := 0x00B) rfl rfl rfl
theorem trigger (h : Hdr) : Statement (.trigger h) := of_eq (op := 0x00C) rfl rfl rfl
theorem trap (h : Hdr) (o : BitVec 8) : Statement (.trap h o) := of_eq (op := 0x00D) rfl rfl rfl
theorem bkpt (h : Hdr) : Statement (.bkpt h) := of_eq (op := 0x00E) rfl rfl rfl
theorem gset (h : Hdr) (o : GsetOps) : Statement (.gset h o) := of_eq (op := 0x00F) rfl rfl rfl
theorem gclr (h : Hdr) (o : BitVec 4) : Statement (.gclr h o) := of_eq (op := 0x010) rfl rfl rfl
theorem grow (h : Hdr) : Statement (.grow h) := of_eq (op := 0x011) rfl rfl rfl
theorem wcut (h : Hdr) : Statement (.wcut h) := of_eq (op := 0x018) rfl rfl rfl
theorem wsplice (h : Hdr) (o : WspliceOps) : Statement (.wsplice h o) := of_eq (op := 0x019) rfl rfl rfl
theorem iadd (h : Hdr) (o : Int2) : Statement (.iadd h o) := of_eq (op := 0x080) rfl rfl rfl
theorem isub (h : Hdr) (o : Int2) : Statement (.isub h o) := of_eq (op := 0x081) rfl rfl rfl
theorem imul (h : Hdr) (o : Int2) : Statement (.imul h o) := of_eq (op := 0x082) rfl rfl rfl
theorem imulh (h : Hdr) (o : Int2) : Statement (.imulh h o) := of_eq (op := 0x083) rfl rfl rfl
theorem imad (h : Hdr) (o : Int3) : Statement (.imad h o) := of_eq (op := 0x084) rfl rfl rfl
theorem imadw (h : Hdr) (o : Int3) : Statement (.imadw h o) := of_eq (op := 0x085) rfl rfl rfl
theorem imin (h : Hdr) (o : Int2) : Statement (.imin h o) := of_eq (op := 0x086) rfl rfl rfl
theorem imax (h : Hdr) (o : Int2) : Statement (.imax h o) := of_eq (op := 0x087) rfl rfl rfl
theorem iabs (h : Hdr) (o : Int1) : Statement (.iabs h o) := of_eq (op := 0x088) rfl rfl rfl
theorem ineg (h : Hdr) (o : Int1) : Statement (.ineg h o) := of_eq (op := 0x089) rfl rfl rfl
theorem idot4 (h : Hdr) (o : Int3) : Statement (.idot4 h o) := of_eq (op := 0x09C) rfl rfl rfl
theorem and (h : Hdr) (o : Int2) : Statement (.and h o) := of_eq (op := 0x08A) rfl rfl rfl
theorem or (h : Hdr) (o : Int2) : Statement (.or h o) := of_eq (op := 0x08B) rfl rfl rfl
theorem xor (h : Hdr) (o : Int2) : Statement (.xor h o) := of_eq (op := 0x08C) rfl rfl rfl
theorem not (h : Hdr) (o : Int1) : Statement (.not h o) := of_eq (op := 0x08D) rfl rfl rfl
theorem lop3 (h : Hdr) (o : Lop3Ops) : Statement (.lop3 h o) := of_eq (op := 0x08E) rfl rfl rfl
theorem shl (h : Hdr) (o : Int2) : Statement (.shl h o) := of_eq (op := 0x08F) rfl rfl rfl
theorem shr (h : Hdr) (o : Int2) : Statement (.shr h o) := of_eq (op := 0x090) rfl rfl rfl
theorem sha (h : Hdr) (o : Int2) : Statement (.sha h o) := of_eq (op := 0x091) rfl rfl rfl
theorem rot (h : Hdr) (o : Int2) : Statement (.rot h o) := of_eq (op := 0x092) rfl rfl rfl
theorem shf (h : Hdr) (o : ShfOps) : Statement (.shf h o) := of_eq (op := 0x093) rfl rfl rfl
theorem popc (h : Hdr) (o : Int1) : Statement (.popc h o) := of_eq (op := 0x094) rfl rfl rfl
theorem clz (h : Hdr) (o : Int1) : Statement (.clz h o) := of_eq (op := 0x095) rfl rfl rfl
theorem brev (h : Hdr) (o : Int1) : Statement (.brev h o) := of_eq (op := 0x096) rfl rfl rfl
theorem bfe (h : Hdr) (o : Int2) : Statement (.bfe h o) := of_eq (op := 0x097) rfl rfl rfl
theorem bfi (h : Hdr) (o : Int3) : Statement (.bfi h o) := of_eq (op := 0x098) rfl rfl rfl
theorem isetp (h : Hdr) (o : IsetpOps) : Statement (.isetp h o) := of_eq (op := 0x099) rfl rfl rfl
theorem isel (h : Hdr) (o : IselOps) : Statement (.isel h o) := of_eq (op := 0x09A) rfl rfl rfl
theorem lea (h : Hdr) (o : LeaOps) : Statement (.lea h o) := of_eq (op := 0x09B) rfl rfl rfl
theorem psetp (h : Hdr) (o : PsetpOps) : Statement (.psetp h o) := of_eq (op := 0x09D) rfl rfl rfl
theorem psetpG (h : Hdr) (o : PsetpGOps) : Statement (.psetpG h o) := of_eq (op := 0x09D) rfl rfl rfl
theorem mov (h : Hdr) (o : Int1) : Statement (.mov h o) := of_eq (op := 0x0A0) rfl rfl rfl
theorem movi (h : Hdr) (o : MoviOps) : Statement (.movi h o) := of_eq (op := 0x0A1) rfl rfl rfl
theorem smov (h : Hdr) (o : SmovOps) : Statement (.smov h o) := of_eq (op := 0x0A2) rfl rfl rfl
theorem smovSt (h : Hdr) (o : SmovOps) : Statement (.smovSt h o) := of_eq (op := 0x0A2) rfl rfl rfl
theorem ubcast (h : Hdr) (o : UbcastOps) : Statement (.ubcast h o) := of_eq (op := 0x0A3) rfl rfl rfl
theorem spr (h : Hdr) (o : SprOps) : Statement (.spr h o) := of_eq (op := 0x0A4) rfl rfl rfl
theorem shfl (h : Hdr) (o : ShflOps) : Statement (.shfl h o) := of_eq (op := 0x0B0) rfl rfl rfl
theorem push (h : Hdr) (o : Int2) : Statement (.push h o) := of_eq (op := 0x0B1) rfl rfl rfl
theorem permb (h : Hdr) (o : Int2) : Statement (.permb h o) := of_eq (op := 0x0B2) rfl rfl rfl
theorem vote (h : Hdr) (o : VoteOps) : Statement (.vote h o) := by
  obtain ⟨dst, pa⟩ := o
  cases dst <;> exact of_eq (op := 0x0B3) rfl rfl rfl
theorem matchLanes (h : Hdr) (o : Int1) : Statement (.matchLanes h o) := of_eq (op := 0x0B4) rfl rfl rfl
theorem redW (h : Hdr) (o : RedWOps) : Statement (.redW h o) := of_eq (op := 0x0B5) rfl rfl rfl
theorem scanW (h : Hdr) (o : ScanWOps) : Statement (.scanW h o) := of_eq (op := 0x0B6) rfl rfl rfl
theorem vslide (h : Hdr) (o : VslideOps) : Statement (.vslide h o) := of_eq (op := 0x0B7) rfl rfl rfl
theorem rng (h : Hdr) (o : RngOps) : Statement (.rng h o) := of_eq (op := 0x0C0) rfl rfl rfl
theorem fadd (h : Hdr) (o : F2Ops) : Statement (.fadd h o) := of_eq (op := 0x100) rfl rfl rfl
theorem fsub (h : Hdr) (o : F2Ops) : Statement (.fsub h o) := of_eq (op := 0x101) rfl rfl rfl
theorem fmul (h : Hdr) (o : F2Ops) : Statement (.fmul h o) := of_eq (op := 0x102) rfl rfl rfl
theorem ffma (h : Hdr) (o : F3Ops) : Statement (.ffma h o) := of_eq (op := 0x103) rfl rfl rfl
theorem fmin (h : Hdr) (o : FMinOps) : Statement (.fmin h o) := of_eq (op := 0x104) rfl rfl rfl
theorem fmax (h : Hdr) (o : FMinOps) : Statement (.fmax h o) := of_eq (op := 0x105) rfl rfl rfl
theorem fsetp (h : Hdr) (o : FsetpOps) : Statement (.fsetp h o) := of_eq (op := 0x106) rfl rfl rfl
theorem fclass (h : Hdr) (o : FclassOps) : Statement (.fclass h o) := of_eq (op := 0x107) rfl rfl rfl
theorem frcp (h : Hdr) (o : FunOps) : Statement (.frcp h o) := of_eq (op := 0x108) rfl rfl rfl
theorem frsq (h : Hdr) (o : FunOps) : Statement (.frsq h o) := of_eq (op := 0x109) rfl rfl rfl
theorem fsqrt (h : Hdr) (o : FunOps) : Statement (.fsqrt h o) := of_eq (op := 0x10A) rfl rfl rfl
theorem fex2 (h : Hdr) (o : FunOps) : Statement (.fex2 h o) := of_eq (op := 0x10B) rfl rfl rfl
theorem flg2 (h : Hdr) (o : FunOps) : Statement (.flg2 h o) := of_eq (op := 0x10C) rfl rfl rfl
theorem fsin (h : Hdr) (o : FunOps) : Statement (.fsin h o) := of_eq (op := 0x10D) rfl rfl rfl
theorem fcos (h : Hdr) (o : FunOps) : Statement (.fcos h o) := of_eq (op := 0x10E) rfl rfl rfl
theorem hadd2 (h : Hdr) (o : F2Ops) : Statement (.hadd2 h o) := of_eq (op := 0x110) rfl rfl rfl
theorem hfma2 (h : Hdr) (o : F3Ops) : Statement (.hfma2 h o) := of_eq (op := 0x111) rfl rfl rfl
theorem cvt (h : Hdr) (o : CvtOps) : Statement (.cvt h o) := of_eq (op := 0x180) rfl rfl rfl
theorem pack (h : Hdr) (o : PackOps) : Statement (.pack h o) := of_eq (op := 0x181) rfl rfl rfl
theorem unpack (h : Hdr) (o : UnpackOps) : Statement (.unpack h o) := of_eq (op := 0x182) rfl rfl rfl
theorem qnt (h : Hdr) (o : QntOps) : Statement (.qnt h o) := of_eq (op := 0x183) rfl rfl rfl
theorem dqnt (h : Hdr) (o : DqntOps) : Statement (.dqnt h o) := of_eq (op := 0x184) rfl rfl rfl
theorem tagset (h : Hdr) (o : TagsetOps) : Statement (.tagset h o) := of_eq (op := 0x185) rfl rfl rfl
theorem tagget (h : Hdr) (o : DaOps) : Statement (.tagget h o) := of_eq (op := 0x186) rfl rfl rfl
theorem flags (h : Hdr) (o : Reg) : Statement (.flags h o) := of_eq (op := 0x187) rfl rfl rfl
theorem flagsSet (h : Hdr) (o : DaOps) : Statement (.flagsSet h o) := of_eq (op := 0x187) rfl rfl rfl
theorem flagsClr (h : Hdr) (o : DaOps) : Statement (.flagsClr h o) := of_eq (op := 0x187) rfl rfl rfl
theorem ld (h : Hdr) (o : LoadOps) : Statement (.ld h o) := of_eq (op := 0x200) rfl rfl rfl
theorem st (h : Hdr) (o : StoreOps) : Statement (.st h o) := of_eq (op := 0x201) rfl rfl rfl
theorem lds (h : Hdr) (o : LoadOps) : Statement (.lds h o) := of_eq (op := 0x202) rfl rfl rfl
theorem sts (h : Hdr) (o : StoreOps) : Statement (.sts h o) := of_eq (op := 0x203) rfl rfl rfl
theorem ldu (h : Hdr) (o : LoadOps) : Statement (.ldu h o) := of_eq (op := 0x204) rfl rfl rfl
theorem ldt (h : Hdr) (o : LdtOps) : Statement (.ldt h o) := of_eq (op := 0x205) rfl rfl rfl
theorem stt (h : Hdr) (o : SttOps) : Statement (.stt h o) := of_eq (op := 0x206) rfl rfl rfl
theorem atom (h : Hdr) (o : AtomOps) : Statement (.atom h o) := of_eq (op := 0x207) rfl rfl rfl
theorem atoms (h : Hdr) (o : AtomOps) : Statement (.atoms h o) := of_eq (op := 0x208) rfl rfl rfl
theorem red (h : Hdr) (o : RedOps) : Statement (.red h o) := of_eq (op := 0x209) rfl rfl rfl
theorem cpa (h : Hdr) (o : CpaOps) : Statement (.cpa h o) := of_eq (op := 0x20A) rfl rfl (withBw_hdr _ _ _)
theorem cpaLn (h : Hdr) (o : CpaLnOps) : Statement (.cpaLn h o) := of_eq (op := 0x20A) rfl rfl (withBw_hdr _ _ _)
theorem cpout (h : Hdr) (o : CpaOps) : Statement (.cpout h o) := of_eq (op := 0x20B) rfl rfl (withBw_hdr _ _ _)
theorem cpoutLn (h : Hdr) (o : CpaLnOps) : Statement (.cpoutLn h o) := of_eq (op := 0x20B) rfl rfl (withBw_hdr _ _ _)
theorem pref (h : Hdr) (o : PrefOps) : Statement (.pref h o) := of_eq (op := 0x20C) rfl rfl rfl
theorem l2clean (h : Hdr) (o : MaintOps) : Statement (.l2clean h o) := of_eq (op := 0x20D) rfl rfl rfl
theorem l2inv (h : Hdr) (o : MaintOps) : Statement (.l2inv h o) := of_eq (op := 0x20E) rfl rfl rfl
theorem l2flush (h : Hdr) (o : MaintOps) : Statement (.l2flush h o) := of_eq (op := 0x20F) rfl rfl rfl
theorem bmode (h : Hdr) (o : BmodeOps) : Statement (.bmode h o) := of_eq (op := 0x210) rfl rfl rfl
theorem pres (h : Hdr) (o : PresOps) : Statement (.pres h o) := of_eq (op := 0x211) rfl rfl rfl
theorem release (h : Hdr) (o : BitVec 5) : Statement (.release h o) := of_eq (op := 0x280) rfl rfl rfl
theorem acquire (h : Hdr) (o : BitVec 5) : Statement (.acquire h o) := of_eq (op := 0x281) rfl rfl rfl
theorem fence (h : Hdr) (o : BitVec 5) : Statement (.fence h o) := of_eq (op := 0x282) rfl rfl rfl
theorem bar (h : Hdr) (o : BitVec 4) : Statement (.bar h o) := of_eq (op := 0x283) rfl rfl rfl
theorem barArr (h : Hdr) (o : BitVec 4) : Statement (.barArr h o) := of_eq (op := 0x283) rfl rfl rfl
theorem bart (h : Hdr) (o : BitVec 2) : Statement (.bart h o) := of_eq (op := 0x284) rfl rfl rfl
theorem bartArr (h : Hdr) (o : BitVec 2) : Statement (.bartArr h o) := of_eq (op := 0x284) rfl rfl rfl
theorem bwinit (h : Hdr) (o : BwinitOps) : Statement (.bwinit h o) := of_eq (op := 0x285) rfl rfl rfl
theorem bwarr (h : Hdr) (o : BwarrOps) : Statement (.bwarr h o) := of_eq (op := 0x286) rfl rfl rfl
theorem bwwait (h : Hdr) (o : BwwaitOps) : Statement (.bwwait h o) := of_eq (op := 0x287) rfl rfl rfl
theorem tflag (h : Hdr) (o : BitVec 10) : Statement (.tflag h o) := of_eq (op := 0x288) rfl rfl rfl
theorem semsig (h : Hdr) (o : SemsigOps) : Statement (.semsig h o) := of_eq (op := 0x289) rfl rfl rfl
theorem semwait (h : Hdr) (o : SemwaitOps) : Statement (.semwait h o) := of_eq (op := 0x28A) rfl rfl rfl
theorem errack (h : Hdr) (o : ErrackOps) : Statement (.errack h o) := of_eq (op := 0x28B) rfl rfl rfl
theorem mdecl (h : Hdr) (o : MdeclOps) : Statement (.mdecl h o) := of_eq (op := 0x300) rfl rfl rfl
theorem msign (h : Hdr) (o : BitVec 3) : Statement (.msign h o) := of_eq (op := 0x301) rfl rfl rfl
theorem mma (h : Hdr) (o : MmaOps) : Statement (.mma h o) := of_eq (op := 0x302) rfl rfl (withBw_hdr _ _ _)
theorem mzero (h : Hdr) (o : BitVec 4) : Statement (.mzero h o) := of_eq (op := 0x303) rfl rfl rfl
theorem mload (h : Hdr) (o : MloadOps) : Statement (.mload h o) := of_eq (op := 0x304) rfl rfl rfl
theorem mout (h : Hdr) (o : MoutOps) : Statement (.mout h o) := of_eq (op := 0x305) rfl rfl rfl
theorem mfence (h : Hdr) : Statement (.mfence h) := of_eq (op := 0x306) rfl rfl rfl
theorem mwait (h : Hdr) (o : BitVec 3) : Statement (.mwait h o) := of_eq (op := 0x307) rfl rfl rfl
theorem awalk (h : Hdr) (o : AwalkOps) : Statement (.awalk h o) := of_eq (op := 0x310) rfl rfl (withBw_hdr _ _ _)
theorem astop (h : Hdr) (o : BitVec 3) : Statement (.astop h o) := of_eq (op := 0x311) rfl rfl rfl
theorem plalloc (h : Hdr) (o : PlallocOps) : Statement (.plalloc h o) := of_eq (op := 0x320) rfl rfl rfl
theorem plfree (h : Hdr) : Statement (.plfree h) := of_eq (op := 0x321) rfl rfl rfl
theorem plfill (h : Hdr) (o : PlfillOps) : Statement (.plfill h o) := of_eq (op := 0x322) rfl rfl (withBw_hdr _ _ _)
theorem pldrain (h : Hdr) (o : PlfillOps) : Statement (.pldrain h o) := of_eq (op := 0x323) rfl rfl (withBw_hdr _ _ _)
theorem plop (h : Hdr) (o : PlopOps) : Statement (.plop h o) := of_eq (op := 0x324) rfl rfl (withBw_hdr _ _ _)
theorem plmul (h : Hdr) (o : PlopOps) : Statement (.plmul h o) := of_eq (op := 0x325) rfl rfl (withBw_hdr _ _ _)
theorem pldot (h : Hdr) (o : PldotOps) : Statement (.pldot h o) := of_eq (op := 0x326) rfl rfl (withBw_hdr _ _ _)
theorem plcmp (h : Hdr) (o : PlcmpOps) : Statement (.plcmp h o) := of_eq (op := 0x327) rfl rfl (withBw_hdr _ _ _)
theorem plsel (h : Hdr) (o : PlselOps) : Statement (.plsel h o) := of_eq (op := 0x328) rfl rfl (withBw_hdr _ _ _)
theorem plred (h : Hdr) (o : PlredOps) : Statement (.plred h o) := of_eq (op := 0x329) rfl rfl (withBw_hdr _ _ _)
theorem plbmap (h : Hdr) (o : PlbmapOps) : Statement (.plbmap h o) := of_eq (op := 0x32A) rfl rfl (withBw_hdr _ _ _)
theorem ncallL (h : Hdr) (o : NcallLOps) : Statement (.ncallL h o) := of_eq (op := 0x380) rfl rfl rfl
theorem ncallB (h : Hdr) (o : NcallBOps) : Statement (.ncallB h o) := of_eq (op := 0x381) rfl rfl (withBw_hdr _ _ _)
theorem njoin (h : Hdr) (o : NjoinOps) : Statement (.njoin h o) := of_eq (op := 0x382) rfl rfl rfl
theorem nret (h : Hdr) (o : NretOps) : Statement (.nret h o) := of_eq (op := 0x383) rfl rfl rfl
theorem xred (h : Hdr) (o : XredOps) : Statement (.xred h o) := of_eq (op := 0x384) rfl rfl (withBw_hdr _ _ _)
theorem xpref (h : Hdr) (o : XredOps) : Statement (.xpref h o) := of_eq (op := 0x385) rfl rfl (withBw_hdr _ _ _)
theorem bkopen (h : Hdr) (o : Nat) : Statement (.bkopen h o) := of_eq (op := 0x386) rfl rfl rfl
theorem bkclose (h : Hdr) (o : Nat) : Statement (.bkclose h o) := of_eq (op := 0x387) rfl rfl rfl
theorem bkbcast (h : Hdr) (o : BkbcastOps) : Statement (.bkbcast h o) := of_eq (op := 0x388) rfl rfl rfl
theorem bkmac (h : Hdr) (o : BkmacOps) : Statement (.bkmac h o) := of_eq (op := 0x389) rfl rfl (withBw_hdr _ _ _)
theorem bkread (h : Hdr) (o : BkreadOps) : Statement (.bkread h o) := of_eq (op := 0x38A) rfl rfl rfl
theorem kvxlate (h : Hdr) (o : KvxlateOps) : Statement (.kvxlate h o) := of_eq (op := 0x38B) rfl rfl rfl
theorem kvmask (h : Hdr) (o : KvmaskOps) : Statement (.kvmask h o) := of_eq (op := 0x38C) rfl rfl rfl
theorem fcopyPut (h : Hdr) (o : FcopyOps) : Statement (.fcopyPut h o) := of_eq (op := 0x3A0) rfl rfl (withBw_hdr _ _ _)
theorem fcopyGet (h : Hdr) (o : FcopyOps) : Statement (.fcopyGet h o) := of_eq (op := 0x3A0) rfl rfl (withBw_hdr _ _ _)
theorem freduce (h : Hdr) (o : FreduceOps) : Statement (.freduce h o) := of_eq (op := 0x3A1) rfl rfl (withBw_hdr _ _ _)
theorem fsem (h : Hdr) (o : FsemOps) : Statement (.fsem h o) := of_eq (op := 0x3A2) rfl rfl rfl
theorem sysrd (h : Hdr) (o : SysrdOps) : Statement (.sysrd h o) := of_eq (op := 0x3C0) rfl rfl rfl
theorem syswr (h : Hdr) (o : SyswrOps) : Statement (.syswr h o) := of_eq (op := 0x3C1) rfl rfl rfl
theorem tret (h : Hdr) (o : TretOps) : Statement (.tret h o) := of_eq (op := 0x3C2) rfl rfl rfl
theorem resume (h : Hdr) (o : TretOps) : Statement (.resume h o) := of_eq (op := 0x3C3) rfl rfl rfl
theorem tlbinvAll (h : Hdr) (o : Nat) : Statement (.tlbinvAll h o) := of_eq (op := 0x3C4) rfl rfl rfl
theorem tlbinvVa (h : Hdr) (o : RangeOps) : Statement (.tlbinvVa h o) := of_eq (op := 0x3C4) rfl rfl rfl
theorem snapmark (h : Hdr) (o : RangeOps) : Statement (.snapmark h o) := of_eq (op := 0x3C5) rfl rfl rfl
theorem halt (h : Hdr) (o : HaltOps) : Statement (.halt h o) := of_eq (op := 0x3C6) rfl rfl rfl
theorem haltKill (h : Hdr) (o : HaltOps) : Statement (.haltKill h o) := of_eq (op := 0x3C6) rfl rfl rfl
theorem pair (a : Instr) (b : Instr) : Statement (.pair a b) := fun _ _ hr _ => nomatch hr
theorem wsyncRelease (g : Nat) (w : Nat) : Statement (.wsyncRelease g w) := fun _ _ hr _ => nomatch hr
theorem growGrant (g : Nat) : Statement (.growGrant g) := fun _ _ hr _ => nomatch hr
theorem cut (g : Nat) (w : Nat) : Statement (.cut g w) := fun _ _ hr _ => nomatch hr
theorem splice (g : Nat) (w : Nat) : Statement (.splice g w) := fun _ _ hr _ => nomatch hr
theorem cpaLineLand (op : Nat) (line : Nat) : Statement (.cpaLineLand op line) := fun _ _ hr _ => nomatch hr
theorem scratchpadAccessResume (op : Nat) : Statement (.scratchpadAccessResume op) := fun _ _ hr _ => nomatch hr
theorem teamMemberAccessResume (op : Nat) : Statement (.teamMemberAccessResume op) := fun _ _ hr _ => nomatch hr
theorem barrierComplete (team : Bool) (g : Nat) (n : Nat) : Statement (.barrierComplete team g n) := fun _ _ hr _ => nomatch hr
theorem bwwaitRetest (op : Nat) : Statement (.bwwaitRetest op) := fun _ _ hr _ => nomatch hr
theorem semwaitRetry (op : Nat) : Statement (.semwaitRetry op) := fun _ _ hr _ => nomatch hr
theorem longLatencyComplete (op : Nat) : Statement (.longLatencyComplete op) := fun _ _ hr _ => nomatch hr
theorem fixedLatencyComplete (op : Nat) : Statement (.fixedLatencyComplete op) := fun _ _ hr _ => nomatch hr
theorem mmaIssue (g : Nat) (c : Nat) : Statement (.mmaIssue g c) := fun _ _ hr _ => nomatch hr
theorem mmaComplete (op : Nat) : Statement (.mmaComplete op) := fun _ _ hr _ => nomatch hr
theorem mwaitRelease (op : Nat) : Statement (.mwaitRelease op) := fun _ _ hr _ => nomatch hr
theorem walkPoint (op : Nat) : Statement (.walkPoint op) := fun _ _ hr _ => nomatch hr
theorem planeCommandStart (op : Nat) : Statement (.planeCommandStart op) := fun _ _ hr _ => nomatch hr
theorem ncallLDeliver (op : Nat) (stack : Nat) : Statement (.ncallLDeliver op stack) := fun _ _ hr _ => nomatch hr
theorem ncallReply (op : Nat) : Statement (.ncallReply op) := fun _ _ hr _ => nomatch hr
theorem ncallBDeliver (op : Nat) : Statement (.ncallBDeliver op) := fun _ _ hr _ => nomatch hr
theorem ncallBComplete (g : Nat) : Statement (.ncallBComplete g) := fun _ _ hr _ => nomatch hr
theorem njoinRelease (op : Nat) : Statement (.njoinRelease op) := fun _ _ hr _ => nomatch hr
theorem returnTrap (g : Nat) (w : Nat) : Statement (.returnTrap g w) := fun _ _ hr _ => nomatch hr
theorem returnTrapPlace (g : Nat) : Statement (.returnTrapPlace g) := fun _ _ hr _ => nomatch hr
theorem bankCommandStart (op : Nat) : Statement (.bankCommandStart op) := fun _ _ hr _ => nomatch hr
theorem bkmacWave (op : Nat) : Statement (.bkmacWave op) := fun _ _ hr _ => nomatch hr
theorem fabricAck (op : Nat) (status : Nat) (data : List (BitVec 64 × Bool)) : Statement (.fabricAck op status data) :=
  fun _ _ hr _ => nomatch hr
theorem fsemSignal (op : Nat) (status : Nat) : Statement (.fsemSignal op status) := fun _ _ hr _ => nomatch hr
theorem engineArrival (op : Nat) : Statement (.engineArrival op) := fun _ _ hr _ => nomatch hr
theorem trapRecordWrite (c : Nat) : Statement (.trapRecordWrite c) := fun _ _ hr _ => nomatch hr
theorem trapptrTailWrite (c : Nat) (tail : BitVec 17) : Statement (.trapptrTailWrite c tail) := fun _ _ hr _ => nomatch hr
theorem snapshotCopy (take : Nat) (granule : Nat) : Statement (.snapshotCopy take granule) := fun _ _ hr _ => nomatch hr
theorem warpRetire (g : Nat) (w : Nat) : Statement (.warpRetire g w) := fun _ _ hr _ => nomatch hr
theorem groupRetire (g : Nat) : Statement (.groupRetire g) := fun _ _ hr _ => nomatch hr
theorem gridEnd (take : Nat) : Statement (.gridEnd take) := fun _ _ hr _ => nomatch hr
theorem triggerPoint (take : Nat) : Statement (.triggerPoint take) := fun _ _ hr _ => nomatch hr
theorem groupAdmission (take : Nat) : Statement (.groupAdmission take) := fun _ _ hr _ => nomatch hr
theorem eviction (take : Nat) : Statement (.eviction take) := fun _ _ hr _ => nomatch hr
theorem growDeadlockEviction (core : Nat) : Statement (.growDeadlockEviction core) := fun _ _ hr _ => nomatch hr
theorem evictionRecord (g : Nat) : Statement (.evictionRecord g) := fun _ _ hr _ => nomatch hr
theorem groupRestore (g : Nat) : Statement (.groupRestore g) := fun _ _ hr _ => nomatch hr
theorem qtailWrite (n : Nat) (q : Nat) (tail : BitVec 17) : Statement (.qtailWrite n q tail) := fun _ _ hr _ => nomatch hr
theorem errClear (n : Nat) (q : Nat) : Statement (.errClear n q) := fun _ _ hr _ => nomatch hr
theorem queueLaunch (n : Nat) (q : Nat) : Statement (.queueLaunch n q) := fun _ _ hr _ => nomatch hr
theorem queueSemwait (n : Nat) (q : Nat) : Statement (.queueSemwait n q) := fun _ _ hr _ => nomatch hr
theorem queueSemwaitRetry (n : Nat) (q : Nat) : Statement (.queueSemwaitRetry n q) := fun _ _ hr _ => nomatch hr
theorem queueSemsig (n : Nat) (q : Nat) : Statement (.queueSemsig n q) := fun _ _ hr _ => nomatch hr
theorem queueCopy (n : Nat) (q : Nat) : Statement (.queueCopy n q) := fun _ _ hr _ => nomatch hr
theorem queueCopyComplete (n : Nat) (q : Nat) : Statement (.queueCopyComplete n q) := fun _ _ hr _ => nomatch hr
theorem queueBarrier (n : Nat) (q : Nat) : Statement (.queueBarrier n q) := fun _ _ hr _ => nomatch hr
theorem queueTimestamp (n : Nat) (q : Nat) : Statement (.queueTimestamp n q) := fun _ _ hr _ => nomatch hr
theorem timeSliceExpiry (n : Nat) (q : Nat) : Statement (.timeSliceExpiry n q) := fun _ _ hr _ => nomatch hr
theorem takeEnd (take : Nat) : Statement (.takeEnd take) := fun _ _ hr _ => nomatch hr
theorem retake (take : Nat) : Statement (.retake take) := fun _ _ hr _ => nomatch hr
theorem contextCreate (id : BitVec 12) (dpart : BitVec 3) (priv : Bool) (dpriv : Bool) : Statement (.contextCreate id dpart priv dpriv) :=
  fun _ _ hr _ => nomatch hr
theorem contextEnd (id : BitVec 12) : Statement (.contextEnd id) := fun _ _ hr _ => nomatch hr
theorem bistGo (scope : BitVec 10) (dpmask : BitVec 8) : Statement (.bistGo scope dpmask) := fun _ _ hr _ => nomatch hr
theorem bistDone (failing : List (BitVec 64)) : Statement (.bistDone failing) := fun _ _ hr _ => nomatch hr
theorem pprDone (spare : Bool) : Statement (.pprDone spare) := fun _ _ hr _ => nomatch hr
theorem dpcfgWrite (v : BitVec 64) : Statement (.dpcfgWrite v) := fun _ _ hr _ => nomatch hr
theorem pstateWrite (p : BitVec 3) (v : BitVec 3) : Statement (.pstateWrite p v) := fun _ _ hr _ => nomatch hr
theorem pstateResume (p : BitVec 3) : Statement (.pstateResume p) := fun _ _ hr _ => nomatch hr
theorem clonWrite (v : BitVec 16) : Statement (.clonWrite v) := fun _ _ hr _ => nomatch hr
theorem clusterPowerOff (k : BitVec 4) : Statement (.clusterPowerOff k) := fun _ _ hr _ => nomatch hr
theorem sconWrite (v : BitVec 64) : Statement (.sconWrite v) := fun _ _ hr _ => nomatch hr
theorem stackCorePowerOff (sc : BitVec 6) : Statement (.stackCorePowerOff sc) := fun _ _ hr _ => nomatch hr
theorem banklimWrite (m : BitVec 3) (v : BitVec 64) : Statement (.banklimWrite m v) := fun _ _ hr _ => nomatch hr
theorem thermalTrip : Statement .thermalTrip := fun _ _ hr _ => nomatch hr
theorem tripClear : Statement .tripClear := fun _ _ hr _ => nomatch hr
theorem attest : Statement .attest := fun _ _ hr _ => nomatch hr
theorem enroll : Statement .enroll := fun _ _ hr _ => nomatch hr
theorem revoke : Statement .revoke := fun _ _ hr _ => nomatch hr
theorem update : Statement .update := fun _ _ hr _ => nomatch hr
theorem devkey : Statement .devkey := fun _ _ hr _ => nomatch hr
theorem securityBadOp (op : BitVec 4) : Statement (.securityBadOp op) := fun _ _ hr _ => nomatch hr
theorem coldReset : Statement .coldReset := fun _ _ hr _ => nomatch hr
theorem warmReset : Statement .warmReset := fun _ _ hr _ => nomatch hr
theorem functionReset (p : BitVec 3) : Statement (.functionReset p) := fun _ _ hr _ => nomatch hr
theorem pprRepair (v : BitVec 64) : Statement (.pprRepair v) := fun _ _ hr _ => nomatch hr
theorem hostLinkRetrain (width : Nat) (rate : Nat) (ide : Bool) : Statement (.hostLinkRetrain width rate ide) := fun _ _ hr _ => nomatch hr
theorem ualinkPortTrain (port : Nat) (lanes : Nat) (peer : BitVec 10) : Statement (.ualinkPortTrain port lanes peer) :=
  fun _ _ hr _ => nomatch hr
theorem hostMemAccess (write : Bool) (addr : HostAddr) (data : List (BitVec 8)) (poison : Bool) :
    Statement (.hostMemAccess write addr data poison) :=
  fun _ _ hr _ => nomatch hr
theorem hostSnoop (line : Nat) : Statement (.hostSnoop line) := fun _ _ hr _ => nomatch hr
theorem ualinkRead (sender : BitVec 10) (ctx : BitVec 12) (va : BitVec 64) : Statement (.ualinkRead sender ctx va) :=
  fun _ _ hr _ => nomatch hr
theorem ualinkWrite (sender : BitVec 10) (ctx : BitVec 12) (va : BitVec 64) (data : List (BitVec 8)) (poison : Bool) : Statement (.ualinkWrite sender ctx va data poison) :=
  fun _ _ hr _ => nomatch hr
theorem ualinkReduceWrite (sender : BitVec 10) (ctx : BitVec 12) (va : BitVec 64) (bf16 : Bool) (data : List (BitVec 8)) : Statement (.ualinkReduceWrite sender ctx va bf16 data) :=
  fun _ _ hr _ => nomatch hr
theorem ualinkAtomicAdd (sender : BitVec 10) (ctx : BitVec 12) (va : BitVec 64) (n : BitVec 32) : Statement (.ualinkAtomicAdd sender ctx va n) :=
  fun _ _ hr _ => nomatch hr
theorem registerWrite (offset : HostReg) (v : BitVec 64) : Statement (.registerWrite offset v) := fun _ _ hr _ => nomatch hr
theorem eccScrub (sector : Nat) : Statement (.eccScrub sector) := fun _ _ hr _ => nomatch hr
theorem packageSupplyLoss : Statement .packageSupplyLoss := fun _ _ hr _ => nomatch hr
theorem strapChange (recovery : Bool) (owner : Bool) : Statement (.strapChange recovery owner) := fun _ _ hr _ => nomatch hr

end Sys2Proof.Laws.Header
end

