-- ==== Sys2Proof/Tests/Slice0.lean ====
section
/-!
SUPPORT. Tests: words written out from the encoding tables and what they decode to, ill-formed terms that the check of well-formedness
refuses, worked values of the spec, and a witness for the hypotheses of each statement.
-/

namespace Sys2Proof.Tests

open Sys2Proof.Machine Sys2Proof.Claims

set_option maxRecDepth 20000
set_option Elab.async false

/-! ### Words (R194 to R201, R208; each family's own fields) -/

/-- An unguarded header with no stall, wait or set flag. -/
def bare : Hdr := ⟨0, 0, 0, Guard.always⟩

/-- The bits of an unguarded word's guard fields: GPA and GPB are 7 (R195). -/
def unguarded : Nat := 7 * 2 ^ 29 + 7 * 2 ^ 33

/-- `bra -2, 3`: TPRIO in bits 38-45, OFFSET in bits 46-77 (R201). -/
theorem test_word_bra : decodeWords (0x001 + unguarded + 3 * 2 ^ 38 + (2 ^ 32 - 2) * 2 ^ 46) none = .ok (.bra bare ⟨3, 0xFFFFFFFE⟩) := by
  decide +kernel

/-- `loop 10` with SKIP 5 in bits 58-77: IMMC in bit 78, the count in bits 10-41 of the second half (R227, R200). -/
theorem test_word_loop : decodeWords (0x007 + unguarded + 5 * 2 ^ 58 + 2 ^ 78) (some (10 * 2 ^ 10)) = .ok (.loop bare ⟨.i32 10, 5⟩) := by
  decide +kernel

/-- `isetp.lt.and.i32 p2, v4, -1, !p5`: FN bits 0-2 in 83-85, bits 3-4 in 87-88, the immediate under OPSEL 1 (R223, R247, R199). -/
theorem test_word_isetp :
    decodeWords (0x099 + unguarded + 2 * 2 ^ 38 + 4 * 2 ^ 48 + 1023 * 2 ^ 58 + 13 * 2 ^ 68 + 1 * 2 ^ 78 + 2 * 2 ^ 83 + 1 * 2 ^ 87 + 1 * 2 ^ 94) none =
      .ok (.isetp bare ⟨.lt, .and, .i32, 2, .reg (.v 4), .i10 1023, ⟨5, true⟩⟩) := by decide +kernel

/-- `mov.b32 s3, q1`: a queue as source 1 needs the long form's QMASK bit 42 (R200). -/
theorem test_word_mov_queue :
    decodeWords (0x0A0 + unguarded + 643 * 2 ^ 38 + 1 * 2 ^ 48) (some (2 ^ 42)) = .ok (.mov bare ⟨.b32, false, .s 3, .q 1⟩) := by decide +kernel

/-- `fmul.f32.rz v1, -v2, |v3|`: RND 1 in bits 83-85, NEG bit 87, ABS bit 91 (R261). -/
theorem test_word_fmul :
    decodeWords (0x102 + unguarded + 1 * 2 ^ 38 + 2 * 2 ^ 48 + 3 * 2 ^ 58 + 9 * 2 ^ 78 + 1 * 2 ^ 83 + 2 ^ 87 + 2 ^ 91) none =
      .ok (.fmul bare ⟨.f32, .rz, false, 1, 2, .v 1, .reg (.v 2), .reg (.v 3)⟩) := by decide +kernel

/-- `atom.add.rel.sc2.z32 v8, [s4:s5 + 16], v9`: AOP in bits 83-86, AORD in 87-88, SCOPE in 89-93 (R280, R292). -/
theorem test_word_atom :
    decodeWords (0x207 + unguarded + 8 * 2 ^ 38 + 644 * 2 ^ 48 + 16 * 2 ^ 58 + 9 * 2 ^ 68 + 2 * 2 ^ 78 + 2 * 2 ^ 87 + 2 * 2 ^ 89 + 1 * 2 ^ 94) none =
      .ok (.atom bare ⟨.add, .z32, .rel, 2, .v 8, .reg (.s 4), .i10 16, .reg (.v 9), none⟩) := by decide +kernel

/-- `bwarr.rel.sc1 v7, [s6:s7], 1`: REL in bit 86, SCOPE in bits 89-93, the count under OPSEL 1 (R303, R304). -/
theorem test_word_bwarr :
    decodeWords (0x286 + unguarded + 7 * 2 ^ 38 + 646 * 2 ^ 48 + 1 * 2 ^ 58 + 2 ^ 86 + 1 * 2 ^ 89 + 1 * 2 ^ 94) none =
      .ok (.bwarr bare ⟨true, .global 6, 1, .v 7, .i10 1⟩) := by decide +kernel

/-- `plalloc [s4:s5], 3`: the width in bits 58-61 (R337). -/
theorem test_word_plalloc : decodeWords (0x320 + unguarded + 644 * 2 ^ 48 + 3 * 2 ^ 58) none = .ok (.plalloc bare ⟨4, 3⟩) := by decide +kernel

/-- An odd pair (R65), a set flag of 13 (R210), an unassigned opcode (R208) and a nonzero reserved field (R13) are no instruction. -/
theorem test_words_refused :
    decodeWords (0x207 + unguarded + 8 * 2 ^ 38 + 645 * 2 ^ 48 + 16 * 2 ^ 58 + 9 * 2 ^ 68 + 2 * 2 ^ 78 + 1 * 2 ^ 94) none = .error .operand ∧
    decodeWords (0x006 + unguarded + 13 * 2 ^ 25) none = .error .setFlag ∧ decodeWords (0x01A + unguarded) none = .error .unassigned ∧
    decodeWords (0x321 + unguarded + 2 ^ 48) none = .error .reserved := by decide +kernel

/-- A system instruction is none in a kernel (R209). -/
theorem test_system_word_in_a_kernel : decodeRaw (Raw.ofNat (0x0000C0000282AA0EE00003C0) none) false false 0 = .error .system := by decide +kernel

/-- The script bias adds 8 to v codes and to nothing else (R205); beyond v639 it is refused. -/
theorem test_script_bias :
    decodeRaw (Raw.ofNat 0x09300030080101CEE000008E none) true false 2 = .ok (.lop3 bare ⟨.v 23, .reg (.v 17), .reg (.v 18), .reg (.v 19), 0x96⟩) ∧
    decodeRaw (Raw.ofNat 0x09300030080101CEE000008E none) true false 80 = .error .biased := by decide +kernel

/-! ### Ill-formed terms, one for each check -/

/-- The header: set flags above 12; WCUT, WSPLICE and GROW take only the guard (p7) and no set flag. -/
theorem test_ill_formed_header :
    (Instr.nop { bare with setf := 13 }).wf = false ∧ (Instr.grow { bare with setf := 1 }).wf = false ∧
    (Instr.wcut { bare with guard := ⟨⟨1, false⟩, ⟨7, false⟩, false⟩ }).wf = false ∧ (Instr.wsplice bare ⟨0, 7, 0⟩).wf = false := by decide

/-- Registers beyond a class, odd pairs and displaced blocks. -/
theorem test_ill_formed_registers :
    (Instr.not bare ⟨.b32, false, .v 640, .reg (.v 0)⟩).wf = false ∧ (Instr.not bare ⟨.b32, false, .s 384, .reg (.v 0)⟩).wf = false ∧
    (Instr.brx bare ⟨0, 5⟩).wf = false ∧ (Instr.wsync bare (.s 3)).wf = false ∧ (Instr.ncallB bare ⟨8, ⟨0, 0⟩⟩).wf = false ∧
    (Instr.plop bare ⟨0, false, none, 5⟩).wf = false ∧ (Instr.awalk bare ⟨some ⟨7, 0⟩, 0, 0, 0⟩).wf = false ∧
    (Instr.bwinit bare ⟨.global 3, 0, .i10 1⟩).wf = false ∧ (Instr.bwinit bare ⟨.scratch 384, 0, .i10 1⟩).wf = false := by decide

/-- Types, immediates and third sources that a form does not take. -/
theorem test_ill_formed_operands :
    (Instr.iadd bare ⟨.f32, false, .v 0, .reg (.v 0), .reg (.v 0)⟩).wf = false ∧
    (Instr.imin bare ⟨.i32, true, .v 0, .reg (.v 0), .reg (.v 0)⟩).wf = false ∧
    (Instr.iadd bare ⟨.i8, false, .v 0, .reg (.v 0), .i10 1⟩).wf = false ∧ (Instr.iadd bare ⟨.i64, false, .v 0, .q 1, .reg (.v 0)⟩).wf = false ∧
    (Instr.imad bare ⟨.i32, false, .v 0, .reg (.v 0), .i16 1, .reg (.v 0)⟩).wf = false ∧
    (Instr.imadw bare ⟨.i32, false, .v 1, .reg (.v 0), .reg (.v 0), .reg (.v 2)⟩).wf = false ∧
    (Instr.loop bare ⟨.i10 1, 0⟩).wf = false ∧ (Instr.movi bare ⟨.b32, .v 0, .reg (.v 1)⟩).wf = false ∧
    (Instr.smov bare ⟨.i64, 1, 2, .i10 0⟩).wf = false ∧ (Instr.spr bare ⟨.v 0, 25⟩).wf = false ∧
    (Instr.isetp bare ⟨.eq, .none, .i32, 0, .reg (.v 0), .reg (.v 0), ⟨1, false⟩⟩).wf = false ∧
    (Instr.isel bare ⟨.i32, .v 0, .reg (.v 0), .reg (.v 0), ⟨0, false⟩⟩).wf = false := by decide

/-- Reductions, conversions and packing. -/
theorem test_ill_formed_functions :
    (Instr.redW bare ⟨.and, .i32, false, .rn, .v 0, .reg (.v 0)⟩).wf = false ∧ (Instr.redW bare ⟨.add, .f32, false, .rs, .v 0, .reg (.v 0)⟩).wf = false ∧
    (Instr.cvt bare ⟨.f32, .f32, .rn, false, .v 0, .v 1⟩).wf = false ∧ (Instr.cvt bare ⟨.i32, .z32, .rz, false, .v 0, .v 1⟩).wf = false ∧
    (Instr.pack bare ⟨.e4m3, false, 1, .rn, false, .v 0, .v 1, some (.v 2)⟩).wf = false ∧
    (Instr.pack bare ⟨.e3m2, false, 4, .rn, false, .v 0, .v 1, some (.v 2)⟩).wf = false ∧
    (Instr.unpack bare ⟨.i8, .rz, 0, 0, .v 1⟩).wf = false ∧ (Instr.qnt bare ⟨.e4m3, .rn, 7, 0, 0, 8⟩).wf = false ∧
    (Instr.dqnt bare ⟨.e2m1, .rn, false, 633, .v 0, .v 1⟩).wf = false ∧ (Instr.rng bare ⟨.i32, .v 0⟩).wf = false := by decide

/-- Memory, atomics, matrix tiles and system instructions. -/
theorem test_ill_formed_accesses :
    (Instr.ld bare ⟨.i64, 2, false, .plain, 0, .v 0, .reg (.s 0), .i10 0⟩).wf = false ∧
    (Instr.ld bare ⟨.i32, 0, true, .plain, 0, .v 0, .reg (.s 0), .i10 0⟩).wf = false ∧
    (Instr.ld bare ⟨.i32, 2, false, .plain, 0, .v 637, .reg (.s 0), .i10 0⟩).wf = false ∧
    (Instr.ld bare ⟨.i32, 0, false, .plain, 0, .v 0, .reg (.s 1), .i10 0⟩).wf = false ∧
    (Instr.st bare ⟨.i32, 0, false, .plain, 0, .reg (.s 0), .i16 0, .reg (.v 0)⟩).wf = false ∧
    (Instr.atom bare ⟨.inc, .i32, .none, 0, .v 0, .reg (.s 0), .i10 0, .reg (.v 0), none⟩).wf = false ∧
    (Instr.atom bare ⟨.cas, .b32, .none, 0, .v 0, .reg (.s 0), .i10 0, .reg (.v 0), none⟩).wf = false ∧
    (Instr.red bare ⟨.add, .i32, .acq, 0, .reg (.s 0), .i10 0, .reg (.v 0), none⟩).wf = false ∧
    (Instr.mma bare ⟨12, 12, false, none, 1, 0, 0⟩).wf = false ∧ (Instr.mout bare ⟨.f32, .rs, false, 0, 0⟩).wf = false ∧
    (Instr.ncallL bare ⟨0, 0, 5, false, 0, 0, 0, 0⟩).wf = false ∧ (Instr.sysrd bare ⟨41, 2, 3⟩).wf = false := by decide

/-! ### A small device for the witnesses -/

/-- One group of one warp of four lanes of a privileged context on core 0, about to act on a word at PC 0 for all its lanes. The second
slot of its line is a target; 128 MiB at 0 lie on an ordinary page, the 128 MiB above them on a page of the bank units, and the next on a page
of host memory. -/
def demo : State :=
  let s := State.reset.withFetchWord 96 0
  { s with
    mem := (s.mem.writeNat (cellOf 1 0x20008) 16 (0x10000087 + 2 ^ 64 * (2 ^ 39 + 7))).writeNat (cellOf 1 0x8000000) 64
      (leNat (Line.make 0 2 0 [6, 6, 0, 0, 0]).toBytes)
    cur := some ⟨0, 0, [0, 1, 2, 3], 0, 0, false⟩ }

/-- The first virtual address of host memory. -/
def hostVa : Nat := 0x10000000

/-- A state with `n` bytes of `x` in host memory, `off` bytes up. -/
def withHost (off n x : Nat) (s : State) : State := { s with mem := s.mem.writeNat (2 ^ 39 + off) n x }

/-- The demo with other lanes, warps, registers or owned state. -/
def demoWith (f : Group → Group) : State := { demo with groups := demo.groups.map f }

/-- Every lane with `v` at register `n`. -/
def lanesWith (n v : Nat) (g : Group) : Group :=
  { g with lanes := g.lanes.map fun l => { l with v := NMap.put (0, 0) l.v n (BitVec.ofNat 32 v, 0) } }

/-- The s registers hold `xs` from `n`. -/
def sWith (n : Nat) (xs : List Nat) (g : Group) : Group :=
  { g with s := (xs.zipIdx n).foldl (fun m x => NMap.put 0 m x.2 (BitVec.ofNat 32 x.1)) g.s }

/-- A state with s pairs from s0 on. -/
def pairs (xs : List Nat) : Group → Group := sWith 0 (xs.flatMap fun x => [x % 2 ^ 32, x / 2 ^ 32])

/-- The state after an instruction. -/
def after (i : Instr) (s : State) : State :=
  match exec i s with
  | .next t => t
  | _ => s

/-- The environment of an unguarded word. -/
def holds (s : State) (h : Hdr) (p : Env → Bool) : Bool := (s.env h.guard).any fun e => !e.act.isEmpty && e.lost.isEmpty && p e

theorem acts_of {s : State} {h : Hdr} {P : Env → Prop} [DecidablePred P] (x : (holds s h fun e => decide (P e)) = true) : ∃ e, Acts s h e ∧ P e := by
  unfold holds at x
  cases he : s.env h.guard with
  | none => simp [he] at x
  | some e =>
    simp [he] at x
    exact ⟨e, ⟨he, by simpa using x.1.1, by simpa using x.1.2⟩, x.2⟩

theorem reads_of {s : State} {h : Hdr} {dst : List Nat} {args : List Arg} {P : Env → Prop} [DecidablePred P]
    (x : (holds s h fun e => (e.g.codesFault (dst ++ args.flatMap Arg.codes)).isNone &&
      (badTags args (s.rows e args (s.popArgs e args).2)).isEmpty && decide (P e)) = true) : ∃ e t qs, Reads s h e dst args t qs ∧ P e := by
  unfold holds at x
  cases he : s.env h.guard with
  | none => simp [he] at x
  | some e =>
    simp [he] at x
    exact ⟨e, _, _, ⟨⟨he, by simpa using x.1.1, by simpa using x.1.2⟩, by simpa using x.2.1.1, rfl, by simpa using x.2.1.2⟩, x.2.2⟩

/-- The operation that a word left in flight may complete now. -/
def ends (s : State) (p : Op → Group → Bool) : Bool :=
  s.ops.any fun o => s.findOp o.id == some o && (s.findGroup o.gid).any fun g => s.mayEnd o g && p o g

theorem ending_of {s : State} {P : Op → Group → Prop} [∀ o g, Decidable (P o g)] (x : (ends s fun o g => decide (P o g)) = true) :
    ∃ o g, Ending s o g ∧ P o g := by
  unfold ends at x
  obtain ⟨o, _, h⟩ := List.any_eq_true.1 x
  simp only [Bool.and_eq_true, beq_iff_eq] at h
  obtain ⟨h1, h2⟩ := h
  cases hg : s.findGroup o.gid with
  | none => simp [hg] at h2
  | some g =>
    simp [hg] at h2
    exact ⟨o, g, ⟨h1, hg, h2.1⟩, h2.2⟩

/-- A state with an instruction of its warp in flight. -/
def flight (i : Instr) (f : Op → Op) (s : State) : State :=
  match s.env Guard.always with
  | some e => s.addOp (f (e.op s bare i))
  | none => s

/-! ### Witnesses: for each statement a state and operands that meet its hypotheses, clause by clause -/

/-- Whether an instruction answers a next state. -/
def goes (i : Instr) (s : State) : Bool :=
  match exec i s with
  | .next _ => true
  | _ => false

/-- Whether the outcome of decoding is an instruction. -/
def decodes (x : Except DecodeError Instr) : Bool :=
  match x with
  | .ok _ => true
  | .error _ => false

theorem witness_EncodingRoundTrips :
    (Instr.mma bare ⟨31, 31, true, some ⟨382, 31⟩, 14, 7, 368⟩).wf = true ∧ (encode (Instr.mma bare ⟨31, 31, true, some ⟨382, 31⟩, 14, 7, 368⟩)).isSome = true := by
  decide +kernel

theorem witness_DecodedWordsAreWellFormed : decodes (decodeRaw (Raw.ofNat 0x09300030080101CEE000008E none) false false 79) = true := by decide +kernel

theorem witness_GuardsChooseTheActiveLanes :
    ((demo.env Guard.always).any fun e => (List.range 7).all fun n => !demo.hazard e.g 3 (predCode n)) = true ∧
    ((demo.env ⟨⟨7, true⟩, ⟨7, false⟩, false⟩).any fun e => e.act.isEmpty && demo.privileged e.g) = true := by decide +kernel

theorem witness_IntegerResultsWrapOrClamp :
    Ty.isInt .i8 = true ∧ 255 < 2 ^ Ty.bits .i8 ∧ 3 < Ty.count .i8 ∧ Ty.isInt .z64 = true ∧ 2 ^ 64 - 1 < 2 ^ Ty.bits .z64 ∧ 0 < Ty.count .z64 := by decide

/-- Registers at the ends of their classes, and a pair. -/
theorem witness_IntegerArithmeticIssues :
    (∃ e t qs, Reads demo bare e (regCodes false (.v 639)) [.of .i32 (.reg (.v 0)), .of .i32 (.reg (.s 383))] t qs ∧ True) ∧
    (∃ e t qs, Reads demo bare e (regCodes true (.v 638)) [.of .i64 (.reg (.v 0)), .of .i64 (.i10 512), .of .i64 (.reg (.s 382))] t qs ∧ True) :=
  ⟨reads_of (by decide +kernel), reads_of (by decide +kernel)⟩

theorem witness_BitFunctionsCompute : 31 < 32 ∧ 2 ^ 32 - 1 < 2 ^ 32 ∧ 1 ≠ 0 := by decide

/-- A write of s1 is under way. -/
def demoMoving : State := after (.not bare ⟨.b32, false, .s 1, .reg (.v 0)⟩) demo

/-- The demo with its group on stack core 0. -/
def demoNearMemory : State := demoWith fun g => { g with place := .stackCore 64 }

/-- The moved register at the end of the allotment, on either side; an index that is read too early; special registers on a core and on a
stack core. -/
theorem witness_ComparesAndMovesIssue :
    ((demo.env Guard.always).any fun e => (demo.takeOf e.g).isSome && e.g.kind == .kernel && !e.g.onStack) = true ∧
    ((demoNearMemory.env Guard.always).any fun e => (demoNearMemory.takeOf e.g).isSome && e.g.onStack) = true ∧
    (∃ e t qs, Reads demo bare e [] [.of .i32 (.reg (.v 0)), .of .i32 (.i10 1023), combArg .and ⟨6, true⟩] t qs ∧ True) ∧
    (∃ e t qs, Reads demo bare e (regCodes true (.v 638)) [.any .i64 (.reg (.s 382)), .any .i64 (.reg (.v 0)), .pred ⟨6, true⟩] t qs ∧ True) ∧
    (∃ e t qs, Reads demo bare e (regCodes true (.s 382)) [.reg .i64 (.v 638), .of .z32 (.reg (.v 639))] t qs ∧ True) ∧
    (∃ e t qs, Reads demo bare e [] [.pred ⟨0, false⟩, .pred ⟨7, false⟩, .pred ⟨6, false⟩] t qs ∧ True) ∧
    (∃ e t qs, Reads demo bare e [] [] t qs ∧ True) ∧ (∃ e t qs, Reads demo bare e (regCodes false (.v 639)) [.any .b32 (.reg (.s 383))] t qs ∧ True) ∧
    (∃ e t qs, Reads demo bare e (regCodes true (.v 638)) [.any .i64 (.i32 (2 ^ 31))] t qs ∧ True) ∧
    (∃ e t qs, Reads demo bare e [(Reg.s 383).code] [] t qs ∧ True) ∧ (∃ e t qs, Reads demo bare e (regCodes true (.v 638)) [] t qs ∧ True) ∧
    (∃ e, Acts demo bare e ∧ e.g.codesFault (regCodes false (.s 0) ++ (Arg.of .b32 (.i10 383)).codes) = none ∧ (0 : Int) + 1 ≤ e.g.allot.s ∧
      (demo.readArg e 1 e.low [] (.of .b32 (.i10 383))).haz = false ∧
      (0 : Int) + signed 32 (demo.readArg e 1 e.low [] (.of .b32 (.i10 383))).val = 383 ∧ (383 : Int) + 1 ≤ e.g.allot.s) ∧
    (∃ e, Acts demoMoving bare e ∧ e.g.codesFault (regCodes false (.s 0) ++ (Arg.of .b32 (.reg (.s 1))).codes) = none ∧
      (demoMoving.readArg e 1 e.low [] (.of .b32 (.reg (.s 1)))).haz = true) :=
  ⟨by decide +kernel, by decide +kernel, reads_of (by decide +kernel), reads_of (by decide +kernel), reads_of (by decide +kernel), reads_of (by decide +kernel), reads_of (by decide +kernel),
    reads_of (by decide +kernel), reads_of (by decide +kernel), reads_of (by decide +kernel), reads_of (by decide +kernel), acts_of (by decide +kernel),
    acts_of (by decide +kernel)⟩

theorem witness_CrossLaneIssues :
    (∃ e t qs, Reads demo bare e (regCodes false (.v 1)) [.any .b32 (.reg (.v 0)), .any .b32 (.i10 3)] t qs ∧ True) ∧
    (∃ e t qs, Reads demo bare e (regCodes true (.v 638)) [.any .i64 (.reg (.v 0)), .any .b32 (.reg (.s 383))] t qs ∧ True) ∧
    (∃ e t qs, Reads demo bare e [(Reg.s 383).code] [.any .b32 (.reg (.v 639)), .any .b32 (.reg (.v 0))] t qs ∧ True) ∧
    (∃ e t qs, Reads demo bare e (regCodes true (.s 2)) [.pred ⟨3, true⟩] t qs ∧ True) ∧
    (∃ e t qs, Reads demo bare e (regCodes true (.v 638)) [.of .i32 (.reg (.v 639))] t qs ∧ True) ∧
    (∃ e t qs, Reads demo bare e (regCodes true (.s 382)) [.of .i64 (.reg (.v 638))] t qs ∧ True) ∧
    (∃ e t qs, Reads demo bare e (regCodes false (.s 383)) [.of .i32 (.reg (.v 639)), .any .b32 (.i10 1023)] t qs ∧ True) :=
  ⟨reads_of (by decide +kernel), reads_of (by decide +kernel), reads_of (by decide +kernel), reads_of (by decide +kernel), reads_of (by decide +kernel),
    reads_of (by decide +kernel), reads_of (by decide +kernel)⟩

theorem witness_FloatArithmeticIssues :
    ∃ e t qs, Reads demo bare e [Reg.code (.v 1)] [.of .f32 (.reg (.v 0))] t qs ∧ e.g.onStack = false := reads_of (by decide +kernel)

/-- A source of FLAGS.SET with all five flags. -/
theorem witness_ConversionsIssue :
    (∃ e t qs, Reads demo bare e (regCodes true (.v 2)) [.reg .f32 (.v 0)] t qs ∧ True) ∧
    (∃ e, Acts (demoWith (lanesWith 3 31)) bare e ∧ e.g.codesFault [5, 3] = none ∧
      ∀ r ∈ (demoWith (lanesWith 3 31)).rows e [.any .b32 (.reg (.v 3))] [], r.haz = false ∧ r.fst < 32) :=
  ⟨reads_of (by decide +kernel), acts_of (by decide +kernel)⟩

/-- A state that is to issue what stands in slot 0 of its line. -/
def reachesWord (s : State) (p : Ready → Line → Bool) : Bool :=
  s.powered && s.stage != 0 && !s.frozen && s.todo.isEmpty && (match s.turn with
    | some (x :: rest) =>
      let v := { s with turn := some rest }
      ((v.findGroup x.1).bind fun g => (g.findWarp x.2).bind (v.eligible g)).any fun r => match (v.fetchLine r.g r.f.pc.toNat).2 with
        | .ok l => l.skip 1 r.f.pc.toNat == r.f.pc.toNat && p r l
        | .error _ => false
    | _ => false)

/-- The word is no member of a pair. -/
def issues (s : State) (p : Ready → Line → Bool) : Bool := reachesWord s fun r l => !l.isPair (pcSlot r.f.pc.toNat) && p r l

/-- The demo's line holds a marked pair: two moves that do not touch each other's registers. -/
def demoPair : State :=
  let w := (encode (.not bare ⟨.b32, false, .v 1, .reg (.v 0)⟩)).elim 0 Prod.fst
  let x := (encode (.not bare ⟨.b32, false, .v 2, .reg (.v 0)⟩)).elim 0 Prod.fst
  let s := State.reset.withFetchWord 96 0
  { s with mem := s.mem.writeNat (cellOf 1 0x8000000) 64 (leNat (Line.make 0 0 1 [w, x, 6 + unguarded, 0, 0]).toBytes) }

/-- The demo's line holds codes of a script of one entry (EXIT), which lies after it. -/
def demoScript : State :=
  let s := State.reset.withFetchWord 96 0
  { s with
    mem := (s.mem.writeNat (cellOf 1 0x8000000) 64 (leNat (Line.make 3 0 0 [0, 0, 0, 0, 0]).toBytes)).writeNat (cellOf 1 0x8000040) 12 (6 + unguarded)
    ctxs := s.ctxs.map fun c => { c with script := BitVec.ofNat 64 (64 + 2 ^ 52) } }

theorem witness_StepRunsTheDecodedWord :
    (issues (State.reset.withFetchWord 96 (6 + unguarded)) fun r l => match l.at r.f.pc.toNat with
      | .ok (.one w half) => decodes (decodeRaw (Raw.ofNat w half) ((State.reset.withFetchWord 96 (6 + unguarded)).privileged r.g) (l.badFor 0) 0)
      | _ => false) = true ∧
    (issues demoScript fun r l => match l.at r.f.pc.toNat with
      | .ok (.script ix st b) => decide (ix < demoScript.scriptSize r.g) &&
        (match ((demoScript.fetchLine r.g r.f.pc.toNat).1.scriptEntry r.g ix).2 with
          | .ok w => decodes (decodeRaw { Raw.ofNat w none with stall := st } (demoScript.privileged r.g) (l.badFor 0) b)
          | .error _ => false)
      | _ => false) = true ∧
    (reachesWord demoPair fun r l => let pc := r.f.pc.toNat
      l.isPair (pcSlot pc) && !l.isPair (pcSlot pc + 1) && l.kind (pcSlot pc) == 0 && l.kind (pcSlot pc + 1) == 0 &&
      match l.at pc, l.at (pc + 8) with
        | .ok (.one x none), .ok (.one y none) => decodes (decodeRaw (Raw.ofNat x none) (demoPair.privileged r.g) (l.badFor (pcSlot pc)) 0) &&
          decodes (decodeRaw (Raw.ofNat y none) (demoPair.privileged r.g) (l.badFor (pcSlot (pc + 8))) 0)
        | _, _ => false) = true ∧
    (∃ e, Acts demo bare e ∧ demo.pairFault e (.not bare ⟨.b32, false, .v 1, .reg (.v 0)⟩) (.not bare ⟨.b32, false, .v 2, .reg (.v 0)⟩) = none) ∧
    demo.powered = true ∧ demo.stage ≠ 0 ∧ demo.frozen = false := by
  refine ⟨by decide +kernel, by decide +kernel, by decide +kernel, acts_of (by decide +kernel), by decide +kernel⟩

theorem witness_IssueMovesTheEntry : (demo.readyWarps.any fun r =>
    demo.findGroup r.g.gid == some r.g && r.g.findWarp r.w.wid == some r.w && decide r.f.lanes.Nodup) = true := by decide +kernel

/-- Canonical memory and an empty L2. -/
theorem tidy_of {s : State} (hm : Memory.wf s.mem = true) (hl : s.l2 = []) : Coherent s :=
  ⟨⟨hm, by rw [hl]; rfl⟩, fun _ _ h => by simp [hl, NMap.get] at h⟩

theorem demo_tidy : Coherent demo := tidy_of (by decide +kernel) (by decide +kernel)

theorem demo_listed : Listed demo := by unfold Listed Rising; decide +kernel

theorem witness_MemoryStaysCanonical : Tidy demo ∧ (match step { demo with cur := none } with | .next _ => true | _ => false) = true :=
  ⟨demo_tidy.1, by decide +kernel⟩

theorem witness_RegistersStayCanonical : Listed demo ∧ (match step { demo with cur := none } with | .next _ => true | _ => false) = true :=
  ⟨demo_listed, by decide +kernel⟩

theorem witness_WrittenBytesAreRead : Memory.wf demo.mem = true ∧ 7 < 8 := by decide +kernel

theorem witness_HomeWritesChangeTheirBytes : Coherent demo ∧ 120 % 128 + 8 ≤ 128 ∧ 7 < 8 := ⟨demo_tidy, by decide⟩

/-- The clock has come to 100. -/
def later (s : State) : State := { s with domains := List.replicate 8 { Domain.start with clock := 100 } }

theorem witness_FixedLatencyCompletes :
    ([Instr.iadd bare ⟨.i32, false, .v 1, .reg (.v 0), .i10 1⟩, .flags bare (.v 1), .flagsSet bare ⟨.v 1, .v 0⟩, .flagsClr bare ⟨.v 1, .v 0⟩,
      .gset bare ⟨15, ⟨7, false⟩⟩, .gclr bare 15].all fun i => let s := later (after i demo)
        s.ops.any fun o => s.findOp o.id == some o && (s.findGroup o.gid).any fun g => o.due.any fun d => d ≤ s.now g) = true ∧
    ([[], [3]].all fun v =>
      let s := later (flight (.fadd bare ⟨.f32, .rn, false, 0, 0, .v 8, .reg (.v 0), .reg (.v 1)⟩) (fun o => { o with due := some 4, vals := v }) demo)
      s.ops.any fun o => s.findOp o.id == some o && (s.findGroup o.gid).any fun g =>
        (o.due.any fun d => d ≤ s.now g) && Instr.isShadowed o.instr && o.vals == v) = true := by decide +kernel

/-- No warp of the operation's drains, and no halt of its context is due. -/
def calm (s : State) (o : Op) (g : Group) : Bool :=
  ((o.wid :: o.owners).all fun k => (g.findWarp k).all fun w => match w.halt with
    | .draining _ _ _ => false
    | _ => true) && (s.findCtx (s.ctxOf g)).all fun c => !c.haltDue

theorem quiet_of {s : State} {o : Op} {g : Group} (x : calm s o g = true) : Quiet s o g := by
  simp only [calm, Bool.and_eq_true] at x
  refine ⟨fun k hk w hw c p l hl => ?_, fun c hc => ?_⟩
  · have := List.all_eq_true.1 x.1 k hk
    simp [hw, hl] at this
  · simpa [hc] using x.2

/-- A completion that writes the last v register under flag 12. -/
def demoNot : State := after (.not { bare with setf := 12 } ⟨.b32, false, .v 639, .reg (.v 0)⟩) demo

theorem witness_CompletionWritesRegisters : Listed demoNot ∧ (demoNot.ops.any fun o => (demoNot.findGroup o.gid).any fun g => calm demoNot o g) = true :=
  ⟨by unfold Listed Rising; decide +kernel, by decide +kernel⟩

/-- A function on a core, and on a stack core. -/
theorem witness_FixedLatencyIssueFrame : ([Instr.not bare ⟨.b32, false, .v 639, .reg (.v 0)⟩, .frcp bare ⟨.rn, false, .v 1, .reg (.v 0)⟩,
      .fsin bare ⟨.rn, false, .v 1, .reg (.v 0)⟩].all fun i => goes i demo) = true ∧
    ((demo.env Guard.always).any fun e => !e.g.onStack) = true ∧
    ((demoNearMemory.env Guard.always).any fun e => e.g.onStack && !e.act.isEmpty) = true := by decide +kernel

/-- A pair in v4 that names the next slot, with tag f32. -/
def demoTagged : State := demoWith fun g =>
  { lanesWith 4 8 g with lanes := (lanesWith 4 8 g).lanes.map fun l => { l with v := NMap.put (0, 0) l.v 4 (8, 6) } }

/-- BRA to the target in the next slot, BRX to the same; both to the slot after that, which is no target; BRX by a pair with tag f32. -/
theorem witness_BranchesGoToTheirTargets :
    (∃ e, Acts demo bare e ∧ (demo.fetchTargets e.g targetOk (branchTargets e 1)).2 = []) ∧
    (∃ e, Acts (demoWith (lanesWith 4 8)) bare e ∧
      (e.g.codesFault ([] ++ [Arg.v .i64 4].flatMap Arg.codes) = none ∧ badTags [Arg.v .i64 4] ((demoWith (lanesWith 4 8)).rows e [Arg.v .i64 4] [[]]) = [] ∧
      (demoWith (lanesWith 4 8)).popArgs e [Arg.v .i64 4] = (demoWith (lanesWith 4 8), [[]]) ∧
      (∀ l ∈ e.act, ((demoWith (lanesWith 4 8)).readReg e.g true 0 l (.v 4)).haz = false) ∧
      ((demoWith (lanesWith 4 8)).fetchTargets e.g targetOk (e.act.map fun l => (l, ((demoWith (lanesWith 4 8)).readReg e.g true 0 l (.v 4)).val))).2 = [])) ∧
    (∃ e, Acts demo bare e ∧ ((demo.fetchTargets e.g targetOk (branchTargets e 2)).2 = e.act.map fun l => (l, 0x2107, 0))) ∧
    (∃ e, Acts (demoWith (lanesWith 4 16)) bare e ∧ (e.g.codesFault [4, 5] = none ∧
      (∀ l ∈ e.act, ((demoWith (lanesWith 4 16)).readReg e.g true 0 l (.v 4)).haz = false) ∧
      wrongTargets ((demoWith (lanesWith 4 16)).fetchTargets e.g targetOk
        (e.act.map fun l => (l, ((demoWith (lanesWith 4 16)).readReg e.g true 0 l (.v 4)).val))).2 = e.act)) ∧
    (∃ e, Acts demoTagged bare e ∧ (e.g.codesFault [4, 5] = none ∧ (∀ l ∈ e.act, (demoTagged.readReg e.g true 0 l (.v 4)).haz = false) ∧
      wrongTargets (demoTagged.fetchTargets e.g targetOk (e.act.map fun l => (l, (demoTagged.readReg e.g true 0 l (.v 4)).val))).2 = [] ∧
      ∀ l ∈ e.act, (demoTagged.readReg e.g true 0 l (.v 4)).tag = 6)) :=
  ⟨acts_of (by decide +kernel), acts_of (by decide +kernel), acts_of (by decide +kernel), acts_of (by decide +kernel), acts_of (by decide +kernel)⟩

/-- One frame deep, with private memory on a page of host memory. -/
def demoCalled : State :=
  { demoWith (fun g => { g with lanes := g.lanes.map fun l => { l with depth := 1 } }) with
    takes := demo.takes.map fun (t : Take) => ({ t with slate := { t.slate with privBase := hostVa } } : Take) }

/-- A branch to the target in the next slot with room for one frame; the return from it. -/
theorem witness_CallsAndReturns :
    (∃ e, Acts demo bare e ∧ (demo.fetchTargets e.g targetOk (branchTargets e 1)).2 = [] ∧
      ((∀ l ∈ e.act, 16 * ((e.g.lane l).depth + 1) ≤ (demo.fetchTargets e.g targetOk (branchTargets e 1)).1.privSize e.g) ∧
        ((demo.fetchTargets e.g targetOk (branchTargets e 1)).1.frames e .write (fun l => (e.g.lane l).depth) e.act).2.2 = [])) ∧
    (∃ e, Acts demoCalled bare e ∧ (∀ l ∈ e.act, (e.g.lane l).depth ≠ 0) ∧
      (let r := demoCalled.frames e .read (fun l => (e.g.lane l).depth - 1) e.act
       let fs := r.1.readFrames e r.2.1
       r.2.2 = [] ∧ (∀ f ∈ fs.2, f.2.2 = none) ∧
         (fs.1.fetchTargets e.g Line.wellFormed (fs.2.map fun f => (f.1, slice f.2.1 0 64))).2 = [])) :=
  ⟨acts_of (by decide +kernel), acts_of (by decide +kernel)⟩

/-- A LOOP of 2 whose exit lies in the next slot, and the ENDL after it. -/
def demoLoop : State := after (.loop bare ⟨.i32 2, 1⟩) demo

theorem witness_LoopsCount :
    (∃ e t qs, Reads demo bare e [] [loopArg ⟨.i32 0, 1⟩] t qs ∧ (e.iss.script = false ∧
      (demo.fetchTargets e.g loopTargetOk [(0, branchTarget e.iss.pc.toNat 1)]).2 = [])) ∧
    (∃ e, Acts demoLoop bare e ∧ e.iss.script = false ∧ (∀ l ∈ e.act, (e.g.lane l).loops ≠ []) ∧
      (demoLoop.fetchTargets e.g loopTargetOk (e.act.map fun l => (l, branchTarget e.iss.pc.toNat 0))).2 = []) ∧
    ((demo.env ⟨⟨7, true⟩, ⟨7, false⟩, false⟩).any fun e => e.act.isEmpty && e.lost.isEmpty) = true :=
  ⟨reads_of (by decide +kernel), acts_of (by decide +kernel), by decide +kernel⟩

/-- A warp of eight lanes of a group that allows one cut. -/
def demoWide : State := demoWith fun g =>
  { g with lanes := g.lanes ++ g.lanes, cut := 1, full := false, warps := g.warps.map fun w => { w with width := 8 } }

theorem witness_LanesStopAndYield :
    (∃ e t qs, Reads demo bare e [] [Arg.reg .i64 (.s 382)] t qs ∧ e.g.full = true) ∧
    (∃ e, Acts demoWide bare e ∧ e.g.full = false ∧ e.w.links.length < e.g.cut ∧ 4 < e.w.width ∧ e.g.codesFault [639] = none) ∧
    (demo.cur.any fun i => (demo.findGroup i.gid).isSome) = true := ⟨reads_of (by decide +kernel), acts_of (by decide +kernel), by decide +kernel⟩

/-- The context is being debugged, or not. -/
def demoDebug : State := { demo with ctxs := demo.ctxs.map fun c => { c with debug := true } }

theorem witness_TrapsStopTheWarp :
    (∃ e, Acts demo bare e ∧ ((demo.findCtx (demo.ctxOf e.g)).any fun c => c.debug) = false) ∧
    (∃ e, Acts demoDebug bare e ∧ ((demoDebug.findCtx (demoDebug.ctxOf e.g)).any fun c => c.debug) = true) :=
  ⟨acts_of (by decide +kernel), acts_of (by decide +kernel)⟩

/-- A warp that drains, in a context with a ring of two records. -/
def demoDrain : State :=
  { demoWith (fun g => { g with warps := g.warps.map fun w => { w with halt := .draining 0x4001 0 15 } }) with
    ctxs := demo.ctxs.map fun c => { c with trapring := BitVec.ofNat 64 (2 ^ 52) } }

theorem witness_StopsAreRecorded : (demoDrain.groups.any fun g => demoDrain.findGroup g.gid == some g && g.warps.any fun w =>
    g.findWarp w.wid == some w && w.halt == .draining 0x4001 0 15 && w.clear && demoDrain.warpSettled g.gid w.wid && (demoDrain.findCtx (demoDrain.ctxOf g)).any Ctx.ringValid) = true := by
  decide +kernel

theorem witness_ProgramErrorsEndTheTake : (demo.groups.any fun g => demo.findGroup g.gid == some g &&
    (demo.findTake g.take).any fun t => t.hwErr.isNone && t.err.isNone) = true ∧
    ((demo.takes.map fun (t : Take) => ({ t with hwErr := some (0x3101, 0, 0) } : Take)).any fun t => t.hwErr.isSome) = true := by decide +kernel

/-- Every lane within four loops. -/
def demoLoops : State := demoWith fun g => { g with lanes := g.lanes.map fun l => { l with loops := [1, 2, 3, 4] } }

/-- Registers within the allotment that hold a tag the type refuses; no target; no room for a frame; a fifth loop; no frame; no loop; no cut; misaligned and out of range. -/
theorem witness_ProgramErrorsStopInstructions :
    (∃ e, Acts (demoWith fun g => { g with allot := { g.allot with v := 8 } }) bare e ∧
      e.g.codesFault (regCodes false (.v 8) ++ [Arg.of .i32 (.reg (.v 0)), Arg.of .i32 (.reg (.v 1))].flatMap Arg.codes) = some 0x2110) ∧
    (∃ e, Acts (demoWith fun g => { g with lanes := g.lanes.map fun l => { l with v := [(0, (1, 6))] } }) bare e ∧
      badTags [Arg.of .i32 (.reg (.v 0)), Arg.of .i32 (.reg (.v 1))] ((demoWith fun g => { g with lanes := g.lanes.map fun l => { l with v := [(0, (1, 6))] } }).rows
        e [Arg.of .i32 (.reg (.v 0)), Arg.of .i32 (.reg (.v 1))] []) ≠ []) ∧
    (∃ e, Acts demo bare e ∧ (demo.fetchTargets e.g targetOk (branchTargets e 2)).2 = e.act.map (fun l => (l, 0x2107, 0)) ∧
      e.frameless = e.act ∧ e.iss.script = false ∧ e.loopless = e.act ∧ e.g.cut ≤ e.w.links.length) ∧
    (∃ e, Acts demo bare e ∧ (demo.fetchTargets e.g targetOk (branchTargets e 1)).2 = [] ∧
      (e.act.filter fun l => (demo.fetchTargets e.g targetOk (branchTargets e 1)).1.privSize e.g < 16 * ((e.g.lane l).depth + 1)) = [] ∧
      (let d := demoWith fun g => { g with lanes := g.lanes.map fun l => { l with depth := 2 ^ 20 } }
       (d.env Guard.always).any fun e => !(e.act.filter fun l => (d.fetchTargets e.g targetOk (branchTargets e 1)).1.privSize e.g <
         16 * ((e.g.lane l).depth + 1)).isEmpty) = true) ∧
    (∃ e t qs, Reads demoLoops bare e [] [loopArg ⟨.i32 2, 1⟩] t qs ∧ (e.iss.script = false ∧ (∀ l ∈ e.act, (e.g.lane l).loops.length = 4) ∧
      ∀ r ∈ demoLoops.rows e [loopArg ⟨.i32 2, 1⟩] [[]], r.haz = false ∧ r.fst = 2)) ∧
    (∃ e t qs, Reads (demoWith (lanesWith 2 2)) bare e [] (addrArgs true (.reg (.v 2)) (.i10 0) ++ dataArgs .i32 0 false (.reg (.v 0))) t qs ∧
      (∀ r ∈ (demoWith (lanesWith 2 2)).rows e (addrArgs true (.reg (.v 2)) (.i10 0) ++ dataArgs .i32 0 false (.reg (.v 0))) [[], [], []],
        r.haz = false ∧ (demoWith (lanesWith 2 2)).addrFault e.g .global false 4 (rowAddr true r) = some 0x2144)) ∧
    (∃ e, Acts demo bare e ∧ demo.addrFault e.g .global true 12 (2 ^ 52 - 10) = some 0x2144 ∧ demo.addrFault e.g .global true 12 (2 ^ 52) = some 0x2142 ∧
      demo.addrFault e.g .global false 16 (2 ^ 52 - 16) = none ∧ demo.addrFault e.g .global true 12 (2 ^ 52 - 4) = some 0x2142 ∧
      demo.addrFault e.g .priv false 4 4094 = some 0x2143) :=
  ⟨acts_of (by decide +kernel), acts_of (by decide +kernel), acts_of (by decide +kernel), acts_of (by decide +kernel), reads_of (by decide +kernel),
    reads_of (by decide +kernel), acts_of (by decide +kernel)⟩

/-- Addresses at the last aligned place of global and of private memory that can be located, and of a bank. -/
theorem witness_LaneAccessesIssue :
    (∃ e t qs, Reads (demoWith (lanesWith 2 0x7FFFFF0)) bare e [4, 5, 6, 7] (addrArgs true (.reg (.v 2)) (.i10 0)) t qs ∧
      (∀ l ∈ e.act, demo.addrFault e.g .global false 16 0x7FFFFF0 = none ∧
        ((demoWith (lanesWith 2 0x7FFFFF0)).locLane e.g .global .read l 0x7FFFFF0 (memUnits false 16)).2.2.1 = none)) ∧
    (∃ e t qs, Reads (demoWith (lanesWith 2 4092)) bare e [] (addrArgs false (.reg (.v 2)) (.i10 0) ++ dataArgs .i32 0 false (.reg (.v 0))) t qs ∧
      (∀ l ∈ e.act, (demo.addrFault e.g .priv false 4 4092 = none ∧ demo.addrFault e.g .scratch false 4 4092 = none) ∧
        ((demoWith (lanesWith 2 4092)).locLane e.g .scratch .write l 4092 (memUnits false 4)).2.2.1 = none)) :=
  ⟨reads_of (by decide +kernel), reads_of (by decide +kernel)⟩

/-- The families whose completions are alike, each with an instruction in flight. -/
theorem witness_LongLatencyCompletes :
    ([Instr.ld bare ⟨.i32, 0, false, .plain, 0, .v 1, .reg (.v 2), .i10 0⟩, .lds bare ⟨.i32, 0, false, .plain, 0, .v 1, .reg (.v 2), .i10 0⟩,
      .ldu bare ⟨.i32, 0, false, .plain, 0, .v 1, .reg (.s 2), .i10 0⟩, .ldt bare ⟨0, 0, 1, 2, 4⟩,
      .st bare ⟨.i32, 0, false, .plain, 0, .reg (.v 2), .i10 0, .reg (.v 1)⟩, .sts bare ⟨.i32, 0, false, .plain, 0, .reg (.v 2), .i10 0, .reg (.v 1)⟩,
      .stt bare ⟨0, 0, 2, 4, 1⟩, .atom bare ⟨.add, .i32, .none, 0, .v 1, .reg (.v 2), .i10 0, .reg (.v 4), none⟩,
      .atoms bare ⟨.add, .i32, .none, 0, .v 1, .reg (.v 2), .i10 0, .reg (.v 4), none⟩, .red bare ⟨.add, .i32, .none, 0, .reg (.v 2), .i10 0, .reg (.v 4), none⟩,
      .bwinit bare ⟨.global 2, 0, .i10 1⟩, .bwarr bare ⟨false, .global 2, 0, .v 1, .i10 1⟩, .errack bare ⟨.global 2, 0, .v 1⟩,
      .semsig bare ⟨0, 2, .i10 1⟩, .l2clean bare ⟨2, .i10 1⟩, .l2inv bare ⟨2, .i10 1⟩, .l2flush bare ⟨2, .i10 1⟩, .bmode bare ⟨.fifo, 3⟩, .release bare 0,
      .barArr bare 0, .bartArr bare 0, .mfence bare, .kvxlate bare ⟨0, 0, 2, 3, 4, 5, 0⟩, .acquire bare 0, .fence bare 0, .trigger bare, .tflag bare 0,
      .mzero bare 15, .mload bare ⟨.bf16, 0, 2⟩, .mout bare ⟨.bf16, .rn, false, 2, 0⟩, .sysrd bare ⟨0, 2, 0⟩, .tret bare ⟨0, 2⟩, .resume bare ⟨0, 2⟩,
      .tlbinvAll bare 2, .tlbinvVa bare ⟨0, 2, 4⟩, .snapmark bare ⟨0, 2, 4⟩, .halt bare ⟨0, 2⟩, .haltKill bare ⟨0, 2⟩, .syswr bare ⟨0, 0, 2⟩].all fun i =>
      ends (flight i id demo) fun o _ => !(flight i id demo).bankGone o) = true ∧
    (let s := after (.lds bare ⟨.i32, 0, false, .plain, 0, .v 1, .i10 4, .i10 0⟩) demo
     let s := { s with groups := s.groups.map fun g => { g with banks := g.banks.map fun (k : Bank) => ({ k with mode := .fifo } : Bank) } }
     ends s fun o _ => s.bankGone o) = true := by decide +kernel

/-- A slate with 64 bytes of constants at 0. -/
def demoConst : State :=
  { demoWith (sWith 0 [60]) with takes := demo.takes.map fun (t : Take) => ({ t with slate := { t.slate with constSize := 64 } } : Take) }

/-- The last word of the constants; a prefetch; the last byte of the address space; the last bank; the last word of the scratchpad. -/
theorem witness_OtherMemoryFormsIssue :
    (∃ e, Acts demoConst bare e ∧ (e.g.codesFault (runCodes (.v 1) 1 ++ (addrArgs false (.reg (.s 0)) (.i10 0)).flatMap Arg.codes) = none ∧
      (demoConst.takeOf e.g).any (fun t => decide (60 + 4 ≤ t.slate.constSize)) = true ∧ (demoConst.uni e .z32 (.reg (.s 0))).haz = false ∧
      (demoConst.uni e .i32 (.i10 0)).haz = false ∧ wrap 32 ((demoConst.uni e .z32 (.reg (.s 0))).val + signed 32 (demoConst.uni e .i32 (.i10 0)).val) = 60 ∧
      (demoConst.locLane e.g .global .read e.low 60 (memUnits false 4)).2.2.1 = none ∧
      (demoConst.locLane e.g .global .read e.low 60 (memUnits false 4)).2.2.2 = false)) ∧
    (∃ e, Acts demo bare e ∧ e.g.codesFault ([Arg.reg .i64 (.v 2), Arg.of .i32 (.i10 0)].flatMap Arg.codes) = none) ∧
    (∃ e, Acts (demoWith (pairs [2 ^ 52 - 1])) bare e ∧ e.g.onStack = false ∧ e.g.codesFault ([640, 641] ++ (Arg.of .z32 (.i10 1)).codes) = none ∧
      (demoWith (pairs [2 ^ 52 - 1])).uniS e true 0 < 2 ^ 52) ∧
    (∃ e, Acts demo bare e ∧ e.g.onStack = false ∧ 3 < e.g.banks.length) ∧
    (∃ e t qs, Reads (demoWith (lanesWith 2 32764)) bare e [] (addrArgs false (.reg (.v 2)) (.i10 0)) t qs ∧
      ∀ r ∈ (demoWith (lanesWith 2 32764)).rows e (addrArgs false (.reg (.v 2)) (.i10 0)) [[], []],
        (match (demoWith (lanesWith 2 32764)).scratchLoc e.g (rowAddr false r) with
          | .ok _ => true
          | _ => false) = true) :=
  ⟨acts_of (by decide +kernel), acts_of (by decide +kernel), acts_of (by decide +kernel), acts_of (by decide +kernel), reads_of (by decide +kernel)⟩

/-- A descriptor of rank 2 (z32 elements, 3 by 2 of them) in host memory, its data after it, and the last coordinate that is in bounds. -/
def demoTensor : State :=
  withHost 0 64 (hostVa + 64 + 2 ^ 64 * 2 + 2 ^ 68 * 2 + 2 ^ 71 * 2 + 2 ^ 128 * 3 + 2 ^ 160 * 2 + 2 ^ 288 * 12)
    (demoWith fun g => lanesWith 4 2 (lanesWith 5 1 (sWith 0 [hostVa, 0] g)))

theorem witness_TensorAccessesIssue : ∃ e, Acts demoTensor bare e ∧
    (e.g.codesFault ([1] ++ [640, 641, 4] ++ []) = none ∧ demoTensor.uniS e true 0 = hostVa ∧
    (match (demoTensor.readDesc e hostVa).2 with
      | .ok w =>
        let d := (demoTensor.readDesc e hostVa).1
        let args := (List.range (descRank w)).map (fun j => Arg.v .i32 (4 + j)) ++ ([] : List Nat).map fun r => Arg.any .b32 (.reg (.v r))
        let rows := (d.readRows e args).2
        descFault w == none && 4 * 1 / descSize w != 0 && decide (4 + descRank w ≤ e.g.allot.v) && (badTags args rows).isEmpty &&
          rows.all (fun r => (r.2.drop (descRank w)).isEmpty) &&
          rows.all (fun r => laneElems w (rowCoord r (descRank w)) 1 == [(0, some (hostVa + 64 + 8 + 12))]) &&
          (d.locLane e.g .global .read 0 0 [(hostVa + 64 + 8 + 12, 4)]).2.2.1.isNone
      | .error _ => false) = true) := acts_of (by decide +kernel)

theorem witness_ElementsInBounds :
    laneElems (hostVa + 64 + 2 ^ 64 * 2 + 2 ^ 68 * 2 + 2 ^ 71 * 2 + 2 ^ 128 * 3 + 2 ^ 160 * 2 + 2 ^ 288 * 12) [2, 1] 1 = [(0, some (hostVa + 64 + 20))] := by
  decide +kernel

theorem witness_AtomicsCompute : Ty.isInt .i64 = true ∧ 2 ^ 64 - 1 < 2 ^ Ty.bits .i64 ∧ 2 ^ 32 - 1 < 2 ^ Ty.bits .b32 ∧ 1 < Ty.count .bf16 ∧
    (fp32.value 0x7FC00000).isNan = true ∧ (fp32.value 0x7F800000).badSum (fp32.value 0xFF800000) = true ∧
    (fp32.value 0).badSum (fp32.value 0x7F7FFFFF) = false := by decide +kernel

/-- Stores of the last bytes of a line, at addresses of an ordinary page and of the scratchpad. -/
def demoStored (i : Instr) : State := after i (demoWith (lanesWith 2 120))

/-- Canonical memory behind an empty L2, and an operation whose warp and context wait for nothing. -/
def tidyEnd (s : State) : Bool :=
  Memory.wf s.mem && s.l2.isEmpty && ends s fun o g => calm s o g && o.units.all fun u => match u.loc with
    | .mem a _ => decide (a % 128 + u.n ≤ 128)
    | _ => true

theorem ending_calm {s : State} (x : tidyEnd s = true) : Coherent s ∧ ∃ o g, Ending s o g ∧ Quiet s o g ∧
    ∀ u ∈ o.units, ∀ a p, u.loc = .mem a p → a % 128 + u.n ≤ 128 := by
  simp only [tidyEnd, Bool.and_eq_true] at x
  obtain ⟨⟨hm, hl⟩, he⟩ := x
  refine ⟨tidy_of hm (List.isEmpty_iff.1 hl), ?_⟩
  obtain ⟨o, g, h, hp⟩ := ending_of (P := fun o g => (calm s o g && o.units.all fun u => match u.loc with
    | .mem a _ => decide (a % 128 + u.n ≤ 128)
    | _ => true) = true) (by simpa only [Bool.decide_eq_true] using he)
  rw [Bool.and_eq_true, List.all_eq_true] at hp
  refine ⟨o, g, h, quiet_of hp.1, fun u hu a p hl => ?_⟩
  simpa [hl] using hp.2 u hu

theorem witness_StoresChangeOnlyTheirBytes :
    tidyEnd (demoStored (.st bare ⟨.i64, 0, false, .plain, 0, .reg (.v 2), .i10 0, .reg (.v 4)⟩)) = true ∧
    tidyEnd (demoStored (.sts bare ⟨.i32, 0, false, .plain, 0, .reg (.v 2), .i10 4, .reg (.v 4)⟩)) = true := by decide +kernel

/-- A load from the scratchpad meets no poison, whatever path its reads take. -/
def demoLoaded : State := demoStored (.lds bare ⟨.i32, 0, false, .plain, 0, .v 1, .reg (.v 2), .i10 0⟩)

theorem witness_LoadsChangeNoMemory : tidyEnd demoLoaded = true ∧ Listed demoLoaded ∧
    ∀ v, (demoLoaded.ops.map fun o => (demoLoaded.readAccs v (fun _ => false) o.accs).2.2) = [none] :=
  ⟨by decide +kernel, by unfold Listed Rising; decide +kernel, fun _ => rfl⟩

/-- A block copy of 16 bytes to the last 16 of a bank, and a lane copy of 16 bytes a lane. -/
def demoCopy : State := demoWith fun g => lanesWith 2 16 (sWith 4 [32752] (sWith 0 [0x7FFFFF0, 0] g))

theorem witness_CopiesIssue :
    (∃ e, Acts demoCopy bare e ∧ (e.w.errSlots = none ∧ e.g.codesFault ([640 + 4, 640 + 0, 641 + 0] ++ (Arg.of .z32 (.i10 16)).codes ++ [640 + 0, 641 + 0]) = none ∧
      demoCopy.uniS e true 0 % 8 = 0 ∧ demoCopy.uniS e true 0 = 0x7FFFFF0 ∧ demoCopy.uniS e false 4 = 32752 ∧ (demoCopy.uni e .z32 (.i10 16)).val = 16 ∧
      (demoCopy.copyAccs e.g [(e.low, [0, 0x7FFFFF0, 32752, 16])]).1 = [] ∧ e.g.onStack = false)) ∧
    (∃ e, Acts demoCopy bare e ∧ (badTags [Arg.reg .z32 (.v 2), Arg.reg .i64 (.s 0)] (demoCopy.rows e [Arg.reg .z32 (.v 2), Arg.reg .i64 (.s 0)] []) = [] ∧
      (demoCopy.rows e [Arg.reg .z32 (.v 2), Arg.reg .i64 (.s 0)] []).map (fun r => r.2.map Opnd.val) = List.replicate 4 [16, 0x7FFFFF0] ∧
      (demoCopy.copyAccs e.g ((demoCopy.rows e [Arg.reg .z32 (.v 2), Arg.reg .i64 (.s 0)] []).map fun r =>
        (r.1, [0, (r.2.getD 1 default).val, (r.2.getD 0 default).val, 16]))).1 = [])) ∧
    16 % 16 = 0 ∧ 32752 + 16 ≤ 32768 :=
  ⟨acts_of (by decide +kernel), acts_of (by decide +kernel), by decide, by decide⟩

theorem witness_CopyLinesLand : (let s := after (.cpa bare ⟨0, none, 4, 0, .i10 16⟩) demoCopy
    s.ops.any fun o => s.findOp o.id == some o && (s.findGroup o.gid).isSome && o.dsts.any fun a => a.units.any fun u => o.canLand (lineKey u.loc)) = true := by
  decide +kernel

/-- A word of count 2^24 - 1 with one arrival left; its phase flips at the last. -/
theorem witness_ArrivalsCount : bwArrive (2 ^ 24 - 1 + 2 ^ 24) 1 0 = (2 ^ 24 - 1) + 2 ^ 24 * (2 ^ 24 - 1) + 2 ^ 48 ∧
    bwArrive 3 1 0x2152 % 2 ^ 24 = 3 ∧ 2 ^ 64 - 1 < 2 ^ 64 ∧ 2 ^ 14 - 1 < 2 ^ 14 := by decide +kernel

/-- Words in memory that are translated already, and in the scratchpad; the counts at their ends. -/
def demoWord : State :=
  let s := demoWith (sWith 0 [0x10000, 0, 32760])
  { s with tlb := (after (.bwinit bare ⟨.global 0, 0, .i10 1⟩) s).tlb }

theorem witness_WordOperationsIssue :
    (∃ e, Acts demoWord bare e ∧ (e.g.codesFault ([1] ++ WordRef.codes (.global 0) ++ (Arg.of .z32 (.i32 16777215)).codes) = none ∧
      (demoWord.uni e .z32 (.i32 16777215)).val = 2 ^ 24 - 1 ∧ demoWord.addrFault e.g .global false 8 (demoWord.wordAddr e (.global 0)) = none ∧
      (demoWord.locLane e.g .global .write e.low (demoWord.wordAddr e (.global 0)) [(0, 8)]).2.2.1 = none)) ∧
    (∃ e, Acts demoWord bare e ∧ (e.g.codesFault (WordRef.codes (.scratch 2) ++ (Arg.of .z32 (.i10 1)).codes) = none ∧
      demoWord.wordAddr e (.scratch 2) = 32760 ∧ demoWord.addrFault e.g .scratch false 8 (demoWord.wordAddr e (.scratch 2)) = none ∧
      (demoWord.locLane e.g .scratch .read e.low (demoWord.wordAddr e (.scratch 2)) [(0, 8)]).2.2.1 = none)) :=
  ⟨acts_of (by decide +kernel), acts_of (by decide +kernel)⟩

/-- Nobody has arrived; a slate with the last range of its flag table. -/
def demoFlags : State :=
  { demo with takes := demo.takes.map fun (t : Take) => ({ t with slate := { t.slate with flags := List.replicate 1024 (0, 0) } } : Take) }

theorem witness_FencesAndBarriersIssue :
    (∃ e, Acts demo bare e ∧ (∀ l ∈ e.act, (e.g.gid, l) ∉ (demo.getBar e.g false 15).arrived) ∧ ∀ l ∈ e.act, (e.g.gid, l) ∉ (demo.getBar e.g true 3).arrived) ∧
    (∃ e, Acts demoFlags bare e ∧ (demoFlags.takeOf e.g).any (fun t => t.slate.flags[1023]?.isSome) = true) := ⟨acts_of (by decide +kernel), acts_of (by decide +kernel)⟩

theorem witness_BarriersComplete :
    (let s := after (.bar bare 15) demo
     s.groups.any fun g => s.findGroup g.gid == some g && s.barDone g false 15) = true ∧
    (let s := after (.bart bare 3) demo
     s.groups.any fun g => s.findGroup g.gid == some g && s.barDone g true 3) = true := by decide +kernel

/-- Waits on a word of the scratchpad, and on a semaphore whose page is translated already; one phase or count under, and at, their bounds. -/
def demoBwwait : State := after (.bwwait bare ⟨.scratch 2, 0, 0, .i10 1⟩) demoWord
def demoSemwait : State := after (.semwait bare ⟨0, .v 1, 0, .i10 0⟩) { demoWord with
  tlb := (after (.semsig bare ⟨0, 0, .i10 1⟩) demoWord).tlb }

theorem witness_WaitsTestTheirWords :
    (demoBwwait.ops.any fun o => demoBwwait.findOp o.id == some o && (demoBwwait.findGroup o.gid).any fun g => (g.findWarp o.wid).isSome &&
      demoBwwait.mayTest o && !o.lhaz (o.lanes.headD 0) && match demoBwwait.locUnit g .scratch .read (o.lanes.headD 0) (o.vals.getD 1 0) 8 with
        | (t, .ok (some u)) => t == demoBwwait && t.presentUnit u && !(t.atomRead g.agent (t.ctxOf g) 0 u).2.2.2.2
        | _ => false) = true ∧
    (demoSemwait.ops.any fun o => demoSemwait.findOp o.id == some o && (demoSemwait.findGroup o.gid).any fun g => (g.findWarp o.wid).isSome &&
      demoSemwait.mayTest o && match demoSemwait.locUnit g .global .write (o.lanes.headD 0) (o.vals.getD 1 0) 4 with
        | (t, .ok (some u)) => t == demoSemwait && t.presentUnit u && !(t.atomRead g.agent (t.ctxOf g) 0 u).2.2.2.2
        | _ => false) = true := by decide +kernel

theorem witness_HeldAccessesResume :
    (let s := flight (.ld bare ⟨.i32, 0, false, .plain, 0, .v 1, .reg (.v 2), .i10 0⟩) (fun o => { o with at_ := .held }) demo
     s.ops.any fun o => s.findOp o.id == some o && (s.findGroup o.gid).any Group.inPlace && o.at_ == .held && o.status == 0 && !Instr.isWait o.instr &&
       o.units.all s.presentUnit && (s.heldAfter o).isEmpty) = true ∧
    (let s := flight (.ld bare ⟨.i32, 0, false, .plain, 0, .v 1, .reg (.v 2), .i10 0⟩) (fun o => { o with at_ := .held, status := 1 }) demo
     s.ops.any fun o => s.findOp o.id == some o && (s.findGroup o.gid).any Group.inPlace && o.at_ == .held && o.status == 1) = true := by decide +kernel

/-- The context of the demo without its privilege. -/
def demoUser : State := { demo with ctxs := demo.ctxs.map fun c => { c with priv := false } }

/-- The context of the demo with device privilege. -/
def demoDevice : State := { demo with ctxs := demo.ctxs.map fun c => { c with dpriv := true } }

theorem witness_SystemInstructionsIssue :
    (∃ e, Acts demoUser bare e ∧ demoUser.privileged e.g = false) ∧
    (∃ e, Acts demo bare e ∧ demo.privileged e.g = true ∧ e.g.codesFault ([640 + 2, 640 + 4, 641 + 4] ++ [640 + 6, 641 + 6]) = none ∧
      demo.sysFault e.g (.sysrd bare ⟨0, 2, 3⟩) [0] = none ∧ demo.sysFault e.g (.syswr bare ⟨2, 5, 4⟩) [0, 0] = none ∧
      demo.sysFault e.g (.tret bare ⟨0, 4⟩) [4096] = none ∧ demo.sysFault e.g (.tlbinvAll bare 2) [0] = none ∧
      demo.sysFault e.g (.snapmark bare ⟨2, 4, 6⟩) [0, 0, 1] = none ∧ demo.sysFault e.g (.halt bare ⟨0, 2⟩) [0] = none) ∧
    ((demo.env Guard.always).any fun e => (match demo.target e.g 0 with
      | .ok _ => true
      | _ => false) && !(demoUser.devicePrivileged e.g) && (demoDevice.env Guard.always).any fun e => demoDevice.devicePrivileged e.g) = true ∧
    regAccess (8 * (0x1000 - 0x1000)) ≠ .absent ∧ regAccess (8 * (0x1005 - 0x1000)) = .absent ∧
    (∃ e, Acts demo bare e ∧ demo.privileged e.g = true ∧ (demo.sysFault e.g (.sysrd bare ⟨0, 2, 0⟩) [4095]).isSome = true ∧
      (demo.sysFault e.g (.syswr bare ⟨0, 0, 2⟩) [4095, 0]).isSome = true ∧ (demo.sysFault e.g (.halt bare ⟨0, 2⟩) [4095]).isSome = true) :=
  ⟨acts_of (by decide +kernel), acts_of (by decide +kernel), by decide +kernel, by decide +kernel, by decide +kernel, acts_of (by decide +kernel)⟩

/-- A context with a stop of each kind. -/
def demoStops : State :=
  { demo with ctxs := demo.ctxs.map fun c => { c with stops := [⟨0, 7, .translation, 0, 4096⟩, ⟨0, 8, .trap, 0, 8192⟩] } }

theorem witness_StopsEnd : ((demoStops.findCtx (slice 4096 0 12)).any fun c =>
    c.findStop 4096 == some ⟨0, 7, .translation, 0, 4096⟩ && c.findStop 8192 == some ⟨0, 8, .trap, 0, 8192⟩ && c.findStop 12288 == none) = true ∧
    ((demoStops.findGroup 0).any fun g => (g.findWarp 0).isSome) = true ∧ (0 : Nat) ≠ haltGid ∧ slice 8192 0 12 = 0 := by decide +kernel

theorem witness_BadAddressesFault :
    (∃ e t qs, Reads (demoWith (lanesWith 2 2)) bare e [] (addrArgs true (.reg (.v 2)) (.i10 0) ++ dataArgs .i32 0 false (.reg (.v 0))) t qs ∧
      (((demoWith (lanesWith 2 2)).rows e (addrArgs true (.reg (.v 2)) (.i10 0) ++ dataArgs .i32 0 false (.reg (.v 0))) [[], [], []]).filterMap fun r =>
        ((demoWith (lanesWith 2 2)).addrFault e.g .global false 4 (rowAddr true r)).map fun c => (r.1, c, rowAddr true r)) =
          (0, 0x2144, 2) :: [(1, 0x2144, 2), (2, 0x2144, 2), (3, 0x2144, 2)]) ∧
    (2 ^ 52 - 2) + 2 ≤ 2 ^ 52 := ⟨reads_of (by decide +kernel), by decide⟩

/-- Every lane at a place. -/
def lanesAt (a : LaneAt) (g : Group) : Group := { g with lanes := g.lanes.map fun l => { l with at_ := a } }

/-- A slate whose full allotment has two tiles more. -/
def demoGrow : State :=
  { after (.grow bare) (demoWith fun g => { g with full := false, allot := ⟨64, 64, 2, 2, 2, 0⟩ }) with
    takes := demo.takes.map fun (t : Take) => ({ t with slate := { t.slate with pro := ⟨64, 64, 2, 2, 2, 0⟩, full := ⟨128, 64, 2, 2, 4, 0⟩ } } : Take) }

/-- Both halves of a warp stand at a splice of one tag. -/
def demoSplice : State :=
  let s := after (.wcut bare) { demoWide with cur := some ⟨0, 0, [0, 1, 2, 3, 4, 5, 6, 7], 0, 0, false⟩ }
  let s := after (.cut 0 0) s
  { s with groups := s.groups.map (lanesAt (.wsplice 5 1 0)) }

theorem witness_LanesAndWarpsGoOn :
    (demoGrow.groups.any fun g => demoGrow.findGroup 0 == some g && (demoGrow.takeOf g).isSome && demoGrow.grantable g) = true ∧
    (demoSplice.groups.any fun g => demoSplice.findGroup 0 == some g && g.warps.any fun w => g.findWarp w.wid == some w && g.arrived w) = true ∧
    (let s := demoWith (lanesAt .retired)
     s.groups.any fun g => s.findGroup 0 == some g && g.warps.any fun w => g.findWarp w.wid == some w && s.warpDone g w) = true ∧
    (let s := after (.warpRetire 0 0) (demoWith (lanesAt .retired))
     s.groups.any fun g => s.findGroup 0 == some g && s.groupDone g) = true := by decide +kernel

/-- A warp of eight lanes, all at a WCUT. -/
def demoCut : State := after (.wcut bare) { demoWide with cur := some ⟨0, 0, [0, 1, 2, 3, 4, 5, 6, 7], 0, 0, false⟩ }

theorem witness_CutsHalveTheWarp : (demoCut.groups.any fun g => demoCut.findGroup g.gid == some g && g.warps.any fun w =>
    g.findWarp w.wid == some w && g.cutReady w && !g.declared w.wid && w.width % 8 == 0) = true := by decide +kernel

/-- A take that has admitted none of its groups; one whose group has retired; one with an error; one whose data has met an error. -/
def demoOffer : State :=
  { demo with groups := [], takes := demo.takes.map fun (t : Take) => ({ t with nextGroup := 0, slate := { t.slate with width := 64 } } : Take) }
def demoDone (f : Take → Take) : State :=
  { demo with groups := [], takes := demo.takes.map fun (t : Take) => f { t with triggerDone := true } }

/-- A group that stops to be evicted, and one that is evicted. -/
def demoEvicting (p : Place) : State := demoWith fun g => { g with place := p, spans := if p = .evicted then [] else g.spans }

/-- Whether the densest placement gives a need room. -/
def dense (s : State) (agent : Nat) (d : Need) : Bool :=
  (s.placeBy agent d fun _ => 0).isSome

theorem placed {s : State} {agent : Nat} {d : Need} (h : dense s agent d = true) : (s.placeOn agent d).isSome = true := by
  simp only [dense] at h
  simp [State.placeOn, h]

/-- A new group has room where an open core can take it. -/
theorem room {s : State} {t : Take} (h : ((s.openCores (s.partOf t) t.tid (t.nextGroup / t.slate.team)).any fun c => dense s c t.need) = true) :
    (s.roomFor (.new t)).isSome = true := by
  obtain ⟨c, hc, h⟩ := List.any_eq_true.1 h
  simp only [State.roomFor]
  rw [List.findSome?_isSome_iff]
  exact ⟨c, hc, by simpa using placed h⟩

theorem witness_GroupsComeAndGo :
    (demoOffer.takes.any fun t => demoOffer.findTake t.tid == some t && demoOffer.offers t && demoOffer.nextPlaced (.new t) &&
      (demoOffer.openCores (demoOffer.partOf t) t.tid (t.nextGroup / t.slate.team)).any fun c => dense demoOffer c t.need) = true ∧
    (let s := demoWith fun g => { g with triggered := true }
     s.takes.any fun t => s.findTake t.tid == some t && s.triggers t) = true ∧
    ((demoDone id).takes.any fun t => (demoDone id).findTake t.tid == some t && (demoDone id).gridDone t && !t.tainted) = true ∧
    (let s := demoDone fun t => { t with sticky := true }
     s.takes.any fun t => s.findTake t.tid == some t && s.gridDone t && t.tainted) = true ∧
    (let s := demoEvicting (.evicting 0)
     s.groups.any fun g => s.findGroup 0 == some g && s.drained g && (s.takeOf g).all Take.going) = true ∧
    (let s := demoEvicting .evicted
     s.groups.any fun g => s.findGroup 0 == some g && (s.takeOf g).any fun t => t.going && s.nextPlaced (.old g t)) = true := by decide +kernel

theorem witness_AdmittedLanesStartClear : (demoOffer.takes.any fun t => decide (3 < t.slate.warps * t.slate.width)) = true := by decide +kernel

theorem witness_TakesEndAndStartAgain :
    (let s : State := { demo with takes := demo.takes.map fun (t : Take) => ({ t with err := some ⟨0x2101, 0, 0, [0], 0, 0, true⟩, hwErr := some (0x3101, 0, 0), copyDue := [5] } : Take) }
     s.takes.any fun t => s.findTake t.tid == some t && t.err.isSome && t.hwErr.isSome && t.copyDue.contains 5) = true ∧
    (let s : State := { demo with ctxs := demo.ctxs.map fun c => { c with
        trapring := BitVec.ofNat 64 (2 ^ 52 + hostVa), records := [⟨0x4001, 0, 0, 1, 0, 15, 0, 0, 0, 0, false, 4, 0, 0, none, false⟩] } }
     s.ctxs.any fun x => s.findCtx x.id == some x && x.ringValid && !x.ringFull &&
       match x.records with
        | [] => false
        | r :: _ => (s.cpWrite 0 x.recordAt 64 (r.bytes (r.handle x.head.toNat))).isSome) = true := by decide +kernel

/-- Queue 0 of command processor 0, enabled, with the entry `e` at its head in host memory. -/
def demoQueue (e : Nat) : State :=
  let s := withHost 0 32 e demo
  (((s.setReg (queueOff 0 0) (BitVec.ofNat 64 (hostVa + 2 ^ 52 * 4))).setReg (queueOff 0 0 + 8) (BitVec.ofNat 64 (2 ^ 14))).setReg
    (queueOff 0 0 + 0x10) 0).setReg (queueOff 0 0 + 0x18) 1

/-- Whether the head entry is taken up as one of operation `op`. -/
def takesUp (s : State) (op : Nat) (p : State → Entry → Bool) : Bool :=
  s.queueOpen 0 0 && decide (4 ≤ s.qlogn 0 0) && decide (s.qlogn 0 0 ≤ 16) && match s.headEntry 0 0 with
    | (u, .ok x) => (Entry.fault ⟨x⟩).isNone && Entry.op ⟨x⟩ == op && p u ⟨x⟩
    | _ => false

/-- A slate of one group of one warp of 64 lanes with 640 registers, 4 KiB up. -/
def demoLaunch : State :=
  let s := withHost 0x1000 256 (2 ^ 192 + 2 ^ 224 + 2 ^ 256 + 4 * 2 ^ 295 + 80 * 2 ^ 320 + 80 * 2 ^ 352) (demoQueue (1 + 2 ^ 64 * (hostVa + 0x1000)))
  { s with takes := [], groups := [], ctxs := s.ctxs.map fun c => { c with state := 0 } }

/-- A shape fits where the densest placement of one group does. -/
theorem fits {s : State} {p : Nat} {t : Slate} (h : (decide (2 ^ t.cut ≤ t.width / 4) &&
    dense { s with groups := [] } 0 (newNeed t.warps t.width t.cut true t.full) && t.team == 1 && s.clusterSize p != 0) = true) :
    s.slateFits p t = true := by
  simp only [Bool.and_eq_true, beq_iff_eq, bne_iff_ne] at h
  obtain ⟨⟨⟨h1, h2⟩, h3⟩, h4⟩ := h
  obtain ⟨x, hx⟩ := Option.isSome_iff_exists.1 (show (State.placeBy _ _ _ _).isSome = true from h2)
  simp only [State.slateFits, h1, h3, Bool.true_and, State.fitCount, hx, Bool.and_eq_true, decide_eq_true_eq]
  omega

theorem witness_QueueEntriesAct :
    takesUp demoLaunch 1 (fun u e => let b := u.begin_ 0 0 e
      e.ctx.isNone && (u.findCtx (u.qctx 0 0)).any (fun c => c.dpart == u.dpart 0 && c.state == 0) && !(u.queueRun 0 0).begun &&
      match (b.cpRead (u.qctx 0 0) e.a 256) with
        | (v, .ok x) => !slateBad x && (let t := v.readTables (u.qctx 0 0) x
          !(match t.2.map with
            | .ok m => m.bad none
            | .error _ => false) && (okList t.2.scopes).isEmpty && t.2.fails.isEmpty &&
          decide (2 ^ (slateOf x 3).cut ≤ (slateOf x 3).width / 4) && (slateOf x 3).team == 1 && t.1.clusterSize 0 != 0 &&
          dense { t.1 with groups := [] } 0 (newNeed (slateOf x 3).warps (slateOf x 3).width (slateOf x 3).cut true (slateOf x 3).full))
        | _ => false) = true ∧
    takesUp (demoQueue (2 + 2 ^ 32 + 2 ^ 64 * (hostVa + 0x2000))) 2 (fun u _ => !(u.queueRun 0 0).begun) = true ∧
    (let s := after (.queueSemwait 0 0) (demoQueue (2 + 2 ^ 32 + 2 ^ 64 * (hostVa + 0x2000)))
     takesUp { s with wlog := s.wlog.map fun x => (x.1, x.2 + 1), stamp := s.stamp + 1 } 2 (fun u _ => (u.queueRun 0 0).begun) = true) ∧
    takesUp (demoQueue (3 + 2 ^ 32 + 2 ^ 64 * (hostVa + 0x2000))) 3 (fun u e => u.earlierDone 0 0 && decide (e.a < 2 ^ 52) &&
      match u.translateFresh (u.qctx 0 0) e.a .write with
        | .ok t => !(u.cpAtomic (u.qctx 0 0) e.scope t (semAdd e.n)).2.2
        | _ => false) = true ∧
    takesUp (demoQueue (4 + 16 * 2 ^ 32 + 2 ^ 64 * (hostVa + 0x2000) + 2 ^ 128 * (hostVa + 0x3000))) 4
      (fun u _ => u.earlierDone 0 0 && !(u.queueRun 0 0).begun) = true ∧
    takesUp (after (.queueCopy 0 0) (demoQueue (4 + 16 * 2 ^ 32 + 2 ^ 64 * (hostVa + 0x2000) + 2 ^ 128 * (hostVa + 0x3000)))) 4
      (fun u e => (u.queueRun 0 0).begun && (u.copyUnits8 0 0 e (e.n / 8)).2.isNone) = true ∧
    takesUp (demoQueue 5) 5 (fun u _ => u.earlierDone 0 0) = true ∧
    takesUp (demoQueue (6 + 2 ^ 64 * (hostVa + 0x2000))) 6 (fun u e => u.earlierDone 0 0 && (u.cpWrite (u.qctx 0 0) e.a 8 (u.counter % 2 ^ 64)).isSome) = true := by
  decide +kernel

theorem witness_DeviceIsManaged :
    demo.mode ≠ 2 ∧ demo.stage = 6 ∧ demo.stacksOf 0 ≠ [] ∧ demo.findCtx 4095 = none ∧ (demo.ctxs.any fun c => demo.findCtx c.id == some c && c.state != 0) = true ∧
    ((demoLaunch.findCtx 0).any fun c => c.state == 0) = true ∧
    ({ demo with ctxs := [] } : State).stage = 6 ∧ demo.field 0x43000 0 3 ≠ 6 ∧
    bitAt ((demo.setReg 0x43040 0xFFFE).regN 0x43040) 0 = false ∧ bitAt ((demo.setReg 0x43040 0x7FFF).regN 0x43040) 15 = false ∧
    ((List.range 4).all fun i => demo.coreEmpty (4 * 15 + i)) = true ∧
    bitAt ((demo.setReg 0x43050 0).regN 0x43050) 63 = false ∧ demo.residents (64 + 63) = [] ∧ 1 ≤ 1024 % 2 ^ 11 ∧ demo.frozen = false ∧
    (demo.setReg 0x30000 (BitVec.ofNat 64 (2 ^ 8 * 1023 + 2 ^ 32 * 255))).field 0x30008 0 2 ≠ 1 ∧ (demo.setReg 0x30008 1).field 0x30008 0 2 = 1 ∧
    demo.field 0x45030 29 2 ≠ 1 ∧ (demo.setReg 0x45030 (2 ^ 29)).field 0x45030 29 2 = 1 ∧ isHost (32 * (2 ^ 34 - 1)) = false ∧
    demo.fullPath = true ∧ demo.bistRun = 0 ∧ ({ demo with frozen := true } : State).fullPath = true := by decide +kernel

/-- The host link is up, port 0 trained, and a window of each kind lets any peer reach 256 MiB of context 0. -/
def demoPeer : State :=
  let s := (demo.setReg 0x40000 (2 ^ 9)).setReg (portOff 0) 2
  ((s.setReg 0x41208 (BitVec.ofNat 64 (2 ^ 16 + 2 ^ 32 + 2 ^ 35 + 0x3FF * 2 ^ 36))).setReg 0x41218 (BitVec.ofNat 64 (2 ^ 16 + 2 * 2 ^ 32 + 0x3FF * 2 ^ 36))).setReg
    0x41228 (BitVec.ofNat 64 (2 ^ 16 + 3 * 2 ^ 32 + 0x3FF * 2 ^ 36))

theorem witness_OutsideActs :
    demoPeer.powered = true ∧ 1 ≤ demoPeer.stage ∧ demoPeer.stacksOf 0 ≠ [] ∧ 16 ∈ [0, 4, 8, 16] ∧ 2 ≤ demoPeer.field 0x40000 8 2 ∧ demoPeer.serving = true ∧
    demoPeer.field 0x40000 8 2 = 2 ∧ demoPeer.dpart (slice (2 ^ 36) 36 3) + 1 = 1 ∧ demoPeer.shows 0 0x30000 = true ∧ demoPeer.shows 1 0x30000 = false ∧
    demoPeer.shows 1 (queueOff 0 15) = true ∧ demoPeer.shows 1 0x1000018 = true ∧
    isHost (2 ^ 40 - 1) = true ∧ isHost (128 * (2 ^ 33 - 1)) = true ∧ demoPeer.fullPath = true ∧
    ((demoPeer.findCtx ((0x1000000 + 24 - 0x1000000) / 0x800)).any fun c => match c.write 3 1 with
      | .ok _ => true
      | _ => false) = true ∧ demoPeer.portUp = true ∧
    (demoPeer.windows.find? fun w => w.takes 5 0 120 8 && w.rd).isSome = true ∧
    ((demoPeer.windows.find? fun w => w.takes 5 0 120 8 && (w.kind == 1 || w.kind == 2)).any fun w => w.kind == 1) = true ∧
    ((({ demoPeer with regs := [] } : State).setReg 0x41218 (BitVec.ofNat 64 (2 ^ 16 + 2 * 2 ^ 32 + 0x3FF * 2 ^ 36))).windows.find? fun w =>
      w.takes 5 0 120 8 && (w.kind == 1 || w.kind == 2)).any (fun w => w.kind == 2 && !w.bf16) = true ∧
    (demoPeer.windows.find? fun w => w.takes 5 0 120 8 && (w.kind == 2 && w.bf16 == false)).isSome = true ∧
    (demoPeer.windows.find? fun w => w.takes 5 0 120 4 && w.kind == 3).isSome = true ∧
    (match demoPeer.renew.translateFresh 0 120 .write with
      | .ok t => t.pg.place == 1 && t.a % 4 == 0
      | _ => false) = true ∧ ({ demoPeer with mode := 1 } : State).secure = true ∧ 5 < (6 : BitVec 4).toNat := by decide +kernel

/-- The demo's warp declared in convergence register 0; signed; with an MMA staged; with it issued. -/
def demoDecl : State := after (.mdecl bare ⟨0, 0⟩) (demoWith (sWith 0 [1, 0, 0, 0]))
def demoSigned : State := after (.msign bare 0) demoDecl
def demoStaged : State := after (.mma bare ⟨12, 12, false, none, 14, 0, 16⟩) demoSigned
def demoIssued : State := after (.mmaIssue 0 0) demoStaged

theorem witness_MatrixInstructionsIssue :
    (let s := demoWith (sWith 0 [1, 0, 0, 0])
     ∃ e, Acts s bare e ∧ e.g.onStack = false ∧ e.g.codesFault ((List.range 4).map fun j => 640 + 0 + j) = none ∧
      ((List.range 128).filter fun b => bitAt (s.declMask e 0 (b / 32)) (b % 32)) = [0] ∧ ((e.g.warps.find? fun w => w.part == 0 && w.slot == 0).isSome) = true ∧
      (e.g.conv 0).st = .idle) ∧
    (∃ e, Acts demoDecl bare e ∧ (e.g.conv 0).st = .open ∧ (e.g.conv 0).declared.contains e.w.wid = true ∧ (e.g.conv 0).signed.contains e.w.wid = false) ∧
    (∃ e, Acts demoSigned bare e ∧ e.w.errSlots = none ∧ e.g.codesFault ([tileCode 14, tileCode 15] ++ (List.range 16).map fun j => 640 + 16 + j) = none ∧
      (e.g.tile 14).tag = 6 ∧ (e.g.tile 15).tag = 6 ∧ (e.g.conv 0).st = .open ∧ (e.g.conv 0).staged = none ∧
      (mmaFormats ⟨12, 12, false, none, 14, 0, 16⟩).isSome = true ∧
      ((mmaFormats ⟨12, 12, false, none, 14, 0, 16⟩).any fun f => match demoSigned.blockCheck e.g ⟨f.1, f.2.1, f.2.2, false, List.replicate 16 0⟩ with
        | .ok b => b
        | _ => false) = true) ∧
    (∃ e, Acts demo bare e ∧ e.g.onStack = false ∧ e.g.codesFault [tileCode 15, 640 + 382, 641 + 382] = none ∧ (e.g.tile 15).tag = 6 ∧
      (match demo.recCheck e.g 0 (tileRow .bf16) 128 with
        | .ok b => b
        | _ => false) = true) :=
  ⟨acts_of (by decide +kernel), acts_of (by decide +kernel), acts_of (by decide +kernel), acts_of (by decide +kernel)⟩

theorem witness_MatricesMultiply :
    (demoStaged.groups.any fun g => demoStaged.findGroup 0 == some g && g.mmaReady 0 && (((g.conv 0).staged.bind demoStaged.findOp).isSome)) = true ∧
    (demoIssued.ops.any fun o => demoIssued.findOp o.id == some o && (demoIssued.findGroup o.gid).any fun g => o.mmaBlock.isSome && demoIssued.mmaMayEnd o g &&
      decide (14 + 1 < g.tiles.length)) = true ∧
    (let s := flight (.mwait bare 7) (fun o => { o with at_ := .held }) demo
     s.ops.any fun o => s.findOp o.id == some o && (s.findGroup o.gid).any fun g => (g.conv 7).st == .idle && g.place == .core g.agent) = true := by
  decide +kernel

/-- A walk of one point over the tensor of `demoTensor`, to queue 7 and to the scratchpad. -/
def demoWalk (wd : Nat) : State :=
  { withHost 128 64 (wd + ((List.range 5).map fun l => 2 ^ (160 + 16 * l)).sum + 2 ^ 415) demoTensor with
    groups := demoTensor.groups.map (pairs [hostVa, hostVa + 128]) }
def demoWalking (wd : Nat) : State := after (.awalk bare ⟨none, 0, 0, 2⟩) (demoWalk wd)

theorem witness_WalksRun :
    (let s := demoWalk (7 * 2 ^ 428)
     ∃ e, Acts s bare e ∧ e.g.onStack = false ∧ s.uniS e true 0 = hostVa ∧ s.uniS e true 2 = hostVa + 128 ∧
      (let a := s.engineReadSpan e.g e.g.engineIn e.g.poisonCode hostVa 64
       let b := a.1.engineReadSpan e.g e.g.engineIn e.g.poisonCode (hostVa + 128) 64
       a.2.2.isNone && b.2.2.isNone && (descFault a.2.1).isNone && (walkFault b.2.1 (descRank a.2.1) e.g.allot.queues).isNone) = true) ∧
    ((demoWalking (7 * 2 ^ 428)).ops.any fun o => ((demoWalking (7 * 2 ^ 428)).findGroup o.gid).any fun g =>
      (demoWalking (7 * 2 ^ 428)).walkMayStep o g && o.lvals.isEmpty && !walkScratch (o.vals.getD 2 0)) = true ∧
    ((demoWalking (2 ^ 427)).ops.any fun o => ((demoWalking (2 ^ 427)).findGroup o.gid).any fun g =>
      (demoWalking (2 ^ 427)).walkMayStep o g && walkScratch (o.vals.getD 2 0) &&
      match (demoWalking (2 ^ 427)).walkPlace g (o.vals.getD 2 0) o.ctr (runBytes (o.vals.getD 1 0) (o.vals.getD 2 0)) with
        | some (some _) => true
        | _ => false) = true ∧
    (let s := after (.walkPoint (demoWalk 0).nextOp) (demoWalking (2 ^ 427))
     s.ops.any fun o => (s.findGroup o.gid).any fun g => s.walkMayStep o g && o.lvals == [(1, [0, 0, 0])]) = true ∧
    ((demoWalking (2 ^ 427 + (2 ^ 24 - 4) * 2 ^ 428)).ops.any fun o => ((demoWalking (2 ^ 427 + (2 ^ 24 - 4) * 2 ^ 428)).findGroup o.gid).any fun g =>
      (demoWalking (2 ^ 427 + (2 ^ 24 - 4) * 2 ^ 428)).walkMayStep o g &&
      ((demoWalking (2 ^ 427 + (2 ^ 24 - 4) * 2 ^ 428)).walkPlace g (o.vals.getD 2 0) o.ctr (runBytes (o.vals.getD 1 0) (o.vals.getD 2 0))).isNone) = true ∧
    walkTrip (((List.range 5).map fun l => 2 * 2 ^ (160 + 16 * l)).sum) 31 4 = 1 := ⟨acts_of (by decide +kernel), by decide +kernel⟩

/-- One slice of twelve ways; a command word; the last planes. -/
theorem witness_PlaneCommandsIssue :
    (∃ e, Acts (demoWith (pairs [2 ^ 63])) bare e ∧ e.g.onStack = false ∧ (demoWith (pairs [2 ^ 63])).uniS e true 0 = 2 ^ 63 ∧ 12 ≤ e.g.allot.ways ∧
      (demoWith (pairs [2 ^ 63])).dpart (63 / 8) = (demoWith (pairs [2 ^ 63])).domainOf e.g.agent ∧ e.w.errSlots = none) ∧
    moveFault (496 + 15 * 2 ^ 9 + 2 ^ 16 + 2 ^ 64) (2 ^ 52 - 1) = none ∧
    wordBad true true true false (496 + 15 * 2 ^ 9 + 2 ^ 16 * (496 + 15 * 2 ^ 9) + 2 ^ 32 * (496 + 15 * 2 ^ 9)) = false ∧
    wordBad true true false true (511 + 2 ^ 48 * 127) = false ∧ slice (partX (511 + 2 ^ 48 * 127)) 12 4 = 0 ∧
    fieldBase (partA (511 + 2 ^ 48 * 127)) + dotN (511 + 2 ^ 48 * 127) * fieldWidth (partA (511 + 2 ^ 48 * 127)) ≤ 512 ∧
    wordBad false true false true (2 ^ 48 * 31 + 2 ^ 16 * 511) = false ∧ slice (partX (2 ^ 48 * 31)) 5 11 = 0 ∧ (2 ^ 52 - 8) + 8 ≤ 2 ^ 52 :=
  ⟨acts_of (by decide +kernel), by decide +kernel⟩

theorem witness_PlaneCommandsAct :
    ([Instr.plfree bare, .plmul bare ⟨0, false, none, 0⟩].all fun i => (flight i id demo).ops.any fun o =>
      ((flight i id demo).findGroup o.gid).any fun g => (flight i id demo).planeMayStart o g) = true ∧
    ((flight (.plalloc bare ⟨0, 1⟩) (fun o => { o with vals := [0, 1, 1] }) demo).ops.any fun o =>
      ((flight (.plalloc bare ⟨0, 1⟩) (fun o => { o with vals := [0, 1, 1] }) demo).findGroup o.gid).any fun g =>
        (flight (.plalloc bare ⟨0, 1⟩) (fun o => { o with vals := [0, 1, 1] }) demo).planeMayStart o g) = true ∧
    2047 < (Plane.mk 1 1 []).count ∧ clashes (partD (8 + 7 * 2 ^ 9)) (fieldBase (16 + 7 * 2 ^ 9)) (fieldWidth (16 + 7 * 2 ^ 9)) true = false ∧
    fieldBad (partD (8 + 7 * 2 ^ 9)) = false := by decide +kernel

/-- A slate whose stack-core image of one word lies 16 KiB up in host memory; targets at virtual address 0. -/
def demoCall : State :=
  let s := withHost 0x4000 8 64 demo
  { s with takes := s.takes.map fun (t : Take) => ({ t with slate := { t.slate with scimg := hostVa + 0x4000, nent := 1 } } : Take) }

/-- What `Enters` asks, as it is computed. -/
def enters (s : State) (e : Env) : Bool :=
  (s.takeOf e.g).any fun k => decide (0 < k.slate.nent) && decide (k.slate.scimg < 2 ^ 52) && match s.transAcc e.g k.slate.scimg .read with
    | (r, .ok x) => !(r.readUnit e.g.engineIn ⟨.mem x.a x.pg, 8⟩).2.2
    | _ => false

/-- Registers of the block of an NCALL.B with one argument word. -/
def callRegs : List Nat := [0, 8 + 2 ^ 10 * 8 + 2 ^ 22, 0, 0, 0, 0, 0, 0, 0, 0, 0, 0, 0, 0, 0, 0]

theorem witness_CallsIssue :
    (∃ e, Acts demoCall bare e ∧ e.g.onStack = false ∧ e.w.errSlots = none ∧ rangeBad (demoCall.uniS e true 0) = false ∧ enters demoCall e = true ∧
      badTags (callArgs ⟨0, 0, 4, true, 8, 0, 2, 0⟩) (demoCall.readRows e (callArgs ⟨0, 0, 4, true, 8, 0, 2, 0⟩)).2 = [] ∧
      (demoCall.callTargets e (e.act.map fun l => (l, 0))).2.2 = []) ∧
    (∃ e, Acts demoCall bare e ∧ (CallBlock.mk callRegs).bad = false ∧ demoCall.dpart (CallBlock.mk callRegs).stack = demoCall.domainOf e.g.agent ∧
      (∀ w ∈ (CallBlock.mk callRegs).ranges, rangeBad w = false) ∧ enters demoCall e = true ∧ ((demoCall.argWords e.g ⟨callRegs⟩).all fun w => match w with
        | .ok _ => true
        | _ => false) = true) ∧
    (∃ e, Acts demo bare e ∧ e.g.codesFault (regCodes true (.v 638)) = none ∧ badTags [Arg.reg .i64 (.v 638)] (demo.readRows e [Arg.reg .i64 (.v 638)]).2 = []) ∧
    (∃ e, Acts demo bare e ∧ e.g.codesFault ((nretArgs ⟨.v 0, some (.v 1)⟩).flatMap Arg.codes) = none) :=
  ⟨acts_of (by decide +kernel), acts_of (by decide +kernel), acts_of (by decide +kernel), acts_of (by decide +kernel)⟩

/-- The demo's group with a second one, of kind `k`, that it has called and that stands at `p`. -/
def demoCallee (k : GroupKind) (p : Place) (f : Warp → Warp) (ws : Nat) (i : Instr) (o : Op → Op) : State :=
  let s := flight i o demo
  { s with groups := s.groups ++ (s.groups.map fun (g : Group) => ({ g with
      gid := 1, kind := k, place := p, warps := (g.warps.take ws).map f, callers := [(0, 0), (0, 1), (0, 2), (0, 3)] } : Group)) }

def demoNcall : Instr := .ncallL bare ⟨0, 0, 0, false, 8, 0, 2, 0⟩
def demoBlock : Instr := .ncallB bare ⟨0, ⟨0, 0⟩⟩

theorem witness_CallsAct :
    ((flight demoNcall (fun o => { o with vals := [64, 0, 7] }) demo).ops.any fun o => o.mayDeliver 7) = true ∧
    (let s := demoCallee (.gathered 0) (.stackCore 64) id 0 demoNcall fun o => { o with id := 0, at_ := .delivered, replies := [⟨0, [some 5], 1, 0⟩] }
     s.ops.any fun o => (s.nextReply o).isSome && (s.findGroup o.gid).isSome) = true ∧
    ((flight demoBlock id demo).ops.any fun o => o.at_ == .issued && o.after.isEmpty) = true ∧
    (let s := demoCallee (.block demo.nextOp) (.stackCore 64) id 0 demoBlock fun o => { o with gid := 0, at_ := .delivered }
     s.groups.any fun y => s.findGroup 1 == some y && s.idleGroup y && (s.findOp demo.nextOp).any fun o => (s.findGroup o.gid).isSome) = true ∧
    ((flight (.njoin bare ⟨3, .v 0⟩) (fun o => { o with at_ := .held, lvals := [(0, [0])] }) demo).ops.any fun o =>
      ((flight (.njoin bare ⟨3, .v 0⟩) (fun o => { o with at_ := .held, lvals := [(0, [0])] }) demo).findGroup o.gid).any fun g =>
        (g.findWarp o.wid).any fun w => !(o.joined w 3).isEmpty && o.after.isEmpty && g.inPlace) = true ∧
    (let s := demoCallee (.block 99) (.stackCore 64) (fun w => { w with halt := .trapping }) 1 (.trigger bare) fun o => { o with gid := 0 }
     s.groups.any fun g => s.findGroup 1 == some g && g.mayMove && g.warps.any fun w => g.findWarp w.wid == some w && w.halt == .trapping) = true ∧
    (let s := demoCallee (.gathered demo.nextOp) (.toCore 0) id 1 demoNcall fun o => { o with at_ := .delivered }
     s.groups.any fun g => s.findGroup 1 == some g && s.moveTarget g == some 0) = true ∧ 2 ^ 64 - 1 < 2 ^ 64 := by decide +kernel

/-- The block of an XRED and XPREF of one element; the last word of a bank page; the tables of a KV cache of one sequence. -/
def demoNear : State :=
  withHost 0x6000 16 (1 + 2 ^ 32 + 2 ^ 67 * ((hostVa + 0x7000) / 8)) (withHost 0x5100 64 1 (withHost 0x5000 8 ((hostVa + 0x5100) / 64 * 64)
    (demoWith (pairs [0x8000000 - 0x8000 + 0x8000000, hostVa + 0x5000]))))

theorem witness_BaseDieCommandsIssue :
    (∃ e, Acts demoNear bare e ∧ e.w.errSlots = none ∧ badTags [Arg.v .i32 0] (demoNear.rows e [Arg.v .i32 0] []) = [] ∧
      RowBlock.badXred ⟨[0, 0, 0, 0, 0, 0, 4095 + 2 ^ 12, 0]⟩ = false ∧ RowBlock.badXpref ⟨[0, 0, 0, 0, 0, 0, 1, 0]⟩ = false) ∧
    (∃ e, Acts demoNear bare e ∧ demoNear.uniS e true 0 = 0xFFF8000 ∧ (match demoNear.translateFor e.g 0xFFF8000 .read with
        | (u, .ok t) => t.pg.place == 2 && slice (t.a % 2 ^ 30) 0 15 == 0 && decide (slice (t.a % 2 ^ 30) 15 15 + 1 ≤ 32768) &&
          (after (.bankCommandStart u.nextOp) (after (.bkopen bare 0) u)).channels.any fun c => c.stack == t.pg.stack && c.pch == t.pg.pch && c.owner == e.g.gid
        | _ => false) = true) ∧
    (∃ e, Acts demoNear bare e ∧ e.g.onStack = false ∧
      demoNear.early e [640 + 2, 641 + 2] = false ∧ (∀ x ∈ (demoNear.readRows e [Arg.v .i32 0, .v .i32 1]).2, x.haz = false) ∧
      (match demoNear.kvRead e (e.g.via 0) (hostVa + 0x5000) 8 with
        | (r, .val rt rc) => !badRoot rt && match (r.acquireAt e.g 0).kvRead e (e.g.via 0) (kvTable rt) 64 with
          | (u, .val head c) => !badHeader head && !u.kvTouched (max (r.wordStamp rc) ((demoNear.takeOf e.g).elim 0 Take.stamp)) c 64
          | _ => false
        | _ => false) = true) :=
  ⟨acts_of (by decide +kernel), acts_of (by decide +kernel), acts_of (by decide +kernel)⟩

/-- A bank command in flight on a pseudo-channel that is open, or not. -/
def demoBank (i : Instr) (isOpen : Bool) (f : Op → Op) : State :=
  let s := flight i (fun o => f { o with vals := [7, 63, 0, 0, 1, 2, 3] }) demo
  { s with channels := if isOpen then [⟨7, 63, 0, 0, []⟩] else [] }

def starts (s : State) : Bool := s.ops.any fun o => s.findOp o.id == some o && s.mayStartBank o

theorem witness_BankCommandsAct :
    (starts (demoBank (.bkopen bare 0) false id) && (demoBank (.bkopen bare 0) false id).findChannel 7 63 == none) = true ∧
    ([Instr.bkopen bare 0, .bkclose bare 0, .bkbcast bare ⟨true, 0, 0, 7⟩, .bkmac bare ⟨0, 2, ⟨4, 0⟩⟩, .bkread bare ⟨0, 0, 7⟩].all fun i =>
      starts (demoBank i true id) && ((demoBank i true id).findChannel 7 63).isSome) = true ∧
    ((demoBank (.bkmac bare ⟨0, 2, ⟨4, 0⟩⟩) true fun o => { o with at_ := .started }).ops.any fun o => o.at_ == .started) = true := by decide +kernel

/-- A block of an FCOPY of 16 bytes to peer 0, whose entry lies 32 KiB up in host memory. -/
def demoFabric : State :=
  let s := withHost 0x8000 16 (2 ^ 32) (demoWith (pairs [0x7FFFFF0, 0, 16, 0]))
  { s with ctxs := s.ctxs.map fun c => { c with peertab := BitVec.ofNat 64 (hostVa + 0x8000 + 2 ^ 52) } }

theorem witness_FabricOperationsRun :
    (∃ e, Acts demoFabric bare e ∧ e.w.errSlots = none ∧ demoFabric.uniS e true 0 = 0x7FFFFF0 ∧ demoFabric.uniS e true 2 = 0 ∧ demoFabric.uniS e false 4 = 16 ∧
      demoFabric.uniS e false 5 = 0 ∧ demoFabric.uniS e false 6 = 0 ∧ demoFabric.uniS e false 7 = 0 ∧ e.g.onStack = false ∧
      demoFabric.fabFault e.g 0 = none ∧ (demoFabric.peerEntry e.g 0).2.2 = none) ∧
    ([Instr.fcopyPut bare ⟨0, ⟨8, 0⟩⟩, .fsem bare ⟨0, 0, .i10 1⟩].all fun i => (flight i id demo).ops.any Op.mayStartFabric) = true ∧
    ((flight (.fcopyGet bare ⟨0, ⟨8, 0⟩⟩) (fun o => { o with at_ := .started }) demo).ops.any fun o => o.mayAck) = true ∧ fabStatus 0 = true ∧
    (let s := flight (.fsem bare ⟨0, 0, .i10 1⟩) (fun o => { o with at_ := .started }) demo
     s.ops.any fun o => s.maySignal o) = true :=
  ⟨acts_of (by decide +kernel), by decide +kernel⟩

theorem witness_EnginesArriveAndEnd :
    ((flight (.plmul bare ⟨0, false, none, 0⟩) (fun o => { o with at_ := .ready, bw := some (0, 0) }) demo).ops.any fun o => o.bw.isSome && o.at_ == .ready) = true ∧
    ((flight (.plmul bare ⟨0, false, none, 0⟩) (fun o => { o with at_ := .ready }) demo).ops.any fun o => o.bw.isNone && o.at_ == .ready) = true ∧
    ((after (.cpout bare ⟨0, none, 4, 0, .i10 16⟩) demoCopy).ops.any fun o => (after (.cpout bare ⟨0, none, 4, 0, .i10 16⟩) demoCopy).canMoveOut o) = true ∧
    ([Instr.xred bare ⟨0, 0, ⟨0, 0⟩⟩, .xpref bare ⟨0, 0, ⟨0, 0⟩⟩].all fun i => (flight i id demo).ops.any fun o => o.at_ == .issued && o.after.isEmpty) = true ∧
    (let s := demoWord
     s.groups.any fun g => match s.translateFor g 0x10000 .write with
      | (v, .ok t) => (v.takeOf g).all fun k => !k.refuses t.pg
      | _ => false) = true := by decide +kernel

/-! ### Worked values of the spec, and one step each -/

/-- What a fixed-latency instruction is to write to v register `n` of lane `l` where v0 to v2 hold `a`, `b` and `c`: value and tag. -/
def result (a b c : Nat) (i : Instr) (n l : Nat) : Nat × Nat :=
  ((after i (demoWith fun g => lanesWith 0 a (lanesWith 1 b (lanesWith 2 c g)))).ops.flatMap Op.writes).foldl
    (fun x w => if w.lane = l ∧ w.reg = n then (w.val.toNat, w.tag) else x) (0, 0)

/-- Integers wrap, and clamp under .sat (R85). -/
theorem test_iadd_wraps : result (2 ^ 32 - 1) 2 0 (.iadd bare ⟨.z32, false, .v 8, .reg (.v 0), .reg (.v 1)⟩) 8 3 = (1, 2) := by decide +kernel
theorem test_iadd_sat : result (2 ^ 31 - 1) 2 0 (.iadd bare ⟨.i32, true, .v 8, .reg (.v 0), .reg (.v 1)⟩) 8 0 = (2 ^ 31 - 1, 1) := by decide +kernel

/-- Bit 4a + 2b + c of the table for each bit (R243): 0x96 is the exclusive or of three. -/
theorem test_lop3_xor : result 0b1100 0b1010 0b1111 (.lop3 bare ⟨.v 8, .reg (.v 0), .reg (.v 1), .reg (.v 2), 0x96⟩) 8 0 = (0b1001, 0) := by decide +kernel

/-- -7 shifted by 1 keeps the sign, and a shift gives tag b32 (R244); eight ones (R245). -/
theorem test_sha : result (2 ^ 32 - 7) 1 0 (.sha bare ⟨.i32, false, .v 8, .reg (.v 0), .reg (.v 1)⟩) 8 0 = (2 ^ 32 - 4, 0) := by decide +kernel
theorem test_popc : result 0xF0F0 0 0 (.popc bare ⟨.b32, false, .v 8, .reg (.v 0)⟩) 8 0 = (8, 0) := by decide +kernel

/-- 1.0 + 1.0 is 2.0; 2^24 + 1.0 rounds to even; 2.0 * 3.0 - 1.0 is 5.0 (R261, R264). -/
theorem test_fadd : result 0x3F800000 0x3F800000 0 (.fadd bare ⟨.f32, .rn, false, 0, 0, .v 8, .reg (.v 0), .reg (.v 1)⟩) 8 0 = (0x40000000, 6) := by
  decide +kernel
theorem test_fadd_rounds : result 0x4B800000 0x3F800000 0 (.fadd bare ⟨.f32, .rn, false, 0, 0, .v 8, .reg (.v 0), .reg (.v 1)⟩) 8 0 = (0x4B800000, 6) := by
  decide +kernel
theorem test_ffma : result 0x40000000 0x40400000 0xBF800000
    (.ffma bare ⟨.f32, .rn, false, 0, 0, .v 8, .reg (.v 0), .reg (.v 1), .reg (.v 2)⟩) 8 0 = (0x40A00000, 6) := by decide +kernel

/-- -1 as a signed number is the FP32 code of -1.0 (R273). -/
theorem test_cvt : result (2 ^ 32 - 1) 0 0 (.cvt bare ⟨.f32, .i32, .rn, false, .v 8, .v 0⟩) 8 0 = (0xBF800000, 6) := by decide +kernel

/-- The ballot of a true predicate over four lanes (R257). -/
theorem test_ballot : result 0 0 0 (.vote bare ⟨.ballot (.v 8), ⟨7, false⟩⟩) 8 2 = (15, 3) := by decide +kernel

/-- Every lane of the entry retires at EXIT (R232). -/
theorem test_exit : ((after (.exit bare) demo).groups.map fun g => g.lanes.map Lane.at_) = [List.replicate 4 LaneAt.retired] := by decide +kernel

/-- BRA by -1 slot from slot 1 goes back to slot 0 (R201). -/
theorem test_bra : branchTarget 8 (-1) = 0 ∧ branchTarget 0 5 = 64 := by decide +kernel

/-- One step runs the word at the PC. -/
theorem test_step_exit : (match step (State.reset.withFetchWord 96 (6 + unguarded)) with
    | .next t => t.groups.map fun g => g.lanes.map Lane.at_
    | _ => []) = [List.replicate 4 LaneAt.retired] := by decide +kernel

/-- A stored word lies in its bank with its low byte first (R7, R119). -/
theorem test_sts : (let s := after (.sts bare ⟨.i32, 0, false, .plain, 0, .i10 4, .i10 0, .i32 0x01020304⟩) demo
    let t := after (.longLatencyComplete demo.nextOp) s
    (t.groups.map fun g => g.banks.map fun k => [k.byte 4, k.byte 7]).flatten.headD []) = [4, 1] := by decide +kernel

/-- A barrier at which every lane has arrived flips its phase (R307). -/
theorem test_bar : (((after (.barrierComplete false 0 3) (after (.bar bare 3) demo)).findGroup 0).map fun g => (g.bars.getD 3 ⟨false, []⟩).phase) = some true := by
  decide +kernel

/-- The first bytes of SHA-384 of the three bytes "abc", as its standard prints them (R497). -/
theorem test_sha384 : (sha384 [97, 98, 99]).take 4 = [0xCB, 0x00, 0x75, 0x3F] := by decide +kernel

end Sys2Proof.Tests
end

section
/-!
SUPPORT. Bytes of numbers: several bytes written to memory or to a scratchpad bank are read back, and every other byte stays.
-/

namespace Sys2Proof

/-! ### Bytes of a number, little-endian (R7) -/

/-- A number's low byte and the bytes above it. -/
theorem lowByte_add_rest (x n : Nat) : (BitVec.ofNat 8 x).toNat + 256 * (x / 256 % 256 ^ n) = x % 256 ^ (n + 1) := by
  rw [BitVec.toNat_ofNat, Nat.pow_succ' (n := n)]
  exact Nat.mod_mul.symm

/-- Byte `k + 1` of a number is byte `k` of what lies above its low byte. -/
theorem nextByte (x k : Nat) : x / 256 ^ (k + 1) = x / 256 / 256 ^ k := by
  rw [Nat.pow_succ', Nat.div_div_eq_div_mul]

/-- The number that `n` bytes from `a` make, where `f` gives the byte at each place. -/
def numberAt (f : Nat → Byte) (a : Nat) : Nat → Nat
  | 0 => 0
  | n + 1 => (f a).toNat + 256 * numberAt f (a + 1) n

/-- Bytes that are those of a number make the number. -/
theorem numberAt_of_bytes {f : Nat → Byte} {a n x : Nat} (h : ∀ k, k < n → f (a + k) = BitVec.ofNat 8 (x / 256 ^ k)) :
    numberAt f a n = x % 256 ^ n := by
  induction n generalizing a x with
  | zero => exact (Nat.mod_one x).symm
  | succ n ih =>
    have hlow : f a = BitVec.ofNat 8 x := by simpa using h 0 (Nat.succ_pos n)
    have hrest : numberAt f (a + 1) n = x / 256 % 256 ^ n := ih fun k hk => by
      rw [Nat.add_right_comm, Nat.add_assoc, h (k + 1) (Nat.succ_lt_succ hk), nextByte]
    rw [numberAt, hlow, hrest, lowByte_add_rest]

/-! ### Memory -/

/-- Each byte of a write is found in its place. -/
theorem Memory.read_writeNat {m : Memory} (h : Memory.wf m = true) {a n k : Nat} (x : Nat) (hk : k < n) :
    (m.writeNat a n x).read (a + k) = BitVec.ofNat 8 (x / 256 ^ k) := by
  induction n generalizing m a x k with
  | zero => exact absurd hk (Nat.not_lt_zero k)
  | succ n ih =>
    have hw := Memory.wf_write h a (BitVec.ofNat 8 x)
    cases k with
    | zero =>
      have hrest := Memory.read_writeNat_of_disjoint hw (n := n) (x / 256) (.inl (Nat.lt_succ_self a))
      rw [pow_zero, Nat.div_one]
      exact hrest.trans (Memory.read_write_self h a _)
    | succ k =>
      rw [nextByte, ← Nat.add_assoc, Nat.add_right_comm]
      exact ih hw (x / 256) (Nat.lt_of_succ_lt_succ hk)

/-- A read of several bytes gives the number they make. -/
theorem Memory.readNat_eq_numberAt (m : Memory) (a n : Nat) : m.readNat a n = numberAt m.read a n := by
  induction n generalizing a with
  | zero => rfl
  | succ n ih => rw [Memory.readNat, numberAt, ih]

/-- What is written is read back (R7). -/
theorem Memory.readNat_writeNat {m : Memory} (h : Memory.wf m = true) (a n x : Nat) : (m.writeNat a n x).readNat a n = x % 256 ^ n :=
  (Memory.readNat_eq_numberAt _ a n).trans (numberAt_of_bytes fun _ hk => Memory.read_writeNat h x hk)

/-! ### Banks -/

namespace Machine

/-- One byte of a bank is written. -/
def Bank.put (b : Bank) (off : Nat) (x : Byte) : Bank := { b with bytes := NMap.put none b.bytes off (some x) }

theorem Bank.writeNat_succ (b : Bank) (off n x : Nat) :
    b.writeNat off (n + 1) x = (b.put off (BitVec.ofNat 8 x)).writeNat (off + 1) n (x / 256) := rfl

@[simp] theorem Bank.byte_put_self (b : Bank) (off : Nat) (x : Byte) : (b.put off x).byte off = x := by
  simp [Bank.byte, Bank.put, NMap.get_put_listed]

theorem Bank.byte_put_of_ne (b : Bank) {off j : Nat} (x : Byte) (hj : j ≠ off) : (b.put off x).byte j = b.byte j := by
  simp [Bank.byte, Bank.put, NMap.get_put_listed_of_ne _ hj]

/-- A write below or above a byte leaves it (R119). -/
theorem Bank.byte_writeNat_of_disjoint (b : Bank) {off n j : Nat} (x : Nat) (hj : j < off ∨ off + n ≤ j) :
    (b.writeNat off n x).byte j = b.byte j := by
  induction n generalizing b off x with
  | zero => rfl
  | succ n ih =>
    rw [Bank.writeNat_succ, ih _ _ (by omega)]
    exact Bank.byte_put_of_ne b _ (by omega)

/-- Each byte of a write is found in its place. -/
theorem Bank.byte_writeNat (b : Bank) {off n k : Nat} (x : Nat) (hk : k < n) :
    (b.writeNat off n x).byte (off + k) = BitVec.ofNat 8 (x / 256 ^ k) := by
  induction n generalizing b off x k with
  | zero => exact absurd hk (Nat.not_lt_zero k)
  | succ n ih =>
    rw [Bank.writeNat_succ]
    cases k with
    | zero =>
      rw [pow_zero, Nat.div_one]
      exact (Bank.byte_writeNat_of_disjoint _ _ (.inl (Nat.lt_succ_self off))).trans (Bank.byte_put_self b off _)
    | succ k =>
      rw [nextByte, ← Nat.add_assoc, Nat.add_right_comm]
      exact ih _ (x / 256) (Nat.lt_of_succ_lt_succ hk)

/-- A read of several bytes gives the number they make. -/
theorem Bank.readNat_eq_numberAt (b : Bank) (off n : Nat) : b.readNat off n = numberAt b.byte off n := by
  induction n generalizing off with
  | zero => rfl
  | succ n ih => rw [Bank.readNat, numberAt, ih]

/-- What is written is read back (R7, R119). -/
theorem Bank.readNat_writeNat (b : Bank) (off n x : Nat) : (b.writeNat off n x).readNat off n = x % 256 ^ n :=
  (Bank.readNat_eq_numberAt _ off n).trans (numberAt_of_bytes fun _ hk => b.byte_writeNat x hk)

end Machine

/-! ### The statement -/

/-- Settles O18: memory by the laws of its canonical form, a bank by those of listed bytes. -/
theorem writtenBytesAreRead : Obligations.WrittenBytesAreRead :=
  ⟨fun _ a n x h => ⟨Memory.wf_writeNat h a n x, Memory.readNat_writeNat h a n x, fun _ hk => Memory.read_writeNat h x hk,
      fun _ hb => Memory.read_writeNat_of_disjoint h x hb⟩,
    fun b off n x => ⟨fun _ hk => b.byte_writeNat x hk, b.readNat_writeNat off n x, fun _ hj => b.byte_writeNat_of_disjoint x hj⟩⟩

end Sys2Proof
end

section
/-!
SUPPORT. What the decoder accepts: it has passed the tests of R210's table, and a word encodes it.
-/

namespace Sys2Proof

/-! ### What an accepted word has passed (R210) -/

/-- A test is passed. -/
theorem test_eq_ok {c : Prop} [Decidable c] {e : DecodeError} {x : Except DecodeError Instr} {i : Instr} :
    (if c then .error e else x) = .ok i ↔ ¬ c ∧ x = .ok i := by
  by_cases hc : c <;> simp [hc]

/-- A word that the decoder accepts has a form, has passed the tests of R210's table in turn, and its instruction is a well-formed reading
of that form, under the script bias or under none. -/
theorem decodeRaw_ok {r : Raw} {priv bad : Bool} {b : Nat} {i : Instr} (h : decodeRaw r priv bad b = .ok i) :
    ∃ f, formOf r = some f ∧ (isSystemOpcode r.opcode = true → priv = true) ∧ bad = false ∧ r.setf ≤ 12 ∧
      i.wf = true ∧ ∃ k, f.get r k = some i := by
  unfold decodeRaw at h
  split at h
  · cases h
  rename_i f hf
  simp only [test_eq_ok] at h
  obtain ⟨hsys, hres, hset, _, h⟩ := h
  have hpriv : isSystemOpcode r.opcode = true → priv = true := by simpa using hsys
  have hbad : bad = false := by
    cases bad with
    | false => rfl
    | true => exact absurd rfl hres
  refine ⟨f, hf, hpriv, hbad, by omega, ?_⟩
  split at h
  · cases h
  rename_i j hj
  rw [test_eq_ok] at h
  obtain ⟨hwf, h⟩ := h
  split at h
  · cases h
    exact ⟨by simpa using hwf, 0, hj⟩
  split at h
  · cases h
  rename_i k hk
  split at h
  · rename_i hkwf
    cases h
    exact ⟨hkwf, b, hk⟩
  · cases h

/-! ### What a form reads has an encoding -/

/-- A word encodes the instruction. -/
def IsWord (i : Instr) : Prop := (rawOf i).isSome = true

/-- Whatever is read is an instruction that a word encodes. -/
def Words (o : Option Instr) : Prop := ∀ i, o = some i → IsWord i

@[simp] theorem isWord_ite (c : Prop) [Decidable c] (i j : Instr) : IsWord (if c then i else j) ↔ (c → IsWord i) ∧ (¬ c → IsWord j) := by
  by_cases hc : c <;> simp [hc]

@[simp] theorem words_none : Words none := fun _ h => nomatch h

@[simp] theorem words_some (i : Instr) : Words (some i) ↔ IsWord i := by simp [Words]

@[simp] theorem words_bind {α : Type} (o : Option α) (f : α → Option Instr) : Words (o >>= f) ↔ ∀ x, o = some x → Words (f x) := by
  cases o <;> simp

@[simp] theorem words_map {α : Type} (o : Option α) (f : α → Instr) : Words (o.map f) ↔ ∀ x, o = some x → IsWord (f x) := by
  cases o <;> simp

@[simp] theorem words_ite (c : Prop) [Decidable c] (x y : Option Instr) :
    Words (if c then x else y) ↔ (c → Words x) ∧ (¬ c → Words y) := by
  by_cases hc : c <;> simp [hc]

/-- PSETP in each of its modes (R250). -/
theorem formPsetpOf_words (q r : Raw) (b : Nat) : Words ((formPsetpOf q).get r b) := by
  unfold formPsetpOf
  split
  · simp only [formPsetp, words_ite, words_none, words_some, implies_true, true_and]
    exact fun _ => rfl
  · simp only [formPsetpG, words_ite, words_none, words_some, implies_true, true_and]
    exact fun _ => rfl
  · exact words_none

/-- FLAGS in each of its modes (R279). -/
theorem formFlagsOf_words (q r : Raw) (b : Nat) : Words ((formFlagsOf q).get r b) := by
  unfold formFlagsOf
  split
  · exact (words_some _).2 rfl
  · exact (words_some _).2 rfl
  · exact (words_some _).2 rfl
  · exact words_none

/-- Every form of the opcode map reads, where its conditions hold, an instruction that a word encodes (R208). -/
theorem formOf_words {q : Raw} {f : Form} (h : formOf q = some f) (r : Raw) (b : Nat) : Words (f.get r b) := by
  unfold formOf at h
  split at h
  all_goals cases h
  all_goals simp only [formPsetpOf_words, formFlagsOf_words, apply_ite Form.get, ite_apply, words_none, words_some, words_bind, words_map,
    words_ite, isWord_ite, implies_true, and_true, true_and,
    formPlain, formBra, formBrx, formLoop, formEndl, formEndlBrk, formWsync, formLit1, formLitD, formTrap, formGset, formWsplice, formInt1, formInt2,
    formInt3, formLop3, formShf, formIsetp, formIsel, formLea, formMovi, formSmov, formUbcast, formSpr, formShfl, formVote, formRedW, formScanW,
    formVslide, formRng, formF2, formF3, formFMin, formFsetp, formFclass, formFun, formCvt, formPack, formUnpack, formQnt, formDqnt, formTagset,
    formDa, formLd, formSt, formLds, formSts, formLdt, formStt, formAtom, formRed, formCpa, formCpout, formCpaLn, formCpoutLn, formPref, formMaint,
    formBmode, formPres, formFence, formBwinit, formBwarr, formBwwait, formSemsig, formSemwait, formErrack, formMdecl, formMma, formMload, formMout,
    formAwalk, formPlalloc, formPlfill, formPlop, formPldot, formPlcmp, formPlsel, formPlred, formPlbmap, formNcallL, formNcallB, formNjoin,
    formNret, formXred, formBkopen, formBkbcast, formBkmac, formBkread, formKvxlate, formKvmask, formFcopy, formFreduce, formFsem, formSysrd,
    formSyswr, formTret, formTlbinvAll, formRange, formHalt]
  -- What is left says of each instruction that a form makes that `rawOf` has an arm for it.
  all_goals and_intros <;> intros <;> rfl

/-- The opcode map ends with the system instructions (R208, R209). -/
theorem opcode_le_of_formOf {q : Raw} {f : Form} (h : formOf q = some f) : q.opcode ≤ 0x3C6 := by
  unfold formOf at h
  split at h
  all_goals cases h
  all_goals omega

theorem isSystemOpcode_of_formOf {q : Raw} {f : Form} (h : formOf q = some f) (ho : 0x3C0 ≤ q.opcode) : isSystemOpcode q.opcode = true := by
  simp [isSystemOpcode, ho, opcode_le_of_formOf h]

/-- Settles O3: the decoder's tests in turn, and for the encoding the opcode map, form by form. -/
theorem decodedWordsAreWellFormed : Obligations.DecodedWordsAreWellFormed := by
  intro r priv bad b i h
  obtain ⟨f, hf, hsys, hbad, hset, hwf, k, hk⟩ := decodeRaw_ok h
  have henc : (encode i).isSome = true := by
    rw [encode, Option.isSome_map]
    exact formOf_words hf r k i hk
  exact ⟨hwf, henc, hset, hbad, fun ho => hsys (isSystemOpcode_of_formOf hf ho)⟩

end Sys2Proof
end

section
/-!
SUPPORT. What the issue of a fixed-latency word keeps of lanes, groups, memory and device registers.
-/

namespace Sys2Proof.Machine

/-! ### What an issue keeps of a lane and of a group -/

/-- A lane keeps its PC, registers, predicates, FP flags, counter stack, depth and place; its queue of unsettled registers, its random
counter and its age are free. -/
structure Lane.Kept (l l' : Lane) : Prop where
  pc : l'.pc = l.pc
  v : l'.v = l.v
  p : l'.p = l.p
  fp : l'.fp = l.fp
  loops : l'.loops = l.loops
  depth : l'.depth = l.depth
  at_ : l'.at_ = l.at_

theorem Lane.Kept.refl (l : Lane) : l.Kept l := ⟨rfl, rfl, rfl, rfl, rfl, rfl, rfl⟩

theorem Lane.Kept.trans {l m n : Lane} (h : l.Kept m) (k : m.Kept n) : l.Kept n :=
  ⟨k.pc.trans h.pc, k.v.trans h.v, k.p.trans h.p, k.fp.trans h.fp, k.loops.trans h.loops, k.depth.trans h.depth, k.at_.trans h.at_⟩

/-- A group keeps its uniform registers, banks, tiles and guard slots, and each of its lanes is kept. -/
structure Group.Kept (g g' : Group) : Prop where
  gid : g'.gid = g.gid
  s : g'.s = g.s
  banks : g'.banks = g.banks
  tiles : g'.tiles = g.tiles
  guards : g'.guards = g.guards
  length : g'.lanes.length = g.lanes.length
  lane : ∀ j, (g.lane j).Kept (g'.lane j)

/-- What changes none of these, the lanes among them. -/
theorem Group.Kept.of_lanes {g g' : Group} (hgid : g'.gid = g.gid) (hs : g'.s = g.s) (hb : g'.banks = g.banks) (ht : g'.tiles = g.tiles)
    (hg : g'.guards = g.guards) (hl : g'.lanes = g.lanes) : g.Kept g' :=
  ⟨hgid, hs, hb, ht, hg, congrArg List.length hl, fun j => by
    have hj : g'.lane j = g.lane j := congrArg (·.getD j Lane.none) hl
    exact hj ▸ Lane.Kept.refl _⟩

theorem Group.Kept.refl (g : Group) : g.Kept g := .of_lanes rfl rfl rfl rfl rfl rfl

theorem Group.Kept.trans {g k m : Group} (h : g.Kept k) (h' : k.Kept m) : g.Kept m :=
  ⟨h'.gid.trans h.gid, h'.s.trans h.s, h'.banks.trans h.banks, h'.tiles.trans h.tiles, h'.guards.trans h.guards,
    h'.length.trans h.length, fun j => (h.lane j).trans (h'.lane j)⟩

theorem Group.kept_modWarp (g : Group) (wid : Nat) (f : Warp → Warp) : g.Kept (g.modWarp wid f) := .of_lanes rfl rfl rfl rfl rfl rfl

theorem Group.kept_modLane (g : Group) (i : Nat) {f : Lane → Lane} (hf : ∀ l : Lane, l.Kept (f l)) : g.Kept (g.modLane i f) where
  gid := rfl
  s := rfl
  banks := rfl
  tiles := rfl
  guards := rfl
  length := List.length_modify ..
  lane j := by
    simp only [Group.lane, Group.modLane, List.getD_eq_getElem?_getD, List.getElem?_modify]
    cases g.lanes[j]? with
    | none => exact Lane.Kept.refl _
    | some l =>
      by_cases hij : i = j
      · simpa [hij] using hf l
      · simpa [hij] using Lane.Kept.refl l

theorem Group.kept_modLanes (g : Group) (ls : List Nat) {f : Nat → Lane → Lane} (hf : ∀ i (l : Lane), l.Kept (f i l)) :
    g.Kept (g.modLanes ls f) := by
  induction ls generalizing g with
  | nil => exact .refl g
  | cons i is ih => exact (g.kept_modLane i (hf i)).trans (ih _)

/-! ### What an issue keeps of the device -/

/-- Every group is kept, in its place. -/
def State.GroupsKept (s t : State) : Prop := ∃ f : Group → Group, (∀ g : Group, g.Kept (f g)) ∧ t.groups = s.groups.map f

/-- Memory, caches, device registers and poison are the same. -/
structure State.StoreKept (s t : State) : Prop where
  mem : t.mem = s.mem
  l2 : t.l2 = s.l2
  l1 : t.l1 = s.l1
  regs : t.regs = s.regs
  poison : t.poison = s.poison

/-- Groups, memory, caches, device registers and poison are kept. -/
structure State.Keeps (s t : State) : Prop where
  groups : s.GroupsKept t
  store : s.StoreKept t

theorem State.GroupsKept.of_eq {s t : State} (h : t.groups = s.groups) : s.GroupsKept t :=
  ⟨id, Group.Kept.refl, by rw [h, List.map_id]⟩

theorem State.GroupsKept.trans {s t u : State} (h : s.GroupsKept t) (k : t.GroupsKept u) : s.GroupsKept u := by
  obtain ⟨f, hf, ht⟩ := h
  obtain ⟨f', hf', hu⟩ := k
  exact ⟨f' ∘ f, fun g => (hf g).trans (hf' (f g)), by rw [hu, ht, List.map_map]⟩

theorem State.StoreKept.trans {s t u : State} (h : s.StoreKept t) (k : t.StoreKept u) : s.StoreKept u :=
  ⟨k.mem.trans h.mem, k.l2.trans h.l2, k.l1.trans h.l1, k.regs.trans h.regs, k.poison.trans h.poison⟩

theorem State.Keeps.refl (s : State) : s.Keeps s := ⟨.of_eq rfl, rfl, rfl, rfl, rfl, rfl⟩

theorem State.Keeps.trans {s t u : State} (h : s.Keeps t) (k : t.Keeps u) : s.Keeps u :=
  ⟨h.groups.trans k.groups, h.store.trans k.store⟩

theorem State.keeps_modGroup (s : State) (gid : Nat) {f : Group → Group} (hf : ∀ g : Group, g.Kept (f g)) : s.Keeps (s.modGroup gid f) where
  groups := ⟨fun g => if g.gid == gid then f g else g, fun g => by
    dsimp only
    split
    · exact hf g
    · exact .refl g, rfl⟩
  store := ⟨rfl, rfl, rfl, rfl, rfl⟩

theorem State.keeps_modWarp (s : State) (gid wid : Nat) (f : Warp → Warp) : s.Keeps (s.modWarp gid wid f) :=
  s.keeps_modGroup gid fun g => g.kept_modWarp wid f

theorem State.keeps_modLanes (s : State) (gid : Nat) (ls : List Nat) {f : Nat → Lane → Lane} (hf : ∀ i (l : Lane), l.Kept (f i l)) :
    s.Keeps (s.modLanes gid ls f) :=
  s.keeps_modGroup gid fun g => g.kept_modLanes ls hf

theorem State.keeps_modOp (s : State) (id : Nat) (f : Op → Op) : s.Keeps (s.modOp id f) := ⟨.of_eq rfl, rfl, rfl, rfl, rfl, rfl⟩

theorem State.keeps_renew (s : State) : s.Keeps s.renew := ⟨.of_eq rfl, rfl, rfl, rfl, rfl, rfl⟩

/-- An operation goes in flight (R32). -/
theorem State.keeps_addOp (s : State) (o : Op) : s.Keeps (s.addOp o) :=
  have hops : s.Keeps { s with nextOp := s.nextOp + 1, ops := s.ops ++ [o] } := ⟨.of_eq rfl, rfl, rfl, rfl, rfl, rfl⟩
  hops.trans (State.keeps_modWarp _ o.gid o.wid _)

/-- Operand queues are popped (R79). -/
theorem State.keeps_popQueue (s : State) (e : Env) (n : Nat) : s.Keeps (s.popQueue e n).1 :=
  s.keeps_modGroup e.g.gid fun _ => .of_lanes rfl rfl rfl rfl rfl rfl

theorem State.keeps_popArgs (s : State) (e : Env) (args : List Arg) : s.Keeps (s.popArgs e args).1 := by
  induction args generalizing s with
  | nil => exact .refl s
  | cons a as ih =>
    unfold State.popArgs
    split
    · rename_i heq
      cases heq
    · rename_i heq
      cases heq
      exact (s.keeps_popQueue e _).trans (ih _)
    · rename_i heq
      cases heq
      exact ih s

/-- Random draws are taken (R93). -/
theorem State.keeps_advance (s : State) (e : Env) (k : Nat) : s.Keeps (s.advance e k) := by
  unfold State.advance
  split
  · exact .refl s
  · exact s.keeps_modLanes _ _ fun _ _ => ⟨rfl, rfl, rfl, rfl, rfl, rfl, rfl⟩

/-- Destinations are to become undefined (R31). -/
theorem State.keeps_undefine (s : State) (e : Env) (o : Op) (dst : List Nat) (tag : Nat) : s.Keeps (s.undefine e o dst tag) :=
  (s.keeps_addOp _).trans (State.keeps_renew _)

theorem State.keeps_undefineLost (s : State) (e : Env) (o : Op) (dst : List Nat) (tag : Nat) : s.Keeps (s.undefineLost e o dst tag) := by
  unfold State.undefineLost
  dsimp only
  split
  · exact .refl s
  · exact s.keeps_undefine _ _ _ _

/-! ### The error log leaves the groups -/

theorem State.touchLine_groups (s : State) (line : Nat) : (s.touchLine line).groups = s.groups := by
  have hclean : ∀ t : State, (t.cleanLine line).groups = t.groups := fun t => by
    unfold State.cleanLine
    split
    · split
      · dsimp only [State.setCells]
      · rfl
    · rfl
  unfold State.touchLine
  split
  · rfl
  · split
    · rfl
    · dsimp only [State.coin]
      split
      · exact hclean _
      · rfl

theorem State.fillLine_groups (s : State) (line : Nat) : (s.fillLine line).groups = s.groups := by
  unfold State.fillLine
  split <;> rfl

theorem State.backInvalidate_groups (s : State) (line : Nat) : (s.backInvalidate line).groups = s.groups := by
  unfold State.backInvalidate
  split <;> rfl

theorem State.writeHome_groups (s : State) (a n v : Nat) : (s.writeHome a n v).groups = s.groups := by
  have hfill : ((((s.noteWrite a n).backInvalidate (lineOf a)).touchLine (lineOf a)).fillLine (lineOf a)).groups = s.groups := by
    rw [State.fillLine_groups, State.touchLine_groups, State.backInvalidate_groups]
    rfl
  unfold State.writeHome
  dsimp only
  split
  · exact hfill
  · exact hfill

theorem State.setPoisonFor_groups (s : State) (below : Bool) (a : Nat) (b : Bool) : (s.setPoisonFor below a b).groups = s.groups := by
  unfold State.setPoisonFor State.setPoison
  split
  · rfl
  · split <;> rfl

theorem State.clearCovered_groups (s : State) (below : Bool) (spans : List (Nat × Nat)) : (s.clearCovered below spans).groups = s.groups := by
  unfold State.clearCovered
  dsimp only
  generalize List.filter _ _ = secs
  induction secs generalizing s with
  | nil => rfl
  | cons k ks ih =>
    rw [List.foldl_cons, ih]
    split
    · exact State.setPoisonFor_groups _ _ _ _
    · rfl

theorem State.logError_groups (s : State) (code ctx : Nat) (retake ended taint : Bool) (path take addr : Nat) :
    (s.logError code ctx retake ended taint path take addr).groups = s.groups := by
  unfold State.logError
  dsimp only
  split
  · rfl
  · split
    · rw [State.setField_groups]
    · split
      · rw [State.raiseMsi_groups, State.setField_groups, State.clearCovered_groups, State.writeHome_groups]
      · rw [State.setField_groups, State.clearCovered_groups, State.writeHome_groups]

/-! ### The frame of an issue -/

/-- No take is ending. -/
def State.NoneEnding (s : State) : Prop := ∀ k ∈ s.takes, k.err = none ∧ k.hwErr = none

/-- What an issue that writes no register and no memory leaves: groups are kept, and memory and device registers too where no take is
ending (R470 lets a later error of a take write its log entry). -/
structure State.IssueFrame (s t : State) : Prop where
  groups : s.GroupsKept t
  store : s.NoneEnding → s.StoreKept t

theorem State.Keeps.frame {s t : State} (h : s.Keeps t) : s.IssueFrame t := ⟨h.groups, fun _ => h.store⟩

theorem State.IssueFrame.refl (s : State) : s.IssueFrame s := (State.Keeps.refl s).frame

theorem State.IssueFrame.trans_keeps {s t u : State} (h : s.IssueFrame t) (k : t.Keeps u) : s.IssueFrame u :=
  ⟨h.groups.trans k.groups, fun hs => (h.store hs).trans k.store⟩

/-- A program error notes the take's end in the take and the warp; a later one writes the error log (R465, R466, R470). -/
theorem State.frame_progError (s : State) (gid wid code : Nat) (lanes : List Nat) (addr : Nat) (write : Bool) :
    s.IssueFrame (s.progError gid wid code lanes addr write) := by
  unfold State.progError
  split
  · exact .refl s
  · split
    · exact .refl s
    · rename_i t ht
      split
      · exact .refl s
      · split
        · rename_i herr
          refine ⟨.of_eq (s.logError_groups _ _ _ _ _ _ _ _), fun hs => ?_⟩
          rw [(hs t (List.mem_of_find?_eq_some ht)).1] at herr
          cases herr
        · have htake : ∀ f, s.Keeps (s.modTake t.tid f) := fun _ => ⟨.of_eq rfl, rfl, rfl, rfl, rfl, rfl⟩
          exact ((htake _).trans (State.keeps_modWarp _ gid wid _)).frame

theorem State.frame_fail (s : State) (e : Env) (code : Nat) (lanes : List Nat) (addr : Nat) (write : Bool) :
    s.IssueFrame (s.fail e code lanes addr write) := by
  unfold State.fail
  split
  · exact .refl s
  · exact s.frame_progError _ _ _ _ _ _

theorem State.frame_withEnv (s : State) (h : Hdr) {k k' : Env → State} (hk : ∀ e, s.IssueFrame (k e)) (hk' : ∀ e, s.IssueFrame (k' e)) :
    s.IssueFrame (s.withEnv h k k') := by
  rcases s.withEnv_cases h k k' with h0 | ⟨e, _, ⟨_, h0⟩ | ⟨_, h0⟩⟩
  · rw [h0]
    exact .refl s
  · rw [h0]
    exact hk e
  · rw [h0]
    exact hk' e

theorem State.frame_checked (s : State) (h : Hdr) (codes : Env → List Nat) {k k' : Env → State} (hk : ∀ e, s.IssueFrame (k e))
    (hk' : ∀ e, s.IssueFrame (k' e)) : s.IssueFrame (s.checked h codes k k') := by
  refine s.frame_withEnv h (fun e => ?_) (fun e => ?_)
  · split
    · exact s.frame_fail _ _ _ _ _
    · exact hk e
  · split
    · exact .refl s
    · exact hk' e

/-! ### The fixed-latency words -/

/-- The shared frame of fixed-latency instructions (R31, R225): queues are popped, an operation goes in flight and draws are taken, or a
tag check fails (R69). -/
theorem State.frame_fixedQ (s : State) (h : Hdr) (i : Instr) (dst : List Nat) (args : List Arg) (lat : Env → Nat)
    (out : State → Env → List (List (Word × Nat)) → List Row → Writes) : s.IssueFrame (s.fixedQ h i dst args lat out) := by
  have hlaunch : ∀ (e : Env) (o : Op), s.IssueFrame (((s.popArgs e args).1.addOp o).advance e (Instr.draws i)) := fun e o =>
    (((s.keeps_popArgs e args).trans (State.keeps_addOp _ o)).trans (State.keeps_advance _ e _)).frame
  unfold State.fixedQ
  extract_lets act
  have hact : ∀ e, s.IssueFrame (act e) := fun e => by
    dsimp only [act]
    split
    · split
      · exact hlaunch e _
      · exact hlaunch e _
    · exact s.frame_fail _ _ _ _ _
  exact s.frame_checked h _ hact hact

theorem State.frame_fixed (s : State) (h : Hdr) (i : Instr) (dst : List Nat) (args : List Arg) (lat : Env → Nat)
    (out : State → Env → List Row → Writes) : s.IssueFrame (s.fixed h i dst args lat out) :=
  s.frame_fixedQ h i dst args lat _

/-- A sum of a warp, with what its shadows find (R108, R258). -/
theorem State.frame_reduce (s : State) (h : Hdr) (i : Instr) (op : RedOp) (ty : Ty) (sat : Bool) (rnd : Rnd) (d : Reg) (a : Src)
    (cover : Nat → Nat → Bool) : s.IssueFrame (s.reduce h i op ty sat rnd d a cover) :=
  (s.frame_fixed h i _ _ _ _).trans_keeps (State.keeps_modOp _ _ _)

/-- A floating-point instruction, with what its shadows find (R108, R261). -/
theorem State.frame_fpu (s : State) (h : Hdr) (i : Instr) (k : Shadow) (ty : Ty) (abs neg : Nat) (d : Reg) (srcs : List Src)
    (f : Nat → List Nat → FRes) : s.IssueFrame (s.fpu h i k ty abs neg d srcs f) :=
  (s.frame_fixed h i _ _ _ _).trans_keeps (State.keeps_modOp _ _ _)

/-- A function that a stack core lacks, where the warp stands on a core or the word names a queue (R161, R162). -/
theorem State.frame_coreFun (s : State) (h : Hdr) (i : Instr) (lat : Nat) (o : FunOps) (f : Nat → Nat → FRes)
    (hc : (∃ n, o.a = .q n) ∨ ∀ e, s.env h.guard = some e → e.g.onStack = false) : s.IssueFrame (s.coreFun h i lat o f) := by
  have hfun : s.IssueFrame (s.special1 h i lat o f) := s.frame_fixed h i _ _ _ _
  unfold State.coreFun
  split
  · exact hfun
  · rename_i hq
    cases he : s.env h.guard with
    | none =>
      rw [State.coreOnly, he]
      exact .refl s
    | some e =>
      have hcore := hc.resolve_left (fun ⟨n, hn⟩ => hq n hn) e he
      exact State.coreOnly_of he hcore ▸ hfun

/-- The move of SMOV and SMOV.ST (R251). -/
theorem State.frame_smovAt (s : State) (e : Env) (h : Hdr) (i : Instr) (ty : Ty) (haz : Bool) (d a : Int) :
    s.IssueFrame (s.smovAt e h i ty haz d a) := by
  unfold State.smovAt
  extract_lets k
  split
  · exact s.frame_fail _ _ _ _ _
  · exact (s.keeps_addOp _).frame

/-- A move between s registers, or undefined destinations where no lane has read its guard in time. -/
theorem State.frame_smov (s : State) (e lost : Env) (h : Hdr) (i : Instr) (ty : Ty) (haz : Bool) (d a : Int) (o : Op) (dst : List Nat)
    (tag : Nat) : s.IssueFrame (if e.sure then s.smovAt e h i ty haz d a else s.undefineLost lost o dst tag) := by
  split
  · exact s.frame_smovAt e h i ty haz d a
  · exact (s.keeps_undefineLost _ _ _ _).frame

/-- FLAGS.SET and FLAGS.CLR (R279). -/
theorem State.frame_flagsOp (s : State) (h : Hdr) (i : Instr) (o : DaOps) : s.IssueFrame (s.flagsOp h i o) := by
  refine s.frame_checked h _ (fun e => ?_) (fun e => (s.keeps_undefineLost _ _ _ _).frame)
  dsimp only
  split
  · exact ((s.keeps_addOp _).trans (State.keeps_undefineLost _ _ _ _ _)).frame
  · exact s.frame_fail _ _ _ _ _

theorem State.frame_alu (s : State) (h : Hdr) (i : Instr) (lat : Nat) (wide : Bool) (d : Reg) (args : List Arg) (f : List Opnd → Res) :
    s.IssueFrame (s.alu h i lat wide d args f) :=
  s.frame_fixed h i _ args _ _

theorem State.frame_aluP (s : State) (h : Hdr) (i : Instr) (lat pd : Nat) (args : List Arg) (f : List Opnd → Bool) :
    s.IssueFrame (s.aluP h i lat pd args f) :=
  s.frame_fixed h i _ args _ _

/-- PRES (R302): its operands and addresses are checked, and one operation goes in flight. -/
theorem State.frame_pres {s t : State} {h : Hdr} {o : PresOps} (hx : execPres h o s = .next t) : s.IssueFrame t := by
  cases hx
  refine s.frame_checked h _ (fun e => ?_) fun _ => .refl s
  dsimp only
  split
  · exact s.frame_fail _ _ _ _ _
  · exact (((s.keeps_popArgs e _).trans (State.keeps_addOp _ _)).trans (State.keeps_undefineLost _ _ _ _ _)).frame

/-! ### The frame in the words of the statement -/

theorem State.GroupsKept.gids {s t : State} (h : s.GroupsKept t) : t.groups.map Group.gid = s.groups.map Group.gid := by
  obtain ⟨f, hf, ht⟩ := h
  rw [ht, List.map_map]
  exact List.map_congr_left fun g _ => (hf g).gid

theorem State.GroupsKept.kept {s t : State} (h : s.GroupsKept t) {k : Nat} {g g' : Group} (hg : s.groups[k]? = some g)
    (hg' : t.groups[k]? = some g') : g.Kept g' := by
  obtain ⟨f, hf, ht⟩ := h
  rw [ht, List.getElem?_map, hg] at hg'
  cases hg'
  exact hf g

theorem State.IssueFrame.of_next {s u t : State} (hx : Host.Outcome.next u = (Host.Outcome.next t : Outcome)) (hu : s.IssueFrame u) :
    s.IssueFrame t := by
  cases hx
  exact hu

/-- On a stack core the functions that it lacks raise the return trap, but for a queue operand (R161, R162, R165). -/
theorem State.coreFun_stack {s : State} {h : Hdr} {i : Instr} {lat : Nat} {o : FunOps} {f : Nat → Nat → FRes} {e : Env}
    (he : s.env h.guard = some e) (ha : e.act ≠ []) (hs : e.g.onStack = true) (hq : ∀ n, o.a ≠ .q n) :
    s.coreFun h i lat o f = s.returnTrap e := by
  unfold State.coreFun
  split
  · rename_i n hn
    exact absurd hn (hq n)
  · exact State.coreOnly_stack he ha hs

end Sys2Proof.Machine

namespace Sys2Proof

open Sys2Proof.Machine

/-- Settles O23: each word goes by one of the issue frames above, whatever its operands, and the frame says what is kept. -/
theorem fixedLatencyIssueFrame : Obligations.FixedLatencyIssueFrame := by
  refine ⟨fun i s t hi hx => ?_, fun s h o e he ha hs hq => ?_⟩
  · have hframe : s.IssueFrame t := by
      cases i
      case iadd | isub | imul | imulh | imad | imadw | imin | imax | iabs | ineg | idot4 | and | or | xor | not | lop3 | shl | shr | sha |
          rot | shf | popc | clz | brev | bfe | bfi | isel | lea | mov | movi | fclass | tagset | tagget =>
        exact .of_next hx (s.frame_alu _ _ _ _ _ _ _)
      case isetp | psetp => exact .of_next hx (s.frame_aluP _ _ _ _ _ _)
      case psetpG | spr | push | vote | matchLanes | rng | fmin | fmax | fsetp | frcp | frsq | fsqrt | cvt | pack | unpack | qnt | dqnt |
          flags | kvmask =>
        exact .of_next hx (s.frame_fixed _ _ _ _ _ _)
      case shfl | permb | vslide | ubcast => exact .of_next hx (s.frame_fixedQ _ _ _ _ _ _)
      case redW | scanW => exact .of_next hx (s.frame_reduce _ _ _ _ _ _ _ _ _)
      case fadd | fsub | fmul | ffma | hadd2 | hfma2 => exact .of_next hx (s.frame_fpu _ _ _ _ _ _ _ _ _)
      case fex2 | flg2 | fsin | fcos => exact .of_next hx (s.frame_coreFun _ _ _ _ _ hi)
      case smov | smovSt =>
        refine .of_next hx (s.frame_checked _ _ (fun e => ?_) fun e => (s.keeps_undefineLost _ _ _ _).frame)
        exact s.frame_smov _ _ _ _ _ _ _ _ _ _ _
      case flagsSet | flagsClr => exact .of_next hx (s.frame_flagsOp _ _ _)
      case gset | gclr => exact .of_next hx (s.frame_withEnv _ (fun e => (s.keeps_addOp _).frame) fun _ => .refl s)
      case pres => exact State.frame_pres hx
      all_goals exact hi.elim
    refine ⟨hframe.groups.gids, fun k _ g g' hg hg' => ?_, fun hs => ?_⟩
    · obtain ⟨_, hs, hbanks, htiles, hguards, hlength, hlane⟩ := hframe.groups.kept hg hg'
      refine ⟨hs, hbanks, htiles, hguards, hlength, fun j => ?_⟩
      obtain ⟨hpc, hv, hp, hfp, hloops, hdepth, hat⟩ := hlane j
      exact ⟨hpc, hv, hp, hfp, hloops, hdepth, hat⟩
    · obtain ⟨hmem, hl2, hl1, hregs, hpoison⟩ := hframe.store hs
      exact ⟨hmem, hl2, hl1, hregs, hpoison⟩
  · have htrap : ∀ i lat f, (Host.Outcome.next (s.coreFun h i lat o f) : Outcome) = .next (s.returnTrap e) := fun _ _ _ =>
      congrArg _ (State.coreFun_stack he ha hs hq)
    exact ⟨htrap _ _ _, htrap _ _ _, htrap _ _ _, htrap _ _ _⟩

end Sys2Proof
end

section
/-!
SUPPORT. Every step has a next state.
-/

namespace Sys2Proof

namespace Machine

/-- Every row of the dispatch has a meaning, and every meaning answers with a next state. -/
theorem exec_answers (i : Instr) (s : State) : ∃ t, exec i s = .next t := by
  cases i <;> exact ⟨_, rfl⟩

end Machine

/-- Settles O14: a step settles, or executes one row of the dispatch. -/
theorem everyStepAnswers : Obligations.EveryStepAnswers := by
  intro s
  unfold Machine.step
  cases s.nextMove with
  | run i t => exact Machine.exec_answers i t
  | settle t => exact ⟨t, rfl⟩

end Sys2Proof
end

section
/-!
SUPPORT. Registers and flags stay listed under rising numbers: sparse maps, groups with their lanes and warps, and the shared operations.
-/

namespace Sys2Proof.Claims

open Sys2Proof.Machine

/-! ### Sparse maps whose keys rise -/

section Maps

theorem Rising.nil {α : Type} : Rising ([] : NMap α) := List.Pairwise.nil

theorem Rising.filter {α : Type} {m : NMap α} (hm : Rising m) (p : Nat × α → Bool) : Rising (m.filter p) :=
  List.Pairwise.sublist (List.filter_sublist.map Prod.fst) hm

variable {α : Type} [DecidableEq α]

/-- A write lists no key but its own and those that were listed. -/
theorem mem_keys_put {d v : α} {m : NMap α} {i k : Nat} (hk : k ∈ (NMap.put d m i v).map Prod.fst) : k = i ∨ k ∈ m.map Prod.fst := by
  induction m with
  | nil =>
    unfold NMap.put at hk
    split at hk
    · exact .inr hk
    · exact .inl (by simpa using hk)
  | cons e m ih =>
    unfold NMap.put at hk
    split at hk
    · split at hk
      · exact .inr hk
      · exact List.mem_cons.1 hk
    · split at hk
      · split at hk
        · exact .inr (List.mem_cons_of_mem _ hk)
        · exact (List.mem_cons.1 hk).imp id (List.mem_cons_of_mem _)
      · rcases List.mem_cons.1 hk with h | h
        · exact .inr (List.mem_cons.2 (.inl h))
        · exact (ih h).imp id (List.mem_cons_of_mem _)

/-- A write keeps the order of the keys. -/
theorem Rising.put {m : NMap α} (hm : Rising m) (d : α) (i : Nat) (v : α) : Rising (NMap.put d m i v) := by
  induction m with
  | nil =>
    unfold NMap.put
    split
    · exact hm
    · exact List.pairwise_singleton _ _
  | cons e m ih =>
    obtain ⟨hlow, hrest⟩ := List.pairwise_cons.1 hm
    unfold NMap.put
    split
    · rename_i hlt
      split
      · exact hm
      · refine List.pairwise_cons.2 ⟨fun k hk => ?_, hm⟩
        rcases List.mem_cons.1 hk with h | h
        · exact h ▸ hlt
        · exact hlt.trans (hlow k h)
    · split
      · rename_i heq
        split
        · exact hrest
        · exact List.pairwise_cons.2 ⟨fun k hk => heq ▸ hlow k hk, hrest⟩
      · rename_i hlt hne
        refine List.pairwise_cons.2 ⟨fun k hk => ?_, ih hrest⟩
        rcases mem_keys_put hk with h | h
        · exact h ▸ Nat.lt_of_le_of_ne (Nat.le_of_not_lt hlt) (Ne.symm hne)
        · exact hlow k h

theorem Rising.putAll {m : NMap α} (hm : Rising m) (d : α) (es : List (Nat × α)) : Rising (NMap.putAll d m es) := by
  induction es generalizing m with
  | nil => exact hm
  | cons e es ih => exact ih (hm.put d _ _)

end Maps

/-! ### Groups -/

/-- A group's s registers, its lanes' v registers and its warps' completion flags are listed under rising numbers. -/
structure ListedGroup (g : Group) : Prop where
  s : Rising g.s
  lanes : ∀ l ∈ g.lanes, Rising l.v
  warps : ∀ w ∈ g.warps, Rising w.flags

theorem ListedGroup.of_eq {g k : Group} (hg : ListedGroup g) (hs : k.s = g.s) (hl : k.lanes = g.lanes) (hw : k.warps = g.warps) :
    ListedGroup k :=
  ⟨hs ▸ hg.s, hl ▸ hg.lanes, hw ▸ hg.warps⟩

theorem ListedGroup.ite {c : Prop} {_ : Decidable c} {g k : Group} (hg : ListedGroup g) (hk : ListedGroup k) :
    ListedGroup (if c then g else k) := by
  split
  · exact hg
  · exact hk

/-- A lane read by its place is one of the group's, or none. -/
theorem ListedGroup.lane {g : Group} (hg : ListedGroup g) (i : Nat) : Rising (g.lane i).v := by
  unfold Group.lane
  rw [List.getD_eq_getElem?_getD]
  cases hi : g.lanes[i]? with
  | none => exact Rising.nil
  | some l => exact hg.lanes l (List.mem_of_getElem? hi)

theorem ListedGroup.findWarp {g : Group} (hg : ListedGroup g) {wid : Nat} {w : Warp} (hw : g.findWarp wid = some w) : Rising w.flags :=
  hg.warps w (List.mem_of_find?_eq_some hw)

/-- A list is still of one kind once an element has changed. -/
theorem forall_mem_modify {α : Type} {P : α → Prop} {f : α → α} (hf : ∀ x, P x → P (f x)) (xs : List α) (i : Nat) (hx : ∀ x ∈ xs, P x) :
    ∀ x ∈ xs.modify i f, P x := by
  intro x hm
  obtain ⟨j, hj⟩ := List.mem_iff_getElem?.1 hm
  rw [List.getElem?_modify] at hj
  obtain ⟨y, hy, rfl⟩ := Option.map_eq_some_iff.1 hj
  have hP := hx y (List.mem_of_getElem? hy)
  split
  · exact hf y hP
  · exact hP

theorem ListedGroup.modLane {g : Group} (hg : ListedGroup g) (i : Nat) {f : Lane → Lane} (hf : ∀ l : Lane, Rising l.v → Rising (f l).v) :
    ListedGroup (g.modLane i f) :=
  ⟨hg.s, forall_mem_modify hf _ _ hg.lanes, hg.warps⟩

theorem ListedGroup.modLanes {g : Group} (hg : ListedGroup g) (ls : List Nat) {f : Nat → Lane → Lane}
    (hf : ∀ i (l : Lane), Rising l.v → Rising (f i l).v) : ListedGroup (g.modLanes ls f) := by
  induction ls generalizing g with
  | nil => exact hg
  | cons i is ih => exact ih (hg.modLane i (hf i))

theorem ListedGroup.modWarp {g : Group} (hg : ListedGroup g) (wid : Nat) {f : Warp → Warp}
    (hf : ∀ w : Warp, Rising w.flags → Rising (f w).flags) :
    ListedGroup (g.modWarp wid f) := by
  refine ⟨hg.s, hg.lanes, fun w hw => ?_⟩
  obtain ⟨u, hu, rfl⟩ := List.mem_map.1 hw
  split
  · exact hf u (hg.warps u hu)
  · exact hg.warps u hu

theorem ListedGroup.foldl {β : Type} {f : Group → β → Group} (hf : ∀ g b, ListedGroup g → ListedGroup (f g b)) (xs : List β) {g : Group}
    (hg : ListedGroup g) : ListedGroup (xs.foldl f g) := by
  induction xs generalizing g with
  | nil => exact hg
  | cons x xs ih => exact ih (hf _ _ hg)

/-- A register write (R68, R70, R72). -/
theorem ListedGroup.write {g : Group} (hg : ListedGroup g) (w : RegW) : ListedGroup (g.write w) := by
  unfold Group.write
  split
  · exact hg.modLane _ fun l hl => hl.put _ _ _
  · split
    · exact ⟨hg.s.put _ _ _, hg.lanes, hg.warps⟩
    · split
      · exact hg.modLane _ fun _ hl => hl
      · exact hg

theorem ListedGroup.writes {g : Group} (hg : ListedGroup g) (ws : List RegW) : ListedGroup (g.writes ws) :=
  ListedGroup.foldl (fun _ w h => h.write w) ws hg

theorem ListedGroup.writesAt {g : Group} (hg : ListedGroup g) (now ord : Nat) (ws : List RegW) : ListedGroup (g.writesAt now ord ws) :=
  (hg.writes _).of_eq rfl rfl rfl

theorem ListedGroup.map_lanes {g k : Group} (hg : ListedGroup g) {f : Lane → Lane} (hf : ∀ l : Lane, Rising l.v → Rising (f l).v)
    (hs : k.s = g.s) (hl : k.lanes = g.lanes.map f) (hw : k.warps = g.warps) : ListedGroup k := by
  refine ⟨hs ▸ hg.s, fun l hm => ?_, hw ▸ hg.warps⟩
  rw [hl] at hm
  obtain ⟨x, hx, rfl⟩ := List.mem_map.1 hm
  exact hf x (hg.lanes x hx)

theorem ListedGroup.map_warps {g k : Group} (hg : ListedGroup g) {f : Warp → Warp} (hf : ∀ w : Warp, Rising w.flags → Rising (f w).flags)
    (hs : k.s = g.s) (hl : k.lanes = g.lanes) (hw : k.warps = g.warps.map f) : ListedGroup k := by
  refine ⟨hs ▸ hg.s, hl ▸ hg.lanes, fun w hm => ?_⟩
  rw [hw] at hm
  obtain ⟨x, hx, rfl⟩ := List.mem_map.1 hm
  exact hf x (hg.warps x hx)

/-- Lanes that go on keep their registers (R423). -/
theorem ListedGroup.unpark {g : Group} (hg : ListedGroup g) (no : Nat) : ListedGroup (g.unpark no) := by
  refine hg.map_lanes (fun l hl => ?_) rfl rfl rfl
  split
  · exact hl
  · exact hl

theorem ListedGroup.grow {g : Group} (hg : ListedGroup g) (pro full : Allot) : ListedGroup (g.grow pro full) := by
  refine hg.map_lanes (fun l hl => ?_) rfl rfl rfl
  split
  · exact hl
  · exact hl

theorem ListedGroup.barred {g : Group} (hg : ListedGroup g) (k : Nat) (ls : List Nat) : ListedGroup (g.barred k ls) :=
  ⟨hg.s, hg.lanes, fun w hw => by
    obtain ⟨x, hx, rfl⟩ := List.mem_map.1 hw
    exact hg.warps x hx⟩

theorem ListedGroup.setGuard {g : Group} (hg : ListedGroup g) (n : Nat) (v : Bool) : ListedGroup (g.setGuard n v) := by
  unfold Group.setGuard
  split
  · exact hg
  · exact hg.of_eq rfl rfl rfl

/-- The outcome of a WSPLICE in its lanes (R55). -/
theorem ListedGroup.outcome {g : Group} (hg : ListedGroup g) (w : Warp) (code : Nat) : ListedGroup (g.outcome w code) := by
  refine ListedGroup.foldl (fun _ _ h => ?_) _ hg
  exact ListedGroup.modLane ((h.write _).write _) _ fun _ hl => hl

/-- Warps that take their slots keep their flags (R40). -/
theorem rising_seatWarps (width : Nat) (spans : List Span) (ws : List Warp) (taken : List (Nat × Nat)) (hw : ∀ w ∈ ws, Rising w.flags) :
    ∀ w ∈ seatWarps width spans ws taken, Rising w.flags := by
  induction ws generalizing taken with
  | nil => exact hw
  | cons x xs ih =>
    intro w hm
    rcases List.mem_cons.1 hm with h | h
    · exact h ▸ hw x List.mem_cons_self
    · exact ih _ (fun y hy => hw y (List.mem_cons_of_mem _ hy)) w h

theorem ListedGroup.seat {g : Group} (hg : ListedGroup g) (s : State) (p : Place) (spans : List Span) : ListedGroup (s.seat g p spans) :=
  ⟨hg.s, hg.lanes, rising_seatWarps _ _ _ _ hg.warps⟩

/-- A group as it begins: its s registers read 0, and its warps' flags are 0 (R40). -/
theorem ListedGroup.newGroup (gid take : Nat) (kind : GroupKind) (groupId rank warps width cut order fresh : Nat) (a : Allot) (full : Bool)
    {lanes : List Lane} (hl : ∀ l ∈ lanes, Rising l.v) :
    ListedGroup (newGroup gid take kind groupId rank warps width cut order fresh a full lanes) := by
  refine ⟨Rising.nil, hl, fun w hm => ?_⟩
  obtain ⟨k, _, rfl⟩ := List.mem_map.1 hm
  exact Rising.nil

/-! ### Lanes and warps -/

theorem Rising.issued {l : Lane} (hl : Rising l.v) (next waits : Nat) (pair : Bool) : Rising (l.issued next waits pair).v := hl

theorem Rising.older {l : Lane} (hl : Rising l.v) : Rising l.older.v := hl

theorem Rising.blockAt {l : Lane} (hl : Rising l.v) (a : LaneAt) : Rising (l.blockAt a).v := by
  unfold Lane.blockAt
  split
  · exact hl
  · exact hl

theorem Rising.addFlag {w : Warp} (hw : Rising w.flags) (f : Nat) : Rising (w.addFlag f).flags := by
  unfold Warp.addFlag
  split
  · exact hw
  · exact hw.put _ _ _

theorem Rising.subFlag {w : Warp} (hw : Rising w.flags) (f : Nat) : Rising (w.subFlag f).flags := by
  unfold Warp.subFlag
  split
  · exact hw
  · exact hw.put _ _ _

theorem Rising.wrote {w : Warp} (hw : Rising w.flags) (us : List MUnit) : Rising (w.wrote us).flags := hw

theorem Rising.coverWrites {w : Warp} (hw : Rising w.flags) (n : Nat) : Rising (w.coverWrites n).flags := hw

theorem Rising.forget {w : Warp} (hw : Rising w.flags) (n : Nat) : Rising (w.forget n).flags := hw
theorem Rising.half {w : Warp} (hw : Rising w.flags) (upper : Bool) (wid slot other : Nat) :
    Rising (w.half upper wid slot other).flags := hw

theorem Rising.relink {w : Warp} (hw : Rising w.flags) (u l : Nat) : Rising (w.relink u l).flags := hw

theorem Rising.join (l u : Warp) : Rising (l.join u).flags := Rising.nil

theorem Rising.freeLane {l : Lane} (hl : Rising l.v) (s : State) (g : Group) (i : Nat) : Rising (s.freeLane g i l).v := hl

theorem Rising.freeWarp (s : State) (k : Nat) (w : Warp) : Rising (s.freeWarp k w).flags := Rising.nil.putAll _ _

theorem Rising.newLane (pc key : BitVec 64) (home : Nat) : Rising (newLane pc key home).v := Rising.nil

theorem Rising.calleeLane (pc : Nat) (c : Lane) (xs : List Nat) : Rising (calleeLane pc c xs).v := (Rising.nil.putAll _ _).putAll _ _

/-! ### The device -/

theorem listed_iff {s : State} : Listed s ↔ Rising s.regs ∧ ∀ g ∈ s.groups, ListedGroup g :=
  and_congr_right fun _ => forall₂_congr fun _ _ => ⟨fun ⟨hs, hl, hw⟩ => ⟨hs, hl, hw⟩, fun ⟨hs, hl, hw⟩ => ⟨hs, hl, hw⟩⟩

theorem Listed.regs {s : State} (hs : Listed s) : Rising s.regs := hs.1

theorem Listed.groups {s : State} (hs : Listed s) : ∀ g ∈ s.groups, ListedGroup g := (listed_iff.1 hs).2

/-- Only device registers and groups count. -/
theorem Listed.of_eq {s t : State} (hs : Listed s) (hr : t.regs = s.regs) (hg : t.groups = s.groups) : Listed t := by
  simpa only [Listed, hr, hg] using hs

theorem Listed.ite {c : Prop} {_ : Decidable c} {s t : State} (hs : Listed s) (ht : Listed t) : Listed (if c then s else t) := by
  split
  · exact hs
  · exact ht

/-- As `Listed.ite`, for the state of a pair. -/
theorem Listed.ite_fst {c : Prop} {_ : Decidable c} {β : Type} {x y : State × β} (hx : Listed x.1) (hy : Listed y.1) :
    Listed (if c then x else y).1 := by
  split
  · exact hx
  · exact hy

/-- Device registers of one state with the groups of another. -/
theorem Listed.of_parts {s t u : State} (hs : Listed s) (ht : Listed t) (hr : u.regs = s.regs) (hg : u.groups = t.groups) : Listed u :=
  ⟨hr ▸ hs.1, hg ▸ ht.2⟩

/-- Each group changes. -/
theorem Listed.map_groups {s t : State} (hs : Listed s) {f : Group → Group} (hf : ∀ g, ListedGroup g → ListedGroup (f g))
    (hr : t.regs = s.regs) (hg : t.groups = s.groups.map f) : Listed t := by
  refine listed_iff.2 ⟨hr ▸ hs.regs, fun g hm => ?_⟩
  rw [hg] at hm
  obtain ⟨k, hk, rfl⟩ := List.mem_map.1 hm
  exact hf k (hs.groups k hk)

/-- Groups leave. -/
theorem Listed.filter_groups {s t : State} (hs : Listed s) {p : Group → Bool} (hr : t.regs = s.regs) (hg : t.groups = s.groups.filter p) :
    Listed t := by
  refine listed_iff.2 ⟨hr ▸ hs.regs, fun g hm => ?_⟩
  rw [hg] at hm
  exact hs.groups g (List.mem_of_mem_filter hm)

/-- A group comes. -/
theorem Listed.append_group {s t : State} (hs : Listed s) {g : Group} (hl : ListedGroup g)
    (hr : t.regs = s.regs) (hg : t.groups = s.groups ++ [g]) :
    Listed t := by
  refine listed_iff.2 ⟨hr ▸ hs.regs, fun k hm => ?_⟩
  rw [hg] at hm
  rcases List.mem_append.1 hm with h | h
  · exact hs.groups k h
  · exact List.mem_singleton.1 h ▸ hl

theorem Listed.ofSome {s : State} (hs : Listed s) : ∀ t, some s = some t → Listed t := fun _ ht => Option.some.inj ht ▸ hs

theorem listed_of_none : ∀ t : State, none = some t → Listed t := fun _ ht => nomatch ht

theorem Listed.or {o p : Option State} (ho : ∀ t, o = some t → Listed t) (hp : ∀ t, p = some t → Listed t) :
    ∀ t, o.or p = some t → Listed t := by
  cases o with
  | none => exact hp
  | some s => exact ho

theorem Listed.bind {β : Type} {o : Option β} {f : β → Option State} (hf : ∀ b, o = some b → ∀ t, f b = some t → Listed t) :
    ∀ t, o.bind f = some t → Listed t := by
  cases o with
  | none => exact listed_of_none
  | some b => exact hf b rfl

theorem Listed.map {β : Type} {o : Option β} {f : β → State} (hf : ∀ b, o = some b → Listed (f b)) :
    ∀ t, o.map f = some t → Listed t := by
  cases o with
  | none => exact listed_of_none
  | some b => exact (hf b rfl).ofSome

theorem Listed.coin {s : State} (hs : Listed s) : Listed s.coin.2 := hs.of_eq rfl rfl

theorem Listed.elim {β : Type} {o : Option β} {s : State} {f : β → State} (hs : Listed s) (hf : ∀ b, o = some b → Listed (f b)) :
    Listed (o.elim s f) := by
  cases o with
  | none => exact hs
  | some b => exact hf b rfl

theorem Listed.getD {o : Option State} {s : State} (ho : ∀ t, o = some t → Listed t) (hs : Listed s) : Listed (o.getD s) := by
  cases o with
  | none => exact hs
  | some t => exact ho t rfl

/-- What every element of a list keeps, the list keeps. -/
theorem Listed.foldl {β : Type} {f : State → β → State} (hf : ∀ s b, Listed s → Listed (f s b)) (xs : List β) {s : State} (hs : Listed s) :
    Listed (xs.foldl f s) := by
  induction xs generalizing s with
  | nil => exact hs
  | cons x xs ih => exact ih (hf _ _ hs)

/-- As `Listed.foldl`, where the state goes along with other data. -/
theorem Listed.foldl_fst {β γ : Type} {f : State × γ → β → State × γ} (hf : ∀ q b, Listed q.1 → Listed (f q b).1) (xs : List β)
    {q : State × γ} (hq : Listed q.1) : Listed (xs.foldl f q).1 := by
  induction xs generalizing q with
  | nil => exact hq
  | cons x xs ih => exact ih (hf _ _ hq)

theorem Listed.findGroup {s : State} (hs : Listed s) {gid : Nat} {g : Group} (hg : s.findGroup gid = some g) : ListedGroup g :=
  hs.groups g (List.mem_of_find?_eq_some hg)

theorem Listed.setReg {s : State} (hs : Listed s) (off : Nat) (v : BitVec 64) : Listed (s.setReg off v) :=
  ⟨hs.regs.put _ _ _, hs.2⟩

theorem Listed.modGroup {s : State} (hs : Listed s) (gid : Nat) {f : Group → Group} (hf : ∀ g, ListedGroup g → ListedGroup (f g)) :
    Listed (s.modGroup gid f) := by
  refine listed_iff.2 ⟨hs.regs, fun g hg => ?_⟩
  obtain ⟨k, hk, rfl⟩ := List.mem_map.1 hg
  split
  · exact hf k (hs.groups k hk)
  · exact hs.groups k hk

theorem Listed.modWarp {s : State} (hs : Listed s) (gid wid : Nat) {f : Warp → Warp}
    (hf : ∀ w : Warp, Rising w.flags → Rising (f w).flags) :
    Listed (s.modWarp gid wid f) :=
  hs.modGroup gid fun _ hg => hg.modWarp wid hf

theorem Listed.modLanes {s : State} (hs : Listed s) (gid : Nat) (ls : List Nat) {f : Nat → Lane → Lane}
    (hf : ∀ i (l : Lane), Rising l.v → Rising (f i l).v) : Listed (s.modLanes gid ls f) :=
  hs.modGroup gid fun _ hg => hg.modLanes ls hf

/-- The group of an issue is one of the device's. -/
theorem Listed.env {s : State} (hs : Listed s) {q : Guard} {e : Env} (he : s.env q = some e) : ListedGroup e.g := by
  unfold State.env at he
  split at he
  · cases he
  · split at he
    · cases he
    · rename_i g hg
      split at he
      · cases he
      · cases he
        exact hs.findGroup hg

end Sys2Proof.Claims
end

section
/-!
SUPPORT. Registers and flags stay listed: the caches, translation, stops, operations in flight, and fixed latency.
-/

namespace Sys2Proof.Claims

open Sys2Proof.Machine

/-! ### Device registers and translation -/

theorem Listed.renew {s : State} (hs : Listed s) : Listed s.renew := by
  unfold State.renew
  exact hs.of_eq rfl rfl

theorem Listed.setField {s : State} (hs : Listed s) (off a n v : Nat) : Listed (s.setField off a n v) := by
  unfold State.setField
  exact hs.setReg _ _

theorem Listed.setCells {s : State} (hs : Listed s) (a n x : Nat) : Listed (s.setCells a n x) := by
  unfold State.setCells
  exact hs.of_eq rfl rfl

theorem Listed.keepPointers {s : State} (hs : Listed s) (ps : List TlbEntry) : Listed (s.keepPointers ps) := by
  unfold State.keepPointers
  exact hs.of_eq rfl rfl

theorem Listed.noteLeaf {s : State} (hs : Listed s) (ctx va : Nat) (l : Leaf) : Listed (s.noteLeaf ctx va l) := by
  unfold State.noteLeaf
  split
  · exact hs
  · exact hs.of_eq rfl rfl

theorem Listed.keepFresh {s : State} (hs : Listed s) (ctx va : Nat) (k : AccKind) : Listed (s.keepFresh ctx va k) := by
  unfold State.keepFresh
  dsimp only
  split
  · exact hs.keepPointers _
  · split
    · exact hs.keepPointers _
    · exact (hs.keepPointers _).noteLeaf _ _ _

theorem Listed.translate {s : State} (hs : Listed s) (agent ctx va : Nat) (k : AccKind) : Listed (s.translate agent ctx va k).1 := by
  unfold State.translate
  dsimp only
  split
  · exact hs.keepPointers _
  · split
    · exact hs.keepPointers _
    · exact ((hs.keepPointers _).noteLeaf _ _ _).of_eq rfl rfl
  · split
    · exact hs
    · split
      · exact hs.coin
      · split
        · exact hs.coin
        · exact hs.coin

/-! ### HBM4E and the caches -/

theorem Listed.setPoisonBelow {s : State} (hs : Listed s) (sec : Nat) (b : Bool) : Listed (s.setPoisonBelow sec b) := by
  unfold State.setPoisonBelow
  exact hs.of_eq rfl rfl

theorem Listed.cleanLine {s : State} (hs : Listed s) (line : Nat) : Listed (s.cleanLine line) := by
  unfold State.cleanLine State.setCells
  split
  · exact .ite (hs.of_eq rfl rfl) hs
  · exact hs

theorem Listed.dropLine {s : State} (hs : Listed s) (line : Nat) : Listed (s.dropLine line) := by
  unfold State.dropLine
  exact hs.of_eq rfl rfl

theorem Listed.evictLine {s : State} (hs : Listed s) (line : Nat) : Listed (s.evictLine line) := by
  unfold State.evictLine
  exact (hs.cleanLine _).dropLine _

theorem Listed.touchLine {s : State} (hs : Listed s) (line : Nat) : Listed (s.touchLine line) := by
  unfold State.touchLine
  dsimp only
  split
  · exact hs
  · split
    · exact hs
    · exact (hs.coin.evictLine _).ite hs.coin

theorem Listed.fillLine {s : State} (hs : Listed s) (line : Nat) : Listed (s.fillLine line) := by
  unfold State.fillLine
  split
  · exact hs
  · exact hs.of_eq rfl rfl

theorem Listed.readHome {s : State} (hs : Listed s) (a n : Nat) : Listed (s.readHome a n).1 := by
  unfold State.readHome
  exact (hs.touchLine _).fillLine _

theorem Listed.noteWrite {s : State} (hs : Listed s) (a n : Nat) : Listed (s.noteWrite a n) := by
  unfold State.noteWrite
  exact hs.of_eq rfl rfl

theorem Listed.backInvalidate {s : State} (hs : Listed s) (line : Nat) : Listed (s.backInvalidate line) := by
  unfold State.backInvalidate
  split
  · exact hs.of_eq rfl rfl
  · exact hs

theorem Listed.writeHome {s : State} (hs : Listed s) (a n v : Nat) : Listed (s.writeHome a n v) := by
  unfold State.writeHome
  dsimp only
  split
  · exact (((hs.noteWrite _ _).backInvalidate _).touchLine _).fillLine _
  · exact ((((hs.noteWrite _ _).backInvalidate _).touchLine _).fillLine _).of_eq rfl rfl

theorem Listed.readBelow {s : State} (hs : Listed s) (a n : Nat) : Listed (s.readBelow a n).1 := by
  unfold State.readBelow
  exact hs.touchLine _

theorem Listed.writeBelow {s : State} (hs : Listed s) (a n v : Nat) : Listed (s.writeBelow a n v) := by
  unfold State.writeBelow
  exact ((hs.noteWrite _ _).touchLine _).setCells _ _ _

theorem Listed.setPoison {s : State} (hs : Listed s) (a : Nat) (b : Bool) : Listed (s.setPoison a b) := by
  unfold State.setPoison
  split
  · exact hs.setPoisonBelow _ _
  · exact hs.of_eq rfl rfl

theorem Listed.setPoisonFor {s : State} (hs : Listed s) (below : Bool) (a : Nat) (b : Bool) : Listed (s.setPoisonFor below a b) := by
  unfold State.setPoisonFor
  exact (hs.setPoisonBelow _ _).ite (hs.setPoison _ _)

theorem Listed.clearCovered {s : State} (hs : Listed s) (below : Bool) (spans : List (Nat × Nat)) : Listed
    (s.clearCovered below spans) := by
  unfold State.clearCovered
  exact Listed.foldl (fun _ _ h1 => (h1.setPoisonFor _ _ _).ite h1) _ hs

theorem Listed.invalidateL1 {s : State} (hs : Listed s) (c : Nat) : Listed (s.invalidateL1 c) := by
  unfold State.invalidateL1
  exact hs.of_eq rfl rfl

theorem Listed.dropL1 {s : State} (hs : Listed s) (c line : Nat) : Listed (s.dropL1 c line) := by
  unfold State.dropL1
  exact hs.of_eq rfl rfl

theorem Listed.trimL1 {s : State} (hs : Listed s) (c : Nat) : Listed (s.trimL1 c) := by
  unfold State.trimL1
  exact hs.ite (hs.invalidateL1 _)

theorem Listed.readCore {s : State} (hs : Listed s) (c a n hint : Nat) (tol : Bool) : Listed (s.readCore c a n hint tol).1 := by
  unfold State.readCore
  have ht := hs.trimL1 c
  dsimp only
  generalize s.trimL1 c = t at ht ⊢
  split
  · rename_i d _
    have hu : Listed (if t.asHome (lineOf a) d then (true, t) else t.coin).2 := by
      split
      · exact ht
      · exact ht.coin
    generalize (if t.asHome (lineOf a) d then (true, t) else t.coin) = q at hu ⊢
    split
    · exact hu
    · exact (hu.dropL1 _ _).readHome _ _
  · have hu := ht.readHome a n
    generalize t.readHome a n = q at hu ⊢
    refine .ite_fst hu (.ite_fst (.ite_fst hu (hu.of_eq rfl rfl)) (hu.of_eq rfl rfl))

theorem Listed.writeCore {s : State} (hs : Listed s) (c a n v : Nat) : Listed (s.writeCore c a n v) := by
  unfold State.writeCore
  refine Listed.writeHome ?_ _ _ _
  dsimp only
  split
  · exact hs
  · exact hs.of_eq rfl rfl

/-! ### Stops, operations in flight and lanes -/

theorem Listed.modTake {s : State} (hs : Listed s) (tid : Nat) (f : Take → Take) : Listed (s.modTake tid f) := by
  unfold State.modTake
  exact hs.of_eq rfl rfl

theorem Listed.modCtx {s : State} (hs : Listed s) (id : Nat) (f : Ctx → Ctx) : Listed (s.modCtx id f) := by
  unfold State.modCtx
  exact hs.of_eq rfl rfl

theorem Listed.withEnv {s : State} {k : Env → State} {k' : Env → State} (hs : Listed s) (h : Hdr) (hk : ∀ x0, Listed (k x0))
    (hk' : ∀ x0, Listed (k' x0)) : Listed (s.withEnv h k k') := by
  unfold State.withEnv
  split
  · exact hs
  · split
    · split
      · exact hs
      · exact hk' _
    · exact hk _

theorem Listed.addOp {s : State} (hs : Listed s) (o : Op) : Listed (s.addOp o) := by
  unfold State.addOp
  refine Listed.modWarp ?_ _ _ (fun _ h1 => h1.addFlag _)
  exact hs.of_eq rfl rfl

theorem Listed.modOp {s : State} (hs : Listed s) (id : Nat) (f : Op → Op) : Listed (s.modOp id f) := by
  unfold State.modOp
  exact hs.of_eq rfl rfl

theorem Listed.dropOp {s : State} (hs : Listed s) (id : Nat) : Listed (s.dropOp id) := by
  unfold State.dropOp
  exact hs.of_eq rfl rfl

theorem Listed.applyWrites {s : State} (hs : Listed s) (o : Op) : Listed (s.applyWrites o) := by
  unfold State.applyWrites
  refine Listed.modGroup ?_ _ (fun _ h1 => ?_)
  · exact hs.of_eq rfl rfl
  · refine ListedGroup.foldl (fun _ _ h11 => ?_) _ (h1.writesAt _ _ _)
    exact h11.modLane _ (fun _ h12 => h12)

theorem Listed.raiseMsi {s : State} (hs : Listed s) (v : Nat) : Listed (s.raiseMsi v) := by
  unfold State.raiseMsi
  exact hs.of_eq rfl rfl

theorem Listed.logError {s : State} (hs : Listed s) (code ctx : Nat) (retake ended taint : Bool) (path take addr : Nat) : Listed
    (s.logError code ctx retake ended taint path take addr) := by
  unfold State.logError
  dsimp only
  split
  · exact hs
  · split
    · exact hs.setField _ _ _ _
    · split
      · exact (((hs.writeHome _ _ _).clearCovered _ _).setField _ _ _ _).raiseMsi _
      · exact ((hs.writeHome _ _ _).clearCovered _ _).setField _ _ _ _

theorem Listed.progError {s : State} (hs : Listed s) (gid wid code : Nat) (lanes : List Nat) (addr : Nat) (write : Bool) : Listed
    (s.progError gid wid code lanes addr write) := by
  unfold State.progError
  split
  · exact hs
  · split
    · exact hs
    · split
      · exact hs
      · split
        · exact hs.logError _ _ _ _ _ _ _ _
        · exact (hs.modTake _ _).modWarp _ _ (fun _ h1 => h1)

theorem Listed.fail {s : State} (hs : Listed s) (e : Env) (code : Nat) (lanes : List Nat) (addr : Nat) (write : Bool) : Listed
    (s.fail e code lanes addr write) := by
  unfold State.fail
  exact hs.ite (hs.progError _ _ _ _ _ _)

theorem Listed.hwError {s : State} (hs : Listed s) (tid code path addr : Nat) : Listed (s.hwError tid code path addr) := by
  unfold State.hwError
  split
  · exact hs
  · exact (hs.logError _ _ _ _ _ _ _ _).ite (hs.modTake _ _)

theorem Listed.addStop {s : State} (hs : Listed s) (g : Group) (w : Warp) (kind : StopKind) (code : Nat) (lanes : List Nat)
    (pc addr : Nat) (write : Bool) : Listed (s.addStop g w kind code lanes pc addr write).1 := by
  unfold State.addStop
  dsimp only
  split
  · exact hs
  · split
    · exact hs.modCtx _ _
    · exact hs.progError _ _ _ _ _ _

theorem Listed.checkGrow {s : State} (hs : Listed s) (gid : Nat) : Listed (s.checkGrow gid) := by
  unfold State.checkGrow
  dsimp only
  split
  · exact hs
  · split
    · refine Listed.of_eq (hs.modGroup _ (fun _ h1 => ?_)) rfl rfl
      exact h1.of_eq rfl rfl rfl
    · exact hs

theorem Listed.park {s : State} (hs : Listed s) (e : Env) (lanes : List Nat) (code addr : Nat) (write : Bool) :
    Listed (s.park e lanes code addr write) := by
  unfold State.park
  split
  · exact hs
  · refine Listed.checkGrow (Listed.modLanes (hs.addStop _ _ _ _ _ _ _ _) _ _ fun i l hl => ?_) _
    split
    · exact hl
    · exact hl

theorem Listed.returnTrap {s : State} (hs : Listed s) (e : Env) : Listed (s.returnTrap e) := by
  unfold State.returnTrap
  refine Listed.modWarp ?_ _ _ (fun _ h1 => h1)
  refine hs.modLanes _ _ (fun _ _ h1 => ?_)
  split
  · exact h1
  · exact h1

theorem Listed.checkHalt {s : State} (hs : Listed s) (gid wid : Nat) : Listed (s.checkHalt gid wid) := by
  unfold State.checkHalt
  dsimp only
  split
  · exact hs
  · split
    · exact hs
    · split
      · split
        · exact (hs.addStop _ _ _ _ _ _ _ _).modWarp _ _ (fun _ h1 => h1)
        · exact hs
      · exact hs

theorem Listed.checkHaltCtx {s : State} (hs : Listed s) (ctx : Nat) : Listed (s.checkHaltCtx ctx) := by
  unfold State.checkHaltCtx
  dsimp only
  split
  · exact hs
  · exact (hs.modCtx _ _).ite hs

theorem Listed.endOp {s : State} (hs : Listed s) (o : Op) : Listed (s.endOp o) := by
  unfold State.endOp
  refine Listed.checkHaltCtx ?_ _
  refine Listed.foldl (fun _ _ h1 => h1.checkHalt _ _) _ ?_
  exact (hs.dropOp _).modWarp _ _ (fun _ h1 => h1.subFlag _)

theorem Listed.finishOp {s : State} (hs : Listed s) (o : Op) : Listed (s.finishOp o) := by
  unfold State.finishOp
  exact (hs.applyWrites _).endOp _

theorem Listed.unsettle {s : State} (hs : Listed s) (o : Op) (codes : List Nat) : Listed (s.unsettle o codes) := by
  unfold State.unsettle
  exact hs.modLanes _ _ (fun _ _ h1 => h1)

theorem Listed.endStop {s : State} (hs : Listed s) (ctx : Nat) (x : Stop) : Listed (s.endStop ctx x) := by
  have hc := hs.modCtx ctx fun c => { c with stops := c.stops.filter fun y => y != x }
  unfold State.endStop
  dsimp only
  split
  · exact hc.modGroup _ fun _ hg => hg.unpark _
  · refine hc.modGroup _ fun _ hg => ListedGroup.modLanes (ListedGroup.modWarp hg _ fun _ hw => ?_) _ fun _ _ hl => ?_
    · exact hw
    · exact hl

theorem Listed.retire {s : State} (hs : Listed s) (gid : Nat) (lanes : List Nat) : Listed (s.retire gid lanes) := by
  unfold State.retire
  refine Listed.checkGrow ?_ _
  exact hs.modLanes _ _ (fun _ _ h1 => h1)

theorem Listed.sendReplies {s : State} (hs : Listed s) (g : Group) (lanes : List Nat) (words : Nat → List (Option Word)) : Listed
    (s.sendReplies g lanes words) := by
  unfold State.sendReplies
  dsimp only
  split
  · exact hs.modOp _ _
  · exact hs

theorem Listed.settleError {s : State} (hs : Listed s) (g : Group) (code path addr : Nat) : Listed (s.settleError g code path addr) := by
  unfold State.settleError
  dsimp only
  split
  · exact hs.hwError _ _ _ _
  · exact (hs.hwError _ _ _ _).ite (hs.hwError _ _ _ _)

theorem Listed.settleLanes {s : State} {k : State → List Nat → State} (hs : Listed s) (e : Env) (fails : List (Nat × Nat × Nat))
    (write : Bool) (path : Nat) (hk : ∀ t x1, Listed t → Listed (k t x1)) : Listed (s.settleLanes e fails write path k) := by
  unfold State.settleLanes
  dsimp only
  split
  · exact hs.settleError _ _ _ _
  · exact hs.fail _ _ _ _ _
  · exact hk _ _ hs
  · split
    · exact hs.returnTrap _
    · exact hk _ _ (hs.park _ _ _ _ _)

theorem Listed.checked {s : State} {k : Env → State} {k' : Env → State} (hs : Listed s) (h : Hdr) (codes : Env → List Nat)
    (hk : ∀ x0, Listed (k x0)) (hk' : ∀ x0, Listed (k' x0)) : Listed (s.checked h codes k k') := by
  unfold State.checked
  refine hs.withEnv _ (fun _ => ?_) (fun _ => ?_)
  · split
    · exact hs.fail _ _ _ _ _
    · exact hk _
  · split
    · exact hs
    · exact hk' _

/-! ### Operands -/

theorem Listed.popQueue {s : State} (hs : Listed s) (e : Env) (n : Nat) : Listed (s.popQueue e n).1 := by
  unfold State.popQueue
  refine hs.modGroup _ (fun _ h1 => ?_)
  exact h1.of_eq rfl rfl rfl

theorem Listed.popArgs {s : State} (hs : Listed s) (e : Env) (args : List Arg) : Listed (s.popArgs e args).1 := by
  induction args generalizing s with
  | nil => exact hs
  | cons a as ih =>
    unfold State.popArgs
    split
    · rename_i heq
      cases heq
    · rename_i heq
      cases heq
      exact ih (hs.popQueue e _)
    · rename_i heq
      cases heq
      exact ih hs

theorem Listed.readRows {s : State} (hs : Listed s) (e : Env) (args : List Arg) : Listed (s.readRows e args).1 := by
  unfold State.readRows
  exact hs.popArgs _ _

theorem Listed.undefine {s : State} (hs : Listed s) (e : Env) (o : Op) (dst : List Nat) (tag : Nat) : Listed (s.undefine e o dst tag) := by
  unfold State.undefine
  exact (hs.addOp _).renew

theorem Listed.undefineLost {s : State} (hs : Listed s) (e : Env) (o : Op) (dst : List Nat) (tag : Nat) : Listed
    (s.undefineLost e o dst tag) := by
  unfold State.undefineLost
  exact hs.ite (hs.undefine _ _ _ _)

theorem Listed.advance {s : State} (hs : Listed s) (e : Env) (k : Nat) : Listed (s.advance e k) := by
  unfold State.advance
  split
  · exact hs
  · exact hs.modLanes _ _ (fun _ _ h1 => h1)

theorem Listed.fixedQ {s : State} (hs : Listed s) (h : Hdr) (i : Instr) (dst : List Nat) (args : List Arg) (lat : Env → Nat)
    (out : State → Env → List (List (Word × Nat)) → List Row → Writes) : Listed (s.fixedQ h i dst args lat out) := by
  unfold State.fixedQ
  refine hs.checked _ _ (fun _ => ?_) (fun _ => ?_)
  · dsimp only
    split
    · split
      · exact ((hs.popArgs _ _).addOp _).advance _ _
      · exact ((hs.popArgs _ _).addOp _).advance _ _
    · exact hs.fail _ _ _ _ _
  · dsimp only
    split
    · split
      · exact ((hs.popArgs _ _).addOp _).advance _ _
      · exact ((hs.popArgs _ _).addOp _).advance _ _
    · exact hs.fail _ _ _ _ _

theorem Listed.fixed {s : State} (hs : Listed s) (h : Hdr) (i : Instr) (dst : List Nat) (args : List Arg) (lat : Env → Nat)
    (out : State → Env → List Row → Writes) : Listed (s.fixed h i dst args lat out) := by
  unfold State.fixed
  exact hs.fixedQ _ _ _ _ _ _

theorem Listed.alu {s : State} (hs : Listed s) (h : Hdr) (i : Instr) (lat : Nat) (wide : Bool) (d : Reg) (args : List Arg)
    (f : List Opnd → Res) : Listed (s.alu h i lat wide d args f) := by
  unfold State.alu
  exact hs.fixed _ _ _ _ _ _

theorem Listed.aluP {s : State} (hs : Listed s) (h : Hdr) (i : Instr) (lat pd : Nat) (args : List Arg) (f : List Opnd → Bool) : Listed
    (s.aluP h i lat pd args f) := by
  unfold State.aluP
  exact hs.fixed _ _ _ _ _ _

/-! ### Fetch and script entries -/

theorem Listed.translateFor {s : State} (hs : Listed s) (g : Group) (va : Nat) (k : AccKind) : Listed (s.translateFor g va k).1 := by
  unfold State.translateFor
  exact hs.translate _ _ _ _

theorem Listed.fetchLine {s : State} (hs : Listed s) (g : Group) (pc : Nat) : Listed (s.fetchLine g pc).1 := by
  unfold State.fetchLine
  dsimp only
  split
  · exact hs
  · split
    · exact hs.translateFor _ _ _
    · split
      · exact hs.translateFor _ _ _
      · exact hs.translateFor _ _ _

theorem Listed.fetchScript {s : State} (hs : Listed s) (g : Group) (va n : Nat) : Listed (s.fetchScript g va n).1 := by
  induction n generalizing s g va with
  | zero =>
    unfold State.fetchScript
    exact hs
  | succ n ih =>
    unfold State.fetchScript
    dsimp only
    split
    · exact hs.translateFor _ _ _
    · split
      · exact hs.translateFor _ _ _
      · split
        · exact ih (hs.translateFor _ _ _) _ _
        · exact ih (hs.translateFor _ _ _) _ _

theorem Listed.readEntry {s : State} (hs : Listed s) (g : Group) (t : Take) (ix : Nat) : Listed (s.readEntry g t ix).1 := by
  unfold State.readEntry
  dsimp only
  split
  · exact hs.fetchScript _ _ _
  · exact (hs.fetchScript _ _ _).modTake _ _

theorem Listed.scriptEntry {s : State} (hs : Listed s) (g : Group) (ix : Nat) : Listed (s.scriptEntry g ix).1 := by
  unfold State.scriptEntry
  split
  · exact hs
  · split
    · split
      · split
        · exact hs.of_eq rfl rfl
        · refine Listed.readEntry ?_ _ _ _
          exact hs.of_eq rfl rfl
      · exact hs
    · exact hs.readEntry _ _ _

theorem Listed.fetchTargets {s : State} (hs : Listed s) (g : Group) (ok : Line → Nat → Bool) (ys : List (Nat × Nat)) : Listed
    (s.fetchTargets g ok ys).1 := by
  induction ys generalizing s with
  | nil =>
    unfold State.fetchTargets
    exact hs
  | cons x xs ih =>
    unfold State.fetchTargets
    exact ih (hs.fetchLine _ _)

/-! ### Accesses -/

theorem Listed.copyLine {s : State} (hs : Listed s) (a b : Nat) : Listed (s.copyLine a b) := by
  have hd := (hs.cleanLine (lineOf a)).dropLine (lineOf b)
  unfold State.copyLine State.setCells
  exact hd.of_eq rfl rfl

theorem Listed.writeDirectory {s : State} (hs : Listed s) (a : Nat) : Listed (s.writeDirectory a) := by
  unfold State.writeDirectory
  refine Listed.renew ?_
  exact Listed.foldl (fun _ _ h1 => h1.setCells _ _ _) _ (hs.evictLine _)

theorem Listed.copyGranule {s : State} (hs : Listed s) (tid gran : Nat) : Listed (s.copyGranule tid gran) := by
  unfold State.copyGranule
  dsimp only
  split
  · exact hs
  · split
    · refine Listed.modTake ?_ _ _
      refine Listed.setField ?_ _ _ _ _
      refine Listed.writeDirectory ?_ _
      exact Listed.foldl (fun _ _ h1 => h1.copyLine _ _) _ hs
    · exact hs.modTake _ _

theorem Listed.transAcc {s : State} (hs : Listed s) (g : Group) (va : Nat) (k : AccKind) : Listed (s.transAcc g va k).1 := by
  unfold State.transAcc
  dsimp only
  split
  · exact hs.translateFor _ _ _
  · split
    · exact hs.translateFor _ _ _
    · split
      · exact hs.translateFor _ _ _
      · exact hs.translateFor _ _ _

theorem Listed.tolerate {s : State} (hs : Listed s) (pa : Nat) : Listed (s.tolerate pa) := by
  unfold State.tolerate
  exact (hs.setField _ _ _ _).setField _ _ _ _

theorem Listed.modBank {s : State} (hs : Listed s) (g b : Nat) (f : Bank → Bank) : Listed (s.modBank g b f) := by
  unfold State.modBank
  refine hs.modGroup _ (fun _ h1 => ?_)
  exact h1.of_eq rfl rfl rfl

theorem Listed.readUnit {s : State} (hs : Listed s) (v : Via) (u : MUnit) : Listed (s.readUnit v u).1 := by
  unfold State.readUnit
  dsimp only
  split
  · exact hs
  · split
    · split
      · exact (hs.readCore _ _ _ _ _).tolerate _
      · split
        · exact (hs.readCore _ _ _ _ _).renew
        · exact hs.readCore _ _ _ _ _
    · split
      · exact (hs.readHome _ _).tolerate _
      · split
        · exact (hs.readHome _ _).renew
        · exact hs.readHome _ _
    · split
      · split
        · exact (hs.readHome _ _).tolerate _
        · split
          · exact (hs.readHome _ _).renew
          · exact hs.readHome _ _
      · split
        · exact (hs.readBelow _ _).tolerate _
        · split
          · exact (hs.readBelow _ _).renew
          · exact hs.readBelow _ _

theorem Listed.writeUnit {s : State} (hs : Listed s) (v : Via) (u : MUnit) (x : Nat) : Listed (s.writeUnit v u x) := by
  unfold State.writeUnit
  split
  · exact hs.modBank _ _ _
  · split
    · exact hs.writeCore _ _ _ _
    · exact hs.writeHome _ _ _
    · exact (hs.writeHome _ _ _).ite (hs.writeBelow _ _ _)

theorem Listed.readUnits {s : State} (hs : Listed s) (v : Via) (ys : List MUnit) : Listed (s.readUnits v ys).1 := by
  induction ys generalizing s with
  | nil =>
    unfold State.readUnits
    exact hs
  | cons x xs ih =>
    unfold State.readUnits
    refine ih ?_
    dsimp only
    split
    · exact Listed.of_parts hs (hs.readUnit _ _) rfl rfl
    · exact hs.readUnit _ _

theorem Listed.writeUnits {s : State} (hs : Listed s) (v : Via) (ys : List MUnit) (n : Nat) : Listed (s.writeUnits v ys n) := by
  induction ys generalizing s v n with
  | nil =>
    unfold State.writeUnits
    exact hs
  | cons x xs ih =>
    unfold State.writeUnits
    exact ih (hs.writeUnit _ _ _) _ _

/-! ### Control flow -/

theorem Listed.goTo {s : State} (hs : Listed s) (e : Env) (ts : List (Nat × Nat)) (prio : Option (BitVec 8)) : Listed
    (s.goTo e ts prio) := by
  unfold State.goTo
  exact hs.modLanes _ _ (fun _ _ h1 => h1)

theorem Listed.jump {s : State} {k : State → List Nat → State} (hs : Listed s) (e : Env) (fails : List (Nat × Nat × Nat)) (faults : List
    (Nat × List Nat)) (write : Bool) (hk : ∀ t x1, Listed t → Listed (k t x1)) : Listed (s.jump e fails faults write k) := by
  unfold State.jump
  split
  · exact hs.fail _ _ _ _ _
  · exact hs.fail _ _ _ _ _
  · refine hs.settleLanes _ _ _ _ (fun _ _ h1 => ?_)
    exact hk _ _ h1

theorem Listed.branch {s : State} {k : State → List (Nat × Nat) → State} (hs : Listed s) (e : Env) (ok : Line → Nat → Bool) (ts : List
    (Nat × Nat)) (hk : ∀ t x1, Listed t → Listed (k t x1)) : Listed (s.branch e ok ts k) := by
  unfold State.branch
  refine (hs.fetchTargets _ _ _).jump _ _ _ _ (fun _ _ h1 => ?_)
  exact hk _ _ h1

theorem Listed.branchReg {s : State} {k : State → List (Nat × Nat) → State} (hs : Listed s) (e : Env) (ok : Line → Nat → Bool)
    (ts : List (Nat × Nat × Bool)) (faults : List (Nat × List Nat)) (hk : ∀ t x1, Listed t → Listed (k t x1)) : Listed
    (s.branchReg e ok ts faults k) := by
  unfold State.branchReg
  refine (hs.fetchTargets _ _ _).jump _ _ _ _ (fun _ _ h1 => ?_)
  exact hk _ _ h1

theorem Listed.pairTargets {s : State} {k : Env → State → List (Nat × Nat × Bool) → List (Nat × List Nat) → State} (hs : Listed s)
    (h : Hdr) (va : Nat) (hk : ∀ x0 t x2 x3, Listed t → Listed (k x0 t x2 x3)) : Listed (s.pairTargets h va k) := by
  unfold State.pairTargets
  refine hs.checked _ _ (fun _ => ?_) (fun _ => hs)
  exact hk _ _ _ _ (hs.readRows _ _)

theorem Listed.frames {s : State} (hs : Listed s) (e : Env) (k : AccKind) (depth : Nat → Nat) (ys : List Nat) : Listed
    (s.frames e k depth ys).1 := by
  induction ys generalizing s with
  | nil =>
    unfold State.frames
    exact hs
  | cons x xs ih =>
    unfold State.frames
    dsimp only
    split
    · exact ih (hs.transAcc _ _ _)
    · exact ih (hs.transAcc _ _ _)

theorem Listed.copyAll {s : State} (hs : Listed s) (tid : Nat) (ls : List Loc) : Listed (s.copyAll tid ls) := by
  induction ls generalizing s with
  | nil => exact hs
  | cons l ls ih =>
    cases l with
    | bank g b off => exact ih hs
    | mem a pg =>
      refine ih ?_
      split
      · exact hs.copyGranule _ _
      · exact hs

theorem Listed.callLanes {s : State} (hs : Listed s) (e : Env) (prio : BitVec 8) (ts : List (Nat × Nat × Bool)) (faults : List
    (Nat × List Nat)) : Listed (s.callLanes e prio ts faults) := by
  unfold State.callLanes
  refine ((hs.fetchTargets _ _ _).frames _ _ _ _).jump _ _ _ _ (fun _ _ h1 => ?_)
  refine Listed.modLanes ?_ _ _ (fun _ _ h11 => h11)
  refine Listed.goTo ?_ _ _ _
  exact Listed.foldl (fun _ _ h11 => h11.writeUnits _ _ _) _ (h1.copyAll _ _)

theorem Listed.readFrames {s : State} (hs : Listed s) (e : Env) (ys : List (Nat × Loc × Nat)) : Listed (s.readFrames e ys).1 := by
  induction ys generalizing s with
  | nil =>
    unfold State.readFrames
    exact hs
  | cons x xs ih =>
    unfold State.readFrames
    exact ih (hs.readUnits _ _)

theorem Listed.retLanes {s : State} (hs : Listed s) (e : Env) (act : List Nat) (faults : List (Nat × List Nat)) : Listed
    (s.retLanes e act faults) := by
  unfold State.retLanes
  dsimp only
  split
  · exact ((hs.frames _ _ _ _).readFrames _ _).hwError _ _ _ _
  · refine (((hs.frames _ _ _ _).readFrames _ _).fetchTargets _ _ _).jump _ _ _ _ (fun _ _ h1 => ?_)
    exact h1.modLanes _ _ (fun _ _ h11 => h11)

theorem Listed.block {s : State} (hs : Listed s) (e : Env) (lanes : List Nat) (f : Nat → LaneAt) : Listed (s.block e lanes f) := by
  unfold State.block
  exact hs.modLanes _ _ (fun _ _ h1 => h1.blockAt _)

theorem Listed.userTrap {s : State} (hs : Listed s) (e : Env) (code : Nat) : Listed (s.userTrap e code) := by
  unfold State.userTrap
  refine Listed.checkHalt ?_ _ _
  exact hs.modWarp _ _ (fun _ h1 => h1)

/-! ### Fixed latency -/

theorem Listed.int2 {s : State} (hs : Listed s) (h : Hdr) (i : Instr) (lat : Nat) (o : Int2) (f : Int → Int → Int) : Listed
    (s.int2 h i lat o f) := by
  unfold State.int2
  exact hs.alu _ _ _ _ _ _ _

theorem Listed.int1 {s : State} (hs : Listed s) (h : Hdr) (i : Instr) (o : Int1) (f : Int → Int) : Listed (s.int1 h i o f) := by
  unfold State.int1
  exact hs.alu _ _ _ _ _ _ _

theorem Listed.logic2 {s : State} (hs : Listed s) (h : Hdr) (i : Instr) (o : Int2) (f : Nat → Nat → Nat) : Listed (s.logic2 h i o f) := by
  unfold State.logic2
  exact hs.alu _ _ _ _ _ _ _

theorem Listed.logic1 {s : State} (hs : Listed s) (h : Hdr) (i : Instr) (o : Int1) (f : Nat → Nat) : Listed (s.logic1 h i o f) := by
  unfold State.logic1
  exact hs.alu _ _ _ _ _ _ _

theorem Listed.shift {s : State} (hs : Listed s) (h : Hdr) (i : Instr) (o : Int2) (f : Nat → Nat → Nat → Nat) : Listed
    (s.shift h i o f) := by
  unfold State.shift
  exact hs.alu _ _ _ _ _ _ _

theorem Listed.smovAt {s : State} (hs : Listed s) (e : Env) (h : Hdr) (i : Instr) (ty : Ty) (haz : Bool) (d a : Int) : Listed
    (s.smovAt e h i ty haz d a) := by
  unfold State.smovAt
  exact (hs.fail _ _ _ _ _).ite (hs.addOp _)

/-! ### Across lanes -/

theorem Listed.reduce {s : State} (hs : Listed s) (h : Hdr) (i : Instr) (op : RedOp) (ty : Ty) (sat : Bool) (rnd : Rnd) (d : Reg)
    (a : Src) (cover : Nat → Nat → Bool) : Listed (s.reduce h i op ty sat rnd d a cover) := by
  unfold State.reduce
  exact (hs.fixed _ _ _ _ _ _).modOp _ _

/-! ### Floating point -/

theorem Listed.fpu {s : State} (hs : Listed s) (h : Hdr) (i : Instr) (k : Shadow) (ty : Ty) (abs neg : Nat) (d : Reg) (srcs : List Src)
    (f : Nat → List Nat → FRes) : Listed (s.fpu h i k ty abs neg d srcs f) := by
  unfold State.fpu
  exact (hs.fixed _ _ _ _ _ _).modOp _ _

theorem Listed.fminmax {s : State} (hs : Listed s) (h : Hdr) (i : Instr) (o : FMinOps) (max : Bool) : Listed (s.fminmax h i o max) := by
  unfold State.fminmax
  exact hs.fixed _ _ _ _ _ _

theorem Listed.special1 {s : State} (hs : Listed s) (h : Hdr) (i : Instr) (lat : Nat) (o : FunOps) (f : Nat → Nat → FRes) : Listed
    (s.special1 h i lat o f) := by
  unfold State.special1
  exact hs.fixed _ _ _ _ _ _

theorem Listed.coreOnly {s : State} {k : State} (hs : Listed s) (hk : Listed k) (h : Hdr) : Listed (s.coreOnly h k) := by
  unfold State.coreOnly
  split
  · exact hs
  · split
    · exact hs.ite (hs.returnTrap _)
    · exact hk

theorem Listed.coreFun {s : State} (hs : Listed s) (h : Hdr) (i : Instr) (lat : Nat) (o : FunOps) (f : Nat → Nat → FRes) : Listed
    (s.coreFun h i lat o f) := by
  unfold State.coreFun
  split
  · exact hs.special1 _ _ _ _ _
  · exact hs.coreOnly (hs.special1 _ _ _ _ _) _

/-! ### Conversions -/

theorem Listed.flagsOp {s : State} (hs : Listed s) (h : Hdr) (i : Instr) (o : DaOps) : Listed (s.flagsOp h i o) := by
  unfold State.flagsOp
  refine hs.checked _ _ (fun _ => ?_) (fun _ => hs.undefineLost _ _ _ _)
  dsimp only
  split
  · exact (hs.addOp _).undefineLost _ _ _ _
  · exact hs.fail _ _ _ _ _

end Sys2Proof.Claims
end

section
/-!
SUPPORT. Registers and flags stay listed: memory operations, engines, tensors, copies, barriers.
-/

namespace Sys2Proof.Claims

open Sys2Proof.Machine

/-! ### Loads, stores and atomics -/

theorem Listed.acquireAt {s : State} (hs : Listed s) (g : Group) (scope : Nat) : Listed (s.acquireAt g scope) := by
  unfold State.acquireAt
  exact hs.ite (hs.invalidateL1 _)

theorem Listed.launch {s : State} (hs : Listed s) (e : Env) (o : Op) : Listed (s.launch e o) := by
  unfold State.launch
  refine Listed.addOp ?_ _
  refine Listed.modTake ?_ _ _
  dsimp only
  split
  · exact hs.modWarp _ _ (fun _ h1 => h1.wrote _)
  · exact hs

theorem Listed.locUnit {s : State} (hs : Listed s) (g : Group) (sp : Space) (k : AccKind) (lane addr n : Nat) : Listed
    (s.locUnit g sp k lane addr n).1 := by
  unfold State.locUnit
  dsimp only
  split
  · exact hs
  · exact hs.transAcc _ _ _

theorem Listed.locLane {s : State} (hs : Listed s) (g : Group) (sp : Space) (k : AccKind) (lane addr : Nat) (ys : List
    (Nat × Nat)) : Listed (s.locLane g sp k lane addr ys).1 := by
  induction ys generalizing s with
  | nil =>
    unfold State.locLane
    exact hs
  | cons x xs ih =>
    unfold State.locLane
    dsimp only
    split
    · exact ih (hs.locUnit _ _ _ _ _ _)
    · exact ih (hs.locUnit _ _ _ _ _ _)
    · exact ih (hs.locUnit _ _ _ _ _ _)

theorem Listed.locLanes {s : State} (hs : Listed s) (g : Group) (sp : Space) (k : AccKind) (us ys : List (Nat × Nat)) : Listed
    (s.locLanes g sp k us ys).1 := by
  induction ys generalizing s with
  | nil =>
    unfold State.locLanes
    exact hs
  | cons x xs ih =>
    unfold State.locLanes
    dsimp only
    split
    · exact ih (hs.locLane _ _ _ _ _ _)
    · exact ih (hs.locLane _ _ _ _ _ _)

theorem Listed.launchOrHold {s : State} (hs : Listed s) (e : Env) (o : Op) (unstarted : Bool) : Listed (s.launchOrHold e o unstarted) := by
  unfold State.launchOrHold
  dsimp only
  split
  · exact (hs.addOp _).modLanes _ _ (fun _ _ h1 => h1.blockAt _)
  · exact hs.launch _ _

theorem Listed.access {s : State} (hs : Listed s) (h : Hdr) (i : Instr) (sp : Space) (k : AccKind) (six : Bool) (n : Nat)
    (dst : List Nat) (args : List Arg) (addr : Row → Nat) (lv : Row → List Nat) : Listed (s.access h i sp k six n dst args addr lv) := by
  unfold State.access
  refine hs.checked _ _ (fun _ => ?_) (fun _ => hs)
  dsimp only
  split
  · exact hs.fail _ _ _ _ _
  · refine Listed.undefineLost ?_ _ _ _ _
    exact ((hs.popArgs _ _).locLanes _ _ _ _ _).settleLanes _ _ _ _ (fun _ _ h1 => h1.ite ((h1.launchOrHold _ _ _).unsettle _ _))

theorem Listed.load {s : State} (hs : Listed s) (h : Hdr) (i : Instr) (sp : Space) (o : LoadOps) : Listed (s.load h i sp o) := by
  unfold State.load
  exact hs.access _ _ _ _ _ _ _ _ _ _

theorem Listed.store {s : State} (hs : Listed s) (h : Hdr) (i : Instr) (sp : Space) (o : StoreOps) : Listed (s.store h i sp o) := by
  unfold State.store
  exact hs.access _ _ _ _ _ _ _ _ _ _

theorem Listed.readAccs {s : State} (hs : Listed s) (v : Via) (blind : Nat → Bool) (ys : List Acc) : Listed (s.readAccs v blind ys).1 := by
  induction ys generalizing s with
  | nil =>
    unfold State.readAccs
    exact hs
  | cons x xs ih =>
    unfold State.readAccs
    exact ih (hs.readUnits _ _)

theorem Listed.readPart {s : State} (hs : Listed s) (o : Op) (v : Via) (j : Nat) : Listed (s.readPart o v j) := by
  unfold State.readPart
  dsimp only
  split
  · exact hs
  · split
    · exact hs
    · exact hs.ite ((hs.readUnit _ _).modOp _ _)

theorem Listed.doLoad {s : State} (hs : Listed s) (o : Op) (v : Via) (d : Reg) (vals : Nat → List (Nat × Nat)) : Listed
    (s.doLoad o v d vals) := by
  unfold State.doLoad
  refine Listed.finishOp ?_ _
  dsimp only
  split
  · exact ((hs.readAccs _ _ _).renew).hwError _ _ _ _
  · exact (hs.readAccs _ _ _).renew

theorem Listed.doLd {s : State} (hs : Listed s) (o : Op) (g : Group) (x : LoadOps) : Listed (s.doLd o g x) := by
  unfold State.doLd
  dsimp only
  split
  · exact (hs.doLoad _ _ _ _).acquireAt _ _
  · exact hs.doLoad _ _ _ _

theorem Listed.doLdu {s : State} (hs : Listed s) (o : Op) (g : Group) (x : LoadOps) : Listed (s.doLdu o g x) := by
  unfold State.doLdu
  refine Listed.finishOp ?_ _
  split
  · exact ((hs.readAccs _ _ _).renew).hwError _ _ _ _
  · exact (hs.readAccs _ _ _).renew

theorem Listed.writeAccs {s : State} (hs : Listed s) (v : Via) (val : Nat → Nat) (ys : List Acc) : Listed (s.writeAccs v val ys) := by
  induction ys generalizing s with
  | nil =>
    unfold State.writeAccs
    exact hs
  | cons x xs ih =>
    unfold State.writeAccs
    exact ih (hs.writeUnits _ _ _)

theorem Listed.spoilSpan {s : State} (hs : Listed s) (x : Nat × Nat) : Listed (s.spoilSpan x) := by
  unfold State.spoilSpan
  refine Listed.renew ?_
  refine Listed.setCells ?_ _ _ _
  refine Listed.noteWrite ?_ _ _
  exact (hs.evictLine _).of_eq rfl rfl

theorem Listed.noteWatched {s : State} (hs : Listed s) (spans : List (Nat × Nat)) : Listed (s.noteWatched spans) := by
  unfold State.noteWatched
  exact Listed.foldl (fun _ _ h1 => h1.spoilSpan _) _ hs

theorem Listed.noteRaces {s : State} (hs : Listed s) (by_ : Option Nat) (spans : List (Nat × Nat)) : Listed (s.noteRaces by_ spans) := by
  unfold State.noteRaces
  dsimp only
  split
  · exact hs.noteWatched _
  · exact (hs.noteWatched _).of_eq rfl rfl

theorem Listed.setWordState {s : State} (hs : Listed s) (tid : Nat) (u : MUnit) (k : Nat) : Listed (s.setWordState tid u k) := by
  unfold State.setWordState
  exact hs.modTake _ _

theorem Listed.spoilWords {s : State} (hs : Listed s) (v : Via) (ps qs : List (MUnit × Nat)) : Listed (s.spoilWords v ps qs) := by
  unfold State.spoilWords
  refine Listed.foldl (fun _ _ h1 => ?_) _ ?_
  · exact h1.of_eq rfl rfl
  · exact Listed.foldl (fun _ _ h1 => (h1.writeUnit _ _ _).renew) _ hs

theorem Listed.storeAccs {s : State} (hs : Listed s) (o : Op) (g : Group) (val : Nat → Nat) (accs : List Acc) : Listed
    (s.storeAccs o g val accs) := by
  unfold State.storeAccs
  exact ((hs.writeAccs _ _ _).spoilWords _ _ _).noteRaces _ _

theorem Listed.endStore {s : State} (hs : Listed s) (o : Op) (g : Group) : Listed (s.endStore o g) := by
  unfold State.endStore
  exact (hs.clearCovered _ _).finishOp _

theorem Listed.doSt {s : State} (hs : Listed s) (o : Op) (g : Group) : Listed (s.doSt o g) := by
  unfold State.doSt
  exact (hs.storeAccs _ _ _ _).endStore _ _

theorem Listed.storePart {s : State} (hs : Listed s) (o : Op) (g : Group) (j : Nat) : Listed (s.storePart o g j) := by
  unfold State.storePart
  dsimp only
  split
  · exact hs
  · split
    · exact hs
    · exact (hs.storeAccs _ _ _ _).modOp _ _

theorem Listed.mixedScope {s : State} (hs : Listed s) (tid : Nat) (l : Loc) (scope : Nat) : Listed (s.mixedScope tid l scope).1 := by
  unfold State.mixedScope
  dsimp only
  split
  · exact hs
  · split
    · exact hs.modTake _ _
    · split
      · exact hs
      · exact hs.modTake _ _

theorem Listed.mixedAll {s : State} (hs : Listed s) (l : Loc) (scope : Nat) : Listed (s.mixedAll l scope).1 := by
  unfold State.mixedAll
  refine Listed.foldl_fst (fun _ _ h1 => ?_) _ ?_
  · exact h1.mixedScope _ _ _
  · exact hs

theorem Listed.reachPoint {s : State} (hs : Listed s) (agent ctx scope : Nat) (u : MUnit) : Listed (s.reachPoint agent ctx scope u).1 := by
  unfold State.reachPoint
  dsimp only
  split
  · dsimp only
    split
    · exact ((hs.evictLine _).ite hs).dropL1 _ _
    · exact (hs.evictLine _).ite hs
  · exact hs

theorem Listed.atomRead {s : State} (hs : Listed s) (agent ctx scope : Nat) (u : MUnit) : Listed (s.atomRead agent ctx scope u).1 := by
  unfold State.atomRead
  dsimp only
  split
  · exact ((((hs.reachPoint _ _ _ _).mixedAll _ _).readUnit _ _).writeUnit _ _ _).renew
  · exact ((hs.reachPoint _ _ _ _).mixedAll _ _).readUnit _ _

theorem Listed.rmw {s : State} (hs : Listed s) (agent ctx scope : Nat) (u : MUnit) (f : Nat → Nat) : Listed
    (s.rmw agent ctx scope u f).1 := by
  unfold State.rmw
  dsimp only
  split
  · exact hs.atomRead _ _ _ _
  · exact (hs.atomRead _ _ _ _).writeUnit _ _ _

theorem Listed.atomAccs {s : State} (hs : Listed s) (agent ctx scope : Nat) (blind : Nat → Bool) (f : Nat → Nat → Nat)
    (ys : List Acc) : Listed (s.atomAccs agent ctx scope blind f ys).1 := by
  induction ys generalizing s with
  | nil =>
    unfold State.atomAccs
    exact hs
  | cons x xs ih =>
    unfold State.atomAccs
    dsimp only
    split
    · exact ih (hs.rmw _ _ _ _ _)
    · exact ih hs

theorem Listed.doAtom {s : State} (hs : Listed s) (o : Op) (g : Group) (op : AtomOp) (ty : Ty) (ord : AOrd) (scope : Nat)
    (d : Option Reg) : Listed (s.doAtom o g op ty ord scope d) := by
  unfold State.doAtom
  dsimp only
  split
  · refine Listed.acquireAt ?_ _ _
    refine Listed.finishOp ?_ _
    split
    · exact (((hs.atomAccs _ _ _ _ _ _).renew).noteRaces _ _).hwError _ _ _ _
    · exact ((hs.atomAccs _ _ _ _ _ _).renew).noteRaces _ _
  · refine Listed.finishOp ?_ _
    split
    · exact (((hs.atomAccs _ _ _ _ _ _).renew).noteRaces _ _).hwError _ _ _ _
    · exact ((hs.atomAccs _ _ _ _ _ _).renew).noteRaces _ _

/-! ### Engines -/

theorem Listed.showTaint {s : State} (hs : Listed s) (tid : Nat) : Listed (s.showTaint tid) := by
  unfold State.showTaint
  split
  · exact hs
  · exact hs.modCtx _ _

theorem Listed.taintWord {s : State} (hs : Listed s) (tid va : Nat) : Listed (s.taintWord tid va) := by
  unfold State.taintWord
  exact (hs.modTake _ _).showTaint _

theorem Listed.untaintWord {s : State} (hs : Listed s) (tid va : Nat) : Listed (s.untaintWord tid va) := by
  unfold State.untaintWord
  exact (hs.modTake _ _).showTaint _

theorem Listed.engineError {s : State} (hs : Listed s) (o : Op) : Listed (s.engineError o) := by
  unfold State.engineError
  split
  · exact hs
  · exact (hs.hwError _ _ _ _).ite (hs.progError _ _ _ _ _ _)

theorem Listed.lostWord {s : State} (hs : Listed s) (o : Op) (g : Group) (code va : Nat) : Listed (s.lostWord o g code va) := by
  unfold State.lostWord
  split
  · exact hs
  · exact (hs.settleError _ _ _ _).ite (hs.progError _ _ _ _ _ _)

theorem Listed.arrive {s : State} (hs : Listed s) (o : Op) (g : Group) (agent : Nat) : Listed (s.arrive o g agent) := by
  unfold State.arrive
  dsimp only
  split
  · exact hs
  · split
    · exact ((hs.modOp _ _).translateFor _ _ _).lostWord _ _ _ _
    · split
      · exact ((hs.modOp _ _).translateFor _ _ _).lostWord _ _ _ _
      · split
        · split
          · exact ((((hs.modOp _ _).translateFor _ _ _).copyAll _ _).rmw _ _ _ _ _).noteRaces _ _
          · exact (((((hs.modOp _ _).translateFor _ _ _).copyAll _ _).rmw _ _ _ _ _).noteRaces _ _).hwError _ _ _ _
        · split
          · exact ((((((hs.modOp _ _).translateFor _ _ _).copyAll _ _).rmw _ _ _ _ _).noteRaces _ _).taintWord _ _).logError _ _ _ _ _ _ _ _
          · exact ((((hs.modOp _ _).translateFor _ _ _).copyAll _ _).rmw _ _ _ _ _).noteRaces _ _

theorem Listed.reaches {s : State} (hs : Listed s) (g : Group) (ys : List (Nat × Nat × AccKind)) : Listed (s.reaches g ys).1 := by
  induction ys generalizing s with
  | nil =>
    unfold State.reaches
    exact hs
  | cons x xs ih =>
    unfold State.reaches
    refine ih (Listed.foldl_fst (fun _ _ h1 => ?_) _ ?_)
    · exact h1.transAcc _ _ _
    · exact hs

theorem Listed.failRead {s : State} (hs : Listed s) (e : Env) (codes : List Nat) (code addr : Nat) (write : Bool) : Listed
    (s.failRead e codes code addr write) := by
  unfold State.failRead
  exact hs.ite (hs.fail _ _ _ _ _)

theorem Listed.markEarly {s : State} (hs : Listed s) (id : Nat) (early : Bool) : Listed (s.markEarly id early) := by
  unfold State.markEarly
  split
  · exact hs.of_eq rfl rfl
  · exact hs

theorem Listed.dispatch {s : State} {k : Env → State} {k' : Env → State} (hs : Listed s) (h : Hdr) (codes : List Nat) (hk : ∀ x0, Listed
    (k x0)) (hk' : ∀ x0, Listed (k' x0)) : Listed (s.dispatch h codes k k') := by
  unfold State.dispatch
  refine hs.withEnv _ (fun _ => ?_) (fun _ => ?_)
  · split
    · exact hs
    · split
      · exact hs.fail _ _ _ _ _
      · refine Listed.markEarly ?_ _ _
        exact hk _
  · split
    · exact hs
    · exact hk' _

theorem Listed.barrierWord {s : State} {k : Option (Nat × Nat) → State} (hs : Listed s) (e : Env) (bw : Option Bw) (hk : ∀ x0, Listed
    (k x0)) : Listed (s.barrierWord e bw k) := by
  unfold State.barrierWord
  dsimp only
  split
  · exact hk _
  · split
    · exact hs.failRead _ _ _ _ _
    · split
      · exact hs.failRead _ _ _ _ _
      · exact hk _

theorem Listed.command {s : State} {k : Env → Option (Nat × Nat) → State} {k' : Env → State} (hs : Listed s) (h : Hdr)
    (codes : List Nat) (bw : Option Bw) (hk : ∀ x0 x1, Listed (k x0 x1)) (hk' : ∀ x0, Listed (k' x0)) : Listed
    (s.command h codes bw k k') := by
  unfold State.command
  refine hs.dispatch _ _ (fun _ => ?_) (fun _ => ?_)
  · refine hs.barrierWord _ _ (fun _ => ?_)
    exact hk _ _
  · exact hk' _

theorem Listed.reaching {s : State} {k : State → State} (hs : Listed s) (e : Env) (rs : List (Nat × Nat × AccKind))
    (hk : ∀ t, Listed t → Listed (k t)) : Listed (s.reaching e rs k) := by
  unfold State.reaching
  dsimp only
  split
  · split
    · exact hk _ (hs.reaches _ _)
    · exact (hs.reaches _ _).returnTrap _
  · exact hk _ hs

theorem Listed.engineRead {s : State} (hs : Listed s) (g : Group) (v : Via) (poison va n : Nat) : Listed
    (s.engineRead g v poison va n).1 := by
  unfold State.engineRead
  dsimp only
  split
  · exact hs.renew
  · split
    · exact (hs.transAcc _ _ _).renew
    · split
      · exact ((hs.transAcc _ _ _).readUnit _ _).renew
      · exact (hs.transAcc _ _ _).readUnit _ _

theorem Listed.engineWrite {s : State} (hs : Listed s) (g : Group) (v : Via) (va n x : Nat) : Listed (s.engineWrite g v va n x).1 := by
  unfold State.engineWrite
  dsimp only
  split
  · exact hs
  · split
    · exact hs.transAcc _ _ _
    · exact (((hs.transAcc _ _ _).copyAll _ _).writeUnit _ _ _).noteRaces _ _

theorem Listed.engineReads {s : State} (hs : Listed s) (g : Group) (v : Via) (poison : Nat) (ys : List (Nat × Nat)) : Listed
    (s.engineReads g v poison ys).1 := by
  induction ys generalizing s with
  | nil =>
    unfold State.engineReads
    exact hs
  | cons x xs ih =>
    unfold State.engineReads
    refine ih ?_
    dsimp only
    split
    · exact Listed.of_parts hs (hs.engineRead _ _ _ _ _) rfl rfl
    · exact hs.engineRead _ _ _ _ _

theorem Listed.engineReadSpan {s : State} (hs : Listed s) (g : Group) (v : Via) (poison va n : Nat) : Listed
    (s.engineReadSpan g v poison va n).1 := by
  unfold State.engineReadSpan
  exact hs.engineReads _ _ _ _

theorem Listed.engineWrites {s : State} (hs : Listed s) (g : Group) (v : Via) (ys : List (Nat × Nat)) (n : Nat) : Listed
    (s.engineWrites g v ys n).1 := by
  induction ys generalizing s g v n with
  | nil =>
    unfold State.engineWrites
    exact hs
  | cons x xs ih =>
    unfold State.engineWrites
    exact ih (hs.engineWrite _ _ _ _ _) _ _ _

theorem Listed.coverSectors {s : State} (hs : Listed s) (g : Group) (v : Via) (va n : Nat) : Listed (s.coverSectors g v va n) := by
  unfold State.coverSectors
  refine Listed.foldl (fun _ _ h1 => ?_) _ hs
  dsimp only
  split
  · exact h1.transAcc _ _ _
  · split
    · exact (h1.transAcc _ _ _).setPoisonFor _ _ _
    · exact h1.transAcc _ _ _

theorem Listed.coverSpans {s : State} (hs : Listed s) (g : Group) (v : Via) (rs : List (Nat × Nat)) : Listed (s.coverSpans g v rs) := by
  unfold State.coverSpans
  refine Listed.clearCovered ?_ _ _
  refine Listed.foldl_fst (fun _ _ h1 => ?_) _ ?_
  · dsimp only
    split
    · exact h1.transAcc _ _ _
    · exact h1.transAcc _ _ _
  · exact hs

theorem Listed.addPendings {s : State} (hs : Listed s) (keys : List Nat) : Listed (s.addPendings keys) := by
  unfold State.addPendings
  exact Listed.foldl (fun _ _ h1 => h1.modBank _ _ _) _ hs

theorem Listed.subPendings {s : State} (hs : Listed s) (keys : List Nat) : Listed (s.subPendings keys) := by
  unfold State.subPendings
  exact Listed.foldl (fun _ _ h1 => h1.modBank _ _ _) _ hs

theorem Listed.noteOperands {s : State} (hs : Listed s) (o : Op) (lanes : Bool) (us : List MUnit) : Listed (s.noteOperands o lanes us) := by
  unfold State.noteOperands
  dsimp only
  split
  · exact hs
  · refine Listed.map_groups hs (fun _ h1 => ?_) rfl rfl
    exact h1.of_eq rfl rfl rfl

theorem Listed.landUnit {s : State} (hs : Listed s) (u : MUnit) (x : Nat) : Listed (s.landUnit u x) := by
  unfold State.landUnit
  split
  · exact hs
  · exact hs.modBank _ _ _

/-! ### Tensors -/

theorem Listed.readDesc {s : State} (hs : Listed s) (e : Env) (va : Nat) : Listed (s.readDesc e va).1 := by
  unfold State.readDesc
  dsimp only
  split
  · exact hs.transAcc _ _ _
  · split
    · exact (hs.transAcc _ _ _).readUnits _ _
    · exact (hs.transAcc _ _ _).readUnits _ _

theorem Listed.tensorAt {s : State} {lost : State} (hs : Listed s) (hlost : Listed lost) (e : Env) (o : Op) (va w c vc : Nat)
    (vs dst : List Nat) (early : Bool) : Listed (s.tensorAt e o va w c vc vs dst early lost) := by
  unfold State.tensorAt
  dsimp only
  split
  · exact hlost.ite (hs.fail _ _ _ _ _)
  · split
    · exact hlost.ite (hs.fail _ _ _ _ _)
    · split
      · exact hlost.ite (hs.fail _ _ _ _ _)
      · split
        · exact hlost.ite (hs.fail _ _ _ _ _)
        · refine Listed.undefineLost ?_ _ _ _ _
          refine Listed.settleLanes ?_ _ _ _ _ (fun _ _ h1 => h1.ite ((h1.launch _ _).unsettle _ _))
          refine Listed.foldl_fst (fun _ _ h1 => ?_) _ ?_
          · split
            · exact h1.locLane _ _ _ _ _ _
            · exact h1.locLane _ _ _ _ _ _
          · exact hs.readRows _ _

theorem Listed.tensor {s : State} (hs : Listed s) (h : Hdr) (i : Instr) (c desc vc : Nat) (dst : List Nat) (data : Option Nat) : Listed
    (s.tensor h i c desc vc dst data) := by
  unfold State.tensor
  refine hs.checked _ _ (fun _ => ?_) (fun _ => hs)
  dsimp only
  split
  · split
    · exact hs.fail _ _ _ _ _
    · exact (hs.undefine _ _ _ _).ite (hs.fail _ _ _ _ _)
  · split
    · split
      · exact hs.fail _ _ _ _ _
      · split
        · exact hs.undefine _ _ _ _
        · exact (hs.readDesc _ _).settleLanes _ _ _ _ (fun _ _ h1 => h1)
    · exact (hs.readDesc _ _).tensorAt (hs.undefine _ _ _ _) _ _ _ _ _ _ _ _ _

theorem Listed.doLdt {s : State} (hs : Listed s) (o : Op) (g : Group) (x : LdtOps) : Listed (s.doLdt o g x) := by
  unfold State.doLdt
  refine Listed.finishOp ?_ _
  split
  · exact ((hs.readAccs _ _ _).renew).hwError _ _ _ _
  · exact (hs.readAccs _ _ _).renew

theorem Listed.doStt {s : State} (hs : Listed s) (o : Op) (g : Group) : Listed (s.doStt o g) := by
  unfold State.doStt
  exact (hs.storeAccs _ _ _ _).endStore _ _

/-! ### Copies and cache maintenance -/

theorem Listed.startCopy {s : State} (hs : Listed s) (o : Op) (us : List Acc) : Listed (s.startCopy o us) := by
  unfold State.startCopy
  exact ((hs.addPendings _).ite hs).modOp _ _

theorem Listed.issueCopy {s : State} (hs : Listed s) (e : Env) (o : Op) (codes : List Nat) : Listed (s.issueCopy e o codes) := by
  unfold State.issueCopy
  dsimp only
  split
  · exact hs.failRead _ _ _ _ _
  · refine hs.reaching _ _ (fun _ h1 => ?_)
    split
    · exact (h1.addOp _).modLanes _ _ (fun _ _ h11 => h11.blockAt _)
    · exact (h1.addOp _).startCopy _ _

theorem Listed.copyBlock {s : State} (hs : Listed s) (h : Hdr) (i : Instr) (o : CpaOps) : Listed (s.copyBlock h i o) := by
  unfold State.copyBlock
  refine hs.command _ _ _ (fun _ _ => ?_) (fun _ => hs)
  dsimp only
  split
  · exact hs.failRead _ _ _ _ _
  · exact (hs.failRead _ _ _ _ _).ite (hs.issueCopy _ _ _)

theorem Listed.copyLanes {s : State} (hs : Listed s) (h : Hdr) (i : Instr) (o : CpaLnOps) : Listed (s.copyLanes h i o) := by
  unfold State.copyLanes
  refine hs.dispatch _ _ (fun _ => ?_) (fun _ => hs)
  dsimp only
  split
  · exact hs.fail _ _ _ _ _
  · refine hs.barrierWord _ _ (fun _ => ?_)
    split
    · exact hs.fail _ _ _ _ _
    · exact hs.issueCopy _ _ _

theorem Listed.landEach {s : State} (hs : Listed s) (o : Op) (g : Group) (rest ys : List Acc) : Listed (s.landEach o g rest ys).1 := by
  induction ys generalizing s o g rest with
  | nil =>
    unfold State.landEach
    exact hs
  | cons x xs ih =>
    unfold State.landEach
    dsimp only
    split
    · refine ih (Listed.landUnit ?_ _ _) _ _ _
      split
      · exact Listed.of_parts hs (hs.engineRead _ _ _ _ _) rfl rfl
      · exact hs.engineRead _ _ _ _ _
    · exact ih hs _ _ _

theorem Listed.landUnits {s : State} (hs : Listed s) (o : Op) (g : Group) (us : List Acc) : Listed (s.landUnits o g us) := by
  unfold State.landUnits
  exact ((hs.landEach _ _ _ _).noteOperands _ _ _).modOp _ _

theorem Listed.landLine {s : State} (hs : Listed s) (o : Op) (g : Group) (line : Nat) : Listed (s.landLine o g line) := by
  unfold State.landLine
  exact ((hs.landUnits _ _ _).subPendings _).modOp _ _

theorem Listed.landPart {s : State} (hs : Listed s) (o : Op) (g : Group) : Listed (s.landPart o g) := by
  unfold State.landPart
  split
  · exact hs
  · exact hs.landUnits _ _ _

theorem Listed.outUnits {s : State} (hs : Listed s) (o : Op) (g : Group) (us : List Acc) : Listed (s.outUnits o g us).1 := by
  unfold State.outUnits
  refine Listed.foldl_fst (fun _ _ h1 => ?_) _ ?_
  · dsimp only
    split
    · exact h1.engineWrite _ _ _ _ _
    · exact h1
  · exact hs

theorem Listed.outPart {s : State} (hs : Listed s) (o : Op) (g : Group) : Listed (s.outPart o g) := by
  unfold State.outPart
  exact ((hs.outUnits _ _ _).renew).modOp _ _

theorem Listed.moveOut {s : State} (hs : Listed s) (o : Op) (g : Group) : Listed (s.moveOut o g).1 := by
  unfold State.moveOut
  exact (((hs.outUnits _ _ _).coverSpans _ _ _).renew).modOp _ _

theorem Listed.prefetch {s : State} (hs : Listed s) (g : Group) (o : PrefOps) (lane va : Nat) : Listed (s.prefetch g o lane va) := by
  unfold State.prefetch
  dsimp only
  split
  · exact hs
  · split
    · exact hs
    · split
      · split
        · exact hs.transAcc _ _ _
        · split
          · split
            · exact hs.transAcc _ _ _
            · exact (hs.transAcc _ _ _).readCore _ _ _ _ _
          · exact (hs.transAcc _ _ _).fillLine _
      · split
        · exact hs.transAcc _ _ _
        · split
          · split
            · exact hs.transAcc _ _ _
            · exact (hs.transAcc _ _ _).readCore _ _ _ _ _
          · exact (hs.transAcc _ _ _).fillLine _

theorem Listed.rangeLines {s : State} (hs : Listed s) (g : Group) (va n : Nat) : Listed (s.rangeLines g va n).1 := by
  unfold State.rangeLines
  refine Listed.foldl_fst (fun _ _ h1 => ?_) _ ?_
  · dsimp only
    split
    · exact h1.translateFor _ _ _
    · exact h1.translateFor _ _ _
  · exact hs

theorem Listed.maintain {s : State} (hs : Listed s) (m : Maint) (core line : Nat) : Listed (s.maintain m core line) := by
  unfold State.maintain
  dsimp only
  split
  · exact (hs.ite (hs.dropL1 _ _)).cleanLine _
  · exact ((hs.ite (hs.dropL1 _ _)).touchLine _).dropLine _
  · exact (hs.ite (hs.dropL1 _ _)).evictLine _

theorem Listed.issueMaint {s : State} (hs : Listed s) (h : Hdr) (i : Instr) (o : MaintOps) : Listed (s.issueMaint h i o) := by
  unfold State.issueMaint
  refine hs.coreOnly ?_ _
  refine hs.checked _ _ (fun _ => ?_) (fun _ => hs)
  dsimp only
  split
  · exact hs
  · exact (hs.failRead _ _ _ _ _).ite (hs.launch _ _)

theorem Listed.doMaint {s : State} (hs : Listed s) (o : Op) (g : Group) (m : Maint) : Listed (s.doMaint o g m) := by
  unfold State.doMaint
  refine Listed.finishOp ?_ _
  exact Listed.foldl (fun _ _ h1 => h1.maintain _ _ _) _ (hs.rangeLines _ _ _)

theorem Listed.switchBank {s : State} (hs : Listed s) (g : Group) (b : Nat) (m : BankMode) : Listed (s.switchBank g b m) := by
  unfold State.switchBank
  dsimp only
  split
  · exact hs
  · split
    · exact hs
    · refine Listed.renew ?_
      refine Listed.trimL1 ?_ _
      refine Listed.modGroup ?_ _ (fun _ h1 => ?_)
      · split
        · refine Listed.of_eq ?_ rfl rfl
          split
          · refine Listed.of_eq ?_ rfl rfl
            split
            · exact hs.of_eq rfl rfl
            · exact hs
          · split
            · exact hs.of_eq rfl rfl
            · exact hs
        · split
          · refine Listed.of_eq ?_ rfl rfl
            split
            · exact hs.of_eq rfl rfl
            · exact hs
          · split
            · exact hs.of_eq rfl rfl
            · exact hs
      · exact h1.of_eq rfl rfl rfl

theorem Listed.doBmode {s : State} (hs : Listed s) (o : Op) (g : Group) (x : BmodeOps) : Listed (s.doBmode o g x) := by
  unfold State.doBmode
  exact (hs.switchBank _ _ _).finishOp _

/-! ### Barriers and words -/

theorem Listed.issueFence {s : State} (hs : Listed s) (h : Hdr) (i : Instr) : Listed (s.issueFence h i) := by
  unfold State.issueFence
  exact hs.withEnv _ (fun _ => hs.launch _ _) (fun _ => hs)

theorem Listed.doAcquire {s : State} (hs : Listed s) (o : Op) (g : Group) (scope : Nat) : Listed (s.doAcquire o g scope) := by
  unfold State.doAcquire
  exact (hs.acquireAt _ _).finishOp _

theorem Listed.doTrigger {s : State} (hs : Listed s) (o : Op) (g : Group) : Listed (s.doTrigger o g) := by
  unfold State.doTrigger
  refine Listed.finishOp ?_ _
  refine hs.modGroup _ (fun _ h1 => ?_)
  exact h1.of_eq rfl rfl rfl

theorem Listed.setBar {s : State} (hs : Listed s) (g : Group) (team : Bool) (n : Nat) (b : Bar) : Listed (s.setBar g team n b) := by
  unfold State.setBar
  dsimp only
  split
  · split
    · exact hs.of_eq rfl rfl
    · exact hs.of_eq rfl rfl
  · refine hs.modGroup _ (fun _ h1 => ?_)
    exact h1.of_eq rfl rfl rfl

theorem Listed.issueBar {s : State} (hs : Listed s) (h : Hdr) (i : Instr) (team : Bool) (n : Nat) (wait : Bool) : Listed
    (s.issueBar h i team n wait) := by
  unfold State.issueBar
  refine hs.withEnv _ (fun _ => ?_) (fun _ => hs)
  dsimp only
  split
  · split
    · refine Listed.block ?_ _ _ _
      exact ((hs.launch _ _).setBar _ _ _ _).modWarp _ _ (fun _ h1 => h1)
    · exact ((hs.launch _ _).setBar _ _ _ _).modWarp _ _ (fun _ h1 => h1.coverWrites _)
  · exact hs.fail _ _ _ _ _

theorem Listed.holdOp {s : State} (hs : Listed s) (e : Env) (o : Op) : Listed (s.holdOp e o) := by
  unfold State.holdOp
  exact (hs.addOp _).modLanes _ _ (fun _ _ h1 => h1.blockAt _)

theorem Listed.issueWord {s : State} (hs : Listed s) (h : Hdr) (i : Instr) (w : WordRef) (size : Nat) (k : AccKind) (n : Src)
    (bad : Nat → Option Nat) (dst : List Nat) (waits : Bool) : Listed (s.issueWord h i w size k n bad dst waits) := by
  unfold State.issueWord
  refine hs.checked _ _ (fun _ => ?_) (fun _ => hs)
  dsimp only
  split
  · exact (hs.undefine _ _ _ _).ite (hs.fail _ _ _ _ _)
  · split
    · exact (hs.undefine _ _ _ _).ite (hs.fail _ _ _ _ _)
    · split
      · exact hs.undefine _ _ _ _
      · refine Listed.undefineLost ?_ _ _ _ _
        refine (hs.locLane _ _ _ _ _ _).settleLanes _ _ _ _ (fun _ _ h1 => ?_)
        split
        · exact h1
        · exact ((h1.holdOp _ _).ite (h1.launchOrHold _ _ _)).unsettle _ _

theorem Listed.wordPoison {s : State} (hs : Listed s) (g : Group) (o : Op) (u : MUnit) : Listed (s.wordPoison g o u) := by
  unfold State.wordPoison
  exact hs.ite (hs.hwError _ _ _ _)

theorem Listed.doWord {s : State} (hs : Listed s) (o : Op) (g : Group) (scope : Nat) (f : Nat → Nat) (d : Option (Reg ×
    (Nat → Nat))) : Listed (s.doWord o g scope f d) := by
  unfold State.doWord
  dsimp only
  split
  · refine Listed.finishOp ?_ _
    refine Listed.renew ?_
    split
    · exact ((hs.rmw _ _ _ _ _).noteRaces _ _).wordPoison _ _ _
    · exact (hs.rmw _ _ _ _ _).noteRaces _ _
  · exact hs.finishOp _

theorem Listed.doBwinit {s : State} (hs : Listed s) (o : Op) (g : Group) (x : BwinitOps) : Listed (s.doBwinit o g x) := by
  unfold State.doBwinit
  refine Listed.doWord ?_ _ _ _ _ _
  exact Listed.foldl (fun _ _ h1 => h1.setWordState _ _ _) _ hs

theorem Listed.doBwarr {s : State} (hs : Listed s) (o : Op) (g : Group) (x : BwarrOps) : Listed (s.doBwarr o g x) := by
  unfold State.doBwarr
  exact hs.doWord _ _ _ _ _

theorem Listed.doSemsig {s : State} (hs : Listed s) (o : Op) (g : Group) (x : SemsigOps) : Listed (s.doSemsig o g x) := by
  unfold State.doSemsig
  exact hs.doWord _ _ _ _ _

theorem Listed.doErrack {s : State} (hs : Listed s) (o : Op) (g : Group) (x : ErrackOps) : Listed (s.doErrack o g x) := by
  unfold State.doErrack
  dsimp only
  split
  · exact (hs.doWord _ _ _ _ _).untaintWord _ _
  · exact hs.doWord _ _ _ _ _

theorem Listed.freeHeld {s : State} (hs : Listed s) (o : Op) : Listed (s.freeHeld o) := by
  unfold State.freeHeld
  refine hs.modLanes _ _ (fun _ _ h1 => ?_)
  split
  · exact h1
  · exact h1

theorem Listed.cancelOp {s : State} (hs : Listed s) (o : Op) : Listed (s.cancelOp o) := by
  unfold State.cancelOp
  exact hs.endOp _

theorem Listed.parkOp {s : State} (hs : Listed s) (o : Op) (g : Group) (w : Warp) (code addr : Nat) (write : Bool) : Listed
    (s.parkOp o g w code addr write) := by
  unfold State.parkOp
  dsimp only
  split
  · refine Listed.modWarp ?_ _ _ (fun _ h1 => h1)
    exact (hs.cancelOp _).modLanes _ _ (fun _ _ h1 => h1)
  · refine Listed.checkGrow ?_ _
    exact ((hs.cancelOp _).addStop _ _ _ _ _ _ _ _).modLanes _ _ (fun _ _ h1 => h1)

theorem Listed.reachWord {s : State} {k : State → MUnit → State} (hs : Listed s) (o : Op) (g : Group) (w : Warp) (ref : WordRef)
    (size : Nat) (acc : AccKind) (hk : ∀ t x1, Listed t → Listed (k t x1)) : Listed (s.reachWord o g w ref size acc k) := by
  unfold State.reachWord
  dsimp only
  split
  · split
    · exact ((hs.locUnit _ _ _ _ _ _).cancelOp _).progError _ _ _ _ _ _
    · split
      · exact ((hs.locUnit _ _ _ _ _ _).cancelOp _).settleError _ _ _ _
      · exact (hs.locUnit _ _ _ _ _ _).parkOp _ _ _ _ _ _
  · exact hs
  · split
    · exact hk _ _ (hs.locUnit _ _ _ _ _ _)
    · exact hs.locUnit _ _ _ _ _ _

theorem Listed.waitOn {s : State} (hs : Listed s) (o : Op) : Listed (s.waitOn o) := by
  unfold State.waitOn
  exact hs.modOp _ _

theorem Listed.endWatch {s : State} (hs : Listed s) (g : Group) (ref : WordRef) (va : Nat) : Listed (s.endWatch g ref va) := by
  unfold State.endWatch
  split
  · exact hs
  · exact hs.of_eq rfl rfl

theorem Listed.testBwwait {s : State} (hs : Listed s) (o : Op) (g : Group) (w : Warp) (x : BwwaitOps) : Listed (s.testBwwait o g w x) := by
  unfold State.testBwwait
  refine hs.reachWord _ _ _ _ _ _ (fun _ _ h1 => ?_)
  dsimp only
  split
  · exact ((h1.atomRead _ _ _ _).cancelOp _).wordPoison _ _ _
  · split
    · exact (((((h1.atomRead _ _ _ _).renew).acquireAt _ _).endWatch _ _ _).freeHeld _).finishOp _
    · exact (h1.atomRead _ _ _ _).waitOn _

theorem Listed.trySemwait {s : State} (hs : Listed s) (o : Op) (g : Group) (w : Warp) (x : SemwaitOps) : Listed (s.trySemwait o g w x) := by
  unfold State.trySemwait
  refine hs.reachWord _ _ _ _ _ _ (fun _ _ h1 => ?_)
  dsimp only
  split
  · exact ((h1.atomRead _ _ _ _).cancelOp _).wordPoison _ _ _
  · split
    · exact (h1.atomRead _ _ _ _).waitOn _
    · refine Listed.finishOp ?_ _
      refine Listed.freeHeld ?_ _
      refine Listed.acquireAt ?_ _ _
      refine Listed.renew ?_
      refine Listed.noteRaces ?_ _ _
      split
      · exact (h1.atomRead _ _ _ _).copyAll _ _
      · exact ((h1.atomRead _ _ _ _).copyAll _ _).writeUnit _ _ _

theorem Listed.doTflag {s : State} (hs : Listed s) (o : Op) (g : Group) (n : Nat) : Listed (s.doTflag o g n) := by
  unfold State.doTflag
  exact (hs.modTake _ _).finishOp _

end Sys2Proof.Claims
end

section
/-!
SUPPORT. Registers and flags stay listed: matrices, walks, bit-plane arrays, near-memory calls, the base die, fabric operations.
-/

namespace Sys2Proof.Claims

open Sys2Proof.Machine

/-! ### Matrix operations -/

theorem Listed.setConv {s : State} (hs : Listed s) (gid c : Nat) (v : Conv) : Listed (s.setConv gid c v) := by
  unfold State.setConv
  refine hs.modGroup _ (fun _ h1 => ?_)
  exact h1.of_eq rfl rfl rfl

theorem Listed.setTile {s : State} (hs : Listed s) (gid t : Nat) (v : Tile) : Listed (s.setTile gid t v) := by
  unfold State.setTile
  refine hs.modGroup _ (fun _ h1 => ?_)
  exact h1.of_eq rfl rfl rfl

theorem Listed.spoilPair {s : State} (hs : Listed s) (gid t : Nat) : Listed (s.spoilPair gid t) := by
  unfold State.spoilPair
  refine Listed.renew ?_
  refine hs.modGroup _ (fun _ h1 => ?_)
  exact h1.of_eq rfl rfl rfl

theorem Listed.startTile {s : State} (hs : Listed s) (o : Op) (g : Group) (t : Nat) (us : List MUnit) : Listed (s.startTile o g t us) := by
  unfold State.startTile
  refine Listed.modOp ?_ _ _
  split
  · split
    · exact hs.of_eq rfl rfl
    · exact hs
  · split
    · exact hs.of_eq rfl rfl
    · exact hs

theorem Listed.issueTile {s : State} (hs : Listed s) (e : Env) (o : Op) (t : Nat) (started : Bool) (us : List MUnit) : Listed
    (s.issueTile e o t started us) := by
  unfold State.issueTile
  split
  · exact (hs.addOp _).startTile _ _ _ _
  · exact (hs.addOp _).modLanes _ _ (fun _ _ h1 => h1.blockAt _)

theorem Listed.doMzero {s : State} (hs : Listed s) (o : Op) (g : Group) (t : Nat) : Listed (s.doMzero o g t) := by
  unfold State.doMzero
  exact ((hs.spoilPair _ _).ite (hs.setTile _ _ _)).finishOp _

theorem Listed.doMload {s : State} (hs : Listed s) (o : Op) (g : Group) (x : MloadOps) : Listed (s.doMload o g x) := by
  unfold State.doMload
  dsimp only
  split
  · exact (hs.spoilPair _ _).finishOp _
  · refine Listed.finishOp ?_ _
    split
    · split
      · exact (hs.setTile _ _ _).renew
      · exact ((hs.setTile _ _ _).renew).engineError _
    · split
      · exact (hs.setTile _ _ _).renew
      · exact ((hs.setTile _ _ _).renew).engineError _

theorem Listed.doMout {s : State} (hs : Listed s) (o : Op) (g : Group) (x : MoutOps) : Listed (s.doMout o g x) := by
  unfold State.doMout
  refine Listed.finishOp ?_ _
  dsimp only
  split
  · split
    · refine Listed.renew ?_
      refine Listed.noteOperands ?_ _ _ _
      refine Listed.foldl (fun _ _ h1 => ?_) _ hs
      split
      · exact h1.modBank _ _ _
      · exact h1
    · refine Listed.engineError ?_ _
      refine Listed.renew ?_
      refine Listed.noteOperands ?_ _ _ _
      refine Listed.foldl (fun _ _ h1 => ?_) _ hs
      split
      · exact h1.modBank _ _ _
      · exact h1
  · split
    · refine Listed.renew ?_
      refine Listed.noteOperands ?_ _ _ _
      refine Listed.foldl (fun _ _ h1 => ?_) _ hs
      split
      · exact h1.modBank _ _ _
      · exact h1
    · refine Listed.engineError ?_ _
      refine Listed.renew ?_
      refine Listed.noteOperands ?_ _ _ _
      refine Listed.foldl (fun _ _ h1 => ?_) _ hs
      split
      · exact h1.modBank _ _ _
      · exact h1

theorem Listed.countUp {s : State} (hs : Listed s) (off a : Nat) : Listed (s.countUp off a) := by
  unfold State.countUp
  exact hs.setField _ _ _ _

theorem Listed.applyLate {s : State} (hs : Listed s) (gid : Nat) (p : Past) : Listed (s.applyLate gid p) := by
  unfold State.applyLate
  split
  · exact hs.ite (((hs.setTile _ _ _).setTile _ _ _).renew)
  · exact hs

theorem Listed.settleTiles {s : State} (hs : Listed s) (gid c : Nat) : Listed (s.settleTiles gid c) := by
  unfold State.settleTiles
  dsimp only
  split
  · exact hs
  · refine Listed.modGroup ?_ _ (fun _ h1 => ?_)
    · exact Listed.foldl (fun _ _ h1 => h1.applyLate _ _) _ hs
    · exact h1.of_eq rfl rfl rfl

/-! ### Walks -/

theorem Listed.walkRun {s : State} (hs : Listed s) (g : Group) (o : Op) (w wd : Nat) : Listed (s.walkRun g o w wd).1 := by
  unfold State.walkRun
  refine Listed.foldl_fst (fun _ _ h1 => ?_) _ ?_
  · dsimp only
    split
    · exact h1
    · split
      · exact h1.renew
      · dsimp only
        split
        · exact Listed.of_parts h1 (h1.engineRead _ _ _ _ _) rfl rfl
        · exact h1.engineRead _ _ _ _ _
  · exact hs

theorem Listed.pushWords {s : State} (hs : Listed s) (gid q : Nat) (ws : List Nat) (tag : Nat) : Listed (s.pushWords gid q ws tag).1 := by
  unfold State.pushWords
  dsimp only
  split
  · exact hs
  · refine hs.modGroup _ (fun _ h1 => ?_)
    exact h1.of_eq rfl rfl rfl

theorem Listed.landPoint {s : State} (hs : Listed s) (o : Op) (g : Group) (y : Nat × Nat × Nat) (n : Nat) : Listed
    (s.landPoint o g y n) := by
  unfold State.landPoint
  exact ((((hs.walkRun _ _ _ _).landUnit _ _).noteOperands _ _ _).subPendings _).modOp _ _

/-! ### Bit-plane arrays -/

theorem Listed.issuePlane {s : State} (hs : Listed s) (e : Env) (i : Instr) (h : Hdr) (bw : Option (Nat × Nat))
    (vals : List Nat) : Listed (s.issuePlane e i h bw vals) := by
  unfold State.issuePlane
  exact hs.addOp _

theorem Listed.issueWordCmd {s : State} (hs : Listed s) (h : Hdr) (i : Instr) (cmd : Nat) (bw : Option Bw)
    (bad : Nat → Option Nat) : Listed (s.issueWordCmd h i cmd bw bad) := by
  unfold State.issueWordCmd
  refine hs.coreOnly ?_ _
  refine hs.command _ _ _ (fun _ _ => ?_) (fun _ => hs)
  dsimp only
  split
  · exact hs.failRead _ _ _ _ _
  · exact hs.issuePlane _ _ _ _ _

theorem Listed.issueMove {s : State} (hs : Listed s) (h : Hdr) (i : Instr) (o : PlfillOps) : Listed (s.issueMove h i o) := by
  unfold State.issueMove
  refine hs.coreOnly ?_ _
  refine hs.command _ _ _ (fun _ _ => ?_) (fun _ => hs)
  dsimp only
  split
  · exact hs.failRead _ _ _ _ _
  · exact hs.issuePlane _ _ _ _ _

theorem Listed.issueOut {s : State} (hs : Listed s) (h : Hdr) (i : Instr) (addr cmd align : Nat) (bw : Option Bw)
    (bad : Nat → Option Nat) : Listed (s.issueOut h i addr cmd align bw bad) := by
  unfold State.issueOut
  refine hs.coreOnly ?_ _
  refine hs.command _ _ _ (fun _ _ => ?_) (fun _ => hs)
  dsimp only
  split
  · exact hs.failRead _ _ _ _ _
  · split
    · exact hs.failRead _ _ _ _ _
    · exact (hs.failRead _ _ _ _ _).ite (hs.issuePlane _ _ _ _ _)

theorem Listed.fillUnit {s : State} (hs : Listed s) (g : Group) (o : Op) (ys : List (Nat × Nat)) : Listed (s.fillUnit g o ys).1 := by
  unfold State.fillUnit
  dsimp only
  split
  · exact hs
  · dsimp only
    split
    · exact Listed.of_parts hs (hs.engineRead _ _ _ _ _) rfl rfl
    · exact hs.engineRead _ _ _ _ _

theorem Listed.fillSpan {s : State} (hs : Listed s) (g : Group) (o : Op) (ys : List (Nat × Nat)) : Listed (s.fillSpan g o ys).1 := by
  induction ys generalizing s g o with
  | nil =>
    unfold State.fillSpan
    exact hs
  | cons x xs ih =>
    unfold State.fillSpan
    exact ih (hs.fillUnit _ _ _) _ _

theorem Listed.planeFill {s : State} (hs : Listed s) (g : Group) (o : Op) (p : Plane) (a w : Nat) : Listed (s.planeFill g o p a w).1 := by
  unfold State.planeFill
  exact (hs.fillSpan _ _ _).renew

theorem Listed.evictSlices {s : State} (hs : Listed s) (m : Nat) : Listed (s.evictSlices m) := by
  unfold State.evictSlices
  exact Listed.foldl (fun _ _ h1 => (h1.touchLine _).ite h1) _ hs

theorem Listed.startAlloc {s : State} (hs : Listed s) (g : Group) (o : Op) : Listed (s.startAlloc g o).1 := by
  unfold State.startAlloc
  dsimp only
  split
  · exact hs
  · split
    · exact hs
    · refine (hs.evictSlices _).modGroup _ (fun _ h1 => ?_)
      exact h1.of_eq rfl rfl rfl

theorem Listed.drainUnits {s : State} (hs : Listed s) (g : Group) (o : Op) (ys : List (Nat × Nat)) (n : Nat) : Listed
    (s.drainUnits g o ys n).1 := by
  induction ys generalizing s g o n with
  | nil =>
    unfold State.drainUnits
    exact hs
  | cons x xs ih =>
    unfold State.drainUnits
    refine ih ?_ _ _ _
    dsimp only
    split
    · exact hs.engineWrite _ _ _ _ _
    · split
      · exact hs.engineWrite _ _ _ _ _
      · split
        · exact (hs.engineWrite _ _ _ _ _).transAcc _ _ _
        · exact (((hs.engineWrite _ _ _ _ _).transAcc _ _ _).writeUnit _ _ _).renew

theorem Listed.outPlane {s : State} (hs : Listed s) (g : Group) (o : Op) (ps : List (Nat × Nat)) (x : Nat) : Listed
    (s.outPlane g o ps x).1 := by
  unfold State.outPlane
  exact hs.engineWrites _ _ _ _

theorem Listed.outUnitsPlane {s : State} (hs : Listed s) (g : Group) (o : Op) (ps : List (Nat × Nat)) (x : Nat) : Listed
    (s.outUnitsPlane g o ps x).1 := by
  unfold State.outUnitsPlane
  split
  · exact hs.drainUnits _ _ _ _
  · exact hs.outPlane _ _ _ _

theorem Listed.planeWrites {s : State} (hs : Listed s) (g : Group) (o : Op) (p : Plane) : Listed (s.planeWrites g o p).1 := by
  unfold State.planeWrites
  dsimp only
  split
  · exact hs
  · exact (hs.outUnitsPlane _ _ _ _).coverSectors _ _ _ _

theorem Listed.runPlane {s : State} (hs : Listed s) (g : Group) (o : Op) (p : Plane) : Listed (s.runPlane g o p).1 := by
  unfold State.runPlane
  dsimp only
  split
  · split
    · exact hs
    · exact hs.planeFill _ _ _ _ _
  · split
    · exact hs
    · exact hs.planeWrites _ _ _
  · exact hs.renew
  · exact hs.renew
  · exact hs.renew
  · exact hs.renew
  · exact hs.renew
  · exact hs.planeWrites _ _ _
  · exact hs.planeWrites _ _ _
  · exact hs

theorem Listed.planePart {s : State} (hs : Listed s) (o : Op) (g : Group) : ∀ t, s.planePart o g = some t → Listed t := by
  unfold State.planePart
  split
  · exact listed_of_none
  · split
    · exact listed_of_none
    · split
      · refine (Listed.modOp ?_ _ _).ofSome
        split
        · exact hs.fillUnit _ _ _
        · split
          · exact hs
          · exact hs.outUnitsPlane _ _ _ _
      · exact listed_of_none

/-! ### Room on cores -/

theorem Listed.addGroup {s : State} (hs : Listed s) {g : Group} (hg : ListedGroup g) : Listed (s.addGroup g) :=
  hs.append_group hg rfl rfl

/-! ### Near-memory calls -/

theorem Listed.onRanges {s : State} {f : State → Nat → State} (hs : Listed s) (g : Group) (ws : List Nat)
    (hf : ∀ t x1, Listed t → Listed (f t x1)) : Listed (s.onRanges g f ws) := by
  unfold State.onRanges
  refine Listed.foldl (fun _ _ h1 => ?_) _ hs
  refine Listed.foldl (fun _ _ h11 => ?_) _ (h1.rangeLines _ _ _)
  exact hf _ _ h11

theorem Listed.cleanRanges {s : State} (hs : Listed s) (g : Group) (ws : List Nat) : Listed (s.cleanRanges g ws) := by
  unfold State.cleanRanges
  exact hs.onRanges _ _ (fun _ _ h1 => h1.cleanLine _)

theorem Listed.dropRanges {s : State} (hs : Listed s) (g : Group) (moved : Bool) (ws : List Nat) : Listed (s.dropRanges g moved ws) := by
  unfold State.dropRanges
  exact hs.onRanges _ _ (fun _ _ h1 => (h1.evictLine _).ite ((h1.touchLine _).dropLine _))

theorem Listed.watchRanges {s : State} (hs : Listed s) (o : Op) (g : Group) (ws : List Nat) : Listed (s.watchRanges o g ws) := by
  unfold State.watchRanges
  exact (hs.modOp _ _).ite hs

theorem Listed.spoilRaced {s : State} (hs : Listed s) (id : Nat) : Listed (s.spoilRaced id) := by
  unfold State.spoilRaced
  split
  · exact hs
  · refine Listed.modOp ?_ _ _
    exact Listed.foldl (fun _ _ h1 => h1.spoilSpan _) _ hs

theorem Listed.watch {s : State} (hs : Listed s) (w : Watch) : Listed (s.watch w) := by
  unfold State.watch
  split
  · exact hs
  · exact hs.of_eq rfl rfl

theorem Listed.endJoin {s : State} (hs : Listed s) (gid j : Nat) (ls : List Nat) : Listed (s.endJoin gid j ls) := by
  unfold State.endJoin
  exact hs.of_eq rfl rfl

theorem Listed.dropWatches {s : State} (hs : Listed s) (gone : Nat → Bool) : Listed (s.dropWatches gone) := by
  unfold State.dropWatches
  exact hs.of_eq rfl rfl

theorem Listed.readAtIssue {s : State} {k : State → Nat → State} (hs : Listed s) (e : Env) (codes : List Nat) (poison va : Nat)
    (hk : ∀ t x1, Listed t → Listed (k t x1)) : Listed (s.readAtIssue e codes poison va k) := by
  unfold State.readAtIssue
  dsimp only
  split
  · exact hs.failRead _ _ _ _ _
  · split
    · split
      · exact hs.transAcc _ _ _
      · exact (hs.transAcc _ _ _).settleLanes _ _ _ _ (fun _ _ h1 => h1)
    · split
      · split
        · exact (hs.transAcc _ _ _).readUnit _ _
        · exact ((hs.transAcc _ _ _).readUnit _ _).hwError _ _ _ _
      · exact hk _ _ ((hs.transAcc _ _ _).readUnit _ _)

theorem Listed.callEntry {s : State} {k : State → Nat → State} (hs : Listed s) (e : Env) (codes : List Nat) (ix code : Nat)
    (hk : ∀ t x1, Listed t → Listed (k t x1)) : Listed (s.callEntry e codes ix code k) := by
  unfold State.callEntry
  split
  · exact hs
  · split
    · exact hs.failRead _ _ _ _ _
    · refine hs.readAtIssue _ _ _ _ (fun _ _ h1 => ?_)
      exact hk _ _ h1

theorem Listed.performed {s : State} (hs : Listed s) (id : Nat) : Listed (s.performed id) := by
  unfold State.performed
  exact hs.of_eq rfl rfl

theorem Listed.callTargets {s : State} (hs : Listed s) (e : Env) (ys : List (Nat × Nat)) : Listed (s.callTargets e ys).1 := by
  induction ys generalizing s with
  | nil =>
    unfold State.callTargets
    exact hs
  | cons x xs ih =>
    unfold State.callTargets
    dsimp only
    split
    · exact ih hs
    · split
      · exact ih (hs.translateFor _ _ _)
      · split
        · exact ih (hs.translateFor _ _ _)
        · exact ih (hs.translateFor _ _ _)

/-- The callee lanes of a gathered call list their argument registers (R168). -/
theorem Listed.deliver {s : State} (hs : Listed s) (o : Op) (g : Group) (m : Nat) : Listed (s.deliver o g m) := by
  unfold State.deliver
  extract_lets ls W a s1
  have h1 : Listed s1 := (hs.cleanRanges _ _).watchRanges _ _ _
  split
  · exact h1
  · rename_i x _
    have hl : ∀ l ∈ ls.map (fun l => calleeLane (o.vals.headD 0) (g.lane l) ((o.lvals.find? fun y => y.1 == l).elim [] fun y => y.2.drop
      1)) ++
        List.replicate (W - ls.length) Lane.none, Rising l.v := fun l hm => by
      rcases List.mem_append.1 hm with h | h
      · obtain ⟨i, _, rfl⟩ := List.mem_map.1 h
        exact Rising.calleeLane _ _ _
      · exact (List.mem_replicate.1 h).2 ▸ Rising.nil
    have hn := ListedGroup.newGroup s1.nextGid g.take (.gathered o.id) g.groupId 0 1 W 0 s1.nextOrder s1.fresh a true hl
    have hy := ListedGroup.seat (g := { newGroup s1.nextGid g.take (.gathered o.id) g.groupId 0 1 W 0 s1.nextOrder s1.fresh a true _ with
      callers := ls.map fun l => (g.gid, l), caller := g.agent }) (hn.of_eq rfl rfl rfl) s1 (.stackCore x.1) x.2
    have h2 := h1.addGroup hy
    dsimp only
    split
    · exact ((((h2.performed _).modOp _ _).modWarp _ _ fun _ h => h.subFlag _).checkHalt _ _).checkHaltCtx _
    · exact h2.modOp _ _

theorem Listed.landReply {s : State} (hs : Listed s) (o : Op) (x : NcallLOps) (r : Reply) : Listed (s.landReply o x r) := by
  refine hs.renew.modGroup _ fun g hg => ListedGroup.map_warps ((hg.writes _).modLane r.lane fun l hl => ?_) (fun w hw => ?_) rfl rfl rfl
  · split
    · exact hl
    · exact hl
  · split
    · exact hw
    · exact hw

/-- A called block's s registers list its argument words (R353). -/
theorem Listed.deliverBlock {s : State} (hs : Listed s) (o : Op) (g : Group) : Listed (s.deliverBlock o g) := by
  unfold State.deliverBlock
  extract_lets b s1
  have h1 : Listed s1 := (hs.cleanRanges _ _).watchRanges _ _ _
  split
  · exact h1
  · dsimp only
    refine Listed.modOp (Listed.performed (Listed.addGroup h1 (ListedGroup.seat ?_ _ _ _)) _) _ _
    refine ⟨Rising.nil.putAll _ _, fun l hl => ?_, fun w hw => ?_⟩
    · obtain ⟨i, _, rfl⟩ := List.mem_map.1 hl
      exact Rising.newLane _ _ _
    · obtain ⟨k, _, rfl⟩ := List.mem_map.1 hw
      exact Rising.nil

theorem Listed.rebase {s : State} (hs : Listed s) (gid old new : Nat) : Listed (s.rebase gid old new) :=
  Listed.modGroup (Listed.of_eq hs rfl rfl) _ fun _ hg => ⟨hg.s, hg.lanes, fun w hw => by
    obtain ⟨x, hx, rfl⟩ := List.mem_map.1 hw
    exact hg.warps x hx⟩

/-! ### The base die -/

theorem Listed.rowTrans {s : State} (hs : Listed s) (g : Group) (va : Nat) (k : AccKind) : Listed (s.rowTrans g va k).1 := by
  unfold State.rowTrans
  exact hs.translateFor _ _ _

theorem Listed.rowTranses {s : State} (hs : Listed s) (g : Group) (rs : List (Nat × Nat × AccKind)) : Listed (s.rowTranses g rs).1 := by
  unfold State.rowTranses
  refine Listed.foldl_fst (fun _ _ h1 => ?_) _ ?_
  · dsimp only
    split
    · exact h1
    · exact h1.rowTrans _ _ _
  · exact hs

theorem Listed.nearCell {s : State} (hs : Listed s) (g : Group) (o : Op) (m va : Nat) (k : AccKind) : Listed (s.nearCell g o m va k).1 := by
  unfold State.nearCell
  dsimp only
  split
  · exact hs
  · dsimp only
    split
    · exact hs
    · exact hs.translateFor _ _ _

theorem Listed.nearPiece {s : State} (hs : Listed s) (g : Group) (o : Op) (m : Nat) (p : Nat × Nat) : Listed (s.nearPiece g o m p).1 := by
  unfold State.nearPiece
  dsimp only
  split
  · exact hs.nearCell _ _ _ _ _
  · exact (hs.nearCell _ _ _ _ _).readUnit _ _

theorem Listed.nearReads {s : State} (hs : Listed s) (g : Group) (o : Op) (m : Nat) (ys : List (Nat × Nat)) : Listed
    (s.nearReads g o m ys).1 := by
  induction ys generalizing s with
  | nil =>
    unfold State.nearReads
    exact hs
  | cons x xs ih =>
    unfold State.nearReads
    exact ih (hs.nearPiece _ _ _ _)

theorem Listed.nearRead {s : State} (hs : Listed s) (g : Group) (o : Op) (m va n : Nat) : Listed (s.nearRead g o m va n).1 := by
  unfold State.nearRead
  exact hs.nearReads _ _ _ _

theorem Listed.nearPut {s : State} (hs : Listed s) (g : Group) (o : Op) (m va n x : Nat) : Listed (s.nearPut g o m va n x).1 := by
  unfold State.nearPut
  dsimp only
  split
  · exact hs.nearCell _ _ _ _ _
  · split
    · exact hs.nearCell _ _ _ _ _
    · exact (((hs.nearCell _ _ _ _ _).copyAll _ _).writeUnit _ _ _).noteRaces _ _

theorem Listed.nearWrites {s : State} (hs : Listed s) (g : Group) (o : Op) (m : Nat) (ys : List (Nat × Nat × Nat)) : Listed
    (s.nearWrites g o m ys).1 := by
  induction ys generalizing s with
  | nil =>
    unfold State.nearWrites
    exact hs
  | cons x xs ih =>
    unfold State.nearWrites
    exact ih (hs.nearPut _ _ _ _ _ _)

theorem Listed.nearWrite {s : State} (hs : Listed s) (g : Group) (o : Op) (m va n x : Nat) : Listed (s.nearWrite g o m va n x).1 := by
  unfold State.nearWrite
  exact (hs.nearWrites _ _ _ _).coverSectors _ _ _ _

theorem Listed.issueRows {s : State} (hs : Listed s) (h : Hdr) (i : Instr) (o : XredOps) (bad : RowBlock → Bool) : Listed
    (s.issueRows h i o bad) := by
  unfold State.issueRows
  refine hs.command _ _ _ (fun _ _ => ?_) (fun _ => hs)
  dsimp only
  split
  · exact hs.fail _ _ _ _ _
  · split
    · exact hs.failRead _ _ _ _ _
    · exact hs.reaching _ _ (fun _ h1 => ((h1.rowTranses _ _).addOp _).renew)

theorem Listed.rowRead {s : State} (hs : Listed s) (g : Group) (o : Op) (ys : List (Nat × Nat)) : Listed (s.rowRead g o ys).1 := by
  unfold State.rowRead
  dsimp only
  split
  · exact hs
  · dsimp only
    split
    · exact Listed.of_parts hs (hs.nearPiece _ _ _ _) rfl rfl
    · exact hs.nearPiece _ _ _ _

theorem Listed.rowReads {s : State} (hs : Listed s) (g : Group) (o : Op) (n : Nat) : Listed (s.rowReads g o n).1 := by
  induction n generalizing s g o with
  | zero =>
    unfold State.rowReads
    exact hs
  | succ n ih =>
    unfold State.rowReads
    dsimp only
    split
    · exact hs
    · exact ih (hs.rowRead _ _ _) _ _

theorem Listed.xredWrite {s : State} (hs : Listed s) (g : Group) (o : Op) (w : Nat × Nat × Nat) : Listed (s.xredWrite g o w).1 := by
  unfold State.xredWrite
  exact hs.nearPut _ _ _ _ _ _

theorem Listed.doXred {s : State} (hs : Listed s) (o : Op) (g : Group) : Listed (s.doXred o g).1 := by
  unfold State.doXred
  dsimp only
  split
  · refine Listed.coverSectors ?_ _ _ _ _
    refine Listed.foldl_fst (fun _ _ h1 => ?_) _ ?_
    · exact h1.xredWrite _ _ _
    · exact (hs.rowReads _ _ _).renew
  · refine Listed.coverSectors ?_ _ _ _ _
    refine Listed.coverSectors ?_ _ _ _ _
    refine Listed.foldl_fst (fun _ _ h1 => ?_) _ ?_
    · exact h1.xredWrite _ _ _
    · exact (hs.rowReads _ _ _).renew

theorem Listed.xredPart {s : State} (hs : Listed s) (o : Op) (g : Group) : ∀ t, s.xredPart o g = some t → Listed t := by
  unfold State.xredPart
  dsimp only
  split
  · exact ((hs.rowRead _ _ _).modOp _ _).ofSome
  · split
    · exact ((hs.renew.xredWrite _ _ _).modOp _ _).ofSome
    · exact listed_of_none

theorem Listed.hostPiece {s : State} (hs : Listed s) (g : Group) (p : Nat × Nat) : Listed (s.hostPiece g p).1 := by
  unfold State.hostPiece
  dsimp only
  split
  · exact hs.translateFor _ _ _
  · split
    · exact hs.translateFor _ _ _
    · exact (hs.translateFor _ _ _).readUnit _ _

theorem Listed.ringLines {s : State} (hs : Listed s) (g : Group) (o : Op) (m va n : Nat) : Listed (s.ringLines g o m va n) := by
  unfold State.ringLines
  refine Listed.foldl (fun _ _ h1 => ?_) _ hs
  dsimp only
  split
  · exact h1.nearCell _ _ _ _ _
  · exact (h1.nearCell _ _ _ _ _).evictLine _

theorem Listed.fetchStart {s : State} (hs : Listed s) (g : Group) (b : RowBlock) (o : Op) (ix : Nat) : Listed
    (s.fetchStart g b o ix).1 := by
  unfold State.fetchStart
  dsimp only
  split
  · exact hs.nearRead _ _ _ _ _
  · exact hs.nearRead _ _ _ _ _
  · split
    · exact ((hs.nearRead _ _ _ _ _).ringLines _ _ _ _ _).nearRead _ _ _ _ _
    · split
      · exact ((hs.nearRead _ _ _ _ _).ringLines _ _ _ _ _).nearRead _ _ _ _ _
      · split
        · exact ((hs.nearRead _ _ _ _ _).ringLines _ _ _ _ _).nearRead _ _ _ _ _
        · split
          · exact ((((hs.nearRead _ _ _ _ _).ringLines _ _ _ _ _).nearRead _ _ _ _ _).ringLines _ _ _ _ _).nearRead _ _ _ _ _
          · split
            · exact (((((hs.nearRead _ _ _ _ _).ringLines _ _ _ _ _).nearRead _ _ _ _ _).ringLines _ _ _ _ _).nearRead _ _ _ _
              _).nearCell _ _ _ _ _
            · split
              · exact (((((hs.nearRead _ _ _ _ _).ringLines _ _ _ _ _).nearRead _ _ _ _ _).ringLines _ _ _ _ _).nearRead _ _ _ _
                _).nearCell _ _ _ _ _
              · split
                · exact ((((((hs.nearRead _ _ _ _ _).ringLines _ _ _ _ _).nearRead _ _ _ _ _).ringLines _ _ _ _ _).nearRead _ _ _ _
                  _).nearCell _ _ _ _ _).nearWrite _ _ _ _ _ _
                · exact ((((((hs.nearRead _ _ _ _ _).ringLines _ _ _ _ _).nearRead _ _ _ _ _).ringLines _ _ _ _ _).nearRead _ _ _ _
                  _).nearCell _ _ _ _ _).nearWrite _ _ _ _ _ _
  · exact hs.nearRead _ _ _ _ _

theorem Listed.fetchUnit {s : State} (hs : Listed s) (g : Group) (b : RowBlock) (o : Op) (slot va : Nat) (p : Nat × Nat) : Listed
    (s.fetchUnit g b o slot va p).1 := by
  unfold State.fetchUnit
  dsimp only
  split
  · dsimp only
    split
    · exact ((hs.hostPiece _ _).nearPut _ _ _ _ _ _).renew
    · exact hs.hostPiece _ _
  · exact (hs.hostPiece _ _).nearPut _ _ _ _ _ _

theorem Listed.fetchEnd {s : State} (hs : Listed s) (g : Group) (b : RowBlock) (o : Op) (slot : Nat) : Listed
    (s.fetchEnd g b o slot).1 := by
  unfold State.fetchEnd
  dsimp only
  split
  · exact hs
  · exact (hs.coverSectors _ _ _ _).nearWrite _ _ _ _ _ _

theorem Listed.fetchStep {s : State} (hs : Listed s) (g : Group) (o : Op) : ∀ r, s.fetchStep g o = some r → Listed r.1 := by
  intro r hr
  unfold State.fetchStep at hr
  dsimp only at hr
  split at hr
  · split at hr
    · cases hr
      exact hs.fetchUnit _ _ _ _ _ _
    · cases hr
      exact hs.fetchEnd _ _ _ _
  · split at hr
    · cases hr
    · cases hr
      exact hs.fetchStart _ _ _ _

theorem Listed.fetchSteps {s : State} (hs : Listed s) (g : Group) (o : Op) (n : Nat) : Listed (s.fetchSteps g o n).1 := by
  induction n generalizing s o with
  | zero => exact hs
  | succ n ih =>
    unfold State.fetchSteps
    split
    · exact hs
    · rename_i r hr
      exact ih (hs.fetchStep g o r hr) r.2

theorem Listed.doXpref {s : State} (hs : Listed s) (o : Op) (g : Group) : Listed (s.doXpref o g).1 := by
  unfold State.doXpref
  exact hs.fetchSteps _ _ _

theorem Listed.xprefPart {s : State} (hs : Listed s) (o : Op) (g : Group) : ∀ t, s.xprefPart o g = some t → Listed t :=
  Listed.map fun r hr => (hs.fetchStep g o r hr).modOp _ _

theorem Listed.bankLost {s : State} (hs : Listed s) (e : Env) (h : Hdr) (i : Instr) (dst : List Nat) (bw : Option (Nat × Nat))
    (code va : Nat) : Listed (s.bankLost e h i dst bw code va) := by
  unfold State.bankLost
  dsimp only
  split
  · exact hs.returnTrap _
  · exact ((hs.addOp _).unsettle _ _).renew

theorem Listed.bankCommand {s : State} {k : State → Env → Option (Nat × Nat) → Nat → Nat → Nat → State} (hs : Listed s) (h : Hdr)
    (i : Instr) (sa : Nat) (codes dst : List Nat) (args : List Arg) (bw : Option Bw) (opens : Bool)
    (hk : ∀ t x1 x2 x3 x4 x5, Listed t → Listed (k t x1 x2 x3 x4 x5)) : Listed (s.bankCommand h i sa codes dst args bw opens k) := by
  unfold State.bankCommand
  refine hs.command _ _ _ (fun _ _ => ?_) (fun _ => hs.undefineLost _ _ _ _)
  dsimp only
  split
  · exact hs.fail _ _ _ _ _
  · split
    · exact (hs.undefine _ _ _ _).ite (hs.fail _ _ _ _ _)
    · split
      · split
        · exact hs.undefine _ _ _ _
        · exact (hs.translateFor _ _ _).bankLost _ _ _ _ _ _ _
      · split
        · split
          · exact hs.undefine _ _ _ _
          · exact (hs.translateFor _ _ _).fail _ _ _ _ _
        · split
          · split
            · exact hs.undefine _ _ _ _
            · exact (hs.translateFor _ _ _).returnTrap _
          · split
            · split
              · exact hs.undefine _ _ _ _
              · exact (hs.translateFor _ _ _).fail _ _ _ _ _
            · exact hk _ _ _ _ _ _ (hs.translateFor _ _ _)

theorem Listed.addBank {s : State} (hs : Listed s) (e : Env) (h : Hdr) (i : Instr) (bw : Option (Nat × Nat)) (vals : List Nat) : Listed
    (s.addBank e h i bw vals) := by
  unfold State.addBank
  exact hs.addOp _

theorem Listed.setChannel {s : State} (hs : Listed s) (x : Channel) : Listed (s.setChannel x) := by
  unfold State.setChannel
  exact hs.of_eq rfl rfl

theorem Listed.readRowOf {s : State} (hs : Listed s) (m c q bank : Nat) : Listed (s.readRowOf m c q bank).1 := by
  unfold State.readRowOf
  generalize List.range 256 = is
  refine Listed.foldl_fst (fun _ _ h => ?_) is ?_
  · exact h.readBelow _ 8
  · exact hs

theorem Listed.bankWave {s : State} (hs : Listed s) (o : Op) (x : Channel) : Listed (s.bankWave o x) := by
  unfold State.bankWave
  extract_lets m c w a row xb share r p
  have hr : Listed r.1 := by
    refine Listed.foldl_fst (fun q b hq => ?_) _ ?_
    · have hd := hq.readRowOf m c row b
      revert hd
      generalize q.1.readRowOf m c row b = d
      intro hd
      dsimp only
      split
      · exact hd
      · exact hd
    · exact hs
  exact (hr.renew.setChannel _).modOp _ _

/-! ### Key-value tables -/

theorem Listed.kvRead {s : State} (hs : Listed s) (e : Env) (v : Via) (va n : Nat) : Listed (s.kvRead e v va n).1 := by
  unfold State.kvRead
  dsimp only
  split
  · exact hs
  · split
    · exact hs.transAcc _ _ _
    · split
      · exact (hs.transAcc _ _ _).readUnits _ _
      · exact (hs.transAcc _ _ _).readUnits _ _

theorem Listed.kvReads {s : State} (hs : Listed s) (e : Env) (n : Nat) (ys : List Nat) : Listed (s.kvReads e n ys).1 := by
  induction ys generalizing s with
  | nil =>
    unfold State.kvReads
    exact hs
  | cons x xs ih =>
    unfold State.kvReads
    exact ih (hs.kvRead _ _ _ _)

theorem Listed.kvLanes {s : State} (hs : Listed s) (e : Env) (since root nseq : Nat) (rows : List (Nat × Nat × Nat)) : Listed
    (s.kvLanes e since root nseq rows).1 := by
  unfold State.kvLanes
  exact (hs.kvReads _ _ _).kvReads _ _ _

/-! ### Fabric operations -/

theorem Listed.peerEntry {s : State} (hs : Listed s) (g : Group) (a : Nat) : Listed (s.peerEntry g a).1 := by
  unfold State.peerEntry
  dsimp only
  split
  · exact hs.translateFor _ _ _
  · exact (hs.translateFor _ _ _).readUnits _ _

theorem Listed.fabricCopy {s : State} (hs : Listed s) (h : Hdr) (i : Instr) (blk : Nat) (bw : Bw) (k : AccKind) : Listed
    (s.fabricCopy h i blk bw k) := by
  unfold State.fabricCopy
  refine hs.command _ _ _ (fun _ _ => ?_) (fun _ => hs)
  dsimp only
  split
  · exact hs.failRead _ _ _ _ _
  · split
    · exact hs.failRead _ _ _ _ _
    · split
      · exact hs.failRead _ _ _ _ _
      · split
        · exact hs.failRead _ _ _ _ _
        · exact hs.reaching _ _ (fun _ h1 => h1.addOp _)

theorem Listed.startFabric {s : State} (hs : Listed s) (o : Op) (g : Group) : Listed (s.startFabric o g) := by
  unfold State.startFabric
  exact (hs.peerEntry _ _).modOp _ _

theorem Listed.landFabric {s : State} (hs : Listed s) (o : Op) (g : Group) (va x : Nat) (bad : Bool) : Listed
    (s.landFabric o g va x bad).1 := by
  unfold State.landFabric
  dsimp only
  split
  · exact hs.engineWrite _ _ _ _ _
  · split
    · exact (hs.engineWrite _ _ _ _ _).transAcc _ _ _
    · split
      · exact ((hs.engineWrite _ _ _ _ _).transAcc _ _ _).setPoisonFor _ _ _
      · split
        · split
          · exact ((hs.engineWrite _ _ _ _ _).transAcc _ _ _).setPoisonFor _ _ _
          · exact (hs.engineWrite _ _ _ _ _).transAcc _ _ _
        · split
          · exact ((hs.engineWrite _ _ _ _ _).transAcc _ _ _).setPoisonFor _ _ _
          · exact (hs.engineWrite _ _ _ _ _).transAcc _ _ _

theorem Listed.ackUnit {s : State} (hs : Listed s) (o : Op) (g : Group) (status : Nat) (d : BitVec 64 × Bool) : Listed
    (s.ackUnit o g status d).1 := by
  unfold State.ackUnit
  dsimp only
  split
  · split
    · exact hs.landFabric _ _ _ _ _
    · exact hs
  · exact hs.engineRead _ _ _ _ _

end Sys2Proof.Claims
end

section
/-!
SUPPORT. Registers and flags stay listed: warps, ends of takes, records, groups.
-/

namespace Sys2Proof.Claims

open Sys2Proof.Machine

/-! ### Warps of varying width -/

/-- Each half of a cut warp has the warp's flags (R52). -/
theorem Listed.cutWarp {s : State} (hs : Listed s) (g : Group) (w : Warp) : Listed (s.cutWarp g w) := by
  unfold State.cutWarp
  refine Listed.modLanes (Listed.modGroup (Listed.of_eq hs rfl rfl) _ fun y hy => ?_) _ _ fun _ _ hl => ?_
  · refine ⟨hy.s, hy.lanes, fun u hu => ?_⟩
    obtain ⟨x, hx, hu⟩ := List.mem_flatMap.1 hu
    have hx := hy.warps x hx
    split at hu
    · rcases List.mem_cons.1 hu with h | h
      · exact h ▸ hx.half _ _ _ _
      · exact List.mem_singleton.1 h ▸ hx.half _ _ _ _
    · exact List.mem_singleton.1 hu ▸ hx
  · exact hl

theorem Listed.giveOutcome {s : State} (hs : Listed s) (gid : Nat) (w : Warp) (code : Nat) : Listed (s.giveOutcome gid w code) := by
  unfold State.giveOutcome
  split
  · exact hs
  · refine Listed.modGroup ?_ _ (fun _ h1 => h1.outcome _ _)
    exact hs.of_eq rfl rfl

/-- A joined warp's flags are 0, and the others keep theirs (R56). -/
theorem Listed.joinWarps {s : State} (hs : Listed s) (g : Group) (x y : Warp) : Listed (s.joinWarps g x y) := by
  unfold State.joinWarps
  extract_lets l u moved s1
  have h1 : Listed s1 := hs.of_eq rfl rfl
  refine ((h1.giveOutcome _ _ _).giveOutcome _ _ _).modGroup _ fun k hk => ?_
  refine ⟨hk.s, hk.lanes, fun w hw => ?_⟩
  obtain ⟨v, hv, rfl⟩ := List.mem_map.1 hw
  refine Rising.relink ?_ _ _
  split
  · exact Rising.join _ _
  · exact hk.warps v (List.mem_of_mem_filter hv)

/-! ### Lanes that go on -/

theorem Listed.lateFault {s : State} (hs : Listed s) (o : Op) : Listed (s.lateFault o) := by
  unfold State.lateFault
  exact (hs.cancelOp _).progError _ _ _ _ _ _

/-- An access has the effect of its family (R32, R319). -/
theorem Listed.doAccess {s : State} (hs : Listed s) (o : Op) (g : Group) : ∀ t, s.doAccess o g = some t → Listed t := by
  have hn := hs.noteOperands o true o.units
  unfold State.doAccess
  split
  · exact (hs.lateFault o).ofSome
  · split
    · exact (hs.doLd _ _ _).ofSome
    · exact (hs.doLd _ _ _).ofSome
    · exact (hs.doSt _ _).ofSome
    · exact (hn.doSt _ _).ofSome
    · exact (hs.doLdu _ _ _).ofSome
    · exact (hs.doLdt _ _ _).ofSome
    · exact (hs.doStt _ _).ofSome
    · exact (hs.doAtom _ _ _ _ _ _ _).ofSome
    · exact (hn.doAtom _ _ _ _ _ _ _).ofSome
    · exact (hs.doAtom _ _ _ _ _ _ _).ofSome
    · exact (hn.doBwinit _ _ _).ofSome
    · exact (hn.doBwarr _ _ _).ofSome
    · exact (hn.doErrack _ _ _).ofSome
    · exact (hs.doSemsig _ _ _).ofSome
    · exact listed_of_none

/-- An operation that accesses no memory of lanes has the effect of its family (R32). -/
theorem Listed.doPlain {s : State} (hs : Listed s) (o : Op) (g : Group) : ∀ t, s.doPlain o g = some t → Listed t := by
  unfold State.doPlain
  split
  · exact (hs.doMaint _ _ _).ofSome
  · exact (hs.doMaint _ _ _).ofSome
  · exact (hs.doMaint _ _ _).ofSome
  · exact (hs.doBmode _ _ _).ofSome
  · exact (hs.finishOp _).ofSome
  · exact (hs.finishOp _).ofSome
  · exact (hs.finishOp _).ofSome
  · exact (hs.finishOp _).ofSome
  · exact (hs.finishOp _).ofSome
  · exact (hs.doAcquire _ _ _).ofSome
  · exact (hs.doAcquire _ _ _).ofSome
  · exact (hs.doTrigger _ _).ofSome
  · exact (hs.doTflag _ _ _).ofSome
  · exact (hs.doMzero _ _ _).ofSome
  · exact (hs.doMload _ _ _).ofSome
  · exact (hs.doMout _ _ _).ofSome
  · exact listed_of_none

theorem Listed.reissue {s : State} {k : State → Op → State} (hs : Listed s) (o : Op) (hk : ∀ t x1, Listed t → Listed (k t x1)) : Listed
    (s.reissue o k) := by
  unfold State.reissue
  refine hk _ _ (Listed.freeHeld ?_ _)
  exact hs.of_eq rfl rfl

theorem Listed.goOut {s : State} (hs : Listed s) (o : Op) (g : Group) : Listed (s.goOut o g) := by
  unfold State.goOut
  refine hs.reissue o fun s p hs => ?_
  have hw : Listed (if Instr.writesMem p.instr then s.modWarp g.gid o.wid fun w => w.wrote p.units else s) :=
    .ite (hs.modWarp _ _ fun _ h => h.wrote _) hs
  have hm := hw.modOp o.id fun _ => p
  exact .getD (.bind fun y _ => hm.doAccess p y) hm

theorem Listed.failHeld {s : State} (hs : Listed s) (o : Op) (code : Nat) (lanes : List Nat) (addr : Nat) : Listed
    (s.failHeld o code lanes addr) := by
  unfold State.failHeld
  dsimp only
  split
  · exact (hs.freeHeld _).cancelOp _
  · exact ((hs.freeHeld _).cancelOp _).progError _ _ _ _ _ _

theorem Listed.resumeAccess {s : State} (hs : Listed s) (o : Op) (g : Group) : Listed (s.resumeAccess o g) := by
  unfold State.resumeAccess
  dsimp only
  split
  · exact hs.failHeld _ _ _ _
  · exact hs
  · exact (hs.modOp _ _).ite ((hs.modOp _ _).goOut _ _)

theorem Listed.resumeCopy {s : State} (hs : Listed s) (o : Op) (g : Group) : Listed (s.resumeCopy o g) := by
  unfold State.resumeCopy
  dsimp only
  split
  · exact hs.failHeld _ _ _ _
  · split
    · exact hs
    · exact hs.reissue _ (fun _ _ h1 => (h1.modOp _ _).startCopy _ _)

theorem Listed.resumeTile {s : State} (hs : Listed s) (o : Op) (g : Group) (ty : Ty) (t : Nat) : Listed (s.resumeTile o g ty t) := by
  unfold State.resumeTile
  split
  · exact hs.failHeld _ _ _ _
  · exact hs
  · exact hs.reissue _ (fun _ _ h1 => (h1.modOp _ _).startTile _ _ _ _)

theorem Listed.resumeMma {s : State} (hs : Listed s) (o : Op) (g : Group) (x : MmaOps) : Listed (s.resumeMma o g x) := by
  unfold State.resumeMma
  dsimp only
  split
  · exact hs
  · split
    · exact hs.failHeld _ _ _ _
    · exact hs
    · split
      · exact hs.failHeld _ _ _ _
      · exact hs.reissue _ (fun _ _ h1 => (h1.modOp _ _).setConv _ _ _)

/-! ### Ends of takes -/

theorem Listed.cpReads {s : State} (hs : Listed s) (ctx : Nat) (ps : List (Nat × Nat)) : Listed (s.cpReads ctx ps).1 := by
  induction ps generalizing s with
  | nil => exact hs
  | cons p ps ih =>
    have hk := hs.keepFresh ctx p.1 .read
    unfold State.cpReads
    dsimp only
    split
    · exact hs
    · split
      · exact hk
      · split
        · exact hk.readHome _ p.2
        · refine ih ?_
          split
          · exact (hk.readHome _ p.2).renew
          · exact hk.readHome _ p.2

theorem Listed.cpRead {s : State} (hs : Listed s) (ctx va n : Nat) : Listed (s.cpRead ctx va n).1 := by
  unfold State.cpRead
  exact hs.cpReads _ _

theorem Listed.cpWrites {s : State} (hs : Listed s) (ctx : Nat) (ps : List (Nat × Nat)) (x : Nat) :
    ∀ t, s.cpWrites ctx ps x = some t → Listed t := by
  induction ps generalizing s x with
  | nil => exact hs.ofSome
  | cons p ps ih =>
    unfold State.cpWrites
    split
    · exact listed_of_none
    · split
      · exact listed_of_none
      · exact ih (((hs.keepFresh _ _ _).writeHome _ _ _).noteRaces _ _) _

theorem Listed.cpCover {s : State} (hs : Listed s) (ctx va n : Nat) : Listed (s.cpCover ctx va n) := by
  unfold State.cpCover
  refine Listed.foldl (fun _ _ h1 => ?_) _ hs
  split
  · exact h1
  · exact (h1.setPoisonFor _ _ _).ite h1

theorem Listed.cpWrite {s : State} (hs : Listed s) (ctx va n x : Nat) : ∀ t, s.cpWrite ctx va n x = some t → Listed t :=
  Listed.map fun t ht => (hs.cpWrites _ _ _ t ht).cpCover _ _ _

theorem Listed.cpAtomic {s : State} (hs : Listed s) (ctx scope : Nat) (t : Trans) (f : Nat → Option Nat) : Listed
    (s.cpAtomic ctx scope t f).1 := by
  unfold State.cpAtomic
  dsimp only
  split
  · split
    · exact ((hs.evictLine _).mixedAll _ _).readUnit _ _
    · split
      · exact ((hs.evictLine _).mixedAll _ _).readUnit _ _
      · exact (((((hs.evictLine _).mixedAll _ _).readUnit _ _).writeUnit _ _ _).noteRaces _ _).renew
      · exact (((((hs.evictLine _).mixedAll _ _).readUnit _ _).writeUnit _ _ _).noteRaces _ _).renew
  · split
    · exact (hs.mixedAll _ _).readUnit _ _
    · split
      · exact (hs.mixedAll _ _).readUnit _ _
      · exact ((((hs.mixedAll _ _).readUnit _ _).writeUnit _ _ _).noteRaces _ _).renew
      · exact ((((hs.mixedAll _ _).readUnit _ _).writeUnit _ _ _).noteRaces _ _).renew

theorem Listed.takeFail {s : State} (hs : Listed s) (ctx code : Nat) : Listed (s.takeFail ctx code) := by
  unfold State.takeFail
  split
  · exact hs
  · exact (hs.logError _ _ _ _ _ _ _ _).ite (hs.modTake _ _)

theorem Listed.lostRecord {s : State} (hs : Listed s) (c : Ctx) (r : TrapRecord) : Listed (s.lostRecord c r) := by
  unfold State.lostRecord
  dsimp only
  split
  · split
    · split
      · exact (hs.modCtx _ _).progError _ _ _ _ _ _
      · exact hs.modCtx _ _
    · exact hs.modCtx _ _
  · split
    · exact (hs.modCtx _ _).progError _ _ _ _ _ _
    · exact (hs.modCtx _ _).takeFail _ _
  · split
    · exact hs.modCtx _ _
    · split
      · exact ((hs.modCtx _ _).takeFail _ _).ite (hs.modCtx _ _)
      · exact (hs.modCtx _ _).logError _ _ _ _ _ _ _ _

theorem Listed.notifyTrap {s : State} (hs : Listed s) (c : Ctx) : Listed (s.notifyTrap c) := by
  unfold State.notifyTrap
  dsimp only
  split
  · refine Listed.raiseMsi ?_ _
    split
    · exact hs
    · split
      · exact hs
      · exact (hs.keepFresh _ _ _).cpAtomic _ _ _ _
  · split
    · exact hs
    · split
      · exact hs
      · exact (hs.keepFresh _ _ _).cpAtomic _ _ _ _

theorem Listed.modQueue {s : State} (hs : Listed s) (n q : Nat) (f : QueueRun → QueueRun) : Listed (s.modQueue n q f) := by
  unfold State.modQueue
  exact hs.of_eq rfl rfl

theorem Listed.stopQueue {s : State} (hs : Listed s) (n q code idx : Nat) : Listed (s.stopQueue n q code idx) := by
  unfold State.stopQueue
  exact (hs.setField _ _ _ _).setReg _ _

theorem Listed.spoilTargets {s : State} (hs : Listed s) (o : Op) (g : Group) : Listed (s.spoilTargets o g) := by
  unfold State.spoilTargets
  exact Listed.foldl (fun _ _ h1 => (h1.engineWrite _ _ _ _ _).renew) _ hs

theorem Listed.abandon {s : State} (hs : Listed s) (tid : Nat) : Listed (s.abandon tid) := by
  unfold State.abandon
  refine Listed.foldl (fun _ _ h1 => ?_) _ hs
  split
  · exact (h1.spoilTargets _ _).ite h1
  · exact h1

theorem Listed.drain {s : State} (hs : Listed s) (tid : Nat) : Listed (s.drain tid) := by
  unfold State.drain
  refine Listed.foldl (fun s o hs => ?_) _ hs
  split
  · rename_i p y _ _
    have hc : Listed (if Instr.writesMem p.instr then s.copyAll tid (p.units.map MUnit.loc) else s) := .ite (hs.copyAll _ _) hs
    refine .ite (.getD (hc.doAccess p y) ?_) hs
    split
    · exact .getD (hc.doPlain p y) hc
    · exact hc
  · exact hs

theorem Listed.clearTake {s : State} (hs : Listed s) (t : Take) : Listed (s.clearTake t) := by
  unfold State.clearTake
  refine Listed.modCtx ?_ _ _
  refine Listed.dropWatches ?_ _
  exact Listed.filter_groups hs rfl rfl

theorem Listed.freeCopies {s : State} (hs : Listed s) (t : Take) : Listed (s.freeCopies t) := by
  unfold State.freeCopies
  exact hs.setField _ _ _ _

theorem Listed.addRecord {s : State} (hs : Listed s) (ctx : Nat) (r : TrapRecord) : Listed (s.addRecord ctx r) := by
  unfold State.addRecord
  exact hs.modCtx _ _

theorem Listed.endTake {s : State} (hs : Listed s) (t : Take) (code : Nat) (r : TrapRecord) : Listed (s.endTake t code r) := by
  unfold State.endTake
  extract_lets s1 s2 s3 s4 q s5
  have h1 : Listed s1 := (hs.drain _).abandon _
  have h2 : Listed s2 := ((h1.clearTake _).freeCopies _).addRecord _ _
  have h3 : Listed s3 := h2.modCtx _ _
  have h4 : Listed s4 := h3.of_eq rfl rfl
  have h5 : Listed s5 := .ite (h4.modQueue _ _ _) h4
  exact (h5.modQueue _ _ _).stopQueue _ _ _ _

theorem Listed.restoreGranule {s : State} (hs : Listed s) (c : Nat × Nat) : Listed (s.restoreGranule c) := by
  unfold State.restoreGranule
  refine Listed.foldl (fun _ _ h1 => (h1.copyLine _ _).noteWrite _ _) _ ?_
  exact hs.of_eq rfl rfl

theorem Listed.markRanges {s : State} (hs : Listed s) (tid ctx : Nat) (rs : List (Nat × Nat)) : Listed (s.markRanges tid ctx rs) := by
  unfold State.markRanges
  refine Listed.modTake ?_ _ _
  exact Listed.foldl (fun _ _ h1 => h1.keepFresh _ _ _) _ hs

theorem Listed.startTake {s : State} (hs : Listed s) (t : Take) : Listed (s.startTake t) := by
  unfold State.startTake
  exact Listed.foldl (fun _ _ h1 => h1.invalidateL1 _) _ (((hs.modTake _ _).markRanges _ _ _).ite (hs.modTake _ _))

theorem Listed.retakeTake {s : State} (hs : Listed s) (t : Take) : Listed (s.retakeTake t) := by
  unfold State.retakeTake
  refine Listed.startTake ?_ _
  refine Listed.modQueue ?_ _ _ _
  refine Listed.setField ?_ _ _ _ _
  refine Listed.modTake ?_ _ _
  refine Listed.modCtx ?_ _ _
  refine Listed.freeCopies ?_ _
  exact Listed.foldl (fun _ _ h1 => h1.restoreGranule _) _ ((hs.abandon _).clearTake _)

/-! ### Records of evicted groups -/

theorem Listed.reserve {s : State} (hs : Listed s) (ys : List Group) : Listed (s.reserve ys) := by
  induction ys generalizing s with
  | nil =>
    unfold State.reserve
    exact hs
  | cons x xs ih =>
    unfold State.reserve
    split
    · exact ih hs
    · refine ih (hs.modGroup _ (fun _ h1 => ?_))
      exact h1.of_eq rfl rfl rfl

theorem Listed.writeSection {s : State} (hs : Listed s) (g : Group) (x : Section) (a n : Nat) : Listed (s.writeSection g x a n) := by
  unfold State.writeSection
  refine Listed.foldl (fun _ _ h1 => h1.writeHome _ _ _) _ ?_
  exact Listed.foldl (fun _ _ h1 => h1.writeHome _ _ _) _ hs

theorem Listed.writeRecord {s : State} (hs : Listed s) (g : Group) (r : Record) : Listed (s.writeRecord g r) := by
  unfold State.writeRecord
  refine Listed.renew ?_
  refine Listed.foldl (fun _ _ h1 => (h1.setPoisonFor _ _ _).ite h1) _ ?_
  exact Listed.foldl (fun _ _ h1 => h1.writeSection _ _ _ _) _ hs

/-- A group's image in a record lists its registers afresh (R444). -/
theorem ListedGroup.restoreImage {g : Group} (hg : ListedGroup g) (s : State) (r : Record) (x : Section) (off : Nat) :
    ListedGroup (s.restoreImage r g x off) := by
  unfold State.restoreImage
  split
  · exact ⟨Rising.nil.putAll _ _, hg.lanes, hg.warps⟩
  · exact hg.modLane _ fun _ _ => Rising.nil.putAll _ _
  · exact hg.of_eq rfl rfl rfl
  · exact hg.of_eq rfl rfl rfl
  · exact hg

theorem Listed.freeSection {s : State} (hs : Listed s) (g : Group) (x : Section) : Listed (s.freeSection g x).1 := by
  unfold State.freeSection
  split
  · exact hs
  · exact hs
  · exact hs
  · exact hs.of_eq rfl rfl
  · exact hs
  · exact hs.of_eq rfl rfl
  · exact hs

theorem ListedGroup.freeSection {g : Group} (hg : ListedGroup g) (s : State) (x : Section) : ListedGroup (s.freeSection g x).2 := by
  unfold State.freeSection
  split
  · exact hg.of_eq rfl rfl rfl
  · exact hg.modLane _ fun _ hl => hl.freeLane _ _ _
  · exact ⟨hg.s, hg.lanes, forall_mem_modify (fun w _ => Rising.freeWarp _ _ w) _ _ hg.warps⟩
  · exact hg.of_eq rfl rfl rfl
  · exact hg.of_eq rfl rfl rfl
  · exact hg
  · exact hg

/-- A group read back from its record (R443, R444), and the state after it. -/
theorem Listed.readBack_both {s : State} (hs : Listed s) {g : Group} (hg : ListedGroup g) :
    Listed (s.readBack g).1 ∧ ListedGroup (s.readBack g).2.1 := by
  have hfree : ∀ (xs : List (Section × Nat × Nat)) (z : State × Group), Listed z.1 ∧ ListedGroup z.2 →
      Listed (xs.foldl (fun z x => z.1.freeSection z.2 x.1) z).1 ∧ ListedGroup (xs.foldl (fun z x => z.1.freeSection z.2 x.1) z).2 := by
    intro xs
    induction xs with
    | nil => exact fun _ hz => hz
    | cons x xs ih => exact fun z hz => ih _ ⟨hz.1.freeSection _ _, hz.2.freeSection _ _⟩
  unfold State.readBack
  split
  · exact ⟨hs, hg⟩
  · extract_lets xs y open_ z q
    have hy : ListedGroup y := ListedGroup.foldl (fun _ _ h => h.restoreImage _ _ _ _) _ hg
    have hz : Listed z.1 ∧ ListedGroup z.2 := hfree _ _ ⟨hs, hy⟩
    refine ⟨?_, hz.2.of_eq rfl rfl rfl⟩
    change Listed (if open_.isEmpty then (false, z.1) else z.1.renew.coin).2
    split
    · exact hz.1
    · exact hz.1.renew.coin

/-! ### Groups -/

/-- A group that has retired leaves, or stays with no s register listed while its team runs (R45). -/
theorem Listed.leave {s : State} (hs : Listed s) (g : Group) : Listed (s.leave g) := by
  have hd := hs.dropWatches fun k => k == g.gid
  unfold State.leave
  dsimp only
  split
  · exact hd.filter_groups rfl rfl
  · split
    · exact hd.filter_groups rfl rfl
    · exact Listed.modGroup (hd.of_eq rfl rfl) _ fun _ hk => ⟨Rising.nil, hk.lanes, hk.warps⟩

theorem Listed.advanceQueue {s : State} (hs : Listed s) (n q : Nat) : Listed (s.advanceQueue n q) := by
  unfold State.advanceQueue
  exact (hs.setField _ _ _ _).modQueue _ _ _

theorem Listed.passLaunch {s : State} (hs : Listed s) (t : Take) : Listed (s.passLaunch t) := by
  unfold State.passLaunch
  exact (hs.advanceQueue _ _).modQueue _ _ _

theorem Listed.loadTimer {s : State} (hs : Listed s) (n q : Nat) : Listed (s.loadTimer n q) := by
  unfold State.loadTimer
  exact hs.modQueue _ _ _

/-- An offered group's s registers list its arguments (R433). -/
theorem ListedGroup.offered (s : State) (t : Take) : ListedGroup (s.offered t) := by
  have hn := ListedGroup.newGroup s.nextGid t.tid .kernel t.nextGroup (t.nextGroup % t.slate.team) t.slate.warps t.slate.width t.slate.cut
    s.nextOrder s.fresh t.slate.pro (t.slate.pro == t.slate.full) (lanes := groupLanes t) fun l hl => by
      obtain ⟨i, _, rfl⟩ := List.mem_map.1 hl
      exact Rising.newLane _ _ _
  exact ⟨Rising.nil.putAll _ _, hn.lanes, hn.warps⟩

theorem Listed.acquireFlags {s : State} (hs : Listed s) (g : Group) (core : Nat) (t : Take) : Listed (s.acquireFlags g core t) := by
  unfold State.acquireFlags
  refine Listed.foldl (fun _ _ h1 => ?_) _ hs
  exact Listed.foldl (fun _ _ h11 => h11.dropL1 _ _) _ (h1.rangeLines _ _ _)

theorem Listed.without {s : State} (hs : Listed s) (gids : List Nat) : Listed (s.without gids) := by
  unfold State.without
  exact Listed.filter_groups hs rfl rfl

theorem Listed.evictAll {s : State} (hs : Listed s) (vs : List Group) : Listed (s.evictAll vs) := by
  unfold State.evictAll
  refine Listed.foldl (fun _ _ h1 => ?_) _ (hs.reserve _)
  refine h1.modGroup _ (fun _ h11 => ?_)
  split
  · exact h11.of_eq rfl rfl rfl
  · exact h11

theorem Listed.fileRecord {s : State} (hs : Listed s) (gid : Nat) : Listed (s.fileRecord gid) := by
  unfold State.fileRecord
  split
  · exact hs
  · exact Listed.modGroup (.getD (.map fun g _ => hs.writeRecord g _) hs) _ fun _ hg => hg.of_eq rfl rfl rfl

theorem Listed.bringBack {s : State} (hs : Listed s) {g : Group} (hg : ListedGroup g) (c : Nat) (spans : List Span) :
    Listed (s.bringBack g c spans) := by
  obtain ⟨hr, hy⟩ := hs.readBack_both hg
  have hm := ((hr.renew.modGroup g.gid fun _ _ => hy.seat (s.readBack g).1 (.core c) spans).invalidateL1 c).trimL1 c
  exact .ite (hm.progError _ _ _ _ _ _) hm

end Sys2Proof.Claims
end

section
/-!
SUPPORT. Registers and flags stay listed: queues, the device and the outside, system instructions, completions, the scheduler.
-/

namespace Sys2Proof.Claims

open Sys2Proof.Machine

/-! ### Queues -/

theorem Listed.failQueue {s : State} (hs : Listed s) (n q code : Nat) : Listed (s.failQueue n q code) := by
  unfold State.failQueue
  exact (hs.stopQueue _ _ _ _).modQueue _ _ _

theorem Listed.logPoison {s : State} (hs : Listed s) (n : Nat) (f : Nat × Nat) : Listed (s.logPoison n f) := by
  unfold State.logPoison
  exact (hs.logError _ _ _ _ _ _ _ _).ite hs

theorem Listed.failEntry {s : State} (hs : Listed s) (n q : Nat) (f : Nat × Nat) : Listed (s.failEntry n q f) := by
  unfold State.failEntry
  exact (hs.logPoison _ _).failQueue _ _ _

theorem Listed.headEntry {s : State} (hs : Listed s) (n q : Nat) : Listed (s.headEntry n q).1 := by
  unfold State.headEntry
  split
  · exact hs
  · exact hs.cpRead _ _ _

theorem Listed.takeUp {s : State} {k : State → Entry → State} (hs : Listed s) (n q op : Nat) (hk : ∀ t x1, Listed t → Listed
    (k t x1)) : Listed (s.takeUp n q op k) := by
  unfold State.takeUp
  dsimp only
  split
  · exact hs
  · split
    · exact hs.failQueue _ _ _
    · split
      · exact (hs.headEntry _ _).failEntry _ _ _
      · split
        · exact (hs.headEntry _ _).failQueue _ _ _
        · split
          · exact hk _ _ (hs.headEntry _ _)
          · exact hs

theorem Listed.begin_ {s : State} (hs : Listed s) (n q : Nat) (e : Entry) : Listed (s.begin_ n q e) := by
  unfold State.begin_
  refine Listed.modQueue ?_ _ _ _
  exact hs.of_eq rfl rfl

theorem Listed.readTable {s : State} (hs : Listed s) (ctx va n count : Nat) : Listed (s.readTable ctx va n count).1 := by
  unfold State.readTable
  dsimp only
  split
  · exact hs
  · exact hs.cpRead _ _ _

theorem Listed.readTileMap {s : State} (hs : Listed s) (ctx va : Nat) : Listed (s.readTileMap ctx va).1 := by
  unfold State.readTileMap
  dsimp only
  split
  · exact hs
  · split
    · exact hs.cpRead _ _ _
    · split
      · exact hs.cpRead _ _ _
      · split
        · exact (hs.cpRead _ _ _).readTable _ _ _ _
        · exact ((hs.cpRead _ _ _).readTable _ _ _ _).readTable _ _ _ _

theorem Listed.readTables {s : State} (hs : Listed s) (ctx x : Nat) : Listed (s.readTables ctx x).1 := by
  unfold State.readTables
  exact (((hs.readTileMap _ _).readTable _ _ _ _).readTable _ _ _ _).readTable _ _ _ _

theorem Listed.refuse {s : State} (hs : Listed s) (n q ctx code : Nat) (fails : List (Nat × Nat)) : Listed
    (s.refuse n q ctx code fails) := by
  unfold State.refuse
  refine Listed.addRecord ?_ _ _
  refine Listed.failQueue ?_ _ _ _
  exact Listed.foldl (fun _ _ h1 => h1.logPoison _ _) _ hs

theorem Listed.launchTake {s : State} (hs : Listed s) (n q : Nat) (t : Take) : Listed (s.launchTake n q t) := by
  unfold State.launchTake
  dsimp only
  split
  · refine Listed.loadTimer ?_ _ _
    refine Listed.modQueue ?_ _ _ _
    refine Listed.startTake ?_ _
    refine Listed.modCtx ?_ _ _
    exact hs.of_eq rfl rfl
  · refine Listed.passLaunch ?_ _
    refine Listed.loadTimer ?_ _ _
    refine Listed.modQueue ?_ _ _ _
    refine Listed.startTake ?_ _
    refine Listed.modCtx ?_ _ _
    exact hs.of_eq rfl rfl

theorem Listed.trySem {s : State} (hs : Listed s) (n q : Nat) (e : Entry) : Listed (s.trySem n q e) := by
  unfold State.trySem
  dsimp only
  split
  · exact hs.failEntry _ _ _
  · split
    · exact hs.failEntry _ _ _
    · split
      · exact ((hs.keepFresh _ _ _).cpAtomic _ _ _ _).failEntry _ _ _
      · split
        · refine Listed.advanceQueue ?_ _ _
          refine Listed.loadTimer ?_ _ _
          exact Listed.foldl (fun _ _ h1 => h1.invalidateL1 _) _ ((hs.keepFresh _ _ _).cpAtomic _ _ _ _)
        · exact ((hs.keepFresh _ _ _).cpAtomic _ _ _ _).modQueue _ _ _

theorem Listed.copyUnit8 {s : State} (hs : Listed s) (n q : Nat) (e : Entry) : Listed (s.copyUnit8 n q e).1 := by
  unfold State.copyUnit8
  have hr := hs.cpRead (s.qctx n q) (e.a + 8 * (s.queueRun n q).wait) 8
  dsimp only
  split
  · exact hr
  · split
    · exact hr
    · rename_i t ht
      exact (hr.cpWrites _ _ _ t ht).modQueue _ _ _

theorem Listed.copyUnits8 {s : State} (hs : Listed s) (n q : Nat) (e : Entry) (n1 : Nat) : Listed (s.copyUnits8 n q e n1).1 := by
  induction n1 generalizing s with
  | zero =>
    unfold State.copyUnits8
    exact hs
  | succ n ih =>
    unfold State.copyUnits8
    dsimp only
    split
    · exact hs.copyUnit8 _ _ _
    · exact ih (hs.copyUnit8 _ _ _)

theorem Listed.copyPart {s : State} (hs : Listed s) (n q : Nat) : ∀ t, s.copyPart n q = some t → Listed t := by
  have hc := hs.copyUnit8 n q ⟨(s.queueRun n q).entry⟩
  unfold State.copyPart
  dsimp only
  split
  · refine Listed.ofSome ?_
    split
    · exact hc.failEntry _ _ _
    · exact hc
  · exact listed_of_none

theorem Listed.ring {s : State} (hs : Listed s) (n q tail : Nat) : Listed (s.ring n q tail) := by
  unfold State.ring
  exact hs.setField _ _ _ _

theorem Listed.clearErr {s : State} (hs : Listed s) (n q : Nat) : Listed (s.clearErr n q) := by
  unfold State.clearErr
  exact hs.setField _ _ _ _

theorem Listed.cleanPart {s : State} (hs : Listed s) (p : Nat) : Listed (s.cleanPart p) := by
  unfold State.cleanPart
  exact Listed.foldl (fun _ _ h1 => h1.cleanLine _) _ hs

theorem Listed.resetTake {s : State} (hs : Listed s) (t : Take) (code : Nat) : Listed (s.resetTake t code) := by
  have hu := hs.abandon t.tid
  have hr := ((hu.clearTake t).freeCopies (((s.abandon t.tid).findTake t.tid).getD t)).addRecord t.ctx (s.bareRecord t code)
  exact hr.of_eq rfl rfl

theorem Listed.resetQueue {s : State} (hs : Listed s) (n q code : Nat) : Listed (s.resetQueue n q code) := by
  unfold State.resetQueue
  exact (hs.stopQueue _ _ _ _).modQueue _ _ _

theorem Listed.partitionReset {s : State} (hs : Listed s) (p : Nat) (by_ : Option (Nat × Nat)) : Listed (s.partitionReset p by_) := by
  unfold State.partitionReset
  refine Listed.foldl (fun _ _ h1 => ?_) _ ?_
  · exact Listed.foldl (fun _ _ h11 => h11.resetQueue _ _ _) _ h1
  · refine Listed.of_eq (Listed.cleanPart ?_ _) rfl rfl
    exact Listed.foldl (fun _ _ h1 => h1.resetTake _ _) _ hs

theorem Listed.ctxStatus {s : State} (hs : Listed s) (k : Nat) : Listed (s.ctxStatus k) := by
  unfold State.ctxStatus
  exact hs.setReg _ _

theorem Listed.contextCreate {s : State} (hs : Listed s) (id dpart : Nat) (priv dpriv : Bool) : Listed
    (s.contextCreate id dpart priv dpriv) := by
  unfold State.contextCreate
  split
  · exact hs.ctxStatus _
  · split
    · exact hs.ctxStatus _
    · refine Listed.ctxStatus ?_ _
      exact hs.of_eq rfl rfl

theorem Listed.contextEnd {s : State} (hs : Listed s) (id : Nat) : Listed (s.contextEnd id) := by
  unfold State.contextEnd
  split
  · exact hs.ctxStatus _
  · split
    · exact hs.ctxStatus _
    · refine Listed.ctxStatus ?_ _
      exact hs.of_eq rfl rfl

/-! ### The device and the outside -/

theorem Listed.bistResults {s : State} (hs : Listed s) (st : Nat) (paths : List Nat) : Listed (s.bistResults st paths) := by
  have hf : Listed { s with regs := s.regs.filter fun x => x.1 < 0x30100 || 0x30300 ≤ x.1 } := ⟨hs.1.filter _, hs.2⟩
  exact Listed.foldl (fun _ _ h => h.setReg _ _) _ (hf.setReg _ _)

theorem Listed.testStack {s : State} (hs : Listed s) (m : Nat) : Listed (s.testStack m) := by
  unfold State.testStack
  exact hs.of_eq rfl rfl

theorem Listed.testL2 {s : State} (hs : Listed s) (m : Nat) : Listed (s.testL2 m) := by
  unfold State.testL2
  exact hs.of_eq rfl rfl

theorem Listed.testMemory {s : State} (hs : Listed s) (scope : Nat) (ms : List Nat) : Listed (s.testMemory scope ms) := by
  unfold State.testMemory
  dsimp only
  split
  · refine Listed.foldl (fun _ _ h1 => h1.testStack _) _ ?_
    split
    · exact Listed.foldl (fun _ _ h1 => h1.testL2 _) _ hs
    · exact hs
  · split
    · exact Listed.foldl (fun _ _ h1 => h1.testL2 _) _ hs
    · exact hs

theorem Listed.bistGo {s : State} (hs : Listed s) (scope mask : Nat) : Listed (s.bistGo scope mask) := by
  unfold State.bistGo
  dsimp only
  split
  · exact (hs.setReg _ _).setField _ _ _ _
  · split
    · exact (hs.setReg _ _).bistResults _ _
    · exact ((hs.setReg _ _).bistResults _ _).of_eq rfl rfl

theorem Listed.trainPort {s : State} (hs : Listed s) (i lanes peer : Nat) : Listed (s.trainPort i lanes peer) := by
  unfold State.trainPort
  exact hs.setReg _ _

theorem Listed.dropPorts {s : State} (hs : Listed s) (old : State) : Listed (s.dropPorts old) := by
  unfold State.dropPorts
  exact Listed.foldl (fun _ _ h1 => .ite (h1.trainPort _ _ _) h1) _ hs

theorem Listed.fence {s : State} (hs : Listed s) (x : Nat) : Listed (s.fence x) := by
  unfold State.fence
  dsimp only
  split
  · exact hs.setField _ _ _ _
  · exact hs.setField _ _ _ _
  · exact hs.setField _ _ _ _
  · split
    · exact hs
    · exact (hs.setField _ _ _ _).ite (hs.setField _ _ _ _)
  · exact hs

theorem Listed.setLink {s : State} (hs : Listed s) (width rate : Nat) (ide : Bool) : Listed (s.setLink width rate ide) := by
  unfold State.setLink
  exact hs.setReg _ _

theorem Listed.trainLink {s : State} (hs : Listed s) : Listed s.trainLink := by
  unfold State.trainLink
  exact hs.setLink _ _ _

theorem Listed.trainStacks {s : State} (hs : Listed s) : Listed s.trainStacks := by
  unfold State.trainStacks
  exact hs.setField _ _ _ _

theorem Listed.bootTest {s : State} (hs : Listed s) (warm : Bool) : Listed (s.bootTest warm) := by
  unfold State.bootTest
  exact Listed.foldl (fun _ _ h1 => h1.fence _) _ ((hs.testMemory _ _).bistResults _ _)

theorem Listed.bringUp {s : State} (hs : Listed s) (warm : Bool) : Listed (s.bringUp warm) := by
  unfold State.bringUp
  dsimp only
  split
  · exact ((hs.trainLink.setField _ _ _ _).setField _ _ _ _).renew
  · refine Listed.renew ?_
    refine Listed.setField ?_ _ _ _ _
    refine Listed.bootTest ?_ _
    refine Listed.trainStacks ?_
    exact hs.trainLink.of_eq rfl rfl

/-- What is left lists no register and no group (R503). -/
theorem Listed.lost (s : State) (on : Bool) : Listed (s.lost on) := ⟨Rising.nil, fun _ hg => absurd hg List.not_mem_nil⟩

theorem Listed.warm (s : State) : Listed s.warm := by
  have hl : Listed { s.lost true with mem := s.mem, poison := s.poison, veil := s.veil } := (Listed.lost s true).of_eq rfl rfl
  exact (hl.setField _ _ _ _).bringUp _

theorem Listed.pprWrite {s : State} (hs : Listed s) (v : Nat) : Listed (s.pprWrite v) := by
  unfold State.pprWrite
  exact hs.ite (hs.setReg _ _)

theorem Listed.spoilRow {s : State} (hs : Listed s) (m c bank row : Nat) : Listed (s.spoilRow m c bank row) := by
  unfold State.spoilRow
  refine Listed.renew ?_
  exact Listed.foldl (fun _ _ h1 => h1.setCells _ _ _) _ hs

theorem Listed.dpcfg {s : State} (hs : Listed s) (v : Nat) : Listed (s.dpcfg v) := by
  unfold State.dpcfg
  split
  · exact hs
  · exact Listed.foldl (fun _ _ h1 => h1.ite (h1.setField _ _ _ _)) _ hs

theorem Listed.pstate {s : State} (hs : Listed s) (p v : Nat) : Listed (s.pstate p v) := by
  unfold State.pstate
  dsimp only
  split
  · exact hs
  · exact (hs.setReg _ _).of_eq rfl rfl

theorem Listed.clon {s : State} (hs : Listed s) (v : Nat) : Listed (s.clon v) := by
  unfold State.clon
  exact Listed.foldl (fun _ _ h1 => h1.invalidateL1 _) _ ((hs.setReg _ _).setReg _ _)

theorem Listed.scon {s : State} (hs : Listed s) (v : BitVec 64) : Listed (s.scon v) := by
  unfold State.scon
  exact (hs.setReg _ _).setReg _ _

theorem Listed.banklim {s : State} (hs : Listed s) (m v : Nat) : Listed (s.banklim m v) := by
  unfold State.banklim
  exact (hs.setReg _ _).ite hs

theorem Listed.clearTrip {s : State} (hs : Listed s) : Listed s.clearTrip := by
  unfold State.clearTrip
  dsimp only
  split
  · exact hs.renew
  · refine Listed.foldl (fun _ _ h1 => h1.hwError _ _ _ _) _ ?_
    exact ((hs.setField _ _ _ _).renew).of_eq rfl rfl

theorem Listed.hostPieceRead {s : State} (hs : Listed s) (a n : Nat) : Listed (s.hostPieceRead a n).1 := by
  unfold State.hostPieceRead
  dsimp only
  split
  · exact (hs.evictLine _).readBelow _ _
  · exact (hs.readHome _ _).of_eq rfl rfl

theorem Listed.hostPieceWrite {s : State} (hs : Listed s) (a n x : Nat) : Listed (s.hostPieceWrite a n x) := by
  unfold State.hostPieceWrite
  dsimp only
  split
  · exact (hs.evictLine _).writeBelow _ _ _
  · exact hs.writeHome _ _ _

theorem Listed.hostRead {s : State} (hs : Listed s) (a n : Nat) : Listed (s.hostRead a n).1 := by
  unfold State.hostRead
  generalize pieces 8 n a n = ps
  induction ps generalizing s with
  | nil => exact hs
  | cons p ps ih => exact ih (hs.hostPieceRead _ _)

theorem Listed.hostWrite {s : State} (hs : Listed s) (a n x : Nat) (poison : Bool) : Listed (s.hostWrite a n x poison) := by
  unfold State.hostWrite
  dsimp only
  split
  · refine Listed.foldl (fun _ _ h1 => h1.setPoisonFor _ _ _) _ ?_
    refine Listed.noteRaces ?_ _ _
    refine Listed.foldl_fst (fun _ _ h1 => ?_) _ ?_
    · exact h1.hostPieceWrite _ _ _
    · exact hs
  · refine Listed.clearCovered ?_ _ _
    refine Listed.noteRaces ?_ _ _
    refine Listed.foldl_fst (fun _ _ h1 => ?_) _ ?_
    · exact h1.hostPieceWrite _ _ _
    · exact hs

theorem Listed.incoming {s : State} {f : State → Window → Trans → State} (hs : Listed s) (sender ctx va n : Nat) (k : AccKind)
    (fits : Window → Bool) (hf : ∀ t x1 x2, Listed t → Listed (f t x1 x2)) : Listed (s.incoming sender ctx va n k fits f) := by
  unfold State.incoming
  split
  · split
    · exact hs.renew
    · split
      · exact hs.renew.keepFresh _ _ _
      · exact hf _ _ _ (hs.renew.keepFresh _ _ _)
  · exact hs.renew

theorem Listed.addReduce {s : State} (hs : Listed s) (n x : Nat) (bf16 : Bool) (t : Trans) : Listed (s.addReduce n x bf16 t) := by
  unfold State.addReduce
  dsimp only
  split
  · exact (((((hs.evictLine _).noteRaces _ _).readBelow _ _).writeBelow _ _ _).renew).logError _ _ _ _ _ _ _ _
  · exact (((hs.evictLine _).noteRaces _ _).readBelow _ _).writeBelow _ _ _

theorem Listed.writeWindow {s : State} (hs : Listed s) (w : Window) (t : Trans) (n x : Nat) (poison : Bool) : Listed
    (s.writeWindow w t n x poison) := by
  unfold State.writeWindow
  dsimp only
  split
  · split
    · exact ((hs.writeHome _ _ _).noteRaces _ _).setPoisonFor _ _ _
    · exact (hs.writeHome _ _ _).noteRaces _ _
  · split
    · exact hs
    · split
      · split
        · split
          · exact ((((hs.evictLine _).noteRaces _ _).writeBelow _ _ _).renew).setPoisonFor _ _ _
          · exact (((hs.evictLine _).noteRaces _ _).writeBelow _ _ _).renew
        · split
          · exact (hs.addReduce _ _ _ _).setPoisonFor _ _ _
          · exact hs.addReduce _ _ _ _
      · split
        · split
          · exact ((((hs.evictLine _).noteRaces _ _).writeBelow _ _ _).renew).setPoisonFor _ _ _
          · exact (((hs.evictLine _).noteRaces _ _).writeBelow _ _ _).renew
        · split
          · exact (hs.addReduce _ _ _ _).setPoisonFor _ _ _
          · exact hs.addReduce _ _ _ _

/-! ### Security commands -/

theorem Listed.setMbox {s : State} (hs : Listed s) (i : Nat) (xs : List Byte) : Listed (s.setMbox i xs) := by
  unfold State.setMbox
  exact hs.of_eq rfl rfl

theorem Listed.newNonce {s : State} (hs : Listed s) : Listed s.newNonce := by
  unfold State.newNonce
  exact hs.of_eq rfl rfl

theorem Listed.secStatus {s : State} (hs : Listed s) (st : Nat) : Listed (s.secStatus st) := by
  unfold State.secStatus
  exact hs.setReg _ _

theorem Listed.enrolled {s : State} (hs : Listed s) (t : Nat) : Listed (s.enrolled t) := by
  unfold State.enrolled
  refine Listed.secStatus ?_ _
  exact hs.of_eq rfl rfl

theorem Listed.enroll {s : State} (hs : Listed s) : Listed s.enroll := by
  unfold State.enroll
  dsimp only
  split
  · exact hs.secStatus _
  · split
    · split
      · exact hs.secStatus _
      · exact (hs.secStatus _).ite (hs.enrolled _)
    · split
      · exact hs.secStatus _
      · split
        · exact hs.secStatus _
        · split
          · exact hs.secStatus _
          · exact (hs.newNonce.enrolled _).ite (hs.newNonce.secStatus _)

theorem Listed.revoke {s : State} (hs : Listed s) : Listed s.revoke := by
  unfold State.revoke
  dsimp only
  split
  · exact hs.secStatus _
  · split
    · exact hs.secStatus _
    · split
      · exact hs.secStatus _
      · split
        · exact hs.secStatus _
        · split
          · exact hs.secStatus _
          · split
            · refine Listed.secStatus ?_ _
              exact hs.of_eq rfl rfl
            · exact hs.newNonce.secStatus _

theorem Listed.update {s : State} (hs : Listed s) : Listed s.update := by
  unfold State.update
  dsimp only
  split
  · exact hs.secStatus _
  · split
    · exact hs.secStatus _
    · split
      · exact hs.secStatus _
      · split
        · exact hs.newNonce.secStatus _
        · split
          · exact hs.newNonce.secStatus _
          · split
            · exact hs.newNonce.secStatus _
            · refine Listed.secStatus ?_ _
              exact hs.of_eq rfl rfl

theorem Listed.attest {s : State} (hs : Listed s) : Listed s.attest := by
  unfold State.attest
  refine Listed.secStatus ?_ _
  refine Listed.setMbox ?_ _ _
  exact hs.of_eq rfl rfl

theorem Listed.devkey {s : State} (hs : Listed s) : Listed s.devkey := by
  unfold State.devkey
  exact (hs.setMbox _ _).secStatus _

theorem Listed.secCommand {s : State} (hs : Listed s) (v : Nat) : Listed (s.secCommand v) := by
  unfold State.secCommand
  split
  · exact hs
  · split
    · exact hs.attest
    · exact hs.enroll
    · exact hs.revoke
    · exact hs.update
    · exact hs.devkey
    · exact hs.secStatus _

/-! ### Registers of the device and of contexts -/

theorem Listed.writeQueue {s : State} (hs : Listed s) (n q r v : Nat) : Listed (s.writeQueue n q r v) := by
  unfold State.writeQueue
  dsimp only
  split
  · exact hs.ite ((hs.setReg _ _).modQueue _ _ _)
  · split
    · exact hs.setReg _ _
    · exact (hs.ring _ _ _).ite hs

theorem Listed.ctxCommand {s : State} (hs : Listed s) (v : Nat) : Listed (s.ctxCommand v) := by
  unfold State.ctxCommand
  split
  · exact hs.contextCreate _ _ _ _
  · exact hs.contextEnd _
  · exact hs.ctxStatus _

theorem Listed.noteWindow {s : State} (hs : Listed s) (w : Nat) : Listed (s.noteWindow w) := by
  unfold State.noteWindow
  split
  · exact hs
  · exact hs.of_eq rfl rfl

theorem Listed.fenceWrite {s : State} (hs : Listed s) (off v : Nat) : Listed (s.fenceWrite off v) := by
  unfold State.fenceWrite
  exact hs.ite ((hs.setReg _ _).dropPorts _)

theorem Listed.resetWrite {s : State} (hs : Listed s) (v : Nat) : Listed (s.resetWrite v) := by
  unfold State.resetWrite
  split
  · exact Listed.warm _
  · exact Listed.foldl (fun _ _ h1 => h1.partitionReset _ _) _ hs

theorem Listed.writePower {s : State} (hs : Listed s) (off v : Nat) : Listed (s.writePower off v) := by
  unfold State.writePower
  split
  · exact hs.pstate _ _
  · exact hs.banklim _ _
  · split
    · exact hs.dpcfg _
    · split
      · exact hs.clon _
      · split
        · exact hs.scon _
        · split
          · exact hs.setReg _ _
          · split
            · exact hs.setReg _ _
            · split
              · exact hs.clearTrip.ite hs
              · exact hs

theorem Listed.writeLink {s : State} (hs : Listed s) (off v : Nat) : Listed (s.writeLink off v) := by
  unfold State.writeLink
  split
  · exact (hs.setField _ _ _ _).ite (hs.setReg _ _)
  · exact (hs.noteWindow _).setReg _ _
  · exact (hs.setReg _ _).ite hs

theorem Listed.writeLog {s : State} (hs : Listed s) (off v : Nat) : Listed (s.writeLog off v) := by
  unfold State.writeLog
  split
  · exact hs.ite (hs.setReg _ _)
  · split
    · exact hs.setField _ _ _ _
    · split
      · exact (hs.setField _ _ _ _).setField _ _ _ _
      · split
        · exact (hs.setReg _ _).ite hs
        · exact hs

theorem Listed.writeHostOnly {s : State} (hs : Listed s) (off v : Nat) : Listed (s.writeHostOnly off v) := by
  unfold State.writeHostOnly
  split
  · exact hs.setMbox _ _
  · exact hs.fenceWrite _ _
  · split
    · exact hs.secCommand _
    · split
      · exact hs.resetWrite _
      · exact (hs.pprWrite _).ite hs

theorem Listed.writeCp {s : State} (hs : Listed s) (off v : Nat) : Listed (s.writeCp off v) := by
  unfold State.writeCp
  split
  · exact hs.writeQueue _ _ _ _
  · exact hs.ite (hs.setReg _ _)
  · exact hs.ite (hs.setReg _ _)
  · exact (hs.ctxCommand _).ite hs

theorem Listed.writeDev {s : State} (hs : Listed s) (off v : Nat) : Listed (s.writeDev off v) := by
  unfold State.writeDev
  split
  · exact hs
  · split
    · exact hs.writeCp _ _
    · split
      · exact hs.writeLog _ _
      · split
        · exact (hs.bistGo _ _).ite (hs.setReg _ _)
        · split
          · exact hs
          · split
            · exact hs.writeLink _ _
            · exact (hs.writePower _ _).ite (hs.writeHostOnly _ _)

/-! ### System instructions -/

theorem Listed.sysWrite {s : State} (hs : Listed s) (g : Group) (sel reg v : Nat) :
    ∀ t, s.sysWrite g sel reg v = .ok t → Listed t := by
  intro t ht
  unfold State.sysWrite at ht
  split at ht
  · split at ht
    · cases ht
    · split at ht
      · exact Except.ok.inj ht ▸ hs
      · split at ht
        · cases ht
        · cases ht
        · split at ht
          · cases ht
          · exact Except.ok.inj ht ▸ hs.writeDev _ _
  · split at ht
    · cases ht
    · split at ht
      · cases ht
      · exact Except.ok.inj ht ▸ hs.modCtx _ _

theorem Listed.sysIssue {s : State} (hs : Listed s) (h : Hdr) (i : Instr) (codes dst : List Nat) (vals : Env → List Nat) : Listed
    (s.sysIssue h i codes dst vals) := by
  unfold State.sysIssue
  dsimp only
  split
  · exact hs
  · split
    · exact hs.progError _ _ _ _ _ _
    · refine hs.checked _ _ (fun _ => ?_) (fun _ => hs.undefineLost _ _ _ _)
      split
      · exact (hs.undefine _ _ _ _).ite (hs.fail _ _ _ _ _)
      · exact (((hs.launch _ _).unsettle _ _).undefineLost _ _ _ _).renew

theorem Listed.endByHandle {s : State} (hs : Listed s) (tret : Bool) (handle : Nat) : Listed (s.endByHandle tret handle).1 := by
  unfold State.endByHandle
  split
  · exact hs
  · split
    · exact hs
    · split
      · exact hs
      · split
        · exact hs.modCtx _ _
        · exact hs.endStop _ _

theorem Listed.haltCtx {s : State} (hs : Listed s) (own : Nat) (c : Ctx) : Listed (s.haltCtx own c).1 := by
  unfold State.haltCtx
  split
  · exact hs
  · split
    · exact hs
    · exact (hs.modCtx _ _).checkHaltCtx _

theorem Listed.killCtx {s : State} (hs : Listed s) (own : Nat) (c : Ctx) : Listed (s.killCtx own c).1 := by
  unfold State.killCtx
  split
  · exact hs
  · split
    · exact hs
    · exact hs.endTake _ _ _

theorem Listed.dropTlb {s : State} (hs : Listed s) (o : Op) (c : Nat) (range : Option (Nat × Nat)) : Listed (s.dropTlb o c range) := by
  unfold State.dropTlb
  exact hs.of_eq rfl rfl

theorem Listed.doTlbinv {s : State} (hs : Listed s) (o : Op) (g : Group) (range : Option (Nat × Nat)) : Listed (s.doTlbinv o g range) := by
  unfold State.doTlbinv
  dsimp only
  split
  · exact hs.finishOp _
  · split
    · exact ((hs.dropTlb _ _ _).finishOp _).ite (hs.dropTlb _ _ _)
    · exact hs.dropTlb _ _ _

theorem Listed.finishStatus {r : State × Nat} (hr : Listed r.1) (o : Op) (d : Nat) : Listed (State.finishStatus r o d) := by
  unfold State.finishStatus
  exact hr.finishOp _

theorem Listed.sysEffect {s : State} (hs : Listed s) (o : Op) (g : Group) : Listed (s.sysEffect o g) := by
  unfold State.sysEffect
  dsimp only
  split
  · split
    · exact hs.finishOp _
    · exact hs.renew.finishOp _
  · split
    · exact hs.finishOp _
    · rename_i t ht
      exact (hs.sysWrite _ _ _ _ t ht).finishOp _
  · exact Listed.finishStatus (hs.endByHandle _ _) _ _
  · exact Listed.finishStatus (hs.endByHandle _ _) _ _
  · split
    · exact hs.finishOp _
    · exact Listed.finishStatus (hs.haltCtx _ _) _ _
  · split
    · exact hs.finishOp _
    · exact Listed.finishStatus (hs.killCtx _ _) _ _
  · exact hs.doTlbinv _ _ _
  · exact .ite (hs.finishOp _) (hs.doTlbinv _ _ _)
  · refine Listed.finishOp ?_ _
    split
    · exact .ite (hs.markRanges _ _ _) hs
    · exact hs
  · exact hs

theorem Listed.doSystem {s : State} (hs : Listed s) (o : Op) (g : Group) : Listed (s.doSystem o g) := by
  unfold State.doSystem
  split
  · split
    · exact hs.finishOp _
    · exact (hs.finishOp _).progError _ _ _ _ _ _
  · exact hs.sysEffect _ _

/-! ### Completions -/

theorem Listed.shadowFail {s : State} (hs : Listed s) (o : Op) (g : Group) (lane : Nat) : Listed (s.shadowFail o g lane) := by
  unfold State.shadowFail
  exact (hs.countUp _ _).hwError _ _ _ _

theorem Listed.shadowTrap {s : State} (hs : Listed s) (o : Op) (g : Group) : Listed (s.shadowTrap o g) := by
  unfold State.shadowTrap
  split
  · exact Listed.foldl (fun _ _ h1 => h1.shadowFail _ _ _) _ hs
  · exact hs

theorem Listed.doFixed {s : State} (hs : Listed s) (o : Op) (g : Group) : Listed (s.doFixed o g) := by
  unfold State.doFixed
  dsimp only
  split
  · exact hs.finishOp _
  · exact (hs.finishOp _).modLanes _ _ (fun _ _ h1 => h1)
  · exact (hs.finishOp _).modLanes _ _ (fun _ _ h1 => h1)
  · exact (hs.finishOp _).modGroup _ (fun _ h1 => h1.setGuard _ _)
  · refine (hs.finishOp _).modGroup _ (fun _ h1 => ?_)
    exact h1.of_eq rfl rfl rfl
  · exact hs.finishOp _

theorem Listed.doRows {s : State} (hs : Listed s) (o : Op) (g : Group) : Listed (s.doRows o g).1 := by
  unfold State.doRows
  split
  · exact hs.doXred _ _
  · exact hs.doXpref _ _
  · exact hs

theorem Listed.endEngine {s : State} (hs : Listed s) (o : Op) : Listed (s.endEngine o) := by
  unfold State.endEngine
  exact (hs.ite (hs.engineError _)).finishOp _

/-! ### The scheduler -/

theorem Listed.reach {s : State} (hs : Listed s) (g : Group) (pc : Nat) : Listed (s.reach g pc).1 := by
  unfold State.reach
  dsimp only
  split
  · exact hs.fetchLine _ _
  · split
    · exact hs.fetchLine _ _
    · split
      · split
        · exact hs.fetchLine _ _
        · split
          · exact (hs.fetchLine _ _).scriptEntry _ _
          · split
            · exact (hs.fetchLine _ _).scriptEntry _ _
            · exact (hs.fetchLine _ _).scriptEntry _ _
      · split
        · exact hs.fetchLine _ _
        · exact hs.fetchLine _ _

theorem Listed.takePort {s : State} (hs : Listed s) (x : Port) : Listed (s.takePort x) := by
  unfold State.takePort
  exact hs.of_eq rfl rfl

theorem Listed.perform {s : State} (hs : Listed s) (g : Group) (w : Warp) (i : Instr) : Listed (s.perform g w i) := by
  unfold State.perform
  split
  · exact hs
  · refine Listed.foldl (fun s o hs => ?_) _ hs
    split
    · rename_i p y _ _
      have hc : Listed (if Instr.writesMem p.instr then s.copyAll y.take (p.units.map MUnit.loc) else s) := .ite (hs.copyAll _ _) hs
      exact .ite (.getD (.or (hc.doAccess p y) (hc.doPlain p y)) hc) hc
    · exact hs

theorem Listed.takeSlot {s : State} (hs : Listed s) (r : Ready) (next waits : Nat) (pair script : Bool) :
    Listed (s.takeSlot r next waits pair script) := by
  unfold State.takeSlot
  extract_lets others s1 s2 s3 s4
  have h1 : Listed s1 := hs.modLanes _ _ fun _ _ h => h.issued _ _ _
  have h2 : Listed s2 := h1.modLanes _ _ fun _ _ h => h.older
  have h3 : Listed s3 := h2.modWarp _ _ fun _ h => h
  have h4 : Listed s4 := h3.takePort _
  exact h4.renew.of_eq rfl rfl

theorem Listed.fetchFails {s : State} (hs : Listed s) (r : Ready) (code addr : Nat) : Listed (s.fetchFails r code addr) := by
  unfold State.fetchFails
  dsimp only
  split
  · exact hs.settleError _ _ _ _
  · exact (hs.returnTrap _).ite (hs.park _ _ _ _ _)

theorem Listed.badWord {s : State} (hs : Listed s) (r : Ready) (code : Nat) (branches : List (Nat × Instr)) : Listed
    (s.badWord r code branches) := by
  unfold State.badWord
  split
  · exact hs.progError _ _ _ _ _ _
  · exact hs.progError _ _ _ _ _ _

theorem Listed.openTurn {s : State} (hs : Listed s) : Listed s.openTurn := by
  unfold State.openTurn
  refine Listed.of_eq (Listed.foldl (fun _ _ h1 => ?_) _ hs) rfl rfl
  split
  · exact h1.perform _ _ _
  · exact h1

theorem Listed.countTimers {s : State} (hs : Listed s) : Listed s.countTimers := by
  unfold State.countTimers
  exact hs.of_eq rfl rfl

theorem Listed.tick {s : State} (hs : Listed s) : Listed s.tick := by
  unfold State.tick
  refine Listed.countTimers ?_
  exact hs.of_eq rfl rfl

end Sys2Proof.Claims
end

section
/-!
SUPPORT. Registers and flags stay listed under rising numbers in every step.
-/

namespace Sys2Proof.Claims

open Sys2Proof.Machine

/-! ### What the rows of the dispatch do -/

theorem Listed.of_next {s t : State} (hx : Host.Outcome.next s = (Host.Outcome.next t : Outcome)) (hs : Listed s) : Listed t := by
  cases hx
  exact hs

theorem Listed.execBra {s t : State} (hs : Listed s) (h : Hdr) (o : BraOps) (hx : execBra h o s = .next t) : Listed t := by
  refine .of_next hx ?_
  refine hs.withEnv _ (fun _ => ?_) (fun _ => hs)
  exact hs.branch _ _ _ (fun _ _ h1 => h1.goTo _ _ _)

theorem Listed.execBrx {s t : State} (hs : Listed s) (h : Hdr) (o : BrxOps) (hx : execBrx h o s = .next t) : Listed t := by
  refine .of_next hx ?_
  refine hs.pairTargets _ _ (fun _ _ _ _ h1 => ?_)
  exact h1.branchReg _ _ _ _ (fun _ _ h11 => h11.goTo _ _ _)

theorem Listed.execLoop {s t : State} (hs : Listed s) (h : Hdr) (o : LoopOps) (hx : execLoop h o s = .next t) : Listed t := by
  refine .of_next hx ?_
  dsimp only
  split
  · exact hs
  · refine (hs.goTo _ _ _).checked _ _ (fun _ => ?_) (fun _ => hs.goTo _ _ _)
    refine (hs.goTo _ _ _).branchReg _ _ _ _ (fun _ _ h1 => ?_)
    exact (h1.goTo _ _ _).modLanes _ _ (fun _ _ h11 => h11)

theorem Listed.execEndl {s t : State} (hs : Listed s) (h : Hdr) (o : BitVec 20) (hx : execEndl h o s = .next t) : Listed t := by
  refine .of_next hx ?_
  refine hs.withEnv _ (fun _ => ?_) (fun _ => hs)
  refine hs.branchReg _ _ _ _ (fun _ _ h1 => ?_)
  refine (h1.goTo _ _ _).modLanes _ _ (fun _ _ h11 => ?_)
  split
  · exact h11
  · exact h11

theorem Listed.execEndlBrk {s t : State} (hs : Listed s) (h : Hdr) (hx : execEndlBrk h s = .next t) : Listed t := by
  refine .of_next hx ?_
  refine hs.withEnv _ (fun _ => ?_) (fun _ => hs)
  split
  · exact hs.fail _ _ _ _ _
  · split
    · exact hs.fail _ _ _ _ _
    · exact hs.modLanes _ _ (fun _ _ h1 => h1)

theorem Listed.execYield {s t : State} (hs : Listed s) (h : Hdr) (hx : execYield h s = .next t) : Listed t := by
  refine .of_next hx ?_
  split
  · exact hs
  · exact hs.modWarp _ _ (fun _ h1 => h1)

theorem Listed.execWait {s t : State} (hs : Listed s) (_h : Hdr) (o : BitVec 10) (hx : execWait _h o s = .next t) : Listed t := by
  refine .of_next hx ?_
  split
  · exact hs
  · split
    · exact hs
    · exact hs.modWarp _ _ (fun _ h1 => h1)

theorem Listed.execSmov {s t : State} (hs : Listed s) (h : Hdr) (o : SmovOps) (hx : execSmov h o s = .next t) : Listed t := by
  refine .of_next hx ?_
  exact hs.checked _ _ (fun _ => (hs.smovAt _ _ _ _ _ _ _).ite (hs.undefineLost _ _ _ _)) (fun _ => hs.undefineLost _ _ _ _)

theorem Listed.execSmovSt {s t : State} (hs : Listed s) (h : Hdr) (o : SmovOps) (hx : execSmovSt h o s = .next t) : Listed t := by
  refine .of_next hx ?_
  exact hs.checked _ _ (fun _ => (hs.smovAt _ _ _ _ _ _ _).ite (hs.undefineLost _ _ _ _)) (fun _ => hs.undefineLost _ _ _ _)

theorem Listed.execLdu {s t : State} (hs : Listed s) (h : Hdr) (o : LoadOps) (hx : execLdu h o s = .next t) : Listed t := by
  refine .of_next hx ?_
  refine hs.checked _ _ (fun _ => ?_) (fun _ => hs)
  dsimp only
  split
  · exact hs
  · split
    · exact hs.fail _ _ _ _ _
    · split
      · split
        · exact hs.fail _ _ _ _ _
        · refine Listed.undefineLost ?_ _ _ _ _
          refine Listed.settleLanes ?_ _ _ _ _ (fun _ _ h1 => h1.ite ((h1.launch _ _).unsettle _ _))
          split
          · exact hs
          · exact hs.locLane _ _ _ _ _ _
      · split
        · exact hs.fail _ _ _ _ _
        · refine Listed.undefineLost ?_ _ _ _ _
          refine Listed.settleLanes ?_ _ _ _ _ (fun _ _ h1 => h1.ite ((h1.launch _ _).unsettle _ _))
          split
          · exact hs
          · exact hs.locLane _ _ _ _ _ _

theorem Listed.execPref {s t : State} (hs : Listed s) (h : Hdr) (o : PrefOps) (hx : execPref h o s = .next t) : Listed t := by
  refine .of_next hx ?_
  refine hs.withEnv _ (fun _ => ?_) (fun _ => hs)
  dsimp only
  split
  · split
    · exact hs
    · exact Listed.foldl (fun _ _ h1 => (h1.prefetch _ _ _ _).ite h1) _ (hs.readRows _ _)
  · split
    · exact hs
    · exact Listed.foldl (fun _ _ h1 => (h1.prefetch _ _ _ _).ite h1) _ (hs.readRows _ _)

theorem Listed.execBmode {s t : State} (hs : Listed s) (h : Hdr) (o : BmodeOps) (hx : execBmode h o s = .next t) : Listed t := by
  refine .of_next hx ?_
  refine hs.coreOnly ?_ _
  exact hs.withEnv _ (fun _ => (hs.fail _ _ _ _ _).ite (hs.launch _ _)) (fun _ => hs)

theorem Listed.execPres {s t : State} (hs : Listed s) (h : Hdr) (o : PresOps) (hx : execPres h o s = .next t) : Listed t := by
  refine .of_next hx ?_
  refine hs.checked _ _ (fun _ => ?_) (fun _ => hs)
  dsimp only
  split
  · exact hs.fail _ _ _ _ _
  · exact ((hs.popArgs _ _).addOp _).undefineLost _ _ _ _

theorem Listed.execTflag {s t : State} (hs : Listed s) (h : Hdr) (o : BitVec 10) (hx : execTflag h o s = .next t) : Listed t := by
  refine .of_next hx ?_
  refine hs.withEnv _ (fun _ => ?_) (fun _ => hs)
  dsimp only
  split
  · exact hs.fail _ _ _ _ _
  · exact hs.addOp _

theorem Listed.execMdecl {s t : State} (hs : Listed s) (h : Hdr) (o : MdeclOps) (hx : execMdecl h o s = .next t) : Listed t := by
  refine .of_next hx ?_
  refine hs.coreOnly ?_ _
  refine hs.checked _ _ (fun _ => ?_) (fun _ => hs)
  dsimp only
  split
  · exact hs.fail _ _ _ _ _
  · exact (hs.failRead _ _ _ _ _).ite ((hs.setConv _ _ _).addOp _)

theorem Listed.execMsign {s t : State} (hs : Listed s) (h : Hdr) (o : BitVec 3) (hx : execMsign h o s = .next t) : Listed t := by
  refine .of_next hx ?_
  refine hs.coreOnly ?_ _
  refine hs.withEnv _ (fun _ => ?_) (fun _ => hs)
  dsimp only
  split
  · exact hs.fail _ _ _ _ _
  · exact (hs.fail _ _ _ _ _).ite ((hs.setConv _ _ _).addOp _)

theorem Listed.execMma {s t : State} (hs : Listed s) (h : Hdr) (o : MmaOps) (hx : execMma h o s = .next t) : Listed t := by
  refine .of_next hx ?_
  refine hs.command _ _ _ (fun _ _ => ?_) (fun _ => hs)
  dsimp only
  split
  · exact hs.fail _ _ _ _ _
  · split
    · exact hs.fail _ _ _ _ _
    · split
      · exact hs.fail _ _ _ _ _
      · split
        · exact hs.failRead _ _ _ _ _
        · exact (hs.addOp _).setConv _ _ _
        · exact (hs.addOp _).modLanes _ _ (fun _ _ h1 => h1.blockAt _)

theorem Listed.execMload {s t : State} (hs : Listed s) (h : Hdr) (o : MloadOps) (hx : execMload h o s = .next t) : Listed t := by
  refine .of_next hx ?_
  refine hs.checked _ _ (fun _ => ?_) (fun _ => hs)
  dsimp only
  split
  · exact hs.failRead _ _ _ _ _
  · exact (hs.issueTile _ _ _ _ _).markEarly _ _

theorem Listed.execMout {s t : State} (hs : Listed s) (h : Hdr) (o : MoutOps) (hx : execMout h o s = .next t) : Listed t := by
  refine .of_next hx ?_
  refine hs.checked _ _ (fun _ => ?_) (fun _ => hs)
  dsimp only
  split
  · exact hs.fail _ _ _ _ _
  · split
    · exact hs.failRead _ _ _ _ _
    · exact (hs.issueTile _ _ _ _ _).markEarly _ _

theorem Listed.execMfence {s t : State} (hs : Listed s) (h : Hdr) (hx : execMfence h s = .next t) : Listed t := by
  refine .of_next hx ?_
  refine hs.coreOnly ?_ _
  refine hs.withEnv _ (fun _ => ?_) (fun _ => hs)
  dsimp only
  split
  · exact hs.modWarp _ _ (fun _ h1 => h1)
  · refine Listed.addOp ?_ _
    exact hs.modWarp _ _ (fun _ h1 => h1)

theorem Listed.execMwait {s t : State} (hs : Listed s) (h : Hdr) (o : BitVec 3) (hx : execMwait h o s = .next t) : Listed t := by
  refine .of_next hx ?_
  refine hs.coreOnly ?_ _
  refine hs.withEnv _ (fun _ => ?_) (fun _ => hs)
  dsimp only
  split
  · exact hs.settleTiles _ _
  · exact (hs.addOp _).modLanes _ _ (fun _ _ h1 => h1.blockAt _)

theorem Listed.execAwalk {s t : State} (hs : Listed s) (h : Hdr) (o : AwalkOps) (hx : execAwalk h o s = .next t) : Listed t := by
  refine .of_next hx ?_
  refine hs.coreOnly ?_ _
  refine hs.command _ _ _ (fun _ _ => ?_) (fun _ => hs)
  dsimp only
  split
  · exact hs.failRead _ _ _ _ _
  · split
    · exact hs.failRead _ _ _ _ _
    · split
      · exact hs.failRead _ _ _ _ _
      · split
        · exact hs.failRead _ _ _ _ _
        · split
          · exact ((hs.engineReadSpan _ _ _ _ _).engineReadSpan _ _ _ _ _).addOp _
          · split
            · split
              · exact hs
              · exact ((hs.engineReadSpan _ _ _ _ _).engineReadSpan _ _ _ _ _).fail _ _ _ _ _
            · exact ((hs.engineReadSpan _ _ _ _ _).engineReadSpan _ _ _ _ _).addOp _

theorem Listed.execAstop {s t : State} (hs : Listed s) (h : Hdr) (o : BitVec 3) (hx : execAstop h o s = .next t) : Listed t := by
  refine .of_next hx ?_
  refine hs.coreOnly ?_ _
  refine hs.command _ _ _ (fun _ _ => ?_) (fun _ => hs)
  split
  · exact hs
  · exact hs.modOp _ _

theorem Listed.execPlalloc {s t : State} (hs : Listed s) (h : Hdr) (o : PlallocOps) (hx : execPlalloc h o s = .next t) : Listed t := by
  refine .of_next hx ?_
  refine hs.coreOnly ?_ _
  exact hs.command _ _ _ (fun _ _ => (hs.failRead _ _ _ _ _).ite (hs.issuePlane _ _ _ _ _)) (fun _ => hs)

theorem Listed.execPlfree {s t : State} (hs : Listed s) (h : Hdr) (hx : execPlfree h s = .next t) : Listed t := by
  refine .of_next hx ?_
  refine hs.coreOnly ?_ _
  exact hs.command _ _ _ (fun _ _ => hs.issuePlane _ _ _ _ _) (fun _ => hs)

theorem Listed.execPldot {s t : State} (hs : Listed s) (h : Hdr) (o : PldotOps) (hx : execPldot h o s = .next t) : Listed t := by
  refine .of_next hx ?_
  refine hs.coreOnly ?_ _
  refine hs.command _ _ _ (fun _ _ => ?_) (fun _ => hs)
  dsimp only
  split
  · exact hs.failRead _ _ _ _ _
  · exact (hs.failRead _ _ _ _ _).ite (hs.issuePlane _ _ _ _ _)

theorem Listed.execNcallL {s t : State} (hs : Listed s) (h : Hdr) (o : NcallLOps) (hx : execNcallL h o s = .next t) : Listed t := by
  refine .of_next hx ?_
  refine hs.coreOnly ?_ _
  refine hs.checked _ _ (fun _ => ?_) (fun _ => hs.undefineLost _ _ _ _)
  dsimp only
  split
  · exact hs
  · split
    · exact hs.fail _ _ _ _ _
    · split
      · exact (hs.undefine _ _ _ _).ite (hs.fail _ _ _ _ _)
      · refine hs.callEntry _ _ _ _ (fun _ _ h1 => ?_)
        refine Listed.undefineLost ?_ _ _ _ _
        refine (h1.callTargets _ _).settleLanes _ _ _ _ (fun _ _ h11 => ?_)
        split
        · exact h11.ite (h11.undefine _ _ _ _)
        · refine Listed.block ?_ _ _ _
          exact ((h11.ite (h11.undefine _ _ _ _)).launch _ _).modWarp _ _ (fun _ h12 => h12)

theorem Listed.execNcallB {s t : State} (hs : Listed s) (h : Hdr) (o : NcallBOps) (hx : execNcallB h o s = .next t) : Listed t := by
  refine .of_next hx ?_
  refine hs.coreOnly ?_ _
  refine hs.command _ _ _ (fun _ _ => ?_) (fun _ => hs)
  dsimp only
  split
  · exact hs.failRead _ _ _ _ _
  · split
    · exact hs.failRead _ _ _ _ _
    · split
      · exact hs.failRead _ _ _ _ _
      · split
        · exact hs.failRead _ _ _ _ _
        · exact hs.callEntry _ _ _ _ (fun _ _ h1 => h1.launch _ _)

theorem Listed.execNret {s t : State} (hs : Listed s) (h : Hdr) (o : NretOps) (hx : execNret h o s = .next t) : Listed t := by
  refine .of_next hx ?_
  refine hs.checked _ _ (fun _ => ?_) (fun _ => hs)
  dsimp only
  split
  · exact hs.fail _ _ _ _ _
  · exact hs.retire _ _
  · exact ((hs.readRows _ _).sendReplies _ _ _).retire _ _

theorem Listed.execBkmac {s t : State} (hs : Listed s) (h : Hdr) (o : BkmacOps) (hx : execBkmac h o s = .next t) : Listed t := by
  refine .of_next hx ?_
  refine hs.bankCommand _ _ _ _ _ _ _ _ (fun _ _ _ _ _ _ h1 => ?_)
  dsimp only
  split
  · exact h1.failRead _ _ _ _ _
  · exact h1.reaching _ _ (fun _ h11 => h11.addBank _ _ _ _ _)

theorem Listed.execBkread {s t : State} (hs : Listed s) (h : Hdr) (o : BkreadOps) (hx : execBkread h o s = .next t) : Listed t := by
  refine .of_next hx ?_
  dsimp only
  split
  · exact hs
  · split
    · exact hs.progError _ _ _ _ _ _
    · exact hs.bankCommand _ _ _ _ _ _ _ _ (fun _ _ _ _ _ _ h1 => ((h1.addOp _).unsettle _ _).undefineLost _ _ _ _)

/-- The table of a KVXLATE is read as it issues, or a fault of the root, of the header or of a lane's pages stands in its place (R181). -/
theorem Listed.execKvxlate {s t : State} (hs : Listed s) (h : Hdr) (o : KvxlateOps) (hx : execKvxlate h o s = .next t) : Listed t := by
  refine .of_next hx (hs.coreOnly (hs.checked _ _ (fun e => ?_) fun e => hs.undefineLost _ _ _ _) _)
  extract_lets p bad ra early all r u
  split
  · exact hs.fail _ _ _ _ _
  split
  · exact hs.undefine _ _ _ _
  split
  · exact hs.fail _ _ _ _ _
  split
  · exact hs.fail _ _ _ _ _
  have hr : Listed r.1 := hs.kvRead _ _ _ _
  split
  · exact hr.settleLanes _ _ _ _ fun _ _ h => h
  · exact hr.hwError _ _ _ _
  extract_lets since hd
  have hu : Listed u := hr.acquireAt _ _
  split
  · exact hu.fail _ _ _ _ _
  have hh : Listed hd.1 := hu.kvRead _ _ _ _
  split
  · exact hh.settleLanes _ _ _ _ fun _ _ h => h
  · exact hh.hwError _ _ _ _
  split
  · exact hh.undefine _ _ _ _
  split
  · exact hh.fail _ _ _ _ _
  extract_lets q fails
  have hq : Listed q.1 := hh.kvLanes _ _ _ _ _
  split
  · exact hq.hwError _ _ _ _
  · refine (hq.settleLanes _ _ _ _ fun v act hv => ?_).undefineLost _ _ _ _
    split
    · exact hv
    · exact ((hv.addOp _).unsettle _ _).renew

theorem Listed.execFsem {s t : State} (hs : Listed s) (h : Hdr) (o : FsemOps) (hx : execFsem h o s = .next t) : Listed t := by
  refine .of_next hx ?_
  refine hs.command _ _ _ (fun _ _ => ?_) (fun _ => hs)
  dsimp only
  split
  · exact hs.failRead _ _ _ _ _
  · exact (hs.failRead _ _ _ _ _).ite (hs.launch _ _)

theorem Listed.execPair {s t : State} (hs : Listed s) (a : Instr) (b : Instr) (hx : execPair a b s = .next t) : Listed t := by
  refine .of_next hx ?_
  dsimp only
  split
  · exact hs
  · split
    · refine Listed.modLanes ?_ _ _ (fun _ _ h1 => h1)
      exact hs.of_eq rfl rfl
    · split
      · exact hs.fail _ _ _ _ _
      · exact hs.fail _ _ _ _ _

theorem Listed.execWsyncRelease {s t : State} (hs : Listed s) (gid : Nat) (wid : Nat) (hx : execWsyncRelease gid wid s = .next t) :
    Listed t := by
  refine .of_next hx ?_
  split
  · exact hs
  · split
    · exact hs
    · exact hs.modLanes _ _ (fun _ _ h1 => h1)

theorem Listed.execGrowGrant {s t : State} (hs : Listed s) (gid : Nat) (hx : execGrowGrant gid s = .next t) : Listed t := by
  refine .of_next hx ?_
  dsimp only
  split
  · exact hs
  · split
    · exact hs
    · split
      · refine Listed.trimL1 ?_ _
        refine Listed.modGroup ?_ _ (fun _ h1 => h1.grow _ _)
        refine Listed.map_groups hs (fun _ h1 => ?_) rfl rfl
        exact h1.of_eq rfl rfl rfl
      · exact hs

theorem Listed.execCut {s t : State} (hs : Listed s) (gid : Nat) (wid : Nat) (hx : execCut gid wid s = .next t) : Listed t := by
  refine .of_next hx ?_
  split
  · exact hs
  · split
    · exact hs
    · split
      · exact (hs.progError _ _ _ _ _ _).ite (hs.cutWarp _ _)
      · exact hs

theorem Listed.execSplice {s t : State} (hs : Listed s) (gid : Nat) (wid : Nat) (hx : execSplice gid wid s = .next t) : Listed t := by
  refine .of_next hx ?_
  split
  · exact hs
  · split
    · exact hs
    · split
      · split
        · exact hs
        · exact hs.giveOutcome _ _ _
        · exact (hs.giveOutcome _ _ _).giveOutcome _ _ _
        · split
          · exact hs.progError _ _ _ _ _ _
          · exact (hs.progError _ _ _ _ _ _).ite (hs.joinWarps _ _ _)
      · exact hs

theorem Listed.execCpaLineLand {s t : State} (hs : Listed s) (op : Nat) (line : Nat) (hx : execCpaLineLand op line s = .next t) : Listed
    t := by
  refine .of_next hx ?_
  split
  · exact hs
  · split
    · exact hs
    · exact (hs.landLine _ _ _).ite hs

theorem Listed.execScratchpadAccessResume {s t : State} (hs : Listed s) (op : Nat) (hx : execScratchpadAccessResume op s = .next t) :
    Listed t := by
  refine .of_next hx ?_
  split
  · exact hs
  · split
    · exact hs
    · exact (hs.goOut _ _).ite hs

theorem Listed.execTeamMemberAccessResume {s t : State} (hs : Listed s) (op : Nat) (hx : execTeamMemberAccessResume op s = .next t) :
    Listed t := by
  refine .of_next hx ?_
  split
  · exact hs
  · split
    · exact hs
    · split
      · split
        · exact hs.resumeCopy _ _
        · exact hs.resumeCopy _ _
        · exact hs.resumeCopy _ _
        · exact hs.resumeCopy _ _
        · exact hs.resumeTile _ _ _ _
        · exact hs.resumeTile _ _ _ _
        · exact hs.resumeMma _ _ _
        · exact hs.resumeAccess _ _
      · exact hs

theorem Listed.execBarrierComplete {s t : State} (hs : Listed s) (team : Bool) (g : Nat) (n : Nat)
    (hx : execBarrierComplete team g n s = .next t) : Listed t := by
  refine .of_next hx ?_
  dsimp only
  split
  · exact hs
  · split
    · refine Listed.foldl (fun _ _ h1 => ?_) _ (hs.setBar _ _ _ _)
      split
      · exact h1.modGroup _ (fun _ h11 => h11.barred _ _)
      · refine Listed.foldl (fun _ _ h11 => h11.finishOp _) _ ?_
        refine Listed.modLanes ?_ _ _ (fun _ _ h11 => h11)
        refine Listed.acquireAt ?_ _ _
        exact h1.modGroup _ (fun _ h11 => h11.barred _ _)
    · exact hs

theorem Listed.execBwwaitRetest {s t : State} (hs : Listed s) (op : Nat) (hx : execBwwaitRetest op s = .next t) : Listed t := by
  refine .of_next hx ?_
  split
  · exact hs
  · split
    · split
      · exact (hs.testBwwait _ _ _ _).ite hs
      · exact hs
    · exact hs

theorem Listed.execSemwaitRetry {s t : State} (hs : Listed s) (op : Nat) (hx : execSemwaitRetry op s = .next t) : Listed t := by
  refine .of_next hx ?_
  split
  · exact hs
  · split
    · split
      · exact (hs.trySemwait _ _ _ _).ite hs
      · exact hs
    · exact hs

theorem Listed.execLongLatencyComplete {s t : State} (hs : Listed s) (op : Nat) (hx : execLongLatencyComplete op s = .next t) :
    Listed t := by
  refine .of_next hx ?_
  split
  · exact hs
  · rename_i o _
    split
    · exact hs
    · rename_i g _
      split
      · exact .ite (hs.endEngine _) hs
      · split
        · exact hs.moveOut _ _
        · split
          · exact .ite (hs.doSystem _ _) (.getD (.or (hs.doAccess o g) (hs.doPlain o g)) hs)
          · exact hs

theorem Listed.execFixedLatencyComplete {s t : State} (hs : Listed s) (op : Nat) (hx : execFixedLatencyComplete op s = .next t) : Listed
    t := by
  refine .of_next hx ?_
  split
  · exact hs
  · split
    · exact hs
    · exact ((hs.doFixed _ _).shadowTrap _ _).ite hs

theorem Listed.execMmaIssue {s t : State} (hs : Listed s) (g : Nat) (c : Nat) (hx : execMmaIssue g c s = .next t) : Listed t := by
  refine .of_next hx ?_
  dsimp only
  split
  · exact hs
  · split
    · split
      · exact hs
      · refine Listed.modGroup ?_ _ (fun _ h1 => ?_)
        · refine Listed.setConv ?_ _ _ _
          refine Listed.modOp ?_ _ _
          exact hs.of_eq rfl rfl
        · exact h1.of_eq rfl rfl rfl
    · exact hs

theorem Listed.execMmaComplete {s t : State} (hs : Listed s) (op : Nat) (hx : execMmaComplete op s = .next t) : Listed t := by
  refine .of_next hx ?_
  dsimp only
  split
  · exact hs
  · split
    · split
      · exact Listed.foldl (fun _ _ h1 => (h1.countUp _ _).hwError _ _ _ _) _ (((((hs.setTile _ _ _).setTile _ _ _).renew).modOp _
        _).setConv _ _ _)
      · exact hs
    · exact hs

theorem Listed.execMwaitRelease {s t : State} (hs : Listed s) (op : Nat) (hx : execMwaitRelease op s = .next t) : Listed t := by
  refine .of_next hx ?_
  split
  · exact hs
  · split
    · exact (((hs.settleTiles _ _).freeHeld _).finishOp _).ite hs
    · exact hs

theorem Listed.execWalkPoint {s t : State} (hs : Listed s) (op : Nat) (hx : execWalkPoint op s = .next t) : Listed t := by
  refine .of_next hx ?_
  dsimp only
  split
  · exact hs
  · split
    · split
      · split
        · exact hs.landPoint _ _ _ _
        · exact (hs.pushWords _ _ _ _).modOp _ _
        · split
          · split
            · exact hs.modOp _ _
            · exact hs
            · exact (hs.addPendings _).modOp _ _
          · exact ((hs.walkRun _ _ _ _).pushWords _ _ _ _).modOp _ _
      · exact hs
    · exact hs

theorem Listed.execPlaneCommandStart {s t : State} (hs : Listed s) (op : Nat) (hx : execPlaneCommandStart op s = .next t) : Listed t := by
  refine .of_next hx ?_
  dsimp only
  split
  · exact hs
  · split
    · exact hs
    · split
      · refine Listed.modOp ?_ _ _
        split
        · exact hs.startAlloc _ _
        · refine hs.modGroup _ (fun _ h1 => ?_)
          exact h1.of_eq rfl rfl rfl
        · exact hs
        · refine (hs.runPlane _ _ _).modGroup _ (fun _ h1 => ?_)
          exact h1.of_eq rfl rfl rfl
      · exact hs

theorem Listed.execNcallLDeliver {s t : State} (hs : Listed s) (op : Nat) (stack : Nat) (hx : execNcallLDeliver op stack s = .next t) :
    Listed t := by
  refine .of_next hx ?_
  split
  · exact hs
  · split
    · exact hs
    · exact (hs.deliver _ _ _).ite hs

theorem Listed.execNcallReply {s t : State} (hs : Listed s) (op : Nat) (hx : execNcallReply op s = .next t) : Listed t := by
  refine .of_next hx ?_
  dsimp only
  split
  · exact hs
  · split
    · split
      · split
        · exact (((((hs.dropRanges _ _ _).spoilRaced _).watch _).landReply _ _ _).modOp _ _).finishOp _
        · exact ((((hs.dropRanges _ _ _).spoilRaced _).watch _).landReply _ _ _).modOp _ _
      · exact ((((hs.dropRanges _ _ _).spoilRaced _).watch _).landReply _ _ _).modOp _ _
    · exact hs

theorem Listed.execNcallBDeliver {s t : State} (hs : Listed s) (op : Nat) (hx : execNcallBDeliver op s = .next t) : Listed t := by
  refine .of_next hx ?_
  split
  · exact hs
  · split
    · exact (hs.deliverBlock _ _).ite hs
    · exact hs

theorem Listed.execNcallBComplete {s t : State} (hs : Listed s) (gid : Nat) (hx : execNcallBComplete gid s = .next t) : Listed t := by
  refine .of_next hx ?_
  dsimp only
  split
  · exact hs
  · split
    · split
      · exact hs
      · split
        · exact hs
        · split
          · refine Listed.modOp ?_ _ _
            exact Listed.filter_groups ((((hs.dropRanges _ _ _).spoilRaced _).watch _).dropWatches _) rfl rfl
          · exact hs
    · exact hs

theorem Listed.execNjoinRelease {s t : State} (hs : Listed s) (op : Nat) (hx : execNjoinRelease op s = .next t) : Listed t := by
  refine .of_next hx ?_
  dsimp only
  split
  · exact hs
  · split
    · split
      · exact hs
      · split
        · exact hs
        · split
          · refine Listed.finishOp ?_ _
            refine ((hs.acquireAt _ _).endJoin _ _ _).modLanes _ _ (fun _ _ h1 => ?_)
            split
            · exact h1
            · exact h1
          · refine Listed.modOp ?_ _ _
            refine ((hs.acquireAt _ _).endJoin _ _ _).modLanes _ _ (fun _ _ h1 => ?_)
            split
            · exact h1
            · exact h1
    · exact hs

theorem Listed.execReturnTrap {s t : State} (hs : Listed s) (gid : Nat) (wid : Nat) (hx : execReturnTrap gid wid s = .next t) : Listed t
    := by
  refine .of_next hx ?_
  dsimp only
  split
  · exact hs
  · split
    · refine Listed.rebase ?_ _ _ _
      refine (hs.setField _ _ _ _).modGroup _ (fun _ h1 => ?_)
      exact h1.of_eq rfl rfl rfl
    · exact hs

/-- A group that moves to a core keeps its warps' flags (R165). -/
theorem Listed.execReturnTrapPlace {s t : State} (hs : Listed s) (gid : Nat) (hx : execReturnTrapPlace gid s = .next t) : Listed t := by
  refine .of_next hx ?_
  split
  · exact hs
  · split
    · exact hs
    · split
      · exact hs
      · extract_lets old s1 s2 s3
        have h1 : Listed s1 := hs.dropRanges _ _ _
        have h2 : Listed s2 := h1.elim fun o _ => h1.modOp _ _
        have h3 : Listed s3 := (h2.invalidateL1 _).renew.modGroup _ fun g hg => by
          refine (hg.seat s2 _ _).map_warps (fun w hw => ?_) rfl rfl rfl
          split
          · exact hw
          · exact hw
        exact h3.rebase _ _ _

theorem Listed.execBankCommandStart {s t : State} (hs : Listed s) (op : Nat) (hx : execBankCommandStart op s = .next t) : Listed t := by
  refine .of_next hx ?_
  dsimp only
  split
  · exact hs
  · split
    · split
      · refine Listed.finishOp ?_ _
        refine Listed.renew ?_
        exact hs.of_eq rfl rfl
      · exact hs.finishOp _
      · refine Listed.finishOp ?_ _
        exact hs.of_eq rfl rfl
      · exact (hs.setChannel _).finishOp _
      · exact hs.modOp _ _
      · exact hs.finishOp _
      · exact hs
    · exact hs

theorem Listed.execBkmacWave {s t : State} (hs : Listed s) (op : Nat) (hx : execBkmacWave op s = .next t) : Listed t := by
  refine .of_next hx ?_
  split
  · exact hs
  · split
    · exact (hs.bankWave _ _).ite hs
    · exact hs

theorem Listed.execFabricAck {s t : State} (hs : Listed s) (op : Nat) (status : Nat) (data : List (BitVec 64 × Bool))
    (hx : execFabricAck op status data s = .next t) : Listed t := by
  refine .of_next hx ?_
  dsimp only
  split
  · exact hs
  · split
    · exact hs
    · split
      · refine Listed.modOp ?_ _ _
        refine Listed.foldl_fst (fun _ _ h1 => ?_) _ ?_
        · exact h1.ackUnit _ _ _ _
        · exact hs
      · exact hs

theorem Listed.execFsemSignal {s t : State} (hs : Listed s) (op : Nat) (status : Nat) (hx : execFsemSignal op status s = .next t) :
    Listed t := by
  refine .of_next hx ?_
  dsimp only
  split
  · exact hs
  · exact (hs.modOp _ _).ite hs

theorem Listed.execEngineArrival {s t : State} (hs : Listed s) (op : Nat) (hx : execEngineArrival op s = .next t) : Listed t := by
  refine .of_next hx ?_
  dsimp only
  split
  · exact hs
  · split
    · exact hs
    · split
      · exact hs
      · split
        · exact hs.arrive _ _ _
        · split
          · exact (hs.moveOut _ _).arrive _ _ _
          · exact (((hs.doRows _ _).modOp _ _).arrive _ _ _).ite hs

theorem Listed.execTrapRecordWrite {s t : State} (hs : Listed s) (c : Nat) (hx : execTrapRecordWrite c s = .next t) : Listed t := by
  refine .of_next hx ?_
  dsimp only
  split
  · exact hs
  · split
    · exact hs
    · split
      · exact hs.lostRecord _ _
      · split
        · exact hs
        · split
          · exact hs.lostRecord _ _
          · rename_i heq2
            exact ((hs.cpWrite _ _ _ _ _ heq2).modCtx _ _).notifyTrap _

theorem Listed.execSnapshotCopy {s t : State} (hs : Listed s) (take : Nat) (granule : Nat) (hx : execSnapshotCopy take granule s = .next
    t) : Listed t := by
  refine .of_next hx ?_
  split
  · exact hs
  · exact (hs.copyGranule _ _).ite hs

/-- A warp that retires leaves, and the others forget it (R49). -/
theorem Listed.execWarpRetire {s t : State} (hs : Listed s) (gid wid : Nat) (hx : execWarpRetire gid wid s = .next t) : Listed t := by
  refine .of_next hx ?_
  split
  · exact hs
  · split
    · exact hs
    · refine .ite (hs.modGroup _ fun g hg => ⟨hg.s, hg.lanes, fun w hw => ?_⟩) hs
      obtain ⟨x, hm, rfl⟩ := List.mem_map.1 hw
      exact Rising.forget (hg.warps x (List.mem_of_mem_filter hm)) _

theorem Listed.execGroupRetire {s t : State} (hs : Listed s) (gid : Nat) (hx : execGroupRetire gid s = .next t) : Listed t := by
  refine .of_next hx ?_
  split
  · exact hs
  · exact (hs.leave _).ite hs

theorem Listed.execGridEnd {s t : State} (hs : Listed s) (take : Nat) (hx : execGridEnd take s = .next t) : Listed t := by
  refine .of_next hx ?_
  split
  · exact hs
  · split
    · split
      · exact hs.hwError _ _ _ _
      · extract_lets s1 s2 s3
        have h1 : Listed s1 := (hs.freeCopies _).modTake _ _
        have h2 : Listed s2 := h1.of_eq rfl rfl
        have h3 : Listed s3 := h2.modCtx _ _
        exact (h3.modQueue _ _ _).loadTimer _ _
    · exact hs

theorem Listed.execTriggerPoint {s t : State} (hs : Listed s) (take : Nat) (hx : execTriggerPoint take s = .next t) : Listed t := by
  refine .of_next hx ?_
  dsimp only
  split
  · exact hs
  · split
    · exact ((hs.modTake _ _).passLaunch _).ite (hs.modTake _ _)
    · exact hs

theorem Listed.execGroupAdmission {s t : State} (hs : Listed s) (take : Nat) (hx : execGroupAdmission take s = .next t) : Listed t := by
  refine .of_next hx ?_
  dsimp only
  split
  · exact hs
  · split
    · split
      · exact hs
      · refine Listed.trimL1 ?_ _
        refine Listed.acquireFlags ?_ _ _ _
        refine Listed.modTake ?_ _ _
        refine hs.addGroup ?_
        refine ListedGroup.seat ?_ _ _ _
        exact ListedGroup.offered _ _
    · exact hs

theorem Listed.execEviction {s t : State} (hs : Listed s) (take : Nat) (hx : execEviction take s = .next t) : Listed t := by
  refine .of_next hx ?_
  split
  · exact hs
  · exact hs.evictAll _

theorem Listed.execGrowDeadlockEviction {s t : State} (hs : Listed s) (core : Nat) (hx : execGrowDeadlockEviction core s = .next t) :
    Listed t := by
  refine .of_next hx ?_
  split
  · exact hs
  · exact hs.evictAll _

theorem Listed.execEvictionRecord {s t : State} (hs : Listed s) (gid : Nat) (hx : execEvictionRecord gid s = .next t) : Listed t := by
  refine .of_next hx ?_
  split
  · exact hs
  · split
    · split
      · refine Listed.modCtx ?_ _ _
        refine (hs.fileRecord _).modGroup _ (fun _ h1 => ?_)
        exact h1.of_eq rfl rfl rfl
      · exact hs
    · exact hs

theorem Listed.execGroupRestore {s t : State} (hs : Listed s) (gid : Nat) (hx : execGroupRestore gid s = .next t) : Listed t := by
  refine .of_next hx ?_
  dsimp only
  split
  · exact hs
  · rename_i heq
    split
    · exact hs
    · split
      · split
        · exact hs
        · split
          · exact hs.bringBack (hs.findGroup heq) _ _
          · exact (hs.bringBack (hs.findGroup heq) _ _).modCtx _ _
      · exact hs

theorem Listed.execQueueLaunch {s t : State} (hs : Listed s) (n : Nat) (q : Nat) (hx : execQueueLaunch n q s = .next t) : Listed t := by
  refine .of_next hx ?_
  refine hs.takeUp _ _ _ (fun _ _ h1 => ?_)
  dsimp only
  split
  · exact h1.failQueue _ _ _
  · split
    · exact h1.failQueue _ _ _
    · split
      · exact h1
      · split
        · exact ((h1.begin_ _ _ _).cpRead _ _ _).refuse _ _ _ _ _
        · split
          · exact ((h1.begin_ _ _ _).cpRead _ _ _).refuse _ _ _ _ _
          · split
            · exact (((h1.begin_ _ _ _).cpRead _ _ _).readTables _ _).refuse _ _ _ _ _
            · exact (((h1.begin_ _ _ _).cpRead _ _ _).readTables _ _).launchTake _ _ _

theorem Listed.execQueueSemsig {s t : State} (hs : Listed s) (n : Nat) (q : Nat) (hx : execQueueSemsig n q s = .next t) : Listed t := by
  refine .of_next hx ?_
  refine hs.takeUp _ _ _ (fun _ _ h1 => ?_)
  dsimp only
  split
  · exact h1
  · split
    · exact h1.failEntry _ _ _
    · split
      · exact h1.failEntry _ _ _
      · split
        · exact ((h1.keepFresh _ _ _).cpAtomic _ _ _ _).failEntry _ _ _
        · exact ((h1.keepFresh _ _ _).cpAtomic _ _ _ _).advanceQueue _ _

theorem Listed.execQueueCopyComplete {s t : State} (hs : Listed s) (n : Nat) (q : Nat) (hx : execQueueCopyComplete n q s = .next t) :
    Listed t := by
  refine .of_next hx ?_
  refine hs.takeUp _ _ _ (fun _ _ h1 => ?_)
  dsimp only
  split
  · exact h1
  · split
    · exact (h1.copyUnits8 _ _ _ _).failEntry _ _ _
    · exact ((h1.copyUnits8 _ _ _ _).cpCover _ _ _).advanceQueue _ _

theorem Listed.execQueueTimestamp {s t : State} (hs : Listed s) (n q : Nat) (hx : execQueueTimestamp n q s = .next t) : Listed t := by
  refine .of_next hx (hs.takeUp _ _ _ fun s e hs => ?_)
  split
  · exact hs
  · split
    · exact hs.failEntry _ _ _
    · rename_i u hu
      exact (hs.cpWrite _ _ _ _ u hu).advanceQueue _ _

theorem Listed.execTakeEnd {s t : State} (hs : Listed s) (take : Nat) (hx : execTakeEnd take s = .next t) : Listed t := by
  refine .of_next hx ?_
  split
  · exact hs
  · split
    · exact hs
    · exact hs.endTake _ _ _

theorem Listed.execRetake {s t : State} (hs : Listed s) (take : Nat) (hx : execRetake take s = .next t) : Listed t := by
  refine .of_next hx ?_
  dsimp only
  split
  · exact hs
  · split
    · exact hs
    · split
      · exact ((hs.logError _ _ _ _ _ _ _ _).logError _ _ _ _ _ _ _ _).endTake _ _ _
      · exact ((hs.logError _ _ _ _ _ _ _ _).addRecord _ _).retakeTake _

theorem Listed.execBistDone {s t : State} (hs : Listed s) (failing : List (BitVec 64)) (hx : execBistDone failing s = .next t) : Listed t
    := by
  refine .of_next hx ?_
  dsimp only
  split
  · exact hs
  · exact ((hs.testMemory _ _).bistResults _ _).of_eq rfl rfl

theorem Listed.execPprDone {s t : State} (hs : Listed s) (spare : Bool) (hx : execPprDone spare s = .next t) : Listed t := by
  refine .of_next hx ?_
  dsimp only
  split
  · split
    · exact (hs.setField _ _ _ _).spoilRow _ _ _ _
    · exact hs.setField _ _ _ _
  · exact hs

theorem Listed.execClusterPowerOff {s t : State} (hs : Listed s) (k : BitVec 4) (hx : execClusterPowerOff k s = .next t) : Listed t := by
  refine .of_next hx ?_
  split
  · exact Listed.foldl (fun _ _ h1 => h1.invalidateL1 _) _ (hs.setField _ _ _ _)
  · exact hs

theorem Listed.execThermalTrip {s t : State} (hs : Listed s) (hx : execThermalTrip s = .next t) : Listed t := by
  refine .of_next hx ?_
  dsimp only
  split
  · exact hs
  · exact ((hs.setField _ _ _ _).setField _ _ _ _).of_eq rfl rfl

theorem Listed.execColdReset {s t : State} (hx : execColdReset s = .next t) : Listed t := by
  refine .of_next hx ?_
  refine Listed.bringUp ?_ _
  refine Listed.foldl (fun _ _ h1 => h1.testStack _) _ ?_
  exact Listed.lost _ _

theorem Listed.execWarmReset {s t : State} (hs : Listed s) (hx : execWarmReset s = .next t) : Listed t := by
  refine .of_next hx ?_
  split
  · exact Listed.warm _
  · exact hs

theorem Listed.execHostMemAccess {s t : State} (hs : Listed s) (write : Bool) (addr : HostAddr) (data : List (BitVec 8)) (poison : Bool)
    (hx : execHostMemAccess write addr data poison s = .next t) : Listed t := by
  refine .of_next hx ?_
  split
  · exact (hs.hostWrite _ _ _ _).ite (hs.hostRead _ _)
  · exact hs

theorem Listed.execHostSnoop {s t : State} (hs : Listed s) (line : Nat) (hx : execHostSnoop line s = .next t) : Listed t := by
  refine .of_next hx ?_
  dsimp only
  split
  · exact (hs.evictLine _).of_eq rfl rfl
  · exact hs

theorem Listed.execUalinkReduceWrite {s t : State} (hs : Listed s) (sender : BitVec 10) (ctx : BitVec 12) (va : BitVec 64) (bf16 : Bool)
    (data : List (BitVec 8)) (hx : execUalinkReduceWrite sender ctx va bf16 data s = .next t) : Listed t := by
  refine .of_next hx ?_
  split
  · split
    · exact hs
    · exact hs.incoming _ _ _ _ _ _ (fun _ _ _ h1 => h1.writeWindow _ _ _ _ _)
  · split
    · exact hs
    · exact hs.incoming _ _ _ _ _ _ (fun _ _ _ h1 => h1.writeWindow _ _ _ _ _)

theorem Listed.execUalinkAtomicAdd {s t : State} (hs : Listed s) (sender : BitVec 10) (ctx : BitVec 12) (va : BitVec 64) (n : BitVec 32)
    (hx : execUalinkAtomicAdd sender ctx va n s = .next t) : Listed t := by
  refine .of_next hx ?_
  split
  · exact hs
  · exact hs.incoming _ _ _ _ _ _ (fun _ _ _ h1 => h1.cpAtomic _ _ _ _)

theorem Listed.execRegisterWrite {s t : State} (hs : Listed s) (offset : HostReg) (v : BitVec 64)
    (hx : execRegisterWrite offset v s = .next t) : Listed t := by
  refine .of_next hx ?_
  dsimp only
  split
  · exact hs
  · split
    · exact hs.writeDev _ _
    · split
      · exact hs
      · split
        · exact hs
        · split
          · exact hs
          · exact hs.modCtx _ _

/-- Every row of the dispatch keeps registers and flags listed. -/
theorem Listed.exec {s t : State} (hs : Listed s) (i : Instr) (hx : exec i s = .next t) : Listed t := by
  cases i
  case nop => exact .of_next hx hs
  case bra h o => exact hs.execBra h o hx
  case brx h o => exact hs.execBrx h o hx
  case call => exact .of_next hx (hs.withEnv _ (fun _ => hs.callLanes _ _ _ _) (fun _ => hs))
  case callx => exact .of_next hx (hs.pairTargets _ _ (fun _ _ _ _ h1 => h1.callLanes _ _ _ _))
  case ret => exact .of_next hx (hs.withEnv _ (fun _ => (hs.retLanes _ _ _).ite (hs.retLanes _ _ _)) (fun _ => hs))
  case exit => exact .of_next hx (hs.withEnv _ (fun _ => (hs.sendReplies _ _ _).retire _ _) (fun _ => hs))
  case loop h o => exact hs.execLoop h o hx
  case endl h o => exact hs.execEndl h o hx
  case endlBrk h => exact hs.execEndlBrk h hx
  case wsync => exact .of_next hx (hs.checked _ _ (fun _ => (hs.block _ _ _).ite (hs.fail _ _ _ _ _)) (fun _ => hs))
  case yield h => exact hs.execYield h hx
  case wait h o => exact hs.execWait h o hx
  case trigger | release | acquire | fence => exact .of_next hx (hs.issueFence _ _)
  case trap => exact .of_next hx (hs.withEnv _ (fun _ => hs.userTrap _ _) (fun _ => hs))
  case bkpt => exact .of_next hx (hs.withEnv _ (fun _ => (hs.userTrap _ _).ite hs) (fun _ => hs))
  case gset | gclr => exact .of_next hx (hs.withEnv _ (fun _ => hs.addOp _) (fun _ => hs))
  case grow => exact .of_next hx (hs.withEnv _ (fun _ => hs.ite ((hs.block _ _ _).checkGrow _)) (fun _ => hs))
  case wcut => exact .of_next hx (hs.withEnv _ (fun _ => (hs.fail _ _ _ _ _).ite (hs.block _ _ _)) (fun _ => hs))
  case wsplice => exact .of_next hx (hs.checked _ _ (fun _ => hs.block _ _ _) (fun _ => hs))
  case iadd | isub | imul | imulh | imin | imax => exact .of_next hx (hs.int2 _ _ _ _ _)
  case imad | imadw | idot4 | lop3 | shf | bfe | bfi | isel | lea | mov | movi | fclass | tagset | tagget =>
    exact .of_next hx (hs.alu _ _ _ _ _ _ _)
  case iabs | ineg => exact .of_next hx (hs.int1 _ _ _ _)
  case and | or | xor => exact .of_next hx (hs.logic2 _ _ _ _)
  case not | popc | clz | brev => exact .of_next hx (hs.logic1 _ _ _ _)
  case shl | shr | sha | rot => exact .of_next hx (hs.shift _ _ _ _)
  case isetp | psetp => exact .of_next hx (hs.aluP _ _ _ _ _ _)
  case psetpG | spr | push | vote | matchLanes | rng | fsetp | cvt | pack | unpack | qnt | dqnt | flags | kvmask =>
    exact .of_next hx (hs.fixed _ _ _ _ _ _)
  case smov h o => exact hs.execSmov h o hx
  case smovSt h o => exact hs.execSmovSt h o hx
  case ubcast | shfl | permb | vslide => exact .of_next hx (hs.fixedQ _ _ _ _ _ _)
  case redW | scanW => exact .of_next hx (hs.reduce _ _ _ _ _ _ _ _ _)
  case fadd | fsub | fmul | ffma | hadd2 | hfma2 => exact .of_next hx (hs.fpu _ _ _ _ _ _ _ _ _)
  case fmin | fmax => exact .of_next hx (hs.fminmax _ _ _ _)
  case frcp | frsq | fsqrt => exact .of_next hx (hs.special1 _ _ _ _ _)
  case fex2 | flg2 | fsin | fcos => exact .of_next hx (hs.coreFun _ _ _ _ _)
  case flagsSet | flagsClr => exact .of_next hx (hs.flagsOp _ _ _)
  case ld | lds => exact .of_next hx (hs.load _ _ _ _)
  case st | sts => exact .of_next hx (hs.store _ _ _ _)
  case ldu h o => exact hs.execLdu h o hx
  case ldt | stt => exact .of_next hx (hs.tensor _ _ _ _ _ _ _)
  case atom | atoms | red => exact .of_next hx (hs.access _ _ _ _ _ _ _ _ _ _)
  case cpa | cpout => exact .of_next hx (hs.copyBlock _ _ _)
  case cpaLn | cpoutLn => exact .of_next hx (hs.copyLanes _ _ _)
  case pref h o => exact hs.execPref h o hx
  case l2clean | l2inv | l2flush => exact .of_next hx (hs.issueMaint _ _ _)
  case bmode h o => exact hs.execBmode h o hx
  case pres h o => exact hs.execPres h o hx
  case bar | barArr | bart | bartArr => exact .of_next hx (hs.issueBar _ _ _ _ _)
  case bwinit | bwarr | bwwait | semsig | semwait | errack => exact .of_next hx (hs.issueWord _ _ _ _ _ _ _ _ _)
  case tflag h o => exact hs.execTflag h o hx
  case mdecl h o => exact hs.execMdecl h o hx
  case msign h o => exact hs.execMsign h o hx
  case mma h o => exact hs.execMma h o hx
  case mzero => exact .of_next hx (hs.checked _ _ (fun _ => hs.issueTile _ _ _ _ _) (fun _ => hs))
  case mload h o => exact hs.execMload h o hx
  case mout h o => exact hs.execMout h o hx
  case mfence h => exact hs.execMfence h hx
  case mwait h o => exact hs.execMwait h o hx
  case awalk h o => exact hs.execAwalk h o hx
  case astop h o => exact hs.execAstop h o hx
  case plalloc h o => exact hs.execPlalloc h o hx
  case plfree h => exact hs.execPlfree h hx
  case plfill | pldrain => exact .of_next hx (hs.issueMove _ _ _)
  case plop | plmul | plcmp | plsel => exact .of_next hx (hs.issueWordCmd _ _ _ _ _)
  case pldot h o => exact hs.execPldot h o hx
  case plred | plbmap => exact .of_next hx (hs.issueOut _ _ _ _ _ _ _)
  case ncallL h o => exact hs.execNcallL h o hx
  case ncallB h o => exact hs.execNcallB h o hx
  case njoin => exact .of_next hx (hs.checked _ _ (fun _ => ((hs.addOp _).block _ _ _).ite (hs.fail _ _ _ _ _)) (fun _ => hs))
  case nret h o => exact hs.execNret h o hx
  case xred | xpref => exact .of_next hx (hs.issueRows _ _ _ _)
  case bkopen | bkclose => exact .of_next hx (hs.bankCommand _ _ _ _ _ _ _ _ (fun _ _ _ _ _ _ h1 => h1.addBank _ _ _ _ _))
  case bkbcast => exact .of_next hx (hs.bankCommand _ _ _ _ _ _ _ _ (fun _ _ _ _ _ _ h1 => (h1.addBank _ _ _ _ _).renew))
  case bkmac h o => exact hs.execBkmac h o hx
  case bkread h o => exact hs.execBkread h o hx
  case kvxlate h o => exact hs.execKvxlate h o hx
  case fcopyPut | fcopyGet => exact .of_next hx (hs.coreOnly (hs.fabricCopy _ _ _ _ _) _)
  case freduce => exact .of_next hx (hs.fabricCopy _ _ _ _ _)
  case fsem h o => exact hs.execFsem h o hx
  case sysrd | syswr | tret | resume | tlbinvAll | tlbinvVa | snapmark | halt | haltKill => exact .of_next hx (hs.sysIssue _ _ _ _ _)
  case pair a b => exact hs.execPair a b hx
  case wsyncRelease g w => exact hs.execWsyncRelease g w hx
  case growGrant g => exact hs.execGrowGrant g hx
  case cut g w => exact hs.execCut g w hx
  case splice g w => exact hs.execSplice g w hx
  case cpaLineLand op line => exact hs.execCpaLineLand op line hx
  case scratchpadAccessResume op => exact hs.execScratchpadAccessResume op hx
  case teamMemberAccessResume op => exact hs.execTeamMemberAccessResume op hx
  case barrierComplete team g n => exact hs.execBarrierComplete team g n hx
  case bwwaitRetest op => exact hs.execBwwaitRetest op hx
  case semwaitRetry op => exact hs.execSemwaitRetry op hx
  case longLatencyComplete op => exact hs.execLongLatencyComplete op hx
  case fixedLatencyComplete op => exact hs.execFixedLatencyComplete op hx
  case mmaIssue g c => exact hs.execMmaIssue g c hx
  case mmaComplete op => exact hs.execMmaComplete op hx
  case mwaitRelease op => exact hs.execMwaitRelease op hx
  case walkPoint op => exact hs.execWalkPoint op hx
  case planeCommandStart op => exact hs.execPlaneCommandStart op hx
  case ncallLDeliver op stack => exact hs.execNcallLDeliver op stack hx
  case ncallReply op => exact hs.execNcallReply op hx
  case ncallBDeliver op => exact hs.execNcallBDeliver op hx
  case ncallBComplete g => exact hs.execNcallBComplete g hx
  case njoinRelease op => exact hs.execNjoinRelease op hx
  case returnTrap g w => exact hs.execReturnTrap g w hx
  case returnTrapPlace g => exact hs.execReturnTrapPlace g hx
  case bankCommandStart op => exact hs.execBankCommandStart op hx
  case bkmacWave op => exact hs.execBkmacWave op hx
  case fabricAck op status data => exact hs.execFabricAck op status data hx
  case fsemSignal op status => exact hs.execFsemSignal op status hx
  case engineArrival op => exact hs.execEngineArrival op hx
  case trapRecordWrite c => exact hs.execTrapRecordWrite c hx
  case trapptrTailWrite => exact .of_next hx (hs.modCtx _ _)
  case snapshotCopy take granule => exact hs.execSnapshotCopy take granule hx
  case warpRetire g w => exact hs.execWarpRetire g w hx
  case groupRetire g => exact hs.execGroupRetire g hx
  case gridEnd take => exact hs.execGridEnd take hx
  case triggerPoint take => exact hs.execTriggerPoint take hx
  case groupAdmission take => exact hs.execGroupAdmission take hx
  case eviction take => exact hs.execEviction take hx
  case growDeadlockEviction core => exact hs.execGrowDeadlockEviction core hx
  case evictionRecord g => exact hs.execEvictionRecord g hx
  case groupRestore g => exact hs.execGroupRestore g hx
  case qtailWrite => exact .of_next hx ((hs.ring _ _ _).ite hs)
  case errClear => exact .of_next hx ((hs.clearErr _ _).ite hs)
  case queueLaunch n q => exact hs.execQueueLaunch n q hx
  case queueSemwait => exact .of_next hx (hs.takeUp _ _ _ (fun _ _ h1 => h1.ite ((h1.begin_ _ _ _).trySem _ _ _)))
  case queueSemwaitRetry => exact .of_next hx (hs.takeUp _ _ _ (fun _ _ h1 => (h1.trySem _ _ _).ite h1))
  case queueSemsig n q => exact hs.execQueueSemsig n q hx
  case queueCopy => exact .of_next hx (hs.takeUp _ _ _ (fun _ _ h1 => (h1.begin_ _ _ _).ite h1))
  case queueCopyComplete n q => exact hs.execQueueCopyComplete n q hx
  case queueBarrier => exact .of_next hx (hs.takeUp _ _ _ (fun _ _ h1 => (h1.advanceQueue _ _).ite h1))
  case queueTimestamp n q => exact hs.execQueueTimestamp n q hx
  case timeSliceExpiry => exact .of_next hx ((hs.partitionReset _ _).ite hs)
  case takeEnd take => exact hs.execTakeEnd take hx
  case retake take => exact hs.execRetake take hx
  case contextCreate => exact .of_next hx (hs.contextCreate _ _ _ _)
  case contextEnd => exact .of_next hx (hs.contextEnd _)
  case bistGo => exact .of_next hx ((hs.bistGo _ _).ite hs)
  case bistDone failing => exact hs.execBistDone failing hx
  case pprDone spare => exact hs.execPprDone spare hx
  case dpcfgWrite => exact .of_next hx (hs.dpcfg _)
  case pstateWrite => exact .of_next hx ((hs.pstate _ _).ite hs)
  case pstateResume | strapChange => exact .of_next hx (hs.of_eq rfl rfl)
  case clonWrite => exact .of_next hx ((hs.clon _).ite hs)
  case clusterPowerOff k => exact hs.execClusterPowerOff k hx
  case sconWrite => exact .of_next hx ((hs.scon _).ite hs)
  case stackCorePowerOff => exact .of_next hx ((hs.setField _ _ _ _).ite hs)
  case banklimWrite => exact .of_next hx ((hs.banklim _ _).ite hs)
  case thermalTrip => exact hs.execThermalTrip hx
  case tripClear => exact .of_next hx (hs.clearTrip.ite hs)
  case attest => exact .of_next hx (hs.attest.ite hs)
  case enroll => exact .of_next hx (hs.enroll.ite hs)
  case revoke => exact .of_next hx (hs.revoke.ite hs)
  case update => exact .of_next hx (hs.update.ite hs)
  case devkey => exact .of_next hx (hs.devkey.ite hs)
  case securityBadOp => exact .of_next hx ((hs.secStatus _).ite hs)
  case coldReset => exact .execColdReset hx
  case warmReset => exact hs.execWarmReset hx
  case functionReset => exact .of_next hx (hs.ite (hs.partitionReset _ _))
  case pprRepair => exact .of_next hx ((hs.pprWrite _).ite hs)
  case hostLinkRetrain => exact .of_next hx ((hs.setLink _ _ _).ite hs)
  case ualinkPortTrain => exact .of_next hx ((hs.trainPort _ _ _).ite hs)
  case hostMemAccess write addr data poison => exact hs.execHostMemAccess write addr data poison hx
  case hostSnoop line => exact hs.execHostSnoop line hx
  case ualinkRead => exact .of_next hx (hs.incoming _ _ _ _ _ _ (fun _ _ _ h1 => h1.readHome _ _))
  case ualinkWrite => exact .of_next hx (hs.incoming _ _ _ _ _ _ (fun _ _ _ h1 => h1.writeWindow _ _ _ _ _))
  case ualinkReduceWrite sender ctx va bf16 data => exact hs.execUalinkReduceWrite sender ctx va bf16 data hx
  case ualinkAtomicAdd sender ctx va n => exact hs.execUalinkAtomicAdd sender ctx va n hx
  case registerWrite offset v => exact hs.execRegisterWrite offset v hx
  case eccScrub => exact .of_next hx (hs.ite (hs.setPoisonBelow _ _))
  case packageSupplyLoss => exact .of_next hx (Listed.lost _ _)

/-! ### The step -/

/-- The state of a move is listed. -/
def ListedMove : Move → Prop
  | .run _ s => Listed s
  | .settle s => Listed s

theorem ListedMove.getD {o : Option Move} {m : Move} (ho : ∀ x, o = some x → ListedMove x) (hm : ListedMove m) : ListedMove (o.getD m) := by
  cases o with
  | none => exact hm
  | some x => exact ho x rfl

theorem Listed.nextInput {s : State} (hs : Listed s) : ∀ m, s.nextInput = some m → ListedMove m := by
  intro m hm
  unfold State.nextInput at hm
  split at hm
  · cases hm
  · split at hm
    · cases hm
    · exact Option.some.inj hm ▸ hs.of_eq rfl rfl

theorem Listed.issue {s : State} (hs : Listed s) (r : Ready) : ListedMove (s.issue r) := by
  have hr := hs.reach r.g r.f.pc.toNat
  unfold State.issue
  dsimp only
  split
  · exact hr.fetchFails _ _ _
  · exact hr.modLanes _ _ fun _ _ hl => hl
  · exact (hr.takeSlot _ _ _ _ _).badWord _ _ _
  · exact hr.takeSlot _ _ _ _ _

theorem Listed.takeTurn {s : State} (hs : Listed s) (x : Nat × Nat) (rest : List (Nat × Nat)) : ListedMove (s.takeTurn x rest) := by
  have ht : Listed { s with turn := some rest } := hs.of_eq rfl rfl
  unfold State.takeTurn
  dsimp only
  split
  · exact ht.issue _
  · exact ht

theorem Listed.of_mem_ite {c : Prop} {_ : Decidable c} {s t : State} (hs : Listed s) (ht : t ∈ if c then [s] else []) : Listed t := by
  split at ht
  · exact List.mem_singleton.1 ht ▸ hs
  · cases ht

theorem listed_of_mem_toList {o : Option State} {t : State} (ho : ∀ u, o = some u → Listed u) (ht : t ∈ o.toList) : Listed t :=
  ho t (Option.mem_toList.1 ht)

/-- A part of an operation acts (R137). -/
theorem Listed.openParts {s t : State} (hs : Listed s) (o : Op) (ht : t ∈ s.openParts o) : Listed t := by
  unfold State.openParts at ht
  split at ht
  · cases ht
  · rename_i g _
    dsimp only at ht
    split at ht
    · exact (hs.storePart _ _ _).of_mem_ite ht
    · exact ((hs.noteOperands _ _ _).storePart _ _ _).of_mem_ite ht
    · exact (hs.storePart _ _ _).of_mem_ite ht
    · exact (hs.readPart _ _ _).of_mem_ite ht
    · exact (hs.readPart _ _ _).of_mem_ite ht
    · exact (hs.readPart _ _ _).of_mem_ite ht
    · exact (hs.landPart _ _).of_mem_ite ht
    · exact (hs.landPart _ _).of_mem_ite ht
    · exact (hs.outPart _ _).of_mem_ite ht
    · exact (hs.outPart _ _).of_mem_ite ht
    · exact (hs.startFabric _ _).of_mem_ite ht
    · exact (hs.startFabric _ _).of_mem_ite ht
    · exact (hs.startFabric _ _).of_mem_ite ht
    · exact (hs.startFabric _ _).of_mem_ite ht
    · exact listed_of_mem_toList (hs.planePart o g) ht
    · exact listed_of_mem_toList (hs.planePart o g) ht
    · exact listed_of_mem_toList (hs.planePart o g) ht
    · exact listed_of_mem_toList (hs.planePart o g) ht
    · split at ht
      · exact listed_of_mem_toList (hs.xredPart o g) ht
      · cases ht
    · split at ht
      · exact listed_of_mem_toList (hs.xprefPart o g) ht
      · cases ht
    · cases ht

/-- An open event runs, a part of an operation or of a COPY acts, the outside acts, or the issues of the clock begin. -/
theorem Listed.openMove {s : State} (hs : Listed s) : ListedMove s.openMove := by
  have hp : Listed { s with picks := s.picks + 1, cur := none } := hs.of_eq rfl rfl
  unfold State.openMove
  extract_lets u go parts ms
  have hu : Listed u := hp
  have hgo : ListedMove go := hu.openTurn
  have hparts : ∀ t ∈ parts, Listed t := fun t ht => by
    rcases List.mem_append.1 ht with h | h
    · obtain ⟨o, _, ho⟩ := List.mem_flatMap.1 h
      split at ho
      · exact hu.openParts o ho
      · cases ho
    · obtain ⟨n, _, hn⟩ := List.mem_flatMap.1 h
      obtain ⟨q, _, hq⟩ := List.mem_filterMap.1 hn
      exact hu.copyPart n q t hq
  have hms : ∀ m ∈ ms, ListedMove m := fun m hm => by
    rcases List.mem_append.1 hm with h | h
    · rcases List.mem_append.1 h with h | h
      · obtain ⟨i, _, rfl⟩ := List.mem_map.1 h
        exact hu
      · obtain ⟨t, ht, rfl⟩ := List.mem_map.1 h
        exact hparts t ht
    · exact hu.nextInput m (Option.mem_toList.1 h)
  split
  · exact hgo
  · exact .getD (fun x hx => hms x (List.mem_of_getElem? hx)) hgo

/-- Whatever happens next begins in a listed state. -/
theorem Listed.nextMove {s : State} (hs : Listed s) : ListedMove s.nextMove := by
  unfold State.nextMove
  split
  · exact .getD hs.nextInput hs
  · split
    · exact hs
    · split
      · exact .getD hs.nextInput (hs.of_eq rfl rfl)
      · split
        · exact hs.renew.of_eq rfl rfl
        · split
          · exact hs.takeTurn _ _
          · split
            · exact hs.of_eq rfl rfl
            · split
              · exact hs.tick
              · exact hs.openMove

end Sys2Proof.Claims

namespace Sys2Proof

open Sys2Proof.Machine Sys2Proof.Claims

/-- Settles O17: what happens next begins in a listed state, and every row of the dispatch keeps it listed. -/
theorem registersStayCanonical : Obligations.RegistersStayCanonical := by
  intro s t hs hx
  have hm := hs.nextMove
  unfold step at hx
  cases hn : s.nextMove with
  | run i u =>
    rw [hn] at hm hx
    exact Listed.exec hm i hx
  | settle u =>
    rw [hn] at hm hx
    exact .of_next hx hm

end Sys2Proof
end

section
/-!
SUPPORT. Fixed-latency words issue with their results: integer arithmetic, logic and shifts.
-/

namespace Sys2Proof.Claims

open Sys2Proof.Machine

/-- A word that goes by the shared frame of fixed latency launches its operation (R31, R225). -/
theorem launches_of_fixedQ {i : Instr} {h : Hdr} {dst : List Nat} {args : List Arg} {lat : Env → Nat}
    {out : State → Env → List (List (Word × Nat)) → List Row → Writes} (hx : ∀ s, exec i s = .next (s.fixedQ h i dst args lat out)) :
    Launches i h dst args lat out := by
  intro s e t qs ⟨⟨henv, hact, hlost⟩, hwithin, hpops, htags⟩
  rw [hx, State.fixedQ_of henv hact hlost hwithin hpops htags]
  rfl

/-- A word with one register result gives it. -/
theorem gives_of_alu {i : Instr} {h : Hdr} {lat : Nat} {wide : Bool} {d : Reg} {args : List Arg} {f : List Opnd → Res}
    (hx : ∀ s, exec i s = .next (s.alu h i lat wide d args f)) : Gives i h lat wide d args f :=
  launches_of_fixedQ hx

/-- Arithmetic on two integers (R242). -/
theorem gives_of_int2 {i : Instr} {h : Hdr} {lat : Nat} {o : Int2} {f : Int → Int → Int} (hx : ∀ s, exec i s = .next (s.int2 h i lat o f)) :
    Gives i h lat o.ty.is64 o.d [.of o.ty o.a, .of o.ty o.b] (bin (intOp2 o.ty o.sat f)) :=
  gives_of_alu hx

theorem gives_of_int1 {i : Instr} {h : Hdr} {o : Int1} {f : Int → Int} (hx : ∀ s, exec i s = .next (s.int1 h i o f)) :
    Gives i h (latInt o.ty) o.ty.is64 o.d [.of o.ty o.a] (un (intOp1 o.ty o.sat f)) :=
  gives_of_alu hx

/-- The absolute value, spelled with its sign. -/
theorem natAbs_fun_eq : (fun a : Int => (a.natAbs : Int)) = fun a => if a < 0 then -a else a := by
  funext a
  split <;> omega

end Sys2Proof.Claims

namespace Sys2Proof

open Sys2Proof.Machine Sys2Proof.Claims

/-- Settles O6: every one of these words is one use of the shared frame with one register result. -/
theorem integerArithmeticIssues : Obligations.IntegerArithmeticIssues :=
  ⟨⟨fun _ _ => gives_of_int2 fun _ => rfl, fun _ _ => gives_of_int2 fun _ => rfl, fun _ _ => gives_of_int2 fun _ => rfl,
      fun _ _ => gives_of_int2 fun _ => rfl, fun _ _ => gives_of_alu fun _ => rfl, fun _ _ => gives_of_alu fun _ => rfl,
      fun _ _ => gives_of_int2 fun _ => rfl, fun _ _ => gives_of_int2 fun _ => rfl, fun _ _ => gives_of_int1 fun _ => natAbs_fun_eq ▸ rfl,
      fun _ _ => gives_of_int1 fun _ => rfl, fun _ _ => gives_of_alu fun _ => rfl⟩,
    ⟨fun _ _ => gives_of_alu fun _ => rfl, fun _ _ => gives_of_alu fun _ => rfl, fun _ _ => gives_of_alu fun _ => rfl,
      fun _ _ => gives_of_alu fun _ => rfl, fun _ _ => gives_of_alu fun _ => rfl, fun _ _ => gives_of_alu fun _ => rfl,
      fun _ _ => gives_of_alu fun _ => rfl, fun _ _ => gives_of_alu fun _ => rfl, fun _ _ => gives_of_alu fun _ => rfl,
      fun _ _ => gives_of_alu fun _ => rfl⟩,
    fun _ _ => gives_of_alu fun _ => rfl, fun _ _ => gives_of_alu fun _ => rfl, fun _ _ => gives_of_alu fun _ => rfl,
    fun _ _ => gives_of_alu fun _ => rfl, fun _ _ => gives_of_alu fun _ => rfl⟩

end Sys2Proof
end

section
/-!
SUPPORT. An issue moves the lanes of its entry to the next word and ages the other live lanes of the warp (R26, R193).
-/

namespace Sys2Proof.Claims

open Sys2Proof.Machine

theorem lane_modLane_of_lt (g : Group) (i : Nat) (f : Lane → Lane) {j : Nat} (hj : j < g.lanes.length) :
    (g.modLane i f).lane j = if i = j then f (g.lane j) else g.lane j := by
  by_cases hi : i < g.lanes.length
  · exact Group.lane_modLane g i j f hi
  · have hout : (g.modLane i f).lane j = g.lane j := by
      unfold Group.lane Group.modLane
      rw [List.modify_eq_self (by omega)]
    rw [hout, if_neg (by omega)]

/-- Lanes listed that the group does not have change nothing. -/
theorem lane_modLanes_of_lt (g : Group) {ls : List Nat} (f : Nat → Lane → Lane) (hn : ls.Nodup) {j : Nat} (hj : j < g.lanes.length) :
    (g.modLanes ls f).lane j = if j ∈ ls then f j (g.lane j) else g.lane j := by
  induction ls generalizing g with
  | nil => simp [Group.modLanes]
  | cons i is ih =>
    obtain ⟨hi, his⟩ := List.nodup_cons.1 hn
    rw [Group.modLanes, ih _ his (by simpa [Group.modLane] using hj), lane_modLane_of_lt g i _ hj]
    by_cases hij : i = j
    · subst hij
      simp [hi]
    · simp [hij, Ne.symm hij]

theorem nodup_liveLanes (s : State) (g : Group) (w : Warp) : (s.liveLanes g w).Nodup :=
  (List.nodup_range.map fun _ _ h => Nat.add_left_cancel h).filter _

/-- The other live lanes of the warp of an entry: those that grow older at its issue (R26). -/
def waiting (s : State) (r : Ready) : List Nat := (s.liveLanes r.g r.w).filter fun i => !r.f.lanes.contains i

theorem mem_waiting {s : State} {r : Ready} {i : Nat} : i ∈ waiting s r ↔ i ∈ s.liveLanes r.g r.w ∧ i ∉ r.f.lanes := by
  simp [waiting]

theorem nodup_waiting (s : State) (r : Ready) : (waiting s r).Nodup := (nodup_liveLanes s r.g r.w).filter _

/-- What an issue leaves in the warp: its clock, no lane that yielded, and the slots nearer an error. -/
def issuedWarp (s : State) (r : Ready) (w : Warp) : Warp :=
  { w with last := some (s.now r.g), yielded := [], errSlots := w.errSlots.map fun k => k - 1 }

/-- The entry's group after its issue. -/
def issuedGroup (s : State) (r : Ready) (next waits : Nat) (pair : Bool) : Group :=
  ((r.g.modLanes r.f.lanes fun _ l => l.issued next waits pair).modLanes (waiting s r) fun _ l => l.older).modWarp r.w.wid
    (issuedWarp s r)

theorem takePort_mem (s : State) (x : Port) : (s.takePort x).mem = s.mem := rfl

theorem mem_takeSlot (s : State) (r : Ready) (next waits : Nat) (pair script : Bool) :
    (s.takeSlot r next waits pair script).mem = s.mem := by
  simp only [State.takeSlot, State.renew_mem, takePort_mem, State.modWarp_mem, State.modLanes_mem]

theorem findGroup_takeSlot {s : State} {r : Ready} (next waits : Nat) (pair script : Bool) (hg : s.findGroup r.g.gid = some r.g) :
    (s.takeSlot r next waits pair script).findGroup r.g.gid = some (issuedGroup s r next waits pair) :=
  State.findGroup_modGroup (State.findGroup_modGroup (State.findGroup_modGroup hg fun _ => Group.modLanes_gid ..)
    fun _ => Group.modLanes_gid ..) fun _ => rfl

/-- A lane of the entry is issued, another live lane of the warp grows older, and the rest stay. -/
theorem lane_issuedGroup {s : State} {r : Ready} (next waits : Nat) (pair : Bool) (hn : r.f.lanes.Nodup) {i : Nat}
    (hi : i < r.g.lanes.length) :
    (issuedGroup s r next waits pair).lane i =
      if i ∈ r.f.lanes then (r.g.lane i).issued next waits pair
      else if i ∈ s.liveLanes r.g r.w then (r.g.lane i).older else r.g.lane i := by
  have hwarp : (issuedGroup s r next waits pair).lane i =
      ((r.g.modLanes r.f.lanes fun _ l => l.issued next waits pair).modLanes (waiting s r) fun _ l => l.older).lane i := rfl
  rw [hwarp, lane_modLanes_of_lt _ _ (nodup_waiting s r) (by rwa [Group.modLanes_length]),
    lane_modLanes_of_lt _ _ hn hi]
  by_cases hf : i ∈ r.f.lanes
  · simp [mem_waiting, hf]
  · simp [mem_waiting, hf]

end Sys2Proof.Claims

namespace Sys2Proof

open Sys2Proof.Machine Sys2Proof.Claims

/-- Settles O13: the group after the issue is the entry's with its lanes issued and the other live ones older. -/
theorem issueMovesTheEntry : Obligations.IssueMovesTheEntry := by
  intro s r next waits pair script hg _ hn t
  exact ⟨mem_takeSlot s r next waits pair script, rfl, issuedGroup s r next waits pair, findGroup_takeSlot next waits pair script hg,
    fun _ hi => lane_issuedGroup next waits pair hn hi⟩

end Sys2Proof
end

section
/-!
SUPPORT. A group as it is offered to the machine: its lanes at the slate's code, its scalar registers the arguments (R40, R75, R433).
-/

namespace Sys2Proof.Claims

open Sys2Proof.Machine

/-- Writing a list of values from key `k` on, key by key. -/
theorem get_putAll_mapIdx {α : Type} [DecidableEq α] {d : α} (xs : List α) (k n : Nat) {m : NMap α} (hm : NMap.wf d m = true) :
    NMap.get d (NMap.putAll d m (xs.mapIdx fun i w => (k + i, w))) n =
      if k ≤ n ∧ n < k + xs.length then xs.getD (n - k) d else NMap.get d m n := by
  induction xs generalizing k m with
  | nil => simp [NMap.putAll]
  | cons x xs ih =>
    have hstep : (List.mapIdx (fun i w => (k + (i + 1), w)) xs) = xs.mapIdx fun i w => (k + 1 + i, w) := by
      simp only [Nat.add_comm, Nat.add_left_comm]
    rw [List.mapIdx_cons, Nat.add_zero, NMap.putAll, hstep, ih (k + 1) (NMap.wf_put hm k x)]
    by_cases hn : n = k
    · subst hn
      simp [NMap.get_put_self hm]
    · rw [NMap.get_put_of_ne hm hn]
      by_cases hle : k + 1 ≤ n
      · have hsub : n - k = (n - (k + 1)) + 1 := by omega
        simp only [List.length_cons, hsub, List.getD_cons_succ]
        congr 1
        exact propext (by omega)
      · rw [if_neg (by omega), if_neg (by omega)]

theorem get_putAll_args (xs : List Word) (n : Nat) : NMap.get 0 (NMap.putAll 0 [] (xs.mapIdx fun i w => (i, w))) n = xs.getD n 0 := by
  have h := get_putAll_mapIdx xs 0 n (m := []) (d := 0) rfl
  simp only [Nat.zero_add, Nat.zero_le, true_and, Nat.sub_zero] at h
  rw [h]
  by_cases hn : n < xs.length
  · rw [if_pos hn]
  · rw [if_neg hn, List.getD_eq_default _ _ (Nat.le_of_not_lt hn)]
    rfl

theorem length_groupLanes (t : Take) : (groupLanes t).length = t.slate.warps * t.slate.width := by simp [groupLanes]

/-- Each lane of an offered group is new, with the key of its place in the grid (R40, R66). -/
theorem lane_offered (s : State) (t : Take) {i : Nat} (hi : i < t.slate.warps * t.slate.width) :
    (s.offered t).lane i = newLane (BitVec.ofNat 64 t.slate.code) (t.slate.seed ^^^ BitVec.ofNat 64 (1024 * t.nextGroup + i)) i := by
  show (groupLanes t).getD i Lane.none = _
  rw [List.getD_eq_getElem _ _ (by rwa [length_groupLanes])]
  simp [groupLanes]

theorem readV_of_new {g : Group} {i : Nat} {pc key : BitVec 64} {home : Nat} (h : g.lane i = newLane pc key home) (n : Nat) :
    g.readV i n = (0, 0) := by
  rw [Group.readV, h]
  rfl

theorem readP_of_new {g : Group} {i : Nat} {pc key : BitVec 64} {home : Nat} (h : g.lane i = newLane pc key home) {n : Nat} (hn : n < 7) :
    g.readP i n = false := by
  have hp : (g.lane i).p = 0 := by
    rw [h]
    rfl
  simp [Group.readP, hp, bitAt, slice, Nat.ne_of_lt hn]

end Sys2Proof.Claims

namespace Sys2Proof

open Sys2Proof.Machine Sys2Proof.Claims

/-- Settles O47: a lane of the group offered is a new lane, and the scalar registers are the arguments written from s0 on. -/
theorem admittedLanesStartClear : Obligations.AdmittedLanesStartClear := by
  intro s t i hi g l
  have hl : l = newLane _ _ _ := lane_offered s t hi
  have hp7 : g.readP i 7 = true := rfl
  refine ⟨length_groupLanes t, ?_, ?_, ?_, ?_, ?_, ?_, ?_, readV_of_new hl, fun n => readP_of_new hl, hp7, get_putAll_args t.slate.args,
    rfl, rfl⟩ <;> rw [hl] <;> rfl

end Sys2Proof
end

section
/-!
SUPPORT. A step runs the word that stands at the PC of the entry whose turn it is (R193, R203, R210).
-/

namespace Sys2Proof.Claims

open Sys2Proof.Machine

/-- A line is reached that is no filler at the entry's PC. -/
structure Fetches (s : State) (g : Group) (pc : Nat) (u : State) (l : Line) : Prop where
  fetch : s.fetchLine g pc = (u, .ok l)
  stays : l.skip 1 pc = pc

section Reach

variable {s u : State} {g : Group} {pc : Nat} {l : Line} (hf : Fetches s g pc u l)
include hf

theorem reach_one {w : Nat} {half : Option Nat} {i : Instr} (hpair : l.isPair (pcSlot pc) = false) (hat : l.at pc = .ok (.one w half))
    (hi : decodeRaw (Raw.ofNat w half) (s.privileged g) (l.badFor (pcSlot pc)) 0 = .ok i) :
    s.reach g pc = (u, .word i false (l.next pc)) := by
  have hdec : decodeAt l pc (s.privileged g) 0 (fun _ => 0) = .ok i := by simp only [decodeAt, hat, hi]
  simp only [State.reach, hf.fetch, hf.stays, hat, hpair, hdec, reachOf, ne_eq, not_true_eq_false, if_false, Bool.false_eq_true]

theorem reach_script {ix st b w : Nat} {i : Instr} {v : State} (hpair : l.isPair (pcSlot pc) = false)
    (hat : l.at pc = .ok (.script ix st b)) (hix : ix < s.scriptSize g) (hw : u.scriptEntry g ix = (v, .ok w))
    (hi : decodeRaw { Raw.ofNat w none with stall := st } (s.privileged g) (l.badFor (pcSlot pc)) b = .ok i) :
    s.reach g pc = (v, .word i true (l.next pc)) := by
  have hdec : decodeAt l pc (s.privileged g) (s.scriptSize g) (fun _ => w) = .ok i := by
    simp only [decodeAt, hat, hi, Nat.not_le.2 hix, if_false]
  simp only [State.reach, hf.fetch, hf.stays, hat, hpair, hw, hdec, reachOf, Nat.not_le.2 hix, ne_eq, not_true_eq_false, if_false,
    Bool.false_eq_true]

theorem reach_pair {wa wb : Nat} {a b : Instr} (hpair : l.isPair (pcSlot pc) = true) (hsecond : l.isPair (pcSlot pc + 1) = false)
    (hka : l.kind (pcSlot pc) = 0) (hkb : l.kind (pcSlot pc + 1) = 0) (hata : l.at pc = .ok (.one wa none))
    (hatb : l.at (pc + 8) = .ok (.one wb none))
    (ha : decodeRaw (Raw.ofNat wa none) (s.privileged g) (l.badFor (pcSlot pc)) 0 = .ok a)
    (hb : decodeRaw (Raw.ofNat wb none) (s.privileged g) (l.badFor (pcSlot (pc + 8))) 0 = .ok b) :
    s.reach g pc = (u, .word (.pair a b) false (l.next (l.next pc))) := by
  have hdeca : decodeAt l pc (s.privileged g) 0 (fun _ => 0) = .ok a := by simp only [decodeAt, hata, ha]
  have hdecb : decodeAt l (pc + 8) (s.privileged g) 0 (fun _ => 0) = .ok b := by simp only [decodeAt, hatb, hb]
  simp only [State.reach, hf.fetch, hf.stays, hata, hpair, hdeca, pairAt, hka, hkb, hdecb, hsecond, ne_eq, not_true_eq_false, or_self,
    if_false, if_true, Bool.false_eq_true]

end Reach

/-- The warp whose turn it is issues what it reaches. -/
theorem step_of_turn {s : State} {r : Ready} {x : Nat × Nat} {rest : List (Nat × Nat)} (hp : s.powered = true) (hst : s.stage ≠ 0)
    (hfr : s.frozen = false) (htodo : s.todo = []) (hturn : s.turn = some (x :: rest)) {v u : State} (hv : { s with turn := some rest } = v)
    (hr : (v.findGroup x.1).bind (fun g => (g.findWarp x.2).bind (v.eligible g)) = some r) {i : Instr} {script : Bool} {next : Nat}
    (hreach : v.reach r.g r.f.pc.toNat = (u, .word i script next)) :
    step s = exec i (u.takeSlot r next (Instr.waits i) (Instr.isPair i) script) := by
  have hmove : s.nextMove = s.takeTurn x rest := by
    simp only [State.nextMove, hp, hst, hfr, htodo, hturn, Bool.not_true, Bool.false_eq_true, if_false]
  have htake : s.takeTurn x rest = .run i (u.takeSlot r next (Instr.waits i) (Instr.isPair i) script) := by
    rw [State.takeTurn, hv]
    simp only [hr, State.issue, hreach]
  rw [step, hmove, htake]

theorem step_of_todo {s : State} {i : Instr} {x : Issue} {xs : List (Instr × Issue)} (hp : s.powered = true) (hst : s.stage ≠ 0)
    (hfr : s.frozen = false) (htodo : s.todo = (i, x) :: xs) : step s = exec i { s.renew with todo := xs, cur := some x } := by
  have hmove : s.nextMove = .run i { s.renew with todo := xs, cur := some x } := by
    simp only [State.nextMove, hp, hst, hfr, htodo, Bool.not_true, Bool.false_eq_true, if_false]
  rw [step, hmove]

/-- A pair that breaks no rule puts its two members before anything else (R203, R458). -/
theorem exec_pair_of_legal {s : State} {a b : Instr} {e : Env} (henv : s.env Guard.always = some e) (hok : s.pairFault e a b = none) :
    exec (.pair a b) s = .next ({ s with todo := [(a, { e.iss with pos := 1 }), (b, { e.iss with
        pos := 2, pc := e.iss.pc + 8, lanes := e.iss.lanes.filter fun l => !(e.g.lane l).solo })] }.modLanes e.g.gid e.iss.lanes
      fun _ l => { l with solo := false }) := by
  show execPair a b s = _
  rw [execPair, henv]
  simp only [hok]

end Sys2Proof.Claims

namespace Sys2Proof

open Sys2Proof.Machine Sys2Proof.Claims

/-- Settles O12: what the entry reaches (one word, a script entry, a pair) is run in the state in which the entry has left it. -/
theorem stepRunsTheDecodedWord : Obligations.StepRunsTheDecodedWord := by
  refine ⟨fun s r l x rest hp hst hfr htodo hturn hr hl hskip => ?_, fun s a b e => exec_pair_of_legal, fun s i x xs => step_of_todo⟩
  have hfetch : Fetches { s with turn := some rest } r.g r.f.pc.toNat ({ s with turn := some rest }.fetchLine r.g r.f.pc.toNat).1 l :=
    ⟨Prod.ext rfl hl, hskip⟩
  refine ⟨fun w half i hpair hat hi => ?_, fun ix st b w i hpair hat hix hw hi => ?_,
    fun wa wb a b hpair hsecond hka hkb hata hatb ha hb => ?_⟩
  · exact step_of_turn hp hst hfr htodo hturn rfl hr (reach_one hfetch hpair hat hi)
  · exact step_of_turn hp hst hfr htodo hturn rfl hr (reach_script hfetch hpair hat hix (Prod.ext rfl hw) hi)
  · exact step_of_turn hp hst hfr htodo hturn rfl hr (reach_pair hfetch hpair hsecond hka hkb hata hatb ha hb)

end Sys2Proof
end

section
/-!
SUPPORT. Completion of operations of fixed latency (R31, R225).
-/

namespace Sys2Proof.Claims

open Sys2Proof.Machine

theorem exec_fixedLatencyComplete {s : State} {o : Op} {g : Group} (ho : s.findOp o.id = some o) (hg : s.findGroup o.gid = some g)
    (hdue : (o.due.any fun d => d ≤ s.now g) = true) :
    exec (.fixedLatencyComplete o.id) s = .next ((s.doFixed o g).shadowTrap o g) := by
  show execFixedLatencyComplete o.id s = _
  rw [execFixedLatencyComplete, ho]
  simp only [hg, hdue, if_true]

/-- An operation without shadows raises nothing at its completion. -/
theorem shadowTrap_of_plain {s : State} {o : Op} {g : Group} (h : Instr.isShadowed o.instr = false) : s.shadowTrap o g = s := by
  simp [State.shadowTrap, h]

end Sys2Proof.Claims

namespace Sys2Proof

open Sys2Proof.Machine Sys2Proof.Claims

/-- Settles O20: by the operations that do more than write their results, the shadowed ones last. -/
theorem fixedLatencyCompletes : Obligations.FixedLatencyCompletes := by
  intro s o g ho hg hdue old src done
  have hdone : done = .next ((s.doFixed o g).shadowTrap o g) := exec_fixedLatencyComplete ho hg hdue
  split
  case h_6 hflags hset hclr hgset hgclr =>
    have hfix : s.doFixed o g = s.finishOp o := by
      unfold State.doFixed
      split <;> simp_all
    rw [hdone, hfix]
    exact ⟨fun hplain => by rw [shadowTrap_of_plain hplain], fun hshadow => by rw [State.shadowTrap, if_pos hshadow]; rfl⟩
  all_goals
    rename_i hi
    rw [hdone, shadowTrap_of_plain (by rw [hi]; rfl), State.doFixed, hi]
  case h_4 => rfl

end Sys2Proof
end

section
/-!
SUPPORT. Completion of long-latency operations, and arrivals of engine operations (R32, R318, R319).
-/

namespace Sys2Proof.Claims

open Sys2Proof.Machine

section Ending

variable {s t : State} {o : Op} {g : Group}

theorem Ending.issued (h : Ending s o g) : o.at_ = .issued := by
  have hmay := h.may
  simp only [State.mayEnd, Bool.and_eq_true, beq_iff_eq] at hmay
  obtain ⟨⟨⟨⟨hat, _⟩, _⟩, _⟩, _⟩ := hmay
  exact hat

/-- Only the copies out of a bank move their data at their end (R297). -/
theorem canMoveOut_of_other (h : Instr.isCpout o.instr = false) : s.canMoveOut o = false := by
  simp [State.canMoveOut, h]

theorem issued_of_canMoveOut (h : s.canMoveOut o = true) : o.at_ = .issued := by
  simp only [State.canMoveOut, Bool.and_eq_true, beq_iff_eq] at h
  obtain ⟨⟨⟨_, hat⟩, _⟩, _⟩ := h
  exact hat

/-- An operation that may end takes the effect of its family. -/
theorem exec_long_of_ending (h : Ending s o g) (hout : Instr.isCpout o.instr = false) :
    exec (.longLatencyComplete o.id) s =
      .next (if Instr.isSystem o.instr then s.doSystem o g else ((s.doAccess o g).or (s.doPlain o g)).getD s) := by
  show execLongLatencyComplete o.id s = _
  rw [execLongLatencyComplete, h.op]
  simp only [h.group, h.issued, canMoveOut_of_other hout, h.may, Bool.and_false, Bool.false_eq_true, if_true, if_false, reduceCtorEq]

theorem exec_long_of_access (h : Ending s o g) (hout : Instr.isCpout o.instr = false) (hsys : Instr.isSystem o.instr = false)
    (ht : s.doAccess o g = some t) : exec (.longLatencyComplete o.id) s = .next t := by
  rw [exec_long_of_ending h hout, hsys, ht]
  rfl

theorem exec_long_of_plain (h : Ending s o g) (hout : Instr.isCpout o.instr = false) (hsys : Instr.isSystem o.instr = false)
    (hacc : s.doAccess o g = none) (ht : s.doPlain o g = some t) : exec (.longLatencyComplete o.id) s = .next t := by
  rw [exec_long_of_ending h hout, hsys, hacc, ht]
  rfl

theorem exec_long_of_system (h : Ending s o g) (hout : Instr.isCpout o.instr = false) (hsys : Instr.isSystem o.instr = true) :
    exec (.longLatencyComplete o.id) s = .next (s.doSystem o g) := by
  rw [exec_long_of_ending h hout, if_pos hsys]

/-- An access whose bank has left scratchpad mode faults (R120, R301). -/
theorem doAccess_of_gone (hgone : s.bankGone o = true) : s.doAccess o g = some (s.lateFault o) := by rw [State.doAccess, if_pos hgone]

/-- An operation whose effect comes with its arrival (XRED, XPREF, R318) rather than before it. -/
theorem ringFree_of_xred {h : Hdr} {x : XredOps} (hi : o.instr = .xred h x) : s.ringFree o = true := by
  have hcell : o.ringCell = none := by
    unfold Op.ringCell
    split
    · simp_all
    · rfl
  rw [State.ringFree, hcell, List.all_eq_true]
  intro p _
  cases p.ringCell <;> simp

theorem exec_arrival (ho : s.findOp o.id = some o) (hg : s.findGroup o.gid = some g) (hbw : o.bw ≠ none) :
    exec (.engineArrival o.id) s = .next (if o.at_ = .ready then s.arrive o g (o.arriver g)
      else if s.canMoveOut o then (s.moveOut o g).1.arrive (s.moveOut o g).2 g (o.arriver g)
      else if Instr.isRows o.instr && o.at_ == .issued && o.after.isEmpty && s.ringFree o then
        ((s.doRows o g).1.modOp o.id fun _ => { (s.doRows o g).2 with at_ := .ready }).arrive (s.doRows o g).2 g (o.arriver g)
      else s) := by
  have hbw' : o.bw.isNone = false := by simpa [Option.isSome_iff_ne_none] using hbw
  show execEngineArrival o.id s = _
  rw [execEngineArrival, ho]
  simp only [hg, hbw', Bool.false_eq_true, if_false]

theorem exec_arrival_of_ready (ho : s.findOp o.id = some o) (hg : s.findGroup o.gid = some g) (hbw : o.bw ≠ none) (hat : o.at_ = .ready) :
    exec (.engineArrival o.id) s = .next (s.arrive o g (o.arriver g)) := by
  rw [exec_arrival ho hg hbw, if_pos hat]

theorem exec_arrival_of_canMoveOut (ho : s.findOp o.id = some o) (hg : s.findGroup o.gid = some g) (hbw : o.bw ≠ none)
    (hout : s.canMoveOut o = true) :
    exec (.engineArrival o.id) s = .next ((s.moveOut o g).1.arrive (s.moveOut o g).2 g (o.arriver g)) := by
  rw [exec_arrival ho hg hbw, if_neg (by simp [issued_of_canMoveOut hout]), if_pos hout]

/-- An operation of the reduce unit does its work as it arrives, when nothing is before it. -/
theorem exec_arrival_of_rows (ho : s.findOp o.id = some o) (hg : s.findGroup o.gid = some g) (hbw : o.bw ≠ none)
    (hat : o.at_ = .issued) (hafter : o.after = []) (hrows : Instr.isRows o.instr = true) (hout : Instr.isCpout o.instr = false)
    (hfree : s.ringFree o = true) :
    exec (.engineArrival o.id) s =
      .next (((s.doRows o g).1.modOp o.id fun _ => { (s.doRows o g).2 with at_ := .ready }).arrive (s.doRows o g).2 g (o.arriver g)) := by
  rw [exec_arrival ho hg hbw, if_neg (by simp [hat]), if_neg (by simp [canMoveOut_of_other hout]),
    if_pos (by simp [hrows, hat, hafter, hfree])]

theorem exec_long_of_ready (ho : s.findOp o.id = some o) (hg : s.findGroup o.gid = some g) (hbw : o.bw = none) (hat : o.at_ = .ready) :
    exec (.longLatencyComplete o.id) s = .next (s.endEngine o) := by
  show execLongLatencyComplete o.id s = _
  rw [execLongLatencyComplete, ho]
  simp only [hg, hat, hbw, Option.isNone_none, if_true]

theorem exec_long_of_canMoveOut (ho : s.findOp o.id = some o) (hg : s.findGroup o.gid = some g) (hbw : o.bw = none)
    (hout : s.canMoveOut o = true) : exec (.longLatencyComplete o.id) s = .next (s.moveOut o g).1 := by
  show execLongLatencyComplete o.id s = _
  rw [execLongLatencyComplete, ho]
  simp only [hg, issued_of_canMoveOut hout, hbw, hout, Option.isNone_none, Bool.and_self, if_true, if_false, reduceCtorEq]

end Ending

/-- An arrival on a word that can be reached counts there (R153, R318). -/
theorem arrive_of_counted {s v : State} {o : Op} {g : Group} {agent va scope : Nat} {t : Trans} (hbw : o.bw = some (va, scope))
    (ht : (s.modOp o.id fun o => { o with bw := none, status := 0 }).translateFor g va .write = (v, .ok t))
    (htake : ∀ k, s.takeOf g = some k → k.refuses t.pg = false) :
    let c := v.copyAll g.take [.mem t.a t.pg]
    let q := c.rmw agent (c.ctxOf g) scope ⟨.mem t.a t.pg, 8⟩ (c.arrival ⟨.mem t.a t.pg, 8⟩ 1 o.status)
    q.2.2 = false → o.status / 4096 ≠ 3 → s.arrive o g agent = q.1.noteRaces (some g.gid) [(t.a, 8)] := by
  intro c q hq hst
  have hany : ((s.modOp o.id fun o => { o with bw := none, status := 0 }).takeOf g).any (fun x => x.refuses t.pg) = false := by
    have htakes : (s.modOp o.id fun o => { o with bw := none, status := 0 }).takeOf g = s.takeOf g := rfl
    rw [htakes]
    cases hk : s.takeOf g with
    | none => rfl
    | some k => exact htake k hk
  simp only [State.arrive, hbw, ht, hany, Bool.false_eq_true, if_false]
  rw [if_neg (by simpa using hq), if_neg hst]

end Sys2Proof.Claims

namespace Sys2Proof

open Sys2Proof.Machine Sys2Proof.Claims

/-- Settles O22: an operation that may end by the families of accesses, plain and system operations; then arrivals, by whether the
operation has ended or does its work now. -/
theorem longLatencyCompletes : Obligations.LongLatencyCompletes := by
  refine ⟨fun s o g hE => ⟨fun hgone => ?_, fun hkept => ?_⟩, fun s o g ho hg hbw => ⟨?_, ?_, ?_, ?_⟩,
    fun s o g ho hg hbw => ⟨exec_long_of_ready ho hg hbw, exec_long_of_canMoveOut ho hg hbw⟩,
    fun s o g agent va scope v t hbw ht htake => arrive_of_counted hbw ht htake⟩
  · split
    case h_7 => trivial
    all_goals
      rename_i hi
      exact exec_long_of_access hE (by rw [hi]; rfl) (by rw [hi]; rfl) (doAccess_of_gone hgone)
  · split
    case h_40 => trivial
    case h_31 | h_32 | h_33 | h_34 | h_35 | h_36 | h_37 | h_38 | h_39 =>
      rename_i hi
      exact exec_long_of_system hE (by rw [hi]; rfl) (by rw [hi]; rfl)
    case h_15 | h_16 | h_17 | h_19 | h_20 | h_21 | h_22 | h_23 | h_27 | h_28 | h_29 | h_30 =>
      rename_i hi
      exact exec_long_of_plain hE (by rw [hi]; rfl) (by rw [hi]; rfl) (by rw [State.doAccess, hkept, hi]; rfl) (by rw [State.doPlain, hi])
    case h_18 | h_24 | h_25 | h_26 =>
      rename_i hi
      exact exec_long_of_plain hE (by rw [hi]; rfl) (by rw [hi]; rfl) (by rw [State.doAccess, hkept, hi]; rfl)
        (by rw [State.doPlain, hi]; rfl)
    all_goals
      rename_i hi
      exact exec_long_of_access hE (by rw [hi]; rfl) (by rw [hi]; rfl) (by rw [State.doAccess, hkept, hi]; rfl)
  · exact exec_arrival_of_ready ho hg hbw
  · exact exec_arrival_of_canMoveOut ho hg hbw
  · intro h x hi hat hafter
    have hrows : s.doRows o g = s.doXred o g := by rw [State.doRows, hi]
    rw [exec_arrival_of_rows ho hg hbw hat hafter (by rw [hi]; rfl) (by rw [hi]; rfl) (ringFree_of_xred hi), hrows]
  · intro h x hi hat hafter hfree
    have hrows : s.doRows o g = s.doXpref o g := by rw [State.doRows, hi]
    rw [exec_arrival_of_rows ho hg hbw hat hafter (by rw [hi]; rfl) (by rw [hi]; rfl) hfree, hrows]

end Sys2Proof
end

section
/-!
SUPPORT. Branch targets and loops: what follows of targets that are all well, and the counting of LOOP and ENDL (R202, R233, R234).
-/

namespace Sys2Proof.Claims

open Sys2Proof.Machine

/-! ### Targets that are all well -/

theorem jump_of_none {s : State} {e : Env} {faults : List (Nat × List Nat)} (hf : ∀ f ∈ faults, f.2 = []) (write : Bool)
    (k : State → List Nat → State) : s.jump e [] faults write k = k s e.act := by
  have hnone : faults.find? (fun f => !f.2.isEmpty) = none := List.find?_eq_none.2 fun f hm => by simp [hf f hm]
  simp only [State.jump, hnone, List.find?_nil]
  exact State.settleLanes_nil s e write 0 k

/-- Targets read in time or not, none of them forbidden, and no execution fault: the lanes act. -/
theorem branchReg_of {s t : State} {e : Env} {ok : Line → Nat → Bool} {ts : List (Nat × Nat × Bool)} {faults : List (Nat × List Nat)}
    {k : State → List (Nat × Nat) → State} (hin : ∀ x ∈ ts, x.1 ∈ e.act)
    (hfetch : s.fetchTargets e.g ok ((ts.filter fun t => !t.2.2).map fun t => (t.1, t.2.1)) = (t, [])) (hf : ∀ f ∈ faults, f.2 = []) :
    s.branchReg e ok ts faults k = k t (ts.map fun t => (t.1, t.2.1)) := by
  have hall : ts.filter (fun x => e.act.contains x.1) = ts := List.filter_eq_self.2 fun x hx => by simpa using hin x hx
  simp only [State.branchReg, hfetch, jump_of_none hf, hall]

/-! ### What a jump leaves of the guards -/

theorem field_lane_modLanes {β : Type} (field : Lane → β) (g : Group) (ls : List Nat) {f : Nat → Lane → Lane}
    (hf : ∀ i l, field (f i l) = field l) (j : Nat) : field ((g.modLanes ls f).lane j) = field (g.lane j) := by
  induction ls generalizing g with
  | nil => rfl
  | cons i is ih =>
    rw [Group.modLanes, ih]
    by_cases hj : j < g.lanes.length
    · rw [lane_modLane_of_lt g i (f i) hj]
      split
      · exact hf i _
      · rfl
    · rw [Group.lane, Group.lane, List.getD_eq_default _ _ (by simpa [Group.modLane] using hj), List.getD_eq_default _ _ (by omega)]

/-- Two states of a group whose lanes read their guards alike. -/
structure SameGuards (s u : State) (g k : Group) : Prop where
  ops : u.ops = s.ops
  fresh : u.fresh = s.fresh
  gid : k.gid = g.gid
  preds : ∀ i, (k.lane i).p = (g.lane i).p
  unsettled : ∀ i, (k.lane i).unsettled = (g.lane i).unsettled

section SameGuards

variable {s u : State} {g k : Group} (h : SameGuards s u g k)
include h

theorem SameGuards.hazard (lane code : Nat) : u.hazard k lane code = s.hazard g lane code := by
  rw [State.hazard, State.hazard, h.ops, h.gid, h.unsettled]

theorem SameGuards.predVal (lane : Nat) (p : Pred) : u.predVal k lane p = s.predVal g lane p := by
  rw [State.predVal, State.predVal, Group.readP, Group.readP, h.hazard, h.preds, State.free, State.free, h.fresh]

theorem SameGuards.guardOk (q : Guard) (lane : Nat) : u.guardOk k q lane = s.guardOk g q lane := by
  rw [State.guardOk, State.guardOk, h.predVal, h.predVal]

theorem SameGuards.guardEarly (q : Guard) (lane : Nat) : u.guardEarly k q lane = s.guardEarly g q lane := by
  simp only [State.guardEarly, h.hazard]

end SameGuards

theorem env_eq_some {s : State} {q : Guard} {e : Env} (h : s.env q = some e) :
    s.cur = some e.iss ∧ s.findGroup e.iss.gid = some e.g ∧ e.g.findWarp e.iss.wid = some e.w ∧
      e.act = e.iss.lanes.filter (s.guardOk e.g q) ∧ e.lost = e.iss.lanes.filter (s.guardEarly e.g q) := by
  unfold State.env at h
  split at h
  · cases h
  · rename_i i hi
    split at h
    · cases h
    · rename_i g hg
      split at h
      · cases h
      · rename_i w hw
        cases h
        exact ⟨hi, hg, hw, rfl, rfl⟩

/-- What a jump to the targets `ts` makes of a lane (R28). -/
def jumped (ts : List (Nat × Nat)) (prio : Option (BitVec 8)) (i : Nat) (l : Lane) : Lane :=
  { l with pc := BitVec.ofNat 64 ((ts.find? fun t => t.1 == i).elim 0 Prod.snd), prio := prio.getD l.prio }

theorem goTo_eq (s : State) (e : Env) (ts : List (Nat × Nat)) (prio : Option (BitVec 8)) :
    s.goTo e ts prio = s.modLanes e.g.gid (ts.map Prod.fst) (jumped ts prio) := rfl

/-- A jump changes no lane's guard. -/
theorem env_goTo {s : State} {q : Guard} {e e' : Env} (ts : List (Nat × Nat)) (prio : Option (BitVec 8)) (he : s.env q = some e)
    (he' : (s.goTo e ts prio).env q = some e') : e'.act = e.act ∧ e'.lost = e.lost := by
  obtain ⟨hcur, hg, -, hact, hlost⟩ := env_eq_some he
  obtain ⟨hcur', hg', -, hact', hlost'⟩ := env_eq_some he'
  have hiss : e'.iss = e.iss := Option.some.inj (hcur'.symm.trans hcur)
  have hgid : e.g.gid = e.iss.gid := State.findGroup_gid hg
  rw [goTo_eq, hiss, ← hgid] at hg'
  have hfound := State.findGroup_modGroup (hgid ▸ hg) (f := fun g => g.modLanes (ts.map Prod.fst) (jumped ts prio))
    fun _ => Group.modLanes_gid ..
  have hk : e'.g = e.g.modLanes (ts.map Prod.fst) (jumped ts prio) := Option.some.inj (hg'.symm.trans hfound)
  have hsame : SameGuards s (s.goTo e ts prio) e.g e'.g :=
    { ops := rfl
      fresh := rfl
      gid := by rw [hk, Group.modLanes_gid]
      preds := fun i => hk ▸ field_lane_modLanes Lane.p e.g _ (f := jumped ts prio) (fun _ _ => rfl) i
      unsettled := fun i => hk ▸ field_lane_modLanes Lane.unsettled e.g _ (f := jumped ts prio) (fun _ _ => rfl) i }
  rw [hact', hlost', hact, hlost, hiss, funext (hsame.guardOk q), funext (hsame.guardEarly q)]
  exact ⟨rfl, rfl⟩

/-! ### Loops -/

/-- The rows of an instruction are those of its active lanes. -/
theorem fst_mem_act_of_mem_rows {s : State} {e : Env} {args : List Arg} {qs : List (List (Word × Nat))} {r : Row}
    (hr : r ∈ s.rows e args qs) : r.1 ∈ e.act := by
  obtain ⟨l, hl, rfl⟩ := List.mem_map.1 hr
  exact hl

/-- Where LOOP leads a lane that does not enter the loop (R233). -/
def loopExit (e : Env) (o : LoopOps) : Nat := branchTarget e.iss.pc.toNat (signed 20 o.skip.toNat)

/-- The lanes of the entry whose guard fails go to the exit (R226). -/
def loopPast (e : Env) (o : LoopOps) : List (Nat × Nat) := (e.iss.lanes.filter fun l => !e.act.contains l).map fun l => (l, loopExit e o)

/-- The count of a lane; one read too early never makes a fifth counter (R31, R233). -/
def loopCount (e : Env) (r : Row) : Nat := if r.haz && (e.g.lane r.1).loops.length == 4 then 0 else r.fst

/-- The lanes that would have a fifth counter. -/
def loopFull (e : Env) (rows : List Row) : List Nat :=
  (rows.filter fun r => loopCount e r != 0 && (e.g.lane r.1).loops.length == 4).map Prod.fst

/-- The lanes at the exit go there, and the others push their counts. -/
def pushCounts (e : Env) (rows : List Row) (s : State) (ts : List (Nat × Nat)) : State :=
  (s.goTo e ts none).modLanes e.g.gid ((rows.filter fun r => loopCount e r != 0).map Prod.fst) fun i l =>
    { l with loops := BitVec.ofNat 32 ((rows.find? fun r => r.1 == i).elim 0 (loopCount e)) :: l.loops }

/-- LOOP whose counts can be read branches for the lanes with none. -/
theorem exec_loop_of_reads {s u : State} {h : Hdr} {o : LoopOps} {e e' : Env} (he : s.env h.guard = some e)
    (hu : s.goTo e (loopPast e o) none = u) (hr : Reads u h e' [] [loopArg o] u [[]]) (hscript : e'.iss.script = false) :
    exec (.loop h o) s = .next (u.branchReg e' loopTargetOk
      (((u.rows e' [loopArg o] [[]]).filter fun r => loopCount e' r == 0).map fun r => (r.1, loopExit e o, r.haz))
      [(0x2136, []), (0x2130, []), (0x2131, loopFull e' (u.rows e' [loopArg o] [[]]))] (pushCounts e' (u.rows e' [loopArg o] [[]]))) := by
  obtain ⟨⟨henv, hact, -⟩, hwithin, hpops, htags⟩ := hr
  have hcodes : e'.g.codesFault (loopArg o).codes = none := by simpa using hwithin
  simp only [loopPast, loopExit] at hu
  show execLoop h o s = _
  rw [execLoop, he]
  dsimp only
  rw [hu, State.checked_of henv hact hcodes]
  simp only [State.readRows, hpops, htags, hscript, Bool.false_eq_true, if_false]
  rfl

/-- LOOP in an entry of whose lanes none has its guard. -/
theorem exec_loop_of_idle {s : State} {h : Hdr} {o : LoopOps} {e : Env} (he : s.env h.guard = some e) (hact : e.act = [])
    (hlost : e.lost = []) :
    exec (.loop h o) s = .next (s.goTo e (e.iss.lanes.map fun l => (l, loopExit e o)) none) := by
  have hall : loopPast e o = e.iss.lanes.map fun l => (l, loopExit e o) := by simp [loopPast, hact]
  show execLoop h o s = _
  rw [execLoop, he, ← hall]
  refine congrArg Host.Outcome.next (State.withEnv_idle fun e' he' => ?_)
  obtain ⟨hact', hlost'⟩ := env_goTo _ _ he he'
  exact ⟨hact'.trans hact, hlost'.trans hlost⟩

theorem loopless_eq_nil {e : Env} (h : ∀ l ∈ e.act, (e.g.lane l).loops ≠ []) : e.loopless = [] :=
  List.filter_eq_nil_iff.2 fun l hl => by simpa using h l hl

/-- ENDL's counter of one lane: dropped after the last trip (R234). -/
def tripDone (l : Lane) : Lane := match l.loops with
  | [] => l
  | c :: cs => { l with loops := if c = 1 then cs else (c - 1) :: cs }

/-- The lanes that have trips left, at the target of ENDL (R234). -/
def loopBack (e : Env) (o : BitVec 20) : List (Nat × Nat) :=
  (e.act.filter fun l => (e.g.lane l).loops.headD 0 != 1 && !(e.g.lane l).loops.isEmpty).map fun l =>
    (l, branchTarget e.iss.pc.toNat (signed 20 o.toNat))

/-- ENDL branches for the lanes that have trips left. -/
theorem exec_endl_of_acts {s : State} {h : Hdr} {o : BitVec 20} {e : Env} (ha : Acts s h e) (hscript : e.iss.script = false) :
    exec (.endl h o) s = .next (s.branchReg e loopTargetOk ((loopBack e o).map fun t => (t.1, t.2, false))
      [(0x2136, []), (0x2134, e.loopless)] fun s ts => (s.goTo e ts none).modLanes e.g.gid
        (e.act.filter fun l => (e.g.lane l).loops.headD 0 == 1 || ts.any fun t => t.1 == l) fun _ => tripDone) := by
  show execEndl h o s = _
  rw [execEndl, State.withEnv_of ha.issue ha.active]
  simp only [hscript, Bool.false_eq_true, if_false, loopBack, List.map_map]
  rfl

theorem exec_endlBrk_of_acts {s : State} {h : Hdr} {e : Env} (ha : Acts s h e) (hscript : e.iss.script = false)
    (hloops : ∀ l ∈ e.act, (e.g.lane l).loops ≠ []) :
    exec (.endlBrk h) s = .next (s.modLanes e.g.gid e.act fun _ l => { l with loops := l.loops.tail }) := by
  show execEndlBrk h s = _
  rw [execEndlBrk, State.withEnv_of ha.issue ha.active]
  simp only [hscript, loopless_eq_nil hloops, List.isEmpty_nil, Bool.not_true, Bool.false_eq_true, if_false]

/-- LOOP of lanes that have a counter free, or no trips: their exits are looked at, and the counts pushed. -/
theorem loop_of_room {s u v : State} {h : Hdr} {o : LoopOps} {e e' : Env} (he : s.env h.guard = some e)
    (hu : s.goTo e (loopPast e o) none = u) (hr : Reads u h e' [] [loopArg o] u [[]]) (hscript : e'.iss.script = false)
    (hroom : ∀ r ∈ u.rows e' [loopArg o] [[]], loopCount e' r ≠ 0 → (e'.g.lane r.1).loops.length ≠ 4)
    (hfetch : u.fetchTargets e'.g loopTargetOk ((((u.rows e' [loopArg o] [[]]).filter fun r => loopCount e' r == 0).filter
      fun r => !r.haz).map fun r => (r.1, loopExit e o)) = (v, [])) :
    exec (.loop h o) s = .next (pushCounts e' (u.rows e' [loopArg o] [[]]) v
      (((u.rows e' [loopArg o] [[]]).filter fun r => loopCount e' r == 0).map fun r => (r.1, loopExit e o))) := by
  have hfull : loopFull e' (u.rows e' [loopArg o] [[]]) = [] := by
    rw [loopFull, List.map_eq_nil_iff, List.filter_eq_nil_iff]
    intro r hr
    simpa using hroom r hr
  have hin : ∀ x ∈ ((u.rows e' [loopArg o] [[]]).filter fun r => loopCount e' r == 0).map fun r => (r.1, loopExit e o, r.haz),
    x.1 ∈ e'.act := by
    intro x hx
    obtain ⟨r, hr, rfl⟩ := List.mem_map.1 hx
    exact fst_mem_act_of_mem_rows (List.mem_of_mem_filter hr)
  rw [exec_loop_of_reads he hu hr hscript, hfull, branchReg_of hin (t := v) ?_ (by simp), List.map_map]
  · rfl
  · rw [List.filter_map, List.map_map]
    exact hfetch

theorem fst_mem_act_of_mem_back {e : Env} {o : BitVec 20} {t : Nat × Nat} (ht : t ∈ loopBack e o) : t.1 ∈ e.act := by
  obtain ⟨l, hl, rfl⟩ := List.mem_map.1 ht
  exact List.mem_of_mem_filter hl

/-- Every lane with a counter has its last trip or goes back. -/
theorem loopLanes_eq_act {e : Env} (o : BitVec 20) (hloops : ∀ l ∈ e.act, (e.g.lane l).loops ≠ []) :
    e.act.filter (fun l => (e.g.lane l).loops.headD 0 == 1 || (loopBack e o).any fun t => t.1 == l) = e.act := by
  refine List.filter_eq_self.2 fun l hl => ?_
  by_cases htop : (e.g.lane l).loops.headD 0 = 1
  · simp only [htop, beq_self_eq_true, Bool.true_or]
  · have hback : (l, branchTarget e.iss.pc.toNat (signed 20 o.toNat)) ∈ loopBack e o :=
      List.mem_map.2 ⟨l, List.mem_filter.2 ⟨hl, by
        simp only [bne_iff_ne.2 htop, Bool.true_and, Bool.not_eq_true', List.isEmpty_eq_false_iff]
        exact hloops l hl⟩, rfl⟩
    simp only [Bool.or_eq_true, List.any_eq_true]
    exact .inr ⟨_, hback, beq_self_eq_true l⟩

/-- ENDL of lanes that each have a counter: those with trips left go back, and each counts one trip. -/
theorem endl_of_loops {s t : State} {h : Hdr} {o : BitVec 20} {e : Env} (ha : Acts s h e) (hscript : e.iss.script = false)
    (hloops : ∀ l ∈ e.act, (e.g.lane l).loops ≠ []) (hfetch : s.fetchTargets e.g loopTargetOk (loopBack e o) = (t, [])) :
    exec (.endl h o) s = .next ((t.goTo e (loopBack e o) none).modLanes e.g.gid e.act fun _ => tripDone) := by
  have hin : ∀ x ∈ (loopBack e o).map fun t => (t.1, t.2, false), x.1 ∈ e.act := by
    intro x hx
    obtain ⟨y, hy, rfl⟩ := List.mem_map.1 hx
    exact fst_mem_act_of_mem_back hy
  rw [exec_endl_of_acts ha hscript, loopless_eq_nil hloops, branchReg_of hin (t := t) ?_ (by simp)]
  · simp only [List.map_map, Function.comp_def, Prod.eta, List.map_id', loopLanes_eq_act o hloops]
  · simpa [Function.comp_def, List.filter_map] using hfetch

/-- With a counter in each lane, the lanes that go back are those not at their last trip. -/
theorem loopBack_eq {e : Env} (o : BitVec 20) (hloops : ∀ l ∈ e.act, (e.g.lane l).loops ≠ []) :
    loopBack e o = (e.act.filter fun l => (e.g.lane l).loops.headD 0 != 1).map fun l =>
      (l, branchTarget e.iss.pc.toNat (signed 20 o.toNat)) := by
  rw [loopBack, List.filter_congr fun l hl => ?_]
  simp [hloops l hl]

end Sys2Proof.Claims

namespace Sys2Proof

open Sys2Proof.Machine Sys2Proof.Claims

/-- Settles O26: LOOP and ENDL are branches of the lanes without trips left, and ENDL.BRK drops a counter. -/
theorem loopsCount : Obligations.LoopsCount := by
  refine ⟨fun s h o e e' u v he => loop_of_room he, fun s h o e he => exec_loop_of_idle he, fun s h o e t ha hscript hloops => ?_,
    fun s h e => exec_endlBrk_of_acts⟩
  · intro top back hfetch
    have hback : back = loopBack e o := (loopBack_eq o hloops).symm
    rw [hback] at hfetch ⊢
    exact endl_of_loops ha hscript hloops hfetch

end Sys2Proof
end

section
/-!
SUPPORT. Lanes that stop, yield, block or resolve guards as their instruction issues (R232, R236, R237, R240, R241).
-/

namespace Sys2Proof.Claims

open Sys2Proof.Machine

/-! ### Lanes that act alike -/

theorem modLanes_congr {g : Group} {ls : List Nat} {f f' : Nat → Lane → Lane} (h : ∀ i ∈ ls, f i = f' i) :
    g.modLanes ls f = g.modLanes ls f' := by
  induction ls generalizing g with
  | nil => rfl
  | cons i is ih =>
    rw [Group.modLanes, Group.modLanes, h i List.mem_cons_self]
    exact ih fun j hj => h j (List.mem_cons_of_mem _ hj)

theorem state_modLanes_congr (s : State) (gid : Nat) {ls : List Nat} {f f' : Nat → Lane → Lane} (h : ∀ i ∈ ls, f i = f' i) :
    s.modLanes gid ls f = s.modLanes gid ls f' := by
  have hg : (fun g : Group => g.modLanes ls f) = fun g => g.modLanes ls f' := funext fun _ => modLanes_congr h
  rw [State.modLanes, State.modLanes, hg]

/-! ### Rows of operands -/

theorem find?_map_self {β : Type} {ls : List Nat} {f : Nat → β} {i : Nat} (hi : i ∈ ls) :
    (ls.map fun l => (l, f l)).find? (fun x => x.1 == i) = some (i, f i) := by
  induction ls with
  | nil => cases hi
  | cons j js ih =>
    by_cases hj : j = i
    · simp [hj]
    · have hmem : i ∈ js := (List.mem_cons.1 hi).resolve_left fun h => hj h.symm
      rw [List.map_cons, List.find?_cons_of_neg (by simpa using hj), ih hmem]

/-- The row of an active lane, its guard read in time. -/
theorem find?_rows {s : State} {e : Env} {args : List Arg} {qs : List (List (Word × Nat))} (hlost : e.lost = []) {i : Nat}
    (hi : i ∈ e.act) :
    (s.rows e args qs).find? (fun x => x.1 == i) = some (i, s.readArgs e i 0 args qs) := by
  have hlose : Opnd.lose false = id := funext fun _ => rfl
  rw [State.rows, find?_map_self hi, hlost]
  simp [hlose]

/-! ### The instructions -/

section Acts

variable {s : State} {h : Hdr} {e : Env} (ha : Acts s h e)
include ha

theorem exec_exit_of_acts : exec (.exit h) s = .next (((s.sendReplies e.g e.act fun _ => []).modLanes e.g.gid e.act
    fun _ l => { l with at_ := .retired, age := 0 }).checkGrow e.g.gid) := by
  show execExit h s = _
  rw [execExit, State.withEnv_of ha.issue ha.active]
  rfl

theorem exec_grow_of_full (hfull : e.g.full = true) : exec (.grow h) s = .next s := by
  show execGrow h s = _
  rw [execGrow, State.withEnv_of ha.issue ha.active, if_pos hfull]

theorem exec_grow_of_small (hfull : e.g.full = false) :
    exec (.grow h) s = .next ((s.modLanes e.g.gid e.act fun _ l => l.blockAt .grow).checkGrow e.g.gid) := by
  show execGrow h s = _
  rw [execGrow, State.withEnv_of ha.issue ha.active, if_neg (by simp [hfull])]
  rfl

theorem exec_wcut_of_acts (hcut : e.w.links.length < e.g.cut) (hwidth : 4 < e.w.width) :
    exec (.wcut h) s = .next (s.modLanes e.g.gid e.act fun _ l => l.blockAt .wcut) := by
  show execWcut h s = _
  rw [execWcut, State.withEnv_of ha.issue ha.active, if_neg (by omega)]
  rfl

theorem exec_wsplice_of_acts (o : WspliceOps) (hcodes : e.g.codesFault [o.vd] = none) : exec (.wsplice h o) s =
    .next (s.modLanes e.g.gid e.act fun _ l => l.blockAt (.wsplice o.tag.toNat o.vd o.pd.toNat)) := by
  show execWsplice h o s = _
  rw [execWsplice, State.checked_of ha.issue ha.active hcodes]
  rfl

theorem exec_gset_of_acts (o : GsetOps) : exec (.gset h o) s = .next (s.addOp { e.op s h (.gset h o) with
    vals := [bit (s.predVal e.g e.low o.pa)]
    due := some (s.now e.g + 4) }) := by
  show execGset h o s = _
  rw [execGset, State.withEnv_of ha.issue ha.active]

theorem exec_gclr_of_acts (o : BitVec 4) :
    exec (.gclr h o) s = .next (s.addOp { e.op s h (.gclr h o) with due := some (s.now e.g + 4) }) := by
  show execGclr h o s = _
  rw [execGclr, State.withEnv_of ha.issue ha.active]

end Acts

theorem exec_yield_of_issue {s : State} {i : Issue} (h : Hdr) (hi : s.cur = some i) :
    exec (.yield h) s = .next (s.modWarp i.gid i.wid fun w => { w with yielded := i.lanes }) := by
  show execYield h s = _
  rw [execYield, hi]

theorem exec_wait_of_issue {s : State} {i : Issue} {g : Group} (h : Hdr) (n : BitVec 10) (hi : s.cur = some i)
    (hg : s.findGroup i.gid = some g) :
    exec (.wait h n) s = .next (s.modWarp i.gid i.wid fun w => { w with until_ := s.now g + n.toNat }) := by
  show execWait h n s = _
  rw [execWait, hi]
  simp only [hg]

/-- WSYNC blocks each lane at the mask that it reads (R236). -/
theorem exec_wsync_of_reads {s : State} {h : Hdr} {o : Reg} {e : Env} (hr : Reads s h e [] [Arg.reg .i64 o] s [[]]) :
    exec (.wsync h o) s = .next (s.modLanes e.g.gid e.act fun i l =>
      l.blockAt (.wsync (BitVec.ofNat 64 (s.readReg e.g true 0 i o).val))) := by
  obtain ⟨⟨henv, hact, hlost⟩, hwithin, hpops, htags⟩ := hr
  have hcodes : e.g.codesFault (regCodes true o) = none := by simpa [Arg.codes, Arg.reg, Ty.is64] using hwithin
  show execWsync h o s = _
  rw [execWsync, State.checked_of henv hact hcodes]
  simp only [State.readRows, hpops, htags, List.isEmpty_nil, if_true, State.block]
  refine congrArg Host.Outcome.next (state_modLanes_congr s _ fun i hi => ?_)
  rw [find?_rows hlost hi]
  rfl

end Sys2Proof.Claims

namespace Sys2Proof

open Sys2Proof.Machine Sys2Proof.Claims

/-- Settles O27: one lemma for each of these instructions, by what it does in the issue in progress. -/
theorem lanesStopAndYield : Obligations.LanesStopAndYield :=
  ⟨⟨fun _ _ => rfl, fun _ h _ => exec_yield_of_issue h, fun _ h n _ _ => exec_wait_of_issue h n, fun _ _ _ => exec_exit_of_acts,
      fun _ _ _ _ => exec_wsync_of_reads, fun _ _ _ => exec_grow_of_full, fun _ _ _ => exec_grow_of_small, fun _ _ _ => exec_wcut_of_acts,
      fun _ _ o _ ha => exec_wsplice_of_acts ha o⟩,
    fun _ _ o _ ha => exec_gset_of_acts ha o, fun _ _ o _ ha => exec_gclr_of_acts ha o⟩

end Sys2Proof
end

section
/-!
SUPPORT. Accesses of lanes: the operation that goes out where every operand and address is in order, and the fault where one is not
(R281 to R287, R292).
-/

namespace Sys2Proof.Claims

open Sys2Proof.Machine

/-! ### Rows and their lanes -/

theorem map_fst_rows (s : State) (e : Env) (args : List Arg) (qs : List (List (Word × Nat))) : (s.rows e args qs).map Prod.fst = e.act := by
  rw [State.rows, List.map_map]
  exact List.map_id _

/-- A lane has one row. -/
theorem eq_of_mem_rows {s : State} {e : Env} {args : List Arg} {qs : List (List (Word × Nat))} {r x : Row} (hr : r ∈ s.rows e args qs)
    (hx : x ∈ s.rows e args qs) (h : r.1 = x.1) : r = x := by
  obtain ⟨l, -, rfl⟩ := List.mem_map.1 hr
  obtain ⟨m, -, rfl⟩ := List.mem_map.1 hx
  cases h
  rfl

/-- A lane is among those of the rows with a property if its own row has it. -/
theorem contains_filter_rows {s : State} {e : Env} {args : List Arg} {qs : List (List (Word × Nat))} (p : Row → Bool) {r : Row}
    (hr : r ∈ s.rows e args qs) : (((s.rows e args qs).filter p).map Prod.fst).contains r.1 = p r := by
  rw [Bool.eq_iff_iff, List.contains_iff_mem, List.mem_map]
  constructor
  · rintro ⟨x, hx, hfst⟩
    obtain ⟨hmem, hp⟩ := List.mem_filter.1 hx
    exact eq_of_mem_rows hmem hr hfst ▸ hp
  · exact fun hp => ⟨r, List.mem_filter.2 ⟨hr, hp⟩, rfl⟩

theorem tagsOk_of_badTags {args : List Arg} {rows : List Row} (h : badTags args rows = []) {r : Row} (hr : r ∈ rows) :
    tagsOk args r.2 = true := by
  have hbad := List.filter_eq_nil_iff.1 (List.map_eq_nil_iff.1 h) r hr
  simpa using hbad

/-- Every access located is that of a lane asked for. -/
theorem lane_mem_of_mem_locLanes {s : State} {g : Group} {sp : Space} {k : AccKind} {us ls : List (Nat × Nat)} {a : Acc}
    (ha : a ∈ (s.locLanes g sp k us ls).2.1) : a.lane ∈ ls.map Prod.fst := by
  induction ls generalizing s with
  | nil => cases ha
  | cons x xs ih =>
    obtain ⟨lane, addr⟩ := x
    rw [State.locLanes] at ha
    split at ha
    · exact List.mem_cons_of_mem _ (ih ha)
    · rcases List.mem_cons.1 ha with rfl | h
      · exact List.mem_cons_self
      · exact List.mem_cons_of_mem _ (ih h)

theorem undefineLost_of_sure {e : Env} (hlost : e.lost = []) (s : State) (o : Op) (dst : List Nat) (tag : Nat) :
    s.undefineLost e o dst tag = s := by
  simp [State.undefineLost, hlost]

/-! ### The shared frame -/

section Access

variable {i : Instr} {h : Hdr} {dst : List Nat} {args : List Arg} {sp : Space} {k : AccKind} {six : Bool} {n : Nat} {addr : Row → Nat}
  {lv : Row → List Nat}

/-- The failures of the operands and addresses of an access, by lane (R69, R283). -/
def accessFaults (s : State) (e : Env) (args : List Arg) (qs : List (List (Word × Nat))) (sp : Space) (six : Bool) (n : Nat)
    (addr : Row → Nat) : List (Nat × Nat × Nat) :=
  (s.rows e args qs).filterMap fun r =>
    if tagsOk args r.2 then (s.addrFault e.g sp six n (addr r)).map fun c => (r.1, c, addr r) else some (r.1, 0x2130, 0)

/-- With every tag accepted, what fails are addresses. -/
theorem accessFaults_of_tags {s : State} {e : Env} {qs : List (List (Word × Nat))} (htags : badTags args (s.rows e args qs) = []) :
    accessFaults s e args qs sp six n addr =
      (s.rows e args qs).filterMap fun r => (s.addrFault e.g sp six n (addr r)).map fun c => (r.1, c, addr r) := by
  rw [accessFaults]
  refine List.filterMap_congr fun r hr => ?_
  rw [if_pos (tagsOk_of_badTags htags hr)]

theorem accessFaults_eq_nil {s : State} {e : Env} {qs : List (List (Word × Nat))} (htags : badTags args (s.rows e args qs) = [])
    (haddr : ∀ r ∈ s.rows e args qs, s.addrFault e.g sp six n (addr r) = none) : accessFaults s e args qs sp six n addr = [] := by
  rw [accessFaults_of_tags htags, List.filterMap_eq_nil_iff]
  intro r hr
  rw [haddr r hr]
  rfl

/-- An access with its operands and addresses in order, located for all its lanes, goes out or holds them (R41, R281). -/
theorem accesses_of_access (hx : ∀ s, exec i s = .next (s.access h i sp k six n dst args addr lv)) :
    Accesses i h dst args sp k six n addr lv := by
  intro s e t qs u accs late ⟨⟨henv, hact, hlost⟩, hwithin, hpops, htags⟩ haddr hloc blind o
  have hfaults := accessFaults_eq_nil htags haddr
  rw [accessFaults] at hfaults
  have hlanes : ∀ r ∈ s.rows e args qs, e.act.contains r.1 = true := fun r hr =>
    List.contains_iff_mem.2 (map_fst_rows s e args qs ▸ List.mem_map_of_mem hr)
  have haccs : accs.filter (fun a => e.act.contains a.lane) = accs := by
    refine List.filter_eq_self.2 fun a ha => List.contains_iff_mem.2 ?_
    have hmem := lane_mem_of_mem_locLanes (s := t) (g := e.g) (sp := sp) (k := k) (us := memUnits six n)
      (ls := (s.rows e args qs).map fun r => (r.1, addr r)) (a := a) (by rw [hloc]; exact ha)
    rw [List.map_map] at hmem
    exact map_fst_rows s e args qs ▸ hmem
  have hvals : ((s.rows e args qs).map fun x => (x.1, (bit x.haz + 2 * bit
        ((((s.rows e args qs).filter blind).map Prod.fst).contains x.1)) :: lv x)) =
      (s.rows e args qs).map fun r => (r.1, (bit r.haz + 2 * bit (blind r)) :: lv r) :=
    List.map_congr_left fun r hr => by rw [contains_filter_rows blind hr]
  rw [hx, State.access, State.checked_of henv hact hwithin]
  simp only [hpops, hfaults, List.filter_nil, List.any_nil, Bool.not_false, List.filter_true, hloc, State.settleLanes_nil,
    List.isEmpty_iff, hact, if_false, undefineLost_of_sure hlost, haccs, List.filter_eq_self.2 hlanes]
  rw [hvals]
  rfl

/-- An access whose addresses fail has no effect but the error, in the lanes that fail (R283). -/
theorem exec_access_of_addrFault (hx : ∀ s, exec i s = .next (s.access h i sp k six n dst args addr lv)) {s t : State} {e : Env}
    {qs : List (List (Word × Nat))} {f : Nat × Nat × Nat} {fs : List (Nat × Nat × Nat)} (hr : Reads s h e dst args t qs)
    (hin : ∀ r ∈ s.rows e args qs, r.haz = false ∧ e.short args qs r.1 = false)
    (hf : ((s.rows e args qs).filterMap fun r => (s.addrFault e.g sp six n (addr r)).map fun c => (r.1, c, addr r)) = f :: fs) :
    exec i s = .next (s.progError e.g.gid e.w.wid f.2.1 (f.1 :: fs.map Prod.fst) f.2.2 (k == .write)) := by
  obtain ⟨⟨henv, hact, hlost⟩, hwithin, hpops, htags⟩ := hr
  have hfaults := (accessFaults_of_tags htags).trans hf
  rw [accessFaults] at hfaults
  have hblind : ((s.rows e args qs).filter fun r => (r.2.take 2).any Opnd.haz || e.short args qs r.1) = [] := by
    refine List.filter_eq_nil_iff.2 fun r hr => ?_
    obtain ⟨hhaz, hshort⟩ := hin r hr
    have htake : (r.2.take 2).any Opnd.haz = false := by
      rw [List.any_eq_false]
      exact fun x hx => List.any_eq_false.1 hhaz x (List.mem_of_mem_take hx)
    simp [htake, hshort]
  rw [hx, State.access, State.checked_of henv hact hwithin]
  simp only [hpops, hfaults, hblind, hlost, List.map_nil, List.contains_nil, Bool.false_and, Bool.not_false, Bool.and_self,
    List.filter_true,
    State.fail_of hlost, List.map_cons]

end Access

end Sys2Proof.Claims

namespace Sys2Proof

open Sys2Proof.Machine Sys2Proof.Claims

/-- Settles O32: every one of these words goes by the shared frame of accesses. -/
theorem laneAccessesIssue : Obligations.LaneAccessesIssue :=
  ⟨fun _ _ => accesses_of_access fun _ => rfl, fun _ _ => accesses_of_access fun _ => rfl, fun _ _ => accesses_of_access fun _ => rfl,
    fun _ _ => accesses_of_access fun _ => rfl, fun _ _ => accesses_of_access fun _ => rfl, fun _ _ => accesses_of_access fun _ => rfl,
    fun _ _ => accesses_of_access fun _ => rfl⟩

end Sys2Proof
end

section
/-!
SUPPORT. Operand checks that fail: the instruction has no effect but the program error (R36, R69, R202, R230 to R234, R283).
-/

namespace Sys2Proof.Claims

open Sys2Proof.Machine

/-! ### The shared frames -/

section FixedQ

variable {s : State} {h : Hdr} {e : Env} (ha : Acts s h e)
include ha

/-- A fixed-latency instruction with a register outside the allotment (R36). -/
theorem fixedQ_of_codes (i : Instr) {dst : List Nat} {args : List Arg} (lat : Env → Nat)
    (out : State → Env → List (List (Word × Nat)) → List Row → Writes) {c : Nat}
    (hcodes : e.g.codesFault (dst ++ args.flatMap Arg.codes) = some c) :
    s.fixedQ h i dst args lat out = s.progError e.g.gid e.w.wid c e.act 0 := by
  rw [State.fixedQ, State.checked_fault ha.issue ha.active ha.sure hcodes]

/-- A fixed-latency instruction with a tag that its operand's type refuses (R69). -/
theorem fixedQ_of_badTags (i : Instr) {dst : List Nat} {args : List Arg} (lat : Env → Nat)
    (out : State → Env → List (List (Word × Nat)) → List Row → Writes)
    (hcodes : e.g.codesFault (dst ++ args.flatMap Arg.codes) = none) (hbad : badTags args (s.rows e args (s.popArgs e args).2) ≠ []) :
    s.fixedQ h i dst args lat out = s.progError e.g.gid e.w.wid 0x2130 (badTags args (s.rows e args (s.popArgs e args).2)) 0 := by
  rw [State.fixedQ, State.checked_of ha.issue ha.active hcodes]
  simp only [ha.sure, List.contains_nil, Bool.not_false, List.filter_true, List.isEmpty_iff, hbad, if_false, State.fail_of ha.sure]

end FixedQ

theorem exec_iadd (h : Hdr) (o : Int2) (s : State) : exec (.iadd h o) s = .next (s.alu h (.iadd h o) (latInt o.ty) o.ty.is64 o.d
    [.of o.ty o.a, .of o.ty o.b] (bin (intOp2 o.ty o.sat fun a b => a + b))) := rfl

/-- Targets that are all forbidden come before everything else (R202, R210). -/
theorem jump_of_forbidden {s : State} {e : Env} (hlost : e.lost = []) {ls : List Nat} (hls : ls ≠ []) (faults : List (Nat × List Nat))
    (write : Bool) (k : State → List Nat → State) :
    s.jump e (ls.map fun l => (l, 0x2107, 0)) faults write k = s.progError e.g.gid e.w.wid 0x2107 ls 0 := by
  have hhard : (ls.map fun l => (l, 0x2107, 0)).find? (fun f : Nat × Nat × Nat => f.2.1 / 4096 == 3) = none :=
    List.find?_eq_none.2 fun f hf => by
      obtain ⟨l, -, rfl⟩ := List.mem_map.1 hf
      simp
  have hwrong : wrongTargets (ls.map fun l => (l, 0x2107, 0)) = ls := by
    rw [wrongTargets, List.filter_eq_self.2 fun f hf => ?_, List.map_map]
    · exact List.map_id _
    · obtain ⟨l, -, rfl⟩ := List.mem_map.1 hf
      rfl
  obtain ⟨l, ls, rfl⟩ := List.exists_cons_of_ne_nil hls
  simp only [State.jump, hhard, hwrong, State.fail_of hlost]

/-- With every target well, the execution fault that comes before the others is raised (R210). -/
theorem jump_of_fault {s : State} {e : Env} (hlost : e.lost = []) {faults : List (Nat × List Nat)} {code : Nat} {ls : List Nat}
    (hfind : faults.find? (fun f => !f.2.isEmpty) = some (code, ls)) (write : Bool) (k : State → List Nat → State) :
    s.jump e [] faults write k = s.progError e.g.gid e.w.wid code ls 0 := by
  have hwrong : wrongTargets [] = [] := rfl
  simp only [State.jump, List.find?_nil, hwrong, hfind, State.fail_of hlost]

theorem branchReg_of_fault {s t : State} {e : Env} (hlost : e.lost = []) {ok : Line → Nat → Bool} {ts : List (Nat × Nat × Bool)}
    {faults : List (Nat × List Nat)} {k : State → List (Nat × Nat) → State} {code : Nat} {ls : List Nat}
    (hfetch : s.fetchTargets e.g ok ((ts.filter fun t => !t.2.2).map fun t => (t.1, t.2.1)) = (t, []))
    (hfind : faults.find? (fun f => !f.2.isEmpty) = some (code, ls)) :
    s.branchReg e ok ts faults k = t.progError e.g.gid e.w.wid code ls 0 := by
  rw [State.branchReg, hfetch]
  exact jump_of_fault hlost hfind false _

/-- Targets that no lane read too early are all looked at. -/
theorem timely_targets (ts : List (Nat × Nat)) :
    ((ts.map fun t => (t.1, t.2, false)).filter fun t => !t.2.2).map (fun t => (t.1, t.2.1)) = ts := by
  rw [List.filter_eq_self.2 fun x hx => ?_, List.map_map]
  · exact List.map_id _
  · obtain ⟨y, -, rfl⟩ := List.mem_map.1 hx
    rfl

theorem timely_lanes (ts : List (Nat × Nat)) : (ts.map fun t => (t.1, t.2, false)).map Prod.fst = ts.map Prod.fst := by
  rw [List.map_map]
  rfl

/-- A call whose targets are well and whose frames can be written raises the error of the lanes without room (R230). -/
theorem callLanes_of_full {s t : State} {e : Env} (hlost : e.lost = []) {prio : BitVec 8} {ts : List (Nat × Nat)}
    (hlanes : ts.map Prod.fst = e.act) (hfetch : s.fetchTargets e.g targetOk ts = (t, [])) (hfull : s.fullFrames e e.act ≠ [])
    (hframes : (t.frames e .write (fun l => (e.g.lane l).depth) (e.act.filter fun l => !(s.fullFrames e e.act).contains l)).2.2 = []) :
    s.callLanes e prio (ts.map fun t => (t.1, t.2, false)) [] = (t.frames e .write (fun l => (e.g.lane l).depth)
      (e.act.filter fun l => !(s.fullFrames e e.act).contains l)).1.progError e.g.gid e.w.wid 0x2132 (s.fullFrames e e.act) 0 := by
  have hnone : ∀ ts : List (Nat × Nat × Bool), (ts.filterMap fun _ => (none : Option (Nat × Nat × Nat))) = [] := fun ts => by simp
  rw [State.callLanes, timely_targets, hfetch]
  simp only [timely_lanes, hlanes, List.any_nil, Bool.not_false, List.filter_true, hframes, List.append_nil, List.find?_nil, hnone,
    List.nil_append, List.head?_nil, Option.any_none]
  refine jump_of_fault hlost ?_ false _
  rw [List.find?_cons_of_pos (by simpa [List.isEmpty_iff] using hfull)]

/-! ### The instructions -/

section Acts

variable {s t : State} {h : Hdr} {e : Env} (ha : Acts s h e)
include ha

theorem exec_bra_of_forbidden {o : BraOps}
    (hfetch : s.fetchTargets e.g targetOk (branchTargets e o.offset) = (t, e.act.map fun l => (l, 0x2107, 0))) :
    exec (.bra h o) s = .next (t.progError e.g.gid e.w.wid 0x2107 e.act 0) := by
  show execBra h o s = _
  rw [execBra, State.withEnv_of ha.issue ha.active, State.branch, hfetch]
  exact congrArg Host.Outcome.next (jump_of_forbidden ha.sure ha.active [] false _)

/-- A call whose targets are well and whose frames can be written, but for the lanes without room (R230). -/
theorem exec_call_of_full {o : BraOps} (hfetch : s.fetchTargets e.g targetOk (branchTargets e o.offset) = (t, []))
    (hfull : s.fullFrames e e.act ≠ [])
    (hframes : (t.frames e .write (fun l => (e.g.lane l).depth) (e.act.filter fun l => !(s.fullFrames e e.act).contains l)).2.2 = []) :
    exec (.call h o) s = .next ((t.frames e .write (fun l => (e.g.lane l).depth)
      (e.act.filter fun l => !(s.fullFrames e e.act).contains l)).1.progError e.g.gid e.w.wid 0x2132 (s.fullFrames e e.act) 0) := by
  have hlanes : (branchTargets e o.offset).map Prod.fst = e.act := by
    rw [branchTargets, List.map_map]
    exact List.map_id _
  show execCall h o s = _
  rw [execCall, State.withEnv_of ha.issue ha.active]
  exact congrArg Host.Outcome.next (callLanes_of_full ha.sure hlanes hfetch hfull hframes)

/-- RET where some lanes have no frame, and those of the others can be read (R231). -/
theorem exec_ret_of_frameless (hnone : e.frameless ≠ [])
    (hframes : (s.frames e .read (fun l => (e.g.lane l).depth - 1) (e.act.filter fun l => !e.frameless.contains l)).2.2 = [])
    {u : State} {fs : List (Nat × Nat × Option (Nat × Nat))}
    (hread : (s.frames e .read (fun l => (e.g.lane l).depth - 1) (e.act.filter fun l => !e.frameless.contains l)).1.readFrames e
      (s.frames e .read (fun l => (e.g.lane l).depth - 1) (e.act.filter fun l => !e.frameless.contains l)).2.1 = (u, fs))
    (hclean : ∀ f ∈ fs, f.2.2 = none)
    (hfetch : u.fetchTargets e.g Line.wellFormed (fs.map fun f => (f.1, slice f.2.1 0 64)) = (t, [])) :
    exec (.ret h) s = .next (t.progError e.g.gid e.w.wid 0x2133 e.frameless 0) := by
  have hpoison : fs.findSome? (fun f => f.2.2) = none := List.findSome?_eq_none_iff.2 hclean
  have hfails : ∀ ls : List Nat, (ls.filterMap fun _ => (none : Option (Nat × Nat × Nat))) = [] := fun ls => by simp
  show execRet h s = _
  rw [execRet, State.withEnv_of ha.issue ha.active, if_neg (by simpa [List.isEmpty_iff] using hnone), State.retLanes]
  simp only [hread, hpoison, hframes, hfetch, List.append_nil, List.find?_nil, hfails]
  refine congrArg Host.Outcome.next (jump_of_fault ?_ ?_ false _)
  · exact ha.sure
  · rw [List.find?_cons_of_pos (by simpa [List.isEmpty_iff] using hnone)]

/-- ENDL where some lanes are in no loop (R234). -/
theorem exec_endl_of_loopless {o : BitVec 20} (hscript : e.iss.script = false) (hnone : e.loopless ≠ [])
    (hfetch : s.fetchTargets e.g loopTargetOk (loopBack e o) = (t, [])) :
    exec (.endl h o) s = .next (t.progError e.g.gid e.w.wid 0x2134 e.loopless 0) := by
  rw [exec_endl_of_acts ha hscript, branchReg_of_fault ha.sure (t := t) (code := 0x2134) (ls := e.loopless)]
  · simpa [Function.comp_def, List.filter_map] using hfetch
  · rw [List.find?_cons_of_neg (by simp), List.find?_cons_of_pos (by simpa [List.isEmpty_iff] using hnone)]

theorem exec_wcut_of_deep (hcut : e.g.cut ≤ e.w.links.length ∨ e.w.width ≤ 4) :
    exec (.wcut h) s = .next (s.progError e.g.gid e.w.wid 0x2120 e.act 0) := by
  show execWcut h s = _
  rw [execWcut, State.withEnv_of ha.issue ha.active, if_pos hcut, State.fail_of ha.sure]

end Acts

/-- LOOP where some lanes have four counters in use and no count was read too early (R233). -/
theorem exec_loop_of_full {s u v : State} {h : Hdr} {o : LoopOps} {e e' : Env} (he : s.env h.guard = some e)
    (hu : s.goTo e (loopPast e o) none = u) (hr : Reads u h e' [] [loopArg o] u [[]]) (hscript : e'.iss.script = false)
    (hhaz : ∀ r ∈ u.rows e' [loopArg o] [[]], r.haz = false)
    (hfull : ((u.rows e' [loopArg o] [[]]).filter fun r => r.fst != 0 && (e'.g.lane r.1).loops.length == 4).map Prod.fst ≠ [])
    (hfetch : u.fetchTargets e'.g loopTargetOk (((u.rows e' [loopArg o] [[]]).filter fun r => r.fst == 0).map fun r =>
      (r.1, loopExit e o)) = (v, [])) :
    exec (.loop h o) s = .next (v.progError e'.g.gid e'.w.wid 0x2131
      (((u.rows e' [loopArg o] [[]]).filter fun r => r.fst != 0 && (e'.g.lane r.1).loops.length == 4).map Prod.fst) 0) := by
  have hcount : ∀ r ∈ u.rows e' [loopArg o] [[]], loopCount e' r = r.fst := fun r hr => by simp [loopCount, hhaz r hr]
  have hlanes : loopFull e' (u.rows e' [loopArg o] [[]]) =
      ((u.rows e' [loopArg o] [[]]).filter fun r => r.fst != 0 && (e'.g.lane r.1).loops.length == 4).map Prod.fst := by
    rw [loopFull, List.filter_congr fun r hr => by rw [hcount r hr]]
  have hzero : (u.rows e' [loopArg o] [[]]).filter (fun r => loopCount e' r == 0) =
      (u.rows e' [loopArg o] [[]]).filter fun r => r.fst == 0 :=
    List.filter_congr fun r hr => by rw [hcount r hr]
  have hsure : ((u.rows e' [loopArg o] [[]]).filter fun r => r.fst == 0).filter (fun r => !r.haz) =
      (u.rows e' [loopArg o] [[]]).filter fun r => r.fst == 0 :=
    List.filter_eq_self.2 fun r hr => by rw [hhaz r (List.mem_of_mem_filter hr)]; rfl
  rw [exec_loop_of_reads he hu hr hscript, hlanes, hzero, branchReg_of_fault hr.acts.sure (t := v)]
  · rw [List.filter_map, List.map_map]
    exact (congrArg _ (congrArg _ hsure)).trans hfetch
  · rw [List.find?_cons_of_neg (by simp), List.find?_cons_of_neg (by simp),
      List.find?_cons_of_pos (by simpa [List.isEmpty_iff] using hfull)]

/-! ### Addresses -/

/-- The checks of a global address, in their order (R283; assumption 20). -/
theorem addrFault_global (s : State) (g : Group) (six : Bool) (n a : Nat) : s.addrFault g .global six n a =
    if 2 ^ 52 ≤ a then some 0x2142
    else if a % (if six then 4 else n) ≠ 0 then some 0x2144 else if 2 ^ 52 < a + n then some 0x2142 else none :=
  rfl

theorem addrFault_eq_misaligned_iff (s : State) (g : Group) (six : Bool) (n a : Nat) :
    s.addrFault g .global six n a = some 0x2144 ↔ a < 2 ^ 52 ∧ a % (if six then 4 else n) ≠ 0 := by
  rw [addrFault_global]
  generalize a % (if six then 4 else n) = rest
  split_ifs <;> simp <;> omega

theorem addrFault_eq_beyond_iff (s : State) (g : Group) (six : Bool) (n a : Nat) :
    s.addrFault g .global six n a = some 0x2142 ↔ 2 ^ 52 ≤ a ∨ a % (if six then 4 else n) = 0 ∧ 2 ^ 52 < a + n := by
  rw [addrFault_global]
  generalize a % (if six then 4 else n) = rest
  split_ifs <;> simp <;> omega

/-- Private memory is judged by its size before the alignment (R283). -/
theorem addrFault_priv_eq_beyond_iff (s : State) (g : Group) (six : Bool) (n a : Nat) :
    s.addrFault g .priv six n a = some 0x2143 ↔ s.privSize g < a + n := by
  have hpriv : s.addrFault g .priv six n a =
      if s.privSize g < a + n then some 0x2143 else if a % (if six then 4 else n) ≠ 0 then some 0x2144 else none := rfl
  rw [hpriv]
  split_ifs <;> simp <;> omega

end Sys2Proof.Claims

namespace Sys2Proof

open Sys2Proof.Machine Sys2Proof.Claims

/-- Settles O31: by the shared frame that raises the error, a register code or tag, a forbidden target, a frame or counter, an address. -/
theorem programErrorsStopInstructions : Obligations.ProgramErrorsStopInstructions := by
  refine ⟨⟨fun s h o e c ha => ?_, fun s h o e ha => ?_, fun s h o e t ha hfetch => exec_bra_of_forbidden ha hfetch,
      fun s h o e t ha hfetch => exec_call_of_full ha hfetch, fun s h e t ha hnone => ?_, fun s h o e e' u v he => ?_,
      fun s h o e t ha hscript hnone => exec_endl_of_loopless ha hscript hnone, fun s h e => exec_wcut_of_deep⟩,
    fun s h o e t qs f fs hr hin hf => ?_, addrFault_eq_misaligned_iff, addrFault_eq_beyond_iff, addrFault_priv_eq_beyond_iff⟩
  · intro args hcodes
    rw [exec_iadd, State.alu, State.fixed, fixedQ_of_codes ha _ _ _ hcodes]
  · intro args bad hcodes hbad
    rw [exec_iadd, State.alu, State.fixed, fixedQ_of_badTags ha _ _ _ hcodes hbad]
  · intro r fs hframes hclean hfetch
    exact exec_ret_of_frameless ha hnone hframes (Prod.ext rfl rfl) hclean hfetch
  · intro skip hu hr hscript rows full hhaz hfull hfetch
    exact exec_loop_of_full he hu hr hscript hhaz hfull hfetch
  · have hstore : ∀ s, exec (.st h o) s = .next (s.store h (.st h o) (MemMode.space o.mode) o) := fun _ => rfl
    exact exec_access_of_addrFault hstore hr hin hf

end Sys2Proof
end

section
/-!
SUPPORT. What reading memory leaves of the operations in flight: all of them (R122, R130).
-/

namespace Sys2Proof.Claims

open Sys2Proof.Machine

/-! ### Caches -/

@[simp] theorem coin_ops (s : State) : s.coin.2.ops = s.ops := rfl

@[simp] theorem setCells_ops (s : State) (a n x : Nat) : (s.setCells a n x).ops = s.ops := rfl

@[simp] theorem cleanLine_ops (s : State) (line : Nat) : (s.cleanLine line).ops = s.ops := by
  unfold State.cleanLine
  split
  · split
    · simp only [setCells_ops]
    · rfl
  · rfl

@[simp] theorem evictLine_ops (s : State) (line : Nat) : (s.evictLine line).ops = s.ops := cleanLine_ops s line

@[simp] theorem touchLine_ops (s : State) (line : Nat) : (s.touchLine line).ops = s.ops := by
  unfold State.touchLine
  split
  · rfl
  · split
    · rfl
    · dsimp only
      split <;> simp

@[simp] theorem fillLine_ops (s : State) (line : Nat) : (s.fillLine line).ops = s.ops := by
  unfold State.fillLine
  split <;> rfl

@[simp] theorem trimL1_ops (s : State) (c : Nat) : (s.trimL1 c).ops = s.ops := by
  unfold State.trimL1
  split <;> rfl

@[simp] theorem readHome_ops (s : State) (a n : Nat) : (s.readHome a n).1.ops = s.ops := by simp [State.readHome]

@[simp] theorem readBelow_ops (s : State) (a n : Nat) : (s.readBelow a n).1.ops = s.ops := by simp [State.readBelow]

@[simp] theorem dropL1_ops (s : State) (c line : Nat) : (s.dropL1 c line).ops = s.ops := rfl

theorem ops_of_ite {c : Prop} [Decidable c] {β : Type} {x y : State × β} {os : List Op} (hx : x.1.ops = os) (hy : y.1.ops = os) :
    (if c then x else y).1.ops = os := by
  split
  · exact hx
  · exact hy

@[simp] theorem readCore_ops (s : State) (c a n hint : Nat) (tol : Bool) : (s.readCore c a n hint tol).1.ops = s.ops := by
  have ht := trimL1_ops s c
  unfold State.readCore
  dsimp only
  generalize s.trimL1 c = t at ht ⊢
  split
  · rename_i d _
    have hu : (if t.asHome (lineOf a) d then (true, t) else t.coin).2.ops = s.ops := by
      split
      · exact ht
      · exact ht
    exact ops_of_ite hu (by rw [readHome_ops, dropL1_ops, hu])
  · have hu : (t.readHome a n).1.ops = s.ops := (readHome_ops t a n).trans ht
    exact ops_of_ite hu (ops_of_ite (ops_of_ite hu hu) hu)

@[simp] theorem tolerate_ops (s : State) (pa : Nat) : (s.tolerate pa).ops = s.ops := rfl

@[simp] theorem readUnit_ops (s : State) (v : Via) (u : MUnit) : (s.readUnit v u).1.ops = s.ops := by
  unfold State.readUnit
  split
  · rfl
  · rename_i a pg _
    have hread : ∀ r : State × Nat × Bool, r.1.ops = s.ops →
        (if r.2.2 && pg.ptro then (r.1.tolerate (pg.phys a), 0, false)
          else if r.1.mappedTwice pg.place a then (r.1.renew, r.1.free 602 0 % 2 ^ (8 * u.n), r.2.2) else r).1.ops = s.ops :=
      fun r hr => ops_of_ite hr (ops_of_ite hr hr)
    cases v with
    | lane c hint => exact hread _ (readCore_ops ..)
    | home => exact hread _ (readHome_ops ..)
    | below => exact hread _ (ops_of_ite (readHome_ops ..) (readBelow_ops ..))

/-! ### Translation -/

@[simp] theorem keepPointers_ops (s : State) (ps : List TlbEntry) : (s.keepPointers ps).ops = s.ops := rfl

@[simp] theorem noteLeaf_ops (s : State) (ctx va : Nat) (l : Leaf) : (s.noteLeaf ctx va l).ops = s.ops := by
  unfold State.noteLeaf
  split <;> rfl

@[simp] theorem translate_ops (s : State) (agent ctx va : Nat) (k : AccKind) : (s.translate agent ctx va k).1.ops = s.ops := by
  unfold State.translate
  dsimp only
  split
  · rfl
  · split
    · rfl
    · simp
  · split
    · rfl
    · split
      · rfl
      · split <;> rfl

@[simp] theorem transAcc_ops (s : State) (g : Group) (va : Nat) (k : AccKind) : (s.transAcc g va k).1.ops = s.ops := by
  have ht : (s.translateFor g va k).1.ops = s.ops := translate_ops ..
  unfold State.transAcc
  dsimp only
  split
  · exact ht
  · split
    · exact ht
    · split <;> exact ht

@[simp] theorem engineRead_ops (s : State) (g : Group) (v : Via) (poison va n : Nat) : (s.engineRead g v poison va n).1.ops = s.ops := by
  unfold State.engineRead
  dsimp only
  split
  · rfl
  · split
    · simp
    · split <;> simp

end Sys2Proof.Claims
end

section
/-!
SUPPORT. Copies: their issue, the landing of a line, and the resumption of held operations (R41, R121, R295 to R297).
-/

namespace Sys2Proof.Claims

open Sys2Proof.Machine

/-! ### Operations in flight -/

theorem findOp_id {s : State} {id : Nat} {o : Op} (h : s.findOp id = some o) : o.id = id := by
  have := List.find?_some h
  simpa using this

theorem findOp_of_ops {s t : State} (h : t.ops = s.ops) (id : Nat) : t.findOp id = s.findOp id := by rw [State.findOp, State.findOp, h]

theorem findOp_modOp {s : State} {id : Nat} {f : Op → Op} {o : Op} (h : s.findOp id = some o) (hf : ∀ x, (f x).id = x.id) :
    (s.modOp id f).findOp id = some (f o) := by
  have hid := findOp_id h
  have hmap := find_map_mod Op.id f hf id id s.ops
  unfold State.findOp at h ⊢
  rw [State.modOp_ops, hmap, h]
  simp [hid]

theorem noteArgs_id (id : Nat) (keys : List Nat) (o : Op) : (Op.noteArgs id keys o).id = o.id := by
  unfold Op.noteArgs
  split
  · split <;> rfl
  · rfl

theorem noteArgs_dsts (id : Nat) (keys : List Nat) (o : Op) : (Op.noteArgs id keys o).dsts = o.dsts := by
  unfold Op.noteArgs
  split
  · split <;> rfl
  · rfl

/-- Noting the operands of matrix work leaves each operation in flight with its units. -/
theorem findOp_noteOperands {s : State} {id : Nat} {o : Op} (h : s.findOp id = some o) (x : Op) (lanes : Bool) (us : List MUnit) :
    ∃ o', (s.noteOperands x lanes us).findOp id = some o' ∧ o'.dsts = o.dsts := by
  unfold State.noteOperands
  dsimp only
  split
  · exact ⟨o, h, rfl⟩
  · refine ⟨Op.noteArgs x.id (wordKeys us) o, ?_, noteArgs_dsts ..⟩
    have hmap : (s.ops.map (Op.noteArgs x.id (wordKeys us))).find? (fun o => o.id == id) =
        (s.ops.find? fun o => o.id == id).map (Op.noteArgs x.id (wordKeys us)) := by
      simp only [List.find?_map, Function.comp_def, noteArgs_id]
    exact hmap.trans (congrArg _ h)

/-! ### The landing of a line -/

@[simp] theorem landUnit_ops (s : State) (u : MUnit) (x : Nat) : (s.landUnit u x).ops = s.ops := by
  unfold State.landUnit
  split <;> rfl

theorem landEach_ops (s : State) (o : Op) (g : Group) (rest us : List Acc) : (s.landEach o g rest us).1.ops = s.ops := by
  induction us generalizing s o with
  | nil => rfl
  | cons a as ih =>
    unfold State.landEach
    split
    · rw [ih, landUnit_ops]
      split <;> simp
    · exact ih s o

theorem subPendings_ops (s : State) (keys : List Nat) : (s.subPendings keys).ops = s.ops := by
  unfold State.subPendings
  induction keys generalizing s with
  | nil => rfl
  | cons k ks ih => exact ih _

/-- The units that land are no longer among those that remain. -/
theorem findOp_landUnits {s : State} {o : Op} (h : s.findOp o.id = some o) (g : Group) (us : List Acc) :
    ∃ o', (s.landUnits o g us).findOp o.id = some o' ∧ o'.dsts = o.dsts.filter fun a => !us.contains a := by
  have heach := (findOp_of_ops (landEach_ops s o g (o.dsts.filter fun a => !us.contains a) us) o.id).trans h
  obtain ⟨p, hp, hdsts⟩ := findOp_noteOperands heach o false (us.flatMap Acc.units)
  exact ⟨_, findOp_modOp hp fun _ => rfl, congrArg (List.filter fun a => !us.contains a) hdsts⟩

/-- A line lands as a whole: no unit of it remains, and the copy is ready when none is left (R121). -/
theorem findOp_landLine {s : State} {o : Op} (h : s.findOp o.id = some o) (g : Group) (line : Nat) :
    ∃ o', (s.landLine o g line).findOp o.id = some o' ∧ o'.dsts = o.dsts.filter (fun a => !Acc.inLine line a) ∧
      (o'.at_ = .ready ↔ o'.dsts = []) := by
  obtain ⟨p, hp, hdsts⟩ := findOp_landUnits h g (o.dsts.filter (Acc.inLine line))
  have hsub := (findOp_of_ops (subPendings_ops _ [line]) o.id).trans hp
  have hrest : p.dsts = o.dsts.filter fun a => !Acc.inLine line a := by
    rw [hdsts]
    refine List.filter_congr fun a ha => ?_
    rw [Bool.not_inj_iff, Bool.eq_iff_iff, List.contains_iff_mem, List.mem_filter]
    exact and_iff_right ha
  refine ⟨_, findOp_modOp hsub fun _ => rfl, hrest, ?_⟩
  cases p.dsts <;> simp

theorem exec_cpaLineLand_of_canLand {s : State} {o : Op} {g : Group} {line : Nat} (ho : s.findOp o.id = some o)
    (hg : s.findGroup o.gid = some g) (hland : o.canLand line = true) :
    exec (.cpaLineLand o.id line) s = .next (s.landLine o g line) := by
  show execCpaLineLand o.id line s = _
  rw [execCpaLineLand, ho]
  simp only [hg, hland, if_true]

/-! ### Operations that go on -/

theorem exec_accessResume {s : State} {o : Op} {g : Group} (ho : s.findOp o.id = some o) (hg : s.findGroup o.gid = some g)
    (hat : o.at_ = .held) (hplace : g.inPlace = true) (hst : o.status = 0) (hwait : Instr.isWait o.instr = false)
    (hpresent : o.units.all s.presentUnit = true) (hafter : s.heldAfter o = []) :
    exec (.scratchpadAccessResume o.id) s = .next (s.goOut o g) := by
  show execScratchpadAccessResume o.id s = _
  rw [execScratchpadAccessResume, ho]
  simp only [hg, hat, hplace, hst, hwait, hpresent, hafter, List.isEmpty_nil, beq_self_eq_true, Bool.not_false, Bool.and_self, if_true]

theorem exec_memberResume {s : State} {o : Op} {g : Group} (ho : s.findOp o.id = some o) (hg : s.findGroup o.gid = some g)
    (hat : o.at_ = .held) (hplace : g.inPlace = true) (hst : o.status = 1) :
    exec (.teamMemberAccessResume o.id) s = .next (match o.instr with
      | .cpa _ _ | .cpaLn _ _ | .cpout _ _ | .cpoutLn _ _ => s.resumeCopy o g
      | .mload _ x => s.resumeTile o g x.ty x.t.toNat
      | .mout _ x => s.resumeTile o g x.ty x.t.toNat
      | .mma _ x => s.resumeMma o g x
      | _ => s.resumeAccess o g) := by
  show execTeamMemberAccessResume o.id s = _
  rw [execTeamMemberAccessResume, ho]
  simp only [hg, hat, hplace, hst, beq_self_eq_true, Bool.and_self, if_true] <;> rfl

/-! ### The issue of copies -/

theorem sure_of_acts {s : State} {h : Hdr} {e : Env} (ha : Acts s h e) : e.sure = true := by
  obtain ⟨l, ls, hact⟩ := List.exists_cons_of_ne_nil ha.active
  simp [Env.sure, ha.sure, hact]

/-- With its guards and scalar operands read in time an instruction reads nothing early. -/
theorem early_eq_false {s : State} {h : Hdr} {e : Env} (ha : Acts s h e) {codes : List Nat}
    (hc : ∀ c ∈ codes, isUniform c = true → s.hazard e.g e.low c = false) : s.early e (codes.filter isUniform) = false := by
  rw [State.early, sure_of_acts ha, Bool.not_true, Bool.false_or, List.any_eq_false]
  intro c hmem
  obtain ⟨hmem, huni⟩ := List.mem_filter.1 hmem
  simp [hc c hmem huni]

/-- Ranges within reach let the work go on (R163). -/
theorem reaching_of_within {s u : State} {e : Env} {rs : List (Nat × Nat × AccKind)} (hw : Within s e rs u) (k : State → State) :
    s.reaching e rs k = k u := by
  unfold Within at hw
  unfold State.reaching
  split at hw
  · simp [*]
  · simp [*]

/-- A copy whose units are all found starts, or holds its lanes where a member has not started (R41, R296). -/
def copyStart (s u : State) (e : Env) (o : Op) : State :=
  let c := s.copyAccs e.g o.lvals
  if c.2.1 then (u.addOp { o with at_ := .held, status := 1 }).modLanes e.g.gid o.lanes fun _ l => l.blockAt (.held o.id)
  else (u.addOp o).startCopy o c.2.2

theorem issueCopy_of_found {s u : State} {e : Env} {o : Op} {k : AccKind} (hk : (if Instr.isCpa o.instr then .read else .write) = k)
    (hfound : (s.copyAccs e.g o.lvals).1 = [])
    (hw : Within s e (o.globals.map (fun t => (t.1, t.2, k)) ++ o.bw.toList.map fun b => (b.1, 8, .write)) u) (codes : List Nat) :
    s.issueCopy e o codes = copyStart s u e o := by
  subst hk
  unfold State.issueCopy
  dsimp only
  rw [hfound]
  exact reaching_of_within hw _

/-- A command whose operands are in order is dispatched (R317). -/
theorem dispatch_of {s : State} {h : Hdr} {codes : List Nat} {k k' : Env → State} {e : Env} (ha : Acts s h e) (herr : e.w.errSlots = none)
    (hcodes : e.g.codesFault codes = none) (htimely : ∀ c ∈ codes, isUniform c = true → s.hazard e.g e.low c = false) :
    s.dispatch h codes k k' = k e := by
  have hend : e.ending = false := by simp [Env.ending, herr]
  unfold State.dispatch
  rw [State.withEnv_of ha.issue ha.active]
  simp only [hend, hcodes, early_eq_false ha htimely, State.markEarly_false, Bool.false_eq_true, if_false]

/-- A barrier word within the address space, on its boundary (R318). -/
theorem barrierWord_of {s : State} {e : Env} {b : Option Bw} {bw : Option (Nat × Nat)}
    (hbw : bw = b.map fun b => (s.uniS e true b.word, b.scope.toNat)) (hin : ∀ x ∈ bw, x.1 + 8 ≤ 2 ^ 52 ∧ x.1 % 8 = 0)
    (k : Option (Nat × Nat) → State) : s.barrierWord e b k = k bw := by
  subst hbw
  cases b with
  | none => rfl
  | some b =>
    obtain ⟨hlow, hal⟩ : s.uniS e true b.word + 8 ≤ 2 ^ 52 ∧ s.uniS e true b.word % 8 = 0 := hin _ rfl
    simp only [State.barrierWord, Option.map_some]
    rw [if_neg (by omega), if_neg (by omega)]

/-- The block form with its operands in order (R296). -/
theorem copyBlock_of_ok {s u : State} {h : Hdr} {i : Instr} {o : CpaOps} {e : Env} {bw : Option (Nat × Nat)} {k : AccKind}
    (hk : (if Instr.isCpa i then .read else .write) = k) (ha : Acts s h e)
    (hc : Commands s e ([640 + o.sp, 640 + o.ga, 641 + o.ga] ++ (Arg.of .z32 o.n).codes) o.bw bw) {ga sp n : Nat}
    (hga : s.uniS e true o.ga = ga) (hsp : s.uniS e false o.sp = sp) (hn : (s.uni e .z32 o.n).val = n)
    (hfound : (s.copyAccs e.g [(e.low, [0, ga, sp, n])]).1 = [])
    (hw : Within s e ([(ga, n, k)] ++ bw.toList.map fun b => (b.1, 8, .write)) u)
    (hrange : n % 16 = 0 ∧ n ≠ 0 ∧ n ≤ 32768 ∧ ga % 16 = 0 ∧ sp % 16 = 0 ∧ slice sp 0 15 + n ≤ 32768) (hlow : ga < 2 ^ 52) :
    s.copyBlock h i o = copyStart s u e { e.op s h i with bw := bw, lvals := [(e.low, [0, ga, sp, n])] } := by
  obtain ⟨herr, hcodes, htimely, hbw, hin⟩ := hc
  rw [State.copyBlock, State.command]
  dsimp only
  rw [dispatch_of ha herr hcodes htimely, barrierWord_of hbw hin]
  simp only [hga, hsp, hn]
  rw [if_neg (by omega), if_neg (by omega)]
  exact issueCopy_of_found hk hfound hw _

theorem copyUnits_of_error {s : State} {g : Group} {sp c : Nat} (h : s.scratchLoc g sp = .error c) (lane ga n : Nat) :
    s.copyUnits g lane ga sp n = .error c := by
  rw [State.copyUnits, h]

/-- Where every unit of a copy is found, no transfer leaves its space. -/
theorem scratchLoc_of_copyAccs {s : State} {g : Group} {ts : List (Nat × List Nat)} (h : (s.copyAccs g ts).1 = []) {t : Nat × List Nat}
    (ht : t ∈ ts) (c : Nat) : s.scratchLoc g (t.2.getD 2 0) ≠ .error c := by
  induction ts with
  | nil => cases ht
  | cons x xs ih =>
    obtain ⟨lane, ys⟩ := x
    unfold State.copyAccs at h
    dsimp only at h
    split at h
    · cases h
    · rename_i hx
      rcases List.mem_cons.1 ht with rfl | hmem
      · intro hc
        rw [copyUnits_of_error hc] at hx
        cases hx
      · exact ih h hmem
    · rename_i hx
      rcases List.mem_cons.1 ht with rfl | hmem
      · intro hc
        rw [copyUnits_of_error hc] at hx
        cases hx
      · exact ih h hmem

/-- What fails of one lane's transfer (R283, R295). -/
def copyFault (s : State) (e : Env) (args : List Arg) (n : Nat) (r : Row) : Option (Nat × Nat) :=
  if !tagsOk args r.2 then some (0x2130, 0)
  else if 2 ^ 52 ≤ (r.2.getD 1 default).val then some (0x2142, (r.2.getD 1 default).val)
  else if (r.2.getD 1 default).val % n ≠ 0 ∨ (r.2.getD 0 default).val % n ≠ 0 then some (0x2144, (r.2.getD 1 default).val)
  else match s.scratchLoc e.g (r.2.getD 0 default).val with
    | .error c => some (c, (r.2.getD 0 default).val)
    | .ok _ => none

theorem copyFault_eq_none {s : State} {e : Env} {args : List Arg} {n : Nat} {r : Row} (htags : tagsOk args r.2 = true)
    (hlow : (r.2.getD 1 default).val < 2 ^ 52) (hga : (r.2.getD 1 default).val % n = 0) (hsp : (r.2.getD 0 default).val % n = 0)
    (hloc : ∀ c, s.scratchLoc e.g (r.2.getD 0 default).val ≠ .error c) : copyFault s e args n r = none := by
  have hal : ¬((r.2.getD 1 default).val % n ≠ 0 ∨ (r.2.getD 0 default).val % n ≠ 0) := by omega
  rw [copyFault, htags, if_neg (by decide), if_neg (Nat.not_le.2 hlow), if_neg hal]
  split
  · rename_i c hc
    exact absurd hc (hloc c)
  · rfl

/-- The lane form with its operands in order (R295). -/
theorem copyLanes_of_ok {s u : State} {h : Hdr} {i : Instr} {o : CpaLnOps} {e : Env} {bw : Option (Nat × Nat)} {k : AccKind}
    {args : List Arg} {rows : List Row} {n : Nat} {ga sp : Row → Nat}
    (hk : (if Instr.isCpa i then .read else .write) = k) (ha : Acts s h e) (hargs : args = [Arg.reg .z32 o.sp, Arg.reg .i64 o.ga])
    (hc : Commands s e (args.flatMap Arg.codes) o.bw bw) (hrows : s.rows e args [] = rows) (htags : badTags args rows = [])
    (hn : n = 4 * 2 ^ o.vec.toNat) (hga : ga = fun r => (r.2.getD 1 default).val) (hsp : sp = fun r => (r.2.getD 0 default).val)
    (hfound : (s.copyAccs e.g (rows.map fun r => (r.1, [bit r.haz, ga r, sp r, n]))).1 = [])
    (hw : Within s e (rows.map (fun r => (ga r, n, k)) ++ bw.toList.map fun b => (b.1, 8, .write)) u)
    (haddr : ∀ r ∈ rows, ga r < 2 ^ 52 ∧ ga r % n = 0 ∧ sp r % n = 0) :
    s.copyLanes h i o =
      copyStart s u e { e.op s h i with bw := bw, lvals := rows.map fun r => (r.1, [bit r.haz, ga r, sp r, n]) } := by
  obtain ⟨herr, hcodes, htimely, hbw, hin⟩ := hc
  have hloc : ∀ r ∈ rows, ∀ c, s.scratchLoc e.g (sp r) ≠ .error c := fun r hr =>
    scratchLoc_of_copyAccs hfound (List.mem_map.2 ⟨r, hr, rfl⟩)
  rw [State.copyLanes]
  dsimp only
  rw [← hargs, dispatch_of ha herr hcodes htimely]
  simp only [hrows, htags, List.filter_nil, List.contains_nil, Bool.false_eq_true, if_false, barrierWord_of hbw hin]
  have hnone : ∀ r ∈ rows, copyFault s e args (4 * 2 ^ o.vec.toNat) r = none := by
    subst hn hga hsp
    intro r hr
    obtain ⟨hlow, halga, halsp⟩ := haddr r hr
    exact copyFault_eq_none (tagsOk_of_badTags htags hr) hlow halga halsp (hloc r hr)
  split
  · rename_i f fs hf
    refine absurd (hf.symm.trans (List.filterMap_eq_nil_iff.2 fun r hr => ?_)) (List.cons_ne_nil _ _)
    show (if _ then none else (copyFault s e args (4 * 2 ^ o.vec.toNat) r).map _) = none
    rw [hnone r hr]
    split <;> rfl
  · subst hn hga hsp
    rw [List.filter_eq_self.2 fun r hr => ?_]
    · exact issueCopy_of_found hk hfound (by simpa [Op.globals, Function.comp_def] using hw) _
    · show (copyFault s e args (4 * 2 ^ o.vec.toNat) r).isNone = true
      rw [hnone r hr]
      rfl

end Sys2Proof.Claims

namespace Sys2Proof

open Sys2Proof.Machine Sys2Proof.Claims

/-- Settles O38: both forms by the shared issue of copies, the landing of a line by the units that remain, and held operations by the two
events that let them go on. -/
theorem copiesIssue : Obligations.CopiesIssue := by
  refine ⟨⟨?_, ?_⟩, ?_, fun s o g => exec_accessResume, fun s o g => exec_memberResume⟩
  · intro s h o e bw u ha hc ga sp n run hal hpos hmax hga hsp hfit hlow
    exact ⟨fun hfound hw => congrArg Host.Outcome.next
        (copyBlock_of_ok rfl ha hc rfl rfl rfl hfound hw ⟨hal, hpos, hmax, hga, hsp, hfit⟩ hlow),
      fun hfound hw => congrArg Host.Outcome.next
        (copyBlock_of_ok rfl ha hc rfl rfl rfl hfound hw ⟨hal, hpos, hmax, hga, hsp, hfit⟩ hlow)⟩
  · intro s h o e bw u ha args hc htags n ga sp run haddr
    exact ⟨fun hfound hw => congrArg Host.Outcome.next (copyLanes_of_ok rfl ha rfl hc rfl htags rfl rfl rfl hfound hw haddr),
      fun hfound hw => congrArg Host.Outcome.next (copyLanes_of_ok rfl ha rfl hc rfl htags rfl rfl rfl hfound hw haddr)⟩
  · intro s o g line ho hg hland
    obtain ⟨o', hfind, hdsts, hready⟩ := findOp_landLine ho g line
    exact ⟨exec_cpaLineLand_of_canLand ho hg hland, _, o', rfl, hfind, hdsts, hready⟩

end Sys2Proof
end

section
/-!
SUPPORT. System instructions: what SYSRD reads, and their checks at issue (R209, R411 to R418).
-/

namespace Sys2Proof.Claims

open Sys2Proof.Machine

/-- A context register of the selected context, as the context lays it out (R412 to R414). -/
theorem sysRead_of_target {s : State} {g : Group} {sel reg : Nat} {c : Ctx} (hreg : reg < 0x1000) (hc : s.target g sel = .ok c) :
    s.sysRead g sel reg = if ctxListed reg then .ok (c.read reg) else .error 0x21C0 := by
  rw [State.sysRead, if_neg (Nat.not_le.2 hreg), hc]

theorem sysRead_of_listed {s : State} {g : Group} {sel reg : Nat} {c : Ctx} (hreg : reg < 0x1000) (hlisted : ctxListed reg = true)
    (hc : s.target g sel = .ok c) : s.sysRead g sel reg = .ok (c.read reg) := by
  rw [sysRead_of_target hreg hc, if_pos hlisted]

/-- A device register (R415). -/
theorem sysRead_of_device {s : State} {g : Group} {sel reg : Nat} (hreg : 0x1000 ≤ reg) :
    s.sysRead g sel reg = if !s.devicePrivileged g then .error 0x21C2
      else if regAccess (8 * (reg - 0x1000)) = .absent then .error 0x21C0 else .ok (s.readDev (8 * (reg - 0x1000))) := by
  rw [State.sysRead, if_pos hreg]
  rfl

section Issue

variable {i : Instr} {h : Hdr} {codes dst : List Nat} {vals : State → Env → List Nat}
  (hx : ∀ s, exec i s = .next (s.sysIssue h i codes dst (vals s))) {s : State} {e : Env} (he : s.env h.guard = some e)
include hx he

/-- In a kernel a system instruction is a program error whatever its guard (R209, R211). -/
theorem exec_system_of_kernel (hpriv : s.privileged e.g = false) :
    exec i s = .next (s.progError e.g.gid e.w.wid 0x2109 e.iss.lanes 0) := by
  rw [hx, State.sysIssue, he]
  simp only [hpriv, Bool.not_false, if_true]

theorem exec_system_of_ok (hpriv : s.privileged e.g = true) (hact : e.act ≠ []) (hlost : e.lost = [])
    (hcodes : e.g.codesFault (codes ++ dst) = none) (hok : s.sysFault e.g i (vals s e) = none) :
    exec i s = .next (((s.launch e { e.op s h i with vals := vals s e, status := bit (s.early e codes) }).unsettle
      { e.op s h i with vals := vals s e, status := bit (s.early e codes) } dst).renew) := by
  rw [hx, State.sysIssue, he]
  simp only [hpriv, Bool.not_true, Bool.false_eq_true, if_false]
  rw [State.checked_of he hact hcodes]
  simp only [hok, undefineLost_of_sure hlost]

/-- Operands read too early make no fault (R31). -/
theorem exec_system_of_fault (hpriv : s.privileged e.g = true) (hact : e.act ≠ []) (hlost : e.lost = [])
    (hcodes : e.g.codesFault (codes ++ dst) = none) {f : Nat × Nat} (hf : s.sysFault e.g i (vals s e) = some f) :
    exec i s = .next (if s.early e codes then s.undefine e (e.op s h i) dst 0 else s.progError e.g.gid e.w.wid f.1 e.act f.2) := by
  rw [hx, State.sysIssue, he]
  simp only [hpriv, Bool.not_true, Bool.false_eq_true, if_false]
  rw [State.checked_of he hact hcodes]
  simp only [hf, State.fail_of hlost]

end Issue

/-- What a system instruction does at its issue, by the privilege of its context and its checks (R211, R417, R418). -/
def SystemIssues (i : Instr) (h : Hdr) (codes dst : List Nat) (vals : State → Env → List Nat) : Prop :=
  ∀ s e, s.env h.guard = some e →
    (s.privileged e.g = false → exec i s = .next (s.progError e.g.gid e.w.wid 0x2109 e.iss.lanes 0)) ∧
    (s.privileged e.g = true → e.act ≠ [] → e.lost = [] → e.g.codesFault (codes ++ dst) = none → s.sysFault e.g i (vals s e) = none →
      let o := { e.op s h i with vals := vals s e, status := bit (s.early e codes) }
      exec i s = .next ((s.launch e o).unsettle o dst).renew) ∧
    (∀ f, s.privileged e.g = true → e.act ≠ [] → e.lost = [] → e.g.codesFault (codes ++ dst) = none → s.sysFault e.g i (vals s e) = some f →
      exec i s = .next (if s.early e codes then s.undefine e (e.op s h i) dst 0 else s.progError e.g.gid e.w.wid f.1 e.act f.2))

theorem systemIssues {i : Instr} {h : Hdr} {codes dst : List Nat} {vals : State → Env → List Nat}
    (hx : ∀ s, exec i s = .next (s.sysIssue h i codes dst (vals s))) : SystemIssues i h codes dst vals :=
  fun _ _ he => ⟨exec_system_of_kernel hx he, exec_system_of_ok hx he, fun _ hpriv hact hlost hcodes =>
    exec_system_of_fault hx he hpriv hact hlost hcodes⟩

end Sys2Proof.Claims

namespace Sys2Proof

open Sys2Proof.Machine Sys2Proof.Claims

/-- Settles O42: the context registers by the context's table, the device registers by the register path, and the nine instructions by
their shared frame. -/
theorem systemInstructionsIssue : Obligations.SystemInstructionsIssue := by
  refine ⟨fun s g sel reg c hreg hc => ?_, fun s g sel reg hreg => ?_, fun _ _ => systemIssues fun _ => rfl,
    fun _ _ => systemIssues fun _ => rfl, fun _ _ => systemIssues fun _ => rfl, fun _ _ => systemIssues fun _ => rfl,
    fun _ _ => systemIssues fun _ => rfl, fun _ _ => systemIssues fun _ => rfl, fun _ _ => systemIssues fun _ => rfl,
    fun _ _ => systemIssues fun _ => rfl, fun _ _ => systemIssues fun _ => rfl⟩
  · refine ⟨?_, ?_, ?_, ?_, ?_, ?_, ?_, ?_, ?_, ?_, fun hout => ?_⟩
    case refine_11 =>
      have hlisted : ctxListed reg = false := by
        simp only [ctxListed, Bool.or_eq_false_iff, Bool.and_eq_false_iff, decide_eq_false_iff_not]
        omega
      rw [sysRead_of_target hreg hc, hlisted]
      rfl
    all_goals exact sysRead_of_listed (by decide) rfl hc
  · rw [sysRead_of_device hreg]
    refine ⟨fun hdev => ?_, fun hdev hpresent => ?_, fun hdev habsent => ?_⟩
    · rw [hdev]
      rfl
    · rw [hdev, if_neg hpresent]
      rfl
    · rw [hdev, if_pos habsent]
      rfl

end Sys2Proof
end

section
/-!
SUPPORT. What happens to lanes, warps, groups and takes where its moment has come (R37 to R58, R420 to R443, R461 to R477).
-/

namespace Sys2Proof.Claims

open Sys2Proof.Machine

/-! ### The error log leaves the clock -/

theorem touchLine_counter (s : State) (line : Nat) : (s.touchLine line).counter = s.counter := by
  have hclean : ∀ t : State, (t.cleanLine line).counter = t.counter := fun t => by
    unfold State.cleanLine
    split
    · split
      · dsimp only [State.setCells]
      · rfl
    · rfl
  unfold State.touchLine
  split
  · rfl
  · split
    · rfl
    · dsimp only [State.coin]
      split
      · exact hclean _
      · rfl

theorem writeHome_counter (s : State) (a n v : Nat) : (s.writeHome a n v).counter = s.counter := by
  have hback : ((s.noteWrite a n).backInvalidate (lineOf a)).counter = s.counter := by
    unfold State.backInvalidate
    split <;> rfl
  have hfill : ∀ t : State, (t.fillLine (lineOf a)).counter = t.counter := fun t => by
    unfold State.fillLine
    split <;> rfl
  have hline := (hfill (((s.noteWrite a n).backInvalidate (lineOf a)).touchLine (lineOf a))).trans ((touchLine_counter _ _).trans hback)
  unfold State.writeHome
  dsimp only
  split
  · exact hline
  · exact hline

theorem clearCovered_counter (s : State) (below : Bool) (spans : List (Nat × Nat)) : (s.clearCovered below spans).counter = s.counter := by
  have hpoison : ∀ (t : State) (a : Nat) (b : Bool), (t.setPoisonFor below a b).counter = t.counter := fun t a b => by
    unfold State.setPoisonFor State.setPoison
    split
    · rfl
    · split <;> rfl
  unfold State.clearCovered
  dsimp only
  generalize List.filter _ _ = secs
  induction secs generalizing s with
  | nil => rfl
  | cons k ks ih =>
    rw [List.foldl_cons, ih]
    split
    · exact hpoison _ _ _
    · rfl

theorem logError_counter (s : State) (code ctx : Nat) (retake ended taint : Bool) (path take addr : Nat) :
    (s.logError code ctx retake ended taint path take addr).counter = s.counter := by
  unfold State.logError
  dsimp only
  split
  · rfl
  · split
    · rw [State.setField_counter]
    · split
      · rw [State.raiseMsi_counter, State.setField_counter, clearCovered_counter, writeHome_counter]
      · rw [State.setField_counter, clearCovered_counter, writeHome_counter]

/-! ### Lanes and warps -/

section Groups

variable {s : State} {gid wid : Nat} {g : Group} {w : Warp} (hg : s.findGroup gid = some g)
include hg

theorem exec_growGrant_of_grantable {t : Take} (ht : s.takeOf g = some t) (hgrant : s.grantable g = true) :
    let xs := restack (spansBy (s.residents g.agent) fun y => if y.gid = gid then t.slate.full.v else y.allot.v) []
    exec (.growGrant gid) s = .next ((({ s with groups := s.groups.map fun (y : Group) => { y with
      spans := y.spans.mapIdx fun k (x : Span) =>
        (xs.find? fun (z : Nat × Nat × Span) => z.1 == y.gid && z.2.1 == k).elim x fun z => z.2.2 } }).modGroup gid fun g =>
      g.grow t.slate.pro t.slate.full).trimL1 g.agent) := by
  show execGrowGrant gid s = _
  rw [execGrowGrant, hg]
  simp only [ht, hgrant, if_true]

theorem exec_groupRetire_of_done (hdone : s.groupDone g = true) : exec (.groupRetire gid) s = .next (s.leave g) := by
  show execGroupRetire gid s = _
  rw [execGroupRetire, hg]
  simp only [hdone, if_true]

/-- An eviction's record is written when the group has drained (R440). -/
theorem exec_evictionRecord_of_drained {c : Nat} (hplace : g.place = .evicting c) (hdrained : s.drained g = true)
    (hgoing : (s.takeOf g).all Take.going = true) :
    exec (.evictionRecord gid) s = .next (((s.fileRecord gid).modGroup gid fun g => { g with place := .evicted, spans := [] }).modCtx
      (s.ctxOf g) fun c => { c with state := 2 }) := by
  show execEvictionRecord gid s = _
  rw [execEvictionRecord, hg]
  simp only [hplace, hdrained, hgoing, Bool.and_self, if_true]

/-- A group is restored where it has room (R441, R443). -/
theorem exec_groupRestore_of_room {t : Take} {c : Nat} {spans : List Span} (ht : s.takeOf g = some t) (hplace : g.place = .evicted)
    (hgoing : t.going = true) (hnext : s.nextPlaced (.old g t) = true) (hroom : s.roomFor (.old g t) = some (c, spans)) :
    exec (.groupRestore gid) s = .next (if (s.bringBack g c spans).groups.any fun k => k.take == t.tid && k.place == .evicted
      then s.bringBack g c spans else (s.bringBack g c spans).modCtx t.ctx fun c => { c with state := 1 }) := by
  show execGroupRestore gid s = _
  rw [execGroupRestore, hg]
  simp only [ht, hplace, hgoing, hnext, hroom, beq_self_eq_true, Bool.and_self, if_true]

variable (hw : g.findWarp wid = some w)
include hw

theorem exec_wsyncRelease_of_warp :
    exec (.wsyncRelease gid wid) s = .next (s.modLanes gid (g.wsyncFree w) fun _ l => { l with at_ := .live, age := 0 }) := by
  show execWsyncRelease gid wid s = _
  rw [execWsyncRelease, hg]
  simp only [hw]

theorem exec_cut_of_ready (hready : g.cutReady w = true) :
    exec (.cut gid wid) s = .next (if g.declared w.wid then s.progError gid wid 0x2121 (g.atCut w) 0 else s.cutWarp g w) := by
  show execCut gid wid s = _
  rw [execCut, hg]
  simp only [hw, hready, if_true]

theorem exec_splice_of_arrived (harr : g.arrived w = true) :
    exec (.splice gid wid) s = .next (match g.verdict w with
      | .waits => s
      | .own c => s.giveOutcome gid w c
      | .both c y => (s.giveOutcome gid w c).giveOutcome gid y c
      | .joins y =>
        if g.declared w.wid then s.progError gid w.wid 0x2121 ((g.atSplice w).map Prod.fst) 0
        else if g.declared y.wid then s.progError gid y.wid 0x2121 ((g.atSplice y).map Prod.fst) 0
        else s.joinWarps g w y) := by
  show execSplice gid wid s = _
  rw [execSplice, hg]
  simp only [hw, harr, if_true] <;> rfl

theorem exec_warpRetire_of_done (hdone : s.warpDone g w = true) : exec (.warpRetire gid wid) s = .next (s.modGroup gid fun g => { g with
    warps := (g.warps.filter fun (x : Warp) => x.wid != wid).map (Warp.forget wid)
    convs := g.convs.map (Conv.forget wid) }) := by
  show execWarpRetire gid wid s = _
  rw [execWarpRetire, hg]
  simp only [hw, hdone, if_true]

end Groups

/-! ### Takes -/

section Takes

variable {s : State} {tid : Nat} {t : Take} (ht : s.findTake tid = some t)
include ht

/-- The next group of a grid is admitted where it has room (R38, R438). -/
theorem exec_groupAdmission_of_room {c : Nat} {spans : List Span} (hoffers : s.offers t = true) (hnext : s.nextPlaced (.new t) = true)
    (hroom : s.roomFor (.new t) = some (c, spans)) :
    exec (.groupAdmission tid) s = .next ((((s.addGroup (s.seat (s.offered t) (.core c) spans)).modTake tid
      fun t => { t with nextGroup := t.nextGroup + 1 }).acquireFlags (s.seat (s.offered t) (.core c) spans) c t).trimL1 c) := by
  show execGroupAdmission tid s = _
  rw [execGroupAdmission, ht]
  simp only [hoffers, hnext, hroom, Bool.and_self, if_true]

theorem exec_triggerPoint_of_triggers (htrig : s.triggers t = true) :
    exec (.triggerPoint tid) s = .next (if t.slate.deps.isEmpty then (s.modTake tid fun t => { t with triggerDone := true }).passLaunch t
      else s.modTake tid fun t => { t with triggerDone := true }) := by
  show execTriggerPoint tid s = _
  rw [execTriggerPoint, ht]
  simp only [htrig, if_true]

theorem exec_gridEnd_of_tainted (hdone : s.gridDone t = true) (htaint : t.tainted = true) :
    exec (.gridEnd tid) s = .next (s.hwError tid 0x3123 0 0) := by
  show execGridEnd tid s = _
  rw [execGridEnd, ht]
  simp only [hdone, htaint, if_true]

/-- A grid whose groups have all ended completes its take (R430, R439, R475). -/
theorem exec_gridEnd_of_clean (hdone : s.gridDone t = true) (htaint : t.tainted = false) :
    let u := (s.freeCopies t).modTake tid fun t => { t with complete := true, copies := [], uncopied := [], copyDue := [], words := [] }
    let u := ({ u with teams := u.teams.filter fun x => x.take != tid }).modCtx t.ctx fun c =>
      { c with
        state := 3
        stops := []
        stop := false
        haltDue := false
        records := c.records.filter fun r => r.stop.isNone && !r.halt }
    exec (.gridEnd tid) s = .next ((u.modQueue t.cp t.queue fun q =>
      { q with grids := q.grids.filter fun x => x != tid }).loadTimer t.cp t.queue) := by
  show execGridEnd tid s = _
  rw [execGridEnd, ht]
  simp only [hdone, htaint, if_true, Bool.false_eq_true, if_false]

theorem exec_takeEnd_of_err {e : TakeErr} (herr : t.err = some e) :
    exec (.takeEnd tid) s = .next (s.endTake t e.code (s.errRecord t e)) := by
  show execTakeEnd tid s = _
  rw [execTakeEnd, ht]
  simp only [herr]

theorem exec_snapshotCopy_of_due {k : Nat} (hk : k ∈ t.copyDue) : exec (.snapshotCopy tid k) s = .next (s.copyGranule tid k) := by
  show execSnapshotCopy tid k s = _
  rw [execSnapshotCopy, ht]
  simp only [List.contains_iff_mem.2 hk, if_true]

omit ht in
/-- A record of an ending tells of the groups and the clock, which the error log leaves. -/
theorem bareRecord_of_log (code ctx : Nat) (retake ended taint : Bool) (path take addr c : Nat) :
    (s.logError code ctx retake ended taint path take addr).bareRecord t c = s.bareRecord t c := by
  rw [State.bareRecord, State.bareRecord, State.logError_groups, logError_counter]

/-- A hardware error begins the take again, or ends it where it cannot be begun again (R474, R476, R477). -/
theorem exec_retake_of_hwErr {code path addr : Nat} (herr : t.hwErr = some (code, path, addr)) :
    exec (.retake tid) s = .next (match t.ending with
      | some e => ((s.logError code t.ctx false false false path t.number addr).logError e t.ctx false true false 0 t.number 0).endTake t e
          (((s.logError code t.ctx false false false path t.number addr).logError e t.ctx false true false 0 t.number 0).bareRecord t e)
      | none => ((s.logError code t.ctx true false false path t.number addr).addRecord t.ctx
          (s.bareRecord t code)).retakeTake t) := by
  show execRetake tid s = _
  rw [execRetake, ht]
  simp only [herr] <;> rfl

end Takes

/-- A take that cannot be begun again ends with the earliest reason that applies (R477). -/
theorem ending_of_over {t : Take} (h : (!t.slate.retake) = true ∨ t.unrestorable = true ∨ 2 ≤ t.retakes ∨ t.laterEntry = true) :
    t.ending = some (if !t.slate.retake then 0x3120 else if t.unrestorable then 0x3121 else if 2 ≤ t.retakes then 0x3122 else 0x3124) := by
  rw [Take.ending]
  split_ifs with hretake hun hcount hlater
  · rfl
  · rfl
  · rfl
  · rfl
  · exact absurd h (by simp only [not_or]; exact ⟨hretake, hun, hcount, hlater⟩)

theorem ending_of_again {t : Take} (h : ¬((!t.slate.retake) = true ∨ t.unrestorable = true ∨ 2 ≤ t.retakes ∨ t.laterEntry = true)) :
    t.ending = none := by
  obtain ⟨hretake, hun, hcount, hlater⟩ : ¬(!t.slate.retake) = true ∧ ¬t.unrestorable = true ∧ ¬2 ≤ t.retakes ∧ ¬t.laterEntry = true := by
    simpa only [not_or] using h
  rw [Take.ending, if_neg hretake, if_neg hun, if_neg hcount, if_neg hlater]

/-! ### Evictions and records -/

theorem exec_eviction_of_due {s : State} {tid : Nat} {vs : List Group} (h : (s.findTake tid).bind s.evictionFor = some vs) :
    exec (.eviction tid) s = .next (s.evictAll vs) := by
  show execEviction tid s = _
  rw [execEviction, h]

theorem exec_growDeadlockEviction_of_deadlock {s : State} {c : Nat} {vs : List Group} (h : s.deadlock c = some vs) :
    exec (.growDeadlockEviction c) s = .next (s.evictAll vs) := by
  show execGrowDeadlockEviction c s = _
  rw [execGrowDeadlockEviction, h]

theorem exec_trapRecordWrite_of_room {s u : State} {c : Nat} {x : Ctx} {r : TrapRecord} {rs : List TrapRecord} (hx : s.findCtx c = some x)
    (hrecords : x.records = r :: rs) (hvalid : x.ringValid = true) (hfull : x.ringFull = false)
    (hwrite : s.cpWrite c x.recordAt 64 (r.bytes (r.handle x.head.toNat)) = some u) :
    exec (.trapRecordWrite c) s = .next ((u.modCtx c fun c => { (c.noteHandle r (r.handle x.head.toNat)) with
      records := rs, head := c.head + 1 }).notifyTrap x) := by
  show execTrapRecordWrite c s = _
  rw [execTrapRecordWrite, hx]
  simp only [hrecords, hvalid, hfull, hwrite, Bool.not_true, Bool.false_eq_true, if_false]

end Sys2Proof.Claims

namespace Sys2Proof

open Sys2Proof.Machine Sys2Proof.Claims

/-- Settles O44: each event acts on the group and the warp that it finds, where its condition holds. -/
theorem lanesAndWarpsGoOn : Obligations.LanesAndWarpsGoOn :=
  ⟨fun _ _ _ _ _ => exec_wsyncRelease_of_warp, fun _ _ _ _ hg ht hgrant => exec_growGrant_of_grantable hg ht hgrant,
    fun _ _ _ _ _ => exec_cut_of_ready, fun _ _ _ _ _ => exec_splice_of_arrived, fun _ _ _ _ _ => exec_warpRetire_of_done,
    fun _ _ _ => exec_groupRetire_of_done⟩

/-- Settles O46: each event acts on the take, group or context that it finds, where its condition holds; a hardware error by whether the
take can be begun again. -/
theorem groupsAndTakesComeAndGo : Obligations.GroupsAndTakesComeAndGo := by
  refine ⟨⟨fun _ _ _ _ _ ht => exec_groupAdmission_of_room ht, fun _ _ _ ht => exec_triggerPoint_of_triggers ht,
      fun _ _ _ ht => exec_gridEnd_of_tainted ht, fun _ _ _ ht => exec_gridEnd_of_clean ht, fun _ _ _ => exec_eviction_of_due,
      fun _ _ _ => exec_growDeadlockEviction_of_deadlock, fun _ _ _ _ hg => exec_evictionRecord_of_drained hg,
      fun _ _ _ _ _ _ hg ht => exec_groupRestore_of_room hg ht⟩,
    fun _ _ _ _ ht => exec_takeEnd_of_err ht, fun s tid t code path addr ht herr => ?_, fun _ _ _ _ ht => exec_snapshotCopy_of_due ht,
    fun _ _ _ _ _ _ => exec_trapRecordWrite_of_room, fun _ _ _ => rfl⟩
  rw [exec_retake_of_hwErr ht herr]
  by_cases hover : (!t.slate.retake) = true ∨ t.unrestorable = true ∨ 2 ≤ t.retakes ∨ t.laterEntry = true
  · rw [if_pos hover, ending_of_over hover]
  · rw [if_neg hover, ending_of_again hover, ← bareRecord_of_log]

end Sys2Proof
end

section
/-!
SUPPORT. What a cut leaves of a warp and of its group (R49, R52).
-/

namespace Sys2Proof.Machine

open Sys2Proof.Claims

/-! ### The halves of a warp -/

theorem toNat_jBits (m : BitVec 64) (a n : Nat) : (jBits m a n).toNat = m.toNat / 2 ^ a % 2 ^ n := by
  have hle : m.toNat / 2 ^ a % 2 ^ n ≤ m.toNat := (Nat.mod_le _ _).trans (Nat.div_le_self _ _)
  rw [jBits, slice, BitVec.toNat_ofNat, Nat.mod_eq_of_lt (hle.trans_lt m.isLt)]

theorem get_jMap (f : BitVec 64 → BitVec 64) (j : NMap (BitVec 64)) {n : Nat} (hn : n < 4) :
    NMap.get 0 (jMap f j) n = f (NMap.get 0 j n) := by
  let masks := (List.range 4).map fun k => f (NMap.get 0 j k)
  have hjMap : jMap f j = NMap.putAll 0 [] (masks.mapIdx fun i m => (0 + i, m)) := rfl
  rw [hjMap, get_putAll_mapIdx masks 0 n rfl, if_pos (by simpa [masks] using hn)]
  simp [masks, hn]

/-- Each half has its own part of the warp's rejoin masks (R52). -/
theorem toNat_get_half_j (w : Warp) (upper : Bool) (wid slot other : Nat) {n : Nat} (hn : n < 4) :
    (NMap.get 0 (w.half upper wid slot other).j n).toNat =
      (NMap.get 0 w.j n).toNat / 2 ^ (if upper then w.width / 2 else 0) % 2 ^ (w.width / 2) := by
  rw [Warp.half, get_jMap _ _ hn, toNat_jBits]

/-! ### The group after a cut -/

/-- What a cut of warp `wid` leaves of a warp: both halves of that warp, the upper one with number `up`, and any other warp as it is. -/
def Warp.afterCut (wid up slot : Nat) (x : Warp) : List Warp :=
  if x.wid = wid then [x.half false x.wid x.slot up, x.half true up slot x.wid] else [x]

theorem Warp.afterCut_self (w : Warp) (up slot : Nat) :
    w.afterCut w.wid up slot = [w.half false w.wid w.slot up, w.half true up slot w.wid] := if_pos rfl

theorem Warp.afterCut_of_ne {wid : Nat} {x : Warp} (hx : x.wid ≠ wid) (up slot : Nat) : x.afterCut wid up slot = [x] := if_neg hx

/-- A cut adds one warp for each that it divides. -/
theorem length_flatMap_afterCut (xs : List Warp) (wid up slot : Nat) :
    (xs.flatMap (Warp.afterCut wid up slot)).length = xs.length + (xs.filter fun x => x.wid == wid).length := by
  induction xs with
  | nil => rfl
  | cons x xs ih =>
    rw [List.flatMap_cons, List.length_append, ih]
    by_cases hx : x.wid = wid
    · subst hx
      simp only [Warp.afterCut_self, beq_self_eq_true, List.filter_cons_of_pos, List.length_cons, List.length_nil]
      omega
    · rw [Warp.afterCut_of_ne hx, List.filter_cons_of_neg (by simpa using hx), List.length_singleton, List.length_cons]
      omega

/-- A group with one of its warps divided; the upper half has the group's next number. -/
def Group.halveWarp (g : Group) (wid slot : Nat) : Group :=
  { g with nextWid := g.nextWid + 1, warps := g.warps.flatMap (Warp.afterCut wid g.nextWid slot) }

/-- The group holds both halves of a warp that it divides. -/
theorem halves_mem_halveWarp {g : Group} {w : Warp} (hw : w ∈ g.warps) (slot : Nat) :
    w.half false w.wid w.slot g.nextWid ∈ (g.halveWarp w.wid slot).warps ∧
      w.half true g.nextWid slot w.wid ∈ (g.halveWarp w.wid slot).warps :=
  ⟨List.mem_flatMap.2 ⟨w, hw, by simp [Warp.afterCut_self]⟩, List.mem_flatMap.2 ⟨w, hw, by simp [Warp.afterCut_self]⟩⟩

/-- A lane that stood at a WCUT goes on with age 0 (R52). -/
def Lane.leaveCut (l : Lane) : Lane := { l with at_ := .live, age := 0 }

/-- The cut divides the warp in its group, and its lanes go on. -/
theorem findGroup_cutWarp {s : State} {g : Group} (hg : s.findGroup g.gid = some g) (w : Warp) :
    (s.cutWarp g w).findGroup g.gid = some ((g.halveWarp w.wid (lowestSlot (slotsTaken (s.residents g.agent)) w.part)).modLanes
      (g.atCut w) fun _ => Lane.leaveCut) :=
  State.findGroup_modGroup (State.findGroup_modGroup (s := { s with ops := _ }) hg fun _ => rfl) fun _ => Group.modLanes_gid _ _ _

end Sys2Proof.Machine

namespace Sys2Proof

open Sys2Proof.Machine Sys2Proof.Claims

/-- Settles O45: the cut divides the warp in its group, each half taking its part of the lanes and of the rejoin masks, and the lanes that
go on keep their registers. -/
theorem cutsHalveTheWarp : Obligations.CutsHalveTheWarp := by
  intro s g w gid hg hgid hw hready hdecl _
  subst hgid
  let slot := lowestSlot (slotsTaken (s.residents g.agent)) w.part
  have hcut : exec (.cut g.gid w.wid) s = .next (s.cutWarp g w) := by
    rw [exec_cut_of_ready hg hw hready, hdecl, if_neg Bool.false_ne_true]
  obtain ⟨hlower, hupper⟩ := halves_mem_halveWarp (List.mem_of_find?_eq_some hw) slot
  have hwarps := Group.modLanes_warps (g.halveWarp w.wid slot) (g.atCut w) fun _ => Lane.leaveCut
  have hkept {β : Type} (field : Lane → β) (hfield : ∀ l : Lane, field l.leaveCut = field l) (i : Nat) :=
    field_lane_modLanes field (g.halveWarp w.wid slot) (g.atCut w) (fun _ => hfield) i
  refine ⟨s.cutWarp g w, _, hcut, rfl, findGroup_cutWarp hg w, Group.modLanes_s _ _ _, Group.modLanes_banks _ _ _, ?_,
    ⟨w.half false w.wid w.slot g.nextWid, w.half true g.nextWid slot w.wid, hwarps ▸ hlower, hwarps ▸ hupper, rfl, rfl, rfl, rfl,
      rfl, rfl, rfl, rfl, rfl, rfl, rfl, rfl, fun n hn => ⟨?_, ?_⟩⟩,
    fun i _ => ⟨hkept (·.v) (fun _ => rfl) i, hkept (·.p) (fun _ => rfl) i, hkept (·.pc) (fun _ => rfl) i⟩⟩
  · rw [hwarps]
    exact length_flatMap_afterCut g.warps w.wid g.nextWid slot
  · simpa using toNat_get_half_j w false w.wid w.slot g.nextWid hn
  · exact toNat_get_half_j w true g.nextWid slot w.wid hn

end Sys2Proof
end

section
/-!
SUPPORT. What a completion writes and what it leaves: one rule for each kind of register, then the writes of an operation in their order
(R68 to R72, R265).
-/

namespace Sys2Proof.Claims

open Sys2Proof.Machine

/-! ### Sparse maps whose keys rise -/

theorem get_of_lt_keys {α : Type} {d : α} {m : NMap α} {i : Nat} (h : ∀ k ∈ m.map Prod.fst, i < k) : NMap.get d m i = d := by
  cases m with
  | nil => rfl
  | cons e m =>
    have hlt : i < e.1 := h e.1 List.mem_cons_self
    rw [NMap.get, if_neg hlt.ne, if_pos hlt]

/-- A map whose keys rise reads back the value written, and its other keys as before. -/
theorem get_put_of_rising {α : Type} [DecidableEq α] {d : α} {m : NMap α} (hm : Rising m) (i j : Nat) (v : α) :
    NMap.get d (NMap.put d m i v) j = if j = i then v else NMap.get d m j := by
  by_cases hv : v = d
  case neg =>
    by_cases hj : j = i
    · rw [if_pos hj, hj, NMap.get_put_listed hv]
    · rw [if_neg hj, NMap.get_put_listed_of_ne hv hj]
  case pos =>
    subst hv
    induction m with
    | nil => simp [NMap.put, NMap.get]
    | cons e m ih =>
      obtain ⟨hlow, hrest⟩ := List.pairwise_cons.1 hm
      have hunlisted : ∀ j ≤ e.1, NMap.get v m j = v := fun j hj => get_of_lt_keys fun k hk => hj.trans_lt (hlow k hk)
      have hput := ih hrest
      rcases Nat.lt_trichotomy i e.1 with hi | hi | hi <;> grind [NMap.put, NMap.get]

/-! ### One bit of a number -/

theorem bitAt_eq_testBit (x a : Nat) : bitAt x a = x.testBit a := by
  rw [bitAt, slice, pow_one, Nat.testBit_eq_decide_div_mod_eq]
  rfl

/-- One bit replaced: it is the lowest of what is put there, and the others stay. -/
theorem bitAt_setBits_one (x a v n : Nat) : bitAt (setBits x a 1 v) n = if n = a then bitAt v 0 else bitAt x n := by
  obtain ⟨k, hk⟩ := Nat.exists_eq_add_of_le (Nat.mod_le (x / 2 ^ a) 2)
  have hlow : x % 2 ^ a < 2 ^ a := Nat.mod_lt _ (by positivity)
  have hx : x = 2 ^ a * (x / 2 ^ a % 2 + k) + x % 2 ^ a := by rw [← hk, Nat.div_add_mod]
  have hclear : x - x / 2 ^ a % 2 * 2 ^ a = 2 ^ a * k + x % 2 ^ a := Nat.sub_eq_of_eq_add (by linarith)
  have hset : setBits x a 1 v = 2 ^ a * (k + v % 2) + x % 2 ^ a := by
    rw [setBits, slice, pow_one, hclear]
    ring
  have heven : k % 2 = 0 := by omega
  simp only [bitAt_eq_testBit, hset]
  conv_rhs => rw [hx]
  rw [Nat.testBit_two_pow_mul_add _ hlow, Nat.testBit_two_pow_mul_add _ hlow]
  rcases Nat.lt_trichotomy n a with hn | hn | hn
  · simp [hn, hn.ne]
  · subst hn
    have hbit : (k + v % 2) % 2 = v % 2 := by omega
    simp only [lt_self_iff_false, if_false, if_true, Nat.sub_self, Nat.testBit_zero, hbit]
  · obtain ⟨m, rfl⟩ := Nat.exists_eq_add_of_lt hn
    have hsucc : a + m + 1 - a = m + 1 := by omega
    have hhalf : (k + v % 2) / 2 = (x / 2 ^ a % 2 + k) / 2 := by omega
    rw [if_neg (by omega), if_neg (by omega), if_neg (by omega), hsucc, Nat.testBit_succ, Nat.testBit_succ, hhalf]

theorem bitAt_ofNat_seven (x : Nat) {n : Nat} (hn : n < 7) : bitAt (BitVec.ofNat 7 x).toNat n = bitAt x n := by
  rw [bitAt_eq_testBit, bitAt_eq_testBit, BitVec.toNat_ofNat, Nat.testBit_mod_two_pow]
  simp [hn]

/-! ### One register write -/

/-- Every way a register write goes: a v register, an s register, a predicate, or nothing (R68, R70, R72). -/
theorem write_cases (g : Group) (w : RegW) :
    (w.reg < 640 ∧ g.write w = g.modLane w.lane fun l => { l with v := NMap.put (0, 0) l.v w.reg (w.val, w.tag) }) ∨
    (640 ≤ w.reg ∧ w.reg < 1024 ∧ g.write w = { g with s := NMap.put 0 g.s (w.reg - 640) w.val }) ∨
    (1024 ≤ w.reg ∧ w.reg < 1031 ∧
      g.write w = g.modLane w.lane fun l => { l with p := BitVec.ofNat 7 (setBits l.p.toNat (w.reg - 1024) 1 w.val.toNat) }) ∨
    1031 ≤ w.reg ∧ g.write w = g := by
  unfold Group.write
  split
  · exact .inl ⟨‹_›, rfl⟩
  · split
    · exact .inr (.inl ⟨by omega, ‹_›, rfl⟩)
    · split
      · exact .inr (.inr (.inl ⟨by omega, ‹_›, rfl⟩))
      · exact .inr (.inr (.inr ⟨by omega, rfl⟩))

/-- A write changes only s registers, and a lane's v registers and predicates. -/
theorem write_eq (g : Group) (w : RegW) : ∃ lanes r, g.write w = { g with lanes := lanes, s := r } := by
  rcases write_cases g w with ⟨_, h⟩ | ⟨_, _, h⟩ | ⟨_, _, h⟩ | ⟨_, h⟩ <;> exact ⟨_, _, h⟩

theorem length_lanes_write (g : Group) (w : RegW) : (g.write w).lanes.length = g.lanes.length := by
  rcases write_cases g w with ⟨_, h⟩ | ⟨_, _, h⟩ | ⟨_, _, h⟩ | ⟨_, h⟩ <;> simp [h, Group.modLane]

theorem field_lane_modLane {β : Type} (field : Lane → β) (g : Group) (i : Nat) {f : Lane → Lane} (hf : ∀ l, field (f l) = field l) (j : Nat) :
    field ((g.modLane i f).lane j) = field (g.lane j) :=
  field_lane_modLanes field g [i] (f := fun _ => f) (fun _ => hf) j

/-- What of a lane is neither a v register nor a predicate stays. -/
theorem field_lane_write {β : Type} (field : Lane → β) (hf : ∀ (l : Lane) v p, field { l with v := v, p := p } = field l) (g : Group) (w : RegW)
    (i : Nat) : field ((g.write w).lane i) = field (g.lane i) := by
  rcases write_cases g w with ⟨_, h⟩ | ⟨_, _, h⟩ | ⟨_, _, h⟩ | ⟨_, h⟩ <;> rw [h]
  · exact field_lane_modLane field g w.lane (fun l => hf l _ _) i
  · rfl
  · exact field_lane_modLane field g w.lane (fun l => hf l _ _) i

theorem readV_of_lane {g k : Group} {i : Nat} (h : (k.lane i).v = (g.lane i).v) (n : Nat) : k.readV i n = g.readV i n := by
  rw [Group.readV, Group.readV, h]

theorem readP_of_lane {g k : Group} {i : Nat} (h : (k.lane i).p = (g.lane i).p) (n : Nat) : k.readP i n = g.readP i n := by
  rw [Group.readP, Group.readP, h]

theorem readS_write {g : Group} (hs : Rising g.s) (w : RegW) {n : Nat} (hn : n < 384) :
    (g.write w).readS n = if w.reg == 640 + n then w.val else g.readS n := by
  rcases write_cases g w with ⟨_, h⟩ | ⟨_, _, h⟩ | ⟨_, _, h⟩ | ⟨_, h⟩ <;> rw [h]
  case inr.inl =>
    have hcode : n = w.reg - 640 ↔ w.reg = 640 + n := by omega
    simp only [Group.readS, get_put_of_rising hs, hcode, beq_iff_eq]
  all_goals
    have hreg : w.reg ≠ 640 + n := by omega
    simp [Group.readS, hreg]

theorem readV_write {g : Group} (hg : ListedGroup g) (w : RegW) {i n : Nat} (hi : i < g.lanes.length) (hn : n < 640) :
    (g.write w).readV i n = if w.lane == i && w.reg == n then (w.val, w.tag) else g.readV i n := by
  rcases write_cases g w with ⟨_, h⟩ | ⟨_, _, h⟩ | ⟨_, _, h⟩ | ⟨_, h⟩ <;> rw [h]
  case inl =>
    have hcode : n = w.reg ↔ w.reg = n := eq_comm
    rw [Group.readV, lane_modLane_of_lt _ _ _ hi]
    by_cases hl : w.lane = i
    · rw [if_pos hl, get_put_of_rising (hg.lane i)]
      simp only [hl, hcode, beq_self_eq_true, Bool.true_and, beq_iff_eq]
      rfl
    · simp [hl, Group.readV]
  all_goals
    have hreg : w.reg ≠ n := by omega
    simp only [hreg, beq_iff_eq, Bool.and_eq_true, and_false, if_false]
  case inr.inr.inl =>
    refine readV_of_lane (field_lane_modLane Lane.v g w.lane ?_ i) n
    exact fun _ => rfl
  all_goals rfl

theorem readP_write (g : Group) (w : RegW) {i n : Nat} (hi : i < g.lanes.length) (hn : n < 7) :
    (g.write w).readP i n = if w.lane == i && w.reg == predCode n then bitAt w.val.toNat 0 else g.readP i n := by
  rcases write_cases g w with ⟨_, h⟩ | ⟨_, _, h⟩ | ⟨_, _, h⟩ | ⟨_, h⟩ <;> rw [h]
  case inr.inr.inl =>
    have hcode : n = w.reg - 1024 ↔ w.reg = predCode n := by unfold predCode; omega
    rw [Group.readP, lane_modLane_of_lt _ _ _ hi]
    by_cases hl : w.lane = i
    · rw [if_pos hl, bitAt_ofNat_seven _ hn, bitAt_setBits_one]
      simp only [hl, hcode, beq_self_eq_true, Bool.true_and, beq_iff_eq, Group.readP, beq_eq_false_iff_ne.2 hn.ne, Bool.false_or]
    · simp [hl, Group.readP]
  all_goals
    have hreg : w.reg ≠ predCode n := by unfold predCode; omega
    simp only [hreg, beq_iff_eq, Bool.and_eq_true, and_false, if_false]
  case inl =>
    refine readP_of_lane (field_lane_modLane Lane.p g w.lane ?_ i) n
    exact fun _ => rfl
  all_goals rfl

/-! ### The writes of an operation -/

/-- What a reading of the group is after a list of writes: the last of those that it reads. -/
theorem read_writes {β : Type} {read : Group → β} {p : RegW → Bool} {val : RegW → β} {P : Group → Prop}
    (hkeep : ∀ g w, P g → P (g.write w)) (hread : ∀ g w, P g → read (g.write w) = if p w then val w else read g)
    (ws : List RegW) {g : Group} (hg : P g) : read (g.writes ws) = (ws.filter p).getLast?.elim (read g) val := by
  induction ws generalizing g with
  | nil => rfl
  | cons w ws ih =>
    have hstep : read ((g.write w).writes ws) = (ws.filter p).getLast?.elim (read (g.write w)) val := ih (hkeep g w hg)
    have hcons : g.writes (w :: ws) = (g.write w).writes ws := rfl
    rw [hcons, hstep, hread g w hg, List.filter_cons]
    split
    · rw [List.getLast?_cons]
      cases (ws.filter p).getLast? <;> rfl
    · rfl

theorem writes_eq (g : Group) (ws : List RegW) : ∃ lanes r, g.writes ws = { g with lanes := lanes, s := r } := by
  induction ws generalizing g with
  | nil => exact ⟨_, _, rfl⟩
  | cons w ws ih =>
    obtain ⟨lanes, r, hw⟩ := write_eq g w
    obtain ⟨lanes', r', hws⟩ := ih (g.write w)
    exact ⟨lanes', r', hws.trans (by rw [hw])⟩

theorem length_lanes_writes (g : Group) (ws : List RegW) : (g.writes ws).lanes.length = g.lanes.length := by
  induction ws generalizing g with
  | nil => rfl
  | cons w ws ih => exact (ih (g.write w)).trans (length_lanes_write g w)

theorem field_lane_writes {β : Type} (field : Lane → β) (hf : ∀ (l : Lane) v p, field { l with v := v, p := p } = field l) (g : Group)
    (ws : List RegW) (i : Nat) : field ((g.writes ws).lane i) = field (g.lane i) := by
  induction ws generalizing g with
  | nil => rfl
  | cons w ws ih => exact (ih (g.write w)).trans (field_lane_write field hf g w i)

theorem readS_writes {g : Group} (hg : ListedGroup g) (ws : List RegW) {n : Nat} (hn : n < 384) :
    (g.writes ws).readS n = (ws.filter fun w => w.reg == 640 + n).getLast?.elim (g.readS n) RegW.val :=
  read_writes (read := fun g => g.readS n) (fun _ w h => ListedGroup.write h w) (fun _ w h => readS_write h.s w hn) ws hg

theorem readV_writes {g : Group} (hg : ListedGroup g) (ws : List RegW) {i n : Nat} (hi : i < g.lanes.length) (hn : n < 640) :
    (g.writes ws).readV i n =
      (ws.filter fun w => w.lane == i && w.reg == n).getLast?.elim (g.readV i n) fun w => (w.val, w.tag) :=
  read_writes (read := fun g => g.readV i n) (P := fun g => ListedGroup g ∧ i < g.lanes.length)
    (fun g w h => ⟨h.1.write w, (length_lanes_write g w).symm ▸ h.2⟩) (fun _ w h => readV_write h.1 w h.2 hn) ws ⟨hg, hi⟩

theorem readP_writes (g : Group) (ws : List RegW) {i n : Nat} (hi : i < g.lanes.length) (hn : n < 7) :
    (g.writes ws).readP i n =
      (ws.filter fun w => w.lane == i && w.reg == predCode n).getLast?.elim (g.readP i n) fun w => bitAt w.val.toNat 0 :=
  read_writes (read := fun g => g.readP i n) (P := fun g => i < g.lanes.length) (fun g w h => (length_lanes_write g w).symm ▸ h)
    (fun g w h => readP_write g w h hn) ws hi

/-! ### The writes that stand -/

/-- Writes of v registers and predicates all stand. -/
theorem filter_stands_of_not_uniform (g : Group) (now ord : Nat) (ws : List RegW) {p : RegW → Bool}
    (hp : ∀ w, p w = true → isUniform w.reg = false) : (ws.filter (g.stands now ord)).filter p = ws.filter p := by
  rw [List.filter_filter]
  refine List.filter_congr fun w _ => ?_
  cases h : p w
  · rfl
  · simp [Group.stands, hp w h]

/-- Of the writes of one s register all stand or none, as a later warp has written it in the same clock or not (R71). -/
theorem filter_stands_uniform (g : Group) (now ord : Nat) (ws : List RegW) {n : Nat} (hn : n < 384) :
    (ws.filter (g.stands now ord)).filter (fun w => w.reg == 640 + n) =
      if (NMap.get none g.swrote (640 + n)).any fun k => k.1 == now && ord < k.2 then [] else ws.filter fun w => w.reg == 640 + n := by
  have hstands : ∀ w : RegW, w.reg = 640 + n →
      g.stands now ord w = !((NMap.get none g.swrote (640 + n)).any fun k => k.1 == now && decide (ord < k.2)) := by
    intro w hw
    have huni : isUniform w.reg = true := by simp [isUniform, hw]; omega
    rw [Group.stands, huni, hw]
    cases NMap.get none g.swrote (640 + n) with
    | none => rfl
    | some k => simp [bne, Bool.not_and, ← decide_not]
  rw [List.filter_filter]
  split
  case isTrue h =>
    refine List.filter_eq_nil_iff.2 fun w _ => ?_
    simp only [Bool.and_eq_true, beq_iff_eq, not_and]
    intro hw
    rw [hstands w hw, h]
    decide
  case isFalse h =>
    refine List.filter_congr fun w _ => ?_
    by_cases hw : w.reg = 640 + n
    · simp [hw, hstands w hw, h]
    · simp [hw]

/-! ### The group after a completion -/

/-- FP flags raised in their lanes (R265). -/
def raised (g : Group) (fs : List (Nat × BitVec 5)) : Group :=
  fs.foldl (fun (g : Group) (f : Nat × BitVec 5) => g.modLane f.1 fun l => { l with fp := l.fp ||| f.2 }) g

theorem raised_eq (g : Group) (fs : List (Nat × BitVec 5)) : ∃ lanes, raised g fs = { g with lanes := lanes } := by
  induction fs generalizing g with
  | nil => exact ⟨_, rfl⟩
  | cons f fs ih =>
    obtain ⟨lanes, h⟩ := ih (g.modLane f.1 fun l => { l with fp := l.fp ||| f.2 })
    exact ⟨lanes, h⟩

theorem field_lane_raised {β : Type} (field : Lane → β) (hf : ∀ (l : Lane) x, field { l with fp := x } = field l) (g : Group)
    (fs : List (Nat × BitVec 5)) (i : Nat) : field ((raised g fs).lane i) = field (g.lane i) := by
  induction fs generalizing g with
  | nil => rfl
  | cons f fs ih => exact (ih _).trans (field_lane_modLane field g f.1 (fun l => hf l _) i)

theorem fp_raised (g : Group) (fs : List (Nat × BitVec 5)) {i : Nat} (hi : i < g.lanes.length) :
    ((raised g fs).lane i).fp = fs.foldl (fun (x : BitVec 5) f => if f.1 = i then x ||| f.2 else x) (g.lane i).fp := by
  induction fs generalizing g with
  | nil => rfl
  | cons f fs ih =>
    have hlen : i < (g.modLane f.1 fun l => { l with fp := l.fp ||| f.2 }).lanes.length := by simpa [Group.modLane] using hi
    refine (ih _ hlen).trans ?_
    rw [lane_modLane_of_lt _ _ _ hi, List.foldl_cons]
    split
    · rfl
    · rfl

/-- The group after an operation's register writes `ws`, first seen in clock `now`, and the FP flags it raises. -/
def written (now : Nat) (o : Op) (ws : List RegW) (g : Group) : Group := raised (g.writesAt now o.ord ws) o.fp

/-- The group after a completion: the writes made, and the flag one lower (R32). -/
def completed (s : State) (o : Op) (g : Group) : Group :=
  (written (s.seenAt g) o (s.landing o) g).modWarp o.wid fun w => w.subFlag o.flag

theorem written_eq (now : Nat) (o : Op) (ws : List RegW) (g : Group) :
    ∃ lanes r m, written now o ws g = { g with lanes := lanes, s := r, swrote := m } := by
  obtain ⟨lanes, r, hw⟩ := writes_eq g (ws.filter (g.stands now o.ord))
  obtain ⟨lanes', hr⟩ := raised_eq (g.writesAt now o.ord ws) o.fp
  refine ⟨lanes', r, (g.writesAt now o.ord ws).swrote, hr.trans ?_⟩
  rw [Group.writesAt, hw]

theorem gid_written (now : Nat) (o : Op) (ws : List RegW) (g : Group) : (written now o ws g).gid = g.gid := by
  obtain ⟨lanes, r, m, h⟩ := written_eq now o ws g
  rw [h]

/-- A completion leaves of a group what is no lane, no s register and no warp. -/
theorem completed_eq (s : State) (o : Op) (g : Group) :
    ∃ lanes r m, completed s o g =
      { g with lanes := lanes, s := r, swrote := m, warps := g.warps.map fun w => if w.wid == o.wid then w.subFlag o.flag else w } := by
  obtain ⟨lanes, r, m, h⟩ := written_eq (s.seenAt g) o (s.landing o) g
  exact ⟨lanes, r, m, by rw [completed, h]; rfl⟩

/-- What of a lane is no register and no FP flag stays. -/
theorem field_lane_completed {β : Type} (field : Lane → β) (hw : ∀ (l : Lane) v p, field { l with v := v, p := p } = field l)
    (hr : ∀ (l : Lane) x, field { l with fp := x } = field l) (s : State) (o : Op) (g : Group) (i : Nat) :
    field ((completed s o g).lane i) = field (g.lane i) :=
  (field_lane_raised field hr _ o.fp i).trans (field_lane_writes field hw g _ i)

theorem fp_completed (s : State) (o : Op) (g : Group) {i : Nat} (hi : i < g.lanes.length) :
    ((completed s o g).lane i).fp = o.fp.foldl (fun (x : BitVec 5) f => if f.1 = i then x ||| f.2 else x) (g.lane i).fp := by
  have hlen : i < (g.writesAt (s.seenAt g) o.ord (s.landing o)).lanes.length := (length_lanes_writes g _).symm ▸ hi
  have hkept : ((g.writesAt (s.seenAt g) o.ord (s.landing o)).lane i).fp = (g.lane i).fp :=
    field_lane_writes Lane.fp (fun _ _ _ => rfl) g _ i
  exact (fp_raised _ o.fp hlen).trans (by rw [hkept])

theorem readS_completed (s : State) (o : Op) {g : Group} (hg : ListedGroup g) {n : Nat} (hn : n < 384) :
    (completed s o g).readS n = if ((NMap.get none g.swrote (640 + n)).any fun k => k.1 == s.seenAt g && o.ord < k.2) then g.readS n
      else ((s.landing o).filter fun w => w.reg == 640 + n).getLast?.elim (g.readS n) RegW.val := by
  obtain ⟨lanes, hr⟩ := raised_eq (g.writesAt (s.seenAt g) o.ord (s.landing o)) o.fp
  have hs : (completed s o g).readS n = (g.writes ((s.landing o).filter (g.stands (s.seenAt g) o.ord))).readS n := by
    show NMap.get 0 (raised _ _).s n = _
    rw [hr]
    rfl
  rw [hs, readS_writes hg _ hn, filter_stands_uniform _ _ _ _ hn]
  split
  · rfl
  · rfl

theorem readV_completed (s : State) (o : Op) {g : Group} (hg : ListedGroup g) {i n : Nat} (hi : i < g.lanes.length) (hn : n < 640) :
    (completed s o g).readV i n =
      ((s.landing o).filter fun w => w.lane == i && w.reg == n).getLast?.elim (g.readV i n) fun w => (w.val, w.tag) := by
  have hv : (completed s o g).readV i n = (g.writes ((s.landing o).filter (g.stands (s.seenAt g) o.ord))).readV i n :=
    readV_of_lane (field_lane_raised Lane.v (fun _ _ => rfl) _ o.fp i) n
  rw [hv, readV_writes hg _ hi hn, filter_stands_of_not_uniform]
  intro w hw
  simp only [Bool.and_eq_true, beq_iff_eq] at hw
  simp [isUniform, hw.2]
  omega

theorem readP_completed (s : State) (o : Op) (g : Group) {i n : Nat} (hi : i < g.lanes.length) (hn : n < 7) :
    (completed s o g).readP i n =
      ((s.landing o).filter fun w => w.lane == i && w.reg == predCode n).getLast?.elim (g.readP i n) fun w => bitAt w.val.toNat 0 := by
  have hp : (completed s o g).readP i n = (g.writes ((s.landing o).filter (g.stands (s.seenAt g) o.ord))).readP i n :=
    readP_of_lane (field_lane_raised Lane.p (fun _ _ => rfl) _ o.fp i) n
  rw [hp, readP_writes g _ hi hn, filter_stands_of_not_uniform]
  intro w hw
  simp only [Bool.and_eq_true, beq_iff_eq] at hw
  simp [isUniform, hw.2, predCode]

/-- A warp of the group keeps its number, and the operation's own warp has its flag one lower (R32). -/
theorem findWarp_completed (s : State) (o : Op) (g : Group) (k : Nat) :
    (completed s o g).findWarp k = (g.findWarp k).map fun w => if w.wid == o.wid then w.subFlag o.flag else w := by
  obtain ⟨lanes, r, m, h⟩ := completed_eq s o g
  rw [h]
  exact find_map_mod Warp.wid (fun w => w.subFlag o.flag) (fun w => by unfold Warp.subFlag; split <;> rfl) o.wid k g.warps

/-! ### The device after a completion -/

/-- The device once an operation has written its registers and left flight. -/
def freed (s : State) (o : Op) : State := ((s.applyWrites o).dropOp o.id).modWarp o.gid o.wid fun w => w.subFlag o.flag

/-- Only groups and operations in flight change. -/
theorem freed_eq (s : State) (o : Op) : ∃ gs os, freed s o = { s with groups := gs, ops := os } := ⟨_, _, rfl⟩

theorem findGroup_freed {s : State} {o : Op} {g : Group} (hg : s.findGroup o.gid = some g) :
    (freed s o).findGroup o.gid = some (completed s o g) := by
  have happly : (s.applyWrites o).findGroup o.gid = some (written (s.seenAt g) o (s.landing o) g) := by
    rw [State.applyWrites, hg]
    exact State.findGroup_modGroup hg (gid_written (s.seenAt g) o (s.landing o))
  exact State.findGroup_modGroup (s := (s.applyWrites o).dropOp o.id) happly fun _ => rfl

/-- A group that is not changed stays. -/
theorem mem_groups_modGroup {s : State} {gid : Nat} {f : Group → Group} {y : Group} (hy : y ∈ s.groups) (hne : y.gid ≠ gid) :
    y ∈ (s.modGroup gid f).groups :=
  List.mem_map.2 ⟨y, hy, if_neg (by simpa using hne)⟩

theorem mem_groups_freed {s : State} {o : Op} {y : Group} (hy : y ∈ s.groups) (hne : y.gid ≠ o.gid) : y ∈ (freed s o).groups :=
  mem_groups_modGroup (mem_groups_modGroup hy hne) hne

theorem findOp_freed (s : State) (o : Op) : (freed s o).findOp o.id = none := by
  refine List.find?_eq_none.2 fun p hp => ?_
  obtain ⟨q, hq, rfl⟩ := List.mem_map.1 hp
  have hne := (List.mem_filter.1 hq).2
  simpa using hne

theorem foldl_eq_self {α β : Type} {f : α → β → α} {a : α} {xs : List β} (h : ∀ x ∈ xs, f a x = a) : xs.foldl f a = a := by
  induction xs with
  | nil => rfl
  | cons x xs ih =>
    rw [List.foldl_cons, h x List.mem_cons_self]
    exact ih fun y hy => h y (List.mem_cons_of_mem _ hy)

/-- No stop of a warp that does not wait for its flags falls due (R419). -/
theorem checkHalt_of_quiet {s : State} {gid wid : Nat} {g : Group} (hg : s.findGroup gid = some g)
    (hw : ∀ w, g.findWarp wid = some w → ∀ c p l, w.halt ≠ .draining c p l) : s.checkHalt gid wid = s := by
  rw [State.checkHalt, hg]
  dsimp only
  split
  · rfl
  · rename_i w hfind
    split
    · rename_i c p l hhalt
      exact absurd hhalt (hw w hfind c p l)
    · rfl

theorem checkHaltCtx_of_quiet {s : State} {ctx : Nat} (h : ∀ c, s.findCtx ctx = some c → c.haltDue = false) : s.checkHaltCtx ctx = s := by
  rw [State.checkHaltCtx]
  split
  · rfl
  · rename_i c hc
    simp [h c hc]

theorem halt_subFlag (w : Warp) (f : Nat) : (w.subFlag f).halt = w.halt := by
  unfold Warp.subFlag
  split
  · rfl
  · rfl

/-- Nothing waits for the flag of the operation. -/
theorem finishOp_of_quiet {s : State} {o : Op} {g : Group} (hg : s.findGroup o.gid = some g) (hq : Quiet s o g) : s.finishOp o = freed s o := by
  obtain ⟨hwarps, hctx⟩ := hq
  have hfound := findGroup_freed hg
  have hhalt : ∀ k ∈ o.wid :: o.owners, (freed s o).checkHalt o.gid k = freed s o := fun k hk => by
    refine checkHalt_of_quiet hfound fun w hw => ?_
    rw [findWarp_completed] at hw
    obtain ⟨x, hx, rfl⟩ := Option.map_eq_some_iff.1 hw
    have hx := hwarps k hk x hx
    split
    · rwa [halt_subFlag]
    · exact hx
  obtain ⟨gs, os, hfreed⟩ := freed_eq s o
  obtain ⟨lanes, r, m, hgroup⟩ := completed_eq s o g
  have hctxOf : (freed s o).ctxOf (completed s o g) = s.ctxOf g := by
    rw [hfreed, hgroup]
    rfl
  have hctxs : (freed s o).ctxs = s.ctxs := by rw [hfreed]
  show ((o.wid :: o.owners).foldl (fun s w => s.checkHalt o.gid w) (freed s o)).checkHaltCtx
    (((freed s o).findGroup o.gid).elim 0 (freed s o).ctxOf) = freed s o
  rw [foldl_eq_self hhalt, hfound, Option.elim_some, hctxOf]
  refine checkHaltCtx_of_quiet fun c hc => hctx c ?_
  rwa [State.findCtx, hctxs] at hc

end Sys2Proof.Claims

namespace Sys2Proof

open Sys2Proof.Machine Sys2Proof.Claims

/-- Settles O21: by the rules of a completion's writes, one for each kind of register, and what is left of the group and of the device. -/
theorem completionWritesRegisters : Obligations.CompletionWritesRegisters := by
  intro s o g hs hg hq t last
  have ht : t = freed s o := finishOp_of_quiet hg hq
  have hlisted : ListedGroup g := hs.groups g (List.mem_of_find?_eq_some hg)
  obtain ⟨gs, os, hfreed⟩ := freed_eq s o
  obtain ⟨lanes, r, m, heq⟩ := completed_eq s o g
  rw [ht]
  refine ⟨findOp_freed s o, by rw [hfreed], by rw [hfreed], by rw [hfreed], by rw [hfreed], fun y hy hne => mem_groups_freed hy hne,
    completed s o g, findGroup_freed hg, by rw [heq], by rw [heq], by rw [heq], by rw [heq],
    fun n hn => readS_completed s o hlisted hn, fun i hi => ?_, fun w hw => ?_⟩
  · exact ⟨fun n hn => readV_completed s o hlisted hi hn, fun n hn => readP_completed s o g hi hn, rfl,
      field_lane_completed Lane.pc (fun _ _ _ => rfl) (fun _ _ => rfl) s o g i,
      field_lane_completed Lane.loops (fun _ _ _ => rfl) (fun _ _ => rfl) s o g i,
      field_lane_completed Lane.ctr (fun _ _ _ => rfl) (fun _ _ => rfl) s o g i, fp_completed s o g hi⟩
  · have hwid : (w.wid == o.wid) = true := by simpa using List.find?_some hw
    refine ⟨w.subFlag o.flag, by rw [findWarp_completed, hw, Option.map_some, if_pos hwid], fun hflag => ?_⟩
    rw [Warp.subFlag, if_neg hflag, get_put_of_rising (hlisted.findWarp hw), if_pos rfl]

end Sys2Proof
end

section
/-!
SUPPORT. Compares, selections, addresses, predicate logic, moves, special registers and random draws issue with their results
(R81, R247 to R251, R260).
-/

namespace Sys2Proof.Claims

open Sys2Proof.Machine

/-! ### Results by the rows of an instruction -/

theorem mem_of_mem_dstRows {d : Reg} {rows : List Row} {r : Row} (hr : r ∈ dstRows d rows) : r ∈ rows := by
  cases d with
  | v n => exact hr
  | s n => exact List.mem_of_mem_take hr

theorem regOut_congr {s : State} {wide : Bool} {d : Reg} {f res : Row → Res} {rows : List Row} (h : ∀ r ∈ rows, f r = res r) :
    s.regOut wide d f rows = s.regOut wide d res rows := by
  have hrow : ∀ r ∈ dstRows d rows, f r = res r := fun r hr => h r (mem_of_mem_dstRows hr)
  rw [State.regOut, State.regOut, List.flatMap_def, List.flatMap_def]
  exact congrArg List.flatten (List.map_congr_left fun r hr => by rw [hrow r hr])

theorem fpOut_congr {f res : Row → Res} {rows : List Row} (h : ∀ r ∈ rows, f r = res r) : fpOut f rows = fpOut res rows :=
  List.map_congr_left fun r hr => by rw [h r (List.mem_of_mem_filter hr)]

theorem predOut_congr {s : State} {n : Nat} {f res : Row → Bool} {rows : List Row} (h : ∀ r ∈ rows, f r = res r) :
    s.predOut n f rows = s.predOut n res rows :=
  List.map_congr_left fun r hr => by rw [h r hr]

section Reads

variable {s t : State} {h : Hdr} {i : Instr} {e : Env} {dst : List Nat} {args : List Arg} {qs : List (List (Word × Nat))} {lat : Nat}

/-- A word of fixed latency issues with what it computes of its rows (R31, R225). -/
theorem exec_fixed_of_reads {lat : Env → Nat} {out : State → Env → List Row → Writes}
    (hx : ∀ s, exec i s = .next (s.fixed h i dst args lat out)) (hr : Reads s h e dst args t qs) {w : Writes}
    (hw : out s e (s.rows e args qs) = w) : exec i s = .next (issued s t e h i (lat e) w) := by
  subst hw
  exact launches_of_fixedQ hx s e t qs hr

/-- A word with one register result issues with what each lane's operands make of it. -/
theorem exec_alu_of_reads {wide : Bool} {d : Reg} {f : List Opnd → Res} (hx : ∀ s, exec i s = .next (s.alu h i lat wide d args f))
    (hr : Reads s h e (regCodes wide d) args t qs) {res : Row → Res} (hres : ∀ r ∈ s.rows e args qs, f r.2 = res r) :
    exec i s = .next (issued s t e h i lat (s.regOut wide d res (s.rows e args qs), fpOut res (s.rows e args qs))) :=
  exec_fixed_of_reads (lat := fun _ => lat)
    (out := fun s _ rows => (s.regOut wide d (fun r => f r.2) rows, fpOut (fun r => f r.2) rows)) hx hr
    (Prod.ext (regOut_congr hres) (fpOut_congr hres))

/-- A word with one predicate result issues with what each lane's operands make of it. -/
theorem exec_aluP_of_reads {pd : Nat} {f : List Opnd → Bool} (hx : ∀ s, exec i s = .next (s.aluP h i lat pd args f))
    (hr : Reads s h e [] args t qs) {res : Row → Bool} (hres : ∀ r ∈ s.rows e args qs, f r.2 = res r) :
    exec i s = .next (issued s t e h i lat (s.predOut pd res (s.rows e args qs), [])) :=
  exec_fixed_of_reads (lat := fun _ => lat) (out := fun s _ rows => (s.predOut pd (fun r => f r.2) rows, [])) hx hr
    (Prod.ext (predOut_congr hres) rfl)

end Reads

/-- What holds of the operands that a lane has read holds of its row. -/
theorem forall_mem_rows {s : State} {e : Env} {args : List Arg} {qs : List (List (Word × Nat))} {P : Row → Prop}
    (h : ∀ l, P (l, (s.readArgs e l 0 args qs).map (Opnd.lose (e.lost.contains l)))) : ∀ r ∈ s.rows e args qs, P r := by
  intro r hr
  obtain ⟨l, -, rfl⟩ := List.mem_map.1 hr
  exact h l

/-! ### Moves between s registers -/

/-- The state in which a move between s registers has issued (R251). -/
def afterMove (s : State) (e : Env) (h : Hdr) (i : Instr) (ty : Ty) (haz : Bool) (d a : Nat) : State :=
  let x := s.readReg e.g ty.is64 0 e.low (.s a)
  s.addOp { e.op s h i with
    writes := regWrites ty.is64 (.s d) e.low (.of (if haz || x.haz then s.free 700 e.low else x.val) 0)
    due := some (s.now e.g + latInt ty) }

/-- Both numbers within the allotment, the move issues. -/
theorem smovAt_of_within {s : State} {e : Env} {ty : Ty} {d a : Nat} (h : Hdr) (i : Instr) (haz : Bool)
    (hd : (d : Int) + (if ty.is64 then 2 else 1) ≤ e.g.allot.s) (ha : (a : Int) + (if ty.is64 then 2 else 1) ≤ e.g.allot.s) :
    s.smovAt e h i ty haz d a = afterMove s e h i ty haz d a := by
  rw [State.smovAt, if_neg (by omega)]
  rfl

/-- The index of a move between s registers, as the lowest lane of `active` reads it. -/
def moveIndex (s : State) (e : Env) (o : SmovOps) : Opnd := s.readArg e 1 e.low [] (.of .b32 o.idx)

/-- The number that a move into a register of an index read too early picks (R31, R251). -/
def openNumber (s : State) (e : Env) (ty : Ty) : Nat := s.free 731 e.low % (e.g.allot.s + 1 - (if ty.is64 then 2 else 1))

/-- It is within the allotment, as any register is. -/
theorem openNumber_within (s : State) (e : Env) {ty : Ty} {a : Nat} (ha : (a : Int) + (if ty.is64 then 2 else 1) ≤ e.g.allot.s) :
    (openNumber s e ty : Int) + (if ty.is64 then 2 else 1) ≤ e.g.allot.s := by
  have hwidth : ((if ty.is64 then 2 else 1 : Nat) : Int) = if ty.is64 then 2 else 1 := by split <;> rfl
  have hlt : openNumber s e ty < e.g.allot.s + 1 - (if ty.is64 then 2 else 1) := Nat.mod_lt _ (by omega)
  omega

section Moves

variable {s : State} {h : Hdr} {e : Env} (ha : Acts s h e) (o : SmovOps)
include ha

/-- A move from a computed number within the allotment (R251). -/
theorem exec_smov_of_within (hcodes : e.g.codesFault (regCodes o.ty.is64 (.s o.d) ++ (Arg.of .b32 o.idx).codes) = none) {a : Nat}
    (hnum : (if (moveIndex s e o).haz then (o.d : Int) else o.a + smovIdx (moveIndex s e o)) = a)
    (hd : (o.d : Int) + (if o.ty.is64 then 2 else 1) ≤ e.g.allot.s) (hin : (a : Int) + (if o.ty.is64 then 2 else 1) ≤ e.g.allot.s) :
    exec (.smov h o) s = .next (afterMove s e h (.smov h o) o.ty (moveIndex s e o).haz o.d a) := by
  show execSmov h o s = _
  rw [execSmov, State.checked_of ha.issue ha.active hcodes, ← smovAt_of_within _ _ _ hd hin, ← hnum]
  simp only [sure_of_acts ha, if_true]
  rfl

/-- A move to a computed number within the allotment (R251). -/
theorem exec_smovSt_of_within (hcodes : e.g.codesFault (regCodes o.ty.is64 (.s o.a) ++ (Arg.of .b32 o.idx).codes) = none) {d : Nat}
    (hnum : (if (moveIndex s e o).haz then (openNumber s e o.ty : Int) else o.d + smovIdx (moveIndex s e o)) = d)
    (hd : (d : Int) + (if o.ty.is64 then 2 else 1) ≤ e.g.allot.s) (hin : (o.a : Int) + (if o.ty.is64 then 2 else 1) ≤ e.g.allot.s) :
    exec (.smovSt h o) s = .next (afterMove s e h (.smovSt h o) o.ty (moveIndex s e o).haz d o.a) := by
  show execSmovSt h o s = _
  rw [execSmovSt, State.checked_of ha.issue ha.active hcodes, ← smovAt_of_within _ _ _ hd hin, ← hnum]
  simp only [sure_of_acts ha, if_true]
  rfl

end Moves

end Sys2Proof.Claims

namespace Sys2Proof

open Sys2Proof.Machine Sys2Proof.Claims

/-- Settles O8: each word of fixed latency is one use of the shared frame, by what its rows hold; the moves between s registers by the numbers
that they pick. -/
theorem comparesAndMovesIssue : Obligations.ComparesAndMovesIssue := by
  refine ⟨?_, fun s t h e qs => ⟨?_, ?_, ?_, ?_, ?_, ?_, ?_, fun o hr => ?_, fun o hr => ?_⟩, ?_⟩
  · intro s e l t ht v a
    simp only [v, a, State.special, ht, Option.elim_some, Env.id, Group.stackNo, true_and, and_true]
    refine ⟨fun hkind => ?_, fun hcore => ?_, fun hstack => ?_⟩
    · simp [hkind]
    · simp [hcore]
    · simp [hstack]
  · intro o args hr
    exact exec_aluP_of_reads (fun _ => rfl) hr (forall_mem_rows fun _ => rfl)
  · intro o args res hr
    exact exec_alu_of_reads (fun _ => rfl) hr (forall_mem_rows fun _ => rfl)
  · intro o args res hr
    exact exec_alu_of_reads (fun _ => rfl) hr (forall_mem_rows fun _ => rfl)
  · intro o args hr
    exact exec_aluP_of_reads (fun _ => rfl) hr (forall_mem_rows fun _ => rfl)
  · intro o slot hr
    exact exec_fixed_of_reads (lat := fun _ => 4) (fun _ => rfl) hr (Prod.ext (List.flatMap_map ..) rfl)
  · intro o args res hr
    exact exec_alu_of_reads (fun _ => rfl) hr (forall_mem_rows fun _ => rfl)
  · intro o args res hr
    exact exec_alu_of_reads (fun _ => rfl) hr (forall_mem_rows fun _ => rfl)
  · exact exec_fixed_of_reads (lat := fun _ => 4) (fun _ => rfl) hr rfl
  · exact exec_fixed_of_reads (lat := fun _ => 8) (fun _ => rfl) hr rfl
  · intro s h o e ha k idx moved
    refine ⟨fun hcodes hd => ⟨fun hidx a hnum hin => ?_, fun hidx => ⟨o.d, ?_⟩⟩,
      fun hcodes hin => ⟨fun hidx d hnum hd => ?_, fun hidx => ⟨openNumber s e o.ty, openNumber_within s e hin, ?_⟩⟩⟩
    · exact exec_smov_of_within ha o hcodes ((if_neg (Bool.eq_false_iff.1 hidx)).trans hnum) hd hin
    · exact exec_smov_of_within ha o hcodes (if_pos hidx) hd hd
    · exact exec_smovSt_of_within ha o hcodes ((if_neg (Bool.eq_false_iff.1 hidx)).trans hnum) hd hin
    · exact exec_smovSt_of_within ha o hcodes (if_pos hidx) (openNumber_within s e hin) hin

end Sys2Proof
end

section
/-!
SUPPORT. Conversions, packing, quantisation, tags and FP flags issue with their results (R273 to R279).
-/

namespace Sys2Proof.Claims

open Sys2Proof.Machine

/-- FLAGS.SET and FLAGS.CLR capture a source that names only the five flags (R73, R279). -/
theorem flagsOp_of_small {s : State} {h : Hdr} {i : Instr} {o : DaOps} {e : Env} (ha : Acts s h e)
    (hcodes : e.g.codesFault [o.d.code, o.a.code] = none) (hsmall : ∀ r ∈ s.rows e [.any .b32 (.reg o.a)] [], r.fst < 32) :
    s.flagsOp h i o = s.addOp { e.op s h i with
      lvals := (s.rows e [.any .b32 (.reg o.a)] []).map fun r => (r.1, [r.fst])
      writes := (dstRows o.d (s.rows e [.any .b32 (.reg o.a)] [])).map fun r => ⟨r.1, o.d.code, 0, 2⟩
      due := some (s.now e.g + 4) } := by
  have hbad : (s.rows e [.any .b32 (.reg o.a)] []).filter (fun r => !e.lost.contains r.1 && r.fst / 32 != 0) = [] :=
    List.filter_eq_nil_iff.2 fun r hr => by simp [Nat.div_eq_of_lt (hsmall r hr)]
  rw [State.flagsOp]
  dsimp only
  rw [State.checked_of ha.issue ha.active hcodes]
  simp only [hbad, List.map_nil, List.isEmpty_nil, if_true, undefineLost_of_sure ha.sure]

end Sys2Proof.Claims

namespace Sys2Proof

open Sys2Proof.Machine Sys2Proof.Claims

/-- Settles O11: each conversion is one use of the shared frame of fixed latency; FLAGS.SET and FLAGS.CLR share their capture. -/
theorem conversionsIssue : Obligations.ConversionsIssue :=
  ⟨⟨fun _ _ => launches_of_fixedQ fun _ => rfl, fun _ _ => launches_of_fixedQ fun _ => rfl, fun _ _ => launches_of_fixedQ fun _ => rfl,
      fun _ _ => launches_of_fixedQ fun _ => rfl, fun _ _ => launches_of_fixedQ fun _ => rfl, fun _ _ => gives_of_alu fun _ => rfl,
      fun _ _ => gives_of_alu fun _ => rfl, fun _ _ => launches_of_fixedQ fun _ => rfl⟩,
    fun _ _ _ _ ha hcodes hsmall => ⟨congrArg Host.Outcome.next (flagsOp_of_small ha hcodes hsmall),
      congrArg Host.Outcome.next (flagsOp_of_small ha hcodes hsmall)⟩⟩

end Sys2Proof
end

section
/-!
SUPPORT. Fields of numbers, integers of a width with or without a sign, the elements of a register (R7, R14, R67, R85), and sparse maps
that list a function.
-/

namespace Sys2Proof.Claims

open Sys2Proof.Machine

/-! ### Fields of numbers (R14) -/

theorem slice_lt (x a n : Nat) : slice x a n < 2 ^ n := Nat.mod_lt _ (by positivity)

/-- A number with a field replaced is what stood below, the new field, and what stood above. -/
theorem setBits_eq (x a n v : Nat) : setBits x a n v = x % 2 ^ a + 2 ^ a * (v % 2 ^ n + 2 ^ n * (x / 2 ^ a / 2 ^ n)) := by
  have hfield : x / 2 ^ a = slice x a n + 2 ^ n * (x / 2 ^ a / 2 ^ n) := (Nat.mod_add_div _ _).symm
  have hx : x = x % 2 ^ a + 2 ^ a * (2 ^ n * (x / 2 ^ a / 2 ^ n)) + slice x a n * 2 ^ a := by
    calc x = x % 2 ^ a + 2 ^ a * (x / 2 ^ a) := (Nat.mod_add_div _ _).symm
      _ = x % 2 ^ a + 2 ^ a * (slice x a n + 2 ^ n * (x / 2 ^ a / 2 ^ n)) := by rw [← hfield]
      _ = _ := by ring
  have hclear : x - slice x a n * 2 ^ a = x % 2 ^ a + 2 ^ a * (2 ^ n * (x / 2 ^ a / 2 ^ n)) := Nat.sub_eq_of_eq_add hx
  rw [setBits, hclear]
  ring

/-- The field replaced reads as what is put there. -/
theorem slice_setBits (x a n v : Nat) : slice (setBits x a n v) a n = v % 2 ^ n := by
  have hlow : x % 2 ^ a < 2 ^ a := Nat.mod_lt _ (by positivity)
  rw [setBits_eq, slice, Nat.add_mul_div_left _ _ (by positivity), Nat.div_eq_of_lt hlow, Nat.zero_add, Nat.add_mul_mod_self_left, Nat.mod_mod]

/-- The bits outside the field stay. -/
theorem bitAt_setBits_of_outside {x a n v k : Nat} (hk : k < a ∨ a + n ≤ k) : bitAt (setBits x a n v) k = bitAt x k := by
  have hlow : x % 2 ^ a < 2 ^ a := Nat.mod_lt _ (by positivity)
  rw [bitAt_eq_testBit, bitAt_eq_testBit, setBits_eq, Nat.add_comm, Nat.testBit_two_pow_mul_add _ hlow]
  rcases hk with hk | hk
  · rw [if_pos hk, Nat.testBit_mod_two_pow, decide_eq_true hk, Bool.true_and]
  · obtain ⟨j, rfl⟩ := Nat.exists_eq_add_of_le hk
    have hfield : v % 2 ^ n < 2 ^ n := Nat.mod_lt _ (by positivity)
    rw [if_neg (by omega), show a + n + j - a = n + j by omega, Nat.add_comm, Nat.testBit_two_pow_mul_add _ hfield, if_neg (by omega),
      Nat.add_sub_cancel_left, Nat.testBit_div_two_pow, Nat.testBit_div_two_pow]
    congr 1
    omega

/-- A field within the width leaves the number within it. -/
theorem setBits_lt {x a n v w : Nat} (hx : x < 2 ^ w) (hfit : a + n ≤ w) : setBits x a n v < 2 ^ w := by
  refine Nat.lt_pow_two_of_testBit _ fun k hk => ?_
  rw [← bitAt_eq_testBit, bitAt_setBits_of_outside (.inr (hfit.trans hk)), bitAt_eq_testBit]
  exact Nat.testBit_lt_two_pow (hx.trans_le (Nat.pow_le_pow_right (by decide) hk))

theorem toNat_ofNat_setBits {w a n : Nat} (hfit : a + n ≤ w) (v : BitVec w) (x : Nat) :
    (BitVec.ofNat w (setBits v.toNat a n x)).toNat = setBits v.toNat a n x := by
  rw [BitVec.toNat_ofNat, Nat.mod_eq_of_lt (setBits_lt v.isLt hfit)]

/-! ### Integers of a width (R7, R85) -/

/-- An `n`-bit pattern as a number, two's complement where `sgn` says so. -/
def readAs (sgn : Bool) (n x : Nat) : Int := if sgn then signed n x else (x % 2 ^ n : Nat)

/-- The least and the greatest number of `n` bits. -/
def leastOf (sgn : Bool) (n : Nat) : Int := if sgn then -(2 ^ (n - 1) : Nat) else 0
def greatestOf (sgn : Bool) (n : Nat) : Int := if sgn then (2 ^ (n - 1) : Nat) - 1 else (2 ^ n : Nat) - 1

theorem intVal_eq_readAs (ty : Ty) (x : Nat) : intVal ty x = readAs ty.isSigned (Ty.bits ty) x := rfl

/-- Half of the patterns have the sign bit. -/
theorem two_pow_eq_double {n : Nat} (hn : 0 < n) : 2 ^ n = 2 * 2 ^ (n - 1) := by
  rw [← pow_succ', Nat.sub_add_cancel hn]

theorem wrap_lt (n : Nat) (x : Int) : wrap n x < 2 ^ n := by
  have hpos : (0 : Int) < (2 ^ n : Nat) := by positivity
  have hlt : x % ((2 ^ n : Nat) : Int) < (2 ^ n : Nat) := Int.emod_lt_of_pos _ hpos
  rw [wrap]
  omega

theorem natCast_wrap (n : Nat) (x : Int) : (wrap n x : Int) = x % ((2 ^ n : Nat) : Int) :=
  Int.toNat_of_nonneg (Int.emod_nonneg _ (by positivity))

/-- Read with a sign or not, a pattern stands for its own number or for that less 2^n. -/
theorem readAs_eq_or (sgn : Bool) {n x : Nat} (hx : x < 2 ^ n) :
    readAs sgn n x = x ∨ readAs sgn n x = x - (2 ^ n : Nat) := by
  rw [readAs, signed, Nat.mod_eq_of_lt hx]
  split
  · split
    · exact .inl rfl
    · exact .inr rfl
  · exact .inl rfl

theorem readAs_mem (sgn : Bool) {n : Nat} (hn : 0 < n) (x : Nat) : leastOf sgn n ≤ readAs sgn n x ∧ readAs sgn n x ≤ greatestOf sgn n := by
  have hlt : x % 2 ^ n < 2 ^ n := Nat.mod_lt _ (by positivity)
  have hhalf := two_pow_eq_double hn
  cases sgn
  · simp only [readAs, leastOf, greatestOf, Bool.false_eq_true, if_false]
    omega
  · simp only [readAs, leastOf, greatestOf, signed, if_true]
    split <;> omega

/-- What is kept of an exact integer differs from it by a multiple of 2^n. -/
theorem sub_readAs_wrap_emod (sgn : Bool) (n : Nat) (x : Int) : (x - readAs sgn n (wrap n x)) % ((2 ^ n : Nat) : Int) = 0 := by
  have hdvd : ((2 ^ n : Nat) : Int) ∣ x - x % ((2 ^ n : Nat) : Int) := Int.dvd_self_sub_emod
  refine Int.emod_eq_zero_of_dvd ?_
  rcases readAs_eq_or sgn (wrap_lt n x) with h | h <;> rw [h, natCast_wrap]
  · exact hdvd
  · rw [← sub_add]
    exact dvd_add hdvd (dvd_refl _)

/-- An integer within the range is kept. -/
theorem readAs_wrap_of_mem (sgn : Bool) {n : Nat} (hn : 0 < n) {x : Int} (hlow : leastOf sgn n ≤ x) (hhigh : x ≤ greatestOf sgn n) :
    readAs sgn n (wrap n x) = x := by
  obtain ⟨hlow', hhigh'⟩ := readAs_mem sgn hn (wrap n x)
  have hwidth : greatestOf sgn n - leastOf sgn n < (2 ^ n : Nat) := by
    have hhalf := two_pow_eq_double hn
    cases sgn <;> simp only [leastOf, greatestOf, Bool.false_eq_true, if_false, if_true] <;> omega
  have hzero : x - readAs sgn n (wrap n x) = 0 :=
    Int.eq_zero_of_abs_lt_dvd (Int.dvd_of_emod_eq_zero (sub_readAs_wrap_emod sgn n x)) (abs_lt.2 ⟨by omega, by omega⟩)
  omega

theorem leastOf_le_greatestOf (sgn : Bool) {n : Nat} (hn : 0 < n) : leastOf sgn n ≤ greatestOf sgn n :=
  (readAs_mem sgn hn 0).1.trans (readAs_mem sgn hn 0).2

/-- A clamped integer is kept as it is. -/
theorem readAs_wrap_clampInt (sgn : Bool) {n : Nat} (hn : 0 < n) (x : Int) :
    readAs sgn n (wrap n (clampInt (leastOf sgn n) (greatestOf sgn n) x)) = clampInt (leastOf sgn n) (greatestOf sgn n) x := by
  have hle := leastOf_le_greatestOf sgn hn
  refine readAs_wrap_of_mem sgn hn ?_ ?_ <;> unfold clampInt <;> grind

/-! ### Results of a type (R85) -/

theorem intRes_lt (ty : Ty) (sat : Bool) (x : Int) : intRes ty sat x < 2 ^ Ty.bits ty := wrap_lt _ _

theorem bits_pos (ty : Ty) : 0 < Ty.bits ty := by cases ty <;> decide

theorem bits_mem {ty : Ty} (h : ty.isInt = true) : Ty.bits ty ∈ [8, 16, 32, 64] := by
  cases ty <;> simp [Ty.isInt, Ty.bits] at h ⊢

theorem intVal_of_lt {ty : Ty} {b : Nat} (hb : b < 2 ^ Ty.bits ty) :
    intVal ty b = if ty.isSigned ∧ 2 ^ (Ty.bits ty - 1) ≤ b then (b : Int) - (2 ^ Ty.bits ty : Nat) else b := by
  rw [intVal, signed, Nat.mod_eq_of_lt hb]
  cases ty.isSigned <;> grind

theorem intVal_intRes_sat (ty : Ty) (x : Int) : intVal ty (intRes ty true x) = clampInt (Ty.lo ty) (Ty.hi ty) x :=
  readAs_wrap_clampInt ty.isSigned (bits_pos ty) x

theorem intVal_mem (ty : Ty) (x : Nat) : Ty.lo ty ≤ intVal ty x ∧ intVal ty x ≤ Ty.hi ty := readAs_mem ty.isSigned (bits_pos ty) x

/-! ### Elements (R67) -/

/-- An element of a register built from its elements. -/
theorem slice_ofElems (ty : Ty) (xs : List Nat) (k : Nat) : slice (ofElems ty xs) (k * Ty.bits ty) (Ty.bits ty) = xs.getD k 0 % 2 ^ Ty.bits ty := by
  induction xs generalizing k with
  | nil => simp [ofElems, slice]
  | cons x xs ih =>
    have hlow : x % 2 ^ Ty.bits ty < 2 ^ Ty.bits ty := Nat.mod_lt _ (by positivity)
    cases k with
    | zero => simp [ofElems, slice]
    | succ k =>
      rw [List.getD_cons_succ, ← ih k, slice, slice, ofElems, Nat.succ_mul, Nat.add_comm (k * _), pow_add, ← Nat.div_div_eq_div_mul,
        Nat.add_mul_div_left _ _ (by positivity), Nat.div_eq_of_lt hlow, Nat.zero_add]

theorem getD_elems {ty : Ty} {k : Nat} (hk : k < Ty.count ty) (x : Nat) : (elems ty x).getD k 0 = slice x (k * Ty.bits ty) (Ty.bits ty) := by
  simp [elems, List.getD_eq_getElem?_getD, hk]

/-- A register built element by element gives each back, cut to the width. -/
theorem getD_elems_ofElems {ty : Ty} {k : Nat} (hk : k < Ty.count ty) (f : Nat → Nat) :
    (elems ty (ofElems ty ((List.range (Ty.count ty)).map f))).getD k 0 = f k % 2 ^ Ty.bits ty := by
  rw [getD_elems hk, slice_ofElems]
  simp [List.getD_eq_getElem?_getD, hk]

theorem map_elems {α : Type} (ty : Ty) (f : Nat → α) (a : Nat) :
    (elems ty a).map f = (List.range (Ty.count ty)).map fun k => f (slice a (k * Ty.bits ty) (Ty.bits ty)) := List.map_map ..

/-- The elements of a register are combined place by place with what stands at each place. -/
theorem zipWith_elems_map {α β : Type} (ty : Ty) (f : Nat → α → β) (a : Nat) (g : Nat → α) :
    List.zipWith f (elems ty a) ((List.range (Ty.count ty)).map g) =
      (List.range (Ty.count ty)).map fun k => f (slice a (k * Ty.bits ty) (Ty.bits ty)) (g k) := by
  rw [elems, List.zipWith_map, List.zipWith_self]

theorem zipWith_elems {α : Type} (ty : Ty) (f : Nat → Nat → α) (a b : Nat) :
    List.zipWith f (elems ty a) (elems ty b) = (List.range (Ty.count ty)).map fun k =>
      f (slice a (k * Ty.bits ty) (Ty.bits ty)) (slice b (k * Ty.bits ty) (Ty.bits ty)) := zipWith_elems_map ..

/-! ### Sparse maps given by a function -/

theorem get_filterMap_range' {α : Type} [DecidableEq α] (d : α) (f : Nat → α) (m a n : Nat) :
    NMap.get d ((List.range' a m).filterMap fun k => if f k = d then none else some (k, f k)) n = if a ≤ n ∧ n < a + m then f n else d := by
  induction m generalizing a with
  | zero => grind [NMap.get]
  | succ m ih =>
    have hrest := ih (a + 1)
    rw [List.range'_succ, List.filterMap_cons]
    by_cases hd : f a = d
    · rw [if_pos hd]
      grind
    · rw [if_neg hd]
      grind [NMap.get]

/-- A map that lists what a function gives below a bound reads as the function there. -/
theorem get_filterMap_range {α : Type} [DecidableEq α] (d : α) (f : Nat → α) {m n : Nat} (hn : n < m) :
    NMap.get d ((List.range m).filterMap fun k => if f k = d then none else some (k, f k)) n = f n := by
  rw [List.range_eq_range', get_filterMap_range', if_pos ⟨Nat.zero_le n, by omega⟩]

end Sys2Proof.Claims
end

section
/-!
SUPPORT. What integer results and atomics compute (R85, R95, R268, R292, R294).
-/

namespace Sys2Proof.Claims

open Sys2Proof.Machine

/-! ### Elements of integer results (R242) -/

section Elements

variable {ty : Ty} {k : Nat} (hk : k < Ty.count ty)
include hk

theorem getD_elems_intOp1 (sat : Bool) (f : Int → Int) (a : Opnd) :
    (elems ty (intOp1 ty sat f a).val).getD k 0 = intRes ty sat (f (intVal ty ((elems ty a.val).getD k 0))) := by
  rw [getD_elems hk a.val, intOp1, Res.of, map_elems, getD_elems_ofElems hk]
  exact Nat.mod_eq_of_lt (intRes_lt ..)

theorem getD_elems_intOp2 (sat : Bool) (f : Int → Int → Int) (a b : Opnd) :
    (elems ty (intOp2 ty sat f a b).val).getD k 0 =
      intRes ty sat (f (intVal ty ((elems ty a.val).getD k 0)) (intVal ty ((elems ty b.val).getD k 0))) := by
  rw [getD_elems hk a.val, getD_elems hk b.val, intOp2, Res.of, zipWith_elems, getD_elems_ofElems hk]
  exact Nat.mod_eq_of_lt (intRes_lt ..)

theorem getD_elems_intOp3 (sat : Bool) (f : Int → Int → Int → Int) (a b c : Opnd) :
    (elems ty (intOp3 ty sat f a b c).val).getD k 0 = intRes ty sat (f (intVal ty ((elems ty a.val).getD k 0))
      (intVal ty ((elems ty b.val).getD k 0)) (intVal ty ((elems ty c.val).getD k 0))) := by
  have hpairs : (elems ty b.val).zip (elems ty c.val) = (List.range (Ty.count ty)).map fun k =>
      (slice b.val (k * Ty.bits ty) (Ty.bits ty), slice c.val (k * Ty.bits ty) (Ty.bits ty)) := zipWith_elems ty Prod.mk ..
  rw [getD_elems hk a.val, getD_elems hk b.val, getD_elems hk c.val, intOp3, Res.of, hpairs, zipWith_elems_map,
    getD_elems_ofElems hk]
  exact Nat.mod_eq_of_lt (intRes_lt ..)

end Elements

/-! ### Codes of a format (R86, R95) -/

theorem maxCode_lt (f : Fmt) : f.maxCode < f.signBit := by
  have hsign : (2 ^ f.ebits - 1) * 2 ^ f.mbits ≤ f.signBit := by
    rw [Fmt.signBit, pow_add]
    exact Nat.mul_le_mul_right _ (Nat.sub_le ..)
  have hpos : 0 < f.signBit := by rw [Fmt.signBit]; positivity
  rw [Fmt.maxCode]
  split <;> omega

theorem infCode_add_le (f : Fmt) : f.infCode + 2 ^ f.mbits ≤ f.signBit := by
  have hpos : 0 < 2 ^ f.ebits := by positivity
  rw [Fmt.infCode, Fmt.signBit, pow_add, ← Nat.succ_mul]
  exact Nat.mul_le_mul_right _ (by omega)

theorem infCode_lt (f : Fmt) : f.infCode < f.signBit :=
  (Nat.lt_add_of_pos_right (by positivity)).trans_le (infCode_add_le f)

theorem nanCode_le (f : Fmt) : f.nanCode ≤ f.signBit := by
  have hhalf : 2 ^ (f.mbits - 1) ≤ 2 ^ f.mbits := Nat.pow_le_pow_right (by decide) (Nat.sub_le ..)
  have hinf := infCode_add_le f
  rw [Fmt.nanCode]
  split <;> omega

theorem signPart_le (f : Fmt) (neg : Bool) : (if neg then f.signBit else 0) ≤ f.signBit := by
  split <;> omega

theorem overflowCode_lt (f : Fmt) (rnd : Rnd) (sat neg : Bool) : overflowCode f rnd sat neg < 2 * f.signBit := by
  have hmag : ∀ c : Bool, (if c then f.infCode else f.maxCode) < f.signBit := fun c => by
    split
    · exact infCode_lt f
    · exact maxCode_lt f
  unfold overflowCode
  rw [two_mul]
  exact Nat.add_lt_add_of_lt_of_le (hmag _) (signPart_le f neg)

theorem roundFin_code_lt (f : Fmt) (rnd : Rnd) (sat : Bool) (u : Nat) (neg : Bool) (n d : Nat) :
    (roundFin f rnd sat u neg n d).code < 2 * f.signBit := by
  have hmax := maxCode_lt f
  have hsign := signPart_le f neg
  unfold roundFin
  extract_lets e emin q p m exact code
  split
  · exact overflowCode_lt ..
  · dsimp only
    omega

/-- Every rounded result is a code of its format. -/
theorem roundTo_code_lt (f : Fmt) (rnd : Rnd) (sat conv : Bool) (u : Nat) (v : FVal) : (roundTo f rnd sat conv u v).code < 2 * f.signBit := by
  have hmax := maxCode_lt f
  have hinf := infCode_lt f
  have hnan := nanCode_le f
  cases v with
  | nan =>
    rw [roundTo]
    split <;> dsimp only <;> omega
  | inf neg =>
    have hsign := signPart_le f neg
    rw [roundTo]
    split <;> dsimp only <;> omega
  | fin neg n d =>
    rw [roundTo]
    split
    · have hsign := signPart_le f neg
      dsimp only
      omega
    · exact roundFin_code_lt ..

theorem faddE_code_lt (f : Fmt) (rnd : Rnd) (sat : Bool) (u x y : Nat) : (faddE f rnd sat u x y).code < 2 * f.signBit := by
  rw [faddE]
  split
  · exact (nanCode_le f).trans_lt (by have := maxCode_lt f; omega)
  · exact roundTo_code_lt ..

/-! ### Floating-point atomics (R294) -/

theorem FVal.add_nan (down : Bool) {x y : FVal} (h : x.isNan = true ∨ y.isNan = true) : FVal.add down x y = .nan := by
  cases x <;> cases y <;> simp_all [FVal.isNan, FVal.add]

/-- An invalid sum and a sum with a NaN are the canonical NaN (R95, R99). -/
theorem faddE_code_of_invalid {f : Fmt} (hf : f.special = .ieee) (rnd : Rnd) (sat : Bool) (u : Nat) {x y : Nat}
    (h : (f.value x).isNan = true ∨ (f.value y).isNan = true ∨ (f.value x).badSum (f.value y) = true) :
    (faddE f rnd sat u x y).code = f.nanCode := by
  rw [faddE]
  split
  · rfl
  · have hnan : (f.value x).isNan = true ∨ (f.value y).isNan = true := by grind
    rw [FVal.add_nan _ hnan, roundTo, if_neg (by simp [hf])]

theorem faddE_code_of_valid {f : Fmt} (sat : Bool) (u : Nat) {x y : Nat} (h : (f.value x).badSum (f.value y) = false) :
    (faddE f .rn sat u x y).code = (roundTo f .rn sat false u (FVal.add false (f.value x) (f.value y))).code := by
  rw [faddE, if_neg (by simp [h])]
  rfl

theorem fminCode_lt {x y : Nat} (max : Bool) (hx : x < 2 ^ 32) (hy : y < 2 ^ 32) : fminCode max x y < 2 ^ 32 := by
  have hnan : fp32.nanCode < 2 ^ 32 := by decide
  have heither : ∀ c : Bool, (if c then x else y) < 2 ^ 32 := fun c => by split <;> assumption
  unfold fminCode
  split
  · exact hnan
  · exact hy
  · exact hx
  · exact heither _

/-- A floating-point atomic acts element by element. -/
theorem atomNew_of_float {ty : Ty} (hty : ty ∈ [.f32, .bf16, .f16]) (op : AtomOp) (old b c : Nat) :
    atomNew op ty old b c = ofElems ty (List.zipWith (atomF op (Ty.fmt ty)) (elems ty old) (elems ty b)) := by
  unfold atomNew
  rw [if_pos (by simpa using hty)]

theorem signBit_fmt {ty : Ty} (hty : ty ∈ [.f32, .bf16, .f16]) : (Ty.fmt ty).special = .ieee ∧ 2 * (Ty.fmt ty).signBit = 2 ^ Ty.bits ty := by
  simp only [List.mem_cons, List.not_mem_nil, or_false] at hty
  rcases hty with rfl | rfl | rfl <;> decide

theorem getD_elems_atomNew_add {ty : Ty} (hty : ty ∈ [.f32, .bf16, .f16]) {k : Nat} (hk : k < Ty.count ty) (old b c : Nat) :
    (elems ty (atomNew .add ty old b c)).getD k 0 =
      (faddE (Ty.fmt ty) .rn false 0 ((elems ty old).getD k 0) ((elems ty b).getD k 0)).code := by
  rw [atomNew_of_float hty, zipWith_elems, getD_elems_ofElems hk, getD_elems hk, getD_elems hk]
  exact Nat.mod_eq_of_lt ((signBit_fmt hty).2 ▸ faddE_code_lt ..)

/-- An FP32 atomic acts on the whole register. -/
theorem atomNew_f32 (op : AtomOp) {old b : Nat} (c : Nat) (hold : old < 2 ^ 32) (hb : b < 2 ^ 32) (hres : atomF op fp32 old b < 2 ^ 32) :
    atomNew op .f32 old b c = atomF op fp32 old b := by
  have hwhole : ∀ x < 2 ^ 32, elems .f32 x = [x] := fun x hx => by
    show [slice x (0 * 32) 32] = [x]
    rw [slice, Nat.zero_mul, pow_zero, Nat.div_one, Nat.mod_eq_of_lt hx]
  rw [atomNew_of_float (by decide), hwhole old hold, hwhole b hb]
  show atomF op fp32 old b % 2 ^ 32 + 2 ^ 32 * 0 = _
  rw [Nat.mod_eq_of_lt hres, Nat.mul_zero, Nat.add_zero]

/-! ### Integer atomics (R292) -/

theorem not_float_of_int {ty : Ty} (hty : ty.isInt = true ∨ ty = .b32) : ¬ (ty = .f32 ∨ ty = .bf16 ∨ ty = .f16) := by
  rintro (rfl | rfl | rfl) <;> simp [Ty.isInt] at hty

theorem wrap_natCast (n x : Nat) : wrap n (x : Int) = x % 2 ^ n := by
  rw [wrap, ← Int.natCast_mod, Int.toNat_natCast]

end Sys2Proof.Claims

namespace Sys2Proof

open Sys2Proof.Machine Sys2Proof.Claims

/-- Settles O5: the exact result is narrowed by what two's complement keeps modulo 2^n, and packed types are built element by element. -/
theorem integerResultsWrapOrClamp : Obligations.IntegerResultsWrapOrClamp := by
  intro ty hty n lo hi
  refine ⟨bits_mem hty, fun b hb => intVal_of_lt hb, fun x => ⟨?_, ?_, fun sat => ?_⟩, ?_⟩
  · exact sub_readAs_wrap_emod ty.isSigned n x
  · exact intVal_intRes_sat ty x
  · exact ⟨(intVal_mem ty _).1, (intVal_mem ty _).2, intRes_lt ty sat x⟩
  · intro sat f g u a b c k hk e
    exact ⟨getD_elems_intOp2 hk sat f a b, getD_elems_intOp1 hk sat g a, getD_elems_intOp3 hk sat u a b c, rfl, rfl, rfl⟩

/-- Settles O35: floating-point atomics by their sum's code, which fits its element; integer atomics by the definition of each operation. -/
theorem atomicsCompute : Obligations.AtomicsCompute := by
  constructor
  · intro ty old b c k hty hk e f
    refine ⟨getD_elems_atomNew_add hty hk old b c, fun x y h => faddE_code_of_invalid (signBit_fmt hty).1 _ _ _ h,
      fun x y _ _ h => faddE_code_of_valid _ _ h, ?_⟩
    rintro rfl hold hb
    exact ⟨atomNew_f32 .min c hold hb (fminCode_lt false hold hb), atomNew_f32 .max c hold hb (fminCode_lt true hold hb)⟩
  · intro ty old b c hty hold hb
    simp only [atomNew, not_float_of_int hty, if_false]
    refine ⟨?_, ?_, ?_, fun k => ?_, fun k => ?_, fun k => ?_, trivial, trivial, trivial, trivial⟩
    · exact_mod_cast wrap_natCast (Ty.bits ty) (old + b)
    · split <;> omega
    · split <;> omega
    · simp only [bitAt_eq_testBit, Nat.testBit_and]
    · simp only [bitAt_eq_testBit, Nat.testBit_or]
    · simp only [bitAt_eq_testBit, Nat.testBit_xor, bne]

end Sys2Proof
end

section
/-!
SUPPORT. Cross-lane instructions and floating-point arithmetic issue with their results (R108, R251 to R272).
-/

namespace Sys2Proof.Claims

open Sys2Proof.Machine

section Reads

variable {s t : State} {h : Hdr} {i : Instr} {e : Env} {dst : List Nat} {args : List Arg} {qs : List (List (Word × Nat))}

/-- The shared frame of fixed latency, where the operands can be read, puts the operation in flight (R31, R225). -/
theorem fixedQ_of_reads (hr : Reads s h e dst args t qs) (i : Instr) (lat : Env → Nat)
    (out : State → Env → List (List (Word × Nat)) → List Row → Writes) :
    s.fixedQ h i dst args lat out = issued s t e h i (lat e) (out s e qs (s.rows e args qs)) := by
  obtain ⟨⟨henv, hact, hlost⟩, hwithin, hpops, htags⟩ := hr
  exact State.fixedQ_of henv hact hlost hwithin hpops htags

/-- A word of fixed latency that looks at the words popped issues with what it computes of them and of its rows. -/
theorem exec_fixedQ_of_reads {lat : Env → Nat} {out : State → Env → List (List (Word × Nat)) → List Row → Writes}
    (hx : ∀ s, exec i s = .next (s.fixedQ h i dst args lat out)) (hr : Reads s h e dst args t qs) {w : Writes}
    (hw : out s e qs (s.rows e args qs) = w) : exec i s = .next (issued s t e h i (lat e) w) := by
  rw [hx, fixedQ_of_reads hr, hw]

end Reads

/-! ### Across lanes -/

/-- All lanes say yes where as many do as there are (R257). -/
theorem length_filter_beq_length {α : Type} (p : α → Bool) (xs : List α) : ((xs.filter p).length == xs.length) = xs.all p := by
  rw [Bool.eq_iff_iff, beq_iff_eq, List.length_filter_eq_length_iff, List.all_eq_true]

theorem isEmpty_filter_eq_not_any {α : Type} (p : α → Bool) (xs : List α) : (xs.filter p).isEmpty = !xs.any p := by
  rw [Bool.eq_iff_iff, List.isEmpty_iff, List.filter_eq_nil_iff, Bool.not_eq_true', List.any_eq_false]

/-- A combination of lanes issues with what each lane makes of the rows that it covers, and keeps the lanes whose sums stray (R108, R258). -/
theorem reduce_of_reads {s t : State} {h : Hdr} {e : Env} {d : Reg} {ty : Ty} {a : Src} {qs : List (List (Word × Nat))}
    (hr : Reads s h e (regCodes ty.is64 d) [.of ty a] t qs) (i : Instr) (op : RedOp) (sat : Bool) (rnd : Rnd) (cover : Nat → Nat → Bool) :
    let rows := s.rows e [.of ty a] qs
    let covered := fun (lane : Nat) => rows.filter fun r => cover lane r.1
    let res := fun (lane : Nat) => redVal op ty sat rnd ((covered lane).map Row.fst)
    s.reduce h i op ty sat rnd d a cover = (issued s t e h i (latRed ty e)
      (s.regOut ty.is64 d (fun r => .of (res r.1).code (Ty.tag ty)) (rows.map fun r => taint ((covered r.1).any Row.haz) r),
        if rows.any Row.haz then [] else rows.map fun r => (r.1, BitVec.ofNat 5 (rows.foldl (fun m r => m ||| (res r.1).fl) 0)))).modOp
      s.nextOp fun o => { o with vals := s.straySums h op ty rnd a cover } :=
  congrArg (fun u => State.modOp u s.nextOp fun o => { o with vals := s.straySums h op ty rnd a cover }) (fixedQ_of_reads hr i (latRed ty) _)

end Sys2Proof.Claims

namespace Sys2Proof

open Sys2Proof.Machine Sys2Proof.Claims

/-- Settles O9: each instruction is one use of the shared frame, with the lanes it looks at beside its own row; a reduction combines all rows, a
scan those that it covers. -/
theorem crossLaneIssues : Obligations.CrossLaneIssues := by
  refine fun s t h e qs => ⟨?_, ?_, ?_, ?_, ?_, ?_, ?_, ?_, ?_⟩
  · intro o args hr
    exact exec_fixedQ_of_reads (lat := fun _ => 8) (fun _ => rfl) hr rfl
  · intro o args res hr
    refine exec_fixed_of_reads (lat := fun _ => 8) (fun _ => rfl) hr ?_
    cases o.d <;> rfl
  · intro o args look hr
    exact exec_fixedQ_of_reads (lat := fun _ => 8) (fun _ => rfl) hr rfl
  · intro o rows rows' all any hr
    refine exec_fixed_of_reads (lat := fun _ => 8) (fun _ => rfl) hr ?_
    simp only [length_filter_beq_length, isEmpty_filter_eq_not_any, Bool.not_not]
    cases o.dst
    case uni => simp only [Bool.or_comm]; rfl
    all_goals rfl
  · intro o rows hr
    exact exec_fixed_of_reads (lat := fun _ => 8) (fun _ => rfl) hr rfl
  · intro o rows res hr
    have hall : (rows.filter fun _ => true) = rows := List.filter_true rows
    refine congrArg Host.Outcome.next ((reduce_of_reads hr _ o.op o.sat o.rnd fun _ _ => true).trans ?_)
    simp only [hall, rows, res]
  · intro o rows below res hr
    exact congrArg Host.Outcome.next (reduce_of_reads hr _ o.op o.sat o.rnd fun i j => if o.ex then j < i else j ≤ i)
  · intro o args la lf hr
    exact exec_fixedQ_of_reads (lat := fun _ => 8) (fun _ => rfl) hr rfl
  · intro o args hr
    exact exec_fixedQ_of_reads (lat := fun _ => 8) (fun _ => rfl) hr rfl

end Sys2Proof

namespace Sys2Proof.Claims

open Sys2Proof.Machine

/-! ### Floating point -/

section Float

variable {s t : State} {h : Hdr} {e : Env} {qs : List (List (Word × Nat))}

/-- Arithmetic on elements issues with the modified sources' results, and keeps the lanes that its shadows will find wrong (R108, R262, R265). -/
theorem fpu_of_reads {ty : Ty} {d : Reg} {srcs : List Src} (hr : Reads s h e [d.code] (srcs.map (Arg.of ty)) t qs) (i : Instr) (k : Shadow)
    (abs neg : Nat) (f : Nat → List Nat → FRes) :
    let rows := s.rows e (srcs.map (Arg.of ty)) qs
    let res := fun (r : Row) => packF ty (e.g.lane r.1) f ((List.range srcs.length).map (modSrc ty abs neg r))
    s.fpu h i k ty abs neg d srcs f = (issued s t e h i 4 (s.regOut false d res rows, fpOut res rows)).modOp s.nextOp fun o =>
      { o with vals := s.strayLanes h k ty abs neg srcs } :=
  congrArg (fun u => State.modOp u s.nextOp fun o => { o with vals := s.strayLanes h k ty abs neg srcs }) (fixedQ_of_reads hr i (fun _ => 4) _)

/-- A function of one source issues with its results (R271). -/
theorem special1_of_reads {o : FunOps} (hr : Reads s h e [o.d.code] [.of .f32 o.a] t qs) (i : Instr) (lat : Nat) (f : Nat → Nat → FRes) :
    let rows := s.rows e [.of .f32 o.a] qs
    let res := fun (r : Row) => let x := f ((e.g.lane r.1).drawU 0) r.fst; (⟨x.code, 6, 6, BitVec.ofNat 5 x.fl⟩ : Res)
    s.special1 h i lat o f = issued s t e h i lat (s.regOut false o.d res rows, fpOut res rows) := by
  intro rows res
  rw [State.special1, State.fixed, fixedQ_of_reads hr]

/-- Away from stack cores, a function that those lack is one like the others (R161). -/
theorem coreFun_of_core (hr : Acts s h e) (hcore : e.g.onStack = false) (i : Instr) (lat : Nat) (o : FunOps) (f : Nat → Nat → FRes) :
    s.coreFun h i lat o f = s.special1 h i lat o f := by
  rw [State.coreFun, State.coreOnly_of hr.issue hcore]
  split <;> rfl

end Float

end Sys2Proof.Claims

namespace Sys2Proof

open Sys2Proof.Machine Sys2Proof.Claims

/-- Settles O10: arithmetic is one use of the frame of floating-point words, minima, maxima and compares of the frame of fixed latency, and a
function of one source of its own, which a core reaches for those that stack cores lack as well. -/
theorem floatArithmeticIssues : Obligations.FloatArithmeticIssues := by
  refine ⟨⟨?_, ?_, ?_, ?_, ?_, ?_, ?_, ?_, ?_, ?_⟩, ⟨?_, ?_, ?_, ?_, ?_, ?_, ?_⟩⟩
  · exact fun _ _ _ _ _ _ hr => congrArg Host.Outcome.next (fpu_of_reads hr ..)
  · exact fun _ _ _ _ _ _ hr => congrArg Host.Outcome.next (fpu_of_reads hr ..)
  · exact fun _ _ _ _ _ _ hr => congrArg Host.Outcome.next (fpu_of_reads hr ..)
  · exact fun _ _ _ _ _ _ hr => congrArg Host.Outcome.next (fpu_of_reads hr ..)
  · exact fun _ _ _ _ _ _ hr => congrArg Host.Outcome.next (fpu_of_reads hr ..)
  · exact fun _ _ _ _ _ _ hr => congrArg Host.Outcome.next (fpu_of_reads hr ..)
  · exact fun _ _ => launches_of_fixedQ fun _ => rfl
  · exact fun _ _ => launches_of_fixedQ fun _ => rfl
  · exact fun _ _ => launches_of_fixedQ fun _ => rfl
  · exact fun _ _ => gives_of_alu fun _ => rfl
  · exact fun _ _ _ _ _ _ hr _ => congrArg Host.Outcome.next (special1_of_reads hr ..)
  · exact fun _ _ _ _ _ _ hr _ => congrArg Host.Outcome.next (special1_of_reads hr ..)
  · exact fun _ _ _ _ _ _ hr _ => congrArg Host.Outcome.next (special1_of_reads hr ..)
  all_goals exact fun _ _ _ _ _ _ hr hcore =>
    congrArg Host.Outcome.next ((coreFun_of_core hr.acts (hcore rfl) ..).trans (special1_of_reads hr ..))

end Sys2Proof
end

section
/-!
SUPPORT. Plane commands act on the field that they name and on no other plane, and a PLFILL of one of two groups that share a number acts on
both (R107, R338, R339, R341, R345).
-/

namespace Sys2Proof.Claims

open Sys2Proof.Machine

/-! ### Fields of a lane (R338) -/

theorem lane_mapLanes {p : Plane} (f : Nat → BitVec 512 → BitVec 512) {n : Nat} (hn : n < p.count) : (p.mapLanes f).lane n = f n (p.lane n) :=
  get_filterMap_range 0 (fun n => f n (p.lane n)) hn

theorem fieldWidth_pos (d : Nat) : 0 < fieldWidth d := Nat.succ_pos _

theorem fieldBase_add_le {d : Nat} (h : fieldBad d = false) : fieldBase d + fieldWidth d ≤ 512 := by
  simp only [fieldBad, Bool.or_eq_false_iff, decide_eq_false_iff_not] at h
  omega

theorem toNat_putField {d : Nat} (h : fieldBad d = false) (v : BitVec 512) (x : Nat) :
    (putField d v x).toNat = setBits v.toNat (fieldBase d) (fieldWidth d) x := toNat_ofNat_setBits (fieldBase_add_le h) v x

theorem fieldCode_lt (d : Nat) (sat : Bool) (x : Int) : fieldCode d sat x < 2 ^ fieldWidth d := wrap_lt _ _

/-- The field holds what is put there. -/
theorem slice_putField {d : Nat} (h : fieldBad d = false) (v : BitVec 512) (sat : Bool) (x : Int) :
    slice (putField d v (fieldCode d sat x)).toNat (fieldBase d) (fieldWidth d) = fieldCode d sat x := by
  rw [toNat_putField h, slice_setBits, Nat.mod_eq_of_lt (fieldCode_lt d sat x)]

/-- Every other plane of the lane stays (R338). -/
theorem bitAt_putField_of_outside {d : Nat} (h : fieldBad d = false) (v : BitVec 512) (x : Nat) {b : Nat}
    (hb : b < fieldBase d ∨ fieldBase d + fieldWidth d ≤ b) : bitAt (putField d v x).toNat b = bitAt v.toNat b := by
  rw [toNat_putField h, bitAt_setBits_of_outside hb]

theorem fieldVal_putField {d : Nat} (h : fieldBad d = false) (v : BitVec 512) (sat : Bool) (x : Int) :
    fieldVal d (putField d v (fieldCode d sat x)) = readAs (fieldSigned d) (fieldWidth d) (fieldCode d sat x) := by
  rw [fieldVal, slice_putField h, readAs, Nat.mod_eq_of_lt (fieldCode_lt d sat x)]

theorem fieldCode_sat (d : Nat) (x : Int) :
    fieldCode d true x = wrap (fieldWidth d) (clampInt (leastOf (fieldSigned d) (fieldWidth d)) (greatestOf (fieldSigned d) (fieldWidth d)) x) := by
  unfold fieldCode leastOf greatestOf
  cases fieldSigned d <;> rfl

/-- A command whose field meets no source in part writes its result into the field of each lane (R338). -/
theorem lane_planeMap {s : State} {p : Plane} {sat : Bool} {w : Nat} {srcs : List Nat} {f : BitVec 512 → Int} {n : Nat} (hn : n < p.count)
    (hsrcs : ∀ a ∈ srcs, clashes (partD w) (fieldBase a) (fieldWidth a) true = false) :
    (s.planeMap p sat w srcs f).lane n = putField (partD w) (p.lane n) (fieldCode (partD w) sat (f (p.lane n))) := by
  have hclear : (srcs.any fun a => clashes (partD w) (fieldBase a) (fieldWidth a) true) = false :=
    List.any_eq_false.2 fun a ha => Bool.eq_false_iff.1 (hsrcs a ha)
  rw [State.planeMap]
  rw [lane_mapLanes _ hn, hclear]
  rfl

/-- What a command leaves in a lane: its result in the field, and every other plane as it was (R107, R338). -/
theorem planeMap_field_and_rest {s : State} {p : Plane} {sat : Bool} {w : Nat} {srcs : List Nat} {f : BitVec 512 → Int} {n : Nat}
    (hn : n < p.count) (hsrcs : ∀ a ∈ srcs, clashes (partD w) (fieldBase a) (fieldWidth a) true = false) (hd : fieldBad (partD w) = false) :
    slice ((s.planeMap p sat w srcs f).lane n).toNat (fieldBase (partD w)) (fieldWidth (partD w)) = fieldCode (partD w) sat (f (p.lane n)) ∧
      ∀ b, b < fieldBase (partD w) ∨ fieldBase (partD w) + fieldWidth (partD w) ≤ b →
        bitAt ((s.planeMap p sat w srcs f).lane n).toNat b = bitAt (p.lane n).toNat b := by
  rw [lane_planeMap hn hsrcs]
  exact ⟨slice_putField hd .., fun b hb => bitAt_putField_of_outside hd _ _ hb⟩

/-- A field reads as its result modulo 2^n, or clamped (R107). -/
theorem fieldVal_wraps_or_clamps {d : Nat} (hd : fieldBad d = false) (v : BitVec 512) (x : Int) :
    (x - fieldVal d (putField d v (fieldCode d false x))) % ((2 ^ fieldWidth d : Nat) : Int) = 0 ∧
      fieldVal d (putField d v (fieldCode d true x)) = clampInt (leastOf (fieldSigned d) (fieldWidth d)) (greatestOf (fieldSigned d) (fieldWidth d)) x := by
  rw [fieldVal_putField hd, fieldVal_putField hd, fieldCode_sat]
  exact ⟨sub_readAs_wrap_emod _ _ x, readAs_wrap_clampInt _ (fieldWidth_pos d) x⟩

/-! ### The start of a command (R339, R341) -/

/-- A command other than PLALLOC and PLFREE that starts with an array runs on it, and each group of its number receives what that gives. -/
theorem exec_planeCommandStart_of_some {s : State} {op : Nat} {o : Op} {g : Group} {p : Plane} (ho : s.findOp op = some o)
    (hg : s.findGroup o.gid = some g) (hmay : s.planeMayStart o g = true) (halloc : ∀ h x, o.instr ≠ .plalloc h x)
    (hfree : ∀ h, o.instr ≠ .plfree h) (hp : g.plane = some p) :
    exec (.planeCommandStart op) s = .next (((s.runPlane g o p).1.modGroup g.gid fun y => { y with plane := some (s.runPlane g o p).2.2 }).modOp
      op fun _ => { (s.runPlane g o p).2.1 with at_ := .ready }) := by
  show execPlaneCommandStart op s = _
  simp only [execPlaneCommandStart, ho, hg, hmay, if_true, hp]

/-! ### PLFILL (R345) -/

/-- A PLFILL within its array fills it. -/
theorem runPlane_of_plfill {s : State} {g : Group} {o : Op} {p : Plane} {h : Hdr} {x : PlfillOps} (hi : o.instr = .plfill h x)
    (hfit : ¬ p.count < (moveCmd (o.vals.getD 2 0)).first + (moveCmd (o.vals.getD 2 0)).count) :
    s.runPlane g o p = s.planeFill g o p (o.vals.getD 1 0) (o.vals.getD 2 0) := by
  simp only [State.runPlane, hi, if_neg hfit]

/-- The state and the operation after a PLFILL has read its units. -/
def filled (s : State) (g : Group) (o : Op) (a w : Nat) : State × Op := s.fillSpan g o ((fillPieces a w).drop o.got.length)

theorem planeFill_groups (s : State) (g : Group) (o : Op) (p : Plane) (a w : Nat) :
    (s.planeFill g o p a w).1.groups = (filled s g o a w).1.groups := rfl

/-- One element of the field's width for each lane, every unit read: a lane's field holds its part of what was read. -/
theorem slice_lane_planeFill {s : State} {g : Group} {o : Op} {p : Plane} {a w n : Nat} (hn : n < p.count)
    (hlane : (moveCmd w).first ≤ n ∧ n < (moveCmd w).first + (moveCmd w).count) (hne : (moveCmd w).ne = 1)
    (hwidth : (moveCmd w).bits = fieldWidth (moveCmd w).d) (hd : fieldBad (moveCmd w).d = false)
    (hread : gotFails a (filled s g o a w).2.got = []) :
    slice ((s.planeFill g o p a w).2.2.lane n).toNat (fieldBase (moveCmd w).d) (fieldWidth (moveCmd w).d) =
      slice (gotValue (filled s g o a w).2.got) (fieldWidth (moveCmd w).d * (n - (moveCmd w).first)) (fieldWidth (moveCmd w).d) := by
  have hlane' : (s.planeFill g o p a w).2.2.lane n = putField (moveCmd w).d (p.lane n)
      (slice (gotValue (filled s g o a w).2.got) (fieldWidth (moveCmd w).d * (n - (moveCmd w).first)) (fieldWidth (moveCmd w).d)) := by
    rw [State.planeFill, lane_mapLanes _ hn, if_pos hlane]
    simp [hne, hwidth, putField, filled, show gotFails a (s.fillSpan g o ((fillPieces a w).drop o.got.length)).2.got = [] from hread,
      Nat.mod_one]
  rw [hlane', toNat_putField hd, slice_setBits, Nat.mod_eq_of_lt (slice_lt ..)]

/-! ### Two groups of one number -/

/-- The command word of a PLFILL of one byte into the lowest eight planes of lane 0 (R345). -/
def fillWord : Nat := 7 * 2 ^ 9 + 2 ^ 16 + 2 ^ 64

/-- The virtual address of the byte. -/
def fillVa : Nat := 2 ^ 28

/-- An array of one way of one slice, all planes zero. -/
def clearPlane : Plane := ⟨1, 1, []⟩

/-- A group numbered 0 on core 0 with an array, in the given take. -/
def twin (take : Nat) : Group :=
  { newGroup 0 take .kernel 0 0 1 4 0 0 0 fetchAllot true [] with place := .core 0, plane := some clearPlane }

/-- The PLFILL of group 0. -/
def fillOp : Op :=
  { Env.op ⟨⟨0, 0, [], 0, 0, false⟩, twin 1, newWarp 0 4, [], []⟩ State.reset ⟨0, 0, 0, Guard.always⟩
      (.plfill ⟨0, 0, 0, Guard.always⟩ ⟨none, 0, 0⟩) with
    vals := [0, fillVa, fillWord] }

/-- Two groups of one number whose takes run in contexts of their own. One context maps the byte to host memory at 0, where it is 1, and the
other to host memory 128 MiB higher, where it is 0. -/
def twins : State :=
  let s := State.reset.withFetchWord 96 0
  { s with
    mem := (((s.mem.writeNat (cellOf 1 0x20010) 8 (2 ^ 39 + 7)).writeNat (cellOf 1 0x30000) 8 0x40001).writeNat (cellOf 1 0x40010) 8
      (2 ^ 39 + 7 + 2 ^ 27)).writeNat (2 ^ 39) 1 1
    ctxs := [fetchCtx, { fetchCtx with id := 1, ptroot := 0x30000 }]
    takes := [newTake 1 0 0 0 0 0 fetchSlate none, newTake 2 1 0 0 0 0 fetchSlate none]
    groups := [twin 1, twin 2]
    ops := [fillOp] }

theorem got_twin_one : (filled twins (twin 1) fillOp fillVa fillWord).2.got = [(fillVa, 1, 1)] := by decide +kernel

theorem got_twin_two : (filled twins (twin 2) fillOp fillVa fillWord).2.got = [(fillVa, 1, 0)] := by decide +kernel

theorem groups_filled_twins : (filled twins (twin 1) fillOp fillVa fillWord).1.groups[1]? = some (twin 2) := by decide +kernel

theorem findOp_twins : twins.findOp fillOp.id = some fillOp := by decide +kernel

theorem planeMayStart_twins : twins.planeMayStart fillOp (twin 1) = true := by decide +kernel

theorem runPlane_twins (take : Nat) : twins.runPlane (twin take) fillOp clearPlane = twins.planeFill (twin take) fillOp clearPlane fillVa fillWord :=
  runPlane_of_plfill (h := ⟨0, 0, 0, Guard.always⟩) (x := ⟨none, 0, 0⟩) rfl (by decide +kernel)

theorem groups_runPlane_twins : (twins.runPlane (twin 1) fillOp clearPlane).1.groups[1]? = some (twin 2) := by
  rw [runPlane_twins, planeFill_groups, groups_filled_twins]

/-- Lane 0 holds the byte that was read. -/
theorem slice_lane_twins {take v : Nat} (hgot : (filled twins (twin take) fillOp fillVa fillWord).2.got = [(fillVa, 1, v)])
    (hread : gotFails fillVa [(fillVa, 1, v)] = []) :
    slice (((twins.runPlane (twin take) fillOp clearPlane).2.2).lane 0).toNat 0 8 = slice (gotValue [(fillVa, 1, v)]) 0 8 := by
  rw [runPlane_twins, ← hgot]
  exact slice_lane_planeFill (by decide +kernel) (by decide) rfl rfl (by decide) (hgot ▸ hread)

/-- What the statement asks of another group of the command's number: that its own run would give the array that the command's group gets. -/
theorem runPlane_eq_of_statement (hclaim : Obligations.PlaneCommandsAct) {s : State} {op : Nat} {o : Op} {g y : Group} {p : Plane} {k : Nat}
    (ho : s.findOp op = some o) (hg : s.findGroup o.gid = some g) (hmay : s.planeMayStart o g = true)
    (halloc : ∀ h x, o.instr ≠ .plalloc h x) (hfree : ∀ h, o.instr ≠ .plfree h) (hp : g.plane = some p)
    (hy : (s.runPlane g o p).1.groups[k]? = some y) (hgid : y.gid = g.gid) : (s.runPlane g o p).2.2 = (s.runPlane y o p).2.2 := by
  obtain ⟨-, -, hothers⟩ := hclaim.1 s op o g ho hg hmay
  have hstated := (hothers halloc hfree).2 p hp
  rw [exec_planeCommandStart_of_some ho hg hmay halloc hfree hp] at hstated
  have hgroups := congrArg (fun t => t.groups[k]?) (Host.Outcome.next.inj hstated)
  simpa [hy, hgid] using hgroups

end Sys2Proof.Claims

namespace Sys2Proof

open Sys2Proof.Machine Sys2Proof.Claims

/-- Refutes O55: by its words every group of the command's number receives the array that its own run would give, and the model gives all of
them that of the group found. The two groups of `twins` share a number and read different bytes. -/
theorem not_planeCommandsAct : ¬ Obligations.PlaneCommandsAct := by
  intro hclaim
  have hplanes := runPlane_eq_of_statement hclaim findOp_twins rfl planeMayStart_twins (fun _ _ hi => nomatch hi) (fun _ hi => nomatch hi)
    (p := clearPlane) rfl groups_runPlane_twins rfl
  have hbytes := (slice_lane_twins got_twin_one (by decide)).symm.trans
    ((congrArg (fun p => slice (Plane.lane p 0).toNat 0 8) hplanes).trans (slice_lane_twins got_twin_two (by decide)))
  exact absurd hbytes (by decide)

end Sys2Proof
end

section
/-!
SUPPORT. Bank commands start in order and act (R106, R175, R176, R356 to R359).
-/

namespace Sys2Proof.Claims

open Sys2Proof.Machine

/-! ### Registers of a bank -/

theorem reg_setReg (x : Channel) (key v j : Nat) : (x.setReg key v).reg j = if j = key then v % 2 ^ 16 else x.reg j := by
  have hv : some (BitVec.ofNat 16 v) ≠ none := Option.some_ne_none _
  by_cases hj : j = key
  · rw [if_pos hj, hj, Channel.reg, Channel.setReg, NMap.get_put_listed hv]
    exact BitVec.toNat_ofNat ..
  · rw [if_neg hj, Channel.reg, Channel.setReg, NMap.get_put_listed_of_ne hv hj, Channel.reg]

/-- Writes of registers change nothing else of a channel. -/
theorem foldl_setReg_eq (key v : Nat → Nat) (is : List Nat) (x : Channel) :
    ∃ regs, is.foldl (fun x i => x.setReg (key i) (v i)) x = { x with regs := regs } := by
  induction is generalizing x with
  | nil => exact ⟨x.regs, rfl⟩
  | cons i is ih => exact ih (x.setReg (key i) (v i))

theorem reg_foldl_setReg_of_ne {key : Nat → Nat} (v : Nat → Nat) {is : List Nat} {j : Nat} (hne : ∀ i ∈ is, j ≠ key i) (x : Channel) :
    (is.foldl (fun x i => x.setReg (key i) (v i)) x).reg j = x.reg j := by
  induction is generalizing x with
  | nil => rfl
  | cons i is ih =>
    obtain ⟨hi, his⟩ := List.forall_mem_cons.1 hne
    rw [List.foldl_cons, ih his, reg_setReg, if_neg hi]

/-- A register that the writes name holds what is written, where all writes of it agree. -/
theorem reg_foldl_setReg_of_mem {key v : Nat → Nat} {is : List Nat} {j y : Nat} (hmem : ∃ i ∈ is, j = key i)
    (hall : ∀ i ∈ is, j = key i → v i = y) (x : Channel) : (is.foldl (fun x i => x.setReg (key i) (v i)) x).reg j = y % 2 ^ 16 := by
  induction is generalizing x with
  | nil => simp at hmem
  | cons i is ih =>
    obtain ⟨hi, his⟩ := List.forall_mem_cons.1 hall
    rw [List.foldl_cons]
    by_cases hrest : ∃ i ∈ is, j = key i
    · exact ih hrest his _
    · have hne : ∀ i ∈ is, j ≠ key i := fun i hi hj => hrest ⟨i, hi, hj⟩
      have hj : j = key i := by simpa [hrest] using hmem
      rw [reg_foldl_setReg_of_ne v hne, reg_setReg, if_pos hj, hi hj]

/-- The register numbers of a bank are told apart by bank, kind, register and value. -/
theorem bankKey_inj {b n k l b' n' k' l' : Nat} (hn : n < 2) (hk : k < 8) (hl : l < 16) (hn' : n' < 2) (hk' : k' < 8) (hl' : l' < 16) :
    bankKey b n k l = bankKey b' n' k' l' ↔ b = b' ∧ n = n' ∧ k = k' ∧ l = l' := by
  unfold bankKey
  omega

/-- A channel after a broadcast of `v` into register `k` of kind `n` of every bank (R357). -/
def broadcast (y : Channel) (n k : Nat) (v : List Nat) : Channel :=
  (List.range 256).foldl (fun (y : Channel) i => y.setReg (bankKey (i / 16) n k (i % 16)) (v.getD (i % 16) 0)) y

theorem broadcast_eq (y : Channel) (n k : Nat) (v : List Nat) : ∃ regs, broadcast y n k v = { y with regs := regs } :=
  foldl_setReg_eq ..

/-- It fills that register of each bank and leaves the others. -/
theorem reg_broadcast (y : Channel) {n k : Nat} (hn : n < 2) (hk : k < 8) (v : List Nat) {b n' k' l : Nat} (hb : b < 16) (hn' : n' < 2)
    (hk' : k' < 8) (hl : l < 16) :
    (broadcast y n k v).reg (bankKey b n' k' l) = if n' = n ∧ k' = k then v.getD l 0 % 2 ^ 16 else y.reg (bankKey b n' k' l) := by
  have hkey : ∀ i, bankKey b n' k' l = bankKey (i / 16) n k (i % 16) ↔ b = i / 16 ∧ n' = n ∧ k' = k ∧ l = i % 16 := fun i =>
    bankKey_inj hn' hk' hl hn hk (Nat.mod_lt i (by decide))
  split
  case isTrue hreg =>
    obtain ⟨rfl, rfl⟩ := hreg
    refine reg_foldl_setReg_of_mem ⟨16 * b + l, List.mem_range.2 (by omega), (hkey _).2 ?_⟩ (fun i _ hi => ?_) y
    · omega
    · rw [((hkey i).1 hi).2.2.2]
  case isFalse hreg =>
    refine reg_foldl_setReg_of_ne _ (fun i _ hi => hreg ?_) y
    obtain ⟨-, hkind, hnumber, -⟩ := (hkey i).1 hi
    exact ⟨hkind, hnumber⟩

end Sys2Proof.Claims

namespace Sys2Proof

open Sys2Proof.Machine Sys2Proof.Claims

/-- Settles O59: a start goes by the command and by whether its pseudo-channel is open; a broadcast is a run of register writes, each bank's
under a number of its own. -/
theorem bankCommandsAct : Obligations.BankCommandsAct := by
  refine ⟨fun s op o ho hmay => ?_, fun s op o h x y ho hi hc hat => ?_⟩
  · have hstart : exec (.bankCommandStart op) s = execBankCommandStart op s := rfl
    simp only [execBankCommandStart, ho, hmay, if_true] at hstart
    refine ⟨fun h x hi hc => ?_, fun h x y hi hc => ?_, fun h x hi => ?_, fun h x y hi hc => ?_, fun h x y hi hc => ?_, fun h x y hi hc => ?_⟩
    · exact hstart.trans (by simp only [hi, hc])
    · exact hstart.trans (by simp only [hi, hc])
    · exact hstart.trans (by simp only [hi])
    · obtain ⟨regs, heq⟩ := broadcast_eq y (bit x.acc) x.k.toNat (o.vals.drop 3)
      have hkind : bit x.acc < 2 := by cases x.acc <;> decide
      refine ⟨broadcast y (bit x.acc) x.k.toNat (o.vals.drop 3), hstart.trans (by simp only [hi, hc, broadcast]), by rw [heq], by rw [heq],
        by rw [heq], fun b k l n hb hk hl hn => ?_⟩
      exact reg_broadcast y hkind x.k.isLt (o.vals.drop 3) hb hn hk hl
    · exact hstart.trans (by simp only [hi, hc])
    · exact hstart.trans (by simp only [hi, hc])
  · show execBkmacWave op s = _
    simp only [execBkmacWave, ho, hi, hc, hat, if_true]

end Sys2Proof
end

section
/-!
SUPPORT. A staged MMA issues, completes with its products added to its tile pair, and lets its MWAITs go on (R101 to R105, R158, R327 to R331).
-/

namespace Sys2Proof.Claims

open Sys2Proof.Machine

/-! ### Tiles and convergence registers of a group -/

theorem tile_make_at (f : Nat → Nat → Word) (wait : Option Nat) {r c : Nat} (hr : r < 128) (hc : c < 128) : (Tile.make f wait).at r c = f r c := by
  have hbound : 128 * r + c < 16384 := by omega
  have hrow : (128 * r + c) / 128 = r := by omega
  have hcol : (128 * r + c) % 128 = c := by omega
  rw [Tile.at, Tile.make]
  dsimp only
  rw [get_filterMap_range 0 (fun k => f (k / 128) (k % 128)) hbound, hrow, hcol]

theorem conv_lt_of_busy {g : Group} {c : Nat} (h : (g.conv c).st ≠ .idle) : c < g.convs.length := by
  by_contra hc
  rw [Group.conv, List.getD_eq_default _ _ (by omega)] at h
  exact h rfl

theorem conv_set {g : Group} {c : Nat} (hc : c < g.convs.length) (v : Conv) : { g with convs := g.convs.set c v }.conv c = v := by
  simp [Group.conv, hc]

theorem st_conv_set_idle (g : Group) (c : Nat) {v : Conv} (hv : v.st = .idle) : ({ g with convs := g.convs.set c v }.conv c).st = .idle := by
  by_cases hc : c < g.convs.length
  · rw [conv_set hc, hv]
  · rw [Group.conv, List.getD_eq_default _ _ (by simpa using hc)]
    rfl

/-- A group whose listed tiles await the MWAIT on a register (R158). -/
def awaiting (ts : List Nat) (c : Nat) (g : Group) : Group :=
  { g with tiles := g.tiles.mapIdx fun i t => if ts.contains i then { t with wait := some c } else t }

theorem tile_awaiting (ts : List Nat) (c : Nat) {g : Group} {i : Nat} (hi : i < g.tiles.length) :
    (awaiting ts c g).tile i = if i ∈ ts then { g.tile i with wait := some c } else g.tile i := by
  simp [awaiting, Group.tile, hi]

/-! ### Issue (R327) -/

/-- The register of an MMA that has issued: the words that warps outside its declared set have written are noted (R158). -/
def issuedConv (s : State) (gid : Nat) (v : Conv) : Conv :=
  { v with st := .issued, affected := (s.loose gid v).foldl (fun m k => NMap.put false m k true) v.affected }

theorem exec_mmaIssue {s : State} {gid c : Nat} {g : Group} {o : Op} (hg : s.findGroup gid = some g) (hready : g.mmaReady c = true)
    (ho : (g.conv c).staged.bind s.findOp = some o) :
    ∃ u : State, exec (.mmaIssue gid c) s =
      .next ((u.setConv gid c (issuedConv s gid (g.conv c))).modGroup gid (awaiting (Instr.tilesOf o.instr) c)) ∧ u.groups = s.groups := by
  have hexec : exec (.mmaIssue gid c) s = execMmaIssue gid c s := rfl
  simp only [execMmaIssue, hg, hready, if_true, ho] at hexec
  exact ⟨_, hexec, rfl⟩

/-! ### Completion (R328, R472) -/

/-- A hardware error changes no group: it marks the take, or goes to the error log. -/
theorem hwError_groups (s : State) (tid code path addr : Nat) : (s.hwError tid code path addr).groups = s.groups := by
  unfold State.hwError
  split
  · rfl
  · split
    · exact State.logError_groups ..
    · rfl

theorem foldl_hwError_groups (tid off code : Nat) (path : Nat → Nat) (ns : List Nat) (s : State) :
    (ns.foldl (fun (s : State) n => (s.countUp off 16).hwError tid code (path n) 0) s).groups = s.groups := by
  induction ns generalizing s with
  | nil => rfl
  | cons n ns ih => rw [List.foldl_cons, ih, hwError_groups, State.countUp, State.setField_groups]

/-- What an MMA leaves in one tile of its pair: the old elements with their products and outliers, and free values where R158 or R328 leave
them undefined. -/
def mmaTile (s : State) (o : Op) (g : Group) (b : MmaBlock) (d : MmaData) (t half : Nat) : Tile :=
  Tile.make (fun i n =>
    if o.ctr = 1 || d.all || d.badRow.getD i true || d.badCol.getD (128 * half + n) true
    then BitVec.ofNat 32 (s.free (610 + half) (128 * i + n))
    else BitVec.ofNat 32 (mmaValue b d ((g.tile (t + half)).at i n) i (128 * half + n))) (g.tile (t + half)).wait

/-- A group whose MMA has written its pair and freed its register (R328). -/
def mmaDone (s : State) (o : Op) (g : Group) (b : MmaBlock) (x : MmaOps) (past : List Past) : Group :=
  let d := s.mmaRead g b (g.conv x.c.toNat).affected
  { g with
    tiles := (g.tiles.set x.t.toNat (mmaTile s o g b d x.t.toNat 0)).set (x.t.toNat + 1) (mmaTile s o g b d x.t.toNat 1)
    convs := g.convs.set x.c.toNat { Conv.idle with past := past } }

theorem findGroup_of_groups_eq {s t : State} (h : t.groups = s.groups) (gid : Nat) : t.findGroup gid = s.findGroup gid := by
  rw [State.findGroup, State.findGroup, h]

theorem findGroup_setTile {s : State} {gid : Nat} {g : Group} (h : s.findGroup gid = some g) (i : Nat) (v : Tile) :
    (s.setTile gid i v).findGroup gid = some { g with tiles := g.tiles.set i v } := State.findGroup_modGroup h fun _ => rfl

theorem findGroup_setConv {s : State} {gid : Nat} {g : Group} (h : s.findGroup gid = some g) (i : Nat) (v : Conv) :
    (s.setConv gid i v).findGroup gid = some { g with convs := g.convs.set i v } := State.findGroup_modGroup h fun _ => rfl

theorem exec_mmaComplete {s : State} {op : Nat} {h : Hdr} {x : MmaOps} {o : Op} {g : Group} {b : MmaBlock} (ho : s.findOp op = some o)
    (hi : o.instr = .mma h x) (hg : s.findGroup o.gid = some g) (hb : o.mmaBlock = some b) (hmay : s.mmaMayEnd o g = true) :
    ∃ t past, exec (.mmaComplete op) s = .next t ∧ t.findGroup g.gid = some (mmaDone s o g b x past) := by
  have hexec : exec (.mmaComplete op) s = execMmaComplete op s := rfl
  simp only [execMmaComplete, ho, hi, hg, hb, hmay, if_true] at hexec
  refine ⟨_, (g.conv x.c.toNat).past ++ [⟨o.seq, .mma h x, o.vals, []⟩], hexec, ?_⟩
  have hself : s.findGroup g.gid = some g := by rw [State.findGroup_gid hg, hg]
  rw [findGroup_of_groups_eq (foldl_hwError_groups ..)]
  exact findGroup_setConv (findGroup_setTile (findGroup_setTile hself _ _) _ _) _ _

theorem tile_mmaDone (s : State) (o : Op) {g : Group} (b : MmaBlock) {x : MmaOps} (past : List Past) (ht : x.t.toNat + 1 < g.tiles.length)
    {k : Nat} (hk : k < 2) :
    (mmaDone s o g b x past).tile (x.t.toNat + k) = mmaTile s o g b (s.mmaRead g b (g.conv x.c.toNat).affected) x.t.toNat k := by
  have hcases : k = 0 ∨ k = 1 := by omega
  rcases hcases with rfl | rfl
  · simp [mmaDone, Group.tile, show x.t.toNat < g.tiles.length by omega]
  · simp [mmaDone, Group.tile, ht]

end Sys2Proof.Claims

namespace Sys2Proof

open Sys2Proof.Machine Sys2Proof.Claims

/-- Settles O52: the issue marks the register and its pair of tiles; the completion writes the pair element by element, whatever shadow trees
then report; the release is the model's own where the register is idle. -/
theorem matricesMultiply : Obligations.MatricesMultiply := by
  refine ⟨fun s gid c g o hg hready ho => ?_, fun s op h x g o b ho hi hg hb hmay ht => ?_, fun s op h c g o ho hi hg hidle hplace => ?_⟩
  · obtain ⟨u, hexec, hgroups⟩ := exec_mmaIssue hg hready ho
    have hopen : (g.conv c).st ≠ .idle := by
      have : (g.conv c).st = .open := by grind [Group.mmaReady]
      rw [this]
      decide
    have hu : u.findGroup gid = some g := (findGroup_of_groups_eq hgroups gid).trans hg
    refine ⟨_, _, hexec, State.findGroup_modGroup (State.findGroup_modGroup hu fun _ => rfl) fun _ => rfl, ?_, rfl, rfl, fun i hlen => ?_⟩
    · exact conv_set (conv_lt_of_busy hopen) _
    · exact tile_awaiting _ c hlen
  · obtain ⟨t, past, hexec, hfind⟩ := exec_mmaComplete ho hi hg hb hmay
    rw [State.findGroup_gid hg] at hfind
    refine ⟨t, _, hexec, hfind, st_conv_set_idle g _ rfl, rfl, rfl, rfl, fun k i n hk hrow hcol => ?_⟩
    rw [tile_mmaDone s o b past ht hk, mmaTile, tile_make_at _ _ hrow hcol]
    simp only [Bool.or_eq_true, decide_eq_true_eq, or_assoc]
  · have hexec : exec (.mwaitRelease op) s = execMwaitRelease op s := rfl
    have hfree : (decide ((g.conv c.toNat).st = .idle) && g.place == .core g.agent) = true := by
      rw [decide_eq_true hidle, Bool.true_and, beq_iff_eq]
      exact hplace
    simp only [execMwaitRelease, ho, hi, hg, hfree, if_true] at hexec
    exact hexec

end Sys2Proof
end

section
/-!
SUPPORT. Memory and the L2 stay canonical: what makes up a state, and the updates that leave memory and the L2 alone, which hold by the
definition of the notion.
-/

namespace Sys2Proof

/-- Other values under the same keys, none of them the unlisted one, are still in canonical form. -/
theorem NMap.wfFrom_map_snd {α : Type} [DecidableEq α] {d : α} {lo : Nat} {m : NMap α} {f : Nat × α → Nat × α}
    (hf : ∀ e, (f e).1 = e.1 ∧ (e.2 ≠ d → (f e).2 ≠ d)) (h : NMap.wfFrom d lo m = true) : NMap.wfFrom d lo (m.map f) = true := by
  induction m generalizing lo with
  | nil => rfl
  | cons e m ih =>
    simp only [NMap.wfFrom, Bool.and_eq_true, decide_eq_true_eq, Bool.not_eq_true', decide_eq_false_iff_not] at h
    obtain ⟨⟨hlo, hv⟩, hm⟩ := h
    obtain ⟨hkey, hval⟩ := hf e
    simp only [List.map_cons, NMap.wfFrom, hkey, Bool.and_eq_true, decide_eq_true_eq, Bool.not_eq_true', decide_eq_false_iff_not]
    exact ⟨⟨hlo, hval hv⟩, ih hm⟩

end Sys2Proof

namespace Sys2Proof.Claims

open Sys2Proof.Machine

/-- Cells written, with any poison. -/
theorem Tidy.setCells_poison {s : State} (hs : Tidy s) (a n x : Nat) (p : NMap Bool) : Tidy { s.setCells a n x with poison := p } :=
  hs.setCells a n x

theorem Tidy.ite {c : Prop} {_ : Decidable c} {s t : State} (hs : Tidy s) (ht : Tidy t) : Tidy (if c then s else t) := by
  split
  · exact hs
  · exact ht

theorem Tidy.ofSome {s : State} (hs : Tidy s) : ∀ t, some s = some t → Tidy t := fun _ ht => Option.some.inj ht ▸ hs

theorem tidy_of_none : ∀ t : State, none = some t → Tidy t := fun _ ht => nomatch ht

theorem Tidy.or {o p : Option State} (ho : ∀ t, o = some t → Tidy t) (hp : ∀ t, p = some t → Tidy t) : ∀ t, o.or p = some t → Tidy t := by
  cases o with
  | none => exact hp
  | some s => exact ho

theorem Tidy.bind {β : Type} {o : Option β} {f : β → Option State} (hf : ∀ b, o = some b → ∀ t, f b = some t → Tidy t) : ∀ t, o.bind f =
    some t → Tidy t := by
  cases o with
  | none => exact tidy_of_none
  | some b => exact hf b rfl

theorem Tidy.map {β : Type} {o : Option β} {f : β → State} (hf : ∀ b, o = some b → Tidy (f b)) : ∀ t, o.map f = some t → Tidy t := by
  cases o with
  | none => exact tidy_of_none
  | some b => exact (hf b rfl).ofSome

theorem Tidy.coin {s : State} (hs : Tidy s) : Tidy s.coin.2 := hs

theorem Tidy.elim {β : Type} {o : Option β} {s : State} {f : β → State} (hs : Tidy s) (hf : ∀ b, o = some b → Tidy (f b)) : Tidy
    (o.elim s f) := by
  cases o with
  | none => exact hs
  | some b => exact hf b rfl

theorem Tidy.getD {o : Option State} {s : State} (ho : ∀ t, o = some t → Tidy t) (hs : Tidy s) : Tidy (o.getD s) := by
  cases o with
  | none => exact hs
  | some t => exact ho t rfl

/-- As `Tidy.foldl`, where the state goes along with other data. -/
theorem Tidy.foldl_fst {β γ : Type} {f : State × γ → β → State × γ} (hf : ∀ q b, Tidy q.1 → Tidy (f q b).1) (xs : List β) {q : State × γ}
    (hq : Tidy q.1) : Tidy (xs.foldl f q).1 := by
  induction xs generalizing q with
  | nil => exact hq
  | cons x xs ih => exact ih (hf _ _ hq)

theorem Tidy.setReg {s : State} (hs : Tidy s) (off : Nat) (v : BitVec 64) : Tidy (s.setReg off v) := hs

theorem Tidy.modGroup {s : State} (hs : Tidy s) (gid : Nat) (f : Group → Group) : Tidy (s.modGroup gid f) := hs

theorem Tidy.modWarp {s : State} (hs : Tidy s) (gid wid : Nat) (f : Warp → Warp) : Tidy (s.modWarp gid wid f) := hs

theorem Tidy.modLanes {s : State} (hs : Tidy s) (gid : Nat) (ls : List Nat) (f : Nat → Lane → Lane) : Tidy (s.modLanes gid ls f) := hs

end Sys2Proof.Claims
end

section
/-!
SUPPORT. Memory and the L2 stay canonical: translation, stops, operations in flight, fixed latency, control flow.
-/

namespace Sys2Proof.Claims

open Sys2Proof.Machine

/-! ### Device registers and translation -/

theorem Tidy.renew {s : State} (hs : Tidy s) : Tidy s.renew := hs

theorem Tidy.setField {s : State} (hs : Tidy s) (off a n v : Nat) : Tidy (s.setField off a n v) := hs

theorem Tidy.keepPointers {s : State} (hs : Tidy s) (ps : List TlbEntry) : Tidy (s.keepPointers ps) := hs

theorem Tidy.noteLeaf {s : State} (hs : Tidy s) (ctx va : Nat) (l : Leaf) : Tidy (s.noteLeaf ctx va l) := by
  unfold State.noteLeaf
  split <;> exact hs

theorem Tidy.keepFresh {s : State} (hs : Tidy s) (ctx va : Nat) (k : AccKind) : Tidy (s.keepFresh ctx va k) := by
  unfold State.keepFresh
  dsimp only
  split
  · exact hs.keepPointers _
  · split
    · exact hs.keepPointers _
    · exact (hs.keepPointers _).noteLeaf _ _ _

theorem Tidy.translate {s : State} (hs : Tidy s) (agent ctx va : Nat) (k : AccKind) : Tidy (s.translate agent ctx va k).1 := by
  unfold State.translate
  dsimp only
  split
  · exact hs.keepPointers _
  · split
    · exact hs.keepPointers _
    · exact (hs.keepPointers _).noteLeaf _ _ _
  · split
    · exact hs
    · split
      · exact hs.coin
      · split <;> exact hs.coin

/-! ### HBM4E and the caches -/

theorem Tidy.invalidateL1 {s : State} (hs : Tidy s) (c : Nat) : Tidy (s.invalidateL1 c) := hs

theorem Tidy.dropL1 {s : State} (hs : Tidy s) (c line : Nat) : Tidy (s.dropL1 c line) := hs

/-! ### Stops, operations in flight and lanes -/

theorem Tidy.modTake {s : State} (hs : Tidy s) (tid : Nat) (f : Take → Take) : Tidy (s.modTake tid f) := hs

theorem Tidy.modCtx {s : State} (hs : Tidy s) (id : Nat) (f : Ctx → Ctx) : Tidy (s.modCtx id f) := hs

theorem Tidy.withEnv {s : State} {k : Env → State} {k' : Env → State} (hs : Tidy s) (h : Hdr) (hk : ∀ x0, Tidy (k x0))
    (hk' : ∀ x0, Tidy (k' x0)) : Tidy (s.withEnv h k k') := by
  unfold State.withEnv
  split
  · exact hs
  · split
    · split
      · exact hs
      · exact hk' _
    · exact hk _

theorem Tidy.addOp {s : State} (hs : Tidy s) (o : Op) : Tidy (s.addOp o) := hs

theorem Tidy.modOp {s : State} (hs : Tidy s) (id : Nat) (f : Op → Op) : Tidy (s.modOp id f) := hs

theorem Tidy.dropOp {s : State} (hs : Tidy s) (id : Nat) : Tidy (s.dropOp id) := hs

theorem Tidy.applyWrites {s : State} (hs : Tidy s) (o : Op) : Tidy (s.applyWrites o) := hs

theorem Tidy.raiseMsi {s : State} (hs : Tidy s) (v : Nat) : Tidy (s.raiseMsi v) := hs

theorem Tidy.logError {s : State} (hs : Tidy s) (code ctx : Nat) (retake ended taint : Bool) (path take addr : Nat) : Tidy
    (s.logError code ctx retake ended taint path take addr) := by
  unfold State.logError
  dsimp only
  split
  · exact hs
  · split
    · exact hs.setField _ _ _ _
    · split
      · exact (((hs.writeHome _ _ _).clearCovered _ _).setField _ _ _ _).raiseMsi _
      · exact ((hs.writeHome _ _ _).clearCovered _ _).setField _ _ _ _

theorem Tidy.progError {s : State} (hs : Tidy s) (gid wid code : Nat) (lanes : List Nat) (addr : Nat) (write : Bool) : Tidy
    (s.progError gid wid code lanes addr write) := by
  unfold State.progError
  split
  · exact hs
  · split
    · exact hs
    · split
      · exact hs
      · split
        · exact hs.logError _ _ _ _ _ _ _ _
        · exact (hs.modTake _ _).modWarp _ _ _

theorem Tidy.fail {s : State} (hs : Tidy s) (e : Env) (code : Nat) (lanes : List Nat) (addr : Nat) (write : Bool) : Tidy
    (s.fail e code lanes addr write) :=
  hs.ite (hs.progError _ _ _ _ _ _)

theorem Tidy.hwError {s : State} (hs : Tidy s) (tid code path addr : Nat) : Tidy (s.hwError tid code path addr) := by
  unfold State.hwError
  split
  · exact hs
  · exact (hs.logError _ _ _ _ _ _ _ _).ite (hs.modTake _ _)

theorem Tidy.addStop {s : State} (hs : Tidy s) (g : Group) (w : Warp) (kind : StopKind) (code : Nat) (lanes : List Nat) (pc addr : Nat)
    (write : Bool) : Tidy (s.addStop g w kind code lanes pc addr write).1 := by
  unfold State.addStop
  split
  · exact hs
  · split
    · exact hs.modCtx _ _
    · exact hs.progError _ _ _ _ _ _

theorem Tidy.checkGrow {s : State} (hs : Tidy s) (gid : Nat) : Tidy (s.checkGrow gid) := by
  unfold State.checkGrow
  repeat' split
  all_goals exact hs

theorem Tidy.park {s : State} (hs : Tidy s) (e : Env) (lanes : List Nat) (code addr : Nat) (write : Bool) : Tidy
    (s.park e lanes code addr write) := by
  unfold State.park
  split
  · exact hs
  · exact ((hs.addStop _ _ _ _ _ _ _ _).modLanes _ _ _).checkGrow _

theorem Tidy.returnTrap {s : State} (hs : Tidy s) (e : Env) : Tidy (s.returnTrap e) := hs

theorem Tidy.checkHalt {s : State} (hs : Tidy s) (gid wid : Nat) : Tidy (s.checkHalt gid wid) := by
  unfold State.checkHalt
  split
  · exact hs
  · split
    · exact hs
    · split
      · split
        · exact (hs.addStop _ _ _ _ _ _ _ _).modWarp _ _ _
        · exact hs
      · exact hs

theorem Tidy.checkHaltCtx {s : State} (hs : Tidy s) (ctx : Nat) : Tidy (s.checkHaltCtx ctx) := by
  unfold State.checkHaltCtx
  dsimp only
  repeat' split
  all_goals exact hs

theorem Tidy.endOp {s : State} (hs : Tidy s) (o : Op) : Tidy (s.endOp o) := by
  unfold State.endOp
  refine Tidy.checkHaltCtx ?_ _
  refine Tidy.foldl (fun _ _ h1 => h1.checkHalt _ _) _ ?_
  exact (hs.dropOp _).modWarp _ _ _

theorem Tidy.finishOp {s : State} (hs : Tidy s) (o : Op) : Tidy (s.finishOp o) := (hs.applyWrites _).endOp _

theorem Tidy.unsettle {s : State} (hs : Tidy s) (o : Op) (codes : List Nat) : Tidy (s.unsettle o codes) := hs

theorem Tidy.endStop {s : State} (hs : Tidy s) (ctx : Nat) (x : Stop) : Tidy (s.endStop ctx x) := by
  unfold State.endStop
  split <;> exact hs

theorem Tidy.retire {s : State} (hs : Tidy s) (gid : Nat) (lanes : List Nat) : Tidy (s.retire gid lanes) := (hs.modLanes _ _ _).checkGrow _

theorem Tidy.sendReplies {s : State} (hs : Tidy s) (g : Group) (lanes : List Nat) (words : Nat → List (Option Word)) : Tidy
    (s.sendReplies g lanes words) := by
  unfold State.sendReplies
  repeat' split
  all_goals exact hs

theorem Tidy.settleError {s : State} (hs : Tidy s) (g : Group) (code path addr : Nat) : Tidy (s.settleError g code path addr) := by
  unfold State.settleError
  split
  · exact hs.hwError _ _ _ _
  · exact (hs.hwError _ _ _ _).ite (hs.hwError _ _ _ _)

theorem Tidy.settleLanes {s : State} {k : State → List Nat → State} (hs : Tidy s) (e : Env) (fails : List (Nat × Nat × Nat)) (write : Bool)
    (path : Nat) (hk : ∀ t x1, Tidy t → Tidy (k t x1)) : Tidy (s.settleLanes e fails write path k) := by
  unfold State.settleLanes
  split
  · exact hs.settleError _ _ _ _
  · exact hs.fail _ _ _ _ _
  · exact hk _ _ hs
  · split
    · exact hs.returnTrap _
    · exact hk _ _ (hs.park _ _ _ _ _)

theorem Tidy.checked {s : State} {k : Env → State} {k' : Env → State} (hs : Tidy s) (h : Hdr) (codes : Env → List Nat)
    (hk : ∀ x0, Tidy (k x0)) (hk' : ∀ x0, Tidy (k' x0)) : Tidy (s.checked h codes k k') := by
  unfold State.checked
  refine hs.withEnv _ (fun _ => ?_) (fun _ => ?_)
  · split
    · exact hs.fail _ _ _ _ _
    · exact hk _
  · split
    · exact hs
    · exact hk' _

/-! ### Operands -/

theorem Tidy.popQueue {s : State} (hs : Tidy s) (e : Env) (n : Nat) : Tidy (s.popQueue e n).1 := hs

theorem Tidy.popArgs {s : State} (hs : Tidy s) (e : Env) (args : List Arg) : Tidy (s.popArgs e args).1 := by
  induction args generalizing s with
  | nil => exact hs
  | cons a as ih =>
    unfold State.popArgs
    split
    · rename_i heq
      cases heq
    · rename_i heq
      cases heq
      exact ih (hs.popQueue e _)
    · rename_i heq
      cases heq
      exact ih hs

theorem Tidy.readRows {s : State} (hs : Tidy s) (e : Env) (args : List Arg) : Tidy (s.readRows e args).1 := hs.popArgs _ _

theorem Tidy.undefine {s : State} (hs : Tidy s) (e : Env) (o : Op) (dst : List Nat) (tag : Nat) : Tidy (s.undefine e o dst tag) := hs

theorem Tidy.undefineLost {s : State} (hs : Tidy s) (e : Env) (o : Op) (dst : List Nat) (tag : Nat) : Tidy (s.undefineLost e o dst tag) :=
  hs.ite (hs.undefine _ _ _ _)

theorem Tidy.advance {s : State} (hs : Tidy s) (e : Env) (k : Nat) : Tidy (s.advance e k) := by
  unfold State.advance
  repeat' split
  all_goals exact hs

theorem Tidy.fixedQ {s : State} (hs : Tidy s) (h : Hdr) (i : Instr) (dst : List Nat) (args : List Arg) (lat : Env → Nat)
    (out : State → Env → List (List (Word × Nat)) → List Row → Writes) : Tidy (s.fixedQ h i dst args lat out) := by
  unfold State.fixedQ
  refine hs.checked _ _ (fun _ => ?_) (fun _ => ?_)
  · dsimp only
    split
    · split <;> exact ((hs.popArgs _ _).addOp _).advance _ _
    · exact hs.fail _ _ _ _ _
  · dsimp only
    split
    · split <;> exact ((hs.popArgs _ _).addOp _).advance _ _
    · exact hs.fail _ _ _ _ _

theorem Tidy.fixed {s : State} (hs : Tidy s) (h : Hdr) (i : Instr) (dst : List Nat) (args : List Arg) (lat : Env → Nat)
    (out : State → Env → List Row → Writes) : Tidy (s.fixed h i dst args lat out) :=
  hs.fixedQ _ _ _ _ _ _

theorem Tidy.alu {s : State} (hs : Tidy s) (h : Hdr) (i : Instr) (lat : Nat) (wide : Bool) (d : Reg) (args : List Arg) (f : List Opnd → Res)
    : Tidy (s.alu h i lat wide d args f) :=
  hs.fixed _ _ _ _ _ _

theorem Tidy.aluP {s : State} (hs : Tidy s) (h : Hdr) (i : Instr) (lat pd : Nat) (args : List Arg) (f : List Opnd → Bool) : Tidy
    (s.aluP h i lat pd args f) :=
  hs.fixed _ _ _ _ _ _

/-! ### Fetch and script entries -/

theorem Tidy.translateFor {s : State} (hs : Tidy s) (g : Group) (va : Nat) (k : AccKind) : Tidy (s.translateFor g va k).1 :=
  hs.translate _ _ _ _

theorem Tidy.fetchLine {s : State} (hs : Tidy s) (g : Group) (pc : Nat) : Tidy (s.fetchLine g pc).1 := by
  unfold State.fetchLine
  dsimp only
  split
  · exact hs
  · split
    · exact hs.translateFor _ _ _
    · split <;> exact hs.translateFor _ _ _

theorem Tidy.fetchScript {s : State} (hs : Tidy s) (g : Group) (va n : Nat) : Tidy (s.fetchScript g va n).1 := by
  induction n generalizing s g va with
  | zero =>
    unfold State.fetchScript
    exact hs
  | succ n ih =>
    unfold State.fetchScript
    dsimp only
    split
    · exact hs.translateFor _ _ _
    · split
      · exact hs.translateFor _ _ _
      · split <;> exact ih (hs.translateFor _ _ _) _ _

theorem Tidy.readEntry {s : State} (hs : Tidy s) (g : Group) (t : Take) (ix : Nat) : Tidy (s.readEntry g t ix).1 := by
  unfold State.readEntry
  dsimp only
  split
  · exact hs.fetchScript _ _ _
  · exact (hs.fetchScript _ _ _).modTake _ _

theorem Tidy.scriptEntry {s : State} (hs : Tidy s) (g : Group) (ix : Nat) : Tidy (s.scriptEntry g ix).1 := by
  unfold State.scriptEntry
  split
  · exact hs
  · split
    · split
      · split
        · exact hs
        · refine Tidy.readEntry ?_ _ _ _
          exact hs
      · exact hs
    · exact hs.readEntry _ _ _

theorem Tidy.fetchTargets {s : State} (hs : Tidy s) (g : Group) (ok : Line → Nat → Bool) (ys : List (Nat × Nat)) : Tidy
    (s.fetchTargets g ok ys).1 := by
  induction ys generalizing s with
  | nil =>
    unfold State.fetchTargets
    exact hs
  | cons x xs ih =>
    unfold State.fetchTargets
    exact ih (hs.fetchLine _ _)

/-! ### Accesses -/

theorem Tidy.copyLine {s : State} (hs : Tidy s) (a b : Nat) : Tidy (s.copyLine a b) := ((hs.cleanLine _).dropLine _).setCells_poison _ _ _ _

theorem Tidy.writeDirectory {s : State} (hs : Tidy s) (a : Nat) : Tidy (s.writeDirectory a) :=
  (Tidy.foldl (fun _ _ h1 => h1.setCells _ _ _) _ (hs.evictLine _)).renew

theorem Tidy.copyGranule {s : State} (hs : Tidy s) (tid gran : Nat) : Tidy (s.copyGranule tid gran) := by
  unfold State.copyGranule
  dsimp only
  split
  · exact hs
  · split
    · refine Tidy.modTake ?_ _ _
      refine Tidy.setField ?_ _ _ _ _
      exact (Tidy.foldl (fun _ _ h1 => h1.copyLine _ _) _ hs).writeDirectory _
    · exact hs.modTake _ _

theorem Tidy.transAcc {s : State} (hs : Tidy s) (g : Group) (va : Nat) (k : AccKind) : Tidy (s.transAcc g va k).1 := by
  unfold State.transAcc
  dsimp only
  split
  · exact hs.translateFor _ _ _
  · split
    · exact hs.translateFor _ _ _
    · split <;> exact hs.translateFor _ _ _

theorem Tidy.tolerate {s : State} (hs : Tidy s) (pa : Nat) : Tidy (s.tolerate pa) := hs

theorem Tidy.modBank {s : State} (hs : Tidy s) (g b : Nat) (f : Bank → Bank) : Tidy (s.modBank g b f) := hs

/-! ### Control flow -/

theorem Tidy.goTo {s : State} (hs : Tidy s) (e : Env) (ts : List (Nat × Nat)) (prio : Option (BitVec 8)) : Tidy (s.goTo e ts prio) := hs

theorem Tidy.jump {s : State} {k : State → List Nat → State} (hs : Tidy s) (e : Env) (fails : List (Nat × Nat × Nat))
    (faults : List (Nat × List Nat)) (write : Bool) (hk : ∀ t x1, Tidy t → Tidy (k t x1)) : Tidy (s.jump e fails faults write k) := by
  unfold State.jump
  split
  · exact hs.fail _ _ _ _ _
  · exact hs.fail _ _ _ _ _
  · exact hs.settleLanes _ _ _ _ (fun _ _ h1 => hk _ _ h1)

theorem Tidy.branch {s : State} {k : State → List (Nat × Nat) → State} (hs : Tidy s) (e : Env) (ok : Line → Nat → Bool)
    (ts : List (Nat × Nat)) (hk : ∀ t x1, Tidy t → Tidy (k t x1)) : Tidy (s.branch e ok ts k) := by
  unfold State.branch
  refine (hs.fetchTargets _ _ _).jump _ _ _ _ (fun _ _ h1 => ?_)
  exact hk _ _ h1

theorem Tidy.branchReg {s : State} {k : State → List (Nat × Nat) → State} (hs : Tidy s) (e : Env) (ok : Line → Nat → Bool)
    (ts : List (Nat × Nat × Bool)) (faults : List (Nat × List Nat)) (hk : ∀ t x1, Tidy t → Tidy (k t x1)) : Tidy
    (s.branchReg e ok ts faults k) := by
  unfold State.branchReg
  refine (hs.fetchTargets _ _ _).jump _ _ _ _ (fun _ _ h1 => ?_)
  exact hk _ _ h1

theorem Tidy.pairTargets {s : State} {k : Env → State → List (Nat × Nat × Bool) → List (Nat × List Nat) → State} (hs : Tidy s) (h : Hdr)
    (va : Nat) (hk : ∀ x0 t x2 x3, Tidy t → Tidy (k x0 t x2 x3)) : Tidy (s.pairTargets h va k) := by
  unfold State.pairTargets
  refine hs.checked _ _ (fun _ => ?_) (fun _ => hs)
  exact hk _ _ _ _ (hs.readRows _ _)

theorem Tidy.frames {s : State} (hs : Tidy s) (e : Env) (k : AccKind) (depth : Nat → Nat) (ys : List Nat) : Tidy
    (s.frames e k depth ys).1 := by
  induction ys generalizing s with
  | nil =>
    unfold State.frames
    exact hs
  | cons x xs ih =>
    unfold State.frames
    dsimp only
    split <;> exact ih (hs.transAcc _ _ _)

theorem Tidy.copyAll {s : State} (hs : Tidy s) (tid : Nat) (ls : List Loc) : Tidy (s.copyAll tid ls) := by
  induction ls generalizing s with
  | nil => exact hs
  | cons l ls ih =>
    cases l with
    | bank g b off => exact ih hs
    | mem a pg =>
      refine ih ?_
      split
      · exact hs.copyGranule _ _
      · exact hs

theorem Tidy.callLanes {s : State} (hs : Tidy s) (e : Env) (prio : BitVec 8) (ts : List (Nat × Nat × Bool)) (faults : List (Nat × List Nat))
    : Tidy (s.callLanes e prio ts faults) := by
  unfold State.callLanes
  refine ((hs.fetchTargets _ _ _).frames _ _ _ _).jump _ _ _ _ (fun _ _ h1 => ?_)
  refine Tidy.modLanes ?_ _ _ _
  exact (Tidy.foldl (fun _ _ h11 => h11.writeUnits _ _ _) _ (h1.copyAll _ _)).goTo _ _ _

theorem Tidy.readFrames {s : State} (hs : Tidy s) (e : Env) (ys : List (Nat × Loc × Nat)) : Tidy (s.readFrames e ys).1 := by
  induction ys generalizing s with
  | nil =>
    unfold State.readFrames
    exact hs
  | cons x xs ih =>
    unfold State.readFrames
    exact ih (hs.readUnits _ _)

theorem Tidy.retLanes {s : State} (hs : Tidy s) (e : Env) (act : List Nat) (faults : List (Nat × List Nat)) : Tidy
    (s.retLanes e act faults) := by
  unfold State.retLanes
  dsimp only
  split
  · exact ((hs.frames _ _ _ _).readFrames _ _).hwError _ _ _ _
  · refine (((hs.frames _ _ _ _).readFrames _ _).fetchTargets _ _ _).jump _ _ _ _ (fun _ _ h1 => ?_)
    exact h1.modLanes _ _ _

theorem Tidy.block {s : State} (hs : Tidy s) (e : Env) (lanes : List Nat) (f : Nat → LaneAt) : Tidy (s.block e lanes f) := hs

theorem Tidy.userTrap {s : State} (hs : Tidy s) (e : Env) (code : Nat) : Tidy (s.userTrap e code) := (hs.modWarp _ _ _).checkHalt _ _

/-! ### Fixed latency -/

theorem Tidy.int2 {s : State} (hs : Tidy s) (h : Hdr) (i : Instr) (lat : Nat) (o : Int2) (f : Int → Int → Int) : Tidy
    (s.int2 h i lat o f) :=
  hs.alu _ _ _ _ _ _ _

theorem Tidy.int1 {s : State} (hs : Tidy s) (h : Hdr) (i : Instr) (o : Int1) (f : Int → Int) : Tidy (s.int1 h i o f) := hs.alu _ _ _ _ _ _ _

theorem Tidy.logic2 {s : State} (hs : Tidy s) (h : Hdr) (i : Instr) (o : Int2) (f : Nat → Nat → Nat) : Tidy (s.logic2 h i o f) :=
  hs.alu _ _ _ _ _ _ _

theorem Tidy.logic1 {s : State} (hs : Tidy s) (h : Hdr) (i : Instr) (o : Int1) (f : Nat → Nat) : Tidy (s.logic1 h i o f) :=
  hs.alu _ _ _ _ _ _ _

theorem Tidy.shift {s : State} (hs : Tidy s) (h : Hdr) (i : Instr) (o : Int2) (f : Nat → Nat → Nat → Nat) : Tidy (s.shift h i o f) :=
  hs.alu _ _ _ _ _ _ _

theorem Tidy.smovAt {s : State} (hs : Tidy s) (e : Env) (h : Hdr) (i : Instr) (ty : Ty) (haz : Bool) (d a : Int) : Tidy
    (s.smovAt e h i ty haz d a) :=
  (hs.fail _ _ _ _ _).ite (hs.addOp _)

/-! ### Across lanes -/

theorem Tidy.reduce {s : State} (hs : Tidy s) (h : Hdr) (i : Instr) (op : RedOp) (ty : Ty) (sat : Bool) (rnd : Rnd) (d : Reg) (a : Src)
    (cover : Nat → Nat → Bool) : Tidy (s.reduce h i op ty sat rnd d a cover) :=
  (hs.fixed _ _ _ _ _ _).modOp _ _

/-! ### Floating point -/

theorem Tidy.fpu {s : State} (hs : Tidy s) (h : Hdr) (i : Instr) (k : Shadow) (ty : Ty) (abs neg : Nat) (d : Reg) (srcs : List Src)
    (f : Nat → List Nat → FRes) : Tidy (s.fpu h i k ty abs neg d srcs f) :=
  (hs.fixed _ _ _ _ _ _).modOp _ _

theorem Tidy.fminmax {s : State} (hs : Tidy s) (h : Hdr) (i : Instr) (o : FMinOps) (max : Bool) : Tidy (s.fminmax h i o max) :=
  hs.fixed _ _ _ _ _ _

theorem Tidy.special1 {s : State} (hs : Tidy s) (h : Hdr) (i : Instr) (lat : Nat) (o : FunOps) (f : Nat → Nat → FRes) : Tidy
    (s.special1 h i lat o f) :=
  hs.fixed _ _ _ _ _ _

theorem Tidy.coreOnly {s : State} {k : State} (hs : Tidy s) (hk : Tidy k) (h : Hdr) : Tidy (s.coreOnly h k) := by
  unfold State.coreOnly
  split
  · exact hs
  · split
    · exact hs.ite (hs.returnTrap _)
    · exact hk

theorem Tidy.coreFun {s : State} (hs : Tidy s) (h : Hdr) (i : Instr) (lat : Nat) (o : FunOps) (f : Nat → Nat → FRes) : Tidy
    (s.coreFun h i lat o f) := by
  unfold State.coreFun
  split
  · exact hs.special1 _ _ _ _ _
  · exact hs.coreOnly (hs.special1 _ _ _ _ _) _

/-! ### Conversions -/

theorem Tidy.flagsOp {s : State} (hs : Tidy s) (h : Hdr) (i : Instr) (o : DaOps) : Tidy (s.flagsOp h i o) := by
  unfold State.flagsOp
  refine hs.checked _ _ (fun _ => ?_) (fun _ => hs.undefineLost _ _ _ _)
  dsimp only
  split
  · exact (hs.addOp _).undefineLost _ _ _ _
  · exact hs.fail _ _ _ _ _

end Sys2Proof.Claims
end

section
/-!
SUPPORT. Memory and the L2 stay canonical: memory operations, engines, tensors, copies, barriers.
-/

namespace Sys2Proof.Claims

open Sys2Proof.Machine

/-! ### Loads, stores and atomics -/

theorem Tidy.acquireAt {s : State} (hs : Tidy s) (g : Group) (scope : Nat) : Tidy (s.acquireAt g scope) := hs.ite (hs.invalidateL1 _)

theorem Tidy.launch {s : State} (hs : Tidy s) (e : Env) (o : Op) : Tidy (s.launch e o) := by
  unfold State.launch
  dsimp only
  repeat' split
  all_goals exact hs

theorem Tidy.locUnit {s : State} (hs : Tidy s) (g : Group) (sp : Space) (k : AccKind) (lane addr n : Nat) : Tidy
    (s.locUnit g sp k lane addr n).1 := by
  unfold State.locUnit
  split
  · exact hs
  · exact hs.transAcc _ _ _

theorem Tidy.locLane {s : State} (hs : Tidy s) (g : Group) (sp : Space) (k : AccKind) (lane addr : Nat) (ys : List (Nat × Nat)) : Tidy
    (s.locLane g sp k lane addr ys).1 := by
  induction ys generalizing s with
  | nil =>
    unfold State.locLane
    exact hs
  | cons x xs ih =>
    unfold State.locLane
    dsimp only
    split <;> exact ih (hs.locUnit _ _ _ _ _ _)

theorem Tidy.locLanes {s : State} (hs : Tidy s) (g : Group) (sp : Space) (k : AccKind) (us ys : List (Nat × Nat)) : Tidy
    (s.locLanes g sp k us ys).1 := by
  induction ys generalizing s with
  | nil =>
    unfold State.locLanes
    exact hs
  | cons x xs ih =>
    unfold State.locLanes
    dsimp only
    split <;> exact ih (hs.locLane _ _ _ _ _ _)

theorem Tidy.launchOrHold {s : State} (hs : Tidy s) (e : Env) (o : Op) (unstarted : Bool) : Tidy (s.launchOrHold e o unstarted) := by
  unfold State.launchOrHold
  split
  · exact (hs.addOp _).modLanes _ _ _
  · exact hs.launch _ _

theorem Tidy.access {s : State} (hs : Tidy s) (h : Hdr) (i : Instr) (sp : Space) (k : AccKind) (six : Bool) (n : Nat) (dst : List Nat)
    (args : List Arg) (addr : Row → Nat) (lv : Row → List Nat) : Tidy (s.access h i sp k six n dst args addr lv) := by
  unfold State.access
  refine hs.checked _ _ (fun _ => ?_) (fun _ => hs)
  dsimp only
  split
  · exact hs.fail _ _ _ _ _
  · refine Tidy.undefineLost ?_ _ _ _ _
    exact ((hs.popArgs _ _).locLanes _ _ _ _ _).settleLanes _ _ _ _ (fun _ _ h1 => h1.ite ((h1.launchOrHold _ _ _).unsettle _ _))

theorem Tidy.load {s : State} (hs : Tidy s) (h : Hdr) (i : Instr) (sp : Space) (o : LoadOps) : Tidy (s.load h i sp o) :=
  hs.access _ _ _ _ _ _ _ _ _ _

theorem Tidy.store {s : State} (hs : Tidy s) (h : Hdr) (i : Instr) (sp : Space) (o : StoreOps) : Tidy (s.store h i sp o) :=
  hs.access _ _ _ _ _ _ _ _ _ _

theorem Tidy.readAccs {s : State} (hs : Tidy s) (v : Via) (blind : Nat → Bool) (ys : List Acc) : Tidy (s.readAccs v blind ys).1 := by
  induction ys generalizing s with
  | nil =>
    unfold State.readAccs
    exact hs
  | cons x xs ih =>
    unfold State.readAccs
    exact ih (hs.readUnits _ _)

theorem Tidy.readPart {s : State} (hs : Tidy s) (o : Op) (v : Via) (j : Nat) : Tidy (s.readPart o v j) := by
  unfold State.readPart
  split
  · exact hs
  · split
    · exact hs
    · exact hs.ite ((hs.readUnit _ _).modOp _ _)

theorem Tidy.doLoad {s : State} (hs : Tidy s) (o : Op) (v : Via) (d : Reg) (vals : Nat → List (Nat × Nat)) : Tidy
    (s.doLoad o v d vals) := by
  unfold State.doLoad
  refine Tidy.finishOp ?_ _
  split
  · exact ((hs.readAccs _ _ _).renew).hwError _ _ _ _
  · exact (hs.readAccs _ _ _).renew

theorem Tidy.doLd {s : State} (hs : Tidy s) (o : Op) (g : Group) (x : LoadOps) : Tidy (s.doLd o g x) := by
  unfold State.doLd
  split
  · exact (hs.doLoad _ _ _ _).acquireAt _ _
  · exact hs.doLoad _ _ _ _

theorem Tidy.doLdu {s : State} (hs : Tidy s) (o : Op) (g : Group) (x : LoadOps) : Tidy (s.doLdu o g x) := by
  unfold State.doLdu
  refine Tidy.finishOp ?_ _
  split
  · exact ((hs.readAccs _ _ _).renew).hwError _ _ _ _
  · exact (hs.readAccs _ _ _).renew

theorem Tidy.writeAccs {s : State} (hs : Tidy s) (v : Via) (val : Nat → Nat) (ys : List Acc) : Tidy (s.writeAccs v val ys) := by
  induction ys generalizing s with
  | nil =>
    unfold State.writeAccs
    exact hs
  | cons x xs ih =>
    unfold State.writeAccs
    exact ih (hs.writeUnits _ _ _)

theorem Tidy.spoilSpan {s : State} (hs : Tidy s) (x : Nat × Nat) : Tidy (s.spoilSpan x) := by
  unfold State.spoilSpan
  refine Tidy.renew ?_
  refine Tidy.setCells ?_ _ _ _
  refine Tidy.noteWrite ?_ _ _
  exact hs.evictLine _

theorem Tidy.noteWatched {s : State} (hs : Tidy s) (spans : List (Nat × Nat)) : Tidy (s.noteWatched spans) :=
  Tidy.foldl (fun _ _ h1 => h1.spoilSpan _) _ hs

theorem Tidy.noteRaces {s : State} (hs : Tidy s) (by_ : Option Nat) (spans : List (Nat × Nat)) : Tidy (s.noteRaces by_ spans) := by
  unfold State.noteRaces
  dsimp only
  split
  · exact hs.noteWatched _
  · exact hs.noteWatched _

theorem Tidy.setWordState {s : State} (hs : Tidy s) (tid : Nat) (u : MUnit) (k : Nat) : Tidy (s.setWordState tid u k) := hs

theorem Tidy.spoilWords {s : State} (hs : Tidy s) (v : Via) (ps qs : List (MUnit × Nat)) : Tidy (s.spoilWords v ps qs) := by
  unfold State.spoilWords
  refine Tidy.foldl (fun _ _ h1 => ?_) _ ?_
  · exact h1
  · exact Tidy.foldl (fun _ _ h1 => (h1.writeUnit _ _ _).renew) _ hs

theorem Tidy.storeAccs {s : State} (hs : Tidy s) (o : Op) (g : Group) (val : Nat → Nat) (accs : List Acc) : Tidy
    (s.storeAccs o g val accs) :=
  ((hs.writeAccs _ _ _).spoilWords _ _ _).noteRaces _ _

theorem Tidy.endStore {s : State} (hs : Tidy s) (o : Op) (g : Group) : Tidy (s.endStore o g) := (hs.clearCovered _ _).finishOp _

theorem Tidy.doSt {s : State} (hs : Tidy s) (o : Op) (g : Group) : Tidy (s.doSt o g) := (hs.storeAccs _ _ _ _).endStore _ _

theorem Tidy.storePart {s : State} (hs : Tidy s) (o : Op) (g : Group) (j : Nat) : Tidy (s.storePart o g j) := by
  unfold State.storePart
  split
  · exact hs
  · split
    · exact hs
    · exact (hs.storeAccs _ _ _ _).modOp _ _

theorem Tidy.mixedScope {s : State} (hs : Tidy s) (tid : Nat) (l : Loc) (scope : Nat) : Tidy (s.mixedScope tid l scope).1 := by
  unfold State.mixedScope
  repeat' split
  all_goals exact hs

theorem Tidy.mixedAll {s : State} (hs : Tidy s) (l : Loc) (scope : Nat) : Tidy (s.mixedAll l scope).1 := by
  unfold State.mixedAll
  refine Tidy.foldl_fst (fun _ _ h1 => ?_) _ ?_
  · exact h1.mixedScope _ _ _
  · exact hs

theorem Tidy.reachPoint {s : State} (hs : Tidy s) (agent ctx scope : Nat) (u : MUnit) : Tidy (s.reachPoint agent ctx scope u).1 := by
  unfold State.reachPoint
  split
  · dsimp only
    split
    · exact ((hs.evictLine _).ite hs).dropL1 _ _
    · exact (hs.evictLine _).ite hs
  · exact hs

theorem Tidy.atomRead {s : State} (hs : Tidy s) (agent ctx scope : Nat) (u : MUnit) : Tidy (s.atomRead agent ctx scope u).1 := by
  unfold State.atomRead
  dsimp only
  split
  · exact ((((hs.reachPoint _ _ _ _).mixedAll _ _).readUnit _ _).writeUnit _ _ _).renew
  · exact ((hs.reachPoint _ _ _ _).mixedAll _ _).readUnit _ _

theorem Tidy.rmw {s : State} (hs : Tidy s) (agent ctx scope : Nat) (u : MUnit) (f : Nat → Nat) : Tidy (s.rmw agent ctx scope u f).1 := by
  unfold State.rmw
  dsimp only
  split
  · exact hs.atomRead _ _ _ _
  · exact (hs.atomRead _ _ _ _).writeUnit _ _ _

theorem Tidy.atomAccs {s : State} (hs : Tidy s) (agent ctx scope : Nat) (blind : Nat → Bool) (f : Nat → Nat → Nat) (ys : List Acc) : Tidy
    (s.atomAccs agent ctx scope blind f ys).1 := by
  induction ys generalizing s with
  | nil =>
    unfold State.atomAccs
    exact hs
  | cons x xs ih =>
    unfold State.atomAccs
    dsimp only
    split
    · exact ih (hs.rmw _ _ _ _ _)
    · exact ih hs

theorem Tidy.doAtom {s : State} (hs : Tidy s) (o : Op) (g : Group) (op : AtomOp) (ty : Ty) (ord : AOrd) (scope : Nat) (d : Option Reg) :
    Tidy (s.doAtom o g op ty ord scope d) := by
  unfold State.doAtom
  dsimp only
  split
  · refine Tidy.acquireAt ?_ _ _
    refine Tidy.finishOp ?_ _
    split
    · exact (((hs.atomAccs _ _ _ _ _ _).renew).noteRaces _ _).hwError _ _ _ _
    · exact ((hs.atomAccs _ _ _ _ _ _).renew).noteRaces _ _
  · refine Tidy.finishOp ?_ _
    split
    · exact (((hs.atomAccs _ _ _ _ _ _).renew).noteRaces _ _).hwError _ _ _ _
    · exact ((hs.atomAccs _ _ _ _ _ _).renew).noteRaces _ _

/-! ### Engines -/

theorem Tidy.showTaint {s : State} (hs : Tidy s) (tid : Nat) : Tidy (s.showTaint tid) := by
  unfold State.showTaint
  repeat' split
  all_goals exact hs

theorem Tidy.taintWord {s : State} (hs : Tidy s) (tid va : Nat) : Tidy (s.taintWord tid va) := (hs.modTake _ _).showTaint _

theorem Tidy.untaintWord {s : State} (hs : Tidy s) (tid va : Nat) : Tidy (s.untaintWord tid va) := (hs.modTake _ _).showTaint _

theorem Tidy.engineError {s : State} (hs : Tidy s) (o : Op) : Tidy (s.engineError o) := by
  unfold State.engineError
  split
  · exact hs
  · exact (hs.hwError _ _ _ _).ite (hs.progError _ _ _ _ _ _)

theorem Tidy.lostWord {s : State} (hs : Tidy s) (o : Op) (g : Group) (code va : Nat) : Tidy (s.lostWord o g code va) := by
  unfold State.lostWord
  split
  · exact hs
  · exact (hs.settleError _ _ _ _).ite (hs.progError _ _ _ _ _ _)

theorem Tidy.arrive {s : State} (hs : Tidy s) (o : Op) (g : Group) (agent : Nat) : Tidy (s.arrive o g agent) := by
  unfold State.arrive
  dsimp only
  split
  · exact hs
  · split
    · exact ((hs.modOp _ _).translateFor _ _ _).lostWord _ _ _ _
    · split
      · exact ((hs.modOp _ _).translateFor _ _ _).lostWord _ _ _ _
      · split
        · split
          · exact ((((hs.modOp _ _).translateFor _ _ _).copyAll _ _).rmw _ _ _ _ _).noteRaces _ _
          · exact (((((hs.modOp _ _).translateFor _ _ _).copyAll _ _).rmw _ _ _ _ _).noteRaces _ _).hwError _ _ _ _
        · split
          · exact ((((((hs.modOp _ _).translateFor _ _ _).copyAll _ _).rmw _ _ _ _ _).noteRaces _ _).taintWord _ _).logError _ _ _ _ _ _ _ _
          · exact ((((hs.modOp _ _).translateFor _ _ _).copyAll _ _).rmw _ _ _ _ _).noteRaces _ _

theorem Tidy.reaches {s : State} (hs : Tidy s) (g : Group) (ys : List (Nat × Nat × AccKind)) : Tidy (s.reaches g ys).1 := by
  induction ys generalizing s with
  | nil =>
    unfold State.reaches
    exact hs
  | cons x xs ih =>
    unfold State.reaches
    refine ih (Tidy.foldl_fst (fun _ _ h1 => ?_) _ ?_)
    · exact h1.transAcc _ _ _
    · exact hs

theorem Tidy.failRead {s : State} (hs : Tidy s) (e : Env) (codes : List Nat) (code addr : Nat) (write : Bool) : Tidy
    (s.failRead e codes code addr write) :=
  hs.ite (hs.fail _ _ _ _ _)

theorem Tidy.markEarly {s : State} (hs : Tidy s) (id : Nat) (early : Bool) : Tidy (s.markEarly id early) := by
  unfold State.markEarly
  split <;> exact hs

theorem Tidy.dispatch {s : State} {k : Env → State} {k' : Env → State} (hs : Tidy s) (h : Hdr) (codes : List Nat) (hk : ∀ x0, Tidy (k x0))
    (hk' : ∀ x0, Tidy (k' x0)) : Tidy (s.dispatch h codes k k') := by
  unfold State.dispatch
  refine hs.withEnv _ (fun _ => ?_) (fun _ => ?_)
  · split
    · exact hs
    · split
      · exact hs.fail _ _ _ _ _
      · exact (hk _).markEarly _ _
  · split
    · exact hs
    · exact hk' _

theorem Tidy.barrierWord {s : State} {k : Option (Nat × Nat) → State} (hs : Tidy s) (e : Env) (bw : Option Bw) (hk : ∀ x0, Tidy (k x0)) :
    Tidy (s.barrierWord e bw k) := by
  unfold State.barrierWord
  dsimp only
  split
  · exact hk _
  · split
    · exact hs.failRead _ _ _ _ _
    · split
      · exact hs.failRead _ _ _ _ _
      · exact hk _

theorem Tidy.command {s : State} {k : Env → Option (Nat × Nat) → State} {k' : Env → State} (hs : Tidy s) (h : Hdr) (codes : List Nat)
    (bw : Option Bw) (hk : ∀ x0 x1, Tidy (k x0 x1)) (hk' : ∀ x0, Tidy (k' x0)) : Tidy (s.command h codes bw k k') := by
  unfold State.command
  refine hs.dispatch _ _ (fun _ => ?_) (fun _ => ?_)
  · refine hs.barrierWord _ _ (fun _ => ?_)
    exact hk _ _
  · exact hk' _

theorem Tidy.reaching {s : State} {k : State → State} (hs : Tidy s) (e : Env) (rs : List (Nat × Nat × AccKind))
    (hk : ∀ t, Tidy t → Tidy (k t)) : Tidy (s.reaching e rs k) := by
  unfold State.reaching
  dsimp only
  split
  · split
    · exact hk _ (hs.reaches _ _)
    · exact (hs.reaches _ _).returnTrap _
  · exact hk _ hs

theorem Tidy.engineRead {s : State} (hs : Tidy s) (g : Group) (v : Via) (poison va n : Nat) : Tidy (s.engineRead g v poison va n).1 := by
  unfold State.engineRead
  dsimp only
  split
  · exact hs.renew
  · split
    · exact (hs.transAcc _ _ _).renew
    · split
      · exact ((hs.transAcc _ _ _).readUnit _ _).renew
      · exact (hs.transAcc _ _ _).readUnit _ _

theorem Tidy.engineWrite {s : State} (hs : Tidy s) (g : Group) (v : Via) (va n x : Nat) : Tidy (s.engineWrite g v va n x).1 := by
  unfold State.engineWrite
  dsimp only
  split
  · exact hs
  · split
    · exact hs.transAcc _ _ _
    · exact (((hs.transAcc _ _ _).copyAll _ _).writeUnit _ _ _).noteRaces _ _

theorem Tidy.engineReads {s : State} (hs : Tidy s) (g : Group) (v : Via) (poison : Nat) (ys : List (Nat × Nat)) : Tidy
    (s.engineReads g v poison ys).1 := by
  induction ys generalizing s with
  | nil =>
    unfold State.engineReads
    exact hs
  | cons x xs ih =>
    unfold State.engineReads
    refine ih ?_
    dsimp only
    split
    · exact hs.engineRead _ _ _ _ _
    · exact hs.engineRead _ _ _ _ _

theorem Tidy.engineReadSpan {s : State} (hs : Tidy s) (g : Group) (v : Via) (poison va n : Nat) : Tidy
    (s.engineReadSpan g v poison va n).1 :=
  hs.engineReads _ _ _ _

theorem Tidy.engineWrites {s : State} (hs : Tidy s) (g : Group) (v : Via) (ys : List (Nat × Nat)) (n : Nat) : Tidy
    (s.engineWrites g v ys n).1 := by
  induction ys generalizing s g v n with
  | nil =>
    unfold State.engineWrites
    exact hs
  | cons x xs ih =>
    unfold State.engineWrites
    exact ih (hs.engineWrite _ _ _ _ _) _ _ _

theorem Tidy.coverSectors {s : State} (hs : Tidy s) (g : Group) (v : Via) (va n : Nat) : Tidy (s.coverSectors g v va n) := by
  unfold State.coverSectors
  refine Tidy.foldl (fun _ _ h1 => ?_) _ hs
  dsimp only
  split
  · exact h1.transAcc _ _ _
  · split
    · exact (h1.transAcc _ _ _).setPoisonFor _ _ _
    · exact h1.transAcc _ _ _

theorem Tidy.coverSpans {s : State} (hs : Tidy s) (g : Group) (v : Via) (rs : List (Nat × Nat)) : Tidy (s.coverSpans g v rs) := by
  unfold State.coverSpans
  refine Tidy.clearCovered ?_ _ _
  refine Tidy.foldl_fst (fun _ _ h1 => ?_) _ ?_
  · dsimp only
    split <;> exact h1.transAcc _ _ _
  · exact hs

theorem Tidy.addPendings {s : State} (hs : Tidy s) (keys : List Nat) : Tidy (s.addPendings keys) :=
  Tidy.foldl (fun _ _ h1 => h1.modBank _ _ _) _ hs

theorem Tidy.subPendings {s : State} (hs : Tidy s) (keys : List Nat) : Tidy (s.subPendings keys) :=
  Tidy.foldl (fun _ _ h1 => h1.modBank _ _ _) _ hs

theorem Tidy.noteOperands {s : State} (hs : Tidy s) (o : Op) (lanes : Bool) (us : List MUnit) : Tidy (s.noteOperands o lanes us) := by
  unfold State.noteOperands
  dsimp only
  split <;> exact hs

theorem Tidy.landUnit {s : State} (hs : Tidy s) (u : MUnit) (x : Nat) : Tidy (s.landUnit u x) := by
  unfold State.landUnit
  repeat' split
  all_goals exact hs

/-! ### Tensors -/

theorem Tidy.readDesc {s : State} (hs : Tidy s) (e : Env) (va : Nat) : Tidy (s.readDesc e va).1 := by
  unfold State.readDesc
  dsimp only
  split
  · exact hs.transAcc _ _ _
  · split <;> exact (hs.transAcc _ _ _).readUnits _ _

theorem Tidy.tensorAt {s : State} {lost : State} (hs : Tidy s) (hlost : Tidy lost) (e : Env) (o : Op) (va w c vc : Nat) (vs dst : List Nat)
    (early : Bool) : Tidy (s.tensorAt e o va w c vc vs dst early lost) := by
  unfold State.tensorAt
  dsimp only
  split
  · exact hlost.ite (hs.fail _ _ _ _ _)
  · split
    · exact hlost.ite (hs.fail _ _ _ _ _)
    · split
      · exact hlost.ite (hs.fail _ _ _ _ _)
      · split
        · exact hlost.ite (hs.fail _ _ _ _ _)
        · refine Tidy.undefineLost ?_ _ _ _ _
          refine Tidy.settleLanes ?_ _ _ _ _ (fun _ _ h1 => h1.ite ((h1.launch _ _).unsettle _ _))
          refine Tidy.foldl_fst (fun _ _ h1 => ?_) _ ?_
          · split <;> exact h1.locLane _ _ _ _ _ _
          · exact hs.readRows _ _

theorem Tidy.tensor {s : State} (hs : Tidy s) (h : Hdr) (i : Instr) (c desc vc : Nat) (dst : List Nat) (data : Option Nat) : Tidy
    (s.tensor h i c desc vc dst data) := by
  unfold State.tensor
  refine hs.checked _ _ (fun _ => ?_) (fun _ => hs)
  dsimp only
  split
  · split
    · exact hs.fail _ _ _ _ _
    · exact (hs.undefine _ _ _ _).ite (hs.fail _ _ _ _ _)
  · split
    · split
      · exact hs.fail _ _ _ _ _
      · split
        · exact hs.undefine _ _ _ _
        · exact (hs.readDesc _ _).settleLanes _ _ _ _ (fun _ _ h1 => h1)
    · exact (hs.readDesc _ _).tensorAt (hs.undefine _ _ _ _) _ _ _ _ _ _ _ _ _

theorem Tidy.doLdt {s : State} (hs : Tidy s) (o : Op) (g : Group) (x : LdtOps) : Tidy (s.doLdt o g x) := by
  unfold State.doLdt
  refine Tidy.finishOp ?_ _
  split
  · exact ((hs.readAccs _ _ _).renew).hwError _ _ _ _
  · exact (hs.readAccs _ _ _).renew

theorem Tidy.doStt {s : State} (hs : Tidy s) (o : Op) (g : Group) : Tidy (s.doStt o g) := (hs.storeAccs _ _ _ _).endStore _ _

/-! ### Copies and cache maintenance -/

theorem Tidy.startCopy {s : State} (hs : Tidy s) (o : Op) (us : List Acc) : Tidy (s.startCopy o us) := ((hs.addPendings _).ite hs).modOp _ _

theorem Tidy.issueCopy {s : State} (hs : Tidy s) (e : Env) (o : Op) (codes : List Nat) : Tidy (s.issueCopy e o codes) := by
  unfold State.issueCopy
  dsimp only
  split
  · exact hs.failRead _ _ _ _ _
  · refine hs.reaching _ _ (fun _ h1 => ?_)
    split
    · exact (h1.addOp _).modLanes _ _ _
    · exact (h1.addOp _).startCopy _ _

theorem Tidy.copyBlock {s : State} (hs : Tidy s) (h : Hdr) (i : Instr) (o : CpaOps) : Tidy (s.copyBlock h i o) := by
  unfold State.copyBlock
  refine hs.command _ _ _ (fun _ _ => ?_) (fun _ => hs)
  dsimp only
  split
  · exact hs.failRead _ _ _ _ _
  · exact (hs.failRead _ _ _ _ _).ite (hs.issueCopy _ _ _)

theorem Tidy.copyLanes {s : State} (hs : Tidy s) (h : Hdr) (i : Instr) (o : CpaLnOps) : Tidy (s.copyLanes h i o) := by
  unfold State.copyLanes
  refine hs.dispatch _ _ (fun _ => ?_) (fun _ => hs)
  dsimp only
  split
  · exact hs.fail _ _ _ _ _
  · refine hs.barrierWord _ _ (fun _ => ?_)
    split
    · exact hs.fail _ _ _ _ _
    · exact hs.issueCopy _ _ _

theorem Tidy.landEach {s : State} (hs : Tidy s) (o : Op) (g : Group) (rest ys : List Acc) : Tidy (s.landEach o g rest ys).1 := by
  induction ys generalizing s o g rest with
  | nil =>
    unfold State.landEach
    exact hs
  | cons x xs ih =>
    unfold State.landEach
    dsimp only
    split
    · refine ih (Tidy.landUnit ?_ _ _) _ _ _
      split
      · exact hs.engineRead _ _ _ _ _
      · exact hs.engineRead _ _ _ _ _
    · exact ih hs _ _ _

theorem Tidy.landUnits {s : State} (hs : Tidy s) (o : Op) (g : Group) (us : List Acc) : Tidy (s.landUnits o g us) :=
  ((hs.landEach _ _ _ _).noteOperands _ _ _).modOp _ _

theorem Tidy.landLine {s : State} (hs : Tidy s) (o : Op) (g : Group) (line : Nat) : Tidy (s.landLine o g line) :=
  ((hs.landUnits _ _ _).subPendings _).modOp _ _

theorem Tidy.landPart {s : State} (hs : Tidy s) (o : Op) (g : Group) : Tidy (s.landPart o g) := by
  unfold State.landPart
  split
  · exact hs
  · exact hs.landUnits _ _ _

theorem Tidy.outUnits {s : State} (hs : Tidy s) (o : Op) (g : Group) (us : List Acc) : Tidy (s.outUnits o g us).1 := by
  unfold State.outUnits
  refine Tidy.foldl_fst (fun _ _ h1 => ?_) _ ?_
  · dsimp only
    split
    · exact h1.engineWrite _ _ _ _ _
    · exact h1
  · exact hs

theorem Tidy.outPart {s : State} (hs : Tidy s) (o : Op) (g : Group) : Tidy (s.outPart o g) := ((hs.outUnits _ _ _).renew).modOp _ _

theorem Tidy.moveOut {s : State} (hs : Tidy s) (o : Op) (g : Group) : Tidy (s.moveOut o g).1 :=
  (((hs.outUnits _ _ _).coverSpans _ _ _).renew).modOp _ _

theorem Tidy.prefetch {s : State} (hs : Tidy s) (g : Group) (o : PrefOps) (lane va : Nat) : Tidy (s.prefetch g o lane va) := by
  unfold State.prefetch
  dsimp only
  split
  · exact hs
  · split
    · exact hs
    · split
      · split
        · exact hs.transAcc _ _ _
        · split
          · split
            · exact hs.transAcc _ _ _
            · exact (hs.transAcc _ _ _).readCore _ _ _ _ _
          · exact (hs.transAcc _ _ _).fillLine _
      · split
        · exact hs.transAcc _ _ _
        · split
          · split
            · exact hs.transAcc _ _ _
            · exact (hs.transAcc _ _ _).readCore _ _ _ _ _
          · exact (hs.transAcc _ _ _).fillLine _

theorem Tidy.rangeLines {s : State} (hs : Tidy s) (g : Group) (va n : Nat) : Tidy (s.rangeLines g va n).1 := by
  unfold State.rangeLines
  refine Tidy.foldl_fst (fun _ _ h1 => ?_) _ ?_
  · dsimp only
    split <;> exact h1.translateFor _ _ _
  · exact hs

theorem Tidy.maintain {s : State} (hs : Tidy s) (m : Maint) (core line : Nat) : Tidy (s.maintain m core line) := by
  unfold State.maintain
  dsimp only
  split
  · exact (hs.ite (hs.dropL1 _ _)).cleanLine _
  · exact ((hs.ite (hs.dropL1 _ _)).touchLine _).dropLine _
  · exact (hs.ite (hs.dropL1 _ _)).evictLine _

theorem Tidy.issueMaint {s : State} (hs : Tidy s) (h : Hdr) (i : Instr) (o : MaintOps) : Tidy (s.issueMaint h i o) := by
  unfold State.issueMaint
  refine hs.coreOnly ?_ _
  refine hs.checked _ _ (fun _ => ?_) (fun _ => hs)
  dsimp only
  split
  · exact hs
  · exact (hs.failRead _ _ _ _ _).ite (hs.launch _ _)

theorem Tidy.doMaint {s : State} (hs : Tidy s) (o : Op) (g : Group) (m : Maint) : Tidy (s.doMaint o g m) :=
  (Tidy.foldl (fun _ _ h1 => h1.maintain _ _ _) _ (hs.rangeLines _ _ _)).finishOp _

theorem Tidy.switchBank {s : State} (hs : Tidy s) (g : Group) (b : Nat) (m : BankMode) : Tidy (s.switchBank g b m) := by
  unfold State.switchBank
  split
  · exact hs
  · split
    · exact hs
    · refine Tidy.renew ?_
      refine Tidy.trimL1 ?_ _
      refine Tidy.modGroup ?_ _ _
      · split
        · refine Tidy.of_eq ?_ rfl rfl
          split
          · refine Tidy.of_eq ?_ rfl rfl
            split <;> exact hs
          · split <;> exact hs
        · split
          · refine Tidy.of_eq ?_ rfl rfl
            split <;> exact hs
          · split <;> exact hs

theorem Tidy.doBmode {s : State} (hs : Tidy s) (o : Op) (g : Group) (x : BmodeOps) : Tidy (s.doBmode o g x) :=
  (hs.switchBank _ _ _).finishOp _

/-! ### Barriers and words -/

theorem Tidy.issueFence {s : State} (hs : Tidy s) (h : Hdr) (i : Instr) : Tidy (s.issueFence h i) :=
  hs.withEnv _ (fun _ => hs.launch _ _) (fun _ => hs)

theorem Tidy.doAcquire {s : State} (hs : Tidy s) (o : Op) (g : Group) (scope : Nat) : Tidy (s.doAcquire o g scope) :=
  (hs.acquireAt _ _).finishOp _

theorem Tidy.doTrigger {s : State} (hs : Tidy s) (o : Op) (g : Group) : Tidy (s.doTrigger o g) := (hs.modGroup _ _).finishOp _

theorem Tidy.setBar {s : State} (hs : Tidy s) (g : Group) (team : Bool) (n : Nat) (b : Bar) : Tidy (s.setBar g team n b) := by
  unfold State.setBar
  dsimp only
  repeat' split
  all_goals exact hs

theorem Tidy.issueBar {s : State} (hs : Tidy s) (h : Hdr) (i : Instr) (team : Bool) (n : Nat) (wait : Bool) : Tidy
    (s.issueBar h i team n wait) := by
  unfold State.issueBar
  refine hs.withEnv _ (fun _ => ?_) (fun _ => hs)
  dsimp only
  split
  · split
    · refine Tidy.block ?_ _ _ _
      exact ((hs.launch _ _).setBar _ _ _ _).modWarp _ _ _
    · exact ((hs.launch _ _).setBar _ _ _ _).modWarp _ _ _
  · exact hs.fail _ _ _ _ _

theorem Tidy.holdOp {s : State} (hs : Tidy s) (e : Env) (o : Op) : Tidy (s.holdOp e o) := hs

theorem Tidy.issueWord {s : State} (hs : Tidy s) (h : Hdr) (i : Instr) (w : WordRef) (size : Nat) (k : AccKind) (n : Src)
    (bad : Nat → Option Nat) (dst : List Nat) (waits : Bool) : Tidy (s.issueWord h i w size k n bad dst waits) := by
  unfold State.issueWord
  refine hs.checked _ _ (fun _ => ?_) (fun _ => hs)
  dsimp only
  split
  · exact (hs.undefine _ _ _ _).ite (hs.fail _ _ _ _ _)
  · split
    · exact (hs.undefine _ _ _ _).ite (hs.fail _ _ _ _ _)
    · split
      · exact hs.undefine _ _ _ _
      · refine Tidy.undefineLost ?_ _ _ _ _
        refine (hs.locLane _ _ _ _ _ _).settleLanes _ _ _ _ (fun _ _ h1 => ?_)
        split
        · exact h1
        · exact ((h1.holdOp _ _).ite (h1.launchOrHold _ _ _)).unsettle _ _

theorem Tidy.wordPoison {s : State} (hs : Tidy s) (g : Group) (o : Op) (u : MUnit) : Tidy (s.wordPoison g o u) :=
  hs.ite (hs.hwError _ _ _ _)

theorem Tidy.doWord {s : State} (hs : Tidy s) (o : Op) (g : Group) (scope : Nat) (f : Nat → Nat) (d : Option (Reg × (Nat → Nat))) : Tidy
    (s.doWord o g scope f d) := by
  unfold State.doWord
  split
  · refine Tidy.finishOp ?_ _
    refine Tidy.renew ?_
    split
    · exact ((hs.rmw _ _ _ _ _).noteRaces _ _).wordPoison _ _ _
    · exact (hs.rmw _ _ _ _ _).noteRaces _ _
  · exact hs.finishOp _

theorem Tidy.doBwinit {s : State} (hs : Tidy s) (o : Op) (g : Group) (x : BwinitOps) : Tidy (s.doBwinit o g x) := by
  unfold State.doBwinit
  exact (Tidy.foldl (fun _ _ h1 => h1.setWordState _ _ _) _ hs).doWord _ _ _ _ _

theorem Tidy.doBwarr {s : State} (hs : Tidy s) (o : Op) (g : Group) (x : BwarrOps) : Tidy (s.doBwarr o g x) := hs.doWord _ _ _ _ _

theorem Tidy.doSemsig {s : State} (hs : Tidy s) (o : Op) (g : Group) (x : SemsigOps) : Tidy (s.doSemsig o g x) := hs.doWord _ _ _ _ _

theorem Tidy.doErrack {s : State} (hs : Tidy s) (o : Op) (g : Group) (x : ErrackOps) : Tidy (s.doErrack o g x) := by
  unfold State.doErrack
  split
  · exact (hs.doWord _ _ _ _ _).untaintWord _ _
  · exact hs.doWord _ _ _ _ _

theorem Tidy.freeHeld {s : State} (hs : Tidy s) (o : Op) : Tidy (s.freeHeld o) := hs

theorem Tidy.cancelOp {s : State} (hs : Tidy s) (o : Op) : Tidy (s.cancelOp o) := hs.endOp _

theorem Tidy.parkOp {s : State} (hs : Tidy s) (o : Op) (g : Group) (w : Warp) (code addr : Nat) (write : Bool) : Tidy
    (s.parkOp o g w code addr write) := by
  unfold State.parkOp
  split
  · exact ((hs.cancelOp _).modLanes _ _ _).modWarp _ _ _
  · refine Tidy.checkGrow ?_ _
    exact ((hs.cancelOp _).addStop _ _ _ _ _ _ _ _).modLanes _ _ _

theorem Tidy.reachWord {s : State} {k : State → MUnit → State} (hs : Tidy s) (o : Op) (g : Group) (w : Warp) (ref : WordRef) (size : Nat)
    (acc : AccKind) (hk : ∀ t x1, Tidy t → Tidy (k t x1)) : Tidy (s.reachWord o g w ref size acc k) := by
  unfold State.reachWord
  dsimp only
  split
  · split
    · exact ((hs.locUnit _ _ _ _ _ _).cancelOp _).progError _ _ _ _ _ _
    · split
      · exact ((hs.locUnit _ _ _ _ _ _).cancelOp _).settleError _ _ _ _
      · exact (hs.locUnit _ _ _ _ _ _).parkOp _ _ _ _ _ _
  · exact hs
  · split
    · exact hk _ _ (hs.locUnit _ _ _ _ _ _)
    · exact hs.locUnit _ _ _ _ _ _

theorem Tidy.waitOn {s : State} (hs : Tidy s) (o : Op) : Tidy (s.waitOn o) := hs

theorem Tidy.endWatch {s : State} (hs : Tidy s) (g : Group) (ref : WordRef) (va : Nat) : Tidy (s.endWatch g ref va) := by
  unfold State.endWatch
  split <;> exact hs

theorem Tidy.testBwwait {s : State} (hs : Tidy s) (o : Op) (g : Group) (w : Warp) (x : BwwaitOps) : Tidy (s.testBwwait o g w x) := by
  unfold State.testBwwait
  refine hs.reachWord _ _ _ _ _ _ (fun _ _ h1 => ?_)
  dsimp only
  split
  · exact ((h1.atomRead _ _ _ _).cancelOp _).wordPoison _ _ _
  · split
    · exact (((((h1.atomRead _ _ _ _).renew).acquireAt _ _).endWatch _ _ _).freeHeld _).finishOp _
    · exact (h1.atomRead _ _ _ _).waitOn _

theorem Tidy.trySemwait {s : State} (hs : Tidy s) (o : Op) (g : Group) (w : Warp) (x : SemwaitOps) : Tidy (s.trySemwait o g w x) := by
  unfold State.trySemwait
  refine hs.reachWord _ _ _ _ _ _ (fun _ _ h1 => ?_)
  dsimp only
  split
  · exact ((h1.atomRead _ _ _ _).cancelOp _).wordPoison _ _ _
  · split
    · exact (h1.atomRead _ _ _ _).waitOn _
    · refine Tidy.finishOp ?_ _
      refine Tidy.freeHeld ?_ _
      refine Tidy.acquireAt ?_ _ _
      refine Tidy.renew ?_
      refine Tidy.noteRaces ?_ _ _
      split
      · exact (h1.atomRead _ _ _ _).copyAll _ _
      · exact ((h1.atomRead _ _ _ _).copyAll _ _).writeUnit _ _ _

theorem Tidy.doTflag {s : State} (hs : Tidy s) (o : Op) (g : Group) (n : Nat) : Tidy (s.doTflag o g n) := (hs.modTake _ _).finishOp _

end Sys2Proof.Claims
end

section
/-!
SUPPORT. Memory and the L2 stay canonical: matrices, walks, bit-plane arrays, near-memory calls, the base die, fabric operations.
-/

namespace Sys2Proof.Claims

open Sys2Proof.Machine

/-! ### Matrix operations -/

theorem Tidy.setConv {s : State} (hs : Tidy s) (gid c : Nat) (v : Conv) : Tidy (s.setConv gid c v) := hs

theorem Tidy.setTile {s : State} (hs : Tidy s) (gid t : Nat) (v : Tile) : Tidy (s.setTile gid t v) := hs

theorem Tidy.spoilPair {s : State} (hs : Tidy s) (gid t : Nat) : Tidy (s.spoilPair gid t) := hs

theorem Tidy.startTile {s : State} (hs : Tidy s) (o : Op) (g : Group) (t : Nat) (us : List MUnit) : Tidy (s.startTile o g t us) := by
  unfold State.startTile
  dsimp only
  repeat' split
  all_goals exact hs

theorem Tidy.issueTile {s : State} (hs : Tidy s) (e : Env) (o : Op) (t : Nat) (started : Bool) (us : List MUnit) : Tidy
    (s.issueTile e o t started us) := by
  unfold State.issueTile
  split
  · exact (hs.addOp _).startTile _ _ _ _
  · exact (hs.addOp _).modLanes _ _ _

theorem Tidy.doMzero {s : State} (hs : Tidy s) (o : Op) (g : Group) (t : Nat) : Tidy (s.doMzero o g t) :=
  ((hs.spoilPair _ _).ite (hs.setTile _ _ _)).finishOp _

theorem Tidy.doMload {s : State} (hs : Tidy s) (o : Op) (g : Group) (x : MloadOps) : Tidy (s.doMload o g x) := by
  unfold State.doMload
  split
  · exact (hs.spoilPair _ _).finishOp _
  · refine Tidy.finishOp ?_ _
    split
    · split
      · exact (hs.setTile _ _ _).renew
      · exact ((hs.setTile _ _ _).renew).engineError _
    · split
      · exact (hs.setTile _ _ _).renew
      · exact ((hs.setTile _ _ _).renew).engineError _

theorem Tidy.doMout {s : State} (hs : Tidy s) (o : Op) (g : Group) (x : MoutOps) : Tidy (s.doMout o g x) := by
  unfold State.doMout
  refine Tidy.finishOp ?_ _
  split
  · split
    · refine Tidy.renew ?_
      refine Tidy.noteOperands ?_ _ _ _
      refine Tidy.foldl (fun _ _ h1 => ?_) _ hs
      split
      · exact h1.modBank _ _ _
      · exact h1
    · refine Tidy.engineError ?_ _
      refine Tidy.renew ?_
      refine Tidy.noteOperands ?_ _ _ _
      refine Tidy.foldl (fun _ _ h1 => ?_) _ hs
      split
      · exact h1.modBank _ _ _
      · exact h1
  · split
    · refine Tidy.renew ?_
      refine Tidy.noteOperands ?_ _ _ _
      refine Tidy.foldl (fun _ _ h1 => ?_) _ hs
      split
      · exact h1.modBank _ _ _
      · exact h1
    · refine Tidy.engineError ?_ _
      refine Tidy.renew ?_
      refine Tidy.noteOperands ?_ _ _ _
      refine Tidy.foldl (fun _ _ h1 => ?_) _ hs
      split
      · exact h1.modBank _ _ _
      · exact h1

theorem Tidy.countUp {s : State} (hs : Tidy s) (off a : Nat) : Tidy (s.countUp off a) := hs

theorem Tidy.applyLate {s : State} (hs : Tidy s) (gid : Nat) (p : Past) : Tidy (s.applyLate gid p) := by
  unfold State.applyLate
  repeat' split
  all_goals exact hs

theorem Tidy.settleTiles {s : State} (hs : Tidy s) (gid c : Nat) : Tidy (s.settleTiles gid c) := by
  unfold State.settleTiles
  split
  · exact hs
  · refine Tidy.modGroup ?_ _ _
    · exact Tidy.foldl (fun _ _ h1 => h1.applyLate _ _) _ hs

/-! ### Walks -/

theorem Tidy.walkRun {s : State} (hs : Tidy s) (g : Group) (o : Op) (w wd : Nat) : Tidy (s.walkRun g o w wd).1 := by
  unfold State.walkRun
  refine Tidy.foldl_fst (fun _ _ h1 => ?_) _ ?_
  · dsimp only
    split
    · exact h1
    · split
      · exact h1.renew
      · dsimp only
        split
        · exact h1.engineRead _ _ _ _ _
        · exact h1.engineRead _ _ _ _ _
  · exact hs

theorem Tidy.pushWords {s : State} (hs : Tidy s) (gid q : Nat) (ws : List Nat) (tag : Nat) : Tidy (s.pushWords gid q ws tag).1 := by
  unfold State.pushWords
  repeat' split
  all_goals exact hs

theorem Tidy.landPoint {s : State} (hs : Tidy s) (o : Op) (g : Group) (y : Nat × Nat × Nat) (n : Nat) : Tidy (s.landPoint o g y n) :=
  ((((hs.walkRun _ _ _ _).landUnit _ _).noteOperands _ _ _).subPendings _).modOp _ _

/-! ### Bit-plane arrays -/

theorem Tidy.issuePlane {s : State} (hs : Tidy s) (e : Env) (i : Instr) (h : Hdr) (bw : Option (Nat × Nat)) (vals : List Nat) : Tidy
    (s.issuePlane e i h bw vals) :=
  hs

theorem Tidy.issueWordCmd {s : State} (hs : Tidy s) (h : Hdr) (i : Instr) (cmd : Nat) (bw : Option Bw) (bad : Nat → Option Nat) : Tidy
    (s.issueWordCmd h i cmd bw bad) := by
  unfold State.issueWordCmd
  refine hs.coreOnly ?_ _
  refine hs.command _ _ _ (fun _ _ => ?_) (fun _ => hs)
  dsimp only
  split
  · exact hs.failRead _ _ _ _ _
  · exact hs.issuePlane _ _ _ _ _

theorem Tidy.issueMove {s : State} (hs : Tidy s) (h : Hdr) (i : Instr) (o : PlfillOps) : Tidy (s.issueMove h i o) := by
  unfold State.issueMove
  refine hs.coreOnly ?_ _
  refine hs.command _ _ _ (fun _ _ => ?_) (fun _ => hs)
  dsimp only
  split
  · exact hs.failRead _ _ _ _ _
  · exact hs.issuePlane _ _ _ _ _

theorem Tidy.issueOut {s : State} (hs : Tidy s) (h : Hdr) (i : Instr) (addr cmd align : Nat) (bw : Option Bw) (bad : Nat → Option Nat) :
    Tidy (s.issueOut h i addr cmd align bw bad) := by
  unfold State.issueOut
  refine hs.coreOnly ?_ _
  refine hs.command _ _ _ (fun _ _ => ?_) (fun _ => hs)
  dsimp only
  split
  · exact hs.failRead _ _ _ _ _
  · split
    · exact hs.failRead _ _ _ _ _
    · exact (hs.failRead _ _ _ _ _).ite (hs.issuePlane _ _ _ _ _)

theorem Tidy.fillUnit {s : State} (hs : Tidy s) (g : Group) (o : Op) (ys : List (Nat × Nat)) : Tidy (s.fillUnit g o ys).1 := by
  unfold State.fillUnit
  split
  · exact hs
  · dsimp only
    split
    · exact hs.engineRead _ _ _ _ _
    · exact hs.engineRead _ _ _ _ _

theorem Tidy.fillSpan {s : State} (hs : Tidy s) (g : Group) (o : Op) (ys : List (Nat × Nat)) : Tidy (s.fillSpan g o ys).1 := by
  induction ys generalizing s g o with
  | nil =>
    unfold State.fillSpan
    exact hs
  | cons x xs ih =>
    unfold State.fillSpan
    exact ih (hs.fillUnit _ _ _) _ _

theorem Tidy.planeFill {s : State} (hs : Tidy s) (g : Group) (o : Op) (p : Plane) (a w : Nat) : Tidy (s.planeFill g o p a w).1 :=
  (hs.fillSpan _ _ _).renew

theorem Tidy.evictSlices {s : State} (hs : Tidy s) (m : Nat) : Tidy (s.evictSlices m) :=
  Tidy.foldl (fun _ _ h1 => (h1.touchLine _).ite h1) _ hs

theorem Tidy.startAlloc {s : State} (hs : Tidy s) (g : Group) (o : Op) : Tidy (s.startAlloc g o).1 := by
  unfold State.startAlloc
  split
  · exact hs
  · split
    · exact hs
    · exact (hs.evictSlices _).modGroup _ _

theorem Tidy.drainUnits {s : State} (hs : Tidy s) (g : Group) (o : Op) (ys : List (Nat × Nat)) (n : Nat) : Tidy
    (s.drainUnits g o ys n).1 := by
  induction ys generalizing s g o n with
  | nil =>
    unfold State.drainUnits
    exact hs
  | cons x xs ih =>
    unfold State.drainUnits
    refine ih ?_ _ _ _
    dsimp only
    split
    · exact hs.engineWrite _ _ _ _ _
    · split
      · exact hs.engineWrite _ _ _ _ _
      · split
        · exact (hs.engineWrite _ _ _ _ _).transAcc _ _ _
        · exact (((hs.engineWrite _ _ _ _ _).transAcc _ _ _).writeUnit _ _ _).renew

theorem Tidy.outPlane {s : State} (hs : Tidy s) (g : Group) (o : Op) (ps : List (Nat × Nat)) (x : Nat) : Tidy (s.outPlane g o ps x).1 :=
  hs.engineWrites _ _ _ _

theorem Tidy.outUnitsPlane {s : State} (hs : Tidy s) (g : Group) (o : Op) (ps : List (Nat × Nat)) (x : Nat) : Tidy
    (s.outUnitsPlane g o ps x).1 := by
  unfold State.outUnitsPlane
  split
  · exact hs.drainUnits _ _ _ _
  · exact hs.outPlane _ _ _ _

theorem Tidy.planeWrites {s : State} (hs : Tidy s) (g : Group) (o : Op) (p : Plane) : Tidy (s.planeWrites g o p).1 := by
  unfold State.planeWrites
  split
  · exact hs
  · exact (hs.outUnitsPlane _ _ _ _).coverSectors _ _ _ _

theorem Tidy.runPlane {s : State} (hs : Tidy s) (g : Group) (o : Op) (p : Plane) : Tidy (s.runPlane g o p).1 := by
  unfold State.runPlane
  dsimp only
  split
  · split
    · exact hs
    · exact hs.planeFill _ _ _ _ _
  · split
    · exact hs
    · exact hs.planeWrites _ _ _
  · exact hs.renew
  · exact hs.renew
  · exact hs.renew
  · exact hs.renew
  · exact hs.renew
  · exact hs.planeWrites _ _ _
  · exact hs.planeWrites _ _ _
  · exact hs

theorem Tidy.planePart {s : State} (hs : Tidy s) (o : Op) (g : Group) : ∀ t, s.planePart o g = some t → Tidy t := by
  unfold State.planePart
  split
  · exact tidy_of_none
  · split
    · exact tidy_of_none
    · split
      · refine (Tidy.modOp ?_ _ _).ofSome
        split
        · exact hs.fillUnit _ _ _
        · split
          · exact hs
          · exact hs.outUnitsPlane _ _ _ _
      · exact tidy_of_none

/-! ### Room on cores -/

theorem Tidy.addGroup {s : State} (hs : Tidy s) (g : Group) : Tidy (s.addGroup g) := hs

/-! ### Near-memory calls -/

theorem Tidy.onRanges {s : State} {f : State → Nat → State} (hs : Tidy s) (g : Group) (ws : List Nat) (hf : ∀ t x1, Tidy t → Tidy (f t x1))
    : Tidy (s.onRanges g f ws) :=
  Tidy.foldl (fun _ _ h1 => Tidy.foldl (fun _ _ h11 => hf _ _ h11) _ (h1.rangeLines _ _ _)) _ hs

theorem Tidy.cleanRanges {s : State} (hs : Tidy s) (g : Group) (ws : List Nat) : Tidy (s.cleanRanges g ws) :=
  hs.onRanges _ _ (fun _ _ h1 => h1.cleanLine _)

theorem Tidy.dropRanges {s : State} (hs : Tidy s) (g : Group) (moved : Bool) (ws : List Nat) : Tidy (s.dropRanges g moved ws) :=
  hs.onRanges _ _ (fun _ _ h1 => (h1.evictLine _).ite ((h1.touchLine _).dropLine _))

theorem Tidy.watchRanges {s : State} (hs : Tidy s) (o : Op) (g : Group) (ws : List Nat) : Tidy (s.watchRanges o g ws) :=
  (hs.modOp _ _).ite hs

theorem Tidy.spoilRaced {s : State} (hs : Tidy s) (id : Nat) : Tidy (s.spoilRaced id) := by
  unfold State.spoilRaced
  split
  · exact hs
  · exact (Tidy.foldl (fun _ _ h1 => h1.spoilSpan _) _ hs).modOp _ _

theorem Tidy.watch {s : State} (hs : Tidy s) (w : Watch) : Tidy (s.watch w) := by
  unfold State.watch
  split <;> exact hs

theorem Tidy.endJoin {s : State} (hs : Tidy s) (gid j : Nat) (ls : List Nat) : Tidy (s.endJoin gid j ls) := hs

theorem Tidy.dropWatches {s : State} (hs : Tidy s) (gone : Nat → Bool) : Tidy (s.dropWatches gone) := hs

theorem Tidy.readAtIssue {s : State} {k : State → Nat → State} (hs : Tidy s) (e : Env) (codes : List Nat) (poison va : Nat)
    (hk : ∀ t x1, Tidy t → Tidy (k t x1)) : Tidy (s.readAtIssue e codes poison va k) := by
  unfold State.readAtIssue
  dsimp only
  split
  · exact hs.failRead _ _ _ _ _
  · split
    · split
      · exact hs.transAcc _ _ _
      · exact (hs.transAcc _ _ _).settleLanes _ _ _ _ (fun _ _ h1 => h1)
    · split
      · split
        · exact (hs.transAcc _ _ _).readUnit _ _
        · exact ((hs.transAcc _ _ _).readUnit _ _).hwError _ _ _ _
      · exact hk _ _ ((hs.transAcc _ _ _).readUnit _ _)

theorem Tidy.callEntry {s : State} {k : State → Nat → State} (hs : Tidy s) (e : Env) (codes : List Nat) (ix code : Nat)
    (hk : ∀ t x1, Tidy t → Tidy (k t x1)) : Tidy (s.callEntry e codes ix code k) := by
  unfold State.callEntry
  split
  · exact hs
  · split
    · exact hs.failRead _ _ _ _ _
    · exact hs.readAtIssue _ _ _ _ (fun _ _ h1 => hk _ _ h1)

theorem Tidy.performed {s : State} (hs : Tidy s) (id : Nat) : Tidy (s.performed id) := hs

theorem Tidy.callTargets {s : State} (hs : Tidy s) (e : Env) (ys : List (Nat × Nat)) : Tidy (s.callTargets e ys).1 := by
  induction ys generalizing s with
  | nil =>
    unfold State.callTargets
    exact hs
  | cons x xs ih =>
    unfold State.callTargets
    dsimp only
    split
    · exact ih hs
    · split
      · exact ih (hs.translateFor _ _ _)
      · split <;> exact ih (hs.translateFor _ _ _)

theorem Tidy.deliver {s : State} (hs : Tidy s) (o : Op) (g : Group) (m : Nat) : Tidy (s.deliver o g m) := by
  unfold State.deliver
  extract_lets ls W a s1
  have h1 : Tidy s1 := (hs.cleanRanges _ _).watchRanges _ _ _
  split
  · exact h1
  · dsimp only
    split
    · exact (((((h1.addGroup _).performed _).modOp _ _).modWarp _ _ _).checkHalt _ _).checkHaltCtx _
    · exact (h1.addGroup _).modOp _ _

theorem Tidy.landReply {s : State} (hs : Tidy s) (o : Op) (x : NcallLOps) (r : Reply) : Tidy (s.landReply o x r) := hs

theorem Tidy.deliverBlock {s : State} (hs : Tidy s) (o : Op) (g : Group) : Tidy (s.deliverBlock o g) := by
  unfold State.deliverBlock
  extract_lets b s1
  have h1 : Tidy s1 := (hs.cleanRanges _ _).watchRanges _ _ _
  split
  · exact h1
  · exact ((h1.addGroup _).performed _).modOp _ _

theorem Tidy.rebase {s : State} (hs : Tidy s) (gid old new : Nat) : Tidy (s.rebase gid old new) := hs

/-! ### The base die -/

theorem Tidy.rowTrans {s : State} (hs : Tidy s) (g : Group) (va : Nat) (k : AccKind) : Tidy (s.rowTrans g va k).1 := hs.translateFor _ _ _

theorem Tidy.rowTranses {s : State} (hs : Tidy s) (g : Group) (rs : List (Nat × Nat × AccKind)) : Tidy (s.rowTranses g rs).1 := by
  unfold State.rowTranses
  refine Tidy.foldl_fst (fun _ _ h1 => ?_) _ ?_
  · dsimp only
    split
    · exact h1
    · exact h1.rowTrans _ _ _
  · exact hs

theorem Tidy.nearCell {s : State} (hs : Tidy s) (g : Group) (o : Op) (m va : Nat) (k : AccKind) : Tidy (s.nearCell g o m va k).1 := by
  unfold State.nearCell
  split
  · exact hs
  · dsimp only
    split
    · exact hs
    · exact hs.translateFor _ _ _

theorem Tidy.nearPiece {s : State} (hs : Tidy s) (g : Group) (o : Op) (m : Nat) (p : Nat × Nat) : Tidy (s.nearPiece g o m p).1 := by
  unfold State.nearPiece
  dsimp only
  split
  · exact hs.nearCell _ _ _ _ _
  · exact (hs.nearCell _ _ _ _ _).readUnit _ _

theorem Tidy.nearReads {s : State} (hs : Tidy s) (g : Group) (o : Op) (m : Nat) (ys : List (Nat × Nat)) : Tidy
    (s.nearReads g o m ys).1 := by
  induction ys generalizing s with
  | nil =>
    unfold State.nearReads
    exact hs
  | cons x xs ih =>
    unfold State.nearReads
    exact ih (hs.nearPiece _ _ _ _)

theorem Tidy.nearRead {s : State} (hs : Tidy s) (g : Group) (o : Op) (m va n : Nat) : Tidy (s.nearRead g o m va n).1 := hs.nearReads _ _ _ _

theorem Tidy.nearPut {s : State} (hs : Tidy s) (g : Group) (o : Op) (m va n x : Nat) : Tidy (s.nearPut g o m va n x).1 := by
  unfold State.nearPut
  dsimp only
  split
  · exact hs.nearCell _ _ _ _ _
  · split
    · exact hs.nearCell _ _ _ _ _
    · exact (((hs.nearCell _ _ _ _ _).copyAll _ _).writeUnit _ _ _).noteRaces _ _

theorem Tidy.nearWrites {s : State} (hs : Tidy s) (g : Group) (o : Op) (m : Nat) (ys : List (Nat × Nat × Nat)) : Tidy
    (s.nearWrites g o m ys).1 := by
  induction ys generalizing s with
  | nil =>
    unfold State.nearWrites
    exact hs
  | cons x xs ih =>
    unfold State.nearWrites
    exact ih (hs.nearPut _ _ _ _ _ _)

theorem Tidy.nearWrite {s : State} (hs : Tidy s) (g : Group) (o : Op) (m va n x : Nat) : Tidy (s.nearWrite g o m va n x).1 :=
  (hs.nearWrites _ _ _ _).coverSectors _ _ _ _

theorem Tidy.issueRows {s : State} (hs : Tidy s) (h : Hdr) (i : Instr) (o : XredOps) (bad : RowBlock → Bool) : Tidy
    (s.issueRows h i o bad) := by
  unfold State.issueRows
  refine hs.command _ _ _ (fun _ _ => ?_) (fun _ => hs)
  dsimp only
  split
  · exact hs.fail _ _ _ _ _
  · split
    · exact hs.failRead _ _ _ _ _
    · exact hs.reaching _ _ (fun _ h1 => ((h1.rowTranses _ _).addOp _).renew)

theorem Tidy.rowRead {s : State} (hs : Tidy s) (g : Group) (o : Op) (ys : List (Nat × Nat)) : Tidy (s.rowRead g o ys).1 := by
  unfold State.rowRead
  split
  · exact hs
  · dsimp only
    split
    · exact hs.nearPiece _ _ _ _
    · exact hs.nearPiece _ _ _ _

theorem Tidy.rowReads {s : State} (hs : Tidy s) (g : Group) (o : Op) (n : Nat) : Tidy (s.rowReads g o n).1 := by
  induction n generalizing s g o with
  | zero =>
    unfold State.rowReads
    exact hs
  | succ n ih =>
    unfold State.rowReads
    dsimp only
    split
    · exact hs
    · exact ih (hs.rowRead _ _ _) _ _

theorem Tidy.xredWrite {s : State} (hs : Tidy s) (g : Group) (o : Op) (w : Nat × Nat × Nat) : Tidy (s.xredWrite g o w).1 :=
  hs.nearPut _ _ _ _ _ _

theorem Tidy.doXred {s : State} (hs : Tidy s) (o : Op) (g : Group) : Tidy (s.doXred o g).1 := by
  unfold State.doXred
  dsimp only
  split
  · refine Tidy.coverSectors ?_ _ _ _ _
    refine Tidy.foldl_fst (fun _ _ h1 => ?_) _ ?_
    · exact h1.xredWrite _ _ _
    · exact (hs.rowReads _ _ _).renew
  · refine Tidy.coverSectors ?_ _ _ _ _
    refine Tidy.coverSectors ?_ _ _ _ _
    refine Tidy.foldl_fst (fun _ _ h1 => ?_) _ ?_
    · exact h1.xredWrite _ _ _
    · exact (hs.rowReads _ _ _).renew

theorem Tidy.xredPart {s : State} (hs : Tidy s) (o : Op) (g : Group) : ∀ t, s.xredPart o g = some t → Tidy t := by
  unfold State.xredPart
  split
  · exact ((hs.rowRead _ _ _).modOp _ _).ofSome
  · split
    · exact ((hs.renew.xredWrite _ _ _).modOp _ _).ofSome
    · exact tidy_of_none

theorem Tidy.hostPiece {s : State} (hs : Tidy s) (g : Group) (p : Nat × Nat) : Tidy (s.hostPiece g p).1 := by
  unfold State.hostPiece
  dsimp only
  split
  · exact hs.translateFor _ _ _
  · split
    · exact hs.translateFor _ _ _
    · exact (hs.translateFor _ _ _).readUnit _ _

theorem Tidy.ringLines {s : State} (hs : Tidy s) (g : Group) (o : Op) (m va n : Nat) : Tidy (s.ringLines g o m va n) := by
  unfold State.ringLines
  refine Tidy.foldl (fun _ _ h1 => ?_) _ hs
  dsimp only
  split
  · exact h1.nearCell _ _ _ _ _
  · exact (h1.nearCell _ _ _ _ _).evictLine _

theorem Tidy.fetchStart {s : State} (hs : Tidy s) (g : Group) (b : RowBlock) (o : Op) (ix : Nat) : Tidy (s.fetchStart g b o ix).1 := by
  unfold State.fetchStart
  dsimp only
  split
  · exact hs.nearRead _ _ _ _ _
  · exact hs.nearRead _ _ _ _ _
  · split
    · exact ((hs.nearRead _ _ _ _ _).ringLines _ _ _ _ _).nearRead _ _ _ _ _
    · split
      · exact ((hs.nearRead _ _ _ _ _).ringLines _ _ _ _ _).nearRead _ _ _ _ _
      · split
        · exact ((hs.nearRead _ _ _ _ _).ringLines _ _ _ _ _).nearRead _ _ _ _ _
        · split
          · exact ((((hs.nearRead _ _ _ _ _).ringLines _ _ _ _ _).nearRead _ _ _ _ _).ringLines _ _ _ _ _).nearRead _ _ _ _ _
          · split
            · exact (((((hs.nearRead _ _ _ _ _).ringLines _ _ _ _ _).nearRead _ _ _ _ _).ringLines _ _ _ _ _).nearRead _ _ _ _
              _).nearCell _ _ _ _ _
            · split
              · exact (((((hs.nearRead _ _ _ _ _).ringLines _ _ _ _ _).nearRead _ _ _ _ _).ringLines _ _ _ _ _).nearRead _ _ _ _
                _).nearCell _ _ _ _ _
              · split
                · exact ((((((hs.nearRead _ _ _ _ _).ringLines _ _ _ _ _).nearRead _ _ _ _ _).ringLines _ _ _ _ _).nearRead _ _ _ _
                  _).nearCell _ _ _ _ _).nearWrite _ _ _ _ _ _
                · exact ((((((hs.nearRead _ _ _ _ _).ringLines _ _ _ _ _).nearRead _ _ _ _ _).ringLines _ _ _ _ _).nearRead _ _ _ _
                  _).nearCell _ _ _ _ _).nearWrite _ _ _ _ _ _
  · exact hs.nearRead _ _ _ _ _

theorem Tidy.fetchUnit {s : State} (hs : Tidy s) (g : Group) (b : RowBlock) (o : Op) (slot va : Nat) (p : Nat × Nat) : Tidy
    (s.fetchUnit g b o slot va p).1 := by
  unfold State.fetchUnit
  dsimp only
  split
  · dsimp only
    split
    · exact ((hs.hostPiece _ _).nearPut _ _ _ _ _ _).renew
    · exact hs.hostPiece _ _
  · exact (hs.hostPiece _ _).nearPut _ _ _ _ _ _

theorem Tidy.fetchEnd {s : State} (hs : Tidy s) (g : Group) (b : RowBlock) (o : Op) (slot : Nat) : Tidy (s.fetchEnd g b o slot).1 := by
  unfold State.fetchEnd
  split
  · exact hs
  · exact (hs.coverSectors _ _ _ _).nearWrite _ _ _ _ _ _

theorem Tidy.fetchStep {s : State} (hs : Tidy s) (g : Group) (o : Op) : ∀ r, s.fetchStep g o = some r → Tidy r.1 := by
  intro r hr
  unfold State.fetchStep at hr
  dsimp only at hr
  split at hr
  · split at hr
    · cases hr
      exact hs.fetchUnit _ _ _ _ _ _
    · cases hr
      exact hs.fetchEnd _ _ _ _
  · split at hr
    · cases hr
    · cases hr
      exact hs.fetchStart _ _ _ _

theorem Tidy.fetchSteps {s : State} (hs : Tidy s) (g : Group) (o : Op) (n : Nat) : Tidy (s.fetchSteps g o n).1 := by
  induction n generalizing s o with
  | zero => exact hs
  | succ n ih =>
    unfold State.fetchSteps
    split
    · exact hs
    · rename_i r hr
      exact ih (hs.fetchStep g o r hr) r.2

theorem Tidy.doXpref {s : State} (hs : Tidy s) (o : Op) (g : Group) : Tidy (s.doXpref o g).1 := hs.fetchSteps _ _ _

theorem Tidy.xprefPart {s : State} (hs : Tidy s) (o : Op) (g : Group) : ∀ t, s.xprefPart o g = some t → Tidy t :=
  Tidy.map fun r hr => (hs.fetchStep g o r hr).modOp _ _

theorem Tidy.bankLost {s : State} (hs : Tidy s) (e : Env) (h : Hdr) (i : Instr) (dst : List Nat) (bw : Option (Nat × Nat)) (code va : Nat) :
    Tidy (s.bankLost e h i dst bw code va) := by
  unfold State.bankLost
  repeat' split
  all_goals exact hs

theorem Tidy.bankCommand {s : State} {k : State → Env → Option (Nat × Nat) → Nat → Nat → Nat → State} (hs : Tidy s) (h : Hdr) (i : Instr)
    (sa : Nat) (codes dst : List Nat) (args : List Arg) (bw : Option Bw) (opens : Bool)
    (hk : ∀ t x1 x2 x3 x4 x5, Tidy t → Tidy (k t x1 x2 x3 x4 x5)) : Tidy (s.bankCommand h i sa codes dst args bw opens k) := by
  unfold State.bankCommand
  refine hs.command _ _ _ (fun _ _ => ?_) (fun _ => hs.undefineLost _ _ _ _)
  dsimp only
  split
  · exact hs.fail _ _ _ _ _
  · split
    · exact (hs.undefine _ _ _ _).ite (hs.fail _ _ _ _ _)
    · split
      · split
        · exact hs.undefine _ _ _ _
        · exact (hs.translateFor _ _ _).bankLost _ _ _ _ _ _ _
      · split
        · split
          · exact hs.undefine _ _ _ _
          · exact (hs.translateFor _ _ _).fail _ _ _ _ _
        · split
          · split
            · exact hs.undefine _ _ _ _
            · exact (hs.translateFor _ _ _).returnTrap _
          · split
            · split
              · exact hs.undefine _ _ _ _
              · exact (hs.translateFor _ _ _).fail _ _ _ _ _
            · exact hk _ _ _ _ _ _ (hs.translateFor _ _ _)

theorem Tidy.addBank {s : State} (hs : Tidy s) (e : Env) (h : Hdr) (i : Instr) (bw : Option (Nat × Nat)) (vals : List Nat) : Tidy
    (s.addBank e h i bw vals) :=
  hs

theorem Tidy.setChannel {s : State} (hs : Tidy s) (x : Channel) : Tidy (s.setChannel x) := hs

theorem Tidy.readRowOf {s : State} (hs : Tidy s) (m c q bank : Nat) : Tidy (s.readRowOf m c q bank).1 := by
  unfold State.readRowOf
  generalize List.range 256 = is
  refine Tidy.foldl_fst (fun _ _ h => ?_) is ?_
  · exact h.readBelow _ 8
  · exact hs

theorem Tidy.bankWave {s : State} (hs : Tidy s) (o : Op) (x : Channel) : Tidy (s.bankWave o x) := by
  unfold State.bankWave
  extract_lets m c w a row xb share r p
  have hr : Tidy r.1 := by
    refine Tidy.foldl_fst (fun q b hq => ?_) _ ?_
    · have hd := hq.readRowOf m c row b
      revert hd
      generalize q.1.readRowOf m c row b = d
      intro hd
      dsimp only
      split <;> exact hd
    · exact hs
  exact (hr.renew.setChannel _).modOp _ _

/-! ### Key-value tables -/

theorem Tidy.kvRead {s : State} (hs : Tidy s) (e : Env) (v : Via) (va n : Nat) : Tidy (s.kvRead e v va n).1 := by
  unfold State.kvRead
  dsimp only
  split
  · exact hs
  · split
    · exact hs.transAcc _ _ _
    · split <;> exact (hs.transAcc _ _ _).readUnits _ _

theorem Tidy.kvReads {s : State} (hs : Tidy s) (e : Env) (n : Nat) (ys : List Nat) : Tidy (s.kvReads e n ys).1 := by
  induction ys generalizing s with
  | nil =>
    unfold State.kvReads
    exact hs
  | cons x xs ih =>
    unfold State.kvReads
    exact ih (hs.kvRead _ _ _ _)

theorem Tidy.kvLanes {s : State} (hs : Tidy s) (e : Env) (since root nseq : Nat) (rows : List (Nat × Nat × Nat)) : Tidy
    (s.kvLanes e since root nseq rows).1 :=
  (hs.kvReads _ _ _).kvReads _ _ _

/-! ### Fabric operations -/

theorem Tidy.peerEntry {s : State} (hs : Tidy s) (g : Group) (a : Nat) : Tidy (s.peerEntry g a).1 := by
  unfold State.peerEntry
  dsimp only
  split
  · exact hs.translateFor _ _ _
  · exact (hs.translateFor _ _ _).readUnits _ _

theorem Tidy.fabricCopy {s : State} (hs : Tidy s) (h : Hdr) (i : Instr) (blk : Nat) (bw : Bw) (k : AccKind) : Tidy
    (s.fabricCopy h i blk bw k) := by
  unfold State.fabricCopy
  refine hs.command _ _ _ (fun _ _ => ?_) (fun _ => hs)
  dsimp only
  split
  · exact hs.failRead _ _ _ _ _
  · split
    · exact hs.failRead _ _ _ _ _
    · split
      · exact hs.failRead _ _ _ _ _
      · split
        · exact hs.failRead _ _ _ _ _
        · exact hs.reaching _ _ (fun _ h1 => h1.addOp _)

theorem Tidy.startFabric {s : State} (hs : Tidy s) (o : Op) (g : Group) : Tidy (s.startFabric o g) := (hs.peerEntry _ _).modOp _ _

theorem Tidy.landFabric {s : State} (hs : Tidy s) (o : Op) (g : Group) (va x : Nat) (bad : Bool) : Tidy (s.landFabric o g va x bad).1 := by
  unfold State.landFabric
  dsimp only
  split
  · exact hs.engineWrite _ _ _ _ _
  · split
    · exact (hs.engineWrite _ _ _ _ _).transAcc _ _ _
    · split
      · exact ((hs.engineWrite _ _ _ _ _).transAcc _ _ _).setPoisonFor _ _ _
      · split
        · split
          · exact ((hs.engineWrite _ _ _ _ _).transAcc _ _ _).setPoisonFor _ _ _
          · exact (hs.engineWrite _ _ _ _ _).transAcc _ _ _
        · split
          · exact ((hs.engineWrite _ _ _ _ _).transAcc _ _ _).setPoisonFor _ _ _
          · exact (hs.engineWrite _ _ _ _ _).transAcc _ _ _

theorem Tidy.ackUnit {s : State} (hs : Tidy s) (o : Op) (g : Group) (status : Nat) (d : BitVec 64 × Bool) : Tidy
    (s.ackUnit o g status d).1 := by
  unfold State.ackUnit
  split
  · split
    · exact hs.landFabric _ _ _ _ _
    · exact hs
  · exact hs.engineRead _ _ _ _ _

end Sys2Proof.Claims
end

section
/-!
SUPPORT. Memory and the L2 stay canonical: warps, ends of takes, records, groups.
-/

namespace Sys2Proof.Claims

open Sys2Proof.Machine

/-! ### Warps of varying width -/

theorem Tidy.cutWarp {s : State} (hs : Tidy s) (g : Group) (w : Warp) : Tidy (s.cutWarp g w) := hs

theorem Tidy.giveOutcome {s : State} (hs : Tidy s) (gid : Nat) (w : Warp) (code : Nat) : Tidy (s.giveOutcome gid w code) := by
  unfold State.giveOutcome
  repeat' split
  all_goals exact hs

theorem Tidy.joinWarps {s : State} (hs : Tidy s) (g : Group) (x y : Warp) : Tidy (s.joinWarps g x y) := by
  unfold State.joinWarps
  extract_lets l u moved s1
  have h1 : Tidy s1 := hs
  exact ((h1.giveOutcome _ _ _).giveOutcome _ _ _).modGroup _ _

/-! ### Lanes that go on -/

theorem Tidy.lateFault {s : State} (hs : Tidy s) (o : Op) : Tidy (s.lateFault o) := (hs.cancelOp _).progError _ _ _ _ _ _

/-- An access has the effect of its family (R32, R319). -/
theorem Tidy.doAccess {s : State} (hs : Tidy s) (o : Op) (g : Group) : ∀ t, s.doAccess o g = some t → Tidy t := by
  have hn := hs.noteOperands o true o.units
  unfold State.doAccess
  split
  · exact (hs.lateFault o).ofSome
  · split
    · exact (hs.doLd _ _ _).ofSome
    · exact (hs.doLd _ _ _).ofSome
    · exact (hs.doSt _ _).ofSome
    · exact (hn.doSt _ _).ofSome
    · exact (hs.doLdu _ _ _).ofSome
    · exact (hs.doLdt _ _ _).ofSome
    · exact (hs.doStt _ _).ofSome
    · exact (hs.doAtom _ _ _ _ _ _ _).ofSome
    · exact (hn.doAtom _ _ _ _ _ _ _).ofSome
    · exact (hs.doAtom _ _ _ _ _ _ _).ofSome
    · exact (hn.doBwinit _ _ _).ofSome
    · exact (hn.doBwarr _ _ _).ofSome
    · exact (hn.doErrack _ _ _).ofSome
    · exact (hs.doSemsig _ _ _).ofSome
    · exact tidy_of_none

/-- An operation that accesses no memory of lanes has the effect of its family (R32). -/
theorem Tidy.doPlain {s : State} (hs : Tidy s) (o : Op) (g : Group) : ∀ t, s.doPlain o g = some t → Tidy t := by
  unfold State.doPlain
  split
  · exact (hs.doMaint _ _ _).ofSome
  · exact (hs.doMaint _ _ _).ofSome
  · exact (hs.doMaint _ _ _).ofSome
  · exact (hs.doBmode _ _ _).ofSome
  · exact (hs.finishOp _).ofSome
  · exact (hs.finishOp _).ofSome
  · exact (hs.finishOp _).ofSome
  · exact (hs.finishOp _).ofSome
  · exact (hs.finishOp _).ofSome
  · exact (hs.doAcquire _ _ _).ofSome
  · exact (hs.doAcquire _ _ _).ofSome
  · exact (hs.doTrigger _ _).ofSome
  · exact (hs.doTflag _ _ _).ofSome
  · exact (hs.doMzero _ _ _).ofSome
  · exact (hs.doMload _ _ _).ofSome
  · exact (hs.doMout _ _ _).ofSome
  · exact tidy_of_none

theorem Tidy.reissue {s : State} {k : State → Op → State} (hs : Tidy s) (o : Op) (hk : ∀ t x1, Tidy t → Tidy (k t x1)) : Tidy
    (s.reissue o k) := by
  unfold State.reissue
  refine hk _ _ (Tidy.freeHeld ?_ _)
  exact hs

theorem Tidy.goOut {s : State} (hs : Tidy s) (o : Op) (g : Group) : Tidy (s.goOut o g) := by
  unfold State.goOut
  refine hs.reissue o fun s p hs => ?_
  extract_lets s1 s2
  have h1 : Tidy s1 := .ite (hs.modWarp _ _ _) hs
  have h2 : Tidy s2 := h1.modOp _ _
  exact .getD (.bind fun y _ => h2.doAccess p y) h2

theorem Tidy.failHeld {s : State} (hs : Tidy s) (o : Op) (code : Nat) (lanes : List Nat) (addr : Nat) : Tidy
    (s.failHeld o code lanes addr) := by
  unfold State.failHeld
  split
  · exact (hs.freeHeld _).cancelOp _
  · exact ((hs.freeHeld _).cancelOp _).progError _ _ _ _ _ _

theorem Tidy.resumeAccess {s : State} (hs : Tidy s) (o : Op) (g : Group) : Tidy (s.resumeAccess o g) := by
  unfold State.resumeAccess
  split
  · exact hs.failHeld _ _ _ _
  · exact hs
  · exact (hs.modOp _ _).ite ((hs.modOp _ _).goOut _ _)

theorem Tidy.resumeCopy {s : State} (hs : Tidy s) (o : Op) (g : Group) : Tidy (s.resumeCopy o g) := by
  unfold State.resumeCopy
  dsimp only
  split
  · exact hs.failHeld _ _ _ _
  · split
    · exact hs
    · exact hs.reissue _ (fun _ _ h1 => (h1.modOp _ _).startCopy _ _)

theorem Tidy.resumeTile {s : State} (hs : Tidy s) (o : Op) (g : Group) (ty : Ty) (t : Nat) : Tidy (s.resumeTile o g ty t) := by
  unfold State.resumeTile
  split
  · exact hs.failHeld _ _ _ _
  · exact hs
  · exact hs.reissue _ (fun _ _ h1 => (h1.modOp _ _).startTile _ _ _ _)

theorem Tidy.resumeMma {s : State} (hs : Tidy s) (o : Op) (g : Group) (x : MmaOps) : Tidy (s.resumeMma o g x) := by
  unfold State.resumeMma
  dsimp only
  split
  · exact hs
  · split
    · exact hs.failHeld _ _ _ _
    · exact hs
    · split
      · exact hs.failHeld _ _ _ _
      · exact hs.reissue _ (fun _ _ h1 => (h1.modOp _ _).setConv _ _ _)

/-! ### Ends of takes -/

theorem Tidy.cpReads {s : State} (hs : Tidy s) (ctx : Nat) (ps : List (Nat × Nat)) : Tidy (s.cpReads ctx ps).1 := by
  induction ps generalizing s with
  | nil => exact hs
  | cons p ps ih =>
    have hk := hs.keepFresh ctx p.1 .read
    unfold State.cpReads
    dsimp only
    split
    · exact hs
    · split
      · exact hk
      · split
        · exact hk.readHome _ p.2
        · refine ih ?_
          split
          · exact (hk.readHome _ p.2).renew
          · exact hk.readHome _ p.2

theorem Tidy.cpRead {s : State} (hs : Tidy s) (ctx va n : Nat) : Tidy (s.cpRead ctx va n).1 := hs.cpReads _ _

theorem Tidy.cpWrites {s : State} (hs : Tidy s) (ctx : Nat) (ps : List (Nat × Nat)) (x : Nat) : ∀ t, s.cpWrites ctx ps x = some t → Tidy
    t := by
  induction ps generalizing s x with
  | nil => exact hs.ofSome
  | cons p ps ih =>
    unfold State.cpWrites
    split
    · exact tidy_of_none
    · split
      · exact tidy_of_none
      · exact ih (((hs.keepFresh _ _ _).writeHome _ _ _).noteRaces _ _) _

theorem Tidy.cpCover {s : State} (hs : Tidy s) (ctx va n : Nat) : Tidy (s.cpCover ctx va n) := by
  unfold State.cpCover
  refine Tidy.foldl (fun _ _ h1 => ?_) _ hs
  split
  · exact h1
  · exact (h1.setPoisonFor _ _ _).ite h1

theorem Tidy.cpWrite {s : State} (hs : Tidy s) (ctx va n x : Nat) : ∀ t, s.cpWrite ctx va n x = some t → Tidy t :=
  Tidy.map fun t ht => (hs.cpWrites _ _ _ t ht).cpCover _ _ _

theorem Tidy.cpAtomic {s : State} (hs : Tidy s) (ctx scope : Nat) (t : Trans) (f : Nat → Option Nat) : Tidy
    (s.cpAtomic ctx scope t f).1 := by
  unfold State.cpAtomic
  dsimp only
  split
  · split
    · exact ((hs.evictLine _).mixedAll _ _).readUnit _ _
    · split
      · exact ((hs.evictLine _).mixedAll _ _).readUnit _ _
      · exact (((((hs.evictLine _).mixedAll _ _).readUnit _ _).writeUnit _ _ _).noteRaces _ _).renew
      · exact (((((hs.evictLine _).mixedAll _ _).readUnit _ _).writeUnit _ _ _).noteRaces _ _).renew
  · split
    · exact (hs.mixedAll _ _).readUnit _ _
    · split
      · exact (hs.mixedAll _ _).readUnit _ _
      · exact ((((hs.mixedAll _ _).readUnit _ _).writeUnit _ _ _).noteRaces _ _).renew
      · exact ((((hs.mixedAll _ _).readUnit _ _).writeUnit _ _ _).noteRaces _ _).renew

theorem Tidy.takeFail {s : State} (hs : Tidy s) (ctx code : Nat) : Tidy (s.takeFail ctx code) := by
  unfold State.takeFail
  split
  · exact hs
  · exact (hs.logError _ _ _ _ _ _ _ _).ite (hs.modTake _ _)

theorem Tidy.lostRecord {s : State} (hs : Tidy s) (c : Ctx) (r : TrapRecord) : Tidy (s.lostRecord c r) := by
  unfold State.lostRecord
  dsimp only
  split
  · split
    · split
      · exact (hs.modCtx _ _).progError _ _ _ _ _ _
      · exact hs.modCtx _ _
    · exact hs.modCtx _ _
  · split
    · exact (hs.modCtx _ _).progError _ _ _ _ _ _
    · exact (hs.modCtx _ _).takeFail _ _
  · split
    · exact hs.modCtx _ _
    · split
      · exact ((hs.modCtx _ _).takeFail _ _).ite (hs.modCtx _ _)
      · exact (hs.modCtx _ _).logError _ _ _ _ _ _ _ _

theorem Tidy.notifyTrap {s : State} (hs : Tidy s) (c : Ctx) : Tidy (s.notifyTrap c) := by
  unfold State.notifyTrap
  dsimp only
  split
  · refine Tidy.raiseMsi ?_ _
    split
    · exact hs
    · split
      · exact hs
      · exact (hs.keepFresh _ _ _).cpAtomic _ _ _ _
  · split
    · exact hs
    · split
      · exact hs
      · exact (hs.keepFresh _ _ _).cpAtomic _ _ _ _

theorem Tidy.modQueue {s : State} (hs : Tidy s) (n q : Nat) (f : QueueRun → QueueRun) : Tidy (s.modQueue n q f) := hs

theorem Tidy.stopQueue {s : State} (hs : Tidy s) (n q code idx : Nat) : Tidy (s.stopQueue n q code idx) := hs

theorem Tidy.spoilTargets {s : State} (hs : Tidy s) (o : Op) (g : Group) : Tidy (s.spoilTargets o g) :=
  Tidy.foldl (fun _ _ h1 => (h1.engineWrite _ _ _ _ _).renew) _ hs

theorem Tidy.abandon {s : State} (hs : Tidy s) (tid : Nat) : Tidy (s.abandon tid) := by
  unfold State.abandon
  refine Tidy.foldl (fun _ _ h1 => ?_) _ hs
  split
  · exact (h1.spoilTargets _ _).ite h1
  · exact h1

theorem Tidy.drain {s : State} (hs : Tidy s) (tid : Nat) : Tidy (s.drain tid) := by
  unfold State.drain
  refine Tidy.foldl (fun s o hs => ?_) _ hs
  split
  · rename_i p y _ _
    have hc : Tidy (if Instr.writesMem p.instr then s.copyAll tid (p.units.map MUnit.loc) else s) := .ite (hs.copyAll _ _) hs
    refine .ite (.getD (hc.doAccess p y) ?_) hs
    split
    · exact .getD (hc.doPlain p y) hc
    · exact hc
  · exact hs

theorem Tidy.clearTake {s : State} (hs : Tidy s) (t : Take) : Tidy (s.clearTake t) := hs

theorem Tidy.freeCopies {s : State} (hs : Tidy s) (t : Take) : Tidy (s.freeCopies t) := hs

theorem Tidy.addRecord {s : State} (hs : Tidy s) (ctx : Nat) (r : TrapRecord) : Tidy (s.addRecord ctx r) := hs

theorem Tidy.endTake {s : State} (hs : Tidy s) (t : Take) (code : Nat) (r : TrapRecord) : Tidy (s.endTake t code r) := by
  unfold State.endTake
  extract_lets s1 s2 s3 s4 q s5
  have h1 : Tidy s1 := (hs.drain _).abandon _
  have h2 : Tidy s2 := ((h1.clearTake _).freeCopies _).addRecord _ _
  have h3 : Tidy s3 := h2.modCtx _ _
  have h4 : Tidy s4 := h3
  have h5 : Tidy s5 := .ite (h4.modQueue _ _ _) h4
  exact (h5.modQueue _ _ _).stopQueue _ _ _ _

/-- A granule's lines leave the caches, and its bytes come from the copy (R461). -/
theorem Tidy.restoreGranule {s : State} (hs : Tidy s) (c : Nat × Nat) : Tidy (s.restoreGranule c) :=
  Tidy.foldl (fun _ _ h => (h.copyLine _ _).noteWrite _ _) _ (hs.filter_l2 fun _ => !_)

theorem Tidy.markRanges {s : State} (hs : Tidy s) (tid ctx : Nat) (rs : List (Nat × Nat)) : Tidy (s.markRanges tid ctx rs) :=
  (Tidy.foldl (fun _ _ h1 => h1.keepFresh _ _ _) _ hs).modTake _ _

theorem Tidy.startTake {s : State} (hs : Tidy s) (t : Take) : Tidy (s.startTake t) :=
  Tidy.foldl (fun _ _ h1 => h1.invalidateL1 _) _ (((hs.modTake _ _).markRanges _ _ _).ite (hs.modTake _ _))

theorem Tidy.retakeTake {s : State} (hs : Tidy s) (t : Take) : Tidy (s.retakeTake t) := by
  unfold State.retakeTake
  refine Tidy.startTake ?_ _
  refine Tidy.modQueue ?_ _ _ _
  refine Tidy.setField ?_ _ _ _ _
  refine Tidy.modTake ?_ _ _
  refine Tidy.modCtx ?_ _ _
  exact (Tidy.foldl (fun _ _ h1 => h1.restoreGranule _) _ ((hs.abandon _).clearTake _)).freeCopies _

/-! ### Records of evicted groups -/

theorem Tidy.reserve {s : State} (hs : Tidy s) (ys : List Group) : Tidy (s.reserve ys) := by
  induction ys generalizing s with
  | nil => exact hs
  | cons x xs ih =>
    unfold State.reserve
    split
    · exact ih hs
    · exact ih (hs.modGroup _ _)

theorem Tidy.writeSection {s : State} (hs : Tidy s) (g : Group) (x : Section) (a n : Nat) : Tidy (s.writeSection g x a n) := by
  unfold State.writeSection
  refine Tidy.foldl (fun _ _ h1 => h1.writeHome _ _ _) _ ?_
  exact Tidy.foldl (fun _ _ h1 => h1.writeHome _ _ _) _ hs

theorem Tidy.writeRecord {s : State} (hs : Tidy s) (g : Group) (r : Record) : Tidy (s.writeRecord g r) := by
  unfold State.writeRecord
  refine Tidy.renew ?_
  refine Tidy.foldl (fun _ _ h1 => (h1.setPoisonFor _ _ _).ite h1) _ ?_
  exact Tidy.foldl (fun _ _ h1 => h1.writeSection _ _ _ _) _ hs

theorem Tidy.freeSection {s : State} (hs : Tidy s) (g : Group) (x : Section) : Tidy (s.freeSection g x).1 := by
  unfold State.freeSection
  split <;> exact hs

theorem Tidy.readBack {s : State} (hs : Tidy s) (g : Group) : Tidy (s.readBack g).1 := by
  unfold State.readBack
  split
  · exact hs
  · extract_lets xs y open_ z q
    have hz : Tidy z.1 := Tidy.foldl_fst (fun _ _ h => Tidy.freeSection h _ _) _ hs
    change Tidy q.2
    clear_value z
    unfold q
    split <;> exact hz

/-! ### Groups -/

theorem Tidy.leave {s : State} (hs : Tidy s) (g : Group) : Tidy (s.leave g) := by
  unfold State.leave
  dsimp only
  repeat' split
  all_goals exact hs

theorem Tidy.advanceQueue {s : State} (hs : Tidy s) (n q : Nat) : Tidy (s.advanceQueue n q) := hs

theorem Tidy.passLaunch {s : State} (hs : Tidy s) (t : Take) : Tidy (s.passLaunch t) := hs

theorem Tidy.loadTimer {s : State} (hs : Tidy s) (n q : Nat) : Tidy (s.loadTimer n q) := hs

theorem Tidy.acquireFlags {s : State} (hs : Tidy s) (g : Group) (core : Nat) (t : Take) : Tidy (s.acquireFlags g core t) :=
  Tidy.foldl (fun _ _ h1 => Tidy.foldl (fun _ _ h11 => h11.dropL1 _ _) _ (h1.rangeLines _ _ _)) _ hs

theorem Tidy.without {s : State} (hs : Tidy s) (gids : List Nat) : Tidy (s.without gids) := hs

theorem Tidy.evictAll {s : State} (hs : Tidy s) (vs : List Group) : Tidy (s.evictAll vs) :=
  Tidy.foldl (fun _ _ h => h.modGroup _ _) _ (hs.reserve _)

theorem Tidy.fileRecord {s : State} (hs : Tidy s) (gid : Nat) : Tidy (s.fileRecord gid) := by
  unfold State.fileRecord
  split
  · exact hs
  · exact Tidy.modGroup (.getD (.map fun g _ => hs.writeRecord g _) hs) _ _

theorem Tidy.bringBack {s : State} (hs : Tidy s) (g : Group) (c : Nat) (spans : List Span) : Tidy (s.bringBack g c spans) := by
  unfold State.bringBack
  extract_lets r y s1
  have h1 : Tidy s1 := ((((hs.readBack g).renew.modGroup _ _).invalidateL1 _).trimL1 _)
  exact .ite (h1.progError _ _ _ _ _ _) h1

end Sys2Proof.Claims
end

section
/-!
SUPPORT. Memory and the L2 stay canonical: queues, the device and the outside, system instructions, completions, the scheduler.
-/

namespace Sys2Proof.Claims

open Sys2Proof.Machine

/-! ### Queues -/

theorem Tidy.failQueue {s : State} (hs : Tidy s) (n q code : Nat) : Tidy (s.failQueue n q code) := hs

theorem Tidy.logPoison {s : State} (hs : Tidy s) (n : Nat) (f : Nat × Nat) : Tidy (s.logPoison n f) := (hs.logError _ _ _ _ _ _ _ _).ite hs

theorem Tidy.failEntry {s : State} (hs : Tidy s) (n q : Nat) (f : Nat × Nat) : Tidy (s.failEntry n q f) :=
  (hs.logPoison _ _).failQueue _ _ _

theorem Tidy.headEntry {s : State} (hs : Tidy s) (n q : Nat) : Tidy (s.headEntry n q).1 := by
  unfold State.headEntry
  split
  · exact hs
  · exact hs.cpRead _ _ _

theorem Tidy.takeUp {s : State} {k : State → Entry → State} (hs : Tidy s) (n q op : Nat) (hk : ∀ t x1, Tidy t → Tidy (k t x1)) : Tidy
    (s.takeUp n q op k) := by
  unfold State.takeUp
  dsimp only
  split
  · exact hs
  · split
    · exact hs.failQueue _ _ _
    · split
      · exact (hs.headEntry _ _).failEntry _ _ _
      · split
        · exact (hs.headEntry _ _).failQueue _ _ _
        · split
          · exact hk _ _ (hs.headEntry _ _)
          · exact hs

theorem Tidy.begin_ {s : State} (hs : Tidy s) (n q : Nat) (e : Entry) : Tidy (s.begin_ n q e) := hs

theorem Tidy.readTable {s : State} (hs : Tidy s) (ctx va n count : Nat) : Tidy (s.readTable ctx va n count).1 := by
  unfold State.readTable
  split
  · exact hs
  · exact hs.cpRead _ _ _

theorem Tidy.readTileMap {s : State} (hs : Tidy s) (ctx va : Nat) : Tidy (s.readTileMap ctx va).1 := by
  unfold State.readTileMap
  dsimp only
  split
  · exact hs
  · split
    · exact hs.cpRead _ _ _
    · split
      · exact hs.cpRead _ _ _
      · split
        · exact (hs.cpRead _ _ _).readTable _ _ _ _
        · exact ((hs.cpRead _ _ _).readTable _ _ _ _).readTable _ _ _ _

theorem Tidy.readTables {s : State} (hs : Tidy s) (ctx x : Nat) : Tidy (s.readTables ctx x).1 :=
  (((hs.readTileMap _ _).readTable _ _ _ _).readTable _ _ _ _).readTable _ _ _ _

theorem Tidy.refuse {s : State} (hs : Tidy s) (n q ctx code : Nat) (fails : List (Nat × Nat)) : Tidy (s.refuse n q ctx code fails) := by
  unfold State.refuse
  refine Tidy.addRecord ?_ _ _
  exact (Tidy.foldl (fun _ _ h1 => h1.logPoison _ _) _ hs).failQueue _ _ _

theorem Tidy.launchTake {s : State} (hs : Tidy s) (n q : Nat) (t : Take) : Tidy (s.launchTake n q t) := by
  unfold State.launchTake
  split
  · refine Tidy.loadTimer ?_ _ _
    refine Tidy.modQueue ?_ _ _ _
    refine Tidy.startTake ?_ _
    refine Tidy.modCtx ?_ _ _
    exact hs
  · refine Tidy.passLaunch ?_ _
    refine Tidy.loadTimer ?_ _ _
    refine Tidy.modQueue ?_ _ _ _
    refine Tidy.startTake ?_ _
    refine Tidy.modCtx ?_ _ _
    exact hs

theorem Tidy.trySem {s : State} (hs : Tidy s) (n q : Nat) (e : Entry) : Tidy (s.trySem n q e) := by
  unfold State.trySem
  dsimp only
  split
  · exact hs.failEntry _ _ _
  · split
    · exact hs.failEntry _ _ _
    · split
      · exact ((hs.keepFresh _ _ _).cpAtomic _ _ _ _).failEntry _ _ _
      · split
        · refine Tidy.advanceQueue ?_ _ _
          exact (Tidy.foldl (fun _ _ h1 => h1.invalidateL1 _) _ ((hs.keepFresh _ _ _).cpAtomic _ _ _ _)).loadTimer _ _
        · exact ((hs.keepFresh _ _ _).cpAtomic _ _ _ _).modQueue _ _ _

theorem Tidy.copyUnit8 {s : State} (hs : Tidy s) (n q : Nat) (e : Entry) : Tidy (s.copyUnit8 n q e).1 := by
  unfold State.copyUnit8
  have hr := hs.cpRead (s.qctx n q) (e.a + 8 * (s.queueRun n q).wait) 8
  dsimp only
  split
  · exact hr
  · split
    · exact hr
    · rename_i t ht
      exact (hr.cpWrites _ _ _ t ht).modQueue _ _ _

theorem Tidy.copyUnits8 {s : State} (hs : Tidy s) (n q : Nat) (e : Entry) (n1 : Nat) : Tidy (s.copyUnits8 n q e n1).1 := by
  induction n1 generalizing s with
  | zero =>
    unfold State.copyUnits8
    exact hs
  | succ n ih =>
    unfold State.copyUnits8
    dsimp only
    split
    · exact hs.copyUnit8 _ _ _
    · exact ih (hs.copyUnit8 _ _ _)

theorem Tidy.copyPart {s : State} (hs : Tidy s) (n q : Nat) : ∀ t, s.copyPart n q = some t → Tidy t := by
  have hc := hs.copyUnit8 n q ⟨(s.queueRun n q).entry⟩
  unfold State.copyPart
  dsimp only
  split
  · refine Tidy.ofSome ?_
    split
    · exact hc.failEntry _ _ _
    · exact hc
  · exact tidy_of_none

theorem Tidy.ring {s : State} (hs : Tidy s) (n q tail : Nat) : Tidy (s.ring n q tail) := hs

theorem Tidy.clearErr {s : State} (hs : Tidy s) (n q : Nat) : Tidy (s.clearErr n q) := hs

theorem Tidy.cleanPart {s : State} (hs : Tidy s) (p : Nat) : Tidy (s.cleanPart p) := Tidy.foldl (fun _ _ h1 => h1.cleanLine _) _ hs

theorem Tidy.resetTake {s : State} (hs : Tidy s) (t : Take) (code : Nat) : Tidy (s.resetTake t code) := by
  have hu := hs.abandon t.tid
  have hr := ((hu.clearTake t).freeCopies (((s.abandon t.tid).findTake t.tid).getD t)).addRecord t.ctx (s.bareRecord t code)
  exact hr

theorem Tidy.resetQueue {s : State} (hs : Tidy s) (n q code : Nat) : Tidy (s.resetQueue n q code) := hs

theorem Tidy.partitionReset {s : State} (hs : Tidy s) (p : Nat) (by_ : Option (Nat × Nat)) : Tidy (s.partitionReset p by_) := by
  unfold State.partitionReset
  refine Tidy.foldl (fun _ _ h1 => ?_) _ ?_
  · exact Tidy.foldl (fun _ _ h11 => h11.resetQueue _ _ _) _ h1
  · exact (Tidy.foldl (fun _ _ h1 => h1.resetTake _ _) _ hs).cleanPart _

theorem Tidy.ctxStatus {s : State} (hs : Tidy s) (k : Nat) : Tidy (s.ctxStatus k) := hs

theorem Tidy.contextCreate {s : State} (hs : Tidy s) (id dpart : Nat) (priv dpriv : Bool) : Tidy (s.contextCreate id dpart priv dpriv) := by
  unfold State.contextCreate
  repeat' split
  all_goals exact hs

theorem Tidy.contextEnd {s : State} (hs : Tidy s) (id : Nat) : Tidy (s.contextEnd id) := by
  unfold State.contextEnd
  repeat' split
  all_goals exact hs

/-! ### The device and the outside -/

theorem Tidy.bistResults {s : State} (hs : Tidy s) (st : Nat) (paths : List Nat) : Tidy (s.bistResults st paths) := by
  have hf : Tidy { s with regs := s.regs.filter fun x => x.1 < 0x30100 || 0x30300 ≤ x.1 } := hs
  exact Tidy.foldl (fun _ _ h => h.setReg _ _) _ (hf.setReg _ _)

/-- A self-test of a slice changes what its lines hold, and no line leaves it (R480). -/
theorem Tidy.testL2 {s : State} (hs : Tidy s) (m : Nat) : Tidy (s.testL2 m) := by
  refine ⟨hs.1, NMap.wfFrom_map_snd (fun e => ?_) hs.2⟩
  split
  · exact ⟨rfl, by simp⟩
  · exact ⟨rfl, id⟩

theorem Tidy.testMemory {s : State} (hs : Tidy s) (scope : Nat) (ms : List Nat) : Tidy (s.testMemory scope ms) := by
  unfold State.testMemory
  dsimp only
  split
  · refine Tidy.foldl (fun _ _ h1 => h1.testStack _) _ ?_
    split
    · exact Tidy.foldl (fun _ _ h1 => h1.testL2 _) _ hs
    · exact hs
  · split
    · exact Tidy.foldl (fun _ _ h1 => h1.testL2 _) _ hs
    · exact hs

theorem Tidy.bistGo {s : State} (hs : Tidy s) (scope mask : Nat) : Tidy (s.bistGo scope mask) := by
  unfold State.bistGo
  dsimp only
  repeat' split
  all_goals exact hs

theorem Tidy.trainPort {s : State} (hs : Tidy s) (i lanes peer : Nat) : Tidy (s.trainPort i lanes peer) := hs

theorem Tidy.dropPorts {s : State} (hs : Tidy s) (old : State) : Tidy (s.dropPorts old) :=
  Tidy.foldl (fun _ _ h1 => .ite (h1.trainPort _ _ _) h1) _ hs

theorem Tidy.fence {s : State} (hs : Tidy s) (x : Nat) : Tidy (s.fence x) := by
  unfold State.fence
  dsimp only
  repeat' split
  all_goals exact hs

theorem Tidy.setLink {s : State} (hs : Tidy s) (width rate : Nat) (ide : Bool) : Tidy (s.setLink width rate ide) := hs

theorem Tidy.trainLink {s : State} (hs : Tidy s) : Tidy s.trainLink := hs

theorem Tidy.trainStacks {s : State} (hs : Tidy s) : Tidy s.trainStacks := hs

theorem Tidy.bootTest {s : State} (hs : Tidy s) (warm : Bool) : Tidy (s.bootTest warm) :=
  Tidy.foldl (fun _ _ h1 => h1.fence _) _ ((hs.testMemory _ _).bistResults _ _)

theorem Tidy.bringUp {s : State} (hs : Tidy s) (warm : Bool) : Tidy (s.bringUp warm) := by
  unfold State.bringUp
  dsimp only
  split
  · exact ((hs.trainLink.setField _ _ _ _).setField _ _ _ _).renew
  · refine Tidy.renew ?_
    refine Tidy.setField ?_ _ _ _ _
    refine Tidy.bootTest ?_ _
    refine Tidy.trainStacks ?_
    exact hs.trainLink

/-- A warm reset keeps HBM4E and drops the L2 (R496). -/
theorem Tidy.warm {s : State} (hs : Tidy s) : Tidy s.warm := by
  have hl : Tidy { s.lost true with mem := s.mem, poison := s.poison, veil := s.veil } := ⟨hs.1, rfl⟩
  exact (hl.setField _ _ _ _).bringUp _

theorem Tidy.pprWrite {s : State} (hs : Tidy s) (v : Nat) : Tidy (s.pprWrite v) := hs.ite (hs.setReg _ _)

theorem Tidy.spoilRow {s : State} (hs : Tidy s) (m c bank row : Nat) : Tidy (s.spoilRow m c bank row) :=
  (Tidy.foldl (fun _ _ h1 => h1.setCells _ _ _) _ hs).renew

theorem Tidy.dpcfg {s : State} (hs : Tidy s) (v : Nat) : Tidy (s.dpcfg v) := by
  unfold State.dpcfg
  split
  · exact hs
  · exact Tidy.foldl (fun _ _ h1 => h1.ite (h1.setField _ _ _ _)) _ hs

theorem Tidy.pstate {s : State} (hs : Tidy s) (p v : Nat) : Tidy (s.pstate p v) := by
  unfold State.pstate
  split <;> exact hs

theorem Tidy.clon {s : State} (hs : Tidy s) (v : Nat) : Tidy (s.clon v) :=
  Tidy.foldl (fun _ _ h1 => h1.invalidateL1 _) _ ((hs.setReg _ _).setReg _ _)

theorem Tidy.scon {s : State} (hs : Tidy s) (v : BitVec 64) : Tidy (s.scon v) := hs

theorem Tidy.banklim {s : State} (hs : Tidy s) (m v : Nat) : Tidy (s.banklim m v) := (hs.setReg _ _).ite hs

theorem Tidy.clearTrip {s : State} (hs : Tidy s) : Tidy s.clearTrip := by
  unfold State.clearTrip
  split
  · exact hs
  · exact Tidy.foldl (fun _ _ h => h.hwError _ _ _ _) _ hs

theorem Tidy.hostPieceRead {s : State} (hs : Tidy s) (a n : Nat) : Tidy (s.hostPieceRead a n).1 := by
  unfold State.hostPieceRead
  dsimp only
  split
  · exact (hs.evictLine _).readBelow _ _
  · exact hs.readHome _ _

theorem Tidy.hostPieceWrite {s : State} (hs : Tidy s) (a n x : Nat) : Tidy (s.hostPieceWrite a n x) := by
  unfold State.hostPieceWrite
  dsimp only
  split
  · exact (hs.evictLine _).writeBelow _ _ _
  · exact hs.writeHome _ _ _

theorem Tidy.hostRead {s : State} (hs : Tidy s) (a n : Nat) : Tidy (s.hostRead a n).1 := by
  unfold State.hostRead
  generalize pieces 8 n a n = ps
  induction ps generalizing s with
  | nil => exact hs
  | cons p ps ih => exact ih (hs.hostPieceRead _ _)

theorem Tidy.hostWrite {s : State} (hs : Tidy s) (a n x : Nat) (poison : Bool) : Tidy (s.hostWrite a n x poison) := by
  unfold State.hostWrite
  split
  · refine Tidy.foldl (fun _ _ h1 => h1.setPoisonFor _ _ _) _ ?_
    refine Tidy.noteRaces ?_ _ _
    refine Tidy.foldl_fst (fun _ _ h1 => ?_) _ ?_
    · exact h1.hostPieceWrite _ _ _
    · exact hs
  · refine Tidy.clearCovered ?_ _ _
    refine Tidy.noteRaces ?_ _ _
    refine Tidy.foldl_fst (fun _ _ h1 => ?_) _ ?_
    · exact h1.hostPieceWrite _ _ _
    · exact hs

theorem Tidy.incoming {s : State} {f : State → Window → Trans → State} (hs : Tidy s) (sender ctx va n : Nat) (k : AccKind)
    (fits : Window → Bool) (hf : ∀ t x1 x2, Tidy t → Tidy (f t x1 x2)) : Tidy (s.incoming sender ctx va n k fits f) := by
  unfold State.incoming
  split
  · split
    · exact hs.renew
    · split
      · exact hs.renew.keepFresh _ _ _
      · exact hf _ _ _ (hs.renew.keepFresh _ _ _)
  · exact hs.renew

theorem Tidy.addReduce {s : State} (hs : Tidy s) (n x : Nat) (bf16 : Bool) (t : Trans) : Tidy (s.addReduce n x bf16 t) := by
  unfold State.addReduce
  dsimp only
  split
  · exact (((((hs.evictLine _).noteRaces _ _).readBelow _ _).writeBelow _ _ _).renew).logError _ _ _ _ _ _ _ _
  · exact (((hs.evictLine _).noteRaces _ _).readBelow _ _).writeBelow _ _ _

theorem Tidy.writeWindow {s : State} (hs : Tidy s) (w : Window) (t : Trans) (n x : Nat) (poison : Bool) : Tidy
    (s.writeWindow w t n x poison) := by
  unfold State.writeWindow
  dsimp only
  split
  · split
    · exact ((hs.writeHome _ _ _).noteRaces _ _).setPoisonFor _ _ _
    · exact (hs.writeHome _ _ _).noteRaces _ _
  · split
    · exact hs
    · split
      · split
        · split
          · exact ((((hs.evictLine _).noteRaces _ _).writeBelow _ _ _).renew).setPoisonFor _ _ _
          · exact (((hs.evictLine _).noteRaces _ _).writeBelow _ _ _).renew
        · split
          · exact (hs.addReduce _ _ _ _).setPoisonFor _ _ _
          · exact hs.addReduce _ _ _ _
      · split
        · split
          · exact ((((hs.evictLine _).noteRaces _ _).writeBelow _ _ _).renew).setPoisonFor _ _ _
          · exact (((hs.evictLine _).noteRaces _ _).writeBelow _ _ _).renew
        · split
          · exact (hs.addReduce _ _ _ _).setPoisonFor _ _ _
          · exact hs.addReduce _ _ _ _

/-! ### Security commands -/

theorem Tidy.setMbox {s : State} (hs : Tidy s) (i : Nat) (xs : List Byte) : Tidy (s.setMbox i xs) := hs

theorem Tidy.newNonce {s : State} (hs : Tidy s) : Tidy s.newNonce := hs

theorem Tidy.secStatus {s : State} (hs : Tidy s) (st : Nat) : Tidy (s.secStatus st) := hs

theorem Tidy.enrolled {s : State} (hs : Tidy s) (t : Nat) : Tidy (s.enrolled t) := hs

theorem Tidy.enroll {s : State} (hs : Tidy s) : Tidy s.enroll := by
  unfold State.enroll
  dsimp only
  repeat' split
  all_goals exact hs

theorem Tidy.revoke {s : State} (hs : Tidy s) : Tidy s.revoke := by
  unfold State.revoke
  dsimp only
  repeat' split
  all_goals exact hs

theorem Tidy.update {s : State} (hs : Tidy s) : Tidy s.update := by
  unfold State.update
  dsimp only
  repeat' split
  all_goals exact hs

theorem Tidy.attest {s : State} (hs : Tidy s) : Tidy s.attest := by
  unfold State.attest
  refine Tidy.secStatus ?_ _
  refine Tidy.setMbox ?_ _ _
  exact hs

theorem Tidy.devkey {s : State} (hs : Tidy s) : Tidy s.devkey := hs

theorem Tidy.secCommand {s : State} (hs : Tidy s) (v : Nat) : Tidy (s.secCommand v) := by
  unfold State.secCommand
  split
  · exact hs
  · split
    · exact hs.attest
    · exact hs.enroll
    · exact hs.revoke
    · exact hs.update
    · exact hs.devkey
    · exact hs.secStatus _

/-! ### Registers of the device and of contexts -/

theorem Tidy.writeQueue {s : State} (hs : Tidy s) (n q r v : Nat) : Tidy (s.writeQueue n q r v) := by
  unfold State.writeQueue
  dsimp only
  repeat' split
  all_goals exact hs

theorem Tidy.ctxCommand {s : State} (hs : Tidy s) (v : Nat) : Tidy (s.ctxCommand v) := by
  unfold State.ctxCommand
  split
  · exact hs.contextCreate _ _ _ _
  · exact hs.contextEnd _
  · exact hs.ctxStatus _

theorem Tidy.noteWindow {s : State} (hs : Tidy s) (w : Nat) : Tidy (s.noteWindow w) := by
  unfold State.noteWindow
  split <;> exact hs

theorem Tidy.fenceWrite {s : State} (hs : Tidy s) (off v : Nat) : Tidy (s.fenceWrite off v) := hs.ite ((hs.setReg _ _).dropPorts _)

theorem Tidy.resetWrite {s : State} (hs : Tidy s) (v : Nat) : Tidy (s.resetWrite v) := by
  unfold State.resetWrite
  split
  · exact hs.warm
  · exact Tidy.foldl (fun _ _ h1 => h1.partitionReset _ _) _ hs

theorem Tidy.writePower {s : State} (hs : Tidy s) (off v : Nat) : Tidy (s.writePower off v) := by
  unfold State.writePower
  split
  · exact hs.pstate _ _
  · exact hs.banklim _ _
  · split
    · exact hs.dpcfg _
    · split
      · exact hs.clon _
      · split
        · exact hs.scon _
        · split
          · exact hs.setReg _ _
          · split
            · exact hs.setReg _ _
            · split
              · exact hs.clearTrip.ite hs
              · exact hs

theorem Tidy.writeLink {s : State} (hs : Tidy s) (off v : Nat) : Tidy (s.writeLink off v) := by
  unfold State.writeLink
  split
  · exact (hs.setField _ _ _ _).ite (hs.setReg _ _)
  · exact (hs.noteWindow _).setReg _ _
  · exact (hs.setReg _ _).ite hs

theorem Tidy.writeLog {s : State} (hs : Tidy s) (off v : Nat) : Tidy (s.writeLog off v) := by
  unfold State.writeLog
  repeat' split
  all_goals exact hs

theorem Tidy.writeHostOnly {s : State} (hs : Tidy s) (off v : Nat) : Tidy (s.writeHostOnly off v) := by
  unfold State.writeHostOnly
  split
  · exact hs.setMbox _ _
  · exact hs.fenceWrite _ _
  · split
    · exact hs.secCommand _
    · split
      · exact hs.resetWrite _
      · exact (hs.pprWrite _).ite hs

theorem Tidy.writeCp {s : State} (hs : Tidy s) (off v : Nat) : Tidy (s.writeCp off v) := by
  unfold State.writeCp
  split
  · exact hs.writeQueue _ _ _ _
  · exact hs.ite (hs.setReg _ _)
  · exact hs.ite (hs.setReg _ _)
  · exact (hs.ctxCommand _).ite hs

theorem Tidy.writeDev {s : State} (hs : Tidy s) (off v : Nat) : Tidy (s.writeDev off v) := by
  unfold State.writeDev
  split
  · exact hs
  · split
    · exact hs.writeCp _ _
    · split
      · exact hs.writeLog _ _
      · split
        · exact (hs.bistGo _ _).ite (hs.setReg _ _)
        · split
          · exact hs
          · split
            · exact hs.writeLink _ _
            · exact (hs.writePower _ _).ite (hs.writeHostOnly _ _)

/-! ### System instructions -/

theorem Tidy.sysWrite {s : State} (hs : Tidy s) (g : Group) (sel reg v : Nat) : ∀ t, s.sysWrite g sel reg v = .ok t → Tidy t := by
  intro t ht
  unfold State.sysWrite at ht
  split at ht
  · split at ht
    · cases ht
    · split at ht
      · exact Except.ok.inj ht ▸ hs
      · split at ht
        · cases ht
        · cases ht
        · split at ht
          · cases ht
          · exact Except.ok.inj ht ▸ hs.writeDev _ _
  · split at ht
    · cases ht
    · split at ht
      · cases ht
      · exact Except.ok.inj ht ▸ hs.modCtx _ _

theorem Tidy.sysIssue {s : State} (hs : Tidy s) (h : Hdr) (i : Instr) (codes dst : List Nat) (vals : Env → List Nat) : Tidy
    (s.sysIssue h i codes dst vals) := by
  unfold State.sysIssue
  dsimp only
  split
  · exact hs
  · split
    · exact hs.progError _ _ _ _ _ _
    · refine hs.checked _ _ (fun _ => ?_) (fun _ => hs.undefineLost _ _ _ _)
      split
      · exact (hs.undefine _ _ _ _).ite (hs.fail _ _ _ _ _)
      · exact (((hs.launch _ _).unsettle _ _).undefineLost _ _ _ _).renew

theorem Tidy.endByHandle {s : State} (hs : Tidy s) (tret : Bool) (handle : Nat) : Tidy (s.endByHandle tret handle).1 := by
  unfold State.endByHandle
  split
  · exact hs
  · split
    · exact hs
    · split
      · exact hs
      · split
        · exact hs.modCtx _ _
        · exact hs.endStop _ _

theorem Tidy.haltCtx {s : State} (hs : Tidy s) (own : Nat) (c : Ctx) : Tidy (s.haltCtx own c).1 := by
  unfold State.haltCtx
  split
  · exact hs
  · split
    · exact hs
    · exact (hs.modCtx _ _).checkHaltCtx _

theorem Tidy.killCtx {s : State} (hs : Tidy s) (own : Nat) (c : Ctx) : Tidy (s.killCtx own c).1 := by
  unfold State.killCtx
  split
  · exact hs
  · split
    · exact hs
    · exact hs.endTake _ _ _

theorem Tidy.dropTlb {s : State} (hs : Tidy s) (o : Op) (c : Nat) (range : Option (Nat × Nat)) : Tidy (s.dropTlb o c range) := hs

theorem Tidy.doTlbinv {s : State} (hs : Tidy s) (o : Op) (g : Group) (range : Option (Nat × Nat)) : Tidy (s.doTlbinv o g range) := by
  unfold State.doTlbinv
  dsimp only
  split
  · exact hs.finishOp _
  · split
    · exact ((hs.dropTlb _ _ _).finishOp _).ite (hs.dropTlb _ _ _)
    · exact hs.dropTlb _ _ _

theorem Tidy.finishStatus {r : State × Nat} (hr : Tidy r.1) (o : Op) (d : Nat) : Tidy (State.finishStatus r o d) := hr.finishOp _

theorem Tidy.sysEffect {s : State} (hs : Tidy s) (o : Op) (g : Group) : Tidy (s.sysEffect o g) := by
  unfold State.sysEffect
  dsimp only
  split
  · split
    · exact hs.finishOp _
    · exact hs.renew.finishOp _
  · split
    · exact hs.finishOp _
    · rename_i t ht
      exact (hs.sysWrite _ _ _ _ t ht).finishOp _
  · exact Tidy.finishStatus (hs.endByHandle _ _) _ _
  · exact Tidy.finishStatus (hs.endByHandle _ _) _ _
  · split
    · exact hs.finishOp _
    · exact Tidy.finishStatus (hs.haltCtx _ _) _ _
  · split
    · exact hs.finishOp _
    · exact Tidy.finishStatus (hs.killCtx _ _) _ _
  · exact hs.doTlbinv _ _ _
  · exact .ite (hs.finishOp _) (hs.doTlbinv _ _ _)
  · refine Tidy.finishOp ?_ _
    split
    · exact .ite (hs.markRanges _ _ _) hs
    · exact hs
  · exact hs

theorem Tidy.doSystem {s : State} (hs : Tidy s) (o : Op) (g : Group) : Tidy (s.doSystem o g) := by
  unfold State.doSystem
  split
  · split
    · exact hs.finishOp _
    · exact (hs.finishOp _).progError _ _ _ _ _ _
  · exact hs.sysEffect _ _

/-! ### Completions -/

theorem Tidy.shadowFail {s : State} (hs : Tidy s) (o : Op) (g : Group) (lane : Nat) : Tidy (s.shadowFail o g lane) :=
  (hs.countUp _ _).hwError _ _ _ _

theorem Tidy.shadowTrap {s : State} (hs : Tidy s) (o : Op) (g : Group) : Tidy (s.shadowTrap o g) := by
  unfold State.shadowTrap
  split
  · exact Tidy.foldl (fun _ _ h1 => h1.shadowFail _ _ _) _ hs
  · exact hs

theorem Tidy.doFixed {s : State} (hs : Tidy s) (o : Op) (g : Group) : Tidy (s.doFixed o g) := by
  unfold State.doFixed
  split
  · exact hs.finishOp _
  · exact (hs.finishOp _).modLanes _ _ _
  · exact (hs.finishOp _).modLanes _ _ _
  · exact (hs.finishOp _).modGroup _ _
  · exact (hs.finishOp _).modGroup _ _
  · exact hs.finishOp _

theorem Tidy.doRows {s : State} (hs : Tidy s) (o : Op) (g : Group) : Tidy (s.doRows o g).1 := by
  unfold State.doRows
  split
  · exact hs.doXred _ _
  · exact hs.doXpref _ _
  · exact hs

theorem Tidy.endEngine {s : State} (hs : Tidy s) (o : Op) : Tidy (s.endEngine o) := (hs.ite (hs.engineError _)).finishOp _

/-! ### The scheduler -/

theorem Tidy.reach {s : State} (hs : Tidy s) (g : Group) (pc : Nat) : Tidy (s.reach g pc).1 := by
  unfold State.reach
  dsimp only
  split
  · exact hs.fetchLine _ _
  · split
    · exact hs.fetchLine _ _
    · split
      · split
        · exact hs.fetchLine _ _
        · split
          · exact (hs.fetchLine _ _).scriptEntry _ _
          · split <;> exact (hs.fetchLine _ _).scriptEntry _ _
      · split <;> exact hs.fetchLine _ _

theorem Tidy.takePort {s : State} (hs : Tidy s) (x : Port) : Tidy (s.takePort x) := hs

theorem Tidy.perform {s : State} (hs : Tidy s) (g : Group) (w : Warp) (i : Instr) : Tidy (s.perform g w i) := by
  unfold State.perform
  split
  · exact hs
  · refine Tidy.foldl (fun s o hs => ?_) _ hs
    split
    · rename_i p y _ _
      have hc : Tidy (if Instr.writesMem p.instr then s.copyAll y.take (p.units.map MUnit.loc) else s) := .ite (hs.copyAll _ _) hs
      exact .ite (.getD (.or (hc.doAccess p y) (hc.doPlain p y)) hc) hc
    · exact hs

theorem Tidy.takeSlot {s : State} (hs : Tidy s) (r : Ready) (next waits : Nat) (pair script : Bool) : Tidy
    (s.takeSlot r next waits pair script) := by
  unfold State.takeSlot
  extract_lets others s1 s2 s3 s4
  have h1 : Tidy s1 := hs.modLanes _ _ _
  have h2 : Tidy s2 := h1.modLanes _ _ _
  have h3 : Tidy s3 := h2.modWarp _ _ _
  have h4 : Tidy s4 := h3.takePort _
  exact h4.renew

theorem Tidy.fetchFails {s : State} (hs : Tidy s) (r : Ready) (code addr : Nat) : Tidy (s.fetchFails r code addr) := by
  unfold State.fetchFails
  split
  · exact hs.settleError _ _ _ _
  · exact (hs.returnTrap _).ite (hs.park _ _ _ _ _)

theorem Tidy.badWord {s : State} (hs : Tidy s) (r : Ready) (code : Nat) (branches : List (Nat × Instr)) : Tidy
    (s.badWord r code branches) := by
  unfold State.badWord
  split <;> exact hs.progError _ _ _ _ _ _

theorem Tidy.openTurn {s : State} (hs : Tidy s) : Tidy s.openTurn := by
  unfold State.openTurn
  refine Tidy.foldl (fun _ _ h1 => ?_) _ hs
  split
  · exact h1.perform _ _ _
  · exact h1

theorem Tidy.countTimers {s : State} (hs : Tidy s) : Tidy s.countTimers := hs

theorem Tidy.tick {s : State} (hs : Tidy s) : Tidy s.tick := hs

end Sys2Proof.Claims
end

section
/-!
SUPPORT. Memory and the L2 stay canonical in every step.
-/

namespace Sys2Proof.Claims

open Sys2Proof.Machine

/-! ### What the rows of the dispatch do -/

theorem Tidy.of_next {s t : State} (hx : Host.Outcome.next s = (Host.Outcome.next t : Outcome)) (hs : Tidy s) : Tidy t := by
  cases hx
  exact hs

theorem Tidy.execBra {s t : State} (hs : Tidy s) (h : Hdr) (o : BraOps) (hx : execBra h o s = .next t) : Tidy t := by
  refine .of_next hx ?_
  refine hs.withEnv _ (fun _ => ?_) (fun _ => hs)
  exact hs.branch _ _ _ (fun _ _ h1 => h1.goTo _ _ _)

theorem Tidy.execBrx {s t : State} (hs : Tidy s) (h : Hdr) (o : BrxOps) (hx : execBrx h o s = .next t) : Tidy t := by
  refine .of_next hx ?_
  exact hs.pairTargets _ _ (fun _ _ _ _ h1 => h1.branchReg _ _ _ _ (fun _ _ h11 => h11.goTo _ _ _))

theorem Tidy.execLoop {s t : State} (hs : Tidy s) (h : Hdr) (o : LoopOps) (hx : execLoop h o s = .next t) : Tidy t := by
  refine .of_next hx ?_
  split
  · exact hs
  · refine (hs.goTo _ _ _).checked _ _ (fun _ => ?_) (fun _ => hs.goTo _ _ _)
    refine (hs.goTo _ _ _).branchReg _ _ _ _ (fun _ _ h1 => ?_)
    exact (h1.goTo _ _ _).modLanes _ _ _

theorem Tidy.execEndl {s t : State} (hs : Tidy s) (h : Hdr) (o : BitVec 20) (hx : execEndl h o s = .next t) : Tidy t := by
  refine .of_next hx ?_
  refine hs.withEnv _ (fun _ => ?_) (fun _ => hs)
  exact hs.branchReg _ _ _ _ (fun _ _ h1 => (h1.goTo _ _ _).modLanes _ _ _)

theorem Tidy.execEndlBrk {s t : State} (hs : Tidy s) (h : Hdr) (hx : execEndlBrk h s = .next t) : Tidy t := by
  refine .of_next hx ?_
  refine hs.withEnv _ (fun _ => ?_) (fun _ => hs)
  split
  · exact hs.fail _ _ _ _ _
  · split
    · exact hs.fail _ _ _ _ _
    · exact hs.modLanes _ _ _

theorem Tidy.execYield {s t : State} (hs : Tidy s) (h : Hdr) (hx : execYield h s = .next t) : Tidy t := by
  refine .of_next hx ?_
  repeat' split
  all_goals exact hs

theorem Tidy.execWait {s t : State} (hs : Tidy s) (_h : Hdr) (o : BitVec 10) (hx : execWait _h o s = .next t) : Tidy t := by
  refine .of_next hx ?_
  repeat' split
  all_goals exact hs

theorem Tidy.execSmov {s t : State} (hs : Tidy s) (h : Hdr) (o : SmovOps) (hx : execSmov h o s = .next t) : Tidy t := by
  refine .of_next hx ?_
  exact hs.checked _ _ (fun _ => (hs.smovAt _ _ _ _ _ _ _).ite (hs.undefineLost _ _ _ _)) (fun _ => hs.undefineLost _ _ _ _)

theorem Tidy.execSmovSt {s t : State} (hs : Tidy s) (h : Hdr) (o : SmovOps) (hx : execSmovSt h o s = .next t) : Tidy t := by
  refine .of_next hx ?_
  exact hs.checked _ _ (fun _ => (hs.smovAt _ _ _ _ _ _ _).ite (hs.undefineLost _ _ _ _)) (fun _ => hs.undefineLost _ _ _ _)

theorem Tidy.execLdu {s t : State} (hs : Tidy s) (h : Hdr) (o : LoadOps) (hx : execLdu h o s = .next t) : Tidy t := by
  refine .of_next hx ?_
  refine hs.checked _ _ (fun _ => ?_) (fun _ => hs)
  dsimp only
  split
  · exact hs
  · split
    · exact hs.fail _ _ _ _ _
    · split
      · split
        · exact hs.fail _ _ _ _ _
        · refine Tidy.undefineLost ?_ _ _ _ _
          refine Tidy.settleLanes ?_ _ _ _ _ (fun _ _ h1 => h1.ite ((h1.launch _ _).unsettle _ _))
          split
          · exact hs
          · exact hs.locLane _ _ _ _ _ _
      · split
        · exact hs.fail _ _ _ _ _
        · refine Tidy.undefineLost ?_ _ _ _ _
          refine Tidy.settleLanes ?_ _ _ _ _ (fun _ _ h1 => h1.ite ((h1.launch _ _).unsettle _ _))
          split
          · exact hs
          · exact hs.locLane _ _ _ _ _ _

theorem Tidy.execPref {s t : State} (hs : Tidy s) (h : Hdr) (o : PrefOps) (hx : execPref h o s = .next t) : Tidy t := by
  refine .of_next hx ?_
  refine hs.withEnv _ (fun _ => ?_) (fun _ => hs)
  split
  · split
    · exact hs
    · exact Tidy.foldl (fun _ _ h1 => (h1.prefetch _ _ _ _).ite h1) _ (hs.readRows _ _)
  · split
    · exact hs
    · exact Tidy.foldl (fun _ _ h1 => (h1.prefetch _ _ _ _).ite h1) _ (hs.readRows _ _)

theorem Tidy.execBmode {s t : State} (hs : Tidy s) (h : Hdr) (o : BmodeOps) (hx : execBmode h o s = .next t) : Tidy t := by
  refine .of_next hx ?_
  refine hs.coreOnly ?_ _
  exact hs.withEnv _ (fun _ => (hs.fail _ _ _ _ _).ite (hs.launch _ _)) (fun _ => hs)

theorem Tidy.execPres {s t : State} (hs : Tidy s) (h : Hdr) (o : PresOps) (hx : execPres h o s = .next t) : Tidy t := by
  refine .of_next hx ?_
  refine hs.checked _ _ (fun _ => ?_) (fun _ => hs)
  dsimp only
  split
  · exact hs.fail _ _ _ _ _
  · exact ((hs.popArgs _ _).addOp _).undefineLost _ _ _ _

theorem Tidy.execTflag {s t : State} (hs : Tidy s) (h : Hdr) (o : BitVec 10) (hx : execTflag h o s = .next t) : Tidy t := by
  refine .of_next hx ?_
  refine hs.withEnv _ (fun _ => ?_) (fun _ => hs)
  split
  · exact hs.fail _ _ _ _ _
  · exact hs.addOp _

theorem Tidy.execMdecl {s t : State} (hs : Tidy s) (h : Hdr) (o : MdeclOps) (hx : execMdecl h o s = .next t) : Tidy t := by
  refine .of_next hx ?_
  refine hs.coreOnly ?_ _
  refine hs.checked _ _ (fun _ => ?_) (fun _ => hs)
  dsimp only
  split
  · exact hs.fail _ _ _ _ _
  · exact (hs.failRead _ _ _ _ _).ite ((hs.setConv _ _ _).addOp _)

theorem Tidy.execMsign {s t : State} (hs : Tidy s) (h : Hdr) (o : BitVec 3) (hx : execMsign h o s = .next t) : Tidy t := by
  refine .of_next hx ?_
  refine hs.coreOnly ?_ _
  refine hs.withEnv _ (fun _ => ?_) (fun _ => hs)
  dsimp only
  split
  · exact hs.fail _ _ _ _ _
  · exact (hs.fail _ _ _ _ _).ite ((hs.setConv _ _ _).addOp _)

theorem Tidy.execMma {s t : State} (hs : Tidy s) (h : Hdr) (o : MmaOps) (hx : execMma h o s = .next t) : Tidy t := by
  refine .of_next hx ?_
  refine hs.command _ _ _ (fun _ _ => ?_) (fun _ => hs)
  dsimp only
  split
  · exact hs.fail _ _ _ _ _
  · split
    · exact hs.fail _ _ _ _ _
    · split
      · exact hs.fail _ _ _ _ _
      · split
        · exact hs.failRead _ _ _ _ _
        · exact (hs.addOp _).setConv _ _ _
        · exact (hs.addOp _).modLanes _ _ _

theorem Tidy.execMload {s t : State} (hs : Tidy s) (h : Hdr) (o : MloadOps) (hx : execMload h o s = .next t) : Tidy t := by
  refine .of_next hx ?_
  refine hs.checked _ _ (fun _ => ?_) (fun _ => hs)
  dsimp only
  split
  · exact hs.failRead _ _ _ _ _
  · exact (hs.issueTile _ _ _ _ _).markEarly _ _

theorem Tidy.execMout {s t : State} (hs : Tidy s) (h : Hdr) (o : MoutOps) (hx : execMout h o s = .next t) : Tidy t := by
  refine .of_next hx ?_
  refine hs.checked _ _ (fun _ => ?_) (fun _ => hs)
  dsimp only
  split
  · exact hs.fail _ _ _ _ _
  · split
    · exact hs.failRead _ _ _ _ _
    · exact (hs.issueTile _ _ _ _ _).markEarly _ _

theorem Tidy.execMfence {s t : State} (hs : Tidy s) (h : Hdr) (hx : execMfence h s = .next t) : Tidy t := by
  refine .of_next hx ?_
  refine hs.coreOnly ?_ _
  refine hs.withEnv _ (fun _ => ?_) (fun _ => hs)
  dsimp only
  split
  · exact hs.modWarp _ _ _
  · exact (hs.modWarp _ _ _).addOp _

theorem Tidy.execMwait {s t : State} (hs : Tidy s) (h : Hdr) (o : BitVec 3) (hx : execMwait h o s = .next t) : Tidy t := by
  refine .of_next hx ?_
  refine hs.coreOnly ?_ _
  refine hs.withEnv _ (fun _ => ?_) (fun _ => hs)
  split
  · exact hs.settleTiles _ _
  · exact (hs.addOp _).modLanes _ _ _

theorem Tidy.execAwalk {s t : State} (hs : Tidy s) (h : Hdr) (o : AwalkOps) (hx : execAwalk h o s = .next t) : Tidy t := by
  refine .of_next hx ?_
  refine hs.coreOnly ?_ _
  refine hs.command _ _ _ (fun _ _ => ?_) (fun _ => hs)
  dsimp only
  split
  · exact hs.failRead _ _ _ _ _
  · split
    · exact hs.failRead _ _ _ _ _
    · split
      · exact hs.failRead _ _ _ _ _
      · split
        · exact hs.failRead _ _ _ _ _
        · split
          · exact ((hs.engineReadSpan _ _ _ _ _).engineReadSpan _ _ _ _ _).addOp _
          · split
            · split
              · exact hs
              · exact ((hs.engineReadSpan _ _ _ _ _).engineReadSpan _ _ _ _ _).fail _ _ _ _ _
            · exact ((hs.engineReadSpan _ _ _ _ _).engineReadSpan _ _ _ _ _).addOp _

theorem Tidy.execAstop {s t : State} (hs : Tidy s) (h : Hdr) (o : BitVec 3) (hx : execAstop h o s = .next t) : Tidy t := by
  refine .of_next hx ?_
  refine hs.coreOnly ?_ _
  refine hs.command _ _ _ (fun _ _ => ?_) (fun _ => hs)
  split
  · exact hs
  · exact hs.modOp _ _

theorem Tidy.execPlalloc {s t : State} (hs : Tidy s) (h : Hdr) (o : PlallocOps) (hx : execPlalloc h o s = .next t) : Tidy t := by
  refine .of_next hx ?_
  refine hs.coreOnly ?_ _
  exact hs.command _ _ _ (fun _ _ => (hs.failRead _ _ _ _ _).ite (hs.issuePlane _ _ _ _ _)) (fun _ => hs)

theorem Tidy.execPlfree {s t : State} (hs : Tidy s) (h : Hdr) (hx : execPlfree h s = .next t) : Tidy t := by
  refine .of_next hx ?_
  refine hs.coreOnly ?_ _
  exact hs.command _ _ _ (fun _ _ => hs.issuePlane _ _ _ _ _) (fun _ => hs)

theorem Tidy.execPldot {s t : State} (hs : Tidy s) (h : Hdr) (o : PldotOps) (hx : execPldot h o s = .next t) : Tidy t := by
  refine .of_next hx ?_
  refine hs.coreOnly ?_ _
  refine hs.command _ _ _ (fun _ _ => ?_) (fun _ => hs)
  dsimp only
  split
  · exact hs.failRead _ _ _ _ _
  · exact (hs.failRead _ _ _ _ _).ite (hs.issuePlane _ _ _ _ _)

theorem Tidy.execNcallL {s t : State} (hs : Tidy s) (h : Hdr) (o : NcallLOps) (hx : execNcallL h o s = .next t) : Tidy t := by
  refine .of_next hx ?_
  refine hs.coreOnly ?_ _
  refine hs.checked _ _ (fun _ => ?_) (fun _ => hs.undefineLost _ _ _ _)
  dsimp only
  split
  · exact hs
  · split
    · exact hs.fail _ _ _ _ _
    · split
      · exact (hs.undefine _ _ _ _).ite (hs.fail _ _ _ _ _)
      · refine hs.callEntry _ _ _ _ (fun _ _ h1 => ?_)
        refine Tidy.undefineLost ?_ _ _ _ _
        refine (h1.callTargets _ _).settleLanes _ _ _ _ (fun _ _ h11 => ?_)
        split
        · exact h11.ite (h11.undefine _ _ _ _)
        · refine Tidy.block ?_ _ _ _
          exact ((h11.ite (h11.undefine _ _ _ _)).launch _ _).modWarp _ _ _

theorem Tidy.execNcallB {s t : State} (hs : Tidy s) (h : Hdr) (o : NcallBOps) (hx : execNcallB h o s = .next t) : Tidy t := by
  refine .of_next hx ?_
  refine hs.coreOnly ?_ _
  refine hs.command _ _ _ (fun _ _ => ?_) (fun _ => hs)
  dsimp only
  split
  · exact hs.failRead _ _ _ _ _
  · split
    · exact hs.failRead _ _ _ _ _
    · split
      · exact hs.failRead _ _ _ _ _
      · split
        · exact hs.failRead _ _ _ _ _
        · exact hs.callEntry _ _ _ _ (fun _ _ h1 => h1.launch _ _)

theorem Tidy.execNret {s t : State} (hs : Tidy s) (h : Hdr) (o : NretOps) (hx : execNret h o s = .next t) : Tidy t := by
  refine .of_next hx ?_
  refine hs.checked _ _ (fun _ => ?_) (fun _ => hs)
  split
  · exact hs.fail _ _ _ _ _
  · exact hs.retire _ _
  · exact ((hs.readRows _ _).sendReplies _ _ _).retire _ _

theorem Tidy.execBkmac {s t : State} (hs : Tidy s) (h : Hdr) (o : BkmacOps) (hx : execBkmac h o s = .next t) : Tidy t := by
  refine .of_next hx ?_
  refine hs.bankCommand _ _ _ _ _ _ _ _ (fun _ _ _ _ _ _ h1 => ?_)
  dsimp only
  split
  · exact h1.failRead _ _ _ _ _
  · exact h1.reaching _ _ (fun _ h11 => h11.addBank _ _ _ _ _)

theorem Tidy.execBkread {s t : State} (hs : Tidy s) (h : Hdr) (o : BkreadOps) (hx : execBkread h o s = .next t) : Tidy t := by
  refine .of_next hx ?_
  dsimp only
  split
  · exact hs
  · split
    · exact hs.progError _ _ _ _ _ _
    · exact hs.bankCommand _ _ _ _ _ _ _ _ (fun _ _ _ _ _ _ h1 => ((h1.addOp _).unsettle _ _).undefineLost _ _ _ _)

theorem Tidy.execKvxlate {s t : State} (hs : Tidy s) (h : Hdr) (o : KvxlateOps) (hx : execKvxlate h o s = .next t) : Tidy t := by
  refine .of_next hx (hs.coreOnly (hs.checked _ _ (fun e => ?_) fun e => hs.undefineLost _ _ _ _) _)
  extract_lets p bad ra early all r u
  split
  · exact hs.fail _ _ _ _ _
  split
  · exact hs.undefine _ _ _ _
  split
  · exact hs.fail _ _ _ _ _
  split
  · exact hs.fail _ _ _ _ _
  have hr : Tidy r.1 := hs.kvRead _ _ _ _
  split
  · exact hr.settleLanes _ _ _ _ fun _ _ h => h
  · exact hr.hwError _ _ _ _
  extract_lets since hd
  have hu : Tidy u := hr.acquireAt _ _
  split
  · exact hu.fail _ _ _ _ _
  have hh : Tidy hd.1 := hu.kvRead _ _ _ _
  split
  · exact hh.settleLanes _ _ _ _ fun _ _ h => h
  · exact hh.hwError _ _ _ _
  split
  · exact hh.undefine _ _ _ _
  split
  · exact hh.fail _ _ _ _ _
  extract_lets q fails
  have hq : Tidy q.1 := hh.kvLanes _ _ _ _ _
  split
  · exact hq.hwError _ _ _ _
  · refine (hq.settleLanes _ _ _ _ fun v act hv => ?_).undefineLost _ _ _ _
    split
    · exact hv
    · exact ((hv.addOp _).unsettle _ _).renew

theorem Tidy.execFsem {s t : State} (hs : Tidy s) (h : Hdr) (o : FsemOps) (hx : execFsem h o s = .next t) : Tidy t := by
  refine .of_next hx ?_
  refine hs.command _ _ _ (fun _ _ => ?_) (fun _ => hs)
  dsimp only
  split
  · exact hs.failRead _ _ _ _ _
  · exact (hs.failRead _ _ _ _ _).ite (hs.launch _ _)

theorem Tidy.execPair {s t : State} (hs : Tidy s) (a : Instr) (b : Instr) (hx : execPair a b s = .next t) : Tidy t := by
  refine .of_next hx ?_
  split
  · exact hs
  · split
    · refine Tidy.modLanes ?_ _ _ _
      exact hs
    · split <;> exact hs.fail _ _ _ _ _

theorem Tidy.execWsyncRelease {s t : State} (hs : Tidy s) (gid : Nat) (wid : Nat) (hx : execWsyncRelease gid wid s = .next t) : Tidy t := by
  refine .of_next hx ?_
  repeat' split
  all_goals exact hs

theorem Tidy.execGrowGrant {s t : State} (hs : Tidy s) (gid : Nat) (hx : execGrowGrant gid s = .next t) : Tidy t := by
  refine .of_next hx ?_
  split
  · exact hs
  · split
    · exact hs
    · split
      · refine Tidy.trimL1 ?_ _
        refine Tidy.modGroup ?_ _ _
        exact hs
      · exact hs

theorem Tidy.execCut {s t : State} (hs : Tidy s) (gid : Nat) (wid : Nat) (hx : execCut gid wid s = .next t) : Tidy t := by
  refine .of_next hx ?_
  split
  · exact hs
  · split
    · exact hs
    · split
      · exact (hs.progError _ _ _ _ _ _).ite (hs.cutWarp _ _)
      · exact hs

theorem Tidy.execSplice {s t : State} (hs : Tidy s) (gid : Nat) (wid : Nat) (hx : execSplice gid wid s = .next t) : Tidy t := by
  refine .of_next hx ?_
  split
  · exact hs
  · split
    · exact hs
    · split
      · split
        · exact hs
        · exact hs.giveOutcome _ _ _
        · exact (hs.giveOutcome _ _ _).giveOutcome _ _ _
        · split
          · exact hs.progError _ _ _ _ _ _
          · exact (hs.progError _ _ _ _ _ _).ite (hs.joinWarps _ _ _)
      · exact hs

theorem Tidy.execCpaLineLand {s t : State} (hs : Tidy s) (op : Nat) (line : Nat) (hx : execCpaLineLand op line s = .next t) : Tidy t := by
  refine .of_next hx ?_
  split
  · exact hs
  · split
    · exact hs
    · exact (hs.landLine _ _ _).ite hs

theorem Tidy.execScratchpadAccessResume {s t : State} (hs : Tidy s) (op : Nat) (hx : execScratchpadAccessResume op s = .next t) : Tidy
    t := by
  refine .of_next hx ?_
  split
  · exact hs
  · split
    · exact hs
    · exact (hs.goOut _ _).ite hs

theorem Tidy.execTeamMemberAccessResume {s t : State} (hs : Tidy s) (op : Nat) (hx : execTeamMemberAccessResume op s = .next t) : Tidy
    t := by
  refine .of_next hx ?_
  split
  · exact hs
  · split
    · exact hs
    · split
      · split
        · exact hs.resumeCopy _ _
        · exact hs.resumeCopy _ _
        · exact hs.resumeCopy _ _
        · exact hs.resumeCopy _ _
        · exact hs.resumeTile _ _ _ _
        · exact hs.resumeTile _ _ _ _
        · exact hs.resumeMma _ _ _
        · exact hs.resumeAccess _ _
      · exact hs

theorem Tidy.execBarrierComplete {s t : State} (hs : Tidy s) (team : Bool) (g : Nat) (n : Nat)
    (hx : execBarrierComplete team g n s = .next t) : Tidy t := by
  refine .of_next hx ?_
  dsimp only
  split
  · exact hs
  · split
    · refine Tidy.foldl (fun _ _ h1 => ?_) _ (hs.setBar _ _ _ _)
      split
      · exact h1.modGroup _ _
      · refine Tidy.foldl (fun _ _ h11 => h11.finishOp _) _ ?_
        exact ((h1.modGroup _ _).acquireAt _ _).modLanes _ _ _
    · exact hs

theorem Tidy.execBwwaitRetest {s t : State} (hs : Tidy s) (op : Nat) (hx : execBwwaitRetest op s = .next t) : Tidy t := by
  refine .of_next hx ?_
  split
  · exact hs
  · split
    · split
      · exact (hs.testBwwait _ _ _ _).ite hs
      · exact hs
    · exact hs

theorem Tidy.execSemwaitRetry {s t : State} (hs : Tidy s) (op : Nat) (hx : execSemwaitRetry op s = .next t) : Tidy t := by
  refine .of_next hx ?_
  split
  · exact hs
  · split
    · split
      · exact (hs.trySemwait _ _ _ _).ite hs
      · exact hs
    · exact hs

theorem Tidy.execLongLatencyComplete {s t : State} (hs : Tidy s) (op : Nat) (hx : execLongLatencyComplete op s = .next t) : Tidy t := by
  refine .of_next hx ?_
  split
  · exact hs
  · rename_i o _
    split
    · exact hs
    · rename_i g _
      split
      · exact .ite (hs.endEngine _) hs
      · split
        · exact hs.moveOut _ _
        · split
          · exact .ite (hs.doSystem _ _) (.getD (.or (hs.doAccess o g) (hs.doPlain o g)) hs)
          · exact hs

theorem Tidy.execFixedLatencyComplete {s t : State} (hs : Tidy s) (op : Nat) (hx : execFixedLatencyComplete op s = .next t) : Tidy t := by
  refine .of_next hx ?_
  split
  · exact hs
  · split
    · exact hs
    · exact ((hs.doFixed _ _).shadowTrap _ _).ite hs

theorem Tidy.execMmaIssue {s t : State} (hs : Tidy s) (g : Nat) (c : Nat) (hx : execMmaIssue g c s = .next t) : Tidy t := by
  refine .of_next hx ?_
  repeat' split
  all_goals exact hs

theorem Tidy.execMmaComplete {s t : State} (hs : Tidy s) (op : Nat) (hx : execMmaComplete op s = .next t) : Tidy t := by
  refine .of_next hx ?_
  split
  · exact hs
  · split
    · split
      · exact Tidy.foldl (fun _ _ h1 => (h1.countUp _ _).hwError _ _ _ _) _ (((((hs.setTile _ _ _).setTile _ _ _).renew).modOp _
        _).setConv _ _ _)
      · exact hs
    · exact hs

theorem Tidy.execMwaitRelease {s t : State} (hs : Tidy s) (op : Nat) (hx : execMwaitRelease op s = .next t) : Tidy t := by
  refine .of_next hx ?_
  split
  · exact hs
  · split
    · exact (((hs.settleTiles _ _).freeHeld _).finishOp _).ite hs
    · exact hs

theorem Tidy.execWalkPoint {s t : State} (hs : Tidy s) (op : Nat) (hx : execWalkPoint op s = .next t) : Tidy t := by
  refine .of_next hx ?_
  dsimp only
  split
  · exact hs
  · split
    · split
      · split
        · exact hs.landPoint _ _ _ _
        · exact (hs.pushWords _ _ _ _).modOp _ _
        · split
          · split
            · exact hs.modOp _ _
            · exact hs
            · exact (hs.addPendings _).modOp _ _
          · exact ((hs.walkRun _ _ _ _).pushWords _ _ _ _).modOp _ _
      · exact hs
    · exact hs

theorem Tidy.execPlaneCommandStart {s t : State} (hs : Tidy s) (op : Nat) (hx : execPlaneCommandStart op s = .next t) : Tidy t := by
  refine .of_next hx ?_
  split
  · exact hs
  · split
    · exact hs
    · split
      · refine Tidy.modOp ?_ _ _
        split
        · exact hs.startAlloc _ _
        · exact hs.modGroup _ _
        · exact hs
        · exact (hs.runPlane _ _ _).modGroup _ _
      · exact hs

theorem Tidy.execNcallLDeliver {s t : State} (hs : Tidy s) (op : Nat) (stack : Nat) (hx : execNcallLDeliver op stack s = .next t) : Tidy
    t := by
  refine .of_next hx ?_
  split
  · exact hs
  · split
    · exact hs
    · exact (hs.deliver _ _ _).ite hs

theorem Tidy.execNcallReply {s t : State} (hs : Tidy s) (op : Nat) (hx : execNcallReply op s = .next t) : Tidy t := by
  refine .of_next hx ?_
  dsimp only
  split
  · exact hs
  · split
    · split
      · split
        · exact (((((hs.dropRanges _ _ _).spoilRaced _).watch _).landReply _ _ _).modOp _ _).finishOp _
        · exact ((((hs.dropRanges _ _ _).spoilRaced _).watch _).landReply _ _ _).modOp _ _
      · exact ((((hs.dropRanges _ _ _).spoilRaced _).watch _).landReply _ _ _).modOp _ _
    · exact hs

theorem Tidy.execNcallBDeliver {s t : State} (hs : Tidy s) (op : Nat) (hx : execNcallBDeliver op s = .next t) : Tidy t := by
  refine .of_next hx ?_
  split
  · exact hs
  · split
    · exact (hs.deliverBlock _ _).ite hs
    · exact hs

theorem Tidy.execNcallBComplete {s t : State} (hs : Tidy s) (gid : Nat) (hx : execNcallBComplete gid s = .next t) : Tidy t := by
  refine .of_next hx ?_
  split
  · exact hs
  · split
    · split
      · exact hs
      · split
        · exact hs
        · split
          · extract_lets s1 s2 s3
            have h1 : Tidy s1 := (hs.dropRanges _ _ _).spoilRaced _
            have h2 : Tidy s2 := h1.watch _
            exact h2
          · exact hs
    · exact hs

theorem Tidy.execNjoinRelease {s t : State} (hs : Tidy s) (op : Nat) (hx : execNjoinRelease op s = .next t) : Tidy t := by
  refine .of_next hx ?_
  dsimp only
  split
  · exact hs
  · split
    · split
      · exact hs
      · split
        · exact hs
        · split
          · refine Tidy.finishOp ?_ _
            exact ((hs.acquireAt _ _).endJoin _ _ _).modLanes _ _ _
          · refine Tidy.modOp ?_ _ _
            exact ((hs.acquireAt _ _).endJoin _ _ _).modLanes _ _ _
    · exact hs

theorem Tidy.execReturnTrap {s t : State} (hs : Tidy s) (gid : Nat) (wid : Nat) (hx : execReturnTrap gid wid s = .next t) : Tidy t := by
  refine .of_next hx ?_
  repeat' split
  all_goals exact hs

theorem Tidy.execReturnTrapPlace {s t : State} (hs : Tidy s) (gid : Nat) (hx : execReturnTrapPlace gid s = .next t) : Tidy t := by
  refine .of_next hx ?_
  split
  · exact hs
  · split
    · exact hs
    · split
      · exact hs
      · extract_lets old s1 s2 s3
        have h1 : Tidy s1 := hs.dropRanges _ _ _
        have h2 : Tidy s2 := h1.elim fun o _ => h1.modOp _ _
        have h3 : Tidy s3 := (h2.invalidateL1 _).renew.modGroup _ _
        exact h3.rebase _ _ _

theorem Tidy.execBankCommandStart {s t : State} (hs : Tidy s) (op : Nat) (hx : execBankCommandStart op s = .next t) : Tidy t := by
  refine .of_next hx ?_
  dsimp only
  split
  · exact hs
  · split
    · split
      · refine Tidy.finishOp ?_ _
        refine Tidy.renew ?_
        exact hs
      · exact hs.finishOp _
      · refine Tidy.finishOp ?_ _
        exact hs
      · exact (hs.setChannel _).finishOp _
      · exact hs.modOp _ _
      · exact hs.finishOp _
      · exact hs
    · exact hs

theorem Tidy.execBkmacWave {s t : State} (hs : Tidy s) (op : Nat) (hx : execBkmacWave op s = .next t) : Tidy t := by
  refine .of_next hx ?_
  split
  · exact hs
  · split
    · exact (hs.bankWave _ _).ite hs
    · exact hs

theorem Tidy.execFabricAck {s t : State} (hs : Tidy s) (op : Nat) (status : Nat) (data : List (BitVec 64 × Bool))
    (hx : execFabricAck op status data s = .next t) : Tidy t := by
  refine .of_next hx ?_
  split
  · exact hs
  · split
    · exact hs
    · split
      · refine Tidy.modOp ?_ _ _
        refine Tidy.foldl_fst (fun _ _ h1 => ?_) _ ?_
        · exact h1.ackUnit _ _ _ _
        · exact hs
      · exact hs

theorem Tidy.execFsemSignal {s t : State} (hs : Tidy s) (op : Nat) (status : Nat) (hx : execFsemSignal op status s = .next t) : Tidy t := by
  refine .of_next hx ?_
  repeat' split
  all_goals exact hs

theorem Tidy.execEngineArrival {s t : State} (hs : Tidy s) (op : Nat) (hx : execEngineArrival op s = .next t) : Tidy t := by
  refine .of_next hx ?_
  split
  · exact hs
  · split
    · exact hs
    · split
      · exact hs
      · split
        · exact hs.arrive _ _ _
        · split
          · exact (hs.moveOut _ _).arrive _ _ _
          · exact (((hs.doRows _ _).modOp _ _).arrive _ _ _).ite hs

theorem Tidy.execTrapRecordWrite {s t : State} (hs : Tidy s) (c : Nat) (hx : execTrapRecordWrite c s = .next t) : Tidy t := by
  refine .of_next hx ?_
  dsimp only
  split
  · exact hs
  · split
    · exact hs
    · split
      · exact hs.lostRecord _ _
      · split
        · exact hs
        · split
          · exact hs.lostRecord _ _
          · rename_i heq2
            exact ((hs.cpWrite _ _ _ _ _ heq2).modCtx _ _).notifyTrap _

theorem Tidy.execSnapshotCopy {s t : State} (hs : Tidy s) (take : Nat) (granule : Nat) (hx : execSnapshotCopy take granule s = .next t) :
    Tidy t := by
  refine .of_next hx ?_
  split
  · exact hs
  · exact (hs.copyGranule _ _).ite hs

theorem Tidy.execWarpRetire {s t : State} (hs : Tidy s) (gid wid : Nat) (hx : execWarpRetire gid wid s = .next t) : Tidy t := by
  refine .of_next hx ?_
  repeat' split
  all_goals exact hs

theorem Tidy.execGroupRetire {s t : State} (hs : Tidy s) (gid : Nat) (hx : execGroupRetire gid s = .next t) : Tidy t := by
  refine .of_next hx ?_
  split
  · exact hs
  · exact (hs.leave _).ite hs

theorem Tidy.execGridEnd {s t : State} (hs : Tidy s) (take : Nat) (hx : execGridEnd take s = .next t) : Tidy t := by
  refine .of_next hx ?_
  split
  · exact hs
  · split
    · split
      · exact hs.hwError _ _ _ _
      · extract_lets s1 s2 s3
        have h1 : Tidy s1 := (hs.freeCopies _).modTake _ _
        have h2 : Tidy s2 := h1
        have h3 : Tidy s3 := h2.modCtx _ _
        exact (h3.modQueue _ _ _).loadTimer _ _
    · exact hs

theorem Tidy.execTriggerPoint {s t : State} (hs : Tidy s) (take : Nat) (hx : execTriggerPoint take s = .next t) : Tidy t := by
  refine .of_next hx ?_
  repeat' split
  all_goals exact hs

theorem Tidy.execGroupAdmission {s t : State} (hs : Tidy s) (take : Nat) (hx : execGroupAdmission take s = .next t) : Tidy t := by
  refine .of_next hx ?_
  split
  · exact hs
  · split
    · split
      · exact hs
      · exact (((hs.addGroup _).modTake _ _).acquireFlags _ _ _).trimL1 _
    · exact hs

theorem Tidy.execEviction {s t : State} (hs : Tidy s) (take : Nat) (hx : execEviction take s = .next t) : Tidy t := by
  refine .of_next hx ?_
  split
  · exact hs
  · exact hs.evictAll _

theorem Tidy.execGrowDeadlockEviction {s t : State} (hs : Tidy s) (core : Nat) (hx : execGrowDeadlockEviction core s = .next t) : Tidy
    t := by
  refine .of_next hx ?_
  split
  · exact hs
  · exact hs.evictAll _

theorem Tidy.execEvictionRecord {s t : State} (hs : Tidy s) (gid : Nat) (hx : execEvictionRecord gid s = .next t) : Tidy t := by
  refine .of_next hx ?_
  split
  · exact hs
  · split
    · split
      · exact ((hs.fileRecord _).modGroup _ _).modCtx _ _
      · exact hs
    · exact hs

theorem Tidy.execGroupRestore {s t : State} (hs : Tidy s) (gid : Nat) (hx : execGroupRestore gid s = .next t) : Tidy t := by
  refine .of_next hx ?_
  dsimp only
  split
  · exact hs
  · rename_i heq
    split
    · exact hs
    · split
      · split
        · exact hs
        · split
          · exact hs.bringBack (_) _ _
          · exact (hs.bringBack (_) _ _).modCtx _ _
      · exact hs

theorem Tidy.execQueueLaunch {s t : State} (hs : Tidy s) (n : Nat) (q : Nat) (hx : execQueueLaunch n q s = .next t) : Tidy t := by
  refine .of_next hx ?_
  refine hs.takeUp _ _ _ (fun _ _ h1 => ?_)
  dsimp only
  split
  · exact h1.failQueue _ _ _
  · split
    · exact h1.failQueue _ _ _
    · split
      · exact h1
      · split
        · exact ((h1.begin_ _ _ _).cpRead _ _ _).refuse _ _ _ _ _
        · split
          · exact ((h1.begin_ _ _ _).cpRead _ _ _).refuse _ _ _ _ _
          · split
            · exact (((h1.begin_ _ _ _).cpRead _ _ _).readTables _ _).refuse _ _ _ _ _
            · exact (((h1.begin_ _ _ _).cpRead _ _ _).readTables _ _).launchTake _ _ _

theorem Tidy.execQueueSemsig {s t : State} (hs : Tidy s) (n : Nat) (q : Nat) (hx : execQueueSemsig n q s = .next t) : Tidy t := by
  refine .of_next hx ?_
  refine hs.takeUp _ _ _ (fun _ _ h1 => ?_)
  dsimp only
  split
  · exact h1
  · split
    · exact h1.failEntry _ _ _
    · split
      · exact h1.failEntry _ _ _
      · split
        · exact ((h1.keepFresh _ _ _).cpAtomic _ _ _ _).failEntry _ _ _
        · exact ((h1.keepFresh _ _ _).cpAtomic _ _ _ _).advanceQueue _ _

theorem Tidy.execQueueCopyComplete {s t : State} (hs : Tidy s) (n : Nat) (q : Nat) (hx : execQueueCopyComplete n q s = .next t) : Tidy
    t := by
  refine .of_next hx ?_
  refine hs.takeUp _ _ _ (fun _ _ h1 => ?_)
  dsimp only
  split
  · exact h1
  · split
    · exact (h1.copyUnits8 _ _ _ _).failEntry _ _ _
    · exact ((h1.copyUnits8 _ _ _ _).cpCover _ _ _).advanceQueue _ _

theorem Tidy.execQueueTimestamp {s t : State} (hs : Tidy s) (n q : Nat) (hx : execQueueTimestamp n q s = .next t) : Tidy t := by
  refine .of_next hx (hs.takeUp _ _ _ fun s e hs => ?_)
  split
  · exact hs
  · split
    · exact hs.failEntry _ _ _
    · rename_i u hu
      exact (hs.cpWrite _ _ _ _ u hu).advanceQueue _ _

theorem Tidy.execTakeEnd {s t : State} (hs : Tidy s) (take : Nat) (hx : execTakeEnd take s = .next t) : Tidy t := by
  refine .of_next hx ?_
  split
  · exact hs
  · split
    · exact hs
    · exact hs.endTake _ _ _

theorem Tidy.execRetake {s t : State} (hs : Tidy s) (take : Nat) (hx : execRetake take s = .next t) : Tidy t := by
  refine .of_next hx ?_
  split
  · exact hs
  · split
    · exact hs
    · split
      · exact ((hs.logError _ _ _ _ _ _ _ _).logError _ _ _ _ _ _ _ _).endTake _ _ _
      · exact ((hs.logError _ _ _ _ _ _ _ _).addRecord _ _).retakeTake _

theorem Tidy.execBistDone {s t : State} (hs : Tidy s) (failing : List (BitVec 64)) (hx : execBistDone failing s = .next t) : Tidy t := by
  refine .of_next hx ?_
  split
  · exact hs
  · exact (hs.testMemory _ _).bistResults _ _

theorem Tidy.execPprDone {s t : State} (hs : Tidy s) (spare : Bool) (hx : execPprDone spare s = .next t) : Tidy t := by
  refine .of_next hx ?_
  split
  · split
    · exact (hs.setField _ _ _ _).spoilRow _ _ _ _
    · exact hs.setField _ _ _ _
  · exact hs

theorem Tidy.execClusterPowerOff {s t : State} (hs : Tidy s) (k : BitVec 4) (hx : execClusterPowerOff k s = .next t) : Tidy t := by
  refine .of_next hx ?_
  split
  · exact Tidy.foldl (fun _ _ h1 => h1.invalidateL1 _) _ (hs.setField _ _ _ _)
  · exact hs

theorem Tidy.execThermalTrip {s t : State} (hs : Tidy s) (hx : execThermalTrip s = .next t) : Tidy t := by
  refine .of_next hx ?_
  split <;> exact hs

theorem Tidy.execColdReset {s t : State} (hs : Tidy s) (hx : execColdReset s = .next t) : Tidy t := by
  refine .of_next hx ?_
  refine Tidy.bringUp ?_ _
  refine Tidy.foldl (fun _ _ h1 => h1.testStack _) _ ?_
  exact hs.lost _

theorem Tidy.execWarmReset {s t : State} (hs : Tidy s) (hx : execWarmReset s = .next t) : Tidy t := by
  refine .of_next hx ?_
  split
  · exact hs.warm
  · exact hs

theorem Tidy.execHostMemAccess {s t : State} (hs : Tidy s) (write : Bool) (addr : HostAddr) (data : List (BitVec 8)) (poison : Bool)
    (hx : execHostMemAccess write addr data poison s = .next t) : Tidy t := by
  refine .of_next hx ?_
  split
  · exact (hs.hostWrite _ _ _ _).ite (hs.hostRead _ _)
  · exact hs

theorem Tidy.execHostSnoop {s t : State} (hs : Tidy s) (line : Nat) (hx : execHostSnoop line s = .next t) : Tidy t := by
  refine .of_next hx ?_
  split
  · exact hs.evictLine _
  · exact hs

theorem Tidy.execUalinkReduceWrite {s t : State} (hs : Tidy s) (sender : BitVec 10) (ctx : BitVec 12) (va : BitVec 64) (bf16 : Bool)
    (data : List (BitVec 8)) (hx : execUalinkReduceWrite sender ctx va bf16 data s = .next t) : Tidy t := by
  refine .of_next hx ?_
  split
  · split
    · exact hs
    · exact hs.incoming _ _ _ _ _ _ (fun _ _ _ h1 => h1.writeWindow _ _ _ _ _)
  · split
    · exact hs
    · exact hs.incoming _ _ _ _ _ _ (fun _ _ _ h1 => h1.writeWindow _ _ _ _ _)

theorem Tidy.execUalinkAtomicAdd {s t : State} (hs : Tidy s) (sender : BitVec 10) (ctx : BitVec 12) (va : BitVec 64) (n : BitVec 32)
    (hx : execUalinkAtomicAdd sender ctx va n s = .next t) : Tidy t := by
  refine .of_next hx ?_
  split
  · exact hs
  · exact hs.incoming _ _ _ _ _ _ (fun _ _ _ h1 => h1.cpAtomic _ _ _ _)

theorem Tidy.execRegisterWrite {s t : State} (hs : Tidy s) (offset : HostReg) (v : BitVec 64) (hx : execRegisterWrite offset v s = .next t)
    : Tidy t := by
  refine .of_next hx ?_
  dsimp only
  split
  · exact hs
  · split
    · exact hs.writeDev _ _
    · split
      · exact hs
      · split
        · exact hs
        · split
          · exact hs
          · exact hs.modCtx _ _

/-- Every row of the dispatch keeps memory and the L2 canonical. -/
theorem Tidy.exec {s t : State} (hs : Tidy s) (i : Instr) (hx : exec i s = .next t) : Tidy t := by
  cases i
  case nop => exact .of_next hx hs
  case bra h o => exact hs.execBra h o hx
  case brx h o => exact hs.execBrx h o hx
  case call => exact .of_next hx (hs.withEnv _ (fun _ => hs.callLanes _ _ _ _) (fun _ => hs))
  case callx => exact .of_next hx (hs.pairTargets _ _ (fun _ _ _ _ h1 => h1.callLanes _ _ _ _))
  case ret => exact .of_next hx (hs.withEnv _ (fun _ => (hs.retLanes _ _ _).ite (hs.retLanes _ _ _)) (fun _ => hs))
  case exit => exact .of_next hx (hs.withEnv _ (fun _ => (hs.sendReplies _ _ _).retire _ _) (fun _ => hs))
  case loop h o => exact hs.execLoop h o hx
  case endl h o => exact hs.execEndl h o hx
  case endlBrk h => exact hs.execEndlBrk h hx
  case wsync => exact .of_next hx (hs.checked _ _ (fun _ => (hs.block _ _ _).ite (hs.fail _ _ _ _ _)) (fun _ => hs))
  case yield h => exact hs.execYield h hx
  case wait h o => exact hs.execWait h o hx
  case trigger | release | acquire | fence => exact .of_next hx (hs.issueFence _ _)
  case trap => exact .of_next hx (hs.withEnv _ (fun _ => hs.userTrap _ _) (fun _ => hs))
  case bkpt => exact .of_next hx (hs.withEnv _ (fun _ => (hs.userTrap _ _).ite hs) (fun _ => hs))
  case gset | gclr => exact .of_next hx (hs.withEnv _ (fun _ => hs.addOp _) (fun _ => hs))
  case grow => exact .of_next hx (hs.withEnv _ (fun _ => hs.ite ((hs.block _ _ _).checkGrow _)) (fun _ => hs))
  case wcut => exact .of_next hx (hs.withEnv _ (fun _ => (hs.fail _ _ _ _ _).ite (hs.block _ _ _)) (fun _ => hs))
  case wsplice => exact .of_next hx (hs.checked _ _ (fun _ => hs.block _ _ _) (fun _ => hs))
  case iadd | isub | imul | imulh | imin | imax => exact .of_next hx (hs.int2 _ _ _ _ _)
  case imad | imadw | idot4 | lop3 | shf | bfe | bfi | isel | lea | mov | movi | fclass | tagset | tagget =>
    exact .of_next hx (hs.alu _ _ _ _ _ _ _)
  case iabs | ineg => exact .of_next hx (hs.int1 _ _ _ _)
  case and | or | xor => exact .of_next hx (hs.logic2 _ _ _ _)
  case not | popc | clz | brev => exact .of_next hx (hs.logic1 _ _ _ _)
  case shl | shr | sha | rot => exact .of_next hx (hs.shift _ _ _ _)
  case isetp | psetp => exact .of_next hx (hs.aluP _ _ _ _ _ _)
  case psetpG | spr | push | vote | matchLanes | rng | fsetp | cvt | pack | unpack | qnt | dqnt | flags | kvmask =>
    exact .of_next hx (hs.fixed _ _ _ _ _ _)
  case smov h o => exact hs.execSmov h o hx
  case smovSt h o => exact hs.execSmovSt h o hx
  case ubcast | shfl | permb | vslide => exact .of_next hx (hs.fixedQ _ _ _ _ _ _)
  case redW | scanW => exact .of_next hx (hs.reduce _ _ _ _ _ _ _ _ _)
  case fadd | fsub | fmul | ffma | hadd2 | hfma2 => exact .of_next hx (hs.fpu _ _ _ _ _ _ _ _ _)
  case fmin | fmax => exact .of_next hx (hs.fminmax _ _ _ _)
  case frcp | frsq | fsqrt => exact .of_next hx (hs.special1 _ _ _ _ _)
  case fex2 | flg2 | fsin | fcos => exact .of_next hx (hs.coreFun _ _ _ _ _)
  case flagsSet | flagsClr => exact .of_next hx (hs.flagsOp _ _ _)
  case ld | lds => exact .of_next hx (hs.load _ _ _ _)
  case st | sts => exact .of_next hx (hs.store _ _ _ _)
  case ldu h o => exact hs.execLdu h o hx
  case ldt | stt => exact .of_next hx (hs.tensor _ _ _ _ _ _ _)
  case atom | atoms | red => exact .of_next hx (hs.access _ _ _ _ _ _ _ _ _ _)
  case cpa | cpout => exact .of_next hx (hs.copyBlock _ _ _)
  case cpaLn | cpoutLn => exact .of_next hx (hs.copyLanes _ _ _)
  case pref h o => exact hs.execPref h o hx
  case l2clean | l2inv | l2flush => exact .of_next hx (hs.issueMaint _ _ _)
  case bmode h o => exact hs.execBmode h o hx
  case pres h o => exact hs.execPres h o hx
  case bar | barArr | bart | bartArr => exact .of_next hx (hs.issueBar _ _ _ _ _)
  case bwinit | bwarr | bwwait | semsig | semwait | errack => exact .of_next hx (hs.issueWord _ _ _ _ _ _ _ _ _)
  case tflag h o => exact hs.execTflag h o hx
  case mdecl h o => exact hs.execMdecl h o hx
  case msign h o => exact hs.execMsign h o hx
  case mma h o => exact hs.execMma h o hx
  case mzero => exact .of_next hx (hs.checked _ _ (fun _ => hs.issueTile _ _ _ _ _) (fun _ => hs))
  case mload h o => exact hs.execMload h o hx
  case mout h o => exact hs.execMout h o hx
  case mfence h => exact hs.execMfence h hx
  case mwait h o => exact hs.execMwait h o hx
  case awalk h o => exact hs.execAwalk h o hx
  case astop h o => exact hs.execAstop h o hx
  case plalloc h o => exact hs.execPlalloc h o hx
  case plfree h => exact hs.execPlfree h hx
  case plfill | pldrain => exact .of_next hx (hs.issueMove _ _ _)
  case plop | plmul | plcmp | plsel => exact .of_next hx (hs.issueWordCmd _ _ _ _ _)
  case pldot h o => exact hs.execPldot h o hx
  case plred | plbmap => exact .of_next hx (hs.issueOut _ _ _ _ _ _ _)
  case ncallL h o => exact hs.execNcallL h o hx
  case ncallB h o => exact hs.execNcallB h o hx
  case njoin => exact .of_next hx (hs.checked _ _ (fun _ => ((hs.addOp _).block _ _ _).ite (hs.fail _ _ _ _ _)) (fun _ => hs))
  case nret h o => exact hs.execNret h o hx
  case xred | xpref => exact .of_next hx (hs.issueRows _ _ _ _)
  case bkopen | bkclose => exact .of_next hx (hs.bankCommand _ _ _ _ _ _ _ _ (fun _ _ _ _ _ _ h1 => h1.addBank _ _ _ _ _))
  case bkbcast => exact .of_next hx (hs.bankCommand _ _ _ _ _ _ _ _ (fun _ _ _ _ _ _ h1 => (h1.addBank _ _ _ _ _).renew))
  case bkmac h o => exact hs.execBkmac h o hx
  case bkread h o => exact hs.execBkread h o hx
  case kvxlate h o => exact hs.execKvxlate h o hx
  case fcopyPut | fcopyGet => exact .of_next hx (hs.coreOnly (hs.fabricCopy _ _ _ _ _) _)
  case freduce => exact .of_next hx (hs.fabricCopy _ _ _ _ _)
  case fsem h o => exact hs.execFsem h o hx
  case sysrd | syswr | tret | resume | tlbinvAll | tlbinvVa | snapmark | halt | haltKill => exact .of_next hx (hs.sysIssue _ _ _ _ _)
  case pair a b => exact hs.execPair a b hx
  case wsyncRelease g w => exact hs.execWsyncRelease g w hx
  case growGrant g => exact hs.execGrowGrant g hx
  case cut g w => exact hs.execCut g w hx
  case splice g w => exact hs.execSplice g w hx
  case cpaLineLand op line => exact hs.execCpaLineLand op line hx
  case scratchpadAccessResume op => exact hs.execScratchpadAccessResume op hx
  case teamMemberAccessResume op => exact hs.execTeamMemberAccessResume op hx
  case barrierComplete team g n => exact hs.execBarrierComplete team g n hx
  case bwwaitRetest op => exact hs.execBwwaitRetest op hx
  case semwaitRetry op => exact hs.execSemwaitRetry op hx
  case longLatencyComplete op => exact hs.execLongLatencyComplete op hx
  case fixedLatencyComplete op => exact hs.execFixedLatencyComplete op hx
  case mmaIssue g c => exact hs.execMmaIssue g c hx
  case mmaComplete op => exact hs.execMmaComplete op hx
  case mwaitRelease op => exact hs.execMwaitRelease op hx
  case walkPoint op => exact hs.execWalkPoint op hx
  case planeCommandStart op => exact hs.execPlaneCommandStart op hx
  case ncallLDeliver op stack => exact hs.execNcallLDeliver op stack hx
  case ncallReply op => exact hs.execNcallReply op hx
  case ncallBDeliver op => exact hs.execNcallBDeliver op hx
  case ncallBComplete g => exact hs.execNcallBComplete g hx
  case njoinRelease op => exact hs.execNjoinRelease op hx
  case returnTrap g w => exact hs.execReturnTrap g w hx
  case returnTrapPlace g => exact hs.execReturnTrapPlace g hx
  case bankCommandStart op => exact hs.execBankCommandStart op hx
  case bkmacWave op => exact hs.execBkmacWave op hx
  case fabricAck op status data => exact hs.execFabricAck op status data hx
  case fsemSignal op status => exact hs.execFsemSignal op status hx
  case engineArrival op => exact hs.execEngineArrival op hx
  case trapRecordWrite c => exact hs.execTrapRecordWrite c hx
  case trapptrTailWrite => exact .of_next hx (hs.modCtx _ _)
  case snapshotCopy take granule => exact hs.execSnapshotCopy take granule hx
  case warpRetire g w => exact hs.execWarpRetire g w hx
  case groupRetire g => exact hs.execGroupRetire g hx
  case gridEnd take => exact hs.execGridEnd take hx
  case triggerPoint take => exact hs.execTriggerPoint take hx
  case groupAdmission take => exact hs.execGroupAdmission take hx
  case eviction take => exact hs.execEviction take hx
  case growDeadlockEviction core => exact hs.execGrowDeadlockEviction core hx
  case evictionRecord g => exact hs.execEvictionRecord g hx
  case groupRestore g => exact hs.execGroupRestore g hx
  case qtailWrite => exact .of_next hx ((hs.ring _ _ _).ite hs)
  case errClear => exact .of_next hx ((hs.clearErr _ _).ite hs)
  case queueLaunch n q => exact hs.execQueueLaunch n q hx
  case queueSemwait => exact .of_next hx (hs.takeUp _ _ _ (fun _ _ h1 => h1.ite ((h1.begin_ _ _ _).trySem _ _ _)))
  case queueSemwaitRetry => exact .of_next hx (hs.takeUp _ _ _ (fun _ _ h1 => (h1.trySem _ _ _).ite h1))
  case queueSemsig n q => exact hs.execQueueSemsig n q hx
  case queueCopy => exact .of_next hx (hs.takeUp _ _ _ (fun _ _ h1 => (h1.begin_ _ _ _).ite h1))
  case queueCopyComplete n q => exact hs.execQueueCopyComplete n q hx
  case queueBarrier => exact .of_next hx (hs.takeUp _ _ _ (fun _ _ h1 => (h1.advanceQueue _ _).ite h1))
  case queueTimestamp n q => exact hs.execQueueTimestamp n q hx
  case timeSliceExpiry => exact .of_next hx ((hs.partitionReset _ _).ite hs)
  case takeEnd take => exact hs.execTakeEnd take hx
  case retake take => exact hs.execRetake take hx
  case contextCreate => exact .of_next hx (hs.contextCreate _ _ _ _)
  case contextEnd => exact .of_next hx (hs.contextEnd _)
  case bistGo => exact .of_next hx ((hs.bistGo _ _).ite hs)
  case bistDone failing => exact hs.execBistDone failing hx
  case pprDone spare => exact hs.execPprDone spare hx
  case dpcfgWrite => exact .of_next hx (hs.dpcfg _)
  case pstateWrite => exact .of_next hx ((hs.pstate _ _).ite hs)
  case pstateResume | strapChange => exact .of_next hx hs
  case clonWrite => exact .of_next hx ((hs.clon _).ite hs)
  case clusterPowerOff k => exact hs.execClusterPowerOff k hx
  case sconWrite => exact .of_next hx ((hs.scon _).ite hs)
  case stackCorePowerOff => exact .of_next hx ((hs.setField _ _ _ _).ite hs)
  case banklimWrite => exact .of_next hx ((hs.banklim _ _).ite hs)
  case thermalTrip => exact hs.execThermalTrip hx
  case tripClear => exact .of_next hx (hs.clearTrip.ite hs)
  case attest => exact .of_next hx (hs.attest.ite hs)
  case enroll => exact .of_next hx (hs.enroll.ite hs)
  case revoke => exact .of_next hx (hs.revoke.ite hs)
  case update => exact .of_next hx (hs.update.ite hs)
  case devkey => exact .of_next hx (hs.devkey.ite hs)
  case securityBadOp => exact .of_next hx ((hs.secStatus _).ite hs)
  case coldReset => exact hs.execColdReset hx
  case warmReset => exact hs.execWarmReset hx
  case functionReset => exact .of_next hx (hs.ite (hs.partitionReset _ _))
  case pprRepair => exact .of_next hx ((hs.pprWrite _).ite hs)
  case hostLinkRetrain => exact .of_next hx ((hs.setLink _ _ _).ite hs)
  case ualinkPortTrain => exact .of_next hx ((hs.trainPort _ _ _).ite hs)
  case hostMemAccess write addr data poison => exact hs.execHostMemAccess write addr data poison hx
  case hostSnoop line => exact hs.execHostSnoop line hx
  case ualinkRead => exact .of_next hx (hs.incoming _ _ _ _ _ _ (fun _ _ _ h1 => h1.readHome _ _))
  case ualinkWrite => exact .of_next hx (hs.incoming _ _ _ _ _ _ (fun _ _ _ h1 => h1.writeWindow _ _ _ _ _))
  case ualinkReduceWrite sender ctx va bf16 data => exact hs.execUalinkReduceWrite sender ctx va bf16 data hx
  case ualinkAtomicAdd sender ctx va n => exact hs.execUalinkAtomicAdd sender ctx va n hx
  case registerWrite offset v => exact hs.execRegisterWrite offset v hx
  case eccScrub => exact .of_next hx (hs.ite (hs.setPoisonBelow _ _))
  case packageSupplyLoss => exact .of_next hx (hs.lost _)

/-! ### The step -/

/-- The state of a move is canonical. -/
def TidyMove : Move → Prop
  | .run _ s => Tidy s
  | .settle s => Tidy s

theorem TidyMove.getD {o : Option Move} {m : Move} (ho : ∀ x, o = some x → TidyMove x) (hm : TidyMove m) : TidyMove (o.getD m) := by
  cases o with
  | none => exact hm
  | some x => exact ho x rfl

theorem Tidy.nextInput {s : State} (hs : Tidy s) : ∀ m, s.nextInput = some m → TidyMove m := by
  intro m hm
  unfold State.nextInput at hm
  split at hm
  · cases hm
  · split at hm
    · cases hm
    · exact Option.some.inj hm ▸ hs

theorem Tidy.issue {s : State} (hs : Tidy s) (r : Ready) : TidyMove (s.issue r) := by
  have hr := hs.reach r.g r.f.pc.toNat
  unfold State.issue
  dsimp only
  split
  · exact hr.fetchFails _ _ _
  · exact hr.modLanes _ _ _
  · exact (hr.takeSlot _ _ _ _ _).badWord _ _ _
  · exact hr.takeSlot _ _ _ _ _

theorem Tidy.takeTurn {s : State} (hs : Tidy s) (x : Nat × Nat) (rest : List (Nat × Nat)) : TidyMove (s.takeTurn x rest) := by
  have ht : Tidy { s with turn := some rest } := hs
  unfold State.takeTurn
  dsimp only
  split
  · exact ht.issue _
  · exact ht

theorem Tidy.of_mem_ite {c : Prop} {_ : Decidable c} {s t : State} (hs : Tidy s) (ht : t ∈ if c then [s] else []) : Tidy t := by
  split at ht
  · exact List.mem_singleton.1 ht ▸ hs
  · cases ht

theorem tidy_of_mem_toList {o : Option State} {t : State} (ho : ∀ u, o = some u → Tidy u) (ht : t ∈ o.toList) : Tidy t :=
  ho t (Option.mem_toList.1 ht)

/-- A part of an operation acts (R137). -/
theorem Tidy.openParts {s t : State} (hs : Tidy s) (o : Op) (ht : t ∈ s.openParts o) : Tidy t := by
  unfold State.openParts at ht
  split at ht
  · cases ht
  · rename_i g _
    dsimp only at ht
    split at ht
    · exact (hs.storePart _ _ _).of_mem_ite ht
    · exact ((hs.noteOperands _ _ _).storePart _ _ _).of_mem_ite ht
    · exact (hs.storePart _ _ _).of_mem_ite ht
    · exact (hs.readPart _ _ _).of_mem_ite ht
    · exact (hs.readPart _ _ _).of_mem_ite ht
    · exact (hs.readPart _ _ _).of_mem_ite ht
    · exact (hs.landPart _ _).of_mem_ite ht
    · exact (hs.landPart _ _).of_mem_ite ht
    · exact (hs.outPart _ _).of_mem_ite ht
    · exact (hs.outPart _ _).of_mem_ite ht
    · exact (hs.startFabric _ _).of_mem_ite ht
    · exact (hs.startFabric _ _).of_mem_ite ht
    · exact (hs.startFabric _ _).of_mem_ite ht
    · exact (hs.startFabric _ _).of_mem_ite ht
    · exact tidy_of_mem_toList (hs.planePart o g) ht
    · exact tidy_of_mem_toList (hs.planePart o g) ht
    · exact tidy_of_mem_toList (hs.planePart o g) ht
    · exact tidy_of_mem_toList (hs.planePart o g) ht
    · split at ht
      · exact tidy_of_mem_toList (hs.xredPart o g) ht
      · cases ht
    · split at ht
      · exact tidy_of_mem_toList (hs.xprefPart o g) ht
      · cases ht
    · cases ht

/-- An open event runs, a part of an operation or of a COPY acts, the outside acts, or the issues of the clock begin. -/
theorem Tidy.openMove {s : State} (hs : Tidy s) : TidyMove s.openMove := by
  have hp : Tidy { s with picks := s.picks + 1, cur := none } := hs
  unfold State.openMove
  extract_lets u go parts ms
  have hu : Tidy u := hp
  have hgo : TidyMove go := hu.openTurn
  have hparts : ∀ t ∈ parts, Tidy t := fun t ht => by
    rcases List.mem_append.1 ht with h | h
    · obtain ⟨o, _, ho⟩ := List.mem_flatMap.1 h
      split at ho
      · exact hu.openParts o ho
      · cases ho
    · obtain ⟨n, _, hn⟩ := List.mem_flatMap.1 h
      obtain ⟨q, _, hq⟩ := List.mem_filterMap.1 hn
      exact hu.copyPart n q t hq
  have hms : ∀ m ∈ ms, TidyMove m := fun m hm => by
    rcases List.mem_append.1 hm with h | h
    · rcases List.mem_append.1 h with h | h
      · obtain ⟨i, _, rfl⟩ := List.mem_map.1 h
        exact hu
      · obtain ⟨t, ht, rfl⟩ := List.mem_map.1 h
        exact hparts t ht
    · exact hu.nextInput m (Option.mem_toList.1 h)
  split
  · exact hgo
  · exact .getD (fun x hx => hms x (List.mem_of_getElem? hx)) hgo

/-- Whatever happens next begins in a canonical state. -/
theorem Tidy.nextMove {s : State} (hs : Tidy s) : TidyMove s.nextMove := by
  unfold State.nextMove
  split
  · exact .getD hs.nextInput hs
  · split
    · exact hs
    · split
      · exact .getD hs.nextInput hs
      · split
        · exact hs.renew
        · split
          · exact hs.takeTurn _ _
          · split
            · exact hs
            · split
              · exact hs.tick
              · exact hs.openMove

end Sys2Proof.Claims

namespace Sys2Proof

open Sys2Proof.Machine Sys2Proof.Claims

/-- Settles O16: what happens next begins in a canonical state, and every row of the dispatch keeps it canonical. -/
theorem memoryStaysCanonical : Obligations.MemoryStaysCanonical := by
  intro s t hs hx
  have hm := hs.nextMove
  unfold step at hx
  generalize s.nextMove = m at hm hx
  cases m with
  | run i u => exact hm.exec i hx
  | settle u => exact .of_next hx hm

end Sys2Proof
end

section
/-!
SUPPORT. Bytes as the home slice has them: the byte of HBM4E beneath a place, the byte of a line, and what the operations of the L2 leave of
the coherent view (R124, R139).
-/

namespace Sys2Proof.Claims

open Sys2Proof.Machine

/-! ### Bytes of numbers and lines -/

/-- A byte is its bits. -/
theorem byte_ext {x y : Byte} (h : ∀ i, i < 8 → x.getLsbD i = y.getLsbD i) : x = y := BitVec.eq_of_getLsbD_eq h

theorem getLsbD_byte (x p i : Nat) : (BitVec.ofNat 8 (x / 2 ^ p)).getLsbD i = (decide (i < 8) && x.testBit (p + i)) := by
  rw [BitVec.getLsbD_ofNat, Nat.testBit_div_two_pow, Nat.add_comm]

theorem pow_byte (k : Nat) : 256 ^ k = 2 ^ (8 * k) := by
  rw [show (256 : Nat) = 2 ^ 8 from rfl, ← pow_mul]

/-- A byte within the width of a word is a byte of the number it was made of. -/
theorem byte_ofNat_word {w k : Nat} (x : Nat) (hk : 8 * k + 8 ≤ w) :
    BitVec.ofNat 8 ((BitVec.ofNat w x).toNat / 2 ^ (8 * k)) = BitVec.ofNat 8 (x / 2 ^ (8 * k)) := by
  refine byte_ext fun i hi => ?_
  rw [getLsbD_byte, getLsbD_byte, BitVec.toNat_ofNat, Nat.testBit_mod_two_pow, decide_eq_true (show 8 * k + i < w by omega), Bool.true_and]

/-- A byte within a field replaced is a byte of what is put there. -/
theorem byte_setBits_inside (x v : Nat) {a n k : Nat} (hk : k < n) :
    BitVec.ofNat 8 (setBits x (8 * a) (8 * n) v / 2 ^ (8 * (a + k))) = BitVec.ofNat 8 (v / 2 ^ (8 * k)) := by
  refine byte_ext fun i hi => ?_
  have hfield := congrArg (Nat.testBit · (8 * k + i)) (slice_setBits x (8 * a) (8 * n) v)
  simp only [slice, Nat.testBit_mod_two_pow, Nat.testBit_div_two_pow, decide_eq_true (show 8 * k + i < 8 * n by omega),
    Bool.true_and] at hfield
  rw [getLsbD_byte, getLsbD_byte, ← hfield]
  congr 2
  omega

/-- A byte outside a field replaced stays. -/
theorem byte_setBits_outside (x v : Nat) {a n k : Nat} (hk : k < a ∨ a + n ≤ k) :
    BitVec.ofNat 8 (setBits x (8 * a) (8 * n) v / 2 ^ (8 * k)) = BitVec.ofNat 8 (x / 2 ^ (8 * k)) := by
  refine byte_ext fun i hi => ?_
  rw [getLsbD_byte, getLsbD_byte, ← bitAt_eq_testBit, ← bitAt_eq_testBit, bitAt_setBits_of_outside (by omega)]

/-- The bytes of a number that bytes make are those bytes. -/
theorem byte_numberAt (f : Nat → Byte) (a : Nat) {n k : Nat} (hk : k < n) : BitVec.ofNat 8 (numberAt f a n / 256 ^ k) = f (a + k) := by
  induction n generalizing a k with
  | zero => exact absurd hk (Nat.not_lt_zero k)
  | succ n ih =>
    cases k with
    | zero =>
      refine BitVec.eq_of_toNat_eq ?_
      rw [numberAt, BitVec.toNat_ofNat, pow_zero, Nat.div_one, Nat.add_mul_mod_self_left, Nat.add_zero, Nat.mod_eq_of_lt (f a).isLt]
    | succ k =>
      have hlow : (f a).toNat < 256 := (f a).isLt
      rw [numberAt, nextByte, Nat.add_mul_div_left _ _ (by decide), Nat.div_eq_of_lt hlow, Nat.zero_add, ih _ (Nat.lt_of_succ_lt_succ hk),
        Nat.add_assoc, Nat.add_comm 1 k]

theorem byte_xor (x y p : Nat) : BitVec.ofNat 8 ((x ^^^ y) / 2 ^ p) = BitVec.ofNat 8 (x / 2 ^ p) ^^^ BitVec.ofNat 8 (y / 2 ^ p) := by
  refine byte_ext fun i hi => ?_
  rw [BitVec.getLsbD_xor, getLsbD_byte, getLsbD_byte, getLsbD_byte, Nat.testBit_xor, decide_eq_true hi]
  simp only [Bool.true_and]

/-! ### Bytes of cells -/

/-- The byte of HBM4E or host memory at a place. -/
def byteBelow (s : State) (b : Nat) : Byte := BitVec.ofNat 8 (s.cells b 1)

/-- Without undefined contents nothing lies over the stored bytes. -/
theorem veilOf_nil {s : State} (h : s.veil = []) (a n : Nat) : s.veilOf a n = 0 := by
  unfold State.veilOf
  rw [h]
  split <;> rfl

theorem cells_eq (s : State) (a n : Nat) : s.cells a n = s.mem.readNat a n ^^^ s.veilOf a n := by
  unfold State.cells
  split
  · rename_i h
    rw [veilOf_nil h, Nat.xor_zero]
  · rfl

theorem setCells_mem (s : State) (a n x : Nat) : (s.setCells a n x).mem = s.mem.writeNat a n (x ^^^ s.veilOf a n) := by
  show s.mem.writeNat a n _ = _
  split
  · rename_i h
    rw [veilOf_nil h, Nat.xor_zero]
  · rfl

theorem veilBytes_eq_numberAt (k a n : Nat) : veilBytes k a n = numberAt (fun b => BitVec.ofNat 8 (Config.freeWord k b).toNat) a n := by
  induction n generalizing a with
  | zero => rfl
  | succ n ih => rw [veilBytes, numberAt, ih, BitVec.toNat_ofNat]

/-- Places of one line lie in one stack, or in host memory. -/
theorem veilOf_within (s : State) {a n k : Nat} (hline : a % 128 + n ≤ 128) (hk : k < n) :
    BitVec.ofNat 8 (s.veilOf a n / 2 ^ (8 * k)) = BitVec.ofNat 8 (s.veilOf (a + k) 1) := by
  have hhost : isHost (a + k) = isHost a := by
    unfold isHost
    exact decide_eq_decide.2 (by omega)
  have hstack : cellStack (a + k) = cellStack a := by
    unfold cellStack slice
    omega
  unfold State.veilOf
  rw [hhost, hstack]
  split
  · simp
  · split
    · simp
    · rename_i m _
      have h := byte_numberAt (fun b => BitVec.ofNat 8 (Config.freeWord m b).toNat) (a + k) Nat.one_pos
      rw [veilBytes_eq_numberAt, veilBytes_eq_numberAt, ← pow_byte, byte_numberAt _ _ hk]
      simpa using h.symm

/-- Each byte of cells within one line. -/
theorem byte_cells (s : State) {a n k : Nat} (hline : a % 128 + n ≤ 128) (hk : k < n) :
    BitVec.ofNat 8 (s.cells a n / 2 ^ (8 * k)) = byteBelow s (a + k) := by
  have h0 : ∀ x, BitVec.ofNat 8 x = BitVec.ofNat 8 (x / 2 ^ 0) := fun x => by simp
  have hread : BitVec.ofNat 8 (s.mem.readNat a n / 2 ^ (8 * k)) = BitVec.ofNat 8 (s.mem.readNat (a + k) 1) := by
    have h1 := byte_numberAt s.mem.read (a + k) Nat.one_pos
    rw [Memory.readNat_eq_numberAt, Memory.readNat_eq_numberAt, ← pow_byte, byte_numberAt _ _ hk]
    simpa using h1.symm
  rw [byteBelow, cells_eq, cells_eq, byte_xor, hread, veilOf_within s hline hk, h0 (_ ^^^ _), byte_xor, ← h0, ← h0]

/-- A byte beneath is the stored byte under what the undefined contents lay over it. -/
theorem byteBelow_eq (s : State) (b : Nat) : byteBelow s b = s.mem.read b ^^^ BitVec.ofNat 8 (s.veilOf b 1) := by
  have h := byte_xor (s.mem.readNat b 1) (s.veilOf b 1) 0
  rw [pow_zero, Nat.div_one, Nat.div_one, Nat.div_one] at h
  rw [byteBelow, cells_eq, h, Memory.readNat, Memory.readNat]
  simp

/-- A byte beneath that a write within one line puts there. -/
theorem byteBelow_setCells {s : State} (hs : Tidy s) {a n k : Nat} (x : Nat) (hline : a % 128 + n ≤ 128) (hk : k < n) :
    byteBelow (s.setCells a n x) (a + k) = BitVec.ofNat 8 (x / 2 ^ (8 * k)) := by
  have hveil : (s.setCells a n x).veilOf (a + k) 1 = s.veilOf (a + k) 1 := rfl
  rw [byteBelow_eq, setCells_mem, Memory.read_writeNat hs.1 _ hk, hveil, pow_byte, byte_xor, veilOf_within s hline hk, BitVec.xor_assoc,
    BitVec.xor_self, BitVec.xor_zero]

/-- A write of cells leaves the bytes beneath before and after it. -/
theorem byteBelow_setCells_of_outside {s : State} (hs : Tidy s) {a n b : Nat} (x : Nat) (hb : b < a ∨ a + n ≤ b) :
    byteBelow (s.setCells a n x) b = byteBelow s b := by
  have hveil : (s.setCells a n x).veilOf b 1 = s.veilOf b 1 := rfl
  rw [byteBelow_eq, setCells_mem, Memory.read_writeNat_of_disjoint hs.1 _ hb, hveil, ← byteBelow_eq]

end Sys2Proof.Claims
end

section
/-!
SUPPORT. The coherent view of memory, but for the bytes that are being written: what the operations of the L2, of the L1 and of units keep.
-/

namespace Sys2Proof.Claims

open Sys2Proof.Machine

/-! ### The notion -/

/-- The byte of a line at a place. -/
def lineByte (l : L2Line) (b : Nat) : Byte := BitVec.ofNat 8 (l.data.toNat / 2 ^ (8 * (b % 128)))

/-- As `Coherent`, but for the bytes of `W`: the clean lines of the L2 hold what HBM4E holds (R124, R125). -/
def CoherentBut (W : Nat → Prop) (s : State) : Prop :=
  Tidy s ∧ ∀ b l, NMap.get none s.l2 (lineOf b) = some l → l.dirty = false → ¬ W b → lineByte l b = byteBelow s b

/-- From `s` to `t` memory operations have run that write no byte outside `W`, as the home slices have them (R124): nothing else has changed
that a completion asks about. -/
structure HomeKept (W : Nat → Prop) (s t : State) : Prop where
  coherent : CoherentBut W t
  view : ∀ b, ¬ W b → t.peekByte b = s.peekByte b
  regs : t.regs = s.regs
  groups : t.groups = s.groups
  takes : t.takes = s.takes
  ctxs : t.ctxs = s.ctxs

theorem coherent_iff {s : State} : Coherent s ↔ CoherentBut (fun _ => False) s := by
  refine and_congr_right fun _ => ⟨fun h b l hl hd _ => ?_, fun h line l hl hd k hk => ?_⟩
  · have hb : 128 * lineOf b + b % 128 = b := Nat.div_add_mod b 128
    have := h (lineOf b) l hl hd (b % 128) (Nat.mod_lt b (by decide))
    rwa [hb] at this
  · have hline : lineOf (128 * line + k) = line := by unfold lineOf; omega
    have hmod : (128 * line + k) % 128 = k := by omega
    have := h (128 * line + k) l (hline.symm ▸ hl) hd not_false
    rwa [lineByte, hmod] at this

/-- Coherent memory is coherent but for any bytes. -/
theorem CoherentBut.of_coherent {s : State} (h : Coherent s) (W : Nat → Prop) : CoherentBut W s :=
  ⟨h.1, fun b l hl hd _ => (coherent_iff.1 h).2 b l hl hd not_false⟩

theorem peekByte_eq (s : State) (b : Nat) :
    s.peekByte b = (NMap.get none s.l2 (lineOf b)).elim (byteBelow s b) fun l => lineByte l b := by
  unfold State.peekByte
  cases NMap.get none s.l2 (lineOf b) with
  | none => rfl
  | some l => rfl

theorem byteBelow_of_eq {s t : State} (hm : t.mem = s.mem) (hv : t.veil = s.veil) (b : Nat) : byteBelow t b = byteBelow s b := by
  unfold byteBelow State.cells State.veilOf
  rw [hm, hv]

theorem peekByte_of_eq {s t : State} (hm : t.mem = s.mem) (hl : t.l2 = s.l2) (hv : t.veil = s.veil) (b : Nat) :
    t.peekByte b = s.peekByte b := by
  rw [peekByte_eq, peekByte_eq, hl, byteBelow_of_eq hm hv]

theorem CoherentBut.of_eq {W : Nat → Prop} {s t : State} (h : CoherentBut W s) (hm : t.mem = s.mem) (hl : t.l2 = s.l2)
    (hv : t.veil = s.veil) : CoherentBut W t := by
  refine ⟨h.1.of_eq hm hl, fun b l hb hd hW => ?_⟩
  rw [byteBelow_of_eq hm hv]
  exact h.2 b l (hl ▸ hb) hd hW

theorem HomeKept.refl {W : Nat → Prop} {s : State} (h : CoherentBut W s) : HomeKept W s s := ⟨h, fun _ _ => rfl, rfl, rfl, rfl, rfl⟩

theorem HomeKept.trans {W : Nat → Prop} {s t u : State} (h : HomeKept W s t) (k : HomeKept W t u) : HomeKept W s u :=
  ⟨k.coherent, fun b hW => (k.view b hW).trans (h.view b hW), k.regs.trans h.regs, k.groups.trans h.groups, k.takes.trans h.takes,
    k.ctxs.trans h.ctxs⟩

/-- What is not memory, nor the L2, may change at will, but for what a completion asks about. -/
theorem HomeKept.of_eq {W : Nat → Prop} {s t u : State} (h : HomeKept W s t) (hm : u.mem = t.mem) (hl : u.l2 = t.l2) (hv : u.veil = t.veil)
    (hr : u.regs = t.regs) (hg : u.groups = t.groups) (ht : u.takes = t.takes) (hc : u.ctxs = t.ctxs) : HomeKept W s u :=
  h.trans ⟨h.coherent.of_eq hm hl hv, fun b _ => peekByte_of_eq hm hl hv b, hr, hg, ht, hc⟩

theorem HomeKept.ite {W : Nat → Prop} {s t u : State} {c : Prop} {_ : Decidable c} (h : HomeKept W s t) (k : HomeKept W s u) :
    HomeKept W s (if c then t else u) := by
  split
  · exact h
  · exact k

theorem HomeKept.foldl {β : Type} {W : Nat → Prop} {s t : State} {f : State → β → State} (xs : List β)
    (hf : ∀ u, ∀ x ∈ xs, HomeKept W s u → HomeKept W s (f u x)) (h : HomeKept W s t) : HomeKept W s (xs.foldl f t) := by
  induction xs generalizing t with
  | nil => exact h
  | cons x xs ih => exact ih (fun u y hy => hf u y (List.mem_cons_of_mem _ hy)) (hf t x List.mem_cons_self h)

/-! ### The L2 -/

section L2

variable {W : Nat → Prop} {s t : State}

theorem get_put_l2 (h : Tidy t) (line line' : Nat) (x : Option L2Line) :
    NMap.get none (NMap.put none t.l2 line x) line' = if line' = line then x else NMap.get none t.l2 line' := by
  split
  · rename_i heq
    rw [heq]
    exact NMap.get_put_self h.2 line x
  · rename_i hne
    exact NMap.get_put_of_ne h.2 hne

/-- A line that holds, outside `W`, what HBM4E holds where it is clean, may enter the L2. -/
theorem CoherentBut.put_l2 (h : CoherentBut W t) {line : Nat} {x : Option L2Line}
    (hclean : ∀ b l, lineOf b = line → x = some l → l.dirty = false → ¬ W b → lineByte l b = byteBelow t b) :
    CoherentBut W { t with l2 := NMap.put none t.l2 line x } := by
  refine ⟨h.1.put_l2 line x, fun b l hl hd hW => ?_⟩
  rw [get_put_l2 h.1] at hl
  refine Eq.trans ?_ (byteBelow_of_eq (s := t) rfl rfl b).symm
  split at hl
  · rename_i hb
    exact hclean b l hb hl hd hW
  · exact h.2 b l hl hd hW

theorem peekByte_put_l2 (h : Tidy t) (line : Nat) (x : Option L2Line) (b : Nat) :
    ({ t with l2 := NMap.put none t.l2 line x } : State).peekByte b =
      if lineOf b = line then x.elim (byteBelow t b) fun l => lineByte l b else t.peekByte b := by
  rw [peekByte_eq, get_put_l2 h, peekByte_eq t]
  split <;> rfl

/-- So may one that also shows what the home slice had. -/
theorem HomeKept.put_l2 (h : HomeKept W s t) {line : Nat} {x : Option L2Line}
    (hx : ∀ b, lineOf b = line → ¬ W b → t.peekByte b = x.elim (byteBelow t b) fun l => lineByte l b)
    (hclean : ∀ b l, lineOf b = line → x = some l → l.dirty = false → ¬ W b → lineByte l b = byteBelow t b) :
    HomeKept W s { t with l2 := NMap.put none t.l2 line x } := by
  refine h.trans ⟨h.coherent.put_l2 hclean, fun b hW => ?_, rfl, rfl, rfl, rfl⟩
  rw [peekByte_put_l2 h.coherent.1]
  split
  · rename_i hb
    exact (hx b hb hW).symm
  · rfl

/-- A write of cells changes no byte outside `W` where the cells lie in `W`. -/
theorem HomeKept.setCells (h : HomeKept W s t) {a n : Nat} (x : Nat) (hW : ∀ b, a ≤ b → b < a + n → W b) :
    HomeKept W s (t.setCells a n x) := by
  have hbelow : ∀ b, ¬ W b → byteBelow (t.setCells a n x) b = byteBelow t b := fun b hb =>
    byteBelow_setCells_of_outside h.coherent.1 x (by by_contra hin; exact hb (hW b (by omega) (by omega)))
  refine h.trans ⟨⟨h.coherent.1.setCells a n x, fun b l hl hd hb => ?_⟩, fun b hb => ?_, rfl, rfl, rfl, rfl⟩
  · rw [hbelow b hb]
    exact h.coherent.2 b l hl hd hb
  · rw [peekByte_eq, peekByte_eq, hbelow b hb]
    rfl

/-- A line written back is clean and shows what it showed (R130). -/
theorem HomeKept.writeBack (h : HomeKept W s t) {line a n : Nat} {l : L2Line} (hl : NMap.get none t.l2 line = some l) (ha : a = 128 * line)
    (hn : n = 128) (p : NMap Bool) :
    HomeKept W s { t.setCells a n l.data.toNat with poison := p, l2 := NMap.put none t.l2 line (some { l with dirty := false }) } := by
  have htidy := h.coherent.1
  have hline : ∀ b, lineOf b = line → byteBelow (t.setCells a n l.data.toNat) b = lineByte l b := fun b hb => by
    have hplace : a + b % 128 = b := by rw [ha, ← hb]; exact Nat.div_add_mod b 128
    have hw := byteBelow_setCells htidy (a := a) (n := n) (k := b % 128) l.data.toNat (by omega) (by omega)
    rwa [hplace] at hw
  have hother : ∀ b, lineOf b ≠ line → byteBelow (t.setCells a n l.data.toNat) b = byteBelow t b := fun b hb =>
    byteBelow_setCells_of_outside htidy l.data.toNat (by unfold lineOf at hb; omega)
  have hclean : lineByte { l with dirty := false } = lineByte l := rfl
  have hu : ∀ b, byteBelow { t.setCells a n l.data.toNat with
      poison := p, l2 := NMap.put none t.l2 line (some { l with dirty := false }) } b =
      byteBelow (t.setCells a n l.data.toNat) b := fun _ => rfl
  refine h.trans ⟨⟨htidy.writeBack _ _ _ _ _ _, fun b k hk hd hW => ?_⟩, fun b hW => ?_, rfl, rfl, rfl, rfl⟩
  · rw [hu]
    dsimp only at hk
    rw [get_put_l2 htidy] at hk
    split at hk
    · rename_i hb
      rw [hline b hb, ← Option.some.inj hk, hclean]
    · rename_i hb
      rw [hother b hb]
      exact h.coherent.2 b k hk hd hW
  · rw [peekByte_eq, peekByte_eq t, hu]
    dsimp only
    rw [get_put_l2 htidy]
    split
    · rename_i hb
      rw [hb, hl, Option.elim_some, Option.elim_some, hclean]
    · rename_i hb
      rw [hother b hb]

theorem HomeKept.cleanLine (h : HomeKept W s t) (line : Nat) : HomeKept W s (t.cleanLine line) := by
  unfold State.cleanLine
  split
  · rename_i l hl
    exact .ite (h.writeBack hl rfl rfl _) h
  · exact h

/-- A clean line may leave the L2. -/
theorem HomeKept.dropLine (h : HomeKept W s t) {line : Nat} (hclean : ∀ l, NMap.get none t.l2 line = some l → l.dirty = false) :
    HomeKept W s (t.dropLine line) := by
  refine h.put_l2 (fun b hb hW => ?_) fun b l _ hl => nomatch hl
  rw [peekByte_eq, hb]
  cases hl : NMap.get none t.l2 line with
  | none => rfl
  | some l => exact h.coherent.2 b l (hb.symm ▸ hl) (hclean l hl) hW

theorem dirty_cleanLine (h : Tidy t) {line : Nat} {l : L2Line} (hl : NMap.get none (t.cleanLine line).l2 line = some l) :
    l.dirty = false := by
  unfold State.cleanLine at hl
  split at hl
  · split at hl
    · dsimp only at hl
      rw [get_put_l2 h, if_pos rfl] at hl
      rw [← Option.some.inj hl]
    · rename_i k hk hd
      rw [hk] at hl
      rw [← Option.some.inj hl]
      simpa using hd
  · rename_i hk
    rw [hk] at hl
    cases hl

theorem HomeKept.evictLine (h : HomeKept W s t) (line : Nat) : HomeKept W s (t.evictLine line) :=
  (h.cleanLine line).dropLine fun _ hl => dirty_cleanLine h.coherent.1 hl

theorem HomeKept.touchLine (h : HomeKept W s t) (line : Nat) : HomeKept W s (t.touchLine line) := by
  unfold State.touchLine
  split
  · exact h
  · split
    · exact h
    · dsimp only [State.coin]
      have hcoin : HomeKept W s { t with fresh := t.fresh + 1 } := h.of_eq rfl rfl rfl rfl rfl rfl rfl
      split
      · exact hcoin.evictLine line
      · exact hcoin

theorem HomeKept.fillLine (h : HomeKept W s t) (line : Nat) : HomeKept W s (t.fillLine line) := by
  unfold State.fillLine
  split
  · exact h
  · rename_i hnone
    have hbyte : ∀ b p, lineOf b = line → lineByte ⟨BitVec.ofNat 1024 (t.lineBelow line), false, p⟩ b = byteBelow t b := fun b p hb => by
      subst hb
      have hmod : b % 128 < 128 := Nat.mod_lt b (by decide)
      have hb : 128 * lineOf b + b % 128 = b := Nat.div_add_mod b 128
      rw [lineByte, byte_ofNat_word _ (by omega), State.lineBelow, byte_cells t (by omega) hmod, hb]
    refine h.put_l2 (fun b hb _ => ?_) fun b l hb hl _ _ => ?_
    · rw [peekByte_eq, hb, hnone]
      exact (hbyte b _ hb).symm
    · rw [← Option.some.inj hl]
      exact hbyte b _ hb

theorem HomeKept.readHome (h : HomeKept W s t) (a n : Nat) : HomeKept W s (t.readHome a n).1 := (h.touchLine _).fillLine _

theorem HomeKept.noteWrite (h : HomeKept W s t) (a n : Nat) : HomeKept W s (t.noteWrite a n) := h.of_eq rfl rfl rfl rfl rfl rfl rfl

theorem HomeKept.backInvalidate (h : HomeKept W s t) (line : Nat) : HomeKept W s (t.backInvalidate line) :=
  .ite (h.of_eq rfl rfl rfl rfl rfl rfl rfl) h

/-- The L2 as a write at the home slice finds it, the line to be written in it (R139). -/
def reached (t : State) (a n : Nat) : State := (((t.noteWrite a n).backInvalidate (lineOf a)).touchLine (lineOf a)).fillLine (lineOf a)

theorem HomeKept.reached (h : HomeKept W s t) (a n : Nat) : HomeKept W s (reached t a n) :=
  (((h.noteWrite a n).backInvalidate (lineOf a)).touchLine (lineOf a)).fillLine (lineOf a)

/-- A line with a field replaced. -/
def L2Line.written (l : L2Line) (a n v : Nat) : L2Line :=
  { l with data := BitVec.ofNat 1024 (setBits l.data.toNat (8 * (a % 128)) (8 * n) v), dirty := true }

/-- The line is there, and the write goes into it. -/
theorem writeHome_eq (h : Tidy t) (a n v : Nat) : ∃ l, NMap.get none (reached t a n).l2 (lineOf a) = some l ∧
    t.writeHome a n v = { reached t a n with l2 := NMap.put none (reached t a n).l2 (lineOf a) (some (L2Line.written l a n v)) } := by
  have hu := ((h.noteWrite a n).backInvalidate (lineOf a)).touchLine (lineOf a)
  have hsome : ∃ l, NMap.get none (reached t a n).l2 (lineOf a) = some l := by
    unfold reached State.fillLine
    split
    · exact ⟨_, ‹_›⟩
    · exact ⟨_, NMap.get_put_self hu.2 _ _⟩
  obtain ⟨l, hl⟩ := hsome
  refine ⟨l, hl, ?_⟩
  unfold State.writeHome
  dsimp only
  rw [show (((t.noteWrite a n).backInvalidate (lineOf a)).touchLine (lineOf a)).fillLine (lineOf a) = reached t a n from rfl, hl]
  rfl

theorem lineByte_written_inside (l : L2Line) {a n k : Nat} (v : Nat) (hline : a % 128 + n ≤ 128) (hk : k < n) :
    lineByte (L2Line.written l a n v) (a + k) = BitVec.ofNat 8 (v / 256 ^ k) := by
  have hmod : (a + k) % 128 = a % 128 + k := by omega
  rw [lineByte, L2Line.written, hmod, byte_ofNat_word _ (by omega), byte_setBits_inside _ _ hk, pow_byte]

theorem lineByte_written_outside (l : L2Line) {a n b : Nat} (v : Nat) (hb : b % 128 < a % 128 ∨ a % 128 + n ≤ b % 128) :
    lineByte (L2Line.written l a n v) b = lineByte l b := by
  have hmod : b % 128 < 128 := Nat.mod_lt b (by decide)
  rw [lineByte, L2Line.written, byte_ofNat_word _ (by omega), byte_setBits_outside _ _ hb, lineByte]

/-- A write at the home slice leaves a dirty line, so that memory is as coherent as before. -/
theorem CoherentBut.writeHome (h : CoherentBut W t) (a n v : Nat) : CoherentBut W (t.writeHome a n v) := by
  obtain ⟨l, _, hwrite⟩ := writeHome_eq h.1 a n v
  rw [hwrite]
  refine ((HomeKept.refl h).reached a n).coherent.put_l2 fun b k _ hk hd => ?_
  rw [← Option.some.inj hk] at hd
  cases hd

/-- A write at the home slice shows outside `W` what was there, where what it writes lies in `W` (R139). -/
theorem HomeKept.writeHome (h : HomeKept W s t) {a n : Nat} (v : Nat) (hW : ∀ b, a ≤ b → b < a + n → W b) :
    HomeKept W s (t.writeHome a n v) := by
  have hu := h.reached a n
  have hc := h.coherent.writeHome a n v
  obtain ⟨l, hl, hwrite⟩ := writeHome_eq h.coherent.1 a n v
  rw [hwrite] at hc ⊢
  refine hu.trans ⟨hc, fun b hb => ?_, rfl, rfl, rfl, rfl⟩
  rw [peekByte_put_l2 hu.coherent.1, peekByte_eq (Claims.reached t a n)]
  split
  · rename_i hsame
    have hout : b % 128 < a % 128 ∨ a % 128 + n ≤ b % 128 := by
      by_contra hin
      unfold lineOf at hsame
      exact hb (hW b (by omega) (by omega))
    rw [hsame, hl]
    exact lineByte_written_outside l v hout
  · rfl

theorem HomeKept.readBelow (h : HomeKept W s t) (a n : Nat) : HomeKept W s (t.readBelow a n).1 := h.touchLine _

theorem HomeKept.writeBelow (h : HomeKept W s t) {a n : Nat} (v : Nat) (hW : ∀ b, a ≤ b → b < a + n → W b) :
    HomeKept W s (t.writeBelow a n v) := ((h.noteWrite a n).touchLine _).setCells v hW

theorem HomeKept.setPoison (h : HomeKept W s t) (a : Nat) (b : Bool) : HomeKept W s (t.setPoison a b) := by
  unfold State.setPoison
  split
  · exact h.of_eq rfl rfl rfl rfl rfl rfl rfl
  · rename_i l hl
    refine h.put_l2 (fun c hc _ => ?_) fun c k hc hk hd hW => ?_
    · rw [peekByte_eq, hc, hl]
      rfl
    · obtain rfl := Option.some.inj hk
      exact h.coherent.2 c l (hc.symm ▸ hl) hd hW

theorem HomeKept.setPoisonFor (h : HomeKept W s t) (below : Bool) (a : Nat) (b : Bool) : HomeKept W s (t.setPoisonFor below a b) :=
  .ite (h.of_eq rfl rfl rfl rfl rfl rfl rfl) (h.setPoison a b)

theorem HomeKept.clearCovered (h : HomeKept W s t) (below : Bool) (spans : List (Nat × Nat)) : HomeKept W s (t.clearCovered below spans) :=
  h.foldl _ fun _ _ _ hu => .ite (hu.setPoisonFor _ _ _) hu

end L2

end Sys2Proof.Claims

namespace Sys2Proof

open Sys2Proof.Machine Sys2Proof.Claims

/-- A byte written at the home slice is found there. -/
theorem peekByte_writeHome {s : State} (hs : Coherent s) {a n k : Nat} (x : Nat) (hline : a % 128 + n ≤ 128) (hk : k < n) :
    (s.writeHome a n x).peekByte (a + k) = BitVec.ofNat 8 (x / 256 ^ k) := by
  obtain ⟨l, _, hwrite⟩ := writeHome_eq hs.1 a n x
  have hu := ((HomeKept.refl (coherent_iff.1 hs)).reached a n).coherent.1
  have hsame : lineOf (a + k) = lineOf a := by unfold lineOf; omega
  rw [hwrite, peekByte_put_l2 hu, if_pos hsame]
  exact lineByte_written_inside l x hline hk

/-- Settles O19: the line written is dirty, so that memory is as coherent as it was, and it shows elsewhere what it showed. -/
theorem homeWritesChangeTheirBytes : Obligations.HomeWritesChangeTheirBytes := by
  intro s a n x hs hline
  have hwrite : HomeKept (fun b => a ≤ b ∧ b < a + n) s (s.writeHome a n x) :=
    (HomeKept.refl (.of_coherent hs _)).writeHome x fun _ hlo hhi => ⟨hlo, hhi⟩
  exact ⟨coherent_iff.2 ((coherent_iff.1 hs).writeHome a n x), fun k hk => peekByte_writeHome hs x hline hk, fun b hb =>
    hwrite.view b (by omega)⟩

end Sys2Proof
end

section
/-!
SUPPORT. What the units of an access keep of memory as the home slices have it: those that stores write, and those that loads read.
-/

namespace Sys2Proof.Claims

open Sys2Proof.Machine

/-! ### The L1 of a core -/

section L1

variable {W : Nat → Prop} {s t : State}

theorem HomeKept.coin (h : HomeKept W s t) : HomeKept W s t.coin.2 := h.of_eq rfl rfl rfl rfl rfl rfl rfl

theorem HomeKept.trimL1 (h : HomeKept W s t) (c : Nat) : HomeKept W s (t.trimL1 c) := .ite h (h.of_eq rfl rfl rfl rfl rfl rfl rfl)

/-- A load of a core reads its L1, or the home slice, and leaves a copy (R123). -/
theorem HomeKept.readCore (h : HomeKept W s t) (c a n hint : Nat) (tol : Bool) : HomeKept W s (t.readCore c a n hint tol).1 := by
  have hu := h.trimL1 c
  unfold State.readCore
  dsimp only
  generalize t.trimL1 c = u at hu ⊢
  split
  · rename_i d _
    have hq : HomeKept W s (if u.asHome (lineOf a) d then (true, u) else u.coin).2 := by
      split
      · exact hu
      · exact hu.coin
    generalize (if u.asHome (lineOf a) d then (true, u) else u.coin) = q at hq ⊢
    split
    · exact hq
    · exact (hq.of_eq rfl rfl rfl rfl rfl rfl rfl : HomeKept W s (q.2.dropL1 c (lineOf a))).readHome a n
  · have hr := hu.readHome a n
    generalize u.readHome a n = r at hr ⊢
    split
    · exact hr
    · split
      · split
        · exact hr
        · exact hr.coin
      · exact hr.of_eq rfl rfl rfl rfl rfl rfl rfl

/-- A store of a core goes through its L1 to the home slice (R123). -/
theorem HomeKept.writeCore (h : HomeKept W s t) (c : Nat) {a n : Nat} (v : Nat) (hW : ∀ b, a ≤ b → b < a + n → W b) :
    HomeKept W s (t.writeCore c a n v) := by
  unfold State.writeCore
  refine HomeKept.writeHome ?_ v hW
  split
  · exact h
  · exact h.of_eq rfl rfl rfl rfl rfl rfl rfl

end L1

/-! ### What stores keep -/

/-- What was quiet (R419) is still quiet. -/
def QuietKept (s t : State) : Prop :=
  ∀ (o : Op) g, s.findGroup o.gid = some g → Quiet s o g → ∃ k, t.findGroup o.gid = some k ∧ Quiet t o k

/-- From `s` to `t` units of a store have been written that lie in `W`, with all that a store leaves beside them. -/
structure StoreKept (W : Nat → Prop) (s t : State) : Prop where
  coherent : CoherentBut W t
  view : ∀ b, ¬ W b → t.peekByte b = s.peekByte b
  regs : t.regs = s.regs
  quiet : QuietKept s t

theorem findGroup_of_map {s t : State} {F : Group → Group} (hF : ∀ g, (F g).gid = g.gid) (hg : t.groups = s.groups.map F) (gid : Nat) :
    t.findGroup gid = (s.findGroup gid).map F := by
  unfold State.findGroup
  rw [hg, List.find?_map]
  congr 2
  exact funext fun g => by rw [Function.comp, hF]

theorem ctxOf_of_map {s t : State} {T : Take → Take} (hT : ∀ k, (T k).tid = k.tid ∧ (T k).ctx = k.ctx) (ht : t.takes = s.takes.map T)
    {g k : Group} (hk : k.take = g.take) : t.ctxOf k = s.ctxOf g := by
  have hfind : t.takeOf k = (s.takeOf g).map T := by
    unfold State.takeOf State.findTake
    rw [ht, hk, List.find?_map]
    congr 2
    exact funext fun x => by rw [Function.comp, (hT x).1]
  unfold State.ctxOf
  rw [hfind]
  cases s.takeOf g with
  | none => rfl
  | some x => exact (hT x).2

/-- Groups and takes may change in what holds no stop. -/
theorem QuietKept.of_map {s t : State} {F : Group → Group} {T : Take → Take}
    (hF : ∀ g, (F g).gid = g.gid ∧ (F g).warps = g.warps ∧ (F g).take = g.take) (hT : ∀ k, (T k).tid = k.tid ∧ (T k).ctx = k.ctx)
    (hg : t.groups = s.groups.map F) (ht : t.takes = s.takes.map T) (hc : t.ctxs = s.ctxs) : QuietKept s t := by
  intro o g ho hq
  refine ⟨F g, by rw [findGroup_of_map (fun g => (hF g).1) hg, ho, Option.map_some], fun k hk w hw => ?_, fun c hfind => ?_⟩
  · rw [Group.findWarp, (hF g).2.1] at hw
    exact hq.1 k hk w hw
  · rw [ctxOf_of_map hT ht (hF g).2.2, State.findCtx, hc] at hfind
    exact hq.2 c hfind

theorem QuietKept.of_eq {s t : State} (hg : t.groups = s.groups) (ht : t.takes = s.takes) (hc : t.ctxs = s.ctxs) : QuietKept s t :=
  .of_map (F := id) (T := id) (fun _ => ⟨rfl, rfl, rfl⟩) (fun _ => ⟨rfl, rfl⟩) (by rw [hg, List.map_id]) (by rw [ht, List.map_id]) hc

theorem QuietKept.trans {s t u : State} (h : QuietKept s t) (k : QuietKept t u) : QuietKept s u := fun o g hg hq => by
  obtain ⟨g', hg', hq'⟩ := h o g hg hq
  exact k o g' hg' hq'

section Stores

variable {W : Nat → Prop} {s t u : State}

theorem StoreKept.refl (h : CoherentBut W s) : StoreKept W s s := ⟨h, fun _ _ => rfl, rfl, .of_eq rfl rfl rfl⟩

/-- Memory operations within `W` follow. -/
theorem StoreKept.home (h : StoreKept W s t) (k : HomeKept W t u) : StoreKept W s u :=
  ⟨k.coherent, fun b hb => (k.view b hb).trans (h.view b hb), k.regs.trans h.regs, h.quiet.trans (.of_eq k.groups k.takes k.ctxs)⟩

/-- Groups and takes change in what holds no stop. -/
theorem StoreKept.of_map (h : StoreKept W s t) {F : Group → Group} {T : Take → Take}
    (hF : ∀ g, (F g).gid = g.gid ∧ (F g).warps = g.warps ∧ (F g).take = g.take) (hT : ∀ k, (T k).tid = k.tid ∧ (T k).ctx = k.ctx)
    (hm : u.mem = t.mem) (hl : u.l2 = t.l2) (hv : u.veil = t.veil) (hr : u.regs = t.regs) (hg : u.groups = t.groups.map F)
    (ht : u.takes = t.takes.map T) (hc : u.ctxs = t.ctxs) : StoreKept W s u :=
  ⟨h.coherent.of_eq hm hl hv, fun b hb => (peekByte_of_eq hm hl hv b).trans (h.view b hb), hr.trans h.regs,
    h.quiet.trans (.of_map hF hT hg ht hc)⟩

/-- What a completion does not ask about changes. -/
theorem StoreKept.of_eq (h : StoreKept W s t) (hm : u.mem = t.mem) (hl : u.l2 = t.l2) (hv : u.veil = t.veil) (hr : u.regs = t.regs)
    (hg : u.groups = t.groups) (ht : u.takes = t.takes) (hc : u.ctxs = t.ctxs) : StoreKept W s u :=
  h.home ((HomeKept.refl h.coherent).of_eq hm hl hv hr hg ht hc)

theorem StoreKept.foldl {β : Type} {f : State → β → State} (xs : List β) (hf : ∀ v, ∀ x ∈ xs, StoreKept W s v → StoreKept W s (f v x))
    (h : StoreKept W s t) : StoreKept W s (xs.foldl f t) := by
  induction xs generalizing t with
  | nil => exact h
  | cons x xs ih => exact ih (fun v y hy => hf v y (List.mem_cons_of_mem _ hy)) (hf t x List.mem_cons_self h)

theorem StoreKept.modBank (h : StoreKept W s t) (g b : Nat) (f : Bank → Bank) : StoreKept W s (t.modBank g b f) :=
  h.of_map (F := fun y => if y.gid == g then { y with banks := y.banks.modify b f } else y) (T := id)
    (fun y => by split <;> exact ⟨rfl, rfl, rfl⟩) (fun _ => ⟨rfl, rfl⟩) rfl rfl rfl rfl rfl (List.map_id _).symm rfl

theorem noteArgs_kept (id : Nat) (keys : List Nat) (p : Op) : ∃ vals, p.noteArgs id keys = { p with lvals := vals } := by
  unfold Op.noteArgs
  split
  · split
    · exact ⟨_, rfl⟩
    · exact ⟨_, rfl⟩
  · exact ⟨_, rfl⟩

/-- What is noted of scratchpad writes stands in the groups' conversations and in the arguments of block calls (R158, R353). -/
theorem noteOperands_eq (s : State) (o : Op) (lanes : Bool) (us : List MUnit) : ∃ (F : Group → Group) (P : Op → Op),
    (∀ g, ∃ cs, F g = { g with convs := cs }) ∧ (∀ p, ∃ vals, P p = { p with lvals := vals }) ∧
      s.noteOperands o lanes us = { s with groups := s.groups.map F, ops := s.ops.map P } := by
  unfold State.noteOperands
  dsimp only
  split
  · exact ⟨id, id, fun g => ⟨g.convs, rfl⟩, fun p => ⟨p.lvals, rfl⟩, by rw [List.map_id, List.map_id]⟩
  · exact ⟨_, _, fun g => ⟨_, rfl⟩, fun p => noteArgs_kept _ _ p, rfl⟩

theorem StoreKept.noteOperands (h : StoreKept W s t) (o : Op) (lanes : Bool) (us : List MUnit) :
    StoreKept W s (t.noteOperands o lanes us) := by
  obtain ⟨F, P, hF, -, he⟩ := noteOperands_eq t o lanes us
  rw [he]
  refine h.of_map (F := F) (T := id) (fun g => ?_) (fun _ => ⟨rfl, rfl⟩) rfl rfl rfl rfl rfl (List.map_id _).symm rfl
  obtain ⟨cs, hg⟩ := hF g
  rw [hg]
  exact ⟨rfl, rfl, rfl⟩

/-- The places of memory that a unit covers lie in `W`. -/
def MUnit.Within (u : MUnit) (W : Nat → Prop) : Prop := ∀ a p, u.loc = .mem a p → ∀ b, a ≤ b → b < a + u.n → W b

/-- A unit is written at its point (R123 to R125). -/
theorem StoreKept.writeUnit (h : StoreKept W s t) (v : Via) {x : MUnit} (y : Nat) (hx : MUnit.Within x W) :
    StoreKept W s (t.writeUnit v x y) := by
  have href := HomeKept.refl h.coherent
  unfold State.writeUnit
  split
  · exact h.modBank _ _ _
  · rename_i a p hloc
    split
    · exact h.home (href.writeCore _ y (hx a p hloc))
    · exact h.home (href.writeHome y (hx a p hloc))
    · exact h.home (.ite (href.writeHome y (hx a p hloc)) (href.writeBelow y (hx a p hloc)))

theorem StoreKept.writeUnits (h : StoreKept W s t) (v : Via) {us : List MUnit} (y : Nat) (hus : ∀ x ∈ us, MUnit.Within x W) :
    StoreKept W s (t.writeUnits v us y) := by
  induction us generalizing t y with
  | nil => exact h
  | cons x us ih => exact ih (h.writeUnit v _ (hus x List.mem_cons_self)) _ fun z hz => hus z (List.mem_cons_of_mem _ hz)

theorem StoreKept.writeAccs (h : StoreKept W s t) (v : Via) (val : Nat → Nat) {as : List Acc}
    (has : ∀ x ∈ as.flatMap Acc.units, MUnit.Within x W) : StoreKept W s (t.writeAccs v val as) := by
  induction as generalizing t with
  | nil => exact h
  | cons a as ih =>
    rw [List.flatMap_cons] at has
    exact ih (h.writeUnits v _ fun x hx => has x (List.mem_append_left _ hx)) fun x hx => has x (List.mem_append_right _ hx)

theorem metWord_kept (k : Nat) (x : Take) : (x.metWord k).tid = x.tid ∧ (x.metWord k).ctx = x.ctx := by
  unfold Take.metWord
  split
  · exact ⟨rfl, rfl⟩
  · exact ⟨rfl, rfl⟩

/-- The barrier words in use that a store meets come to hold undefined values (R154). -/
theorem StoreKept.spoilWords (h : StoreKept W s t) (v : Via) {ps : List (MUnit × Nat)} (qs : List (MUnit × Nat))
    (hps : ∀ p ∈ ps, MUnit.Within (MUnit.word p.1) W) : StoreKept W s (t.spoilWords v ps qs) := by
  unfold State.spoilWords
  refine StoreKept.foldl qs (fun w q _ hw => ?_) (StoreKept.foldl ps (fun w p hp hw => ?_) h)
  · exact hw.of_map (F := id) (T := fun x => x.metWord (q.1.loc.key / 8)) (fun _ => ⟨rfl, rfl, rfl⟩) (fun _ => metWord_kept _ _)
      rfl rfl rfl rfl (List.map_id _).symm rfl rfl
  · exact (hw.writeUnit v _ (hps p hp)).of_eq rfl rfl rfl rfl rfl rfl rfl

/-- Cells within `W` come to hold undefined values. -/
theorem StoreKept.spoilSpan (h : StoreKept W s t) {x : Nat × Nat} (hx : ∀ b, x.1 ≤ b → b < x.1 + x.2 → W b) :
    StoreKept W s (t.spoilSpan x) := by
  have he := (HomeKept.refl h.coherent).evictLine (lineOf x.1)
  refine h.home (HomeKept.of_eq (t := State.setCells _ x.1 x.2 _) (HomeKept.setCells ?_ _ hx) rfl rfl rfl rfl rfl rfl rfl)
  exact he.of_eq rfl rfl rfl rfl rfl rfl rfl

theorem StoreKept.noteRaces (h : StoreKept W s t) (by_ : Option Nat) {spans : List (Nat × Nat)}
    (hs : ∀ x ∈ spans, ∀ b, x.1 ≤ b → b < x.1 + x.2 → W b) : StoreKept W s (t.noteRaces by_ spans) := by
  have hw : StoreKept W s (t.noteWatched spans) :=
    StoreKept.foldl _ (fun v x hx hv => hv.spoilSpan (hs x (List.mem_of_mem_filter hx))) h
  unfold State.noteRaces
  dsimp only
  split
  · exact hw
  · exact hw.of_eq rfl rfl rfl rfl rfl rfl rfl

theorem memSpans_within {us : List MUnit} (hus : ∀ x ∈ us, MUnit.Within x W) : ∀ x ∈ memSpans us, ∀ b, x.1 ≤ b → b < x.1 + x.2 → W b := by
  intro x hx
  obtain ⟨y, hy, hspan⟩ := List.mem_filterMap.1 hx
  split at hspan
  · rename_i a p hloc
    obtain rfl := Option.some.inj hspan
    exact hus y hy a p hloc
  · cases hspan

/-- A store of lanes takes effect at some of its accesses (R286, R154, R159). -/
theorem StoreKept.storeAccs (h : StoreKept W s t) (o : Op) (g : Group) (val : Nat → Nat) {as : List Acc}
    (hunits : ∀ x ∈ as.flatMap Acc.units, MUnit.Within x W)
    (hwords : ∀ q ∈ as.flatMap Acc.placed, t.inUse o q.1 q.2 = true → MUnit.Within (MUnit.word q.1) W) :
    StoreKept W s (t.storeAccs o g val as) := by
  refine ((h.writeAccs _ val hunits).spoilWords _ _ fun p hp => ?_).noteRaces _ (memSpans_within hunits)
  obtain ⟨q, hq, rfl⟩ := List.mem_map.1 hp
  obtain ⟨hq, huse⟩ := List.mem_filter.1 hq
  obtain ⟨r, hr, rfl⟩ := List.mem_map.1 hq
  exact hwords r hr huse

end Stores

/-! ### Words in use, while a store's scratchpad words are noted -/

theorem peek_of_eq {s t : State} (hm : t.mem = s.mem) (hl : t.l2 = s.l2) (hv : t.veil = s.veil) (a n : Nat) : t.peek a n = s.peek a n := by
  induction n generalizing a with
  | zero => rfl
  | succ n ih => rw [State.peek, State.peek, ih, peekByte_of_eq hm hl hv]

/-- Which words are in use does not depend on what is noted of scratchpad writes. -/
theorem inUse_noteOperands (s : State) (p : Op) (lanes : Bool) (us : List MUnit) (o : Op) (x : MUnit) (va : Nat) :
    (s.noteOperands p lanes us).inUse o x va = s.inUse o x va := by
  obtain ⟨F, P, hF, hP, he⟩ := noteOperands_eq s p lanes us
  rw [he]
  generalize ht : ({ s with groups := s.groups.map F, ops := s.ops.map P } : State) = t
  have hgid : ∀ g, (F g).gid = g.gid := fun g => by obtain ⟨cs, hg⟩ := hF g; rw [hg]
  have hfind : ∀ gid, t.findGroup gid = (s.findGroup gid).map F := findGroup_of_map hgid (by rw [← ht])
  have hctx : ∀ q : Op, (t.findGroup q.gid).elim 0 t.ctxOf = (s.findGroup q.gid).elim 0 s.ctxOf := fun q => by
    rw [hfind]
    cases s.findGroup q.gid with
    | none => rfl
    | some g =>
      obtain ⟨cs, hg⟩ := hF g
      exact ctxOf_of_map (T := id) (fun _ => ⟨rfl, rfl⟩) (by rw [← ht]; exact (List.map_id _).symm) (by rw [hg])
  have hbank : ∀ g b off n, t.readBank g b off n = s.readBank g b off n := fun g b off n => by
    rw [State.readBank, State.readBank, hfind]
    cases s.findGroup g with
    | none => rfl
    | some y =>
      obtain ⟨cs, hg⟩ := hF y
      simp only [Option.map_some, Option.bind_some, hg]
  have hpart : t.partArrived x = s.partArrived x := by
    unfold State.partArrived
    have hpeek : ∀ a, t.peek a 8 = s.peek a 8 := fun a => by subst ht; exact peek_of_eq rfl rfl rfl a 8
    simp only [hpeek, hbank]
  have hword : t.wordState x = s.wordState x := by subst ht; rfl
  unfold State.inUse
  simp only [hctx, hpart, hword]
  subst ht
  rw [List.any_map]
  congr 2
  funext q
  obtain ⟨vals, hq⟩ := hP q
  rw [Function.comp, hq]
  rfl

/-! ### The end of a store -/

/-- The bytes that a store of lanes may change: those of its units, and the rest of the barrier words in use that it meets (R154). -/
def Reached (s : State) (o : Op) (b : Nat) : Prop :=
  (∃ u ∈ o.units, ∃ a p, u.loc = .mem a p ∧ a ≤ b ∧ b < a + u.n) ∨
  ∃ q ∈ o.accs.flatMap Acc.placed, s.inUse o q.1 q.2 = true ∧ ∃ a p, q.1.loc = .mem a p ∧ a / 8 * 8 ≤ b ∧ b < a / 8 * 8 + 8

theorem within_of_unit {s : State} {o : Op} {u : MUnit} (hu : u ∈ o.units) : MUnit.Within u (Reached s o) :=
  fun a p hloc _ hab hba => .inl ⟨u, hu, a, p, hloc, hab, hba⟩

theorem within_of_word {s : State} {o : Op} {q : MUnit × Nat} (hq : q ∈ o.accs.flatMap Acc.placed) (huse : s.inUse o q.1 q.2 = true) :
    MUnit.Within (MUnit.word q.1) (Reached s o) := by
  intro a p hloc b hab hba
  unfold MUnit.word at hloc hba
  split at hloc
  · rename_i a' p' hq'
    simp only [hq'] at hba
    cases hloc
    exact .inr ⟨q, hq, huse, _, _, hq', hab, hba⟩
  · cases hloc

theorem mem_units_of_acc {o : Op} {u : MUnit} (hu : u ∈ o.accs.flatMap Acc.units) : u ∈ o.units := by
  rw [Op.units, List.flatMap_append]
  exact List.mem_append_right _ hu

/-- A store of lanes, up to its flag and its leaving flight. -/
theorem StoreKept.stored {s t : State} {o : Op} (h : StoreKept (Reached s o) s t) (g : Group) (val : Nat → Nat)
    (huse : ∀ x va, t.inUse o x va = s.inUse o x va) (below : Bool) :
    StoreKept (Reached s o) s ((t.storeAccs o g val o.accs).clearCovered below (memSpans o.units)) := by
  have hs := h.storeAccs o g val (fun x hx => within_of_unit (mem_units_of_acc hx)) fun q hq hu =>
    within_of_word hq (by rw [← huse]; exact hu)
  exact hs.home ((HomeKept.refl hs.coherent).clearCovered _ _)

/-- A completing operation of a quiet warp writes its registers and leaves flight: memory and device registers stay. -/
theorem finishOp_kept {s : State} {o : Op} {g : Group} (hg : s.findGroup o.gid = some g) (hq : Quiet s o g) :
    (s.finishOp o).regs = s.regs ∧ ∀ b, (s.finishOp o).peekByte b = s.peekByte b := by
  obtain ⟨gs, os, he⟩ := freed_eq s o
  rw [finishOp_of_quiet hg hq, he]
  exact ⟨rfl, peekByte_of_eq rfl rfl rfl⟩

theorem StoreKept.finished {W : Nat → Prop} {s t : State} {o : Op} {g : Group} (h : StoreKept W s t) (hg : s.findGroup o.gid = some g)
    (hq : Quiet s o g) : (t.finishOp o).regs = s.regs ∧ ∀ b, ¬ W b → (t.finishOp o).peekByte b = s.peekByte b := by
  obtain ⟨k, hk, hkq⟩ := h.quiet o g hg hq
  obtain ⟨hregs, hview⟩ := finishOp_kept hk hkq
  exact ⟨hregs.trans h.regs, fun b hb => (hview b).trans (h.view b hb)⟩

end Sys2Proof.Claims

namespace Sys2Proof

open Sys2Proof.Machine Sys2Proof.Claims

/-- Settles O36: what the units of the store, the words it spoils and the ranges it races with leave of memory is carried through the parts
of the store up to its flag. -/
theorem storesChangeOnlyTheirBytes : Obligations.StoresChangeOnlyTheirBytes := by
  intro s o g h hq hcoh hbank _ hinstr t ht
  have hrefl : StoreKept (Reached s o) s s := .refl (.of_coherent hcoh _)
  have hend : ∃ u, StoreKept (Reached s o) s u ∧ exec (.longLatencyComplete o.id) s = .next (u.finishOp o) := by
    rcases hinstr with ⟨i, x, hi⟩ | ⟨i, x, hi⟩ | ⟨i, x, hi⟩
    · exact ⟨_, hrefl.stored g _ (fun _ _ => rfl) _, exec_long_of_access h (by rw [hi]; rfl) (by rw [hi]; rfl) (by
        rw [State.doAccess, hbank, hi]; rfl)⟩
    · exact ⟨_, (hrefl.noteOperands o true o.units).stored g _ (inUse_noteOperands s o true o.units o) _,
        exec_long_of_access h (by rw [hi]; rfl) (by rw [hi]; rfl) (by rw [State.doAccess, hbank, hi]; rfl)⟩
    · exact ⟨_, hrefl.stored g _ (fun _ _ => rfl) _, exec_long_of_access h (by rw [hi]; rfl) (by rw [hi]; rfl) (by
        rw [State.doAccess, hbank, hi]; rfl)⟩
  obtain ⟨u, hu, hexec⟩ := hend
  obtain rfl : u.finishOp o = t := by simpa [hexec] using ht
  obtain ⟨hregs, hview⟩ := hu.finished h.group hq
  refine ⟨hregs, fun b hout hword => hview b ?_⟩
  rintro (⟨x, hx, a, p, hloc, hab, hba⟩ | ⟨q, hqs, huse, a, p, hloc, hab, hba⟩)
  · rcases hout x hx a p hloc with hlt | hge
    · omega
    · omega
  · rcases hword q hqs huse a p hloc with hlt | hge
    · omega
    · omega

end Sys2Proof
end

section
/-!
SUPPORT. What the units that a load reads keep: memory as the home slices have it, and the device registers but the two that count poison on
poison-tolerant pages.
-/

namespace Sys2Proof.Claims

open Sys2Proof.Machine

/-! ### Device registers -/

/-- A write to a map whose keys rise leaves every other key, whatever an unlisted one reads as. -/
theorem get_put_of_ne_of_rising {α : Type} [DecidableEq α] {d d' : α} {m : NMap α} (hm : Rising m) {i j : Nat} (hj : j ≠ i) (v : α) :
    NMap.get d' (NMap.put d m i v) j = NMap.get d' m j := by
  induction m with
  | nil =>
    by_cases hv : v = d
    · simp [NMap.put, NMap.get, hv]
    · grind [NMap.put, NMap.get]
  | cons e m ih =>
    obtain ⟨hlow, hrest⟩ := List.pairwise_cons.1 hm
    have hput := ih hrest
    have hunlisted : j ≤ e.1 → NMap.get d' m j = d' := fun hj => get_of_lt_keys fun k hk => hj.trans_lt (hlow k hk)
    rcases Nat.lt_trichotomy i e.1 with hi | hi | hi <;> grind [NMap.put, NMap.get]

theorem reg_setReg_of_ne {s : State} (hs : Rising s.regs) {i j : Nat} (hj : j ≠ i) (v : BitVec 64) : (s.setReg i v).reg j = s.reg j :=
  get_put_of_ne_of_rising hs hj v

/-! ### Units read -/

/-- From `s` to `t` units have been read: no byte of memory and no stop has changed, and no device register but the two that count
poison (R469). -/
structure ReadKept (s t : State) : Prop where
  coherent : CoherentBut (fun _ => False) t
  view : ∀ b, t.peekByte b = s.peekByte b
  groups : t.groups = s.groups
  takes : t.takes = s.takes
  ctxs : t.ctxs = s.ctxs
  sorted : Rising t.regs
  reg : ∀ off, off ≠ 0x20018 → off ≠ 0x20020 → t.reg off = s.reg off

section Reads

variable {s t u : State}

theorem ReadKept.refl (hc : Coherent s) (hl : Listed s) : ReadKept s s :=
  ⟨.of_coherent hc _, fun _ => rfl, rfl, rfl, rfl, hl.regs, fun _ _ _ => rfl⟩

/-- Memory operations that change no byte follow. -/
theorem ReadKept.home (h : ReadKept s t) (k : HomeKept (fun _ => False) t u) : ReadKept s u where
  coherent := k.coherent
  view b := (k.view b not_false).trans (h.view b)
  groups := k.groups.trans h.groups
  takes := k.takes.trans h.takes
  ctxs := k.ctxs.trans h.ctxs
  sorted := k.regs ▸ h.sorted
  reg off ha hb := by rw [State.reg, k.regs]; exact h.reg off ha hb

theorem ReadKept.renew (h : ReadKept s t) : ReadKept s t.renew := h.home ((HomeKept.refl h.coherent).of_eq rfl rfl rfl rfl rfl rfl rfl)

theorem ReadKept.tolerate (h : ReadKept s t) (pa : Nat) : ReadKept s (t.tolerate pa) where
  coherent := h.coherent.of_eq rfl rfl rfl
  view b := (peekByte_of_eq rfl rfl rfl b).trans (h.view b)
  groups := h.groups
  takes := h.takes
  ctxs := h.ctxs
  sorted := (h.sorted.put _ _ _).put _ _ _
  reg off ha hb := ((reg_setReg_of_ne (h.sorted.put _ _ _) hb _).trans (reg_setReg_of_ne h.sorted ha _)).trans (h.reg off ha hb)

/-- The device registers go back to those of an earlier point of the same load. -/
theorem ReadKept.withRegs (h : ReadKept s t) (k : ReadKept s u) : ReadKept s { u with regs := t.regs } :=
  ⟨k.coherent.of_eq rfl rfl rfl, fun b => (peekByte_of_eq rfl rfl rfl b).trans (k.view b), k.groups, k.takes, k.ctxs, h.sorted, h.reg⟩

/-- Bytes read count their poison on a poison-tolerant page, and are undefined where memory is mapped twice (R132, R117). -/
theorem ReadKept.checked {r : State × Nat × Bool} (h : ReadKept s r.1) (pg : Page) (a n : Nat) :
    ReadKept s (if r.2.2 && pg.ptro then (r.1.tolerate (pg.phys a), 0, false)
      else if r.1.mappedTwice pg.place a then (r.1.renew, r.1.free 602 0 % 2 ^ (8 * n), r.2.2)
      else r : State × Nat × Bool).1 := by
  split
  · exact h.tolerate _
  · split
    · exact h.renew
    · exact h

/-- A unit is read at its point, and poison there counted (R123 to R125, R132). -/
theorem ReadKept.readUnit (h : ReadKept s t) (v : Via) (x : MUnit) : ReadKept s (t.readUnit v x).1 := by
  have href := HomeKept.refl h.coherent
  unfold State.readUnit
  split
  · exact h
  · rename_i a pg _
    refine ReadKept.checked ?_ pg a x.n
    split
    · exact h.home (href.readCore _ _ _ _ _)
    · exact h.home (href.readHome _ _)
    · split
      · exact h.home (href.readHome _ _)
      · exact h.home (href.readBelow _ _)

theorem ReadKept.readUnits (h : ReadKept s t) (v : Via) (us : List MUnit) : ReadKept s (t.readUnits v us).1 := by
  induction us generalizing t with
  | nil => exact h
  | cons x us ih =>
    refine ih ?_
    split
    · exact h.withRegs (h.readUnit v x)
    · exact h.readUnit v x

theorem ReadKept.readAccs (h : ReadKept s t) (v : Via) (blind : Nat → Bool) (as : List Acc) : ReadKept s (t.readAccs v blind as).1 := by
  induction as generalizing t with
  | nil => exact h
  | cons a as ih => exact ih (h.readUnits v a.units)

/-- An access that reports no poison reports none where some lanes' addresses are undefined, and reads alike. -/
theorem readAccs_blind {v : Via} (blind : Nat → Bool) {as : List Acc} (h : (s.readAccs v (fun _ => false) as).2.2 = none) :
    (s.readAccs v blind as).2.2 = none := by
  induction as generalizing s with
  | nil => rfl
  | cons a as ih =>
    rw [State.readAccs] at h ⊢
    dsimp only at h ⊢
    generalize s.readUnits v a.units = r at h ⊢
    cases hr : r.2.2 with
    | none => rw [hr] at h; exact ih h
    | some c => rw [hr] at h; cases h

/-! ### The end of a load -/

/-- What is left of a load that has read without poison: its registers, its flag, and what of the core's L1 it drops. -/
theorem ReadKept.finished {o : Op} {g : Group} (h : ReadKept s t) (hg : s.findGroup o.gid = some g) (hq : Quiet s o g) :
    (∀ off, off ≠ 0x20018 → off ≠ 0x20020 → (t.finishOp o).reg off = s.reg off) ∧ ∀ b, (t.finishOp o).peekByte b = s.peekByte b := by
  obtain ⟨k, hk, hkq⟩ := QuietKept.of_eq h.groups h.takes h.ctxs o g hg hq
  obtain ⟨hregs, hview⟩ := finishOp_kept hk hkq
  exact ⟨fun off ha hb => by rw [State.reg, hregs]; exact h.reg off ha hb, fun b => (hview b).trans (h.view b)⟩

/-- A load once its accesses are read: it has written `w` and left flight, and `es` is what the cores' L1 hold. -/
def loaded (s : State) (o : Op) (v : Via) (w : List RegW) (es : NMap (Option (BitVec 1024))) : State :=
  { (s.readAccs v o.blind o.accs).1.renew.finishOp { o with writes := w } with l1 := es }

theorem doLdu_of_clear {o : Op} {g : Group} {x : LoadOps} (h : (s.readAccs (g.via 0) o.blind o.accs).2.2 = none) :
    ∃ w es, s.doLdu o g x = loaded s o (g.via 0) w es := by
  unfold State.doLdu
  dsimp only
  rw [h]
  exact ⟨_, _, rfl⟩

theorem doLdt_of_clear {o : Op} {g : Group} {x : LdtOps} (h : (s.readAccs (g.via x.hint.toNat) o.blind o.accs).2.2 = none) :
    ∃ w es, s.doLdt o g x = loaded s o (g.via x.hint.toNat) w es := by
  unfold State.doLdt
  dsimp only
  rw [h]
  exact ⟨_, _, rfl⟩

/-- An acquire may empty the core's L1 (R142). -/
theorem acquireAt_eq (s : State) (g : Group) (scope : Nat) : ∃ es, s.acquireAt g scope = { s with l1 := es } := by
  unfold State.acquireAt
  split
  · exact ⟨s.l1, rfl⟩
  · exact ⟨_, rfl⟩

theorem doLoad_of_clear {o : Op} {v : Via} {d : Reg} {vals : Nat → List (Nat × Nat)} (h : (s.readAccs v o.blind o.accs).2.2 = none) :
    ∃ w, s.doLoad o v d vals = (s.readAccs v o.blind o.accs).1.renew.finishOp { o with writes := w } := by
  unfold State.doLoad
  dsimp only
  rw [h]
  exact ⟨_, rfl⟩

theorem doLd_of_clear {o : Op} {g : Group} {x : LoadOps} (h : (s.readAccs (g.loadVia x) o.blind o.accs).2.2 = none) :
    ∃ w es, s.doLd o g x = loaded s o (g.loadVia x) w es := by
  obtain ⟨w, hw⟩ := doLoad_of_clear (d := x.d) (vals := loadVals x.ty x.vec x.one) h
  unfold State.doLd
  dsimp only
  rw [hw]
  split
  · rename_i sc _
    obtain ⟨es, he⟩ := acquireAt_eq ((s.readAccs (g.loadVia x) o.blind o.accs).1.renew.finishOp { o with writes := w }) g sc.toNat
    exact ⟨w, es, he⟩
  · exact ⟨w, _, rfl⟩

/-- A load that reads its accesses without poison changes no byte of memory. -/
theorem loaded_keeps {o : Op} {g : Group} (hg : s.findGroup o.gid = some g) (hq : Quiet s o g) (hc : Coherent s) (hl : Listed s) (v : Via)
    (w : List RegW) (es : NMap (Option (BitVec 1024))) :
    (∀ off, off ≠ 0x20018 → off ≠ 0x20020 → (loaded s o v w es).reg off = s.reg off) ∧
      ∀ b, (loaded s o v w es).peekByte b = s.peekByte b := by
  obtain ⟨hreg, hview⟩ := (((ReadKept.refl hc hl).readAccs v o.blind o.accs).renew).finished (o := { o with writes := w }) hg hq
  exact ⟨hreg, fun b => (peekByte_of_eq rfl rfl rfl b).trans (hview b)⟩

end Reads

end Sys2Proof.Claims

namespace Sys2Proof

open Sys2Proof.Machine Sys2Proof.Claims

/-- Settles O37: each kind of load is its accesses read, then its registers and its flag; reading a unit keeps every byte
and counts poison only. -/
theorem loadsChangeNoMemory : Obligations.LoadsChangeNoMemory := by
  intro s o g h hq hc hl hbank hinstr hclear t ht
  have hnone : ∀ v, (s.readAccs v o.blind o.accs).2.2 = none := fun v => readAccs_blind o.blind (hclear v)
  have hend : ∃ v w es, s.doAccess o g = some (loaded s o v w es) := by
    rcases hinstr with ⟨i, x, hi⟩ | ⟨i, x, hi⟩ | ⟨i, x, hi⟩ | ⟨i, x, hi⟩
    · obtain ⟨w, es, hw⟩ := doLd_of_clear (x := x) (hnone (g.loadVia x))
      exact ⟨_, w, es, by rw [State.doAccess, hbank, hi]; exact congrArg some hw⟩
    · obtain ⟨w, es, hw⟩ := doLd_of_clear (x := x) (hnone (g.loadVia x))
      exact ⟨_, w, es, by rw [State.doAccess, hbank, hi]; exact congrArg some hw⟩
    · obtain ⟨w, es, hw⟩ := doLdu_of_clear (x := x) (hnone (g.via 0))
      exact ⟨_, w, es, by rw [State.doAccess, hbank, hi]; exact congrArg some hw⟩
    · obtain ⟨w, es, hw⟩ := doLdt_of_clear (x := x) (hnone (g.via x.hint.toNat))
      exact ⟨_, w, es, by rw [State.doAccess, hbank, hi]; exact congrArg some hw⟩
  obtain ⟨v, w, es, hw⟩ := hend
  have hkind : Instr.isCpout o.instr = false ∧ Instr.isSystem o.instr = false := by
    rcases hinstr with ⟨i, x, hi⟩ | ⟨i, x, hi⟩ | ⟨i, x, hi⟩ | ⟨i, x, hi⟩
    all_goals exact ⟨by rw [hi]; rfl, by rw [hi]; rfl⟩
  obtain rfl : t = loaded s o v w es := Host.Outcome.next.inj (ht.symm.trans (exec_long_of_access h hkind.1 hkind.2 hw))
  exact loaded_keeps h.group hq hc hl v w es

end Sys2Proof
end

section
/-!
SUPPORT. Calls and returns whose targets are well, and whose frames can be written or read (R229 to R231).
-/

namespace Sys2Proof.Claims

open Sys2Proof.Machine

/-! ### Frames -/

/-- Frames that all translate are those of the lanes, in their order. -/
theorem frames_lanes {s : State} {e : Env} {k : AccKind} {depth : Nat → Nat} {ls : List Nat} (h : (s.frames e k depth ls).2.2 = []) :
    (s.frames e k depth ls).2.1.map Prod.fst = ls := by
  induction ls generalizing s with
  | nil => rfl
  | cons l ls ih =>
    rw [State.frames] at h ⊢
    generalize s.transAcc e.g (s.privVa e.g l (s.privSize e.g - 16 * (depth l + 1))) k = r at h ⊢
    split at h
    · rw [List.map_cons, ih h]
    · cases h

theorem fullFrames_eq_nil {s : State} {e : Env} {ls : List Nat} (h : ∀ l ∈ ls, 16 * ((e.g.lane l).depth + 1) ≤ s.privSize e.g) :
    s.fullFrames e ls = [] :=
  List.filter_eq_nil_iff.2 fun l hl => by simpa using h l hl

/-! ### Calls -/

/-- A call whose targets are well and whose frames have room and can be written (R230). -/
theorem callLanes_of_framed {s t : State} {e : Env} {prio : BitVec 8} {ts : List (Nat × Nat)} {faults : List (Nat × List Nat)}
    (hlanes : ts.map Prod.fst = e.act) (hfetch : s.fetchTargets e.g targetOk ts = (t, [])) (hframed : Framed s t e .write 1)
    (hfaults : ∀ f ∈ faults, f.2 = []) :
    s.callLanes e prio (ts.map fun t => (t.1, t.2, false)) faults = called t e prio ts := by
  obtain ⟨hroom, hframes⟩ := hframed
  have hfull := fullFrames_eq_nil (hroom rfl)
  have hwritten := frames_lanes hframes
  simp only [one_ne_zero, if_false] at hframes hwritten
  have hin : ∀ x ∈ ts, e.act.contains x.1 = true := fun x hx => by
    simpa using hlanes ▸ List.mem_map_of_mem hx
  have hkeep : (t.frames e .write (fun l => (e.g.lane l).depth) e.act).2.1.filter (fun f => e.act.contains f.1) =
      (t.frames e .write (fun l => (e.g.lane l).depth) e.act).2.1 :=
    List.filter_eq_self.2 fun f hf => by simpa using hwritten ▸ List.mem_map_of_mem hf
  have hgo : ((ts.map fun t => (t.1, t.2, false)).filter fun t => e.act.contains t.1).map (fun t => (t.1, t.2.1)) = ts := by
    rw [List.filter_eq_self.2 fun x hx => ?_, List.map_map]
    · exact List.map_id _
    · obtain ⟨y, hy, rfl⟩ := List.mem_map.1 hx
      exact hin y hy
  rw [State.callLanes, timely_targets, hfetch]
  simp only [timely_lanes, hlanes, List.any_nil, Bool.not_false, List.filter_true, hfull, List.contains_nil, hframes, List.append_nil,
    List.find?_nil, List.filterMap_none, List.head?_nil, Option.any_none]
  rw [jump_of_none fun f hf => ?_]
  · simp only [hkeep, hgo, hwritten]
    rfl
  · rcases List.mem_append.1 hf with hf | hf
    · exact hfaults f hf
    · rw [List.mem_singleton.1 hf]

section Acts

variable {s t : State} {h : Hdr} {e : Env}

theorem exec_call_of_framed {o : BraOps} (ha : Acts s h e) (hfetch : s.fetchTargets e.g targetOk (branchTargets e o.offset) = (t, []))
    (hframed : Framed s t e .write 1) : exec (.call h o) s = .next (called t e o.prio (branchTargets e o.offset)) := by
  have hlanes : (branchTargets e o.offset).map Prod.fst = e.act := by
    rw [branchTargets, List.map_map]
    exact List.map_id _
  show execCall h o s = _
  rw [execCall, State.withEnv_of ha.issue ha.active, callLanes_of_framed hlanes hfetch hframed (by simp)]

/-- The targets that lanes read in time from a v pair. -/
theorem pairTargets_of_reads {va : Nat} (hr : Reads s h e [] [Arg.v .i64 va] s [[]])
    (htime : ∀ l ∈ e.act, (s.readReg e.g true 0 l (.v va)).haz = false)
    (k : Env → State → List (Nat × Nat × Bool) → List (Nat × List Nat) → State) :
    s.pairTargets h va k = k e s
      ((e.act.map fun l => (l, (s.readReg e.g true 0 l (.v va)).val)).map fun t => (t.1, t.2, false)) [(0x2130, [])] := by
  obtain ⟨⟨henv, hact, hlost⟩, hwithin, hpops, htags⟩ := hr
  have hrow : ∀ l ∈ e.act, ((l, (s.readArgs e l 0 [Arg.v .i64 va] [[]]).map (Opnd.lose (e.lost.contains l))) : Row) =
      (l, [s.readReg e.g true 0 l (.v va)]) := fun l _ => by rw [hlost]; rfl
  have hrows : s.rows e [Arg.v .i64 va] [[]] = e.act.map fun l => (l, [s.readReg e.g true 0 l (.v va)]) := List.map_congr_left hrow
  rw [State.pairTargets, State.checked_of henv hact hwithin]
  simp only [State.readRows, hpops, htags]
  congr 1
  rw [hrows, List.map_map, List.map_map]
  refine List.map_congr_left fun l hl => ?_
  simp only [Function.comp, Row.haz, List.any_cons, List.any_nil, htime l hl, List.headD_cons, Bool.or_false]

theorem exec_callx_of_framed {o : BrxOps} (hr : Reads s h e [] [Arg.v .i64 o.va] s [[]])
    (htime : ∀ l ∈ e.act, (s.readReg e.g true 0 l (.v o.va)).haz = false)
    (hfetch : s.fetchTargets e.g targetOk (e.act.map fun l => (l, (s.readReg e.g true 0 l (.v o.va)).val)) = (t, []))
    (hframed : Framed s t e .write 1) :
    exec (.callx h o) s = .next (called t e o.prio (e.act.map fun l => (l, (s.readReg e.g true 0 l (.v o.va)).val))) := by
  have hlanes : (e.act.map fun l => (l, (s.readReg e.g true 0 l (.v o.va)).val)).map Prod.fst = e.act := by
    rw [List.map_map]
    exact List.map_id _
  show execCallx h o s = _
  rw [execCallx, pairTargets_of_reads hr htime, callLanes_of_framed hlanes hfetch hframed (by simp)]

/-- RET of lanes that each have a frame, read without poison, whose return PCs are well (R231). -/
theorem exec_ret_of_framed (ha : Acts s h e) (hdepth : ∀ l ∈ e.act, (e.g.lane l).depth ≠ 0) (hframed : Framed s s e .read 0)
    {u : State} {fs : List (Nat × Nat × Option (Nat × Nat))}
    (hread : (s.frames e .read (fun l => (e.g.lane l).depth - 1) e.act).1.readFrames e
      (s.frames e .read (fun l => (e.g.lane l).depth - 1) e.act).2.1 = (u, fs))
    (hclean : ∀ f ∈ fs, f.2.2 = none)
    (hfetch : u.fetchTargets e.g Line.wellFormed (fs.map fun f => (f.1, slice f.2.1 0 64)) = (t, [])) :
    exec (.ret h) s = .next (t.modLanes e.g.gid e.act fun i l =>
      let f := (fs.find? fun f => f.1 == i).elim 0 fun f => f.2.1
      { l with pc := BitVec.ofNat 64 (slice f 0 64), prio := BitVec.ofNat 8 (slice f 64 8), depth := l.depth - 1 }) := by
  have hframes : (s.frames e .read (fun l => (e.g.lane l).depth - 1) e.act).2.2 = [] := hframed.2
  have hless : e.frameless = [] := List.filter_eq_nil_iff.2 fun l hl => by simpa using hdepth l hl
  have hpoison : fs.findSome? (fun f => f.2.2) = none := List.findSome?_eq_none_iff.2 hclean
  have hlow : ∀ f, BitVec.ofNat 64 (slice f 0 64) = BitVec.ofNat 64 f := fun f => by
    apply BitVec.eq_of_toNat_eq
    simp [slice]
  show execRet h s = _
  rw [execRet, State.withEnv_of ha.issue ha.active, hless, List.isEmpty_nil, if_pos rfl, State.retLanes]
  simp only [hread, hpoison, hframes, hfetch, List.append_nil, List.find?_nil, List.filterMap_none, hlow]
  rw [jump_of_none (by simp)]

end Acts

end Sys2Proof.Claims

namespace Sys2Proof

open Sys2Proof.Machine Sys2Proof.Claims

/-- Settles O25: targets and frames without a failure leave a jump of all lanes, with their frames written or read. -/
theorem callsAndReturns : Obligations.CallsAndReturns := by
  refine ⟨fun s h o e t ha hfetch => exec_call_of_framed ha hfetch, fun s h o e t hr => ?_, fun s h e t ha hdepth hframed => ?_⟩
  · intro ts htime hfetch hframed
    exact exec_callx_of_framed hr htime hfetch hframed
  · intro r fs hclean hfetch
    exact exec_ret_of_framed ha hdepth hframed (Prod.ext rfl rfl) hclean hfetch

end Sys2Proof
end

section
/-!
SUPPORT. LDU, and the cache and bank forms, as they issue (R288, R298 to R302).
-/

namespace Sys2Proof.Claims

open Sys2Proof.Machine

/-- Where `active` is not empty and every guard was read in time, some lane is sure. -/
theorem Acts.some_sure {s : State} {h : Hdr} {e : Env} (ha : Acts s h e) : e.sure = true := by
  obtain ⟨l, ls, hls⟩ := List.exists_cons_of_ne_nil ha.active
  simp [Env.sure, ha.sure, hls]

/-- The operation of an LDU: one access of the lowest lane at address `va`, all operands read in time. -/
def lduOp (s : State) (e : Env) (h : Hdr) (o : LoadOps) (us : List MUnit) (va : Nat) : Op :=
  { e.op s h (.ldu h o) with
    lvals := e.act.map fun l => (l, [0])
    accs := [⟨e.low, us, va⟩] }

section Acts

variable {s u : State} {h : Hdr} {e : Env} (ha : Acts s h e)
include ha

/-- LDU of an address in order, read in time, goes out for all lanes at once (R288). -/
theorem exec_ldu_of_acts {o : LoadOps} {t : Take} {us : List MUnit} {a : Nat}
    (hcodes : e.g.codesFault (runCodes o.d (if o.one then 1 else accessRegs o.ty o.vec) ++
      (addrArgs false o.base o.off).flatMap Arg.codes) = none)
    (ht : s.takeOf e.g = some t) (hbase : (s.uni e .z32 o.base).haz = false) (hoff : (s.uni e .i32 o.off).haz = false)
    (hsum : wrap 32 ((s.uni e .z32 o.base).val + signed 32 (s.uni e .i32 o.off).val) = a)
    (hsize : a + accessBytes o.ty o.vec o.one ≤ t.slate.constSize)
    (halign : a % (if isSix o.ty then 4 else accessBytes o.ty o.vec o.one) = 0)
    (hloc : s.locLane e.g .global .read e.low (t.slate.constBase + a) (memUnits (isSix o.ty) (accessBytes o.ty o.vec o.one)) =
      (u, us, none, false)) :
    exec (.ldu h o) s = .next ((u.launch e (lduOp u e h o us (t.slate.constBase + a))).unsettle
      (lduOp u e h o us (t.slate.constBase + a)) (runCodes o.d (if o.one then 1 else accessRegs o.ty o.vec))) := by
  show execLdu h o s = _
  rw [execLdu, State.checked_of ha.issue ha.active hcodes, ht]
  simp only [hsum, hbase, hoff, ha.some_sure, Bool.not_true, Bool.or_false, Bool.not_false, Bool.true_and, decide_eq_true_eq,
    if_neg (Nat.not_lt.2 hsize), halign, bne_self_eq_false, Bool.false_eq_true, if_false, hloc, State.settleLanes_nil, List.isEmpty_iff,
    ha.active, undefineLost_of_sure ha.sure, ha.sure, List.contains_nil]
  rfl

/-- PREF of each lane whose operands pass the tag check, one after the other (R298). -/
theorem exec_pref_of_acts {o : PrefOps} {args : List Arg} {qs : List (List (Word × Nat))}
    (hargs : [Arg.reg (if MemMode.space o.mode = .global then .i64 else .z32) o.base, Arg.of .i32 o.off] = args)
    (hcodes : e.g.codesFault (args.flatMap Arg.codes) = none) (hpops : s.popArgs e args = (u, qs)) :
    exec (.pref h o) s = .next ((s.rows e args qs).foldl (fun (s : State) r =>
      if tagsOk args r.2 then s.prefetch e.g o r.1 (rowAddr (MemMode.space o.mode == .global) r) else s) u) := by
  show execPref h o s = _
  rw [execPref, State.withEnv_of ha.issue ha.active]
  simp only [hargs, hcodes, Option.isSome_none, Bool.false_eq_true, if_false, State.readRows, hpops]

/-- Range maintenance goes out, or has no effect for a count of 0 (R299). -/
theorem issueMaint_of_acts (hcore : e.g.onStack = false) {o : MaintOps}
    (hcodes : e.g.codesFault ([640 + o.sa, 641 + o.sa] ++ (Arg.of .z32 o.n).codes) = none)
    (hrange : (s.uni e .z32 o.n).val ≠ 0 → s.uniS e true o.sa < 2 ^ 52) (i : Instr) :
    s.issueMaint h i o = if (s.uni e .z32 o.n).val = 0 then s
      else s.launch e { e.op s h i with vals := [s.uniS e true o.sa, (s.uni e .z32 o.n).val] } := by
  rw [State.issueMaint, State.coreOnly_of ha.issue hcore, State.checked_of ha.issue ha.active hcodes]
  dsimp only
  split_ifs with hn hfar
  · rfl
  · exact absurd (hrange hn) (Nat.not_lt.2 hfar)
  · rfl

theorem exec_bmode_of_acts (hcore : e.g.onStack = false) {o : BmodeOps} (hbank : o.b.toNat < e.g.banks.length) :
    exec (.bmode h o) s = .next (s.launch e (e.op s h (.bmode h o))) := by
  show execBmode h o s = _
  rw [execBmode, State.coreOnly_of ha.issue hcore, State.withEnv_of ha.issue ha.active, if_neg (Nat.not_le.2 hbank)]

end Acts

/-- PRES reads presence at issue and writes it 4 clocks later (R302). -/
theorem exec_pres_of_reads {s t : State} {h : Hdr} {e : Env} {o : PresOps} {qs : List (List (Word × Nat))}
    (hr : Reads s h e [] (addrArgs false o.base o.off) t qs)
    (haddr : ∀ r ∈ s.rows e (addrArgs false o.base o.off) qs, ∃ x, s.scratchLoc e.g (rowAddr false r) = .ok x) :
    exec (.pres h o) s = .next (t.addOp { e.op s h (.pres h o) with
      writes := s.predOut o.pd.toNat (fun r => s.presentAt e.g r.1 (rowAddr false r)) (s.rows e (addrArgs false o.base o.off) qs)
      due := some (s.now e.g + 4) }) := by
  obtain ⟨⟨henv, hact, hlost⟩, hwithin, hpops, htags⟩ := hr
  show execPres h o s = _
  rw [execPres, State.checked_of henv hact hwithin]
  simp only [hpops, hlost, List.contains_nil, Bool.not_false, List.filter_true, List.filter_nil]
  rw [List.filterMap_eq_nil_iff.2 fun r hr => ?_]
  · exact congrArg Host.Outcome.next (undefineLost_of_sure rfl _ _ _ _)
  · obtain ⟨x, hx⟩ := haddr r hr
    simp only [tagsOk_of_badTags htags hr, hx, Bool.not_true, Bool.false_eq_true, if_false]

end Sys2Proof.Claims

namespace Sys2Proof

open Sys2Proof.Machine Sys2Proof.Claims

/-- Settles O33: one lemma for each form, by what it checks before it goes out. -/
theorem otherMemoryFormsIssue : Obligations.OtherMemoryFormsIssue := by
  refine ⟨fun s h o e t u us ha => ?_, fun s h o e t qs ha => ?_, fun s h o e ha hcore => ?_,
    fun s h o e ha hcore => exec_bmode_of_acts ha hcore, fun s h o e t qs hr => exec_pres_of_reads hr⟩
  · intro args dst n a hcodes ht hbase hoff hsize halign hloc
    exact exec_ldu_of_acts ha hcodes ht hbase hoff rfl hsize halign hloc
  · intro sp args hcodes hpops
    exact exec_pref_of_acts ha rfl hcodes hpops
  · intro n hcodes hrange out
    have hgo : ∀ i, Host.Outcome.next (s.issueMaint h i o) = out i := fun i =>
      congrArg Host.Outcome.next (issueMaint_of_acts ha hcore hcodes hrange i)
    exact ⟨hgo _, hgo _, hgo _⟩

end Sys2Proof
end

section
/-!
SUPPORT. LDT and STT of descriptors, coordinates and elements in order (R128, R129, R290, R291).
-/

namespace Sys2Proof.Claims

open Sys2Proof.Machine

/-! ### Elements of a run -/

/-- What is listed of a run lies in bounds, at its address (R129). -/
theorem mem_laneElems {w n i : Nat} {xs : List Int} {a : Option Nat} (h : (i, a) ∈ laneElems w xs n) :
    i < n ∧ a = elemAddr w (runCoord xs i) ∧ inBounds w (runCoord xs i) = true := by
  obtain ⟨j, hj, hel⟩ := List.mem_filterMap.1 h
  split at hel
  · rename_i hin
    cases hel
    exact ⟨List.mem_range.1 hj, rfl, hin⟩
  · cases hel

theorem coord_of_inBounds {w : Nat} {xs : List Int} (h : inBounds w xs = true) {i : Nat} (hi : i < descRank w) :
    0 ≤ xs.getD i 0 ∧ xs.getD i 0 < descExt w i := by
  have hpart := List.all_eq_true.1 h i (List.mem_range.2 hi)
  simp only [Bool.and_eq_true, decide_eq_true_eq] at hpart
  exact hpart.1

/-- Elements that all have an address: their addresses are what is listed. -/
theorem filterMap_snd_eq {xs : List (Nat × Option Nat)} (h : ∀ x ∈ xs, x.2 ≠ none) :
    xs.filterMap Prod.snd = xs.map fun x => x.2.getD 0 := by
  rw [← List.filterMap_eq_map]
  refine List.filterMap_congr fun x hx => ?_
  obtain ⟨a, ha⟩ := Option.ne_none_iff_exists'.1 (h x hx)
  simp only [ha, Function.comp, Option.getD_some]

theorem headD_map_getD (xs : List (Nat × Option Nat)) : (xs.map fun x => x.2.getD 0).headD 0 = (xs.head?.bind Prod.snd).getD 0 := by
  cases xs with
  | nil => rfl
  | cons x xs => rfl

/-! ### Where the lanes access -/

/-- The operands of a tensor access: its coordinates, and for STT its data (R290). -/
def tensorArgs (w vc : Nat) (vs : List Nat) : List Arg :=
  (List.range (descRank w)).map (fun j => Arg.v .i32 (vc + j)) ++ vs.map fun r => Arg.any .b32 (.reg (.v r))

/-- One lane's elements are located after those of the lanes before it. -/
def locElems (e : Env) (k : AccKind) (size : Nat) (a : State × List Acc × List (Nat × Nat × Nat)) (x : Nat × List (Nat × Option Nat)) :
    State × List Acc × List (Nat × Nat × Nat) :=
  let q := a.1.locLane e.g .global k x.1 0 (x.2.map fun y => (y.2.getD 0, size))
  match q.2.2.1 with
  | some f => (q.1, a.2.1, a.2.2 ++ [(x.1, f.1, f.2)])
  | none => (q.1, a.2.1 ++ [⟨x.1, q.2.1, (x.2.head?.bind Prod.snd).getD 0⟩], a.2.2)

/-- Every access located is that of a lane asked for, or was there before. -/
theorem lane_mem_of_mem_locElems {e : Env} {k : AccKind} {size : Nat} {xs : List (Nat × List (Nat × Option Nat))}
    {a : State × List Acc × List (Nat × Nat × Nat)} {y : Acc} (h : y ∈ (xs.foldl (locElems e k size) a).2.1) :
    y ∈ a.2.1 ∨ y.lane ∈ xs.map Prod.fst := by
  induction xs generalizing a with
  | nil => exact .inl h
  | cons x xs ih =>
    rcases ih h with hy | hy
    · unfold locElems at hy
      dsimp only at hy
      split at hy
      · exact .inl hy
      · rcases List.mem_append.1 hy with hy | hy
        · exact .inl hy
        · exact .inr (by rw [List.mem_singleton.1 hy]; exact List.mem_cons_self)
    · exact .inr (List.mem_cons_of_mem _ hy)

/-! ### The access goes out -/

/-- The elements of a lane's run that lie in bounds (R291). -/
def rowElems (w n : Nat) (r : Row) : List (Nat × Option Nat) := laneElems w (rowCoord r (descRank w)) n

/-- The operation of a tensor access: the descriptor, what each lane keeps, and where the lanes access. -/
def tensorOp (o : Op) (w n : Nat) (early : Bool) (rows : List Row) (accs : List Acc) : Op :=
  { o with
    vals := [w]
    lvals := rows.map fun r => tensorKeep w early r (rowElems w n r)
    accs := accs }

/-- Operands in order raise no fault of a lane. -/
theorem tensorFault_eq_none {w va : Nat} {args : List Arg} {r : Row} {els : List (Nat × Option Nat)} (hdesc : descFault w = none)
    (htags : tagsOk args r.2 = true) (hdata : ∀ x ∈ r.2.drop (descRank w), x.tag = 0 ∨ x.tag = descTag w) (hels : ∀ x ∈ els, x.2 ≠ none) :
    tensorFault w va args r els = none := by
  have htag : (r.2.drop (descRank w)).any (fun o => !o.haz && o.tag != 0 && o.tag != descTag w) = false :=
    List.any_eq_false.2 fun x hx => by rcases hdata x hx with h | h <;> simp [h]
  have hels : els.any (fun y => y.2.isNone) = false := List.any_eq_false.2 fun x hx => by
    rw [Option.isNone_iff_eq_none]
    exact hels x hx
  simp [tensorFault, htags, htag, hels, hdesc]

/-- Lanes are located alike by steps that agree on the elements of each. -/
theorem foldl_locElems {e : Env} {k : AccKind} {size : Nat} {rows : List Row} {els : Row → List (Nat × Option Nat)}
    {f : State × List Acc × List (Nat × Nat × Nat) → Row × List (Nat × Option Nat) → State × List Acc × List (Nat × Nat × Nat)}
    (hf : ∀ a, ∀ r ∈ rows, f a (r, els r) = locElems e k size a (r.1, els r)) (a : State × List Acc × List (Nat × Nat × Nat)) :
    (rows.map fun r => (r, els r)).foldl f a = (rows.map fun r => (r.1, els r)).foldl (locElems e k size) a := by
  rw [List.foldl_map, List.foldl_map]
  exact List.foldl_ext _ _ _ hf

/-- The coordinates and data of `rows` are read and in order, and so are the elements of their runs of `n` (R128, R290, R291). -/
structure TensorReads (d : State) (e : Env) (w vc : Nat) (vs : List Nat) (n : Nat) (rows : List Row) : Prop where
  desc : descFault w = none
  fits : n ≠ 0
  room : vc + descRank w ≤ e.g.allot.v
  reads : d.readRows e (tensorArgs w vc vs) = (d, rows)
  tags : badTags (tensorArgs w vc vs) rows = []
  data : ∀ r ∈ rows, ∀ x ∈ r.2.drop (descRank w), x.tag = 0 ∨ x.tag = descTag w
  elems : ∀ r ∈ rows, ∀ x ∈ rowElems w n r, x.2 ≠ none

section TensorReads

variable {d u : State} {e : Env} {w vc n : Nat} {vs : List Nat} {rows : List Row}

theorem TensorReads.active (hr : TensorReads d e w vc vs n rows) {r : Row} (h : r ∈ rows) : e.act.contains r.1 = true := by
  obtain rfl : d.rows e (tensorArgs w vc vs) (d.popArgs e (tensorArgs w vc vs)).2 = rows := congrArg Prod.snd hr.reads
  simpa using fst_mem_act_of_mem_rows h

theorem TensorReads.noFault (hr : TensorReads d e w vc vs n rows) (va : Nat) :
    (rows.map fun r => (r, rowElems w n r)).filterMap (fun x =>
      (tensorFault w va (tensorArgs w vc vs) x.1 x.2).map fun f => (x.1.1, f)) = [] := by
  refine List.filterMap_eq_nil_iff.2 fun x hx => ?_
  obtain ⟨r, h, rfl⟩ := List.mem_map.1 hx
  rw [tensorFault_eq_none hr.desc (tagsOk_of_badTags hr.tags h) (hr.data r h) (hr.elems r h)]
  rfl

/-- The operation keeps every active lane, with all its elements. -/
theorem TensorReads.keep (hr : TensorReads d e w vc vs n rows) (early : Bool) :
    ((rows.map fun r => (r, rowElems w n r)).filter fun x => e.act.contains x.1.1).map
      (fun x => tensorKeep w early x.1 (x.2.filter fun y => y.2.isSome)) = rows.map fun r => tensorKeep w early r (rowElems w n r) := by
  rw [List.filter_eq_self.2 fun x hx => ?_, List.map_map]
  · refine List.map_congr_left fun r h => ?_
    rw [Function.comp, List.filter_eq_self.2 fun y hy => Option.isSome_iff_ne_none.2 (hr.elems r h y hy)]
  · obtain ⟨r, h, rfl⟩ := List.mem_map.1 hx
    exact hr.active h

/-- The accesses located are those of active lanes. -/
theorem TensorReads.filter_accs (hr : TensorReads d e w vc vs n rows) {k : AccKind} {accs : List Acc}
    (hloc : (rows.map fun r => (r.1, rowElems w n r)).foldl (locElems e k (descSize w)) (d, [], []) = (u, accs, [])) :
    accs.filter (fun a => e.act.contains a.lane) = accs := by
  refine List.filter_eq_self.2 fun a ha => ?_
  rcases lane_mem_of_mem_locElems (y := a) (by rw [hloc]; exact ha) with hnil | hlane
  · cases hnil
  · rw [List.map_map] at hlane
    obtain ⟨r, h, heq⟩ := List.mem_map.1 hlane
    exact heq ▸ hr.active h

/-- LDT and STT with their descriptor read, and every element of every lane located (R290, R291). -/
theorem tensorAt_of_located {o : Op} {va c : Nat} {dst : List Nat} {early : Bool} {lost : State} {accs : List Acc} {k : AccKind}
    (hact : e.act ≠ []) (hlost : e.lost = []) (hlanes : o.lanes = e.act) (hr : TensorReads d e w vc vs (4 * c / descSize w) rows)
    (hk : (if vs.isEmpty then AccKind.read else AccKind.write) = k)
    (hloc : (rows.map fun r => (r.1, rowElems w (4 * c / descSize w) r)).foldl (locElems e k (descSize w)) (d, [], []) = (u, accs, [])) :
    d.tensorAt e o va w c vc vs dst early lost =
      (u.launch e (tensorOp o w (4 * c / descSize w) early rows accs)).unsettle
        (tensorOp o w (4 * c / descSize w) early rows accs) dst := by
  have hnone := hr.noFault va
  have hkeep := hr.keep early
  have haccs := hr.filter_accs hloc
  obtain ⟨hdesc, hn, hroom, hrows, -, -, hels⟩ := hr
  rw [State.tensorAt]
  simp only [hk, hdesc, reduceCtorEq, beq_iff_eq, if_false, hn, if_neg (Nat.not_lt.2 hroom)]
  simp only [tensorArgs, rowElems] at hrows hnone hkeep hloc hels ⊢
  simp only [hrows, hlost, List.contains_nil, Bool.not_false, List.filter_true, hnone]
  rw [foldl_locElems (e := e) (k := k) (size := descSize w), hloc]
  · simp only [List.filter_nil, State.settleLanes_nil, List.isEmpty_iff, hact, if_false, undefineLost_of_sure hlost, haccs, hkeep]
    rw [← hlanes]
    rfl
  · intro a r hr
    simp only [locElems, filterMap_snd_eq (hels r hr), headD_map_getD, List.map_map]
    rfl

end TensorReads

/-- The frame of LDT and STT: the descriptor at an aligned address is read, and the access goes on with it (R290). -/
theorem tensor_of_desc {s d : State} {h : Hdr} {e : Env} {i : Instr} {c desc vc w : Nat} {dst vs : List Nat} {data : Option Nat}
    (hvs : (List.range (if data.isSome then c else 0)).map (fun j => data.getD 0 + j) = vs) (ha : Acts s h e)
    (hcodes : e.g.codesFault (dst ++ [640 + desc, 641 + desc, vc] ++ vs) = none) (hfar : s.uniS e true desc < 2 ^ 52)
    (halign : s.uniS e true desc % 64 = 0) (hread : s.readDesc e (s.uniS e true desc) = (d, .ok w)) :
    s.tensor h i c desc vc dst data = d.tensorAt e (e.op s h i) (s.uniS e true desc) w c vc vs dst (s.early e [640 + desc, 641 + desc])
      (s.undefine e (e.op s h i) dst 0) := by
  rw [State.tensor, hvs, State.checked_of ha.issue ha.active hcodes]
  simp only [if_neg (Nat.not_le.2 hfar), halign, ne_eq, not_true_eq_false, if_false, hread]

theorem vecCount_ne_zero (v : BitVec 2) : vecCount v ≠ 0 := by
  unfold vecCount
  split
  · decide
  · decide
  · decide

/-- STT has data registers, so that it writes. -/
theorem sttKind_eq_write (o : SttOps) :
    (if ((List.range (vecCount o.vec)).map fun j => o.vs + j).isEmpty then AccKind.read else AccKind.write) = .write :=
  if_neg (by simpa using vecCount_ne_zero o.vec)

end Sys2Proof.Claims

namespace Sys2Proof

open Sys2Proof.Machine Sys2Proof.Claims

/-- Settles O34: with the descriptor, the coordinates and the elements in order, the frame of LDT and STT locates every lane's elements and
launches the access; an element listed lies in bounds. -/
theorem tensorAccessesIssue : Obligations.TensorAccessesIssue := by
  refine ⟨⟨fun h o s e d w rows locs u accs ha => ?_, fun h o s e d w rows locs u accs ha => ?_⟩, fun w xs n e a hmem => ?_⟩
  · intro va early n args hcodes hfar halign hread hdesc hn hroom hrows htags hdata hels hlocs hloc op
    subst hlocs
    exact congrArg Host.Outcome.next ((tensor_of_desc rfl ha hcodes hfar halign hread).trans
      (tensorAt_of_located ha.active ha.sure rfl ⟨hdesc, hn, hroom, hrows, htags, hdata, hels⟩ rfl hloc))
  · intro va early n args hcodes hfar halign hread hdesc hn hroom hrows htags hdata hels hlocs hloc op
    subst hlocs
    exact congrArg Host.Outcome.next ((tensor_of_desc rfl ha hcodes hfar halign hread).trans
      (tensorAt_of_located ha.active ha.sure rfl ⟨hdesc, hn, hroom, hrows, htags, hdata, hels⟩ (sttKind_eq_write o) hloc))
  · obtain ⟨hlt, haddr, hin⟩ := mem_laneElems hmem
    exact ⟨hlt, haddr, hin, fun i hi => coord_of_inBounds hin hi⟩

end Sys2Proof
end

section
/-!
SUPPORT. Barrier words (R152, R153, R313): what an arrival notes of a status and of too great a count, and how it counts down.
-/

namespace Sys2Proof.Claims

open Sys2Proof.Machine

/-! ### Fields beside a field that is replaced -/

theorem slice_setBits_of_outside (x v : Nat) {a n b m : Nat} (h : b + m ≤ a ∨ a + n ≤ b) : slice (setBits x a n v) b m = slice x b m := by
  refine Nat.eq_of_testBit_eq fun i => ?_
  simp only [slice, Nat.testBit_mod_two_pow, Nat.testBit_div_two_pow]
  by_cases hi : i < m
  · rw [← bitAt_eq_testBit, ← bitAt_eq_testBit, bitAt_setBits_of_outside (by omega)]
  · simp only [hi, decide_false, Bool.false_and]

/-- The error bit is set. -/
theorem bwError_setBits_error (w : Nat) : bwError (setBits w 49 1 1) = true := by
  rw [bwError, bitAt_setBits_one, if_pos rfl]
  decide

theorem bwError_setBits_of_outside (w v : Nat) {a n : Nat} (h : 49 < a ∨ a + n ≤ 49) : bwError (setBits w a n v) = bwError w :=
  bitAt_setBits_of_outside (by omega)

/-! ### Noting a code (R153) -/

/-- `t` is `w` with code `e` noted, 0 being no code: the error bit is set, the first code stands, and the bits below are as they were. -/
structure Notes (w e t : Nat) : Prop where
  below : ∀ b m, b + m ≤ 49 → slice t b m = slice w b m
  error : bwError t = (bwError w || e != 0)
  code : slice t 50 14 = if bwError w = true ∨ e = 0 then slice w 50 14 else e

theorem Notes.phase {w e t : Nat} (h : Notes w e t) : bwPhase t = bwPhase w := h.below 48 1 (by decide)

theorem Notes.refl (w : Nat) : Notes w 0 w := ⟨fun _ _ _ => rfl, by simp, by simp⟩

/-- An arrival's status noted. -/
def bwNote (w e : Nat) : Nat := if e = 0 then w else setBits (if bwError w then w else setBits w 50 14 e) 49 1 1

theorem notes_bwNote (w : Nat) {e : Nat} (he : e < 2 ^ 14) : Notes w e (bwNote w e) := by
  by_cases he0 : e = 0
  · subst he0
    exact Notes.refl w
  · rw [bwNote, if_neg he0]
    refine ⟨fun b m hbm => ?_, by simp [bwError_setBits_error, he0], ?_⟩
    · rw [slice_setBits_of_outside _ _ (.inl hbm)]
      split
      · rfl
      · exact slice_setBits_of_outside _ _ (.inl (by omega))
    · rw [slice_setBits_of_outside _ _ (.inr (by decide))]
      by_cases herr : bwError w = true
      · simp only [herr, if_true, true_or]
      · simp only [herr, he0, or_self, if_false, slice_setBits, Nat.mod_eq_of_lt he, Bool.false_eq_true]

/-- A count greater than the pending count noted. -/
def bwOverrun (w n : Nat) : Nat := if slice w 24 24 < n ∧ !bwError w then setBits (setBits w 49 1 1) 50 14 0x2152 else w

theorem notes_bwOverrun (w n : Nat) : Notes w (if slice w 24 24 < n then 0x2152 else 0) (bwOverrun w n) := by
  by_cases hn : slice w 24 24 < n
  · rw [if_pos hn]
    cases herr : bwError w with
    | true =>
      rw [bwOverrun, if_neg (by simp [herr])]
      exact ⟨fun _ _ _ => rfl, by simp [herr], by simp [herr]⟩
    | false =>
      rw [bwOverrun, if_pos (by simp [hn, herr])]
      refine ⟨fun b m hbm => ?_, ?_, ?_⟩
      · rw [slice_setBits_of_outside _ _ (.inl (by omega)), slice_setBits_of_outside _ _ (.inl hbm)]
      · rw [bwError_setBits_of_outside _ _ (.inl (by decide)), bwError_setBits_error, herr]
        rfl
      · rw [slice_setBits, herr, if_neg (by decide)]
        rfl
  · rw [if_neg hn, bwOverrun, if_neg (by simp [hn])]
    exact Notes.refl w

/-- Codes noted one after the other: the first that is one stands. -/
theorem Notes.trans {w a b e f : Nat} (ha : Notes w e a) (hb : Notes a f b) : Notes w (if e = 0 then f else e) b := by
  refine ⟨fun k m hkm => (hb.below k m hkm).trans (ha.below k m hkm), ?_, ?_⟩
  · rw [hb.error, ha.error]
    by_cases he : e = 0 <;> simp [he]
  · rw [hb.code, ha.code, ha.error]
    by_cases he : e = 0 <;> simp [he]

/-! ### Counting down (R153) -/

/-- The pending count less `n`; at zero the phase flips and the count starts again. -/
def bwCount (w n : Nat) : Nat :=
  if slice w 24 24 ≤ n then setBits (setBits w 24 24 (slice w 0 24)) 48 1 (1 - bwPhase w) else setBits w 24 24 (slice w 24 24 - n)

theorem bwCount_of_le {w n : Nat} (h : slice w 24 24 ≤ n) :
    bwCount w n = setBits (setBits w 24 24 (slice w 0 24)) 48 1 (1 - bwPhase w) := if_pos h

theorem bwCount_of_lt {w n : Nat} (h : n < slice w 24 24) : bwCount w n = setBits w 24 24 (slice w 24 24 - n) := if_neg (Nat.not_le.2 h)

theorem slice_bwCount_of_outside (w n : Nat) {b m : Nat} (h : b + m ≤ 24 ∨ 49 ≤ b) : slice (bwCount w n) b m = slice w b m := by
  rcases Nat.lt_or_ge n (slice w 24 24) with hn | hn
  · rw [bwCount_of_lt hn, slice_setBits_of_outside _ _ (by omega)]
  · rw [bwCount_of_le hn, slice_setBits_of_outside _ _ (by omega), slice_setBits_of_outside _ _ (by omega)]

theorem bwError_bwCount (w n : Nat) : bwError (bwCount w n) = bwError w :=
  congrArg (· == 1) (slice_bwCount_of_outside w n (b := 49) (m := 1) (by decide))

/-- Short of the pending count, what is left is pending, and the phase stays. -/
theorem slice_phase_bwCount_of_lt {w n : Nat} (h : n < slice w 24 24) :
    slice (bwCount w n) 24 24 = slice w 24 24 - n ∧ bwPhase (bwCount w n) = bwPhase w := by
  rw [bwCount_of_lt h, slice_setBits, Nat.mod_eq_of_lt ((Nat.sub_le _ _).trans_lt (slice_lt ..))]
  exact ⟨rfl, slice_setBits_of_outside _ _ (.inr (by decide))⟩

/-- With the pending count the word starts again in its other phase. -/
theorem slice_phase_bwCount_of_le {w n : Nat} (h : slice w 24 24 ≤ n) :
    slice (bwCount w n) 24 24 = slice w 0 24 ∧ bwPhase (bwCount w n) = 1 - bwPhase w := by
  rw [bwCount_of_le h]
  refine ⟨?_, (slice_setBits ..).trans (Nat.mod_eq_of_lt (by omega))⟩
  rw [slice_setBits_of_outside _ _ (.inl (by decide)), slice_setBits, Nat.mod_eq_of_lt (slice_lt ..)]

/-! ### An arrival -/

/-- An arrival notes its status and then too great a count, and counts down. -/
theorem bwArrive_eq (w n e : Nat) : bwArrive w n e = bwCount (bwOverrun (bwNote w e) n) n := by
  rcases Nat.lt_or_ge n (slice (bwNote w e) 24 24) with hn | hn
  · have hstay : bwOverrun (bwNote w e) n = bwNote w e := if_neg fun h => Nat.lt_asymm hn h.1
    rw [hstay, bwCount_of_lt hn]
    exact if_neg (Nat.not_le.2 hn)
  · have hpend : slice (bwOverrun (bwNote w e) n) 24 24 = slice (bwNote w e) 24 24 := (notes_bwOverrun _ n).below 24 24 (by decide)
    rw [bwCount_of_le (hpend.trans_le hn)]
    exact if_pos hn

/-- The code of an arrival: its status, or else that its count is too great. -/
def arrivalCode (w n e : Nat) : Nat := if e = 0 then if slice w 24 24 < n then 0x2152 else 0 else e

theorem arrivalCode_bne_zero (w n e : Nat) : (arrivalCode w n e != 0) = (e != 0 || decide (slice w 24 24 < n)) := by
  rw [arrivalCode]
  split_ifs with he hn
  · simp [hn]
  · simp [he, hn]
  · simp [he]

/-- What the arrival counts down notes its code. -/
theorem notes_arrivalCode (w n : Nat) {e : Nat} (he : e < 2 ^ 14) : Notes w (arrivalCode w n e) (bwOverrun (bwNote w e) n) := by
  have hnote := notes_bwNote w he
  rw [arrivalCode, ← hnote.below 24 24 (by decide)]
  exact hnote.trans (notes_bwOverrun _ n)

/-- ERRACK clears the error bit and the code, and nothing else (R313). -/
theorem bwAck_clears (w : Nat) : bwError (bwAck w) = false ∧ bwPhase (bwAck w) = bwPhase w ∧ slice (bwAck w) 0 48 = slice w 0 48 := by
  rw [bwAck]
  cases herr : bwError w with
  | false => exact ⟨herr, rfl, rfl⟩
  | true =>
    refine ⟨?_, slice_setBits_of_outside _ _ (.inl (by decide)), slice_setBits_of_outside _ _ (.inl (by decide))⟩
    have hcleared : setBits w 49 15 0 / 2 ^ 49 % 2 ^ 15 = 0 := slice_setBits w 49 15 0
    have hbit : slice (setBits w 49 15 0) 49 1 = 0 := by
      rw [slice]
      omega
    rw [if_pos rfl, bwError, bitAt, hbit]
    rfl

end Sys2Proof.Claims

namespace Sys2Proof

open Sys2Proof.Machine Sys2Proof.Claims

/-- Settles O39: the arrival is a code noted in the bits from the error bit up, and a count in the bits below them. -/
theorem arrivalsCount : Obligations.ArrivalsCount := by
  intro w n e _ he
  have hnotes := notes_arrivalCode w n he
  rw [bwArrive_eq]
  generalize bwOverrun (bwNote w e) n = t at hnotes
  have hcount : slice t 0 24 = slice w 0 24 := hnotes.below 0 24 (by decide)
  have hpend : slice t 24 24 = slice w 24 24 := hnotes.below 24 24 (by decide)
  have hcode := (slice_bwCount_of_outside t n (b := 50) (m := 14) (by decide)).trans hnotes.code
  refine ⟨(slice_bwCount_of_outside t n (by decide)).trans hcount, fun hn => ?_, fun hn => ?_, ?_, fun herr => ?_, fun herr he0 => ?_,
    fun herr he0 hn => ?_, bwAck_clears w⟩
  · rw [← hpend, ← hnotes.phase]
    exact slice_phase_bwCount_of_lt (hn.trans_eq hpend.symm)
  · rw [← hcount, ← hnotes.phase]
    exact slice_phase_bwCount_of_le (hpend.trans_le hn)
  · rw [bwError_bwCount, hnotes.error, arrivalCode_bne_zero, Bool.or_assoc]
  · rw [hcode, if_pos (.inl herr)]
  · rw [hcode, arrivalCode, if_neg he0, if_neg (by simp [herr, he0])]
  · rw [hcode, arrivalCode, if_pos he0, if_pos hn, if_neg (by simp [herr])]

end Sys2Proof
end

section
/-!
SUPPORT. Barrier words and semaphores as they issue, and the waits on them (R305, R310 to R315, R510).
-/

namespace Sys2Proof.Claims

open Sys2Proof.Machine

/-! ### Issue (R305) -/

theorem countFault_of_mem {n : Nat} (h : n ≠ 0 ∧ n < 2 ^ 24) (code : Nat) : countFault code n = none :=
  if_neg fun hbad => hbad.elim h.1 (Nat.not_le.2 h.2)

/-- The operation of a word instruction whose word is found: one access of the lowest lane. -/
def wordOp (s u : State) (e : Env) (h : Hdr) (i : Instr) (w : WordRef) (n : Src) (us : List MUnit) (late : Bool) : Op :=
  { e.op u h i with
    accs := [⟨e.low, us, s.wordAddr e w⟩]
    vals := [(s.uni e .z32 n).val, s.wordAddr e w]
    lvals := e.act.map fun l => (l, [bit ((s.uni e .z32 n).haz || s.wordHaz e w) + 2 * bit (s.wordHaz e w)])
    status := bit late }

/-- The frame of a word instruction: with its operand and its address in order and its word found, it holds its lanes or goes out. -/
theorem issueWord_of_found {s u : State} {h : Hdr} {i : Instr} {w : WordRef} {size : Nat} {k : AccKind} {n : Src} {bad : Nat → Option Nat}
    {dst : List Nat} {e : Env} {us : List MUnit} {late : Bool} (ha : Acts s h e)
    (hcodes : e.g.codesFault (dst.filter (fun c => c < 1024) ++ WordRef.codes w ++ (Arg.of .z32 n).codes) = none)
    (hok : bad (s.uni e .z32 n).val = none) (haddr : s.addrFault e.g (WordRef.space w) false size (s.wordAddr e w) = none)
    (hloc : s.locLane e.g (WordRef.space w) k e.low (s.wordAddr e w) [(0, size)] = (u, us, none, late)) (waits : Bool) :
    s.issueWord h i w size k n bad dst waits =
      (if waits then u.holdOp e (wordOp s u e h i w n us late) else u.launchOrHold e (wordOp s u e h i w n us late) late).unsettle
        (wordOp s u e h i w n us late) dst := by
  rw [State.issueWord, State.checked_of ha.issue ha.active hcodes]
  simp only [hok, haddr, hloc, Option.isSome_none, Bool.and_false, Bool.false_eq_true, if_false, State.settleLanes_nil, List.isEmpty_iff,
    ha.active, ha.sure, List.contains_nil, sure_of_acts ha, Bool.not_true, Bool.or_false, undefineLost_of_sure ha.sure]
  rfl

/-! ### Waits (R312, R315, R510) -/

/-- A wait whose word is found and present goes on with it. -/
theorem reachWord_of_present {s : State} {o : Op} {g : Group} {w : Warp} {ref : WordRef} {size : Nat} {acc : AccKind} {u : MUnit}
    (hloc : s.locUnit g (WordRef.space ref) acc (o.lanes.headD 0) (o.vals.getD 1 0) size = (s, .ok (some u)))
    (hpresent : s.presentUnit u = true) (k : State → MUnit → State) : s.reachWord o g w ref size acc k = k s u := by
  simp only [State.reachWord, hloc, hpresent, if_true]

section Waits

variable {s : State} {o : Op} {g : Group} {w : Warp} (ho : s.findOp o.id = some o) (hg : s.findGroup o.gid = some g)
  (hw : g.findWarp o.wid = some w) (htest : s.mayTest o = true)
include ho hg hw htest

theorem exec_bwwaitRetest_of_mayTest {h : Hdr} {x : BwwaitOps} (hi : o.instr = .bwwait h x) :
    exec (.bwwaitRetest o.id) s = .next (s.testBwwait o g w x) := by
  show execBwwaitRetest o.id s = _
  rw [execBwwaitRetest, ho]
  simp only [hi, hg, hw, htest, if_true]

theorem exec_semwaitRetry_of_mayTest {h : Hdr} {x : SemwaitOps} (hi : o.instr = .semwait h x) :
    exec (.semwaitRetry o.id) s = .next (s.trySemwait o g w x) := by
  show execSemwaitRetry o.id s = _
  rw [execSemwaitRetry, ho]
  simp only [hi, hg, hw, htest, if_true]

end Waits

end Sys2Proof.Claims

namespace Sys2Proof

open Sys2Proof.Machine Sys2Proof.Claims

/-- Settles O40: the six instructions by their shared issue, and the two waits by what they find at their word. -/
theorem wordOperationsIssue : Obligations.WordOperationsIssue := by
  refine ⟨⟨?_, ?_, ?_, ?_, ?_, ?_⟩, ?_, ?_⟩
  · intro h o s e u us late ha hcodes x addr hok haddr hloc op
    exact congrArg Host.Outcome.next (issueWord_of_found ha hcodes (countFault_of_mem hok _) haddr hloc _)
  · intro h o s e u us late ha hcodes x addr hok haddr hloc op
    exact congrArg Host.Outcome.next (issueWord_of_found ha hcodes (countFault_of_mem hok _) haddr hloc _)
  · intro h o s e u us late ha hcodes x addr _ haddr hloc op
    exact congrArg Host.Outcome.next (issueWord_of_found ha hcodes rfl haddr hloc _)
  · intro h o s e u us late ha hcodes x addr _ haddr hloc op
    exact congrArg Host.Outcome.next (issueWord_of_found (w := .global o.sa) ha hcodes rfl haddr hloc _)
  · intro h o s e u us late ha hcodes x addr _ haddr hloc op
    exact congrArg Host.Outcome.next (issueWord_of_found (w := .global o.sa) ha hcodes rfl haddr hloc _)
  · intro h o s e u us late ha hcodes x addr _ haddr hloc op
    exact congrArg Host.Outcome.next (issueWord_of_found ha hcodes rfl haddr hloc _)
  · intro s o g w h x u ho hg hw hi htest hearly hloc hpresent r v hwell o'
    rw [exec_bwwaitRetest_of_mayTest ho hg hw htest hi, State.testBwwait, reachWord_of_present hloc hpresent]
    refine congrArg Host.Outcome.next ((if_neg (ne_true_of_eq_false hwell)).trans ?_)
    by_cases hphase : bwPhase v = o.vals.headD 0 % 2
    · rw [if_pos hphase]
      exact if_neg (not_or.2 ⟨not_not.2 hphase, ne_true_of_eq_false hearly⟩)
    · rw [if_neg hphase]
      exact if_pos (.inl hphase)
  · intro s o g w h x u ho hg hw hi htest hloc hpresent n r v hwell c q o'
    rw [exec_semwaitRetry_of_mayTest ho hg hw htest hi, State.trySemwait, reachWord_of_present (ref := .global x.sa) hloc hpresent]
    exact congrArg Host.Outcome.next (if_neg (ne_true_of_eq_false hwell))

end Sys2Proof
end

section
/-!
SUPPORT. Fences, TRIGGER, TFLAG and barriers as they issue, and barriers that complete (R238, R305 to R309, R314).
-/

namespace Sys2Proof.Claims

open Sys2Proof.Machine

section Acts

variable {s : State} {h : Hdr} {e : Env} (ha : Acts s h e)
include ha

theorem issueFence_of_acts (i : Instr) : s.issueFence h i = s.launch e (e.op s h i) := State.withEnv_of ha.issue ha.active

/-- An arrival of lanes none of which has arrived (R307). -/
theorem issueBar_of_fresh {team : Bool} {n : Nat} (hfresh : ∀ l ∈ e.act, (e.g.gid, l) ∉ (s.getBar e.g team n).arrived) (i : Instr)
    (wait : Bool) :
    s.issueBar h i team n wait =
      let b := s.getBar e.g team n
      let t := ((s.launch e (e.op s h i)).setBar e.g team n { b with arrived := b.arrived ++ e.act.map fun l => (e.g.gid, l) }).modWarp
        e.g.gid e.w.wid fun w => if wait then w else w.coverWrites (barNo team n)
      if wait then t.modLanes e.g.gid e.act fun _ l => l.blockAt (.barrier team n) else t := by
  have hnone : e.act.filter (fun l => (s.getBar e.g team n).arrived.contains (e.g.gid, l)) = [] :=
    List.filter_eq_nil_iff.2 fun l hl => by simpa using hfresh l hl
  rw [State.issueBar, State.withEnv_of ha.issue ha.active]
  simp only [hnone, List.isEmpty_nil, if_true]
  rfl

theorem exec_tflag_of_flag {n : BitVec 10} {t : Take} {r : Nat × Nat} (ht : s.takeOf e.g = some t)
    (hr : t.slate.flags[n.toNat]? = some r) :
    exec (.tflag h n) s = .next (s.addOp { e.op s h (.tflag h n) with after := (s.ops.filter fun p => p.gid == e.g.gid &&
      p.owners.contains e.w.wid && p.due.isNone && p.at_ != .held && Instr.writesMem p.instr && p.inRange r).map Op.id }) := by
  show execTflag h n s = _
  rw [execTflag, State.withEnv_of ha.issue ha.active]
  simp only [ht, Option.bind_some, hr]

end Acts

end Sys2Proof.Claims

namespace Sys2Proof

open Sys2Proof.Machine Sys2Proof.Claims

/-- Settles O41: fences and TRIGGER by their shared issue, the four arrivals by theirs, TFLAG by the range of its flag, and the completion
by its condition. -/
theorem fencesAndBarriersIssue : Obligations.FencesAndBarriersIssue := by
  refine ⟨⟨fun s h x e ha => ?_, fun s h e ha => ?_, ⟨fun h n => ⟨?_, ?_⟩, fun h n => ⟨?_, ?_⟩⟩,
    fun s h n e t r ha => exec_tflag_of_flag ha⟩, fun s team g n y hg hdone => ?_⟩
  · exact ⟨congrArg Host.Outcome.next (issueFence_of_acts ha _), congrArg Host.Outcome.next (issueFence_of_acts ha _),
      congrArg Host.Outcome.next (issueFence_of_acts ha _)⟩
  · exact congrArg Host.Outcome.next (issueFence_of_acts ha _)
  · exact fun s e ha hfresh => congrArg Host.Outcome.next (issueBar_of_fresh ha hfresh _ true)
  · exact fun s e ha hfresh => congrArg Host.Outcome.next (issueBar_of_fresh ha hfresh _ false)
  · exact fun s e ha hfresh => congrArg Host.Outcome.next (issueBar_of_fresh ha hfresh _ true)
  · exact fun s e ha hfresh => congrArg Host.Outcome.next (issueBar_of_fresh ha hfresh _ false)
  · show execBarrierComplete team g n s = _
    rw [execBarrierComplete, hg]
    simp only [hdone, if_true]

end Sys2Proof
end

section
/-!
SUPPORT. Near-memory calls where their moment has come: delivery, replies, the end of a block, NJOIN's release, and the return trap
(R159, R165 to R171, R350, R353).
-/

namespace Sys2Proof.Claims

open Sys2Proof.Machine

/-! ### Lanes of a gathered warp (R168, R169) -/

/-- The argument words of a callee lane, from v0 on. -/
def calleeArgs (xs : List Nat) : NMap (Word × Nat) := NMap.putAll (0, 0) [] (xs.mapIdx fun j x => (j, (BitVec.ofNat 32 x, 0)))

theorem get_calleeArgs (xs : List Nat) (j : Nat) : NMap.get (0, 0) (calleeArgs xs) j = (BitVec.ofNat 32 (xs.getD j 0), 0) := by
  have hlist : (xs.mapIdx fun j x => (j, ((BitVec.ofNat 32 x, 0) : Word × Nat))) =
      (xs.map fun x => ((BitVec.ofNat 32 x, 0) : Word × Nat)).mapIdx fun i w => (0 + i, w) := by
    simp [List.mapIdx_eq_zipIdx_map, List.zipIdx_map]
  rw [calleeArgs, hlist, get_putAll_mapIdx _ 0 j rfl, List.length_map]
  by_cases hj : j < xs.length
  · rw [if_pos ⟨Nat.zero_le j, by omega⟩]
    simp [hj]
  · rw [if_neg (by omega), List.getD_eq_default _ _ (Nat.le_of_not_lt hj)]
    rfl

/-- Above the argument words stands the target, under tag 3. -/
theorem calleeLane_v (pc : Nat) (c : Lane) (t : Nat) (xs : List Nat) :
    (calleeLane pc c (t :: xs)).v =
      NMap.put (0, 0) (NMap.put (0, 0) (calleeArgs xs) 4 (BitVec.ofNat 32 t, 3)) 5 (BitVec.ofNat 32 (t / 2 ^ 32), 3) := rfl

theorem tagged_ne_unlisted (x : Word) : (x, 3) ≠ ((0, 0) : Word × Nat) := fun h => absurd (Prod.ext_iff.1 h).2 (show 3 ≠ 0 by decide)

theorem get_calleeLane_high (pc : Nat) (c : Lane) (t : Nat) (xs : List Nat) :
    NMap.get (0, 0) (calleeLane pc c (t :: xs)).v 5 = (BitVec.ofNat 32 (t / 2 ^ 32), 3) := by
  rw [calleeLane_v, NMap.get_put_listed (tagged_ne_unlisted _)]

theorem get_calleeLane_low (pc : Nat) (c : Lane) (t : Nat) (xs : List Nat) :
    NMap.get (0, 0) (calleeLane pc c (t :: xs)).v 4 = (BitVec.ofNat 32 t, 3) := by
  rw [calleeLane_v, NMap.get_put_listed_of_ne (tagged_ne_unlisted _) (by decide), NMap.get_put_listed (tagged_ne_unlisted _)]

/-- The other registers hold the argument words, and 0 where there is none. -/
theorem get_calleeLane_arg (pc : Nat) (c : Lane) (t : Nat) (xs : List Nat) {j : Nat} (h4 : j ≠ 4) (h5 : j ≠ 5) :
    NMap.get (0, 0) (calleeLane pc c (t :: xs)).v j = (BitVec.ofNat 32 (xs.getD j 0), 0) := by
  rw [calleeLane_v, NMap.get_put_listed_of_ne (tagged_ne_unlisted _) h5, NMap.get_put_listed_of_ne (tagged_ne_unlisted _) h4, get_calleeArgs]

/-! ### Calls in flight -/

section Calls

variable {s : State} {op : Nat} {o : Op} {g : Group} (ho : s.findOp op = some o) (hg : s.findGroup o.gid = some g)
include ho hg

/-- The messages of an NCALL.L for one stack are delivered, where it has room (R168, R170). -/
theorem exec_ncallLDeliver_of_mayDeliver {m : Nat} (hmay : o.mayDeliver m = true) :
    exec (.ncallLDeliver op m) s = .next (s.deliver o g m) := by
  show execNcallLDeliver op m s = _
  rw [execNcallLDeliver, ho]
  simp only [hg, hmay, if_true]

/-- A block whose call's release is done is admitted on its stack, where it has room (R353). -/
theorem exec_ncallBDeliver_of_issued {h : Hdr} {x : NcallBOps} (hi : o.instr = .ncallB h x) (hat : o.at_ = .issued) (hafter : o.after = []) :
    exec (.ncallBDeliver op) s = .next (s.deliverBlock o g) := by
  show execNcallBDeliver op s = _
  rw [execNcallBDeliver, ho]
  simp only [hi, hg, hat, hafter, and_self, if_true]

end Calls

end Sys2Proof.Claims

namespace Sys2Proof

open Sys2Proof.Machine Sys2Proof.Claims

/-- Settles O57: a callee lane by what its registers hold, and each event of a call by the condition under which it acts (what races
with a call, and the drop of its ranges at the move to a core, are the model's reading of R159, assumption 23). -/
theorem callsAct : Obligations.CallsAct := by
  refine ⟨fun s o g m ho hg => exec_ncallLDeliver_of_mayDeliver ho hg, fun pc c t xs _ hlen _ => ?_, fun s op h x o g r ho hi hg hr => ?_,
    fun s op h x o g ho hi hg => exec_ncallBDeliver_of_issued ho hg hi, fun s gid y op o g hy hkind ho hg hidle => ?_,
    fun s op h x o g w ho hi hg hw hjoined hafter hplace => ?_, fun s gid wid g w hg hmove hw hhalt => ?_,
    fun s gid g c spans hg hc hroom => ?_⟩
  · refine ⟨rfl, rfl, rfl, rfl, rfl, rfl, rfl, rfl, fun j hj => get_calleeLane_arg _ _ _ _ (by omega) (by omega),
      get_calleeLane_low .., get_calleeLane_high .., fun j hj => ?_⟩
    rw [get_calleeLane_arg _ _ _ _ (by omega) (by omega), List.getD_eq_default _ _ (by omega)]
    rfl
  · show execNcallReply op s = _
    rw [execNcallReply, ho]
    simp only [hi, hg, hr, List.isEmpty_iff] <;> rfl
  · show execNcallBComplete gid s = _
    rw [execNcallBComplete, hy]
    simp only [hkind, ho, hg, hidle, if_true]
  · have hgo : ((o.joined w x.j.toNat).isEmpty || !o.after.isEmpty || !g.inPlace) = false := by simp [hjoined, hafter, hplace]
    show execNjoinRelease op s = _
    rw [execNjoinRelease, ho]
    simp only [hi, hg, hw, hgo, Bool.false_eq_true, if_false, List.isEmpty_iff]
  · show execReturnTrap gid wid s = _
    rw [execReturnTrap, hg]
    simp only [hmove, hw, hhalt, Option.any_some, beq_self_eq_true, Bool.and_self, if_true]
  · show execReturnTrapPlace gid s = _
    rw [execReturnTrapPlace, hg]
    simp only [hc, hroom]

end Sys2Proof
end

section
/-!
SUPPORT. Near-memory calls as they issue: NCALL.L, NCALL.B, NJOIN and NRET (R168, R349 to R353).
-/

namespace Sys2Proof.Claims

open Sys2Proof.Machine

/-! ### What a call reads as it issues -/

/-- A command whose operands and barrier word are in order goes on with its word (R317, R318). -/
theorem command_of_commands {s : State} {h : Hdr} {codes : List Nat} {b : Option Bw} {bw : Option (Nat × Nat)} {e : Env} (ha : Acts s h e)
    (hc : Commands s e codes b bw) (k : Env → Option (Nat × Nat) → State) (k' : Env → State) : s.command h codes b k k' = k e bw := by
  obtain ⟨herr, hcodes, htimely, hbw, hin⟩ := hc
  rw [State.command, dispatch_of ha herr hcodes htimely, barrierWord_of hbw hin]

/-- An entry of the image that can be read is what the call goes on with (R349). -/
theorem callEntry_of_enters {s u : State} {e : Env} {ix pc : Nat} (hent : Enters s e ix u pc) (codes : List Nat) (code : Nat)
    (k : State → Nat → State) : s.callEntry e codes ix code k = k u pc := by
  obtain ⟨t, x, r, ht, hix, hlow, htrans, hread⟩ := hent
  simp only [State.callEntry, State.readAtIssue, ht, htrans, hread]
  rw [if_neg (Nat.not_le.2 hix), if_neg (Nat.not_le.2 hlow), if_neg Bool.false_ne_true]

/-- Targets of which none fails lie in the address space. -/
theorem lt_of_callTargets {s : State} {e : Env} {ts : List (Nat × Nat)} (h : (s.callTargets e ts).2.2 = []) {t : Nat × Nat} (ht : t ∈ ts) :
    t.2 < 2 ^ 52 := by
  induction ts generalizing s with
  | nil => cases ht
  | cons x xs ih =>
    obtain ⟨lane, va⟩ := x
    rw [State.callTargets] at h
    split at h
    · cases h
    · rename_i hlow
      have hrest : ((s.translateFor e.g va .read).1.callTargets e xs).2.2 = [] := by
        dsimp only at h
        split at h
        · cases h
        · split at h
          · exact h
          · cases h
      rcases List.mem_cons.1 ht with rfl | hmem
      · exact Nat.not_le.1 hlow
      · exact ih hrest hmem

/-- Operands with accepted tags and targets in the address space do not fail (R69, R349). -/
theorem callFaults_eq_nil {args : List Arg} {rows : List Row} (htags : badTags args rows = [])
    (hlow : ∀ x ∈ rows, (x.2.headD default).val < 2 ^ 52) :
    rows.filterMap (fun x =>
      if !tagsOk args x.2 then some (x.1, 0x2130, 0)
      else if !x.haz && 2 ^ 52 ≤ (x.2.headD default).val then some (x.1, 0x2142, (x.2.headD default).val) else none) = [] := by
  refine List.filterMap_eq_nil_iff.2 fun x hx => ?_
  rw [tagsOk_of_badTags htags hx, if_neg (by decide), decide_eq_false (Nat.not_le.2 (hlow x hx)), Bool.and_false, if_neg (by decide)]

/-! ### The instructions -/

/-- The operation of an NCALL.L: its entry and range, the stacks of its targets, the words of each lane, and the targets (R168). -/
def ncallOp (s v : State) (e : Env) (h : Hdr) (o : NcallLOps) (pc : Nat) (ts : List (Nat × Trans)) : Op :=
  { e.op v h (.ncallL h o) with
    vals := [pc, s.uniS e true o.sr] ++ (List.range 8).filter fun m => ts.any fun t => e.act.contains t.1 && t.2.pg.stack == m
    lvals := ((s.readRows e (callArgs o)).2.filter fun x => e.act.contains x.1).map fun x => (x.1, bit x.haz :: x.2.map Opnd.val)
    accs := (ts.filter fun t => e.act.contains t.1).map fun t => Acc.mk t.1 [⟨.mem t.2.a t.2.pg, 1⟩] t.2.a }

section Acts

variable {s : State} {h : Hdr} {e : Env} (ha : Acts s h e)
include ha

/-- An NCALL.L whose range, entry and targets are in order goes out, and its lanes wait in the pool, out of their rejoin mask (R349). -/
theorem exec_ncallL_of_targets {o : NcallLOps} {u v : State} {pc : Nat} {ts : List (Nat × Trans)} (hcore : e.g.onStack = false)
    (herr : e.w.errSlots = none)
    (hcodes : e.g.codesFault ([o.vd] ++ (if o.nr2 then [o.vd + 1] else []) ++ (callArgs o).flatMap Arg.codes ++ [640 + o.sr, 641 + o.sr]) = none)
    (htags : badTags (callArgs o) (s.readRows e (callArgs o)).2 = []) (hrange : rangeBad (s.uniS e true o.sr) = false)
    (hent : Enters s e o.entry.toNat u pc)
    (hts : u.callTargets e ((s.readRows e (callArgs o)).2.map fun x => (x.1, (x.2.headD default).val)) = (v, ts, [])) :
    exec (.ncallL h o) s = .next (((v.launch e (ncallOp s v e h o pc ts)).modWarp e.g.gid e.w.wid fun w =>
      { w with j := NMap.put 0 w.j o.j.toNat (NMap.get 0 w.j o.j.toNat &&& ~~~(BitVec.ofNat 64 (laneMask e.w.lane0 e.act))) }).block e e.act
      fun _ => .pool (ncallOp s v e h o pc ts).id) := by
  have hend : e.ending = false := by simp [Env.ending, herr]
  have hlow : ∀ x ∈ (s.readRows e (callArgs o)).2, (x.2.headD default).val < 2 ^ 52 := fun x hx =>
    lt_of_callTargets (t := (x.1, (x.2.headD default).val)) (congrArg (fun q => q.2.2) hts) (List.mem_map.2 ⟨x, hx, rfl⟩)
  show execNcallL h o s = _
  rw [execNcallL]
  dsimp only
  rw [State.coreOnly_of ha.issue hcore, State.checked_of ha.issue ha.active hcodes, hend, callFaults_eq_nil htags hlow]
  simp only [hrange, callEntry_of_enters hent, hts, List.map_nil, List.filter_nil, if_true, List.contains_nil,
    Bool.not_false, List.filter_true, State.settleLanes_nil, List.isEmpty_iff, ha.active, undefineLost_of_sure ha.sure,
    Bool.false_eq_true, if_false]
  rfl

/-- A block in order, whose argument words can be read, goes out (R352, R353). -/
theorem exec_ncallB_of_block {o : NcallBOps} {bw : Option (Nat × Nat)} {u : State} {pc : Nat} {b : CallBlock} (hcore : e.g.onStack = false)
    (hc : Commands s e ((List.range 16).map fun j => 640 + o.blk + j) (some o.bw) bw)
    (hb : b = ⟨(List.range 16).map fun j => s.uniS e false (o.blk + j)⟩) (hgood : b.bad = false)
    (hpart : s.dpart b.stack = s.domainOf e.g.agent) (hranges : ∀ w ∈ b.ranges, rangeBad w = false)
    (hwords : ∀ w ∈ s.argWords e.g b, ∀ c, w ≠ .error c) (hent : Enters s e b.entry u pc) :
    exec (.ncallB h o) s = .next (u.launch e { e.op u h (.ncallB h o) with
      bw := bw, vals := pc :: b.regs, lvals := [(0, u.argKeys e.g b), (1, [])] }) := by
  have hany : b.ranges.any rangeBad = false := List.any_eq_false.2 fun w hw => by simp [hranges w hw]
  show execNcallB h o s = _
  rw [execNcallB]
  dsimp only
  rw [State.coreOnly_of ha.issue hcore, command_of_commands ha hc, ← hb]
  simp only [hgood, hpart, hany, ne_eq, not_true_eq_false, if_false, Bool.false_eq_true]
  split
  · rename_i hfind
    obtain ⟨w, hw, hcode⟩ := List.exists_of_findSome?_eq_some hfind
    cases w with
    | error d => exact absurd rfl (hwords _ hw d)
    | ok x => cases hcode
  · subst hb
    exact congrArg Host.Outcome.next (callEntry_of_enters hent ..)

/-- The lanes of an NJOIN wait, each for the mask that it reads (R350). -/
theorem exec_njoin_of_tags {o : NjoinOps} (hcodes : e.g.codesFault (regCodes true o.mask) = none)
    (htags : badTags [Arg.reg .i64 o.mask] (s.readRows e [Arg.reg .i64 o.mask]).2 = []) :
    let op := { e.op s h (.njoin h o) with
      at_ := .held
      lvals := (s.readRows e [Arg.reg .i64 o.mask]).2.map fun x => (x.1, [(x.2.headD default).val])
      after := s.orderAfter e.w.wid (e.op s h (.njoin h o)) }
    exec (.njoin h o) s = .next ((s.addOp op).block e e.act fun _ => .held op.id) := by
  show execNjoin h o s = _
  rw [execNjoin, State.checked_of ha.issue ha.active hcodes]
  simp only [htags, List.isEmpty_nil, if_true]

/-- What an NRET does goes by the kind of its group (R351). -/
theorem exec_nret_of_kind {o : NretOps} (hcodes : e.g.codesFault ((nretArgs o).flatMap Arg.codes) = none) :
    exec (.nret h o) s = .next (match e.g.kind with
      | .kernel => s.fail e 0x2164 e.act 0
      | .block _ => s.retire e.g.gid e.act
      | .gathered _ => ((s.readRows e (nretArgs o)).1.sendReplies e.g e.act fun i =>
          (((s.readRows e (nretArgs o)).2.find? fun x => x.1 == i).elim [] Prod.snd).map fun (x : Opnd) =>
            if x.haz then none else some (BitVec.ofNat 32 x.val)).retire e.g.gid e.act) := by
  show execNret h o s = _
  exact congrArg Host.Outcome.next (State.checked_of ha.issue ha.active hcodes)

end Acts

end Sys2Proof.Claims

namespace Sys2Proof

open Sys2Proof.Machine Sys2Proof.Claims

/-- Settles O56: each of the four by the conditions under which its issue goes on; a target that translates lies in the address space. -/
theorem callsIssue : Obligations.CallsIssue := by
  refine ⟨fun s h o e u v pc ts ha hcore herr hcodes => ?_, fun s h o e bw u pc ha hcore hc => ?_, fun s h o e ha hcodes => ?_,
    fun s h o e ha hcodes => ?_⟩
  · intro rows range htags hrange hent hts op
    exact exec_ncallL_of_targets ha hcore herr hcodes htags hrange hent hts
  · intro b hgood hpart hranges hwords hent
    exact exec_ncallB_of_block ha hcore hc rfl hgood hpart hranges hwords hent
  · intro rows htags op
    exact exec_njoin_of_tags ha hcodes htags
  · intro r words
    exact exec_nret_of_kind ha hcodes

end Sys2Proof
end

section
/-!
SUPPORT. Commands of the reduce units and bank units as they issue, and what resolves blocks of a KV table (R175 to R183, R354 to R359).
-/

namespace Sys2Proof.Claims

open Sys2Proof.Machine

section Acts

variable {s u : State} {h : Hdr} {e : Env} {bw : Option (Nat × Nat)} (ha : Acts s h e)
include ha

/-! ### The reduce units (R354, R355) -/

/-- XRED and XPREF with their block and indices in order: the ranges that they name are translated, and the command goes out (R454). -/
theorem issueRows_of_block {i : Instr} {o : XredOps} {bad : RowBlock → Bool} {b : RowBlock}
    (hc : Commands s e ((List.range 8).map (fun j => 640 + o.blk + j) ++ [Arg.v .i32 o.vi].flatMap Arg.codes) (some o.bw) bw)
    (hb : b = ⟨(List.range 8).map fun j => s.uniS e false (o.blk + j)⟩)
    (htags : badTags [Arg.v .i32 o.vi] (s.rows e [Arg.v .i32 o.vi] []) = []) (hgood : bad b = false)
    (hw : Within s e (bw.toList.map fun w => (w.1, 8, .write)) u) :
    s.issueRows h i o bad =
      let rows := s.rows e [Arg.v .i32 o.vi] []
      let r := u.rowTranses e.g (b.named i (rows.map Row.fst))
      (r.1.addOp { e.op r.1 h i with
        bw := bw
        vals := b.regs
        lvals := rows.map fun r => (r.1, [r.fst])
        accs := r.2
        early := rows.any Row.haz
        after := r.1.engineAfter e.w.wid e.g.gid r.1.nextOp [] [] }).renew := by
  rw [State.issueRows]
  dsimp only
  rw [command_of_commands ha hc, ← hb]
  simp only [htags, hgood, reaching_of_within hw, ha.sure, List.contains_nil, Bool.or_false, List.isEmpty_nil, Bool.not_true,
    Bool.false_eq_true, if_false]
  subst hb
  rfl

/-! ### The bank units (R356) -/

/-- A bank command with its operands in order, on a pseudo-channel that its group has opened unless it opens one itself. -/
theorem bankCommand_of_channel {i : Instr} {sa : Nat} {codes dst : List Nat} {args : List Arg} {b : Option Bw} {opens : Bool} {t : Trans}
    (hc : Commands s e ([640 + sa, 641 + sa] ++ codes ++ dst) b bw)
    (htags : badTags args ((s.rows e args []).filter fun r => e.id r.1 < 8) = []) (hlow : s.uniS e true sa < 2 ^ 52)
    (htrans : s.translateFor e.g (s.uniS e true sa) .read = (u, .ok t)) (hplace : t.pg.place = 2)
    (hstack : e.g.onStack = true → t.pg.stack = e.g.stackNo)
    (hopen : opens = false → u.hasOpened e.g.gid t.pg.stack t.pg.pch = true)
    (k : State → Env → Option (Nat × Nat) → Nat → Nat → Nat → State) :
    s.bankCommand h i sa codes dst args b opens k = k u e bw t.pg.stack t.pg.pch (t.a % 2 ^ 30) := by
  have hnear : (e.g.onStack && t.pg.stack != e.g.stackNo) = false := by
    cases hon : e.g.onStack
    · rfl
    · simp [hstack hon]
  have hopened : (!opens && !u.hasOpened e.g.gid t.pg.stack t.pg.pch) = false := by
    cases hop : opens
    · simp [hopen hop]
    · rfl
  rw [State.bankCommand, command_of_commands ha hc]
  simp only [htags, htrans, hplace, hnear, hopened, Nat.not_le.2 hlow, List.isEmpty_nil, Bool.not_true, Bool.false_eq_true, if_false,
    ne_eq, not_true_eq_false]

end Acts

/-- Within its limits a BKMAC does not fail (R358). -/
theorem bkmac_within_limits {w off : Nat} (hres : slice w 27 5 = 0) (hwaves : slice w 0 16 ≤ 32767) (hcol : slice off 0 15 = 0)
    (hrow : slice off 15 15 + slice w 0 16 ≤ 32768) :
    (slice w 27 5 != 0 || 32767 < slice w 0 16 || slice off 0 15 != 0 || 32768 < slice off 15 15 + slice w 0 16) = false := by
  simp [hres, hcol, hwaves, hrow]

/-! ### KV tables (R181, R182) -/

/-- A KVXLATE has a result for each lane that it looks up, in their order. -/
theorem map_fst_kvLanes (s : State) (e : Env) (since root nseq : Nat) (rows : List (Nat × Nat × Nat)) :
    (s.kvLanes e since root nseq rows).2.map Prod.fst = rows.map Prod.fst := by
  simp [State.kvLanes, Function.comp_def]

/-- Where every lane has its address and status, each lane looked up is found with them. -/
theorem find?_of_done {rs : List (Nat × KvOut)} (hdone : ∀ x ∈ rs, ∃ a st, x.2 = .done a st) {l : Nat} (hl : l ∈ rs.map Prod.fst) :
    ∃ a st, rs.find? (fun x => x.1 == l) = some (l, .done a st) := by
  obtain ⟨x, hx, hxl⟩ := List.mem_map.1 hl
  obtain ⟨y, hy⟩ := Option.isSome_iff_exists.1 ((List.find?_isSome (p := fun x => x.1 == l)).2 ⟨x, hx, by simpa using hxl⟩)
  obtain ⟨a, st, hout⟩ := hdone y (List.mem_of_find?_eq_some hy)
  have hlane : y.1 = l := by simpa using List.find?_some hy
  exact ⟨a, st, hy.trans (congrArg some (Prod.ext hlane hout))⟩

/-- A lane that has its address and status does not fail, nor meet poison. -/
theorem filterMap_of_done {β : Type} {rs : List (Nat × KvOut)} (hdone : ∀ x ∈ rs, ∃ a st, x.2 = .done a st) {f : Nat × KvOut → Option β}
    (hf : ∀ l a st, f (l, .done a st) = none) : rs.filterMap f = [] := by
  refine List.filterMap_eq_nil_iff.2 fun x hx => ?_
  obtain ⟨a, st, hout⟩ := hdone x hx
  rw [← hf x.1 a st, ← hout]

theorem findSome?_of_done {β : Type} {rs : List (Nat × KvOut)} (hdone : ∀ x ∈ rs, ∃ a st, x.2 = .done a st) {f : Nat × KvOut → Option β}
    (hf : ∀ l a st, f (l, .done a st) = none) : rs.findSome? f = none := by
  rw [← List.head?_filterMap, filterMap_of_done hdone hf, List.head?_nil]

/-- What a KVXLATE finds (R181, R182): at its root the word `rt`, then the table's header `head`, both well formed and not written since the
root was published, and the results `q` of its lanes, none of which fails. -/
structure KvFinds (s : State) (e : Env) (o : KvxlateOps) (r : State) (rt rc : Nat) (t hd : State) (head hc : Nat)
    (q : State × List (Nat × KvOut)) : Prop where
  low : s.uniS e true o.root < 2 ^ 52
  aligned : s.uniS e true o.root % 8 = 0
  root : s.kvRead e (if o.scope = 0 then e.g.via 0 else e.g.engineIn) (s.uniS e true o.root) 8 = (r, .val rt rc)
  goodRoot : badRoot rt = false
  acquired : r.acquireAt e.g o.scope.toNat = t
  header : t.kvRead e (e.g.via 0) (kvTable rt) 64 = (hd, .val head hc)
  goodHeader : badHeader head = false
  fresh : hd.kvTouched (max (r.wordStamp rc) ((s.takeOf e.g).elim 0 Take.stamp)) hc 64 = false
  lanes : hd.kvLanes e (max (r.wordStamp rc) ((s.takeOf e.g).elim 0 Take.stamp)) rt (slice head 0 32)
    ((s.readRows e (kvArgs o)).2.map fun x => (x.1, x.fst, x.snd)) = q
  done : ∀ x ∈ q.2, ∃ a st, x.2 = .done a st

/-- The address and status of a lane. -/
def kvResult (rs : List (Nat × KvOut)) (l : Nat) : Nat × Nat := match (rs.find? fun x => x.1 == l).elim (.done 0 1) Prod.snd with
  | .done a st => (a, st)
  | _ => (0, 1)

/-- What a KVXLATE writes in a lane with address and status `x`. -/
def kvWrites (o : KvxlateOps) (l : Nat) (x : Nat × Nat) : List RegW :=
  regWrites true (.v o.vd) l ⟨x.1, 3, 3, 0⟩ ++ regWrites false (.v o.vt) l ⟨x.2, 2, 2, 0⟩ ++ [predWrite l o.pd.toNat (x.2 == 2)]

/-- A KVXLATE in flight with its results. -/
def kvIssued (s : State) (e : Env) (h : Hdr) (o : KvxlateOps) (ws : List RegW) : State :=
  let op := { e.op s h (.kvxlate h o) with writes := ws }
  ((s.addOp op).unsettle op [o.vd, o.vd + 1, o.vt, predCode o.pd.toNat]).renew

/-- A KVXLATE whose operands are read in time, and that finds a result for each lane, goes out with them. -/
theorem exec_kvxlate_of_finds {s : State} {h : Hdr} {o : KvxlateOps} {e : Env} {r t hd : State} {rt rc head hc : Nat}
    {q : State × List (Nat × KvOut)} (ha : Acts s h e) (hcore : e.g.onStack = false)
    (hcodes : e.g.codesFault ([o.vd, o.vd + 1, o.vt, 640 + o.root, 641 + o.root] ++ (kvArgs o).flatMap Arg.codes) = none)
    (htags : badTags (kvArgs o) (s.readRows e (kvArgs o)).2 = []) (hread : ∀ x ∈ (s.readRows e (kvArgs o)).2, x.haz = false)
    (htimely : s.early e [640 + o.root, 641 + o.root] = false) (hfinds : KvFinds s e o r rt rc t hd head hc q) :
    exec (.kvxlate h o) s = .next (kvIssued q.1 e h o (e.act.flatMap fun l => kvWrites o l (kvResult q.2 l))) := by
  obtain ⟨hlow, hal, hroot, hgoodRoot, hacq, hheader, hgoodHeader, hfresh, hlanes, hdone⟩ := hfinds
  have hhaz : ((s.readRows e (kvArgs o)).2.filter Row.haz).map Prod.fst = [] := by
    rw [List.filter_eq_nil_iff.2 fun x hx => by simp [hread x hx], List.map_nil]
  have hfst : q.2.map Prod.fst = e.act := by
    rw [← hlanes, map_fst_kvLanes, List.map_map]
    exact map_fst_rows s e _ _
  show execKvxlate h o s = _
  rw [execKvxlate]
  dsimp only
  rw [State.coreOnly_of ha.issue hcore, State.checked_of ha.issue ha.active hcodes]
  simp only [hhaz, htags, htimely, hroot, hacq, hheader, hgoodRoot, hgoodHeader, hfresh, hlanes, Nat.not_le.2 hlow, hal,
    List.isEmpty_nil, Bool.not_true, Bool.false_eq_true, if_false, ne_eq, not_true_eq_false, List.contains_nil]
  rw [findSome?_of_done hdone fun _ _ _ => rfl, filterMap_of_done hdone fun _ _ _ => rfl]
  simp only [State.settleLanes_nil, List.isEmpty_iff, ha.active, if_false, undefineLost_of_sure ha.sure]
  refine congrArg (fun ws => Host.Outcome.next (kvIssued q.1 e h o ws)) (List.flatMap_congr fun l hl => ?_)
  obtain ⟨a, st, hfind⟩ := find?_of_done hdone (hfst ▸ hl)
  simp only [kvWrites, kvResult, hfind, Option.elim_some]

end Sys2Proof.Claims

namespace Sys2Proof

open Sys2Proof.Machine Sys2Proof.Claims

/-- Settles O58: XRED and XPREF by their shared issue, the bank commands by theirs, KVXLATE by the lanes that all have a result, and KVMASK
by the frame of fixed latency. -/
theorem baseDieCommandsIssue : Obligations.BaseDieCommandsIssue := by
  refine ⟨⟨fun h o s e bw u ha => ?_, fun h o s e bw u ha => ?_⟩, ⟨fun h o => ?_, fun h o => ?_, fun h o => ?_, fun h o => ?_, fun h o => ?_⟩,
    fun s h o e r rt rc hd t head hc q ha hcore hcodes => ?_, fun h o => launches_of_fixedQ fun _ => rfl⟩
  · intro args hc b rows htags hgood hw r
    exact congrArg Host.Outcome.next (issueRows_of_block ha hc rfl htags hgood hw)
  · intro args hc b rows htags hgood hw r
    exact congrArg Host.Outcome.next (issueRows_of_block ha hc rfl htags hgood hw)
  · intro s e bw u t v ha hc va htags hlow htrans hplace hstack hopen hv
    show execBkopen h o s = _
    rw [execBkopen, bankCommand_of_channel ha hc htags hlow htrans hplace hstack hopen, hv]
  · intro s e bw u t v ha hc va htags hlow htrans hplace hstack hopen hv
    show execBkclose h o s = _
    rw [execBkclose, bankCommand_of_channel ha hc htags hlow htrans hplace hstack hopen, hv]
  · intro s e bw u t v ha hc va htags hlow htrans hplace hstack hopen hv
    show execBkbcast h o s = _
    rw [execBkbcast, bankCommand_of_channel (codes := [Arg.v .f16 o.vs].flatMap Arg.codes) (dst := []) ha hc htags hlow htrans hplace hstack hopen, hv]
  · intro s e bw u t v ha hc va htags hlow htrans hplace hstack hopen ⟨hres, hwaves, hcol, hrow, x, hw, hv⟩
    show execBkmac h o s = _
    rw [execBkmac, bankCommand_of_channel (codes := [640 + o.sk]) (dst := []) ha hc htags hlow htrans hplace hstack hopen]
    dsimp only
    rw [if_neg (ne_true_of_eq_false (bkmac_within_limits hres hwaves hcol hrow)), reaching_of_within hw]
    exact congrArg Host.Outcome.next hv.symm
  · intro s e bw u t v ha hc va htags hlow htrans hplace hstack hopen ⟨hrun, hv⟩
    show execBkread h o s = _
    rw [execBkread, ha.issue]
    dsimp only
    rw [if_neg (Nat.not_lt.2 hrun), bankCommand_of_channel ha hc htags hlow htrans hplace hstack hopen, undefineLost_of_sure ha.sure]
    exact congrArg Host.Outcome.next hv.symm
  · intro rows ra htags hread htimely hlow hal hroot hgoodRoot hacq hheader hgoodHeader since hfresh hlanes hdone out op
    exact exec_kvxlate_of_finds ha hcore hcodes htags hread htimely
      ⟨hlow, hal, hroot, hgoodRoot, hacq, hheader, hgoodHeader, hfresh, hlanes, hdone⟩

end Sys2Proof
end

section
/-!
SUPPORT. What acts on the device from outside: resets and straps, the host and its link, peers over UALink, the security controller
(R174, R448, R481 to R488, R496 to R503).
-/

namespace Sys2Proof.Claims

open Sys2Proof.Machine

/-! ### The host (R415, R481 to R483) -/

theorem exec_hostLinkRetrain_of_reached {s : State} {w r : Nat} (ide : Bool) (hpower : s.powered = true) (hstage : 1 ≤ s.stage)
    (hwidth : w ∈ [0, 4, 8, 16]) (hrate : r ≤ 6) (haim : w = 0 ∨ 1 ≤ r) :
    exec (.hostLinkRetrain w r ide) s = .next (s.setLink w r ide) := by
  have hgo : (s.powered && decide (1 ≤ s.stage) && [0, 4, 8, 16].contains w && decide (r ≤ 6) && (w == 0 || decide (1 ≤ r))) = true := by
    rw [hpower, decide_eq_true hstage, List.contains_iff_mem.2 hwidth, decide_eq_true hrate]
    simpa using haim
  show execHostLinkRetrain w r ide s = _
  rw [execHostLinkRetrain, if_pos hgo]

section Registers

variable {s : State} {fn off : Nat} {v : BitVec 64}

/-- A write of a register that its function does not show is ignored (R482). -/
theorem exec_registerWrite_of_hidden (hshow : s.shows fn off = false) : exec (.registerWrite ⟨fn, off⟩ v) s = .next s := by
  show execRegisterWrite ⟨fn, off⟩ v s = _
  simp [execRegisterWrite, hshow]

variable (hpath : s.fullPath = true) (hshow : s.shows fn off = true)
include hpath hshow

theorem exec_registerWrite_of_device (hlow : off < 0x1000000) :
    exec (.registerWrite ⟨fn, off⟩ v) s = .next (s.writeDev off v.toNat) := by
  show execRegisterWrite ⟨fn, off⟩ v s = _
  simp only [execRegisterWrite, hpath, hshow, hlow, Bool.not_true, Bool.or_self, Bool.false_eq_true, if_false, if_true]

theorem exec_registerWrite_of_context {c y : Ctx} (hlow : 0x1000000 ≤ off) (hhigh : off < 0x1800000) (hal : off % 8 = 0)
    (hc : s.findCtx ((off - 0x1000000) / 0x800) = some c) (hy : c.write (off % 0x800 / 8) v.toNat = .ok y) :
    exec (.registerWrite ⟨fn, off⟩ v) s = .next (s.modCtx ((off - 0x1000000) / 0x800) fun _ => y) := by
  have hin : ¬(off % 8 ≠ 0 ∨ 0x1800000 ≤ off) := by omega
  show execRegisterWrite ⟨fn, off⟩ v s = _
  simp only [execRegisterWrite, hpath, hshow, Nat.not_lt.2 hlow, hin, hc, hy, Bool.not_true, Bool.or_self, Bool.false_eq_true, if_false]

end Registers

/-! ### Peers (R174, R487) -/

/-- A unit that a window takes and whose address translates is performed under that window. -/
theorem incoming_of_window {s : State} {sender ctx va n : Nat} {k : AccKind} {fits : Window → Bool} {w : Window} {t : Trans}
    (hserve : s.serving = true) (hup : s.portUp = true) (hunit : va % 8 + n ≤ 8) (hend : va + n ≤ 2 ^ 52)
    (hfind : (s.windows.find? fun w => w.takes sender ctx va n && fits w) = some w)
    (htrans : s.renew.translateFresh ctx va k = .ok t) (f : State → Window → Trans → State) :
    s.incoming sender ctx va n k fits f = f (s.renew.keepFresh ctx va k) w t := by
  have hgo : (s.serving && s.portUp && va % 8 + n ≤ 8 && va + n ≤ 2 ^ 52) = true := by simpa [hserve, hup, hunit] using hend
  rw [State.incoming, if_pos hgo, hfind]
  simp only [htrans]

/-- The window found is of the kind asked for. -/
theorem fits_of_find? {ws : List Window} {takes fits : Window → Bool} {w : Window} (hfind : (ws.find? fun w => takes w && fits w) = some w) :
    fits w = true := by
  have hboth := List.find?_some hfind
  exact (Bool.and_eq_true_iff.1 hboth).2

theorem writeWindow_of_plain {w : Window} (hkind : w.kind = 1) (s : State) (t : Trans) (n x : Nat) (poison : Bool) :
    s.writeWindow w t n x poison =
      let u := (s.writeHome t.a n x).noteRaces none [(t.a, n)]
      if poison then u.setPoisonFor false t.a true else u := by
  simp only [State.writeWindow, hkind, if_true]

/-- Whole elements in a reduce window are added at the base die of a page placed stack. -/
theorem writeWindow_of_reduce {w : Window} {t : Trans} {n : Nat} (hkind : w.kind = 2) (hplace : t.pg.place = 1)
    (hsize : n % (if w.bf16 then 2 else 4) = 0) (hal : t.a % (if w.bf16 then 2 else 4) = 0) (s : State) (x : Nat) (poison : Bool) :
    s.writeWindow w t n x poison =
      if poison then (s.addReduce n x w.bf16 t).setPoisonFor true t.a true else s.addReduce n x w.bf16 t := by
  simp only [State.writeWindow, hkind, hplace, hsize, hal, ne_eq, not_true_eq_false, or_self, if_false, OfNat.ofNat_ne_one]

end Sys2Proof.Claims

namespace Sys2Proof

open Sys2Proof.Machine Sys2Proof.Claims

/-- Settles O50: each event of the outside by the condition under which it acts; a unit of a peer by the window that takes it (that the trip
count outlives a warm reset is the model's reading of R492 over R503, assumption 37). -/
theorem outsideActs : Obligations.OutsideActs := by
  refine ⟨fun _ => rfl, fun s hpower => ?_, fun s p hstacks => ?_, fun _ => rfl, fun _ _ _ => rfl,
    fun s w r ide hpower hstage hwidth hrate haim => ?_, fun s port lanes peer hport => ?_, fun s fn w a xs poison hreach => ?_,
    fun s line hserve hhost => ?_, fun s fn off v hpath hshow hlow => exec_registerWrite_of_device hpath hshow hlow,
    fun s fn off v hshow => exec_registerWrite_of_hidden hshow,
    fun s fn off v c y hpath hshow hlow hhigh hal hc hy => exec_registerWrite_of_context hpath hshow hlow hhigh hal hc hy,
    fun s sender ctx va t w hserve hup => ?_, fun s hsecure => ?_, fun s op hsecure hop => ?_⟩
  · exact congrArg Host.Outcome.next (if_pos hpower)
  · show execFunctionReset p s = _
    rw [execFunctionReset, if_neg (by simpa [List.isEmpty_iff] using hstacks)]
  · exact exec_hostLinkRetrain_of_reached ide hpower hstage hwidth hrate haim
  · exact congrArg Host.Outcome.next (if_pos hport)
  · exact congrArg Host.Outcome.next (if_pos hreach)
  · show execHostSnoop line s = _
    rw [execHostSnoop, if_pos (by rw [hserve, hhost]; rfl)]
  · intro a in_ at_ added poisoned
    refine ⟨fun ⟨hunit, hend, hfind, htrans⟩ => ?_,
      fun xs poison ⟨hunit, hend, hfind, htrans⟩ => ⟨fun hkind => ?_, fun hkind hplace hsize hal => ?_⟩,
      fun b xs ⟨hunit, hend, hfind, htrans⟩ hsize hva hal hplace => ?_, fun n ⟨hunit, hend, hfind, htrans⟩ hal => ?_⟩
    · exact congrArg Host.Outcome.next (incoming_of_window hserve hup hunit hend hfind htrans _)
    · exact congrArg Host.Outcome.next ((incoming_of_window hserve hup hunit hend hfind htrans _).trans (writeWindow_of_plain hkind ..))
    · exact congrArg Host.Outcome.next ((incoming_of_window hserve hup hunit hend hfind htrans _).trans
        (writeWindow_of_reduce hkind hplace hsize hal ..))
    · obtain ⟨hkind, rfl⟩ : w.kind = 2 ∧ w.bf16 = b := by simpa using fits_of_find? hfind
      have hwhole : ¬(xs.length % (if w.bf16 then 2 else 4) ≠ 0 ∨ a % (if w.bf16 then 2 else 4) ≠ 0) := by omega
      exact congrArg Host.Outcome.next ((if_neg hwhole).trans ((incoming_of_window hserve hup hunit hend hfind htrans _).trans
        (writeWindow_of_reduce hkind hplace hsize hal ..)))
    · exact congrArg Host.Outcome.next ((if_neg (not_not.2 hal)).trans (incoming_of_window hserve hup hunit hend hfind htrans _))
  · exact ⟨congrArg Host.Outcome.next (if_pos hsecure), congrArg Host.Outcome.next (if_pos hsecure),
      congrArg Host.Outcome.next (if_pos hsecure), congrArg Host.Outcome.next (if_pos hsecure), congrArg Host.Outcome.next (if_pos hsecure)⟩
  · have hgo : (s.secure && (op.toNat == 0 || 5 < op.toNat)) = true := by
      rcases hop with rfl | hop <;> simp [*]
    exact congrArg Host.Outcome.next (if_pos hgo)

end Sys2Proof
end

section
/-! SUPPORT. The fields of a word and of its second half, and what a word has to show so that the decoder reads it back (R194, R200,
R210). -/

namespace Sys2Proof

/-! ### Fields -/

/-- Each number fits the field of its width. -/
abbrev FitAll (ns xs : List Nat) : Prop := List.Forall₂ (fun n x => x < 2 ^ n) ns xs

theorem pack_lt (ns xs : List Nat) : pack ns xs < 2 ^ ns.sum := by
  induction ns generalizing xs with
  | nil => exact Nat.one_pos
  | cons n ns ih =>
    cases xs with
    | nil => exact Nat.two_pow_pos _
    | cons x xs =>
      have hlow : x % 2 ^ n < 2 ^ n := Nat.mod_lt _ (Nat.two_pow_pos n)
      calc pack (n :: ns) (x :: xs) < 2 ^ n * (pack ns xs + 1) := by rw [pack, Nat.mul_add_one]; omega
        _ ≤ 2 ^ n * 2 ^ ns.sum := Nat.mul_le_mul_left _ (ih xs)
        _ = 2 ^ (n :: ns).sum := by rw [List.sum_cons, Nat.pow_add]

/-- What is packed into fields that hold it is read from them (R194, R200). -/
theorem unpack_pack {ns xs : List Nat} (h : FitAll ns xs) : unpack ns (pack ns xs) = xs := by
  induction h with
  | nil => rfl
  | @cons n x ns xs hx _ ih =>
    have hpos := Nat.two_pow_pos n
    rw [pack, unpack, Nat.mod_eq_of_lt hx, Nat.add_mul_mod_self_left, Nat.mod_eq_of_lt hx, Nat.add_mul_div_left _ _ hpos,
      Nat.div_eq_of_lt hx, Nat.zero_add, ih]

theorem Half.ofNat_toNat {x : Half} (h : FitAll halfWidths [x.op5, x.imm, x.qmask, x.xmod, x.rsv]) : Half.ofNat (x.toNat % 2 ^ 96) = x := by
  have hlt : x.toNat < 2 ^ 96 := pack_lt halfWidths _
  rw [Nat.mod_eq_of_lt hlt, Half.ofNat, Half.toNat, unpack_pack h]

/-- The fields of a word and of its second half, where it has one, hold their numbers. -/
structure Raw.Fits (r : Raw) : Prop where
  word : FitAll wordWidths [r.opcode, r.stall, r.wait, r.setf, r.gpa, r.gna, r.gpb, r.gnb, r.gop, r.d, r.s1, r.s2, r.s3, r.md]
  half : ∀ x ∈ r.half, FitAll halfWidths [x.op5, x.imm, x.qmask, x.xmod, x.rsv]

theorem Raw.ofNat_toNat {r : Raw} (h : r.Fits) : Raw.ofNat (r.toNat % 2 ^ 96) (r.halfNat.map (· % 2 ^ 96)) = r := by
  have hlt : r.toNat < 2 ^ 96 := pack_lt wordWidths _
  have hhalf : (r.halfNat.map (· % 2 ^ 96)).map Half.ofNat = r.half := by
    cases hx : r.half with
    | none => simp [Raw.halfNat, hx]
    | some x => simp only [Raw.halfNat, hx, Option.map_some, Half.ofNat_toNat (h.half x hx)]
  rw [Nat.mod_eq_of_lt hlt, Raw.ofNat, Raw.toNat, unpack_pack h.word, hhalf]

/-! ### Reserved -/

/-- No part of the second half beyond the used bits is set (R200). -/
def Half.Within (u : Use) (x : Half) : Prop := x.op5 < 2 ^ u.op5 ∧ x.xmod < 2 ^ u.xm ∧ x.imm < 2 ^ u.imm ∧ x.rsv = 0

/-- A word has no nonzero reserved field exactly where every field stays within its used bits (R210, row 6). -/
theorem Raw.badReserved_eq_false {r : Raw} {u : Use} : r.badReserved u = false ↔
    r.d < 2 ^ u.d ∧ r.s1 < 2 ^ u.s1 ∧ r.s2 < 2 ^ u.s2 ∧ r.s3 < 2 ^ u.s3 ∧ (∀ p ∈ u.z, slice r.md p.1 p.2 = 0) ∧
      ∀ x ∈ r.half, x.Within u := by
  cases hx : r.half <;> simp [Raw.badReserved, hx, Half.Within, and_assoc]

/-- A use of no more of a field than there is (R194, R200). -/
structure Use.Small (u : Use) : Prop where
  d : u.d ≤ 10
  s1 : u.s1 ≤ 10
  s2 : u.s2 ≤ 10
  s3 : u.s3 ≤ 10
  op5 : u.op5 ≤ 10
  xm : u.xm ≤ 45
  imm : u.imm ≤ 32

theorem Use.small_iff {u : Use} :
    u.Small ↔ u.d ≤ 10 ∧ u.s1 ≤ 10 ∧ u.s2 ≤ 10 ∧ u.s3 ≤ 10 ∧ u.op5 ≤ 10 ∧ u.xm ≤ 45 ∧ u.imm ≤ 32 :=
  ⟨fun ⟨a, b, c, d, e, f, g⟩ => ⟨a, b, c, d, e, f, g⟩, fun ⟨a, b, c, d, e, f, g⟩ => ⟨a, b, c, d, e, f, g⟩⟩

theorem ite_le_of_le {c : Prop} {_ : Decidable c} {a b n : Nat} (ha : a ≤ n) (hb : b ≤ n) : (if c then a else b) ≤ n := by
  split
  · exact ha
  · exact hb

theorem useSrc2_le (r : Raw) : useSrc2 r ≤ 10 := by unfold useSrc2; split <;> decide

theorem useSrc3_le (r : Raw) : useSrc3 r ≤ 10 := by unfold useSrc3; split <;> decide

theorem bwS3_le (r : Raw) (k : Nat) : bwS3 r k ≤ 10 := by unfold bwS3; split <;> decide

theorem useImm_le (r : Raw) (three : Bool) : useImm r three ≤ 32 := by
  unfold useImm
  split
  · exact le_rfl
  · cases three <;> decide
  · exact Nat.zero_le _

theorem formPsetpOf_use_small (q r : Raw) : ((formPsetpOf q).use r).Small := by
  unfold formPsetpOf
  split <;> simp [Use.small_iff, formPsetp, formPsetpG, formNone]

theorem formFlagsOf_use_small (q r : Raw) : ((formFlagsOf q).use r).Small := by
  unfold formFlagsOf
  split <;> simp [Use.small_iff, formFlags, formDa, formNone]

/-- No form uses more of a field than there is. -/
theorem formOf_use_small {r : Raw} {f : Form} (h : formOf r = some f) : (f.use r).Small := by
  unfold formOf at h
  split at h
  all_goals cases h
  all_goals simp only [↓formPsetpOf_use_small, ↓formFlagsOf_use_small, Use.small_iff, ite_le_of_le, Nat.reduceLeDiff, and_self, formPlain,
    formBra, formBrx, formLoop, formEndl, formEndlBrk, formWsync, formLit1, formLitD, formTrap, formGset, formWsplice, formInt1, formInt2,
    formInt3, formLop3, formShf, formIsetp, formIsel, formLea, formMovi, formSmov, formUbcast, formSpr, formShfl, formVote,
    formRedW, formScanW, formVslide, formRng, formF2, formF3, formFMin, formFsetp, formFclass, formFun, formCvt, formPack, formUnpack, formQnt,
    formDqnt, formTagset, formDa, formLd, formSt, formLds, formSts, formLdt, formStt, formAtom, formRed, atomUse, formCpa,
    formCpout, cpaUse, formCpaLn, formCpoutLn, cpaLnUse, formPref, formMaint, formBmode, formPres, formFence, formBwinit, formBwarr, formBwwait,
    formSemsig, formSemwait, formErrack, formMdecl, formMma, formMload, formMout, formAwalk, formPlalloc, plUse, formPlfill, formPlop, formPldot,
    formPlcmp, formPlsel, formPlred, formPlbmap, formNcallL, bwMustUse, formNcallB, formNjoin, formNret, formXred, formBkopen, formBkbcast,
    formBkmac, formBkread, formKvxlate, formKvmask, formFcopy, formFreduce, formFsem, formSysrd, formSyswr, formTret, formTlbinvAll, formRange,
    formHalt, useSrc2_le, useSrc3_le, bwS3_le, useImm_le, le_refl, Nat.zero_le, apply_ite Form.use, ite_apply,
    apply_ite Use.d, apply_ite Use.s1, apply_ite Use.s2, apply_ite Use.s3, apply_ite Use.op5, apply_ite Use.xm, apply_ite Use.imm]

/-- The fields of a word that hold its header (R194, R195). -/
def Raw.header (r : Raw) : Raw := { r with opcode := 0, d := 0, s1 := 0, s2 := 0, s3 := 0, md := 0, half := none }

theorem withBw_header (r : Raw) (k : Nat) (b : Option Bw) : (withBw r k b).header = r.header := by cases b <;> rfl

/-- The header's fields are those of the instruction's header, whatever its operands. -/
theorem header_of_rawOf {i : Instr} {r : Raw} (hraw : rawOf i = some r) : ∃ h, Machine.Instr.hdr? i = some h ∧ r.header = h.raw 0 := by
  cases i
  case vote h o =>
    obtain ⟨dst, pa⟩ := o
    cases dst <;> cases hraw <;> exact ⟨h, rfl, rfl⟩
  case cpa | cpaLn | cpout | cpoutLn | mma | awalk | plfill | pldrain | plop | plmul | pldot | plcmp | plsel | plred | plbmap =>
    cases hraw
    exact ⟨_, rfl, withBw_header _ _ _⟩
  all_goals cases hraw
  all_goals exact ⟨_, rfl, rfl⟩

theorem withBw_opcode (r : Raw) (k : Nat) (b : Option Bw) : (withBw r k b).opcode = r.opcode := by cases b <;> rfl

/-- A well-formed word's header is one that the hardware accepts. -/
theorem hdr_ok_of_wf {i : Instr} {h : Hdr} (hh : Machine.Instr.hdr? i = some h) (hwf : i.wf = true) : h.ok = true := by
  by_contra hok
  rw [Bool.not_eq_true] at hok
  have hfixed : h.okFixed = false := by
    simp only [Hdr.ok, decide_eq_false_iff_not] at hok
    simp only [Hdr.okFixed, Bool.and_eq_false_iff, beq_eq_false_iff_ne]
    omega
  cases i
  all_goals cases hh
  all_goals
    unfold Instr.wf at hwf
    simp only [hok, hfixed, Bool.false_and, Bool.false_eq_true] at hwf

theorem setf_of_okFixed {h : Hdr} (hok : h.okFixed = true) : h.setf = 0 := by
  simp only [Hdr.okFixed, Bool.and_eq_true, beq_iff_eq] at hok
  exact hok.1

/-- GROW, WCUT and WSPLICE alone have these opcodes, and they set no flag (R50, R54, R241). -/
theorem setf_eq_zero_of_isFixedOpcode {i : Instr} {r : Raw} (hwf : i.wf = true) (hraw : rawOf i = some r)
    (hop : isFixedOpcode r.opcode = true) : r.setf = 0 := by
  cases i
  case grow h => cases hraw; exact setf_of_okFixed hwf
  case wcut h => cases hraw; exact setf_of_okFixed hwf
  case wsplice h o =>
    cases hraw
    have hparts : ((h.okFixed && vOk o.vd) && o.pd != 7) = true := hwf
    simp only [Bool.and_eq_true] at hparts
    exact setf_of_okFixed hparts.1.1
  case vote h o =>
    obtain ⟨dst, pa⟩ := o
    cases dst <;> cases hraw <;> cases hop
  case cpa | cpaLn | cpout | cpoutLn | mma | awalk | plfill | pldrain | plop | plmul | pldot | plcmp | plsel | plred | plbmap =>
    cases hraw
    simp only [rawPl, withBw_opcode] at hop
    cases hop
  all_goals cases hraw
  all_goals cases hop

/-! ### What an encoded word has to show -/

/-- The form of a word reads the instruction back from it, and nothing else is set (R194 to R200). -/
structure Recovers (i : Instr) (r : Raw) (f : Form) : Prop where
  form : formOf r = some f
  md : r.md < 2 ^ 18
  qmask : ∀ x ∈ r.half, x.qmask < 2 ^ 3
  clear : r.badReserved (f.use r) = false
  long : f.long.accepts r.half = true
  get : f.get r 0 = some i

/-- The fields of the header hold the header's numbers. -/
theorem fits_of_header {r : Raw} {h : Hdr} (hhead : r.header = h.raw 0) (hset : h.setf ≤ 12) (hop : r.opcode < 2 ^ 10) (hd : r.d < 2 ^ 10)
    (hs1 : r.s1 < 2 ^ 10) (hs2 : r.s2 < 2 ^ 10) (hs3 : r.s3 < 2 ^ 10) (hmd : r.md < 2 ^ 18) :
    FitAll wordWidths [r.opcode, r.stall, r.wait, r.setf, r.gpa, r.gna, r.gpb, r.gnb, r.gop, r.d, r.s1, r.s2, r.s3, r.md] := by
  simp only [Raw.header, Hdr.raw, Raw.mk.injEq] at hhead
  obtain ⟨_, hstall, hwait, hsetf, hgpa, hgna, hgpb, hgnb, hgop, _⟩ := hhead
  have hbit : ∀ b, bit b < 2 ^ 1 := by decide
  simp only [FitAll, wordWidths, List.forall₂_cons, List.forall₂_nil_left_iff, and_true]
  refine ⟨hop, hstall ▸ h.stall.isLt, hwait ▸ h.wait.isLt, by omega, hgpa ▸ h.guard.a.p.isLt, hgna ▸ hbit _, hgpb ▸ h.guard.b.p.isLt,
    hgnb ▸ hbit _, hgop ▸ hbit _, hd, hs1, hs2, hs3, hmd⟩

/-- The words of a well-formed instruction whose form reads it back decode to it. -/
theorem Recovers.decodeWords {i : Instr} {r : Raw} {f : Form} (hraw : rawOf i = some r) (hwf : i.wf = true) (h : Recovers i r f) :
    decodeWords r.toNat r.halfNat = .ok i := by
  obtain ⟨hdr, hhdr, hhead⟩ := header_of_rawOf hraw
  have hset : hdr.setf ≤ 12 := of_decide_eq_true (hdr_ok_of_wf hhdr hwf)
  have hsetf : r.setf = hdr.setf := congrArg Raw.setf hhead
  obtain ⟨hd, hs1, hs2, hs3, _, hhalf⟩ := Raw.badReserved_eq_false.1 h.clear
  have hle : ∀ {x m n : Nat}, x < 2 ^ m → m ≤ n → x < 2 ^ n := fun hx hm => hx.trans_le (Nat.pow_le_pow_right (by decide) hm)
  have hsmall := formOf_use_small h.form
  have hfits : r.Fits := by
    refine ⟨fits_of_header hhead hset ?_ (hle hd hsmall.d) (hle hs1 hsmall.s1) (hle hs2 hsmall.s2) (hle hs3 hsmall.s3) h.md, fun x hx => ?_⟩
    · have := opcode_le_of_formOf h.form
      omega
    · obtain ⟨hop5, hxm, himm, hrsv⟩ := hhalf x hx
      simp only [FitAll, halfWidths, List.forall₂_cons, List.forall₂_nil_left_iff, and_true]
      exact ⟨hle hop5 hsmall.op5, hle himm hsmall.imm, h.qmask x hx, hle hxm hsmall.xm, hrsv ▸ by decide⟩
  have hfixed : (isFixedOpcode r.opcode && r.setf != 0) = false := by
    cases hop : isFixedOpcode r.opcode with
    | false => rfl
    | true => simp [setf_eq_zero_of_isFixedOpcode hwf hraw hop]
  have hrange : ¬ 13 ≤ r.setf := by omega
  rw [Sys2Proof.decodeWords, Raw.ofNat_toNat hfits, decodeRaw, h.form]
  simp only [Bool.not_true, Bool.and_false, Bool.false_eq_true, if_false, h.clear, hfixed, Bool.or_self, hrange, h.long, h.get, hwf, if_true]

end Sys2Proof
end

section
/-! SUPPORT. Codes of the small alphabets, registers and sources, and the sources that a word with a second half names (R196 to R200). -/

namespace Sys2Proof

/-! ### Codes -/

@[simp] theorem Ty.ofCode_code (t : Ty) : Ty.ofCode t.code = some t := by cases t <;> rfl
theorem Ty.code_lt (t : Ty) : t.code < 19 := by cases t <;> decide
@[simp] theorem Rnd.ofCode_code (m : Rnd) : Rnd.ofCode m.code = some m := by cases m <;> rfl
theorem Rnd.code_lt (m : Rnd) : m.code < 5 := by cases m <;> decide
@[simp] theorem Cond.ofCode_code (c : Cond) : Cond.ofCode c.code = some c := by cases c <;> rfl
theorem Cond.code_lt (c : Cond) : c.code < 6 := by cases c <;> decide
@[simp] theorem FCond.ofCode_code (c : FCond) : FCond.ofCode c.code = some c := by cases c <;> rfl
theorem FCond.code_lt (c : FCond) : c.code < 14 := by cases c <;> decide
@[simp] theorem Comb.ofCode_code (c : Comb) : Comb.ofCode c.code = c := by cases c <;> rfl
theorem Comb.code_lt (c : Comb) : c.code < 4 := by cases c <;> decide
@[simp] theorem ShflMode.ofCode_code (m : ShflMode) : ShflMode.ofCode m.code = m := by cases m <;> rfl
theorem ShflMode.code_lt (m : ShflMode) : m.code < 4 := by cases m <;> decide
@[simp] theorem RedOp.ofCode_code (o : RedOp) : RedOp.ofCode o.code = some o := by cases o <;> rfl
theorem RedOp.code_lt (o : RedOp) : o.code < 6 := by cases o <;> decide
@[simp] theorem AtomOp.ofCode_code (o : AtomOp) : AtomOp.ofCode o.code = some o := by cases o <;> rfl
theorem AtomOp.code_lt (o : AtomOp) : o.code < 10 := by cases o <;> decide
@[simp] theorem AOrd.ofCode_code (o : AOrd) : AOrd.ofCode o.code = o := by cases o <;> rfl
theorem AOrd.code_lt (o : AOrd) : o.code < 4 := by cases o <;> decide
@[simp] theorem BankMode.ofCode_code (m : BankMode) : BankMode.ofCode m.code = some m := by cases m <;> rfl
theorem BankMode.code_lt (m : BankMode) : m.code < 3 := by cases m <;> decide

theorem bit_le (b : Bool) : bit b ≤ 1 := by cases b <;> decide

/-- A single bit is read as it was written. -/
theorem bitAt_eq {x a : Nat} {b : Bool} (h : slice x a 1 = bit b) : bitAt x a = b := by
  cases b <;> simp [bitAt, h, bit]

/-- The bits of a field are read as they were written. -/
theorem ofNat_eq {n x : Nat} {v : BitVec n} (h : x = v.toNat) : BitVec.ofNat n x = v := by
  rw [h, BitVec.ofNat_toNat, BitVec.setWidth_eq]

theorem Pred.code_lt (p : Pred) : p.code < 2 ^ 4 := by
  have := p.p.isLt
  have := bit_le p.neg
  simp only [Pred.code]
  omega

@[simp] theorem predAt_code (p : Pred) : predAt p.code = p := by
  obtain ⟨n, neg⟩ := p
  have hn := n.isLt
  have hneg := bit_le neg
  have hbit : slice (n.toNat + 8 * bit neg) 3 1 = bit neg := by simp only [slice]; omega
  have hlow : BitVec.ofNat 3 (n.toNat + 8 * bit neg) = n := BitVec.eq_of_toNat_eq (by simp only [BitVec.toNat_ofNat]; omega)
  simp only [predAt, Pred.code, bitAt_eq hbit, hlow]

/-! ### Registers (R196) -/

theorem Reg.code_lt {r : Reg} (h : r.ok = true) : r.code < 2 ^ 10 := by
  cases r <;> simp only [Reg.ok, Reg.code, decide_eq_true_eq] at h ⊢ <;> omega

theorem Reg.ofCode_code {r : Reg} (h : r.ok = true) : Reg.ofCode 0 r.code = r := by
  cases r with
  | v n => simp only [Reg.ok, decide_eq_true_eq] at h; simp [Reg.ofCode, Reg.code, h]
  | s n => simp [Reg.ofCode, Reg.code]

theorem Reg.ok_of_okPair {r : Reg} (h : r.okPair = true) : r.ok = true := (Bool.and_eq_true_iff.1 h).1

theorem vOk_of_vPair {n : Nat} (h : vPair n = true) : vOk n = true := (Bool.and_eq_true_iff.1 h).1
theorem sOk_of_sPair {n : Nat} (h : sPair n = true) : sOk n = true := (Bool.and_eq_true_iff.1 h).1
theorem sOk_of_sBlock {k n : Nat} (h : sBlock k n = true) : sOk n = true := (Bool.and_eq_true_iff.1 h).1

theorem vCode_of_ok {n : Nat} (h : vOk n = true) : vCode 0 n = some n := if_pos (of_decide_eq_true h)
theorem vOk_lt {n : Nat} (h : vOk n = true) : n < 2 ^ 10 := (of_decide_eq_true h : n < 640).trans (by decide)

@[simp] theorem sCode_add (n : Nat) : sCode (640 + n) = some n := by simp [sCode]
theorem sOk_lt {n : Nat} (h : sOk n = true) : 640 + n < 2 ^ 10 := by
  have : n < 384 := of_decide_eq_true h
  omega

/-! ### Sources (R199, R200) -/

/-- A source that a register field holds. -/
def Src.inField : Src → Bool
  | .reg r => r.ok
  | .q _ => true
  | _ => false

/-- A source 2: any immediate besides. -/
def Src.inSecond : Src → Bool
  | .reg r => r.ok
  | _ => true

theorem Src.inField_of_okReg {pair : Bool} {s : Src} (h : s.okReg pair = true) : s.inField = true := by
  cases s <;> cases pair <;> simp_all [Src.okReg, Src.inField, Reg.ok_of_okPair]

theorem Src.inSecond_of_okImm {pair : Bool} {ty : Ty} {s : Src} (h : s.okImm pair ty = true) : s.inSecond = true := by
  cases s <;> cases pair <;> simp_all [Src.okImm, Src.inSecond, Reg.ok_of_okPair]

theorem Src.inSecond_of_okOff {s : Src} (h : s.okOff = true) : s.inSecond = true := by
  cases s <;> simp_all [Src.okOff, Src.inSecond]

theorem Src.inSecond_of_okUni {s : Src} (h : s.okUni = true) : s.inSecond = true := by
  cases s with
  | reg r => cases r <;> simp_all [Src.okUni, Src.inSecond, Reg.ok, sOk]
  | _ => rfl

theorem Src.inField_of_dataOk {ty : Ty} {vec : BitVec 2} {s : Src} (h : dataOk ty vec s = true) : s.inField = true := by
  cases s <;> simp_all [dataOk, Src.inField]

theorem Src.code_lt {s : Src} (h : s.inField = true) : s.code < 2 ^ 10 := by
  cases s with
  | reg r => exact Reg.code_lt h
  | q n => exact n.isLt.trans (by decide)
  | _ => cases h

/-- What a word says of its sources: OPSEL, the QMASK bits and the immediate are those of `a`, `b` and `c`. -/
structure Raw.Sources (r : Raw) (a b c : Option Src) : Prop where
  opsel : r.opsel = b.elim 0 opselOf
  high : r.opsel = 3 ∨ c.elim 0 Src.immHigh = 0
  q1 : r.qbit 0 = a.any Src.isQ
  q2 : r.qbit 1 = b.any Src.isQ
  q3 : r.qbit 2 = c.any Src.isQ
  half : 2 ≤ r.opsel → r.half.isNone = false
  imm : r.imm = b.elim 0 Src.immLow + 2 ^ 16 * c.elim 0 Src.immHigh

theorem opselOf_le (s : Src) : opselOf s ≤ 3 := by cases s <;> simp [opselOf]

theorem Src.immLow_of_opsel {s : Src} (h : opselOf s < 2) : s.immLow = 0 := by
  cases s <;> simp_all [opselOf, Src.immLow]

/-- The second half that `a`, `b` and `c` need. -/
def halfOf (a b c : Option Src) : Half :=
  ⟨0, b.elim 0 fun x => x.immLow + 2 ^ 16 * c.elim 0 Src.immHigh, bit (a.any Src.isQ) + 2 * bit (b.any Src.isQ) + 4 * bit (c.any Src.isQ), 0, 0⟩

theorem halfFor_eq (a b c : Option Src) : halfFor a b c =
    if decide (2 ≤ b.elim 0 opselOf) || decide (0 < bit (a.any Src.isQ) + bit (b.any Src.isQ) + bit (c.any Src.isQ)) then some (halfOf a b c)
    else none := by
  cases a <;> cases b <;> cases c <;> rfl

theorem eq_halfOf_of_mem {a b c : Option Src} {x : Half} (h : x ∈ halfFor a b c) : x = halfOf a b c := by
  rw [halfFor_eq] at h
  split at h
  · exact (Option.some.inj h).symm
  · cases h

/-- Without a second half no source is an immediate of more than 10 bits, and none is a queue. -/
theorem of_halfFor_eq_none {a b c : Option Src} (h : halfFor a b c = none) :
    b.elim 0 opselOf < 2 ∧ a.any Src.isQ = false ∧ b.any Src.isQ = false ∧ c.any Src.isQ = false := by
  rw [halfFor_eq] at h
  split at h
  · cases h
  · rename_i hneed
    have hbit : ∀ x : Bool, bit x = 0 → x = false := by decide
    simp only [Bool.or_eq_true, decide_eq_true_eq, not_or] at hneed
    obtain ⟨hsel, hqs⟩ := hneed
    exact ⟨by omega, hbit _ (by omega), hbit _ (by omega), hbit _ (by omega)⟩

theorem bitAt_qmask (x y z : Bool) :
    bitAt (bit x + 2 * bit y + 4 * bit z) 0 = x ∧ bitAt (bit x + 2 * bit y + 4 * bit z) 1 = y ∧ bitAt (bit x + 2 * bit y + 4 * bit z) 2 = z := by
  revert x y z
  decide

/-- A word whose second half is the one its sources need says what they are (R199, R200). -/
theorem Raw.sources_of_half {r : Raw} {a b c : Option Src} (hhalf : r.half = halfFor a b c) (hopsel : r.opsel = b.elim 0 opselOf)
    (hhigh : r.opsel = 3 ∨ c.elim 0 Src.immHigh = 0) : r.Sources a b c := by
  cases h : halfFor a b c with
  | some x =>
    rw [h] at hhalf
    obtain ⟨h0, h1, h2⟩ := bitAt_qmask (a.any Src.isQ) (b.any Src.isQ) (c.any Src.isQ)
    rw [eq_halfOf_of_mem h] at hhalf
    have himm : r.imm = b.elim 0 Src.immLow + 2 ^ 16 * c.elim 0 Src.immHigh := by
      rw [Raw.imm, hhalf]
      cases b with
      | none =>
        simp only [Option.elim_none] at hopsel ⊢
        show 0 = _
        omega
      | some x => rfl
    refine ⟨hopsel, hhigh, ?_, ?_, ?_, fun _ => by simp [hhalf], himm⟩ <;> rw [Raw.qbit, hhalf]
    · exact h0
    · exact h1
    · exact h2
  | none =>
    rw [h] at hhalf
    obtain ⟨hlow, ha, hb, hc⟩ := of_halfFor_eq_none h
    have hlowImm : b.elim 0 Src.immLow = 0 := by
      cases b with
      | none => rfl
      | some x => exact Src.immLow_of_opsel hlow
    have himm : r.imm = b.elim 0 Src.immLow + 2 ^ 16 * c.elim 0 Src.immHigh := by
      rw [Raw.imm, hhalf, hlowImm]
      show 0 = _
      omega
    exact ⟨hopsel, hhigh, by rw [Raw.qbit, hhalf, ha], by rw [Raw.qbit, hhalf, hb], by rw [Raw.qbit, hhalf, hc], fun h2 => by omega, himm⟩

/-- A register field reads as the register or the queue that it holds. -/
theorem Raw.srcAt_code {r : Raw} {j : Nat} {x : Src} (hx : x.inField = true) (hq : r.qbit j = x.isQ) : r.srcAt 0 j x.code = some x := by
  cases x with
  | reg n => simp [Raw.srcAt, hq, Src.isQ, Src.code, Reg.ofCode_code hx]
  | q n => simp [Raw.srcAt, hq, Src.isQ, Src.code, n.isLt]
  | _ => cases hx

section Sources

variable {r : Raw} {a b c : Option Src} {x y z : Src}

theorem Raw.Sources.src1 (h : r.Sources (some x) b c) (hx : x.inField = true) (hs : r.s1 = x.code) : r.src1 0 = some x := by
  rw [Raw.src1, hs]
  exact Raw.srcAt_code hx h.q1

theorem Raw.Sources.src2 (h : r.Sources a (some y) c) (hy : y.inSecond = true) (hs : r.s2 = y.code) : r.src2 0 = some y := by
  obtain ⟨hopsel, hhigh, -, hq, -, hhalf, himm⟩ := h
  cases y with
  | reg n =>
    rw [Raw.src2, hopsel, hs]
    exact Raw.srcAt_code hy hq
  | q n =>
    rw [Raw.src2, hopsel, hs]
    exact Raw.srcAt_code rfl hq
  | i10 n =>
    have hq : r.qbit 1 = false := hq
    have hopsel : r.opsel = 1 := hopsel
    simp [Raw.src2, hopsel, hq, hs, Src.code]
  | i32 n =>
    have hq : r.qbit 1 = false := hq
    have hopsel : r.opsel = 2 := hopsel
    have himm : r.imm = n.toNat := himm.trans (by rw [hhigh.resolve_left (by omega)]; rfl)
    simp [Raw.src2, hopsel, hq, hhalf (by omega), himm]
  | i16 n =>
    have hq : r.qbit 1 = false := hq
    have hopsel : r.opsel = 3 := hopsel
    have hlow : BitVec.ofNat 16 r.imm = n := BitVec.eq_of_toNat_eq (by
      rw [himm, BitVec.toNat_ofNat, Nat.add_mul_mod_self_left]
      exact Nat.mod_eq_of_lt n.isLt)
    simp [Raw.src2, hopsel, hq, hhalf (by omega), hlow]

theorem Raw.Sources.s2_lt (h : r.Sources a (some y) c) (hy : y.inSecond = true) (hs : r.s2 = y.code) : r.s2 < 2 ^ useSrc2 r := by
  have hopsel : r.opsel = opselOf y := h.opsel
  rw [hs, useSrc2, hopsel]
  cases y with
  | reg n => exact Reg.code_lt hy
  | q n => exact n.isLt.trans (show 2 ^ 3 < 2 ^ 10 by decide)
  | i10 n => exact n.isLt
  | _ => exact Nat.one_pos

/-- A source 3: the upper immediate where source 2 is the lower one, and otherwise what a register field holds (R199). -/
structure Src.Third (y z : Src) : Prop where
  same : y.isI16 = z.isI16
  field : z.isI16 = false → z.inField = true

theorem Src.third_of_okThird {pair : Bool} {ty : Ty} (h : okThird pair ty y z = true) : y.Third z := by
  simp only [okThird, Bool.and_eq_true, beq_iff_eq] at h
  obtain ⟨⟨⟨himm, h10⟩, h32⟩, hsame⟩ := h
  refine ⟨hsame, fun h16 => ?_⟩
  cases z with
  | reg n => exact Src.inSecond_of_okImm himm
  | q n => rfl
  | i10 n => cases h10
  | i32 n => cases h32
  | i16 n => cases h16

theorem opselOf_eq_three : opselOf y = 3 ↔ y.isI16 = true := by cases y <;> simp [opselOf, Src.isI16]

theorem Src.Third.high (h : y.Third z) : opselOf y = 3 ∨ z.immHigh = 0 := by
  by_cases h3 : opselOf y = 3
  · exact .inl h3
  · have hz : z.isI16 ≠ true := fun hz => h3 (opselOf_eq_three.2 (h.same.trans hz))
    cases z <;> simp_all [Src.isI16, Src.immHigh]

theorem Raw.Sources.src3 (h : r.Sources a (some y) (some z)) (hz : y.Third z) (hs : r.s3 = z.code) : r.src3 0 = some z := by
  have hopsel : r.opsel = opselOf y := h.opsel
  rw [Raw.src3]
  by_cases h3 : opselOf y = 3
  · have hz16 : z.isI16 = true := hz.same ▸ opselOf_eq_three.1 h3
    cases z with
    | i16 n =>
      have hq : r.qbit 2 = false := h.q3
      have hlow : y.immLow < 2 ^ 16 := by
        cases y with
        | i16 m => exact m.isLt
        | _ => cases h3
      have himm : r.imm = y.immLow + 2 ^ 16 * n.toNat := h.imm
      have hhigh : BitVec.ofNat 16 (r.imm / 2 ^ 16) = n := ofNat_eq (by omega)
      rw [hopsel, if_pos h3, hq, h.half (by omega), hhigh]
      rfl
    | _ => cases hz16
  · have hz16 : z.isI16 = false := by
      rw [← hz.same]
      exact Bool.eq_false_iff.2 fun hy => h3 (opselOf_eq_three.2 hy)
    rw [hopsel, if_neg h3, hs]
    exact Raw.srcAt_code (hz.field hz16) h.q3

theorem Raw.Sources.s3_lt (h : r.Sources a (some y) (some z)) (hz : y.Third z) (hs : r.s3 = z.code) : r.s3 < 2 ^ useSrc3 r := by
  have hopsel : r.opsel = opselOf y := h.opsel
  rw [hs, useSrc3, hopsel]
  split
  · rename_i h3
    have hz16 : z.isI16 = true := hz.same ▸ opselOf_eq_three.1 h3
    cases z with
    | i16 n => exact Nat.one_pos
    | _ => cases hz16
  · rename_i h3
    exact Src.code_lt (hz.field (by
      rw [← hz.same]
      exact Bool.eq_false_iff.2 fun hy => h3 (opselOf_eq_three.2 hy)))

/-- The second half's immediate keeps to the bits that OPSEL uses (R199). -/
theorem Raw.Sources.imm_lt (h : r.Sources a b c) {three : Bool} (hthree : three = true ∨ c.elim 0 Src.immHigh = 0) :
    r.imm < 2 ^ useImm r three := by
  obtain ⟨hopsel, hhigh, -, -, -, -, himm⟩ := h
  have hzero : r.opsel < 2 → r.imm = 0 := fun hlow => by
    have hb : b.elim 0 Src.immLow = 0 := by
      cases b with
      | none => rfl
      | some y =>
        rw [hopsel] at hlow
        exact Src.immLow_of_opsel hlow
    omega
  have hc : c.elim 0 Src.immHigh < 2 ^ 16 := by
    rcases c with _ | ⟨_ | _ | _ | n | _⟩
    case some.i16 => exact n.isLt
    all_goals exact Nat.two_pow_pos 16
  have hle : r.opsel ≤ 3 := by
    rw [hopsel]
    cases b with
    | none => exact Nat.zero_le _
    | some y => exact opselOf_le y
  have hshort : ∀ {y : Src}, opselOf y = 3 → y.immLow < 2 ^ 16 := fun {y} h3 => by
    cases y with
    | i16 n => exact n.isLt
    | _ => cases h3
  have hlong : ∀ {y : Src}, y.immLow < 2 ^ 32 := fun {y} => by
    cases y with
    | i16 n => exact n.isLt.trans (by decide)
    | i32 n => exact n.isLt
    | _ => exact Nat.two_pow_pos 32
  rcases Nat.lt_or_ge r.opsel 2 with hlow | hhi
  · rw [hzero hlow]
    exact Nat.two_pow_pos _
  cases b with
  | none => rw [hopsel] at hhi; cases hhi
  | some y =>
    have himm : r.imm = y.immLow + 2 ^ 16 * c.elim 0 Src.immHigh := himm
    have hy : y.immLow < 2 ^ 32 := hlong
    unfold useImm
    split
    · omega
    · rename_i h3
      have hy : y.immLow < 2 ^ 16 := hshort (hopsel.symm.trans h3)
      rcases hthree with rfl | hthree
      · simp only [if_true]
        omega
      · cases three <;> simp only [Bool.false_eq_true, if_false, if_true] <;> omega
    · rename_i h2 h3
      have hopsel : r.opsel = 2 ∨ r.opsel = 3 := by omega
      exact (hopsel.elim h2 h3).elim

end Sources

end Sys2Proof
end

section
/-! SUPPORT. Words as their fields, the parts of MOD, and round trips of words with one, two or three sources (R197 to R199). -/

namespace Sys2Proof

/-! ### Parts of MOD -/

/-- What stands above a part leaves it. -/
@[simp] theorem slice_add_above {x y c a n : Nat} (h : 2 ^ (a + n) ∣ c) : slice (x + c * y) a n = slice x a n := by
  obtain ⟨k, rfl⟩ := h
  rw [slice, slice, Nat.pow_add, Nat.mul_assoc, Nat.mul_assoc, Nat.add_mul_div_left _ _ (Nat.two_pow_pos a), Nat.add_mul_mod_self_left]

/-- A part reads as what stands in it, with less than it below. -/
@[simp] theorem slice_add_at {x y c a n : Nat} (hc : c = 2 ^ a) (hx : x < 2 ^ a) (hy : y < 2 ^ n) : slice (x + c * y) a n = y := by
  rw [slice, hc, Nat.add_mul_div_left _ _ (Nat.two_pow_pos a), Nat.div_eq_of_lt hx, Nat.zero_add, Nat.mod_eq_of_lt hy]

/-- A part above all that is set is zero. -/
@[simp] theorem slice_below {x a n : Nat} (hx : x < 2 ^ a) : slice x a n = 0 := by
  rw [slice, Nat.div_eq_of_lt hx, Nat.zero_mod]

/-- The lowest part reads as what stands in it. -/
@[simp] theorem slice_lowest {x n : Nat} (hx : x < 2 ^ n) : slice x 0 n = x := by
  rw [slice, Nat.pow_zero, Nat.div_one, Nat.mod_eq_of_lt hx]

/-- With nothing below it. -/
@[simp] theorem slice_mul_at {y c a n : Nat} (hc : c = 2 ^ a) (hy : y < 2 ^ n) : slice (c * y) a n = y := by
  rw [← Nat.zero_add (c * y), slice_add_at hc (Nat.two_pow_pos a) hy]

@[simp] theorem slice_mul_above {y c a n : Nat} (h : 2 ^ (a + n) ∣ c) : slice (c * y) a n = 0 := by
  rw [← Nat.zero_add (c * y), slice_add_above h, slice_below (Nat.two_pow_pos a)]

@[simp] theorem bit_beq_one (b : Bool) : (bit b == 1) = b := by cases b <;> rfl

/-! ### Words -/

/-- The word with header `h`, opcode `op` and these operand fields. -/
def Hdr.word (h : Hdr) (op d s1 s2 s3 md : Nat) (half : Option Half) : Raw :=
  { h.raw op with d := d, s1 := s1, s2 := s2, s3 := s3, md := md, half := half }

section Word

variable (h : Hdr) (op d s1 s2 s3 md : Nat) (half : Option Half)

@[simp] theorem Hdr.word_hdr : (h.word op d s1 s2 s3 md half).hdr = h := Laws.Header.hdr_raw h op
@[simp] theorem Hdr.word_d : (h.word op d s1 s2 s3 md half).d = d := rfl
@[simp] theorem Hdr.word_s1 : (h.word op d s1 s2 s3 md half).s1 = s1 := rfl
@[simp] theorem Hdr.word_s2 : (h.word op d s1 s2 s3 md half).s2 = s2 := rfl
@[simp] theorem Hdr.word_s3 : (h.word op d s1 s2 s3 md half).s3 = s3 := rfl
@[simp] theorem Hdr.word_md : (h.word op d s1 s2 s3 md half).md = md := rfl
@[simp] theorem Hdr.word_half : (h.word op d s1 s2 s3 md half).half = half := rfl
@[simp] theorem Hdr.word_ty : (h.word op d s1 s2 s3 md half).ty = Ty.ofCode (slice md 0 5) := rfl
@[simp] theorem Hdr.word_rnd : (h.word op d s1 s2 s3 md half).rnd = Rnd.ofCode (slice md 5 3) := rfl
@[simp] theorem Hdr.word_sat : (h.word op d s1 s2 s3 md half).sat = (slice md 8 1 == 1) := rfl
@[simp] theorem Hdr.word_vec : (h.word op d s1 s2 s3 md half).vec = BitVec.ofNat 2 (slice md 5 2) := rfl
@[simp] theorem Hdr.word_hint : (h.word op d s1 s2 s3 md half).hint = BitVec.ofNat 2 (slice md 9 2) := rfl
@[simp] theorem Hdr.word_scope : (h.word op d s1 s2 s3 md half).scope = BitVec.ofNat 5 (slice md 11 5) := rfl
@[simp] theorem Hdr.word_fn : (h.word op d s1 s2 s3 md half).fn = slice md 5 3 + 8 * slice md 9 7 := rfl
@[simp] theorem Hdr.word_opsel : (h.word op d s1 s2 s3 md half).opsel = slice md 16 2 := rfl
@[simp] theorem Hdr.word_isB32 :
    (h.word op d s1 s2 s3 md half).isB32 = (slice md 0 5 == 0 && !(slice md 8 1 == 1)) := rfl
@[simp] theorem Hdr.word_isF32 : (h.word op d s1 s2 s3 md half).isF32 = (slice md 0 5 == 9) := rfl

end Word

/-- Some form reads the instruction back from its word. -/
def Recoverable (i : Instr) : Prop := ∃ r f, rawOf i = some r ∧ Recovers i r f

/-- A word without a second half. -/
theorem Recoverable.short {i : Instr} {h : Hdr} {op d s1 s2 s3 md : Nat} {f : Form} (hraw : rawOf i = some (h.word op d s1 s2 s3 md none))
    (hform : formOf (h.word op d s1 s2 s3 md none) = some f) (hlong : f.long.accepts none = true)
    (hd : d < 2 ^ (f.use (h.word op d s1 s2 s3 md none)).d) (hs1 : s1 < 2 ^ (f.use (h.word op d s1 s2 s3 md none)).s1)
    (hs2 : s2 < 2 ^ (f.use (h.word op d s1 s2 s3 md none)).s2) (hs3 : s3 < 2 ^ (f.use (h.word op d s1 s2 s3 md none)).s3)
    (hmd : md < 2 ^ 18) (hz : ∀ p ∈ (f.use (h.word op d s1 s2 s3 md none)).z, slice md p.1 p.2 = 0)
    (hget : f.get (h.word op d s1 s2 s3 md none) 0 = some i) : Recoverable i := by
  have hclear : (h.word op d s1 s2 s3 md none).badReserved (f.use (h.word op d s1 s2 s3 md none)) = false :=
    Raw.badReserved_eq_false.2 ⟨hd, hs1, hs2, hs3, hz, fun _ hx => (nomatch hx)⟩
  exact ⟨_, f, hraw, ⟨hform, hmd, fun _ hx => (nomatch hx), hclear, hlong, hget⟩⟩

/-- A word with the second half `x`. -/
theorem Recoverable.long {i : Instr} {h : Hdr} {op d s1 s2 s3 md : Nat} {x : Half} {f : Form}
    (hraw : rawOf i = some (h.word op d s1 s2 s3 md (some x))) (hform : formOf (h.word op d s1 s2 s3 md (some x)) = some f)
    (hlong : f.long.accepts (some x) = true)
    (hd : d < 2 ^ (f.use (h.word op d s1 s2 s3 md (some x))).d) (hs1 : s1 < 2 ^ (f.use (h.word op d s1 s2 s3 md (some x))).s1)
    (hs2 : s2 < 2 ^ (f.use (h.word op d s1 s2 s3 md (some x))).s2) (hs3 : s3 < 2 ^ (f.use (h.word op d s1 s2 s3 md (some x))).s3)
    (hmd : md < 2 ^ 18) (hz : ∀ p ∈ (f.use (h.word op d s1 s2 s3 md (some x))).z, slice md p.1 p.2 = 0) (hq : x.qmask < 2 ^ 3)
    (hx : x.Within (f.use (h.word op d s1 s2 s3 md (some x)))) (hget : f.get (h.word op d s1 s2 s3 md (some x)) 0 = some i) :
    Recoverable i := by
  have hclear : (h.word op d s1 s2 s3 md (some x)).badReserved (f.use (h.word op d s1 s2 s3 md (some x))) = false :=
    Raw.badReserved_eq_false.2 ⟨hd, hs1, hs2, hs3, hz, fun y hy => Option.some.inj hy ▸ hx⟩
  exact ⟨_, f, hraw, ⟨hform, hmd, fun y hy => Option.some.inj hy ▸ hq, hclear, hlong, hget⟩⟩

theorem halfOf_qmask_lt (a b c : Option Src) : (halfOf a b c).qmask < 2 ^ 3 := by
  have := bit_le (a.any Src.isQ)
  have := bit_le (b.any Src.isQ)
  have := bit_le (c.any Src.isQ)
  simp only [halfOf]
  omega

/-- A word whose second half, if any, is the one its sources need. -/
theorem Recoverable.ofSources {i : Instr} {r : Raw} {f : Form} {a b c : Option Src} (hraw : rawOf i = some r) (hform : formOf r = some f)
    (hlong : f.long = .may) (hhalf : r.half = halfFor a b c) (hd : r.d < 2 ^ (f.use r).d) (hs1 : r.s1 < 2 ^ (f.use r).s1)
    (hs2 : r.s2 < 2 ^ (f.use r).s2) (hs3 : r.s3 < 2 ^ (f.use r).s3) (hmd : r.md < 2 ^ 18) (hz : ∀ p ∈ (f.use r).z, slice r.md p.1 p.2 = 0)
    (himm : r.imm < 2 ^ (f.use r).imm) (hget : f.get r 0 = some i) : Recoverable i := by
  have hx : ∀ x ∈ r.half, x = halfOf a b c := fun x hx => eq_halfOf_of_mem (hhalf ▸ hx)
  refine ⟨r, f, hraw, hform, hmd, fun x hm => hx x hm ▸ halfOf_qmask_lt a b c,
    Raw.badReserved_eq_false.2 ⟨hd, hs1, hs2, hs3, hz, fun x hm => ?_⟩, ?_, hget⟩
  · have himm : x.imm < 2 ^ (f.use r).imm := by rwa [Raw.imm, Option.mem_def.1 hm] at himm
    refine ⟨?_, ?_, himm, ?_⟩ <;> rw [hx x hm]
    · exact Nat.two_pow_pos _
    · exact Nat.two_pow_pos _
    · rfl
  · rw [hlong]
    cases r.half <;> rfl

/-- A word with source 1 alone. -/
theorem Recoverable.ofA {i : Instr} {h : Hdr} {op d m n : Nat} {a : Src} {z : List (Nat × Nat)} {f : Form}
    (hraw : rawOf i = some (h.word op d a.code 0 0 m (halfFor (some a) none none)))
    (hform : formOf (h.word op d a.code 0 0 m (halfFor (some a) none none)) = some f) (hlong : f.long = .may)
    (huse : f.use (h.word op d a.code 0 0 m (halfFor (some a) none none)) = { d := n, s1 := 10, z := z }) (ha : a.inField = true)
    (hd : d < 2 ^ n) (hm : m < 65536) (hz : ∀ p ∈ z, slice m p.1 p.2 = 0)
    (hget : (h.word op d a.code 0 0 m (halfFor (some a) none none)).Sources (some a) none none →
      (h.word op d a.code 0 0 m (halfFor (some a) none none)).src1 0 = some a →
      f.get (h.word op d a.code 0 0 m (halfFor (some a) none none)) 0 = some i) : Recoverable i := by
  have hsrc : (h.word op d a.code 0 0 m (halfFor (some a) none none)).Sources (some a) none none :=
    Raw.sources_of_half rfl (slice_below hm) (.inr rfl)
  refine .ofSources (a := some a) (b := none) (c := none) hraw hform hlong rfl ?_ ?_ ?_ ?_ (Nat.lt_trans hm (by decide)) ?_ ?_
    (hget hsrc (hsrc.src1 ha rfl)) <;> rw [huse]
  · exact hd
  · exact Src.code_lt ha
  · exact Nat.two_pow_pos _
  · exact Nat.two_pow_pos _
  · exact hz
  · exact hsrc.imm.trans_lt (Nat.two_pow_pos _)

theorem md_lt {m : Nat} (hm : m < 65536) (b : Src) : m + 65536 * opselOf b < 2 ^ 18 := by
  have := opselOf_le b
  omega

theorem slice_opsel {m : Nat} (hm : m < 65536) (b : Src) : slice (m + 65536 * opselOf b) 16 2 = opselOf b :=
  slice_add_at rfl hm (Nat.lt_succ_of_le (opselOf_le b))

/-- A word with sources 1 and 2, and `m` in MOD below OPSEL. -/
abbrev Hdr.wordAB (h : Hdr) (op d m : Nat) (a b : Src) (s3 : Nat) : Raw :=
  h.word op d a.code b.code s3 (m + 65536 * opselOf b) (halfFor (some a) (some b) none)

theorem Recoverable.ofAB {i : Instr} {h : Hdr} {op d m s3 n k : Nat} {a b : Src} {z : List (Nat × Nat)} {f : Form}
    (hraw : rawOf i = some (h.wordAB op d m a b s3)) (hform : formOf (h.wordAB op d m a b s3) = some f) (hlong : f.long = .may)
    (huse : f.use (h.wordAB op d m a b s3) =
      { d := n, s1 := 10, s2 := useSrc2 (h.wordAB op d m a b s3), s3 := k, z := z, imm := useImm (h.wordAB op d m a b s3) false })
    (ha : a.inField = true) (hb : b.inSecond = true) (hd : d < 2 ^ n) (hs3 : s3 < 2 ^ k) (hm : m < 65536)
    (hz : ∀ p ∈ z, slice (m + 65536 * opselOf b) p.1 p.2 = 0)
    (hget : (h.wordAB op d m a b s3).Sources (some a) (some b) none → (h.wordAB op d m a b s3).src1 0 = some a →
      (h.wordAB op d m a b s3).src2 0 = some b → f.get (h.wordAB op d m a b s3) 0 = some i) : Recoverable i := by
  have hsrc : (h.wordAB op d m a b s3).Sources (some a) (some b) none := Raw.sources_of_half rfl (slice_opsel hm b) (.inr rfl)
  refine .ofSources (a := some a) (b := some b) (c := none) hraw hform hlong rfl ?_ ?_ ?_ ?_ (md_lt hm b) ?_ ?_
    (hget hsrc (hsrc.src1 ha rfl) (hsrc.src2 hb rfl)) <;> rw [huse]
  · exact hd
  · exact Src.code_lt ha
  · exact hsrc.s2_lt hb rfl
  · exact hs3
  · exact hz
  · exact hsrc.imm_lt (.inr rfl)

/-- A word with source 2 alone. -/
abbrev Hdr.wordB (h : Hdr) (op d s1 m : Nat) (b : Src) (s3 : Nat) : Raw :=
  h.word op d s1 b.code s3 (m + 65536 * opselOf b) (halfFor none (some b) none)

theorem Recoverable.ofB {i : Instr} {h : Hdr} {op d s1 m s3 n j k : Nat} {b : Src} {z : List (Nat × Nat)} {f : Form}
    (hraw : rawOf i = some (h.wordB op d s1 m b s3)) (hform : formOf (h.wordB op d s1 m b s3) = some f) (hlong : f.long = .may)
    (huse : f.use (h.wordB op d s1 m b s3) =
      { d := n, s1 := j, s2 := useSrc2 (h.wordB op d s1 m b s3), s3 := k, z := z, imm := useImm (h.wordB op d s1 m b s3) false })
    (hb : b.inSecond = true) (hd : d < 2 ^ n) (hs1 : s1 < 2 ^ j) (hs3 : s3 < 2 ^ k) (hm : m < 65536)
    (hz : ∀ p ∈ z, slice (m + 65536 * opselOf b) p.1 p.2 = 0)
    (hget : (h.wordB op d s1 m b s3).Sources none (some b) none → (h.wordB op d s1 m b s3).src2 0 = some b →
      f.get (h.wordB op d s1 m b s3) 0 = some i) : Recoverable i := by
  have hsrc : (h.wordB op d s1 m b s3).Sources none (some b) none := Raw.sources_of_half rfl (slice_opsel hm b) (.inr rfl)
  refine .ofSources (a := none) (b := some b) (c := none) hraw hform hlong rfl ?_ ?_ ?_ ?_ (md_lt hm b) ?_ ?_
    (hget hsrc (hsrc.src2 hb rfl)) <;> rw [huse]
  · exact hd
  · exact hs1
  · exact hsrc.s2_lt hb rfl
  · exact hs3
  · exact hz
  · exact hsrc.imm_lt (.inr rfl)

/-- A word with three sources. -/
abbrev Hdr.wordABC (h : Hdr) (op d m : Nat) (a b c : Src) : Raw :=
  h.word op d a.code b.code c.code (m + 65536 * opselOf b) (halfFor (some a) (some b) (some c))

theorem Recoverable.ofABC {i : Instr} {h : Hdr} {op d m n : Nat} {a b c : Src} {z : List (Nat × Nat)} {f : Form}
    (hraw : rawOf i = some (h.wordABC op d m a b c)) (hform : formOf (h.wordABC op d m a b c) = some f) (hlong : f.long = .may)
    (huse : f.use (h.wordABC op d m a b c) =
      { d := n, s1 := 10, s2 := useSrc2 (h.wordABC op d m a b c), s3 := useSrc3 (h.wordABC op d m a b c), z := z,
        imm := useImm (h.wordABC op d m a b c) true })
    (ha : a.inField = true) (hb : b.inSecond = true) (hc : b.Third c) (hd : d < 2 ^ n) (hm : m < 65536)
    (hz : ∀ p ∈ z, slice (m + 65536 * opselOf b) p.1 p.2 = 0)
    (hget : (h.wordABC op d m a b c).src1 0 = some a → (h.wordABC op d m a b c).src2 0 = some b →
      (h.wordABC op d m a b c).src3 0 = some c → f.get (h.wordABC op d m a b c) 0 = some i) : Recoverable i := by
  have hsrc : (h.wordABC op d m a b c).Sources (some a) (some b) (some c) :=
    Raw.sources_of_half rfl (slice_opsel hm b) (hc.high.imp_left (slice_opsel hm b).trans)
  refine .ofSources (a := some a) (b := some b) (c := some c) hraw hform hlong rfl ?_ ?_ ?_ ?_ (md_lt hm b) ?_ ?_
    (hget (hsrc.src1 ha rfl) (hsrc.src2 hb rfl) (hsrc.src3 hc rfl)) <;> rw [huse]
  · exact hd
  · exact Src.code_lt ha
  · exact hsrc.s2_lt hb rfl
  · exact hsrc.s3_lt hc rfl
  · exact hz
  · exact hsrc.imm_lt (.inl rfl)

theorem Src.immHigh_of_inField {c : Src} (hc : c.inField = true) : c.immHigh = 0 := by
  cases c with
  | i16 n => cases hc
  | _ => rfl

/-- A word that stores its source 3 (R286). -/
theorem Recoverable.ofStore {i : Instr} {h : Hdr} {op m : Nat} {a b c : Src} {z : List (Nat × Nat)} {f : Form}
    (hraw : rawOf i = some (h.wordABC op 0 m a b c)) (hform : formOf (h.wordABC op 0 m a b c) = some f) (hlong : f.long = .may)
    (huse : f.use (h.wordABC op 0 m a b c) =
      { s1 := 10, s2 := useSrc2 (h.wordABC op 0 m a b c), s3 := 10, z := z, imm := useImm (h.wordABC op 0 m a b c) false })
    (ha : a.inField = true) (hb : b.inSecond = true) (hc : c.inField = true) (hm : m < 65536)
    (hz : ∀ p ∈ z, slice (m + 65536 * opselOf b) p.1 p.2 = 0)
    (hget : (h.wordABC op 0 m a b c).src1 0 = some a → (h.wordABC op 0 m a b c).src2 0 = some b →
      (h.wordABC op 0 m a b c).srcAt 0 2 c.code = some c → f.get (h.wordABC op 0 m a b c) 0 = some i) : Recoverable i := by
  have hhigh := Src.immHigh_of_inField hc
  have hsrc : (h.wordABC op 0 m a b c).Sources (some a) (some b) (some c) := Raw.sources_of_half rfl (slice_opsel hm b) (.inr hhigh)
  refine .ofSources (a := some a) (b := some b) (c := some c) hraw hform hlong rfl ?_ ?_ ?_ ?_ (md_lt hm b) ?_ ?_
    (hget (hsrc.src1 ha rfl) (hsrc.src2 hb rfl) (Raw.srcAt_code hc hsrc.q3)) <;> rw [huse]
  · exact Nat.two_pow_pos _
  · exact Src.code_lt ha
  · exact hsrc.s2_lt hb rfl
  · exact Src.code_lt hc
  · exact hz
  · exact hsrc.imm_lt (.inr hhigh)

theorem Raw.Sources.qWithin {r : Raw} {a b c : Option Src} (h : r.Sources a b c) (js : List Nat) : r.qWithin js =
    ((js.contains 0 || !a.any Src.isQ) && ((js.contains 1 || !b.any Src.isQ) && (js.contains 2 || !c.any Src.isQ))) := by
  simp [Raw.qWithin, h.q1, h.q2, h.q3]

/-- What a well-formed instruction is encoded as decodes to it. -/
def RoundTrips (i : Instr) : Prop := i.wf = true → Recoverable i

theorem of_and {a b : Bool} (h : (a && b) = true) : b = true := (Bool.and_eq_true_iff.1 h).2
theorem of_and_left {a b : Bool} (h : (a && b) = true) : a = true := (Bool.and_eq_true_iff.1 h).1

theorem Reg.ok_of_ite {c : Bool} {r : Reg} (h : (if c then r.okPair else r.ok) = true) : r.ok = true := by
  cases c
  · exact h
  · exact Reg.ok_of_okPair h

theorem Int2.operands_of_ok {o : Int2} {tys : List Ty} {sat : Bool} (h : o.ok tys sat = true) :
    o.d.ok = true ∧ o.a.inField = true ∧ o.b.inSecond = true := by
  simp only [Int2.ok, Bool.and_eq_true] at h
  obtain ⟨⟨⟨-, hd⟩, ha⟩, hb⟩ := h
  exact ⟨Reg.ok_of_ite hd, Src.inField_of_okReg ha, Src.inSecond_of_okImm hb⟩

theorem Int2.operands_of_okAmt {o : Int2} {tys : List Ty} (h : o.okAmt tys = true) :
    o.d.ok = true ∧ o.a.inField = true ∧ o.b.inSecond = true := by
  simp only [Int2.okAmt, Bool.and_eq_true] at h
  obtain ⟨⟨⟨-, hd⟩, ha⟩, hb⟩ := h
  exact ⟨Reg.ok_of_ite hd, Src.inField_of_okReg ha, Src.inSecond_of_okImm hb⟩

theorem int2_roundTrips {mk : Hdr → Int2 → Instr} {h : Hdr} {op : Nat} {o : Int2} (hraw : rawOf (mk h o) = some (rawInt2 h op o))
    (hform : formOf (rawInt2 h op o) = some (formInt2 mk))
    (hwf : (mk h o).wf = true → o.d.ok = true ∧ o.a.inField = true ∧ o.b.inSecond = true) : RoundTrips (mk h o) := by
  intro hi
  obtain ⟨hd, ha, hb⟩ := hwf hi
  have := o.ty.code_lt
  have := bit_le o.sat
  refine .ofAB hraw hform rfl rfl ha hb (Reg.code_lt hd) (Nat.two_pow_pos _) (by omega) ?_ fun hsrc h1 h2 => ?_
  · simp (disch := omega) [fnZ]
  · simp (disch := omega) [formInt2, hsrc.qWithin, h1, h2, Reg.ofCode_code hd]

end Sys2Proof
end

section
/-! SUPPORT. Round trips of the control, integer and move instructions (R226 to R251). -/

namespace Sys2Proof

theorem plain_roundTrips {mk : Hdr → Instr} {h : Hdr} {op : Nat} (hraw : rawOf (mk h) = some (h.word op 0 0 0 0 0 none))
    (hform : formOf (h.word op 0 0 0 0 0 none) = some (formPlain mk)) : RoundTrips (mk h) := fun _ =>
  .short hraw hform rfl (Nat.two_pow_pos _) (Nat.two_pow_pos _) (Nat.two_pow_pos _) (Nat.two_pow_pos _) (by decide)
    (by simp (disch := omega) [formPlain]) (by simp [formPlain])

theorem ofNat_eq_of_mod {n x : Nat} {v : BitVec n} (h : x % 2 ^ n = v.toNat) : BitVec.ofNat n x = v :=
  BitVec.eq_of_toNat_eq ((BitVec.toNat_ofNat x n).trans h)

theorem bra_roundTrips {mk : Hdr → BraOps → Instr} {h : Hdr} {op : Nat} {o : BraOps} (hraw : rawOf (mk h o) = some (rawBra h op o))
    (hform : formOf (rawBra h op o) = some (formBra mk)) : RoundTrips (mk h o) := by
  intro _
  have := o.offset.isLt
  refine .short (md := 0) hraw hform rfl ?_ ?_ ?_ ?_ (by decide) ?_ ?_
  · simp only [formBra]; omega
  · simp only [formBra, slice]; omega
  · simp only [formBra, slice]; omega
  · simp only [formBra, slice]; omega
  · simp (disch := omega) [formBra]
  · have hprio : BitVec.ofNat 8 (o.prio.toNat + 256 * (o.offset.toNat % 4)) = o.prio := ofNat_eq_of_mod (by omega)
    have hoffset : BitVec.ofNat 32 ((o.prio.toNat + 256 * (o.offset.toNat % 4)) / 2 ^ 8 + 4 * slice o.offset.toNat 2 10 +
        2 ^ 12 * slice o.offset.toNat 12 10 + 2 ^ 22 * slice o.offset.toNat 22 10) = o.offset :=
      ofNat_eq_of_mod (by simp only [slice]; omega)
    simp only [formBra, Hdr.word_d, Hdr.word_s1, Hdr.word_s2, Hdr.word_s3, Hdr.word_hdr, hprio, hoffset]

theorem brx_roundTrips {mk : Hdr → BrxOps → Instr} {h : Hdr} {op : Nat} {o : BrxOps}
    (hraw : rawOf (mk h o) = some (h.word op o.prio.toNat o.va 0 0 0 none))
    (hform : formOf (h.word op o.prio.toNat o.va 0 0 0 none) = some (formBrx mk))
    (hwf : (mk h o).wf = true → vPair o.va = true) : RoundTrips (mk h o) := by
  intro hi
  have hva := vOk_of_vPair (hwf hi)
  refine .short hraw hform rfl o.prio.isLt (vOk_lt hva) (Nat.two_pow_pos _) (Nat.two_pow_pos _) (by decide) ?_ ?_
  · simp (disch := omega) [formBrx]
  · simp [formBrx, vCode_of_ok hva]

theorem endl_roundTrips (h : Hdr) (k : BitVec 20) : RoundTrips (.endl h k) := by
  intro _
  refine .short (d := 0) (s1 := 0) (md := 0) (f := formEndl) rfl (congrArg some (if_neg (by simp [bitAt, slice]))) rfl (Nat.two_pow_pos _)
    (Nat.two_pow_pos _) (Nat.mod_lt _ (Nat.two_pow_pos 10)) ?_ (by decide) ?_ ?_
  · simp only [formEndl]; omega
  · simp (disch := omega) [formEndl]
  · have hk : BitVec.ofNat 20 (k.toNat % 1024 + 2 ^ 10 * (k.toNat / 1024)) = k := ofNat_eq_of_mod (by omega)
    simp only [formEndl, Hdr.word_s2, Hdr.word_s3, Hdr.word_hdr, hk]

theorem endlBrk_roundTrips (h : Hdr) : RoundTrips (.endlBrk h) := fun _ =>
  .short (md := 1) (f := formEndlBrk) rfl (congrArg some (if_pos (by simp [bitAt, slice]))) rfl (Nat.two_pow_pos _) (Nat.two_pow_pos _)
    (Nat.two_pow_pos _) (Nat.two_pow_pos _) (by decide)
    (by simp [formEndlBrk, slice]) (by simp [formEndlBrk])

theorem wsync_roundTrips (h : Hdr) (r : Reg) : RoundTrips (.wsync h r) := by
  intro hi
  have hr := Reg.ok_of_okPair (of_and hi)
  exact .short (f := formWsync) rfl rfl rfl (Nat.two_pow_pos _) (Reg.code_lt hr) (Nat.two_pow_pos _) (Nat.two_pow_pos _) (by decide)
    (by simp (disch := omega) [formWsync]) (by simp [formWsync, Reg.ofCode_code hr])

/-- A literal in SRC1 (R227, R304, R321). -/
theorem lit1_roundTrips {i : Instr} {mk : Hdr → Nat → Instr} {h : Hdr} {op x md n : Nat} {z : List (Nat × Nat)}
    (hraw : rawOf i = some (h.word op 0 x 0 0 md none)) (hform : formOf (h.word op 0 x 0 0 md none) = some (formLit1 n z mk))
    (hx : x < 2 ^ n) (hmd : md < 2 ^ 18) (hz : ∀ p ∈ z, slice md p.1 p.2 = 0) (hget : mk h x = i) : RoundTrips i := fun _ =>
  .short hraw hform rfl (Nat.two_pow_pos _) hx (Nat.two_pow_pos _) (Nat.two_pow_pos _) hmd hz (by simp [formLit1, hget])

/-- A literal in DST (R227, R321, R333). -/
theorem litD_roundTrips {i : Instr} {mk : Hdr → Nat → Instr} {h : Hdr} {op x n : Nat}
    (hraw : rawOf i = some (h.word op x 0 0 0 0 none)) (hform : formOf (h.word op x 0 0 0 0 none) = some (formLitD n mk))
    (hx : x < 2 ^ n) (hget : mk h x = i) : RoundTrips i := fun _ =>
  .short hraw hform rfl hx (Nat.two_pow_pos _) (Nat.two_pow_pos _) (Nat.two_pow_pos _) (by decide)
    (by simp (disch := omega) [formLitD]) (by simp [formLitD, hget])

theorem trap_roundTrips (h : Hdr) (n : BitVec 8) : RoundTrips (.trap h n) := fun _ =>
  .short (f := formTrap) rfl rfl rfl (Nat.two_pow_pos _) (Nat.two_pow_pos _) (Nat.two_pow_pos _) (Nat.two_pow_pos _) (by omega)
    (by simp (disch := omega) [formTrap]) (by simp [formTrap])

theorem gset_roundTrips (h : Hdr) (o : GsetOps) : RoundTrips (.gset h o) := fun _ =>
  .short (f := formGset) rfl rfl rfl o.g.isLt o.pa.code_lt (Nat.two_pow_pos _) (Nat.two_pow_pos _) (by decide)
    (by simp (disch := omega) [formGset]) (by simp [formGset])

theorem wsplice_roundTrips (h : Hdr) (o : WspliceOps) : RoundTrips (.wsplice h o) := by
  intro hi
  have hvd : vOk o.vd = true := of_and (of_and_left hi)
  exact .short (f := formWsplice) rfl rfl rfl (vOk_lt hvd) o.tag.isLt (Nat.two_pow_pos _) (Nat.two_pow_pos _) (by omega)
    (by simp (disch := omega) [formWsplice]) (by simp [formWsplice, vCode_of_ok hvd])

/-! ### Integer words (R242 to R260) -/

theorem loop_roundTrips (h : Hdr) (o : LoopOps) : RoundTrips (.loop h o) := by
  intro hi
  obtain ⟨count, skip⟩ := o
  have hs2 : skip.toNat % 1024 < 2 ^ 10 := Nat.mod_lt _ (Nat.two_pow_pos 10)
  have hs3 : skip.toNat / 1024 < 2 ^ 10 := by omega
  have hcount := of_and hi
  cases count with
  | reg r =>
    have hr : r.ok = true := hcount
    have hraw : rawOf (.loop h ⟨.reg r, skip⟩) = some (h.word 0x007 0 r.code (skip.toNat % 1024) (skip.toNat / 1024) 0 none) := rfl
    refine .short (f := formLoop) hraw rfl rfl (Nat.two_pow_pos _) ?_ hs2 hs3 (by decide) ?_ ?_
    · simpa [formLoop, bitAt] using Reg.code_lt hr
    · simp [formLoop]
    · simp [formLoop, bitAt, Reg.ofCode_code hr, Raw.qWithin, Raw.qbit, Nat.mod_add_div]
  | i32 n =>
    have hraw : rawOf (.loop h ⟨.i32 n, skip⟩) =
        some (h.word 0x007 0 0 (skip.toNat % 1024) (skip.toNat / 1024) 1 (some ⟨0, n.toNat, 0, 0, 0⟩)) := rfl
    have hbit : slice 1 0 1 = 1 := by decide
    refine .long (f := formLoop) hraw rfl rfl (Nat.two_pow_pos _) (Nat.two_pow_pos _) hs2 hs3 (by decide) ?_ (Nat.two_pow_pos _) ?_ ?_
    · simp [formLoop, slice]
    · refine ⟨Nat.two_pow_pos _, Nat.two_pow_pos _, ?_, rfl⟩
      simpa [formLoop, bitAt, hbit] using n.isLt
    · simp [formLoop, bitAt, hbit, Raw.qWithin, Raw.qbit, Raw.imm, Nat.mod_add_div]
  | _ => cases hcount

theorem Int1.operands_of_ok {o : Int1} {tys : List Ty} {sat : Bool} (h : o.ok tys sat = true) : o.d.ok = true ∧ o.a.inField = true := by
  simp only [Int1.ok, Bool.and_eq_true] at h
  obtain ⟨⟨-, hd⟩, ha⟩ := h
  exact ⟨Reg.ok_of_ite hd, Src.inField_of_okReg ha⟩

theorem int1_roundTrips {mk : Hdr → Int1 → Instr} {h : Hdr} {op : Nat} {o : Int1} (hraw : rawOf (mk h o) = some (rawInt1 h op o))
    (hform : formOf (rawInt1 h op o) = some (formInt1 mk))
    (hwf : (mk h o).wf = true → o.d.ok = true ∧ o.a.inField = true) : RoundTrips (mk h o) := by
  intro hi
  obtain ⟨hd, ha⟩ := hwf hi
  have := o.ty.code_lt
  have := bit_le o.sat
  refine .ofA hraw hform rfl rfl ha (Reg.code_lt hd) (by omega) ?_ fun hsrc h1 => ?_
  · simp (disch := omega) [fnZ]
  · simp (disch := omega) [formInt1, hsrc.qWithin, h1, Reg.ofCode_code hd]

theorem Int3.operands_of_ok {o : Int3} {tys : List Ty} {sat : Bool} (h : o.ok tys sat = true) :
    o.d.ok = true ∧ o.a.inField = true ∧ o.b.inSecond = true ∧ o.b.Third o.c := by
  simp only [Int3.ok, Bool.and_eq_true] at h
  obtain ⟨⟨⟨⟨-, hd⟩, ha⟩, hb⟩, hc⟩ := h
  exact ⟨Reg.ok_of_ite hd, Src.inField_of_okReg ha, Src.inSecond_of_okImm hb, Src.third_of_okThird hc⟩

theorem Int3.operands_of_okWide {o : Int3} (h : o.okWide = true) :
    o.d.ok = true ∧ o.a.inField = true ∧ o.b.inSecond = true ∧ o.b.Third o.c := by
  simp only [Int3.okWide, Bool.and_eq_true] at h
  obtain ⟨⟨⟨⟨-, hd⟩, ha⟩, hb⟩, hc⟩ := h
  exact ⟨Reg.ok_of_okPair hd, Src.inField_of_okReg ha, Src.inSecond_of_okImm hb, Src.third_of_okThird hc⟩

theorem int3_roundTrips {mk : Hdr → Int3 → Instr} {h : Hdr} {op : Nat} {o : Int3} (hraw : rawOf (mk h o) = some (rawInt3 h op o))
    (hform : formOf (rawInt3 h op o) = some (formInt3 mk))
    (hwf : (mk h o).wf = true → o.d.ok = true ∧ o.a.inField = true ∧ o.b.inSecond = true ∧ o.b.Third o.c) : RoundTrips (mk h o) := by
  intro hi
  obtain ⟨hd, ha, hb, hc⟩ := hwf hi
  have := o.ty.code_lt
  have := bit_le o.sat
  refine .ofABC hraw hform rfl rfl ha hb hc (Reg.code_lt hd) (by omega) ?_ fun h1 h2 h3 => ?_
  · simp (disch := omega) [fnZ]
  · simp (disch := omega) [formInt3, h1, h2, h3, Reg.ofCode_code hd]

theorem lop3_roundTrips (h : Hdr) (o : Lop3Ops) : RoundTrips (.lop3 h o) := by
  intro hi
  unfold Instr.wf at hi
  simp only [Bool.and_eq_true] at hi
  obtain ⟨⟨⟨⟨-, hd⟩, ha⟩, hb⟩, hc⟩ := hi
  refine .ofABC (m := 32 * (o.lut.toNat % 8) + 512 * (o.lut.toNat / 8)) (f := formLop3) rfl rfl rfl rfl (Src.inField_of_okReg ha)
    (Src.inSecond_of_okImm hb) (Src.third_of_okThird hc) (Reg.code_lt hd) (by omega) ?_ fun h1 h2 h3 => ?_
  · simp (disch := omega) [fnZ]
  · simp (disch := omega) [formLop3, h1, h2, h3, Reg.ofCode_code hd, Nat.mod_add_div]

theorem shf_roundTrips (h : Hdr) (o : ShfOps) : RoundTrips (.shf h o) := by
  intro hi
  unfold Instr.wf at hi
  simp only [Bool.and_eq_true] at hi
  obtain ⟨⟨⟨⟨-, hd⟩, ha⟩, hb⟩, hc⟩ := hi
  have := bit_le o.right
  have hmd : fnMd (bit o.right) = 32 * bit o.right := by unfold fnMd; omega
  refine .ofABC (m := 32 * bit o.right) (f := formShf) (by rw [← hmd]; rfl) rfl rfl rfl (Src.inField_of_okReg ha)
    (Src.inSecond_of_okImm hb) (Src.third_of_okThird hc) (Reg.code_lt hd) (by omega) ?_ fun h1 h2 h3 => ?_
  · simp (disch := omega) [fnZ]
  · simp (disch := omega) [formShf, h1, h2, h3, Reg.ofCode_code hd, bitAt]

/-- Without a combination the predicate field stays zero (R247, R269). -/
theorem Pred.code_lt_of_comb {p : Pred} {c : Comb} {b : Bool} (h : (if c == .none then decide (p = ⟨0, false⟩) else b) = true) :
    p.code < 2 ^ (if c.code = 0 then 0 else 4) := by
  cases c with
  | none => rw [of_decide_eq_true h]; decide
  | _ => exact p.code_lt

theorem isetp_roundTrips (h : Hdr) (o : IsetpOps) : RoundTrips (.isetp h o) := by
  intro hi
  unfold Instr.wf at hi
  simp only [Bool.and_eq_true] at hi
  obtain ⟨⟨⟨-, ha⟩, hb⟩, hc⟩ := hi
  have := o.ty.code_lt
  have := o.cond.code_lt
  have := o.comb.code_lt
  have hmd : o.ty.code + fnMd (o.cond.code + 8 * o.comb.code) = o.ty.code + 32 * o.cond.code + 512 * o.comb.code := by unfold fnMd; omega
  refine .ofAB (m := o.ty.code + 32 * o.cond.code + 512 * o.comb.code) (f := formIsetp) (by rw [← hmd]; rfl) rfl rfl rfl
    (Src.inField_of_okReg ha) (Src.inSecond_of_okImm hb) o.pd.isLt ?_ (by omega) ?_ fun hsrc h1 h2 => ?_
  · simpa (disch := omega) using Pred.code_lt_of_comb hc
  · simp (disch := omega) [fnZ]
  · simp (disch := omega) [formIsetp, hsrc.qWithin, h1, h2]

theorem isel_roundTrips (h : Hdr) (o : IselOps) : RoundTrips (.isel h o) := by
  intro hi
  unfold Instr.wf at hi
  simp only [Bool.and_eq_true] at hi
  obtain ⟨⟨⟨⟨-, hd⟩, ha⟩, hb⟩, -⟩ := hi
  have hd := Reg.ok_of_ite hd
  have := o.ty.code_lt
  refine .ofAB (op := 0x09A) (d := o.d.code) (m := o.ty.code) (f := formIsel) rfl rfl rfl rfl (Src.inField_of_okReg ha)
    (Src.inSecond_of_okImm hb) (Reg.code_lt hd)
    o.pc.code_lt (by omega) ?_ fun hsrc h1 h2 => ?_
  · simp (disch := omega) [fnZ]
  · simp (disch := omega) [formIsel, hsrc.qWithin, h1, h2, Reg.ofCode_code hd]

theorem lea_roundTrips (h : Hdr) (o : LeaOps) : RoundTrips (.lea h o) := by
  intro hi
  unfold Instr.wf at hi
  simp only [Bool.and_eq_true] at hi
  obtain ⟨⟨⟨-, hd⟩, ha⟩, hb⟩ := hi
  have hd := Reg.ok_of_okPair hd
  have ha := Reg.ok_of_okPair ha
  have := o.ty.code_lt
  have hmd : o.ty.code + fnMd o.sh.toNat = o.ty.code + 32 * o.sh.toNat := by unfold fnMd; omega
  refine .ofAB (m := o.ty.code + 32 * o.sh.toNat) (a := .reg o.a) (f := formLea) (by rw [← hmd]; rfl) rfl rfl rfl ha
    (Src.inSecond_of_okImm hb) (Reg.code_lt hd) (Nat.two_pow_pos _) (by omega) ?_ fun hsrc h1 h2 => ?_
  · simp (disch := omega) [fnZ]
  · simp (disch := omega) [formLea, hsrc.qWithin, Src.isQ, h2, Src.code, Reg.ofCode_code hd, Reg.ofCode_code ha]

theorem psetp_roundTrips (h : Hdr) (o : PsetpOps) : RoundTrips (.psetp h o) := by
  intro _
  have hform : ∀ d s1 s2 s3, formOf (h.word 0x09D d s1 s2 s3 (32 * (o.lut.toNat % 8) + 512 * (o.lut.toNat / 8)) none) = some formPsetp := by
    intro d s1 s2 s3
    show some (formPsetpOf _) = _
    simp (disch := omega) [formPsetpOf]
  refine .short (f := formPsetp) (md := 32 * (o.lut.toNat % 8) + 512 * (o.lut.toNat / 8)) rfl (hform _ _ _ _) rfl o.pd.isLt o.pa.isLt
    o.pb.isLt o.pc.isLt (by omega) ?_ ?_
  · simp (disch := omega) [formPsetp]
  · simp (disch := omega) [formPsetp, Nat.mod_add_div]

theorem psetpG_roundTrips (h : Hdr) (o : PsetpGOps) : RoundTrips (.psetpG h o) := by
  intro _
  have hform : ∀ d s1 s2 s3, formOf (h.word 0x09D d s1 s2 s3 16384 none) = some formPsetpG := by
    intro d s1 s2 s3
    show some (formPsetpOf _) = _
    simp [formPsetpOf, slice]
  have hlow : BitVec.ofNat 3 (o.pd.toNat + 8 * o.pe.toNat) = o.pd := ofNat_eq_of_mod (by omega)
  have hhigh : BitVec.ofNat 3 ((o.pd.toNat + 8 * o.pe.toNat) / 8) = o.pe := ofNat_eq_of_mod (by omega)
  refine .short (f := formPsetpG) (s2 := 0) (s3 := 0) (md := 16384) rfl (hform _ _ _ _) rfl ?_ o.g.isLt (Nat.two_pow_pos _)
    (Nat.two_pow_pos _) (by decide) ?_ ?_
  · simp only [formPsetpG]
    omega
  · simp [formPsetpG, slice]
  · simp [formPsetpG, slice, hlow, hhigh]

theorem movi_roundTrips (h : Hdr) (o : MoviOps) : RoundTrips (.movi h o) := by
  intro hi
  unfold Instr.wf at hi
  simp only [Bool.and_eq_true] at hi
  obtain ⟨⟨-, hd⟩, himm⟩ := hi
  have hd := Reg.ok_of_ite hd
  have hb : o.imm.inSecond = true ∧ o.imm.isQ = false ∧ opselOf o.imm ≠ 0 := by
    cases hx : o.imm <;> simp_all [Src.inSecond, Src.isQ, opselOf]
  obtain ⟨hb, hq, hsel⟩ := hb
  have := o.ty.code_lt
  have := opselOf_le o.imm
  refine .ofB (m := o.ty.code) (f := formMovi) rfl rfl rfl rfl hb (Reg.code_lt hd) (Nat.two_pow_pos _) (Nat.two_pow_pos _) (by omega) ?_
    fun hsrc h2 => ?_
  · simp (disch := omega) [fnZ]
  · simp (disch := omega) [formMovi, hsrc.qWithin, h2, hq, hsel, Reg.ofCode_code hd]

theorem smov_operands {o : SmovOps} {hok t : Bool}
    (hi : (hok && t && sOk o.d && sOk o.a && (!o.ty.is64 || (sPair o.d && sPair o.a)) &&
      (match o.idx with | .reg (.s n) => sOk n | .i10 _ => true | _ => false)) = true) :
    sOk o.d = true ∧ sOk o.a = true ∧ o.idx.inSecond = true ∧ o.idx.isQ = false := by
  simp only [Bool.and_eq_true] at hi
  obtain ⟨⟨⟨⟨-, hd⟩, ha⟩, -⟩, hb⟩ := hi
  refine ⟨hd, ha, ?_⟩
  split at hb
  · rename_i n hn
    simp [hn, Src.inSecond, Src.isQ, Reg.ok, of_decide_eq_true hb]
  · rename_i n hn
    simp [hn, Src.inSecond, Src.isQ]
  · cases hb

theorem smov_roundTrips (h : Hdr) (o : SmovOps) : RoundTrips (.smov h o) := by
  intro hi
  obtain ⟨hd, ha, hb, hq⟩ := smov_operands hi
  have := o.ty.code_lt
  have := opselOf_le o.idx
  refine .ofB (m := o.ty.code) (f := formSmov .smov) rfl ?_ rfl rfl hb (sOk_lt hd) (sOk_lt ha) (Nat.two_pow_pos _) (by omega) ?_ fun hsrc h2 => ?_
  · exact congrArg some (if_neg (by simp (disch := omega) [bitAt]))
  · simp (disch := omega) [fnZ]
  · simp (disch := omega) [formSmov, hsrc.qWithin, h2, hq]

theorem smovSt_roundTrips (h : Hdr) (o : SmovOps) : RoundTrips (.smovSt h o) := by
  intro hi
  obtain ⟨hd, ha, hb, hq⟩ := smov_operands hi
  have := o.ty.code_lt
  have := opselOf_le o.idx
  refine .ofB (m := o.ty.code + 32 * 1) (f := formSmov .smovSt) rfl ?_ rfl rfl hb (sOk_lt hd) (sOk_lt ha) (Nat.two_pow_pos _) (by omega) ?_
    fun hsrc h2 => ?_
  · exact congrArg some (if_pos (by simp (disch := omega) only [bitAt, Hdr.word_md, slice_add_above, slice_add_at]; rfl))
  · simp (disch := omega) [fnZ]
  · have hty : slice (o.ty.code + 32) 0 5 = o.ty.code := by simp only [slice]; omega
    simp (disch := omega) [formSmov, hsrc.qWithin, h2, hq, hty]

end Sys2Proof
end

section
/-! SUPPORT. Round trips of the warp, floating-point, conversion and flag instructions (R252 to R279). -/

namespace Sys2Proof

theorem ubcast_roundTrips (h : Hdr) (o : UbcastOps) : RoundTrips (.ubcast h o) := by
  intro hi
  unfold Instr.wf at hi
  simp only [Bool.and_eq_true] at hi
  obtain ⟨⟨⟨-, hd⟩, ha⟩, hb⟩ := hi
  have hd : sOk o.d = true := by
    split at hd
    · exact sOk_of_sPair hd
    · exact hd
  have ha : o.a.inField = true := by
    split at ha
    · rename_i n hn
      rw [hn]
      split at ha
      · exact vOk_of_vPair ha
      · exact ha
    · rename_i n hn
      rw [hn]
      rfl
    · cases ha
  have hb : o.idx.inSecond = true ∧ o.idx.isQ = false := by
    cases hx : o.idx with
    | reg r => cases r <;> simp_all [Src.inSecond, Src.isQ, Reg.ok, sOk]
    | _ => simp_all [Src.inSecond, Src.isQ]
  obtain ⟨hb, hq⟩ := hb
  have := o.ty.code_lt
  refine .ofAB (m := o.ty.code) (f := formUbcast) rfl rfl rfl rfl ha hb (sOk_lt hd) (Nat.two_pow_pos _) (by omega) ?_ fun hsrc h1 h2 => ?_
  · simp (disch := omega) [fnZ]
  · simp (disch := omega) [formUbcast, hsrc.qWithin, h1, h2, hq]

theorem spr_roundTrips (h : Hdr) (o : SprOps) : RoundTrips (.spr h o) := by
  intro hi
  have hd : o.d.ok = true := of_and (of_and_left hi)
  refine .short (d := o.d.code) (f := formSpr) (md := 32 * (o.idx.toNat % 8) + 512 * (o.idx.toNat / 8)) rfl rfl rfl (Reg.code_lt hd)
    (Nat.two_pow_pos _) (Nat.two_pow_pos _) (Nat.two_pow_pos _) (by omega) ?_ ?_
  · simp (disch := omega) [formSpr]
  · simp (disch := omega) [formSpr, Nat.mod_add_div, Reg.ofCode_code hd]

theorem shfl_roundTrips (h : Hdr) (o : ShflOps) : RoundTrips (.shfl h o) := by
  intro hi
  unfold Instr.wf at hi
  simp only [Bool.and_eq_true] at hi
  obtain ⟨⟨⟨-, hd⟩, ha⟩, hb⟩ := hi
  have hd := Reg.ok_of_ite hd
  have := o.ty.code_lt
  have := o.mode.code_lt
  have hmd : o.ty.code + fnMd o.mode.code = o.ty.code + 32 * o.mode.code := by unfold fnMd; omega
  refine .ofAB (m := o.ty.code + 32 * o.mode.code) (f := formShfl) (by rw [← hmd]; rfl) rfl rfl rfl (Src.inField_of_okReg ha)
    (Src.inSecond_of_okImm hb) (Reg.code_lt hd) (Nat.two_pow_pos _) (by omega) ?_ fun hsrc h1 h2 => ?_
  · simp (disch := omega) [fnZ]
  · simp (disch := omega) [formShfl, hsrc.qWithin, h1, h2, Reg.ofCode_code hd]

theorem vote_roundTrips (h : Hdr) (o : VoteOps) : RoundTrips (.vote h o) := by
  intro hi
  have hdst := of_and hi
  obtain ⟨dst, pa⟩ := o
  cases dst with
  | all p =>
    refine .short (d := p.toNat) (s1 := pa.code) (md := 0) (f := formVote) rfl rfl rfl ?_ pa.code_lt (Nat.two_pow_pos _) (Nat.two_pow_pos _)
      (by decide) ?_ ?_
    · simpa [formVote] using p.isLt
    · simp [formVote, fnZ]
    · simp [formVote]
  | any p =>
    refine .short (d := p.toNat) (s1 := pa.code) (md := 32) (f := formVote) rfl rfl rfl ?_ pa.code_lt (Nat.two_pow_pos _) (Nat.two_pow_pos _)
      (by decide) ?_ ?_
    · simpa [formVote, slice] using p.isLt
    · simp [formVote, fnZ, slice]
    · simp [formVote, slice]
  | uni p =>
    refine .short (d := p.toNat) (s1 := pa.code) (md := 64) (f := formVote) rfl rfl rfl ?_ pa.code_lt (Nat.two_pow_pos _) (Nat.two_pow_pos _)
      (by decide) ?_ ?_
    · simpa [formVote, slice] using p.isLt
    · simp [formVote, fnZ, slice]
    · simp [formVote, slice]
  | ballot d =>
    have hd : d.ok = true := Reg.ok_of_okPair hdst
    refine .short (d := d.code) (s1 := pa.code) (md := 96) (f := formVote) rfl rfl rfl ?_ pa.code_lt (Nat.two_pow_pos _) (Nat.two_pow_pos _)
      (by decide) ?_ ?_
    · simpa [formVote, slice] using Reg.code_lt hd
    · simp [formVote, fnZ, slice]
    · simp [formVote, slice, Reg.ofCode_code hd]

/-- A warp reduction: its second half, where it has one, holds the rounding mode and whether the source is a queue (R252). -/
theorem Recoverable.reduction {i : Instr} {h : Hdr} {op d m : Nat} {a : Src} {rnd : Rnd} {z : List (Nat × Nat)} {f : Form} {r : Raw}
    (hr : r = h.word op d a.code 0 0 m (redHalf a rnd)) (hraw : rawOf i = some r) (hform : formOf r = some f) (hlong : f.long = .may)
    (huse : f.use r = { d := 10, s1 := 10, z := z, xm := 3 }) (ha : a.inField = true) (hd : d < 2 ^ 10) (hm : m < 2 ^ 18)
    (hz : ∀ p ∈ z, slice m p.1 p.2 = 0)
    (hget : r.xrnd = some rnd → r.src1 0 = some a → r.qWithin [0] = true → f.get r 0 = some i) : Recoverable i := by
  unfold redHalf at hr
  split at hr
  · have hq : bitAt (bit a.isQ) 0 = a.isQ := by cases a.isQ <;> decide
    have hhigh : bitAt (bit a.isQ) 1 = false ∧ bitAt (bit a.isQ) 2 = false := by cases a.isQ <;> decide
    have hbit := bit_le a.isQ
    subst hr
    refine .long hraw hform (by rw [hlong]; rfl) ?_ ?_ ?_ ?_ hm ?_ (Nat.lt_of_le_of_lt hbit (by decide)) ?_
      (hget (by simp [Raw.xrnd]) (Raw.srcAt_code ha (by simp [Raw.qbit, hq])) (by simp [Raw.qWithin, Raw.qbit, hhigh])) <;> rw [huse]
    · exact hd
    · exact Src.code_lt ha
    · exact Nat.two_pow_pos _
    · exact Nat.two_pow_pos _
    · exact hz
    · exact ⟨Nat.two_pow_pos _, rnd.code_lt.trans (show 5 < 2 ^ 3 by decide), Nat.two_pow_pos _, rfl⟩
  · rename_i hcond
    simp only [ne_eq, Bool.or_eq_true, decide_eq_true_eq, not_or, not_not, Bool.not_eq_true] at hcond
    obtain ⟨hrnd, hq⟩ := hcond
    have hrn : rnd = .rn := by cases rnd <;> simp_all [Rnd.code]
    subst hr
    refine .short hraw hform (by rw [hlong]; rfl) ?_ ?_ ?_ ?_ hm ?_
      (hget (by simp [Raw.xrnd, hrn]) (Raw.srcAt_code ha (by simp [Raw.qbit, hq])) (by simp [Raw.qWithin, Raw.qbit])) <;> rw [huse]
    · exact hd
    · exact Src.code_lt ha
    · exact Nat.two_pow_pos _
    · exact Nat.two_pow_pos _
    · exact hz

theorem redW_roundTrips (h : Hdr) (o : RedWOps) : RoundTrips (.redW h o) := by
  intro hi
  unfold Instr.wf at hi
  simp only [Bool.and_eq_true] at hi
  obtain ⟨⟨-, hd⟩, ha⟩ := hi
  have hd := Reg.ok_of_ite hd
  have ha := Src.inField_of_okReg ha
  have := o.ty.code_lt
  have := bit_le o.sat
  have := o.op.code_lt
  have hmd : o.ty.code + 256 * bit o.sat + fnMd o.op.code = o.ty.code + 32 * o.op.code + 256 * bit o.sat := by unfold fnMd; omega
  refine .reduction (m := o.ty.code + 32 * o.op.code + 256 * bit o.sat) rfl (by rw [← hmd]; rfl) rfl rfl rfl ha (Reg.code_lt hd) (by omega) ?_
    fun h1 h2 h3 => ?_
  · simp (disch := omega) [fnZ]
  · simp (disch := omega) [formRedW, h1, h2, h3, Reg.ofCode_code hd]

theorem scanW_roundTrips (h : Hdr) (o : ScanWOps) : RoundTrips (.scanW h o) := by
  intro hi
  unfold Instr.wf at hi
  simp only [Bool.and_eq_true] at hi
  obtain ⟨⟨-, hd⟩, ha⟩ := hi
  have hd := Reg.ok_of_ite hd
  have ha := Src.inField_of_okReg ha
  have := o.ty.code_lt
  have := bit_le o.sat
  have := bit_le o.ex
  have := o.op.code_lt
  have hmd : o.ty.code + 256 * bit o.sat + fnMd (o.op.code + 8 * bit o.ex) =
      o.ty.code + 32 * o.op.code + 256 * bit o.sat + 512 * bit o.ex := by unfold fnMd; omega
  have hop : (o.op.code + 8 * bit o.ex) % 8 = o.op.code := by omega
  refine .reduction (m := o.ty.code + 32 * o.op.code + 256 * bit o.sat + 512 * bit o.ex) rfl (by rw [← hmd]; rfl) rfl rfl rfl ha
    (Reg.code_lt hd) (by omega) ?_ fun h1 h2 h3 => ?_
  · simp (disch := omega) [fnZ]
  · simp (disch := omega) [formScanW, h1, h2, h3, Reg.ofCode_code hd, bitAt, hop]

theorem vslide_roundTrips (h : Hdr) (o : VslideOps) : RoundTrips (.vslide h o) := by
  intro hi
  unfold Instr.wf at hi
  simp only [Bool.and_eq_true] at hi
  obtain ⟨⟨⟨-, hd⟩, ha⟩, hb⟩ := hi
  have := bit_le o.down
  have hmd : fnMd (o.n.toNat + 256 * bit o.down) = 32 * (o.n.toNat % 8) + 512 * (o.n.toNat / 8 + 32 * bit o.down) := by
    unfold fnMd
    omega
  have hn : BitVec.ofNat 8 (o.n.toNat % 8 + 8 * (o.n.toNat / 8 + 32 * bit o.down)) = o.n := ofNat_eq_of_mod (by omega)
  have hdown : slice (o.n.toNat % 8 + 8 * (o.n.toNat / 8 + 32 * bit o.down)) 8 1 = bit o.down := by simp only [slice]; omega
  refine .ofAB (m := 32 * (o.n.toNat % 8) + 512 * (o.n.toNat / 8 + 32 * bit o.down)) (f := formVslide) (by rw [← hmd]; rfl) rfl rfl rfl
    (Src.inField_of_okReg ha) (Src.inSecond_of_okImm hb) (Reg.code_lt hd) (Nat.two_pow_pos _) (by omega) ?_ fun hsrc h1 h2 => ?_
  · simp (disch := omega) [fnZ]
  · simp (disch := omega) [formVslide, hsrc.qWithin, h1, h2, Reg.ofCode_code hd, bitAt, hn, hdown]

theorem rng_roundTrips (h : Hdr) (o : RngOps) : RoundTrips (.rng h o) := by
  intro hi
  have hd : o.d.ok = true := Reg.ok_of_ite (of_and hi)
  have := o.ty.code_lt
  refine .short (d := o.d.code) (md := o.ty.code) (f := formRng) rfl rfl rfl (Reg.code_lt hd)
    (Nat.two_pow_pos _) (Nat.two_pow_pos _) (Nat.two_pow_pos _) (by omega) ?_ ?_
  · simp (disch := omega) [formRng, fnZ]
  · simp (disch := omega) [formRng, Reg.ofCode_code hd]

/-! ### Floating-point words (R261 to R272) -/

theorem F2Ops.operands {o : F2Ops} {hok t : Bool} {ty : Ty} (hi : (hok && t && o.d.ok && o.a.okReg false && o.b.okImm false ty) = true) :
    o.d.ok = true ∧ o.a.inField = true ∧ o.b.inSecond = true := by
  simp only [Bool.and_eq_true] at hi
  obtain ⟨⟨⟨-, hd⟩, ha⟩, hb⟩ := hi
  exact ⟨hd, Src.inField_of_okReg ha, Src.inSecond_of_okImm hb⟩

theorem f2_roundTrips {mk : Hdr → F2Ops → Instr} {h : Hdr} {op : Nat} {o : F2Ops} (hraw : rawOf (mk h o) = some (rawF2 h op o))
    (hform : formOf (rawF2 h op o) = some (formF2 mk))
    (hwf : (mk h o).wf = true → o.d.ok = true ∧ o.a.inField = true ∧ o.b.inSecond = true) : RoundTrips (mk h o) := by
  intro hi
  obtain ⟨hd, ha, hb⟩ := hwf hi
  have := o.ty.code_lt
  have := o.rnd.code_lt
  have := bit_le o.sat
  refine .ofAB hraw hform rfl rfl ha hb (Reg.code_lt hd) (Nat.two_pow_pos _) (by omega) ?_ fun hsrc h1 h2 => ?_
  · simp (disch := omega) [f2Z]
  · simp (disch := omega) [formF2, hsrc.qWithin, h1, h2, Reg.ofCode_code hd]

theorem F3Ops.operands {o : F3Ops} {hok t : Bool} {ty : Ty}
    (hi : (hok && t && o.d.ok && o.a.okReg false && o.b.okImm false ty && okThird false ty o.b o.c) = true) :
    o.d.ok = true ∧ o.a.inField = true ∧ o.b.inSecond = true ∧ o.b.Third o.c := by
  simp only [Bool.and_eq_true] at hi
  obtain ⟨⟨⟨⟨-, hd⟩, ha⟩, hb⟩, hc⟩ := hi
  exact ⟨hd, Src.inField_of_okReg ha, Src.inSecond_of_okImm hb, Src.third_of_okThird hc⟩

theorem f3_roundTrips {mk : Hdr → F3Ops → Instr} {h : Hdr} {op : Nat} {o : F3Ops} (hraw : rawOf (mk h o) = some (rawF3 h op o))
    (hform : formOf (rawF3 h op o) = some (formF3 mk))
    (hwf : (mk h o).wf = true → o.d.ok = true ∧ o.a.inField = true ∧ o.b.inSecond = true ∧ o.b.Third o.c) : RoundTrips (mk h o) := by
  intro hi
  obtain ⟨hd, ha, hb, hc⟩ := hwf hi
  have := o.ty.code_lt
  have := o.rnd.code_lt
  have := bit_le o.sat
  refine .ofABC hraw hform rfl rfl ha hb hc (Reg.code_lt hd) (by omega) ?_ fun h1 h2 h3 => ?_
  · simp (disch := omega)
  · simp (disch := omega) [formF3, h1, h2, h3, Reg.ofCode_code hd]

theorem fMin_roundTrips {mk : Hdr → FMinOps → Instr} {h : Hdr} {op : Nat} {o : FMinOps} (hraw : rawOf (mk h o) = some (rawFMin h op o))
    (hform : formOf (rawFMin h op o) = some (formFMin mk))
    (hwf : (mk h o).wf = true → o.d.ok = true ∧ o.a.okReg false = true ∧ o.b.okImm false .f32 = true) : RoundTrips (mk h o) := by
  intro hi
  obtain ⟨hd, ha, hb⟩ := hwf hi
  refine .ofAB hraw hform rfl rfl (Src.inField_of_okReg ha) (Src.inSecond_of_okImm hb) (Reg.code_lt hd) (Nat.two_pow_pos _) (by omega) ?_
    fun hsrc h1 h2 => ?_
  · simp (disch := omega) [f2Z]
  · simp (disch := omega) [formFMin, hsrc.qWithin, h1, h2, Reg.ofCode_code hd]

theorem fsetp_roundTrips (h : Hdr) (o : FsetpOps) : RoundTrips (.fsetp h o) := by
  intro hi
  unfold Instr.wf at hi
  simp only [Bool.and_eq_true] at hi
  obtain ⟨⟨⟨-, ha⟩, hb⟩, hc⟩ := hi
  have := o.cond.code_lt
  have := o.comb.code_lt
  have hpd : BitVec.ofNat 3 (o.pd.toNat + 8 * o.comb.code) = o.pd := ofNat_eq_of_mod (by omega)
  have hcomb : (o.pd.toNat + 8 * o.comb.code) / 8 = o.comb.code := by omega
  refine .ofAB (op := 0x106) (d := o.pd.toNat + 8 * o.comb.code) (m := 9 + 32 * o.cond.code + 512 * o.neg.toNat + 4096 * o.abs.toNat)
    (f := formFsetp) rfl rfl rfl rfl
    (Src.inField_of_okReg ha) (Src.inSecond_of_okImm hb) ?_ ?_ (by omega) ?_ fun hsrc h1 h2 => ?_
  · omega
  · simpa only [Hdr.word_d, hcomb] using Pred.code_lt_of_comb hc
  · simp (disch := omega) [f2Z]
  · simp (disch := omega) [formFsetp, hsrc.qWithin, h1, h2, hpd, hcomb]

theorem fclass_roundTrips (h : Hdr) (o : FclassOps) : RoundTrips (.fclass h o) := by
  intro hi
  have ha := Src.inField_of_okReg (of_and hi)
  have hd : o.d.ok = true := of_and (of_and_left hi)
  refine .ofA (d := o.d.code) (m := 9) (f := formFclass) rfl rfl rfl rfl ha (Reg.code_lt hd) (by decide) ?_ fun hsrc h1 => ?_
  · simp [slice]
  · simp [formFclass, hsrc.qWithin, h1, Reg.ofCode_code hd, slice]

theorem fun_roundTrips {mk : Hdr → FunOps → Instr} {h : Hdr} {op : Nat} {o : FunOps} (hraw : rawOf (mk h o) = some (rawFun h op o))
    (hform : formOf (rawFun h op o) = some (formFun mk)) (hwf : (mk h o).wf = (h.ok && o.d.ok && o.a.okReg false)) : RoundTrips (mk h o) := by
  intro hi
  rw [hwf] at hi
  have ha := Src.inField_of_okReg (of_and hi)
  have hd : o.d.ok = true := of_and (of_and_left hi)
  have := o.rnd.code_lt
  have := bit_le o.sat
  refine .ofA hraw hform rfl rfl ha (Reg.code_lt hd) (by omega) ?_ fun hsrc h1 => ?_
  · simp (disch := omega)
  · simp (disch := omega) [formFun, hsrc.qWithin, h1, Reg.ofCode_code hd]

/-! ### Conversions and flags (R273 to R279) -/

theorem cvt_roundTrips (h : Hdr) (o : CvtOps) : RoundTrips (.cvt h o) := by
  intro hi
  unfold Instr.wf CvtOps.ok at hi
  simp only [Bool.and_eq_true] at hi
  obtain ⟨-, ⟨-, hd⟩, ha⟩ := hi
  have hd := Reg.ok_of_ite hd
  have ha := Reg.ok_of_ite ha
  have := o.dt.code_lt
  have := o.st.code_lt
  have := o.rnd.code_lt
  have := bit_le o.sat
  refine .short rfl rfl rfl (Reg.code_lt hd) (Reg.code_lt ha) (Nat.two_pow_pos _) (Nat.two_pow_pos _) (by omega) ?_ ?_
  · simp (disch := omega) [formCvt]
  · simp (disch := omega) [formCvt, Reg.ofCode_code hd, Reg.ofCode_code ha]

theorem pack_roundTrips (h : Hdr) (o : PackOps) : RoundTrips (.pack h o) := by
  intro hi
  obtain ⟨ty, z, e, rnd, sat, d, a, b⟩ := o
  unfold Instr.wf PackOps.ok at hi
  simp only [Bool.and_eq_true] at hi
  obtain ⟨-, ⟨⟨-, hd⟩, ha⟩, hb⟩ := hi
  have := ty.code_lt
  have := rnd.code_lt
  have := bit_le sat
  have := bit_le z
  have hlone : ∀ s2, (h.word 0x181 d.code a.code s2 0 (ty.code + 32 * rnd.code + 256 * bit sat + 16384 * e.toNat + 131072 * bit z)
      none).packLone = loneElement ty.packCount e.toNat := fun s2 => by simp (disch := omega) [Raw.packLone]
  cases b with
  | none =>
    have hlone := (hlone 0).trans hb
    refine .short (op := 0x181) (d := d.code) (s1 := a.code) (s2 := 0) (s3 := 0)
      (md := ty.code + 32 * rnd.code + 256 * bit sat + 16384 * e.toNat + 131072 * bit z)
      (f := formPack) rfl rfl rfl (Reg.code_lt hd) (Reg.code_lt ha) (Nat.two_pow_pos _) (Nat.two_pow_pos _) (by omega) ?_ ?_
    · simp (disch := omega) [formPack]
    · simp (disch := omega) [formPack, Reg.ofCode_code hd, Reg.ofCode_code ha, hlone, bitAt]
  | some c =>
    obtain ⟨hc, hnot⟩ := Bool.and_eq_true_iff.1 hb
    have hlone : _ = false := (hlone c.code).trans (by simpa using hnot)
    refine .short (op := 0x181) (d := d.code) (s1 := a.code) (s2 := c.code) (s3 := 0)
      (md := ty.code + 32 * rnd.code + 256 * bit sat + 16384 * e.toNat + 131072 * bit z) (f := formPack) rfl rfl rfl (Reg.code_lt hd)
      (Reg.code_lt ha) ?_ (Nat.two_pow_pos _) (by omega) ?_ ?_
    · simpa [formPack, hlone] using Reg.code_lt hc
    · simp (disch := omega) [formPack]
    · simp (disch := omega) [formPack, Reg.ofCode_code hd, Reg.ofCode_code ha, Reg.ofCode_code hc, hlone, bitAt]

theorem unpack_roundTrips (h : Hdr) (o : UnpackOps) : RoundTrips (.unpack h o) := by
  intro hi
  unfold Instr.wf UnpackOps.ok at hi
  simp only [Bool.and_eq_true] at hi
  obtain ⟨-, ⟨-, hd⟩, ha⟩ := hi
  have hd := vOk_of_vPair hd
  have := o.ty.code_lt
  have := o.rnd.code_lt
  refine .short (md := o.ty.code + 32 * o.rnd.code + 16384 * o.e.toNat) (f := formUnpack) rfl rfl rfl (vOk_lt hd) (Reg.code_lt ha)
    (Nat.two_pow_pos _) (Nat.two_pow_pos _) (by omega) ?_ ?_
  · simp (disch := omega) [formUnpack]
  · simp (disch := omega) [formUnpack, vCode_of_ok hd, Reg.ofCode_code ha]

theorem vOk_of_runOk {n k : Nat} (hk : 0 < k) (h : runOk n k = true) : vOk n = true := by
  simp only [runOk, vOk, decide_eq_true_eq] at h ⊢
  omega

theorem qnt_roundTrips (h : Hdr) (o : QntOps) : RoundTrips (.qnt h o) := by
  intro hi
  unfold Instr.wf at hi
  simp only [Bool.and_eq_true, bne_iff_ne] at hi
  obtain ⟨⟨⟨⟨⟨-, hcount⟩, -⟩, hd⟩, hs⟩, ha⟩ := hi
  have ha := vOk_of_runOk (Nat.pos_of_ne_zero hcount) ha
  have := o.ty.code_lt
  have := o.rnd.code_lt
  refine .short (d := o.vd) (s1 := o.va) (md := o.ty.code + 32 * o.rnd.code + 16384 * o.m.toNat) (f := formQnt) rfl rfl rfl (vOk_lt hd)
    (vOk_lt ha) (vOk_lt hs)
    (Nat.two_pow_pos _) (by omega) ?_ ?_
  · simp (disch := omega) [formQnt]
  · simp (disch := omega) [formQnt, vCode_of_ok hd, vCode_of_ok ha, vCode_of_ok hs]

theorem dqnt_roundTrips (h : Hdr) (o : DqntOps) : RoundTrips (.dqnt h o) := by
  intro hi
  unfold Instr.wf at hi
  simp only [Bool.and_eq_true, bne_iff_ne] at hi
  obtain ⟨⟨⟨⟨-, hcount⟩, hd⟩, ha⟩, hs⟩ := hi
  have hd := vOk_of_runOk (Nat.pos_of_ne_zero hcount) hd
  have := o.ty.code_lt
  have := o.rnd.code_lt
  have := bit_le o.sat
  refine .short (d := o.vd) (s1 := o.a.code) (md := o.ty.code + 32 * o.rnd.code + 256 * bit o.sat) (f := formDqnt) rfl rfl rfl (vOk_lt hd)
    (Reg.code_lt ha) (Reg.code_lt hs)
    (Nat.two_pow_pos _) (by omega) ?_ ?_
  · simp (disch := omega) [formDqnt]
  · simp (disch := omega) [formDqnt, vCode_of_ok hd, Reg.ofCode_code ha, Reg.ofCode_code hs]

theorem tagset_roundTrips (h : Hdr) (o : TagsetOps) : RoundTrips (.tagset h o) := by
  intro hi
  have ha : o.a.ok = true := of_and hi
  have hd : o.d.ok = true := of_and (of_and_left hi)
  refine .short (d := o.d.code) (s1 := o.a.code) (md := 0) (f := formTagset) rfl rfl rfl (Reg.code_lt hd) (Reg.code_lt ha) o.t.isLt
    (Nat.two_pow_pos _) (by decide) ?_ ?_
  · simp [formTagset]
  · simp [formTagset, Reg.ofCode_code hd, Reg.ofCode_code ha]

theorem da_roundTrips {mk : Hdr → DaOps → Instr} {h : Hdr} {op md : Nat} {o : DaOps} {z : List (Nat × Nat)}
    (hraw : rawOf (mk h o) = some (rawDa h op md o.d.code o.a.code))
    (hform : formOf (h.word op o.d.code o.a.code 0 0 md none) = some (formDa z mk)) (hmd : md < 2 ^ 18)
    (hz : ∀ p ∈ z, slice md p.1 p.2 = 0) (hwf : (mk h o).wf = (h.ok && o.d.ok && o.a.ok)) : RoundTrips (mk h o) := by
  intro hi
  rw [hwf] at hi
  have ha : o.a.ok = true := of_and hi
  have hd : o.d.ok = true := of_and (of_and_left hi)
  exact .short hraw hform rfl (Reg.code_lt hd) (Reg.code_lt ha) (Nat.two_pow_pos _) (Nat.two_pow_pos _) hmd hz
    (by simp [formDa, Reg.ofCode_code hd, Reg.ofCode_code ha])

theorem flags_roundTrips (h : Hdr) (d : Reg) : RoundTrips (.flags h d) := by
  intro hi
  have hd : d.ok = true := of_and hi
  refine .short (d := d.code) (s1 := 0) (md := 0) (f := formFlags) rfl ?_ rfl (Reg.code_lt hd) (Nat.two_pow_pos _) (Nat.two_pow_pos _)
    (Nat.two_pow_pos _) (by decide) ?_ ?_
  · show some (formFlagsOf _) = _
    simp [formFlagsOf]
  · simp [formFlags, flagsZ]
  · simp [formFlags, Reg.ofCode_code hd]

theorem flagsSet_roundTrips (h : Hdr) (o : DaOps) : RoundTrips (.flagsSet h o) := by
  refine da_roundTrips (md := 16384) (z := flagsZ) rfl ?_ (by decide) ?_ rfl
  · show some (formFlagsOf _) = _
    simp [formFlagsOf, slice]
  · simp [flagsZ, slice]

theorem flagsClr_roundTrips (h : Hdr) (o : DaOps) : RoundTrips (.flagsClr h o) := by
  refine da_roundTrips (md := 32768) (z := flagsZ) rfl ?_ (by decide) ?_ rfl
  · show some (formFlagsOf _) = _
    simp [formFlagsOf, slice]
  · simp [flagsZ, slice]

end Sys2Proof
end

section
/-! SUPPORT. Round trips of the loads, stores and atomics (R280 to R292). -/

namespace Sys2Proof

/-! ### Loads and stores (R280 to R288) -/

/-- Whether MOD's ORD is set, and what stands in its SCOPE field (R280). -/
def MemMode.ord : MemMode → Bool | .sync _ => true | _ => false
def MemMode.low : MemMode → Nat | .plain => 0 | .prv => 1 | .sync sc => sc.toNat

theorem MemMode.low_lt (m : MemMode) : m.low < 2 ^ 5 := by
  cases m with
  | sync sc => exact sc.isLt
  | _ => decide

theorem memMd_eq (ty : Ty) (vec : BitVec 2) (one : Bool) (m : MemMode) (hint : BitVec 2) :
    memMd ty vec one m hint = ty.code + 32 * vec.toNat + 128 * bit one + 256 * bit m.ord + 512 * hint.toNat + 2048 * m.low := by
  cases m <;> simp only [memMd, MemMode.md, MemMode.ord, MemMode.low, bit] <;> simp <;> omega

/-- ORD, SCOPE and PRV read back, and what they leave unused is zero. -/
theorem memMode_eq {r : Raw} {m : MemMode} (hord : slice r.md 8 1 = bit m.ord) (hlow : slice r.md 11 5 = m.low) :
    r.memMode = m ∧ ∀ p ∈ memZ r, slice r.md p.1 p.2 = 0 := by
  have hbit : bitAt r.md 8 = m.ord := bitAt_eq hord
  cases m with
  | sync sc =>
    have hscope : r.scope = sc := by rw [Raw.scope, hlow]; exact ofNat_eq rfl
    simp [Raw.memMode, memZ, hbit, MemMode.ord, hscope]
  | plain =>
    have h11 : slice r.md 11 1 = 0 ∧ slice r.md 12 4 = 0 := by simp only [slice, MemMode.low] at hlow ⊢; omega
    simp [Raw.memMode, memZ, hbit, MemMode.ord, bitAt_eq (b := false) h11.1, h11.2]
  | prv =>
    have h11 : slice r.md 11 1 = 1 ∧ slice r.md 12 4 = 0 := by simp only [slice, MemMode.low] at hlow ⊢; omega
    simp [Raw.memMode, memZ, hbit, MemMode.ord, bitAt_eq (b := true) h11.1, h11.2]

theorem ld_roundTrips (h : Hdr) (o : LoadOps) : RoundTrips (.ld h o) := by
  intro hi
  unfold Instr.wf at hi
  simp only [Bool.and_eq_true] at hi
  obtain ⟨⟨⟨⟨-, -⟩, hd⟩, ha⟩, hb⟩ := hi
  have hd : o.d.ok = true := Src.inField_of_dataOk hd
  have hty := o.ty.code_lt
  have hone := bit_le o.one
  have hlow := o.mode.low_lt
  have hord := bit_le o.mode.ord
  have hsel := opselOf_le o.off
  have hmode : (h.wordAB 0x200 o.d.code (o.ty.code + 32 * o.vec.toNat + 128 * bit o.one + 256 * bit o.mode.ord + 512 * o.hint.toNat +
      2048 * o.mode.low) o.base o.off 0).memMode = o.mode ∧ _ := memMode_eq (by simp (disch := omega)) (by simp (disch := omega))
  refine .ofAB (m := o.ty.code + 32 * o.vec.toNat + 128 * bit o.one + 256 * bit o.mode.ord + 512 * o.hint.toNat + 2048 * o.mode.low)
    (f := formLd) (by rw [← memMd_eq]; rfl) rfl rfl rfl (Src.inField_of_okReg ha) (Src.inSecond_of_okOff hb) (Reg.code_lt hd)
    (Nat.two_pow_pos _) (by omega) ?_ fun hsrc h1 h2 => ?_
  · exact hmode.2
  · have hmode := hmode.1
    simp (disch := omega) [formLd, hsrc.qWithin, h1, h2, hmode, Reg.ofCode_code hd, bitAt]

theorem st_roundTrips (h : Hdr) (o : StoreOps) : RoundTrips (.st h o) := by
  intro hi
  unfold Instr.wf at hi
  simp only [Bool.and_eq_true] at hi
  obtain ⟨⟨⟨⟨-, -⟩, hd⟩, ha⟩, hb⟩ := hi
  have hc := Src.inField_of_dataOk hd
  have hty := o.ty.code_lt
  have hone := bit_le o.one
  have hlow := o.mode.low_lt
  have hord := bit_le o.mode.ord
  have hsel := opselOf_le o.off
  obtain ⟨hmode, hz⟩ := memMode_eq (m := o.mode) (r := h.wordABC 0x201 0 (o.ty.code + 32 * o.vec.toNat + 128 * bit o.one + 256 * bit o.mode.ord +
      512 * o.hint.toNat + 2048 * o.mode.low) o.base o.off o.data) (by simp (disch := omega)) (by simp (disch := omega))
  refine .ofStore (m := o.ty.code + 32 * o.vec.toNat + 128 * bit o.one + 256 * bit o.mode.ord + 512 * o.hint.toNat + 2048 * o.mode.low)
    (f := formSt) (by rw [← memMd_eq]; rfl) rfl rfl rfl (Src.inField_of_okReg ha) (Src.inSecond_of_okOff hb) hc (by omega) hz fun h1 h2 h3 => ?_
  simp (disch := omega) [formSt, h1, h2, h3, hmode, bitAt]

theorem memMd_plain (ty : Ty) (vec : BitVec 2) (one : Bool) : memMd ty vec one .plain 0 = ty.code + 32 * vec.toNat + 128 * bit one := rfl

theorem lds_roundTrips {mk : Hdr → LoadOps → Instr} {h : Hdr} {op : Nat} {o : LoadOps} (hraw : rawOf (mk h o) = some (rawLoad h op o))
    (hform : ∀ d s1 s2 s3 md half, formOf (h.word op d s1 s2 s3 md half) = some (formLds mk))
    (hwf : (mk h o).wf = true → dataOk o.ty o.vec (.reg o.d) = true ∧ o.base.inField = true ∧ o.off.inSecond = true ∧ o.mode = .plain ∧
    o.hint = 0) :
    RoundTrips (mk h o) := by
  intro hi
  obtain ⟨hd, ha, hb, hmode, hhint⟩ := hwf hi
  have hd : o.d.ok = true := Src.inField_of_dataOk hd
  have hty := o.ty.code_lt
  have hone := bit_le o.one
  have hmd : memMd o.ty o.vec o.one o.mode o.hint = o.ty.code + 32 * o.vec.toNat + 128 * bit o.one := by rw [hmode, hhint, memMd_plain]
  have ho : ⟨o.ty, o.vec, o.one, .plain, 0#2, o.d, o.base, o.off⟩ = o := by rw [← hmode, ← show o.hint = 0#2 from hhint]
  refine .ofAB (m := o.ty.code + 32 * o.vec.toNat + 128 * bit o.one) (by rw [hraw, ← hmd]; rfl) (hform ..) rfl rfl ha hb (Reg.code_lt hd)
    (Nat.two_pow_pos _) (by omega) ?_ fun hsrc h1 h2 => ?_
  · simp (disch := omega) [ldsZ]
  · simp (disch := omega) [formLds, hsrc.qWithin, h1, h2, Reg.ofCode_code hd, bitAt, ho]

theorem lds_operands {h : Hdr} {o : LoadOps} (hi : (Instr.lds h o).wf = true) :
    dataOk o.ty o.vec (.reg o.d) = true ∧ o.base.inField = true ∧ o.off.inSecond = true ∧ o.mode = .plain ∧ o.hint = 0 := by
  unfold Instr.wf at hi
  simp only [Bool.and_eq_true, beq_iff_eq] at hi
  obtain ⟨⟨⟨⟨⟨⟨-, -⟩, hd⟩, ha⟩, hb⟩, hmode⟩, hhint⟩ := hi
  exact ⟨hd, Src.inField_of_okReg ha, Src.inSecond_of_okOff hb, hmode, hhint⟩

theorem ldu_operands {h : Hdr} {o : LoadOps} (hi : (Instr.ldu h o).wf = true) :
    dataOk o.ty o.vec (.reg o.d) = true ∧ o.base.inField = true ∧ o.off.inSecond = true ∧ o.mode = .plain ∧ o.hint = 0 := by
  unfold Instr.wf at hi
  simp only [Bool.and_eq_true, beq_iff_eq] at hi
  obtain ⟨⟨⟨⟨⟨⟨-, -⟩, hd⟩, ha⟩, hb⟩, hmode⟩, hhint⟩ := hi
  refine ⟨hd, ?_, Src.inSecond_of_okUni hb, hmode, hhint⟩
  split at ha
  · rename_i n hn
    rw [hn]
    exact ha
  · cases ha

theorem sts_roundTrips (h : Hdr) (o : StoreOps) : RoundTrips (.sts h o) := by
  intro hi
  unfold Instr.wf at hi
  simp only [Bool.and_eq_true, beq_iff_eq] at hi
  obtain ⟨⟨⟨⟨⟨⟨-, -⟩, hd⟩, ha⟩, hb⟩, hmode⟩, hhint⟩ := hi
  have hty := o.ty.code_lt
  have hone := bit_le o.one
  have hmd : memMd o.ty o.vec o.one o.mode o.hint = o.ty.code + 32 * o.vec.toNat + 128 * bit o.one := by rw [hmode, hhint, memMd_plain]
  have ho : ⟨o.ty, o.vec, o.one, .plain, 0#2, o.base, o.off, o.data⟩ = o := by rw [← hmode, ← show o.hint = 0#2 from hhint]
  refine .ofStore (m := o.ty.code + 32 * o.vec.toNat + 128 * bit o.one) (f := formSts) (by rw [← hmd]; rfl) rfl rfl rfl
    (Src.inField_of_okReg ha) (Src.inSecond_of_okOff hb) (Src.inField_of_dataOk hd) (by omega) ?_ fun h1 h2 h3 => ?_
  · simp (disch := omega) [ldsZ]
  · simp (disch := omega) [formSts, h1, h2, h3, bitAt, ho]

theorem vecCount_pos (v : BitVec 2) : 0 < vecCount v := by
  unfold vecCount
  split <;> decide

theorem ldt_roundTrips (h : Hdr) (o : LdtOps) : RoundTrips (.ldt h o) := by
  intro hi
  unfold Instr.wf at hi
  simp only [Bool.and_eq_true] at hi
  obtain ⟨⟨⟨⟨-, -⟩, hd⟩, hp⟩, hc⟩ := hi
  have hd := vOk_of_runOk (vecCount_pos _) hd
  refine .short (d := o.vd) (s1 := 640 + o.desc) (md := 32 * o.vec.toNat + 512 * o.hint.toNat) (f := formLdt) rfl rfl rfl (vOk_lt hd)
    (sOk_lt (sOk_of_sPair hp)) (vOk_lt hc) (Nat.two_pow_pos _) (by omega) ?_ ?_
  · simp (disch := omega) [formLdt, ldtZ]
  · simp (disch := omega) [formLdt, vCode_of_ok hd, vCode_of_ok hc]

theorem stt_roundTrips (h : Hdr) (o : SttOps) : RoundTrips (.stt h o) := by
  intro hi
  unfold Instr.wf at hi
  simp only [Bool.and_eq_true] at hi
  obtain ⟨⟨⟨⟨-, -⟩, hd⟩, hp⟩, hc⟩ := hi
  have hd := vOk_of_runOk (vecCount_pos _) hd
  refine .short (d := 0) (s1 := 640 + o.desc) (md := 32 * o.vec.toNat + 512 * o.hint.toNat) (f := formStt) rfl rfl rfl (Nat.two_pow_pos _)
    (sOk_lt (sOk_of_sPair hp)) (vOk_lt hc) (vOk_lt hd) (by omega) ?_ ?_
  · simp (disch := omega) [formStt, ldtZ]
  · simp (disch := omega) [formStt, vCode_of_ok hd, vCode_of_ok hc]

/-! ### Atomics (R292) -/

/-- The second half of an atomic holds the fifth operand, and otherwise what the sources need. -/
theorem of_mem_addOp5 {r : Option Reg} {a b c : Option Src} {x : Half} (h : x ∈ addOp5 r (halfFor a b c)) :
    x.op5 = r.elim 0 Reg.code ∧ x.qmask < 2 ^ 3 ∧ x.xmod = 0 ∧ x.rsv = 0 := by
  cases r with
  | none =>
    rw [eq_halfOf_of_mem h]
    exact ⟨rfl, halfOf_qmask_lt a b c, rfl, rfl⟩
  | some r =>
    cases hx : halfFor a b c with
    | none =>
      rw [hx] at h
      cases h
      exact ⟨rfl, Nat.two_pow_pos _, rfl, rfl⟩
    | some y =>
      rw [hx] at h
      cases h
      rw [eq_halfOf_of_mem hx]
      exact ⟨rfl, halfOf_qmask_lt a b c, rfl, rfl⟩

/-- The fifth operand leaves the sources as they are. -/
theorem Raw.Sources.addOp5 {r r' : Raw} {a b c : Option Src} {k : Option Reg} (h : r.Sources a b c) (hmd : r'.md = r.md)
    (hhalf : r'.half = addOp5 k r.half) : r'.Sources a b c := by
  have hq : ∀ j, r'.qbit j = r.qbit j := fun j => by
    have hzero : bitAt 0 j = false := by rw [bitAt, slice_below (Nat.two_pow_pos j)]; rfl
    cases k <;> cases hx : r.half <;> simp [Raw.qbit, hhalf, hx, Sys2Proof.addOp5, hzero]
  have himm : r'.imm = r.imm := by cases k <;> cases hx : r.half <;> simp [Raw.imm, hhalf, hx, Sys2Proof.addOp5]
  have hopsel : r'.opsel = r.opsel := by rw [Raw.opsel, Raw.opsel, hmd]
  refine ⟨hopsel.trans h.opsel, hopsel.symm ▸ h.high, (hq 0).trans h.q1, (hq 1).trans h.q2, (hq 2).trans h.q3, fun h2 => ?_, himm.trans h.imm⟩
  have hsome := h.half (hopsel ▸ h2)
  cases k with
  | none => exact (congrArg Option.isNone hhalf).trans hsome
  | some k => cases hx : r.half <;> simp [hhalf, hx, Sys2Proof.addOp5]

/-- The fifth operand is there exactly for .cas, whose code is 7, and is a register in its class. -/
structure AtomOp.TakesFifth (op : AtomOp) (c : Option Reg) : Prop where
  there : c.isSome = op.isCas
  ok : ∀ r ∈ c, r.ok = true

theorem AtomOp.takesFifth_of_casOk {op : AtomOp} {ty : Ty} {c : Option Reg} (h : casOk op ty c = true) : op.TakesFifth c := by
  cases c with
  | none =>
    have hcas : op.isCas = false := by simpa [casOk] using h
    exact ⟨hcas.symm, fun _ hr => (nomatch hr)⟩
  | some r =>
    obtain ⟨hcas, hr⟩ := Bool.and_eq_true_iff.1 h
    exact ⟨hcas.symm, fun x hx => Option.some.inj hx ▸ Reg.ok_of_ite hr⟩

theorem AtomOp.code_eq_seven {op : AtomOp} : op.code = 7 ↔ op.isCas = true := by cases op <;> decide

/-- A word of an atomic: the operation's fields in MOD, and the fifth operand in the second half. -/
abbrev Hdr.wordAtomic (h : Hdr) (op d : Nat) (k : AtomOp) (ty : Ty) (ord : AOrd) (sc : BitVec 5) (a b c : Src) (x : Option Reg) : Raw :=
  h.word op d a.code b.code c.code (ty.code + 32 * k.code + 512 * ord.code + 2048 * sc.toNat + 65536 * opselOf b)
    (addOp5 x (halfFor (some a) (some b) (some c)))

theorem Recoverable.atomic {i : Instr} {h : Hdr} {op d n : Nat} {k : AtomOp} {ty : Ty} {ord : AOrd} {sc : BitVec 5} {a b c : Src}
    {x : Option Reg} {f : Form} (hraw : rawOf i = some (h.wordAtomic op d k ty ord sc a b c x))
    (hform : formOf (h.wordAtomic op d k ty ord sc a b c x) = some f) (hlong : f.long = .may)
    (huse : f.use = atomUse n) (ha : a.inField = true) (hb : b.inSecond = true) (hc : c.inField = true) (hd : d < 2 ^ n) (hx : k.TakesFifth x)
    (hget : (h.wordAtomic op d k ty ord sc a b c x).src1 0 = some a → (h.wordAtomic op d k ty ord sc a b c x).src2 0 = some b →
      (h.wordAtomic op d k ty ord sc a b c x).srcAt 0 2 c.code = some c → (h.wordAtomic op d k ty ord sc a b c x).casReg k = some x →
      f.get (h.wordAtomic op d k ty ord sc a b c x) 0 = some i) : Recoverable i := by
  have hty := ty.code_lt
  have hk := k.code_lt
  have hord := ord.code_lt
  have hm : ty.code + 32 * k.code + 512 * ord.code + 2048 * sc.toNat < 65536 := by omega
  have hhigh := Src.immHigh_of_inField hc
  have hsrc : (h.wordAtomic op d k ty ord sc a b c x).Sources (some a) (some b) (some c) :=
    Raw.Sources.addOp5 (r := h.wordABC op d _ a b c) (Raw.sources_of_half rfl (slice_opsel hm b) (.inr hhigh)) rfl rfl
  have hcode : slice (ty.code + 32 * k.code + 512 * ord.code + 2048 * sc.toNat + 65536 * opselOf b) 5 4 = k.code := by
    simp (disch := omega)
  have hfifth : x.elim 0 Reg.code < 2 ^ (if k.code = 7 then 10 else 0) := by
    cases x with
    | none => exact Nat.two_pow_pos _
    | some r =>
      rw [if_pos (AtomOp.code_eq_seven.2 hx.there.symm)]
      exact Reg.code_lt (hx.ok r rfl)
  have hcas : (h.wordAtomic op d k ty ord sc a b c x).casReg k = some x := by
    unfold Raw.casReg
    cases x with
    | none => rw [if_neg (by rw [← hx.there]; exact Bool.false_ne_true)]
    | some r =>
      have hk : k.isCas = true := hx.there.symm
      rw [if_pos hk]
      cases hy : halfFor (some a) (some b) (some c) <;> simp [hy, addOp5, Reg.ofCode_code (hx.ok r rfl)]
  refine ⟨_, f, hraw, hform, md_lt hm b, fun y hy => (of_mem_addOp5 hy).2.1, Raw.badReserved_eq_false.2 ?_, ?_,
    hget (hsrc.src1 ha rfl) (hsrc.src2 hb rfl) (Raw.srcAt_code hc hsrc.q3) hcas⟩
  · rw [huse]
    refine ⟨hd, Src.code_lt ha, hsrc.s2_lt hb rfl, Src.code_lt hc, fun _ hp => (nomatch hp), fun y hy => ?_⟩
    obtain ⟨hop5, -, hxmod, hrsv⟩ := of_mem_addOp5 hy
    have himm : y.imm < 2 ^ useImm (h.wordAtomic op d k ty ord sc a b c x) false := by
      have := hsrc.imm_lt (three := false) (.inr hhigh)
      rwa [Raw.imm, Option.mem_def.1 hy] at this
    refine ⟨?_, hxmod ▸ Nat.two_pow_pos _, himm, hrsv⟩
    rw [hop5]
    simp only [atomUse, Hdr.word_md, hcode]
    exact hfifth
  · rw [hlong]
    cases (h.wordAtomic op d k ty ord sc a b c x).half <;> rfl

theorem AtomOps.operands {o : AtomOps} {global : Bool} (h : o.okAt global = true) :
    o.d.ok = true ∧ o.base.inField = true ∧ o.off.inSecond = true ∧ o.b.inField = true ∧ o.op.TakesFifth o.c := by
  simp only [AtomOps.okAt, Bool.and_eq_true] at h
  obtain ⟨⟨⟨⟨⟨-, hd⟩, ha⟩, hb⟩, hc⟩, hx⟩ := h
  exact ⟨Reg.ok_of_ite hd, Src.inField_of_okReg ha, Src.inSecond_of_okOff hb, Src.inField_of_okReg hc, AtomOp.takesFifth_of_casOk hx⟩

theorem atom_roundTrips {mk : Hdr → AtomOps → Instr} {h : Hdr} {op : Nat} {o : AtomOps}
    (hraw : rawOf (mk h o) = some (rawAtomic h op o.d.code o.op o.ty o.ord o.scope o.base o.off o.b o.c))
    (hform : formOf (h.wordAtomic op o.d.code o.op o.ty o.ord o.scope o.base o.off o.b o.c) = some (formAtom mk)) {global : Bool}
    (hwf : (mk h o).wf = true → o.okAt global = true) : RoundTrips (mk h o) := by
  intro hi
  obtain ⟨hd, ha, hb, hc, hx⟩ := AtomOps.operands (hwf hi)
  have hty := o.ty.code_lt
  have hk := o.op.code_lt
  have hord := o.ord.code_lt
  refine .atomic (op := op) (d := o.d.code) hraw hform rfl rfl ha hb hc (Reg.code_lt hd) hx fun h1 h2 h3 h4 => ?_
  simp (disch := omega) [formAtom, h1, h2, h3, h4, Reg.ofCode_code hd]

theorem red_roundTrips (h : Hdr) (o : RedOps) : RoundTrips (.red h o) := by
  intro hi
  unfold Instr.wf RedOps.ok at hi
  simp only [Bool.and_eq_true] at hi
  obtain ⟨-, ⟨⟨⟨⟨-, -⟩, ha⟩, hb⟩, hc⟩, hx⟩ := hi
  have hty := o.ty.code_lt
  have hk := o.op.code_lt
  have hord := o.ord.code_lt
  refine .atomic (f := formRed) (d := 0) rfl rfl rfl rfl (Src.inField_of_okReg ha) (Src.inSecond_of_okOff hb) (Src.inField_of_okReg hc)
    (Nat.two_pow_pos _) (AtomOp.takesFifth_of_casOk hx) fun h1 h2 h3 h4 => ?_
  simp (disch := omega) [formRed, h1, h2, h3, h4]

end Sys2Proof
end

section
/-! SUPPORT. Barrier words, and round trips of the copies and of MMA (R295, R318, R321). -/

namespace Sys2Proof

/-! ### Barrier words (R318) -/

/-- What a barrier word puts in SRC3 and in SCOPE. -/
def bwReg (b : Option Bw) : Nat := b.elim 0 fun w => 640 + w.word
def bwScope (b : Option Bw) : Nat := b.elim 0 fun w => w.scope.toNat

theorem bwScope_lt (b : Option Bw) : bwScope b < 2 ^ 5 := by
  cases b with
  | none => exact Nat.two_pow_pos _
  | some w => exact w.scope.isLt

/-- A barrier word fills SRC3, SCOPE and the bit BW. -/
theorem withBw_word (h : Hdr) (op d s1 s2 md : Nat) (half : Option Half) (k : Nat) (b : Option Bw) :
    withBw (h.word op d s1 s2 0 md half) k b = h.word op d s1 s2 (bwReg b) (md + 2 ^ k * bit b.isSome + 2048 * bwScope b) half := by
  cases b with
  | none => rfl
  | some w => simp [withBw, Hdr.word, bwReg, bwScope, bit]

/-- A word that says whether it has a barrier word, and which. -/
structure Raw.HasBw (r : Raw) (k : Nat) (b : Option Bw) : Prop where
  ok : bwOk b = true
  s3 : r.s3 = bwReg b
  bit : slice r.md k 1 = bit b.isSome
  scope : slice r.md 11 5 = bwScope b

section HasBw

variable {r : Raw} {k : Nat} {b : Option Bw} (h : r.HasBw k b)
include h

theorem Raw.HasBw.bitAt_eq : bitAt r.md k = b.isSome := Sys2Proof.bitAt_eq h.bit

theorem Raw.HasBw.bw : r.bw k = some b := by
  rw [Raw.bw, h.bitAt_eq, h.s3]
  cases b with
  | none => rfl
  | some w =>
    have hscope : r.scope = w.scope := ofNat_eq h.scope
    simp [bwReg, hscope]

theorem Raw.HasBw.s3_lt : r.s3 < 2 ^ bwS3 r k := by
  rw [h.s3, bwS3, h.bitAt_eq]
  cases b with
  | none => exact Nat.two_pow_pos _
  | some w => exact sOk_lt (sOk_of_sPair h.ok)

theorem Raw.HasBw.z : ∀ p ∈ bwZ r k, slice r.md p.1 p.2 = 0 := by
  rw [bwZ, h.bitAt_eq]
  cases b with
  | none => simpa [bwScope] using h.scope
  | some w => simp

end HasBw

/-- The word of an engine command with a barrier word. -/
abbrev Hdr.wordBw (h : Hdr) (op d s1 s2 md : Nat) (b : Option Bw) : Raw :=
  h.word op d s1 s2 (bwReg b) (md + 2048 * bwScope b + 65536 * bit b.isSome) none

/-- An engine command: `md` stands below SCOPE, and BW is bit 16. -/
theorem Recoverable.engine {i : Instr} {h : Hdr} {op d s1 s2 md n j k : Nat} {b : Option Bw} {z : List (Nat × Nat)} {f : Form}
    (hraw : rawOf i = some (withBw (h.word op d s1 s2 0 md none) 16 b)) (hform : formOf (h.wordBw op d s1 s2 md b) = some f)
    (hlong : f.long = .no)
    (huse : f.use (h.wordBw op d s1 s2 md b) =
      { d := n, s1 := j, s2 := k, s3 := bwS3 (h.wordBw op d s1 s2 md b) 16, z := z ++ bwZ (h.wordBw op d s1 s2 md b) 16 })
    (hb : bwOk b = true) (hd : d < 2 ^ n) (hs1 : s1 < 2 ^ j) (hs2 : s2 < 2 ^ k) (hmd : md < 2048)
    (hz : ∀ p ∈ z, slice (md + 2048 * bwScope b + 65536 * bit b.isSome) p.1 p.2 = 0)
    (hget : (h.wordBw op d s1 s2 md b).bw 16 = some b → f.get (h.wordBw op d s1 s2 md b) 0 = some i) : Recoverable i := by
  have hscope := bwScope_lt b
  have hbit := bit_le b.isSome
  have hbw : (h.wordBw op d s1 s2 md b).HasBw 16 b := ⟨hb, rfl, by simp (disch := omega), by simp (disch := omega)⟩
  have hraw : rawOf i = some (h.wordBw op d s1 s2 md b) := by
    rw [hraw, withBw_word, Nat.add_right_comm]
    rfl
  refine .short hraw hform (by rw [hlong]; rfl) ?_ ?_ ?_ ?_ (by omega) ?_ (hget hbw.bw) <;> rw [huse]
  · exact hd
  · exact hs1
  · exact hs2
  · exact hbw.s3_lt
  · exact List.forall_mem_append.2 ⟨hz, hbw.z⟩

/-! ### Copies, prefetch and maintenance (R295 to R302) -/

theorem Src.isQ_of_okUni {s : Src} (h : s.okUni = true) : s.isQ = false := by
  cases s with
  | q n => cases h
  | _ => rfl

/-- The block forms of CPA and CPOUT (R295). -/
theorem Recoverable.copy {i : Instr} {h : Hdr} {op d s1 : Nat} {hint : BitVec 2} {b : Option Bw} {n : Src} {f g : Form}
    (hraw : rawOf i = some (withBw (rawUni h op (640 + d) (640 + s1) (512 * hint.toNat) n) 8 b))
    (hform : ∀ r : Raw, r = h.wordB op (640 + d) (640 + s1) (256 * bit b.isSome + 512 * hint.toNat + 2048 * bwScope b) n (bwReg b) →
      formOf r = some (if bitAt r.md 7 then g else f)) (hlong : f.long = .may) (huse : f.use = cpaUse)
    (hb : bwOk b = true) (hd : sOk d = true) (hs1 : sOk s1 = true) (hn : n.okUni = true)
    (hget : ∀ r : Raw, r.hdr = h → r.d = 640 + d → r.s1 = 640 + s1 → r.hint = hint → r.qWithin [] = true → r.bw 8 = some b →
      r.src2 0 = some n → f.get r 0 = some i) : Recoverable i := by
  have hscope := bwScope_lt b
  have hbit := bit_le b.isSome
  have hsel := opselOf_le n
  have hmd : 512 * hint.toNat + 65536 * opselOf n + 2 ^ 8 * bit b.isSome + 2048 * bwScope b =
      256 * bit b.isSome + 512 * hint.toNat + 2048 * bwScope b + 65536 * opselOf n := by omega
  have hbw : (h.wordB op (640 + d) (640 + s1) (256 * bit b.isSome + 512 * hint.toNat + 2048 * bwScope b) n (bwReg b)).HasBw 8 b :=
    ⟨hb, rfl, by simp (disch := omega), by simp (disch := omega)⟩
  refine .ofB (m := 256 * bit b.isSome + 512 * hint.toNat + 2048 * bwScope b) (s3 := bwReg b)
    (hraw.trans (congrArg some ((withBw_word ..).trans (by rw [hmd]))))
    ((hform _ rfl).trans (congrArg some (if_neg ?_))) hlong (by rw [huse]; rfl) (Src.inSecond_of_okUni hn) (sOk_lt hd) (sOk_lt hs1) hbw.s3_lt
    (by omega)
    (List.forall_mem_append.2 ⟨?_, hbw.z⟩) fun hsrc h2 => hget _ (Hdr.word_hdr ..) rfl rfl ?_ ?_ hbw.bw h2
  · simp (disch := omega) [bitAt]
  · simp (disch := omega)
  · simp (disch := omega)
  · simp [hsrc.qWithin, Src.isQ_of_okUni hn]

theorem cpa_operands {o : CpaOps} {hok : Bool} (hi : (hok && bwOk o.bw && sOk o.sp && sPair o.ga && o.n.okUni) = true) :
    bwOk o.bw = true ∧ sOk o.sp = true ∧ sOk o.ga = true ∧ o.n.okUni = true := by
  simp only [Bool.and_eq_true] at hi
  obtain ⟨⟨⟨⟨-, hb⟩, hsp⟩, hga⟩, hn⟩ := hi
  exact ⟨hb, hsp, sOk_of_sPair hga, hn⟩

theorem cpa_roundTrips (h : Hdr) (o : CpaOps) : RoundTrips (.cpa h o) := by
  intro hi
  obtain ⟨hb, hsp, hga, hn⟩ := cpa_operands hi
  exact .copy (f := formCpa) (g := formCpaLn) rfl (fun _ hr => hr ▸ rfl) rfl rfl hb hsp hga hn fun r hh hd h1 hhint hq hbw h2 => by
    simp [formCpa, hh, hd, h1, hhint, hq, hbw, h2]

theorem cpout_roundTrips (h : Hdr) (o : CpaOps) : RoundTrips (.cpout h o) := by
  intro hi
  obtain ⟨hb, hsp, hga, hn⟩ := cpa_operands hi
  exact .copy (f := formCpout) (g := formCpoutLn) rfl (fun _ hr => hr ▸ rfl) rfl rfl hb hga hsp hn fun r hh hd h1 hhint hq hbw h2 => by
    simp [formCpout, hh, hd, h1, hhint, hq, hbw, h2]

/-- The lane forms of CPA and CPOUT (R295). -/
theorem Recoverable.copyLn {i : Instr} {h : Hdr} {op d s1 : Nat} {vec hint : BitVec 2} {b : Option Bw} {f g : Form}
    (hraw : rawOf i = some (withBw (rawDa h op (128 + 32 * vec.toNat + 512 * hint.toNat) d s1) 8 b))
    (hform : ∀ md s3, formOf (h.word op d s1 0 s3 md none) = some (if bitAt md 7 then f else g)) (hlong : f.long = .no) (huse : f.use = cpaLnUse)
    (hb : bwOk b = true) (hd : d < 2 ^ 10) (hs1 : s1 < 2 ^ 10)
    (hget : ∀ r : Raw, r.hdr = h → r.d = d → r.s1 = s1 → r.vec = vec → r.hint = hint → r.bw 8 = some b → f.get r 0 = some i) :
    Recoverable i := by
  have hscope := bwScope_lt b
  have hbit := bit_le b.isSome
  have hparts : ∀ md, md = 128 + 32 * vec.toNat + 512 * hint.toNat + 2 ^ 8 * bit b.isSome + 2048 * bwScope b →
      slice md 5 2 = vec.toNat ∧ slice md 7 1 = 1 ∧ slice md 8 1 = bit b.isSome ∧ slice md 9 2 = hint.toNat ∧ slice md 11 5 = bwScope b ∧
        slice md 0 5 = 0 ∧ slice md 16 2 = 0 := fun md hmd => by simp only [slice]; omega
  obtain ⟨hvec, hln, hbw, hhint, hsc, hlow, hhigh⟩ := hparts _ rfl
  have hbw : (h.word op d s1 0 (bwReg b) (128 + 32 * vec.toNat + 512 * hint.toNat + 2 ^ 8 * bit b.isSome + 2048 * bwScope b) none).HasBw 8 b :=
    ⟨hb, rfl, hbw, hsc⟩
  refine .short (hraw.trans (congrArg some (withBw_word ..))) ((hform _ _).trans (congrArg some (if_pos (bitAt_eq (b := true) hln))))
    (by rw [hlong]; rfl)
    ?_ ?_ ?_ ?_ (by omega) ?_ (hget _ (Hdr.word_hdr ..) rfl rfl (ofNat_eq hvec) (ofNat_eq hhint) hbw.bw) <;> rw [huse]
  · exact hd
  · exact hs1
  · exact Nat.two_pow_pos _
  · exact hbw.s3_lt
  · exact List.forall_mem_append.2 ⟨List.forall_mem_cons.2 ⟨hlow, List.forall_mem_singleton.2 hhigh⟩, hbw.z⟩

theorem cpaLn_operands {o : CpaLnOps} {hok : Bool} (hi : (hok && o.vec != 3 && bwOk o.bw && o.sp.ok && o.ga.okPair) = true) :
    bwOk o.bw = true ∧ o.sp.ok = true ∧ o.ga.ok = true := by
  simp only [Bool.and_eq_true] at hi
  obtain ⟨⟨⟨-, hb⟩, hsp⟩, hga⟩ := hi
  exact ⟨hb, hsp, Reg.ok_of_okPair hga⟩

theorem cpaLn_roundTrips (h : Hdr) (o : CpaLnOps) : RoundTrips (.cpaLn h o) := by
  intro hi
  obtain ⟨hb, hsp, hga⟩ := cpaLn_operands hi
  exact .copyLn (f := formCpaLn) (g := formCpa) rfl (fun _ _ => rfl) rfl rfl hb (Reg.code_lt hsp) (Reg.code_lt hga)
    fun r hh hd h1 hvec hhint hbw => by simp [formCpaLn, hh, hd, h1, hvec, hhint, hbw, Reg.ofCode_code hsp, Reg.ofCode_code hga]

theorem cpoutLn_roundTrips (h : Hdr) (o : CpaLnOps) : RoundTrips (.cpoutLn h o) := by
  intro hi
  obtain ⟨hb, hsp, hga⟩ := cpaLn_operands hi
  exact .copyLn (f := formCpoutLn) (g := formCpout) rfl (fun _ _ => rfl) rfl rfl hb (Reg.code_lt hga) (Reg.code_lt hsp)
    fun r hh hd h1 hvec hhint hbw => by simp [formCpoutLn, hh, hd, h1, hvec, hhint, hbw, Reg.ofCode_code hsp, Reg.ofCode_code hga]

theorem mma_roundTrips (h : Hdr) (o : MmaOps) : RoundTrips (.mma h o) := by
  intro hi
  unfold Instr.wf at hi
  simp only [Bool.and_eq_true] at hi
  obtain ⟨⟨⟨-, hbw⟩, -⟩, hblk⟩ := hi
  have := bit_le o.sp
  have := bwScope_lt o.bw
  have := bit_le o.bw.isSome
  refine .engine (op := 0x302) (d := o.t.toNat) (s1 := o.c.toNat) (md := o.fa.toNat + 32 * o.fb.toNat + 1024 * bit o.sp) (f := formMma)
    (z := [(17, 1)]) rfl rfl rfl rfl hbw o.t.isLt o.c.isLt (sOk_lt (sOk_of_sBlock hblk)) (by omega) ?_ fun hw => ?_
  · simp (disch := omega)
  · simp (disch := omega) [formMma, hw, bitAt]

end Sys2Proof
end

section
/-! SUPPORT. Round trips of prefetch, maintenance, the barriers and events, and the engine commands (R299 to R346). -/

namespace Sys2Proof

/-! ### Prefetch, maintenance, barriers and events (R299 to R315) -/

theorem pref_roundTrips (h : Hdr) (o : PrefOps) : RoundTrips (.pref h o) := by
  intro hi
  unfold Instr.wf at hi
  simp only [Bool.and_eq_true] at hi
  obtain ⟨⟨-, ha⟩, hb⟩ := hi
  have ha : o.base.ok = true := by
    split at ha
    · exact ha
    · exact Reg.ok_of_okPair ha
  have := o.ty.code_lt
  have := bit_le o.l1
  have := bit_le o.one
  have := bit_le o.mode.ord
  have := o.mode.low_lt
  have hmd : memMd o.ty 0 o.one o.mode o.hint + 32 * bit o.l1 =
      o.ty.code + 32 * bit o.l1 + 128 * bit o.one + 256 * bit o.mode.ord + 512 * o.hint.toNat + 2048 * o.mode.low := by
    have hvec : (0 : BitVec 2).toNat = 0 := rfl
    rw [memMd_eq, hvec]
    omega
  have hsel := opselOf_le o.off
  obtain ⟨hmode, hz⟩ := memMode_eq (m := o.mode) (r := h.wordAB 0x20C 0 (o.ty.code + 32 * bit o.l1 + 128 * bit o.one + 256 * bit o.mode.ord +
      512 * o.hint.toNat + 2048 * o.mode.low) (.reg o.base) o.off 0) (by simp (disch := omega)) (by simp (disch := omega))
  refine .ofAB (m := o.ty.code + 32 * bit o.l1 + 128 * bit o.one + 256 * bit o.mode.ord + 512 * o.hint.toNat + 2048 * o.mode.low)
    (a := .reg o.base) (f := formPref) (by rw [← hmd]; rfl) rfl rfl rfl ha (Src.inSecond_of_okOff hb) (Nat.two_pow_pos _) (Nat.two_pow_pos _)
    (by omega) (List.forall_mem_cons.2 ⟨?_, hz⟩) fun hsrc h1 h2 => ?_
  · simp only [slice]
    omega
  · simp (disch := omega) [formPref, hsrc.qWithin, h2, hmode, bitAt, Src.isQ, Src.code, Reg.ofCode_code ha]

theorem maint_roundTrips {mk : Hdr → MaintOps → Instr} {h : Hdr} {op : Nat} {o : MaintOps}
    (hraw : rawOf (mk h o) = some (rawUni h op 0 (640 + o.sa) 0 o.n))
    (hform : formOf (h.wordB op 0 (640 + o.sa) 0 o.n 0) = some (formMaint mk))
    (hwf : (mk h o).wf = (h.ok && sPair o.sa && o.n.okUni)) : RoundTrips (mk h o) := by
  intro hi
  rw [hwf] at hi
  have hn : o.n.okUni = true := of_and hi
  have hsa : sPair o.sa = true := of_and (of_and_left hi)
  refine .ofB (m := 0) (s3 := 0) hraw hform rfl rfl (Src.inSecond_of_okUni hn) (Nat.two_pow_pos _) (sOk_lt (sOk_of_sPair hsa)) (Nat.two_pow_pos _)
    (by decide) ?_ fun hsrc h2 => ?_
  · simp
  · simp [formMaint, hsrc.qWithin, h2, Src.isQ_of_okUni hn]

theorem bmode_roundTrips (h : Hdr) (o : BmodeOps) : RoundTrips (.bmode h o) := by
  intro hi
  have hb : o.b.toNat < 12 := of_decide_eq_true (of_and hi)
  have := o.mode.code_lt
  refine .short (f := formBmode) (d := 0) (s1 := o.b.toNat) (md := 32 * o.mode.code) rfl rfl rfl (Nat.two_pow_pos _) o.b.isLt
    (Nat.two_pow_pos _) (Nat.two_pow_pos _) (by omega) ?_ ?_
  · simp (disch := omega) [formBmode]
  · simp (disch := omega) [formBmode, hb]

theorem pres_roundTrips (h : Hdr) (o : PresOps) : RoundTrips (.pres h o) := by
  intro hi
  have hb : o.off.okOff = true := of_and hi
  have ha : o.base.okReg false = true := of_and (of_and_left hi)
  refine .ofAB (m := 0) (d := o.pd.toNat) (f := formPres) rfl rfl rfl rfl (Src.inField_of_okReg ha) (Src.inSecond_of_okOff hb) o.pd.isLt
    (Nat.two_pow_pos _) (by decide) ?_ fun hsrc h1 h2 => ?_
  · simp
  · simp [formPres, hsrc.qWithin, h1, h2]

theorem fence_roundTrips {mk : Hdr → BitVec 5 → Instr} {h : Hdr} {op : Nat} {sc : BitVec 5}
    (hraw : rawOf (mk h sc) = some (rawS1 h op 0 (2048 * sc.toNat)))
    (hform : formOf (h.word op 0 0 0 0 (2048 * sc.toNat) none) = some (formFence mk)) : RoundTrips (mk h sc) := by
  intro _
  refine .short hraw hform rfl (Nat.two_pow_pos _) (Nat.two_pow_pos _) (Nat.two_pow_pos _) (Nat.two_pow_pos _) (by omega) ?_ ?_
  · simp (disch := omega) [formFence]
  · simp (disch := omega) [formFence]

/-- Whether a word of the synchronisation family is in the scratchpad: MOD bit 7 (R303). -/
def WordRef.isScratch : WordRef → Bool | .global _ => false | .scratch _ => true

theorem WordRef.md_eq (w : WordRef) : w.md = 128 * bit w.isScratch := by cases w <;> rfl

theorem WordRef.s_lt {w : WordRef} (h : w.ok = true) : w.s < 2 ^ 10 := by
  cases w with
  | global n => exact sOk_lt (sOk_of_sPair h)
  | scratch n => exact sOk_lt h

theorem Raw.wordRef_eq {r : Raw} {w : WordRef} (hs : r.s1 = w.s) (hbit : slice r.md 7 1 = bit w.isScratch) : r.wordRef = some w := by
  rw [Raw.wordRef, hs, bitAt_eq hbit]
  cases w <;> simp [WordRef.s, WordRef.isScratch]

theorem bwinit_roundTrips (h : Hdr) (o : BwinitOps) : RoundTrips (.bwinit h o) := by
  intro hi
  have hn : o.n.okUni = true := of_and hi
  have hw : o.word.ok = true := of_and (of_and_left hi)
  have := bit_le o.word.isScratch
  have hword : (h.wordB 0x285 0 o.word.s (128 * bit o.word.isScratch + 2048 * o.scope.toNat) o.n 0).wordRef = some o.word :=
    Raw.wordRef_eq rfl (by simp (disch := omega))
  refine .ofB (m := 128 * bit o.word.isScratch + 2048 * o.scope.toNat) (d := 0) (s1 := o.word.s) (s3 := 0) (f := formBwinit)
    (by rw [← WordRef.md_eq]; rfl) rfl rfl rfl (Src.inSecond_of_okUni hn) (Nat.two_pow_pos _) (WordRef.s_lt hw) (Nat.two_pow_pos _) (by omega)
    ?_ fun hsrc h2 => ?_
  · simp (disch := omega)
  · simp (disch := omega) [formBwinit, hsrc.qWithin, h2, hword, Src.isQ_of_okUni hn]

theorem bwarr_roundTrips (h : Hdr) (o : BwarrOps) : RoundTrips (.bwarr h o) := by
  intro hi
  have hn : o.n.okUni = true := of_and hi
  have hd : o.d.ok = true := of_and (of_and_left hi)
  have hw : o.word.ok = true := of_and (of_and_left (of_and_left hi))
  have := bit_le o.word.isScratch
  have := bit_le o.rel
  have hword : (h.wordB 0x286 o.d.code o.word.s (128 * bit o.word.isScratch + 256 * bit o.rel + 2048 * o.scope.toNat) o.n 0).wordRef = some
    o.word :=
    Raw.wordRef_eq rfl (by simp (disch := omega))
  refine .ofB (m := 128 * bit o.word.isScratch + 256 * bit o.rel + 2048 * o.scope.toNat) (d := o.d.code) (s1 := o.word.s) (s3 := 0)
    (f := formBwarr)
    (by rw [← WordRef.md_eq]; rfl) rfl rfl rfl (Src.inSecond_of_okUni hn) (Reg.code_lt hd) (WordRef.s_lt hw) (Nat.two_pow_pos _) (by omega) ?_
    fun hsrc h2 => ?_
  · simp (disch := omega)
  · simp (disch := omega) [formBwarr, hsrc.qWithin, h2, hword, Src.isQ_of_okUni hn, Reg.ofCode_code hd, bitAt]

theorem bwwait_roundTrips (h : Hdr) (o : BwwaitOps) : RoundTrips (.bwwait h o) := by
  intro hi
  have hn : o.ph.okUni = true := of_and hi
  have hw : o.word.ok = true := of_and (of_and_left hi)
  have := bit_le o.word.isScratch
  have hword : (h.wordB 0x287 o.pd.toNat o.word.s (128 * bit o.word.isScratch + 2048 * o.scope.toNat) o.ph 0).wordRef = some o.word :=
    Raw.wordRef_eq rfl (by simp (disch := omega))
  refine .ofB (m := 128 * bit o.word.isScratch + 2048 * o.scope.toNat) (d := o.pd.toNat) (s1 := o.word.s) (s3 := 0) (f := formBwwait)
    (by rw [← WordRef.md_eq]; rfl) rfl rfl rfl (Src.inSecond_of_okUni hn) o.pd.isLt (WordRef.s_lt hw) (Nat.two_pow_pos _) (by omega) ?_
    fun hsrc h2 => ?_
  · simp (disch := omega)
  · simp (disch := omega) [formBwwait, hsrc.qWithin, h2, hword, Src.isQ_of_okUni hn]

theorem semsig_roundTrips (h : Hdr) (o : SemsigOps) : RoundTrips (.semsig h o) := by
  intro hi
  have hn : o.n.okUni = true := of_and hi
  have hsa : sPair o.sa = true := of_and (of_and_left hi)
  refine .ofB (m := 2048 * o.scope.toNat) (d := 0) (s1 := 640 + o.sa) (s3 := 0) (f := formSemsig) rfl rfl rfl rfl (Src.inSecond_of_okUni hn)
    (Nat.two_pow_pos _) (sOk_lt (sOk_of_sPair hsa)) (Nat.two_pow_pos _) (by omega) ?_ fun hsrc h2 => ?_
  · simp (disch := omega)
  · simp (disch := omega) [formSemsig, hsrc.qWithin, h2, Src.isQ_of_okUni hn]

theorem fsem_roundTrips (h : Hdr) (o : FsemOps) : RoundTrips (.fsem h o) := by
  intro hi
  have hn : o.n.okUni = true := of_and hi
  have hsa : sPair o.sa = true := of_and (of_and_left hi)
  refine .ofB (m := 2048 * o.scope.toNat) (d := 0) (s1 := 640 + o.sa) (s3 := 0) (f := formFsem) rfl rfl rfl rfl (Src.inSecond_of_okUni hn)
    (Nat.two_pow_pos _) (sOk_lt (sOk_of_sPair hsa)) (Nat.two_pow_pos _) (by omega) ?_ fun hsrc h2 => ?_
  · simp (disch := omega)
  · simp (disch := omega) [formFsem, hsrc.qWithin, h2, Src.isQ_of_okUni hn]

theorem semwait_roundTrips (h : Hdr) (o : SemwaitOps) : RoundTrips (.semwait h o) := by
  intro hi
  have hn : o.n.okUni = true := of_and hi
  have hsa : sPair o.sa = true := of_and (of_and_left hi)
  have hd : o.d.ok = true := of_and (of_and_left (of_and_left hi))
  refine .ofB (m := 2048 * o.scope.toNat) (d := o.d.code) (s1 := 640 + o.sa) (s3 := 0) (f := formSemwait) rfl rfl rfl rfl
    (Src.inSecond_of_okUni hn)
    (Reg.code_lt hd) (sOk_lt (sOk_of_sPair hsa)) (Nat.two_pow_pos _) (by omega) ?_ fun hsrc h2 => ?_
  · simp (disch := omega)
  · simp (disch := omega) [formSemwait, hsrc.qWithin, h2, Src.isQ_of_okUni hn, Reg.ofCode_code hd]

theorem errack_roundTrips (h : Hdr) (o : ErrackOps) : RoundTrips (.errack h o) := by
  intro hi
  have hd : o.d.ok = true := of_and hi
  have hw : o.word.ok = true := of_and (of_and_left hi)
  have := bit_le o.word.isScratch
  have hword : (h.word 0x28B o.d.code o.word.s 0 0 (128 * bit o.word.isScratch + 2048 * o.scope.toNat) none).wordRef = some o.word :=
    Raw.wordRef_eq rfl (by simp (disch := omega))
  refine .short (f := formErrack) (d := o.d.code) (s1 := o.word.s) (md := 128 * bit o.word.isScratch + 2048 * o.scope.toNat)
    (by rw [← WordRef.md_eq]; rfl) rfl rfl (Reg.code_lt hd) (WordRef.s_lt hw) (Nat.two_pow_pos _) (Nat.two_pow_pos _) (by omega) ?_ ?_
  · simp (disch := omega) [formErrack]
  · simp (disch := omega) [formErrack, hword, Reg.ofCode_code hd]

/-! ### Engine commands (R321 to R346) -/

theorem mdecl_roundTrips (h : Hdr) (o : MdeclOps) : RoundTrips (.mdecl h o) := by
  intro hi
  have hs : sBlock 4 o.sm = true := of_and hi
  exact .short (f := formMdecl) (d := 0) (s1 := o.c.toNat) (s2 := 640 + o.sm) (md := 0) rfl rfl rfl (Nat.two_pow_pos _) o.c.isLt
    (sOk_lt (sOk_of_sBlock hs)) (Nat.two_pow_pos _) (by decide) (by simp (disch := omega) [formMdecl]) (by simp [formMdecl])

theorem mload_roundTrips (h : Hdr) (o : MloadOps) : RoundTrips (.mload h o) := by
  intro hi
  have hs : sPair o.record = true := of_and hi
  have := o.ty.code_lt
  exact .short (f := formMload) (d := o.t.toNat) (s1 := 640 + o.record) (md := o.ty.code) rfl rfl rfl o.t.isLt
    (sOk_lt (sOk_of_sPair hs)) (Nat.two_pow_pos _) (Nat.two_pow_pos _) (by omega) (by simp (disch := omega) [formMload])
    (by simp (disch := omega) [formMload])

theorem mout_roundTrips (h : Hdr) (o : MoutOps) : RoundTrips (.mout h o) := by
  intro hi
  have hs : sPair o.record = true := of_and hi
  have := o.ty.code_lt
  have := o.rnd.code_lt
  have := bit_le o.sat
  exact .short (f := formMout) (d := o.t.toNat) (s1 := 640 + o.record) (md := o.ty.code + 32 * o.rnd.code + 256 * bit o.sat) rfl rfl rfl o.t.isLt
    (sOk_lt (sOk_of_sPair hs)) (Nat.two_pow_pos _) (Nat.two_pow_pos _) (by omega) (by simp (disch := omega) [formMout])
    (by simp (disch := omega) [formMout])

theorem awalk_roundTrips (h : Hdr) (o : AwalkOps) : RoundTrips (.awalk h o) := by
  intro hi
  unfold Instr.wf at hi
  simp only [Bool.and_eq_true] at hi
  obtain ⟨⟨⟨-, hbw⟩, hp⟩, hq⟩ := hi
  have := bwScope_lt o.bw
  have := bit_le o.bw.isSome
  refine .engine (op := 0x310) (d := o.w.toNat) (s1 := 640 + o.desc) (s2 := 640 + o.walk) (md := 0) (f := formAwalk) (z := [(0, 11), (17, 1)])
    rfl rfl rfl rfl hbw o.w.isLt (sOk_lt (sOk_of_sPair hp)) (sOk_lt (sOk_of_sPair hq)) (by decide) ?_ fun hw => ?_
  · simp (disch := omega)
  · simp [formAwalk, hw]

theorem plalloc_roundTrips (h : Hdr) (o : PlallocOps) : RoundTrips (.plalloc h o) := by
  intro hi
  have hs : sPair o.mask = true := of_and hi
  exact .short (f := formPlalloc) (d := 0) (s1 := 640 + o.mask) (s2 := o.w.toNat) (md := 0) rfl rfl rfl (Nat.two_pow_pos _)
    (sOk_lt (sOk_of_sPair hs)) o.w.isLt (Nat.two_pow_pos _) (by decide) (by simp (disch := omega) [formPlalloc]) (by simp [formPlalloc])

/-- A plane command (R337). -/
theorem Recoverable.plane {i : Instr} {h : Hdr} {op s1 cmd md j : Nat} {b : Option Bw} {z : List (Nat × Nat)} {f : Form}
    (hraw : rawOf i = some (rawPl h op s1 cmd md b)) (hform : formOf (h.wordBw op 0 s1 (640 + cmd) md b) = some f)
    (hlong : f.long = .no) (huse : f.use = plUse j z) (hb : bwOk b = true) (hs1 : s1 < 2 ^ j) (hcmd : sOk cmd = true) (hmd : md < 512)
    (hz : ∀ p ∈ z, slice (md + 2048 * bwScope b + 65536 * bit b.isSome) p.1 p.2 = 0)
    (hget : (h.wordBw op 0 s1 (640 + cmd) md b).bw 16 = some b → f.get (h.wordBw op 0 s1 (640 + cmd) md b) 0 = some i) : Recoverable i := by
  have := bwScope_lt b
  have := bit_le b.isSome
  refine .engine (z := z ++ [(9, 2), (17, 1)]) hraw hform hlong (by rw [huse]; rfl) hb (Nat.two_pow_pos _) hs1 (sOk_lt hcmd) (by omega)
    (List.forall_mem_append.2 ⟨hz, ?_⟩) hget
  simp (disch := omega)

theorem plfill_roundTrips {mk : Hdr → PlfillOps → Instr} {h : Hdr} {op : Nat} {o : PlfillOps}
    (hraw : rawOf (mk h o) = some (rawPl h op (640 + o.addr) o.cmd 0 o.bw))
    (hform : formOf (h.wordBw op 0 (640 + o.addr) (640 + o.cmd) 0 o.bw) = some (formPlfill mk))
    (hwf : (mk h o).wf = (h.ok && bwOk o.bw && sPair o.addr && sBlock 4 o.cmd)) : RoundTrips (mk h o) := by
  intro hi
  rw [hwf] at hi
  simp only [Bool.and_eq_true] at hi
  obtain ⟨⟨⟨-, hbw⟩, ha⟩, hc⟩ := hi
  have := bwScope_lt o.bw
  refine .plane hraw hform rfl rfl hbw (sOk_lt (sOk_of_sPair ha)) (sOk_of_sBlock hc) (by decide) ?_ fun hw => ?_
  · simp (disch := omega)
  · simp [formPlfill, hw]

theorem plop_roundTrips {mk : Hdr → PlopOps → Instr} {h : Hdr} {op : Nat} {o : PlopOps}
    (hraw : rawOf (mk h o) = some (rawPl h op 0 o.cmd (o.op.toNat + 256 * bit o.sat) o.bw))
    (hform : formOf (h.wordBw op 0 0 (640 + o.cmd) (o.op.toNat + 256 * bit o.sat) o.bw) = some (formPlop mk)) {n : Nat}
    (hwf : (mk h o).wf = (h.ok && bwOk o.bw && sPair o.cmd && decide (o.op.toNat < n))) : RoundTrips (mk h o) := by
  intro hi
  rw [hwf] at hi
  simp only [Bool.and_eq_true] at hi
  obtain ⟨⟨⟨-, hbw⟩, hc⟩, -⟩ := hi
  have := bwScope_lt o.bw
  have := bit_le o.sat
  have hop : BitVec.ofNat 8 (o.op.toNat + 256 * bit o.sat + 2048 * bwScope o.bw + 65536 * bit o.bw.isSome) = o.op :=
    ofNat_eq_of_mod (by omega)
  refine .plane hraw hform rfl rfl hbw (Nat.two_pow_pos _) (sOk_of_sPair hc) (by omega) (fun _ hp => (nomatch hp)) fun hw => ?_
  simp (disch := omega) [formPlop, hw, hop]

theorem pldot_roundTrips (h : Hdr) (o : PldotOps) : RoundTrips (.pldot h o) := by
  intro hi
  unfold Instr.wf at hi
  simp only [Bool.and_eq_true] at hi
  obtain ⟨⟨⟨-, hbw⟩, hz⟩, hc⟩ := hi
  have := bwScope_lt o.bw
  have := bit_le o.sat
  refine .plane (f := formPldot) (md := 256 * bit o.sat) rfl rfl rfl rfl hbw (sOk_lt hz) (sOk_of_sPair hc) (by omega) ?_ fun hw => ?_
  · simp (disch := omega)
  · simp (disch := omega) [formPldot, hw]

theorem plcmp_roundTrips (h : Hdr) (o : PlcmpOps) : RoundTrips (.plcmp h o) := by
  intro hi
  unfold Instr.wf at hi
  simp only [Bool.and_eq_true] at hi
  obtain ⟨⟨-, hbw⟩, hc⟩ := hi
  have := bwScope_lt o.bw
  have := o.cond.code_lt
  have := bit_le o.imm
  refine .plane (f := formPlcmp) (md := o.cond.code + 8 * bit o.imm) rfl rfl rfl rfl hbw (Nat.two_pow_pos _) (sOk_of_sPair hc) (by omega) ?_
    fun hw => ?_
  · simp (disch := omega)
  · simp (disch := omega) [formPlcmp, hw, bitAt]

theorem plsel_roundTrips (h : Hdr) (o : PlselOps) : RoundTrips (.plsel h o) := by
  intro hi
  unfold Instr.wf at hi
  simp only [Bool.and_eq_true] at hi
  obtain ⟨⟨-, hbw⟩, hc⟩ := hi
  have := bwScope_lt o.bw
  have := bit_le o.sat
  refine .plane (f := formPlsel) (md := 256 * bit o.sat) rfl rfl rfl rfl hbw (Nat.two_pow_pos _) (sOk_of_sPair hc) (by omega) ?_ fun hw => ?_
  · simp (disch := omega)
  · simp (disch := omega) [formPlsel, hw]

theorem plred_roundTrips (h : Hdr) (o : PlredOps) : RoundTrips (.plred h o) := by
  intro hi
  unfold Instr.wf at hi
  simp only [Bool.and_eq_true] at hi
  obtain ⟨⟨⟨⟨-, hbw⟩, ha⟩, hc⟩, -⟩ := hi
  have := bwScope_lt o.bw
  have hop : BitVec.ofNat 8 (o.op.toNat + 2048 * bwScope o.bw + 65536 * bit o.bw.isSome) = o.op := ofNat_eq_of_mod (by omega)
  refine .plane (f := formPlred) (md := o.op.toNat) rfl rfl rfl rfl hbw (sOk_lt (sOk_of_sPair ha)) (sOk_of_sPair hc) (by omega) ?_ fun hw => ?_
  · simp (disch := omega)
  · simp (disch := omega) [formPlred, hw, hop]

theorem plbmap_roundTrips (h : Hdr) (o : PlbmapOps) : RoundTrips (.plbmap h o) := by
  intro hi
  unfold Instr.wf at hi
  simp only [Bool.and_eq_true] at hi
  obtain ⟨⟨⟨-, hbw⟩, ha⟩, hc⟩ := hi
  have := bwScope_lt o.bw
  refine .plane (f := formPlbmap) (md := 0) rfl rfl rfl rfl hbw (sOk_lt (sOk_of_sPair ha)) (sOk_of_sPair hc) (by decide) ?_ fun hw => ?_
  · simp (disch := omega)
  · simp (disch := omega) [formPlbmap, hw]

end Sys2Proof
end

section
/-! SUPPORT. Round trips of the near-memory, fabric and system instructions (R348 to R417). -/

namespace Sys2Proof

/-! ### Near memory and the fabric (R348 to R362) -/

/-- A command that must have a barrier word (R348, R360). -/
theorem Recoverable.must {i : Instr} {h : Hdr} {op s1 s2 m j k : Nat} {w : Bw} {z : List (Nat × Nat)} {f : Form}
    (hraw : rawOf i = some (withBw (h.word op 0 s1 s2 0 m none) 16 (some w))) (hform : formOf (h.wordBw op 0 s1 s2 m (some w)) = some f)
    (hlong : f.long = .no) (huse : f.use = bwMustUse j k z) (hw : w.ok = true) (hs1 : s1 < 2 ^ j) (hs2 : s2 < 2 ^ k) (hm : m ≤ 1)
    (hz : ∀ p ∈ z, slice (m + 2048 * bwScope (some w) + 65536 * bit true) p.1 p.2 = 0)
    (hget : (h.wordBw op 0 s1 s2 m (some w)).bwMust 16 = some w → f.get (h.wordBw op 0 s1 s2 m (some w)) 0 = some i) : Recoverable i := by
  have := bwScope_lt (some w)
  have := bit_le true
  refine .engine (z := z ++ [(1, 10), (17, 1)]) hraw hform hlong (by rw [huse]; rfl) hw (Nat.two_pow_pos _) hs1 hs2 (by omega)
    (List.forall_mem_append.2 ⟨hz, ?_⟩) fun hb => hget (by rw [Raw.bwMust, hb]; rfl)
  refine List.forall_mem_cons.2 ⟨?_, List.forall_mem_singleton.2 ?_⟩ <;> simp only [Option.isSome_some, slice] <;> omega

theorem ncallL_roundTrips (h : Hdr) (o : NcallLOps) : RoundTrips (.ncallL h o) := by
  intro hi
  unfold Instr.wf at hi
  simp only [Bool.and_eq_true] at hi
  obtain ⟨⟨⟨⟨⟨-, -⟩, hd⟩, ha⟩, hx⟩, hs⟩ := hi
  have hd : vOk o.vd = true := vOk_of_runOk (by split <;> decide) hd
  have ha := vOk_of_vPair ha
  have hx := vOk_of_runOk (by omega) hx
  have := bit_le o.nr2
  have hentry : BitVec.ofNat 10 (o.entry.toNat + 65536 * o.j.toNat + 262144 * o.na.toNat + 2097152 * bit o.nr2) = o.entry :=
    ofNat_eq_of_mod (by omega)
  refine .long (f := formNcallL) (d := o.vd) (s1 := o.va) (s2 := o.vx) (s3 := 640 + o.sr) (md := 0) rfl rfl rfl (vOk_lt hd) (vOk_lt ha)
    (vOk_lt hx)
    (sOk_lt (sOk_of_sPair hs)) (by decide) ?_ (Nat.two_pow_pos _) ⟨Nat.two_pow_pos _, Nat.two_pow_pos _, ?_, rfl⟩ ?_
  · simp [formNcallL]
  · simp (disch := omega) [formNcallL, Raw.imm]
    omega
  · simp (disch := omega) [formNcallL, Raw.imm, Raw.qWithin, Raw.qbit, bitAt, hentry, vCode_of_ok hd, vCode_of_ok ha, vCode_of_ok hx]

theorem ncallB_roundTrips (h : Hdr) (o : NcallBOps) : RoundTrips (.ncallB h o) := by
  intro hi
  have hw : o.bw.ok = true := of_and hi
  have hs : sBlock 16 o.blk = true := of_and (of_and_left hi)
  have := bwScope_lt (some o.bw)
  refine .must (f := formNcallB) (m := 0) rfl rfl rfl rfl hw (sOk_lt (sOk_of_sBlock hs)) (Nat.two_pow_pos _) (by decide) ?_ fun hb => ?_
  · simp (disch := omega)
  · simp [formNcallB, hb]

theorem njoin_roundTrips (h : Hdr) (o : NjoinOps) : RoundTrips (.njoin h o) := by
  intro hi
  have hm := Reg.ok_of_okPair (of_and hi)
  exact .short (f := formNjoin) (d := o.j.toNat) (s1 := o.mask.code) (md := 0) rfl rfl rfl o.j.isLt (Reg.code_lt hm) (Nat.two_pow_pos _)
    (Nat.two_pow_pos _) (by decide) (by simp [formNjoin]) (by simp [formNjoin, Reg.ofCode_code hm])

theorem nret_roundTrips (h : Hdr) (o : NretOps) : RoundTrips (.nret h o) := by
  intro hi
  obtain ⟨a, b⟩ := o
  have ha : a.ok = true := of_and (of_and_left hi)
  have hb := of_and hi
  cases b with
  | none =>
    refine .short (f := formNret) (d := 0) (s1 := a.code) (s2 := 0) (md := 0) rfl rfl rfl (Nat.two_pow_pos _) (Reg.code_lt ha) (Nat.two_pow_pos _)
      (Nat.two_pow_pos _) (by decide) ?_ ?_
    · simp [formNret]
    · simp [formNret, bitAt, Reg.ofCode_code ha]
  | some r =>
    have hr : r.ok = true := hb
    have hbit : bitAt 1 0 = true := by decide
    refine .short (f := formNret) (d := 0) (s1 := a.code) (s2 := r.code) (md := 1) rfl rfl rfl (Nat.two_pow_pos _) (Reg.code_lt ha) ?_
      (Nat.two_pow_pos _) (by decide) ?_ ?_
    · simpa [formNret, hbit] using Reg.code_lt hr
    · simp [formNret, slice]
    · simp [formNret, hbit, Reg.ofCode_code ha, Reg.ofCode_code hr]

theorem xred_roundTrips {mk : Hdr → XredOps → Instr} {h : Hdr} {op : Nat} {o : XredOps}
    (hraw : rawOf (mk h o) = some (withBw (h.word op 0 (640 + o.blk) o.vi 0 0 none) 16 (some o.bw)))
    (hform : formOf (h.wordBw op 0 (640 + o.blk) o.vi 0 (some o.bw)) = some (formXred mk))
    (hwf : (mk h o).wf = (h.ok && sBlock 8 o.blk && vOk o.vi && o.bw.ok)) : RoundTrips (mk h o) := by
  intro hi
  rw [hwf] at hi
  have hw : o.bw.ok = true := of_and hi
  have hv : vOk o.vi = true := of_and (of_and_left hi)
  have hs : sBlock 8 o.blk = true := of_and (of_and_left (of_and_left hi))
  have := bwScope_lt (some o.bw)
  refine .must hraw hform rfl rfl hw (sOk_lt (sOk_of_sBlock hs)) (vOk_lt hv) (by decide) ?_ fun hb => ?_
  · simp (disch := omega)
  · simp [formXred, hb, vCode_of_ok hv]

theorem bkopen_roundTrips {mk : Hdr → Nat → Instr} {h : Hdr} {op sa : Nat} (hraw : rawOf (mk h sa) = some (rawS1 h op (640 + sa) 0))
    (hform : formOf (h.word op 0 (640 + sa) 0 0 0 none) = some (formBkopen mk)) (hwf : (mk h sa).wf = (h.ok && sPair sa)) :
    RoundTrips (mk h sa) := by
  intro hi
  rw [hwf] at hi
  exact .short hraw hform rfl (Nat.two_pow_pos _) (sOk_lt (sOk_of_sPair (of_and hi))) (Nat.two_pow_pos _) (Nat.two_pow_pos _) (by decide)
    (by simp [formBkopen]) (by simp [formBkopen])

theorem bkbcast_roundTrips (h : Hdr) (o : BkbcastOps) : RoundTrips (.bkbcast h o) := by
  intro hi
  have hv : vOk o.vs = true := of_and hi
  have hs : sPair o.sa = true := of_and (of_and_left hi)
  have := bit_le o.acc
  exact .short (f := formBkbcast) (d := o.k.toNat) (s1 := 640 + o.sa) (s2 := o.vs) (md := bit o.acc) rfl rfl rfl o.k.isLt
    (sOk_lt (sOk_of_sPair hs)) (vOk_lt hv) (Nat.two_pow_pos _) (by omega) (by simp (disch := omega) [formBkbcast])
    (by simp (disch := omega) [formBkbcast, bitAt, vCode_of_ok hv])

theorem bkmac_roundTrips (h : Hdr) (o : BkmacOps) : RoundTrips (.bkmac h o) := by
  intro hi
  have hw : o.bw.ok = true := of_and hi
  have hk : sOk o.sk = true := of_and (of_and_left hi)
  have hs : sPair o.sa = true := of_and (of_and_left (of_and_left hi))
  have := bwScope_lt (some o.bw)
  refine .must (f := formBkmac) (op := 0x389) (s1 := 640 + o.sa) (s2 := 640 + o.sk) (m := 0) rfl rfl rfl rfl hw (sOk_lt (sOk_of_sPair hs))
    (sOk_lt hk) (by decide) ?_ fun hb => ?_
  · simp (disch := omega)
  · simp [formBkmac, hb]

theorem bkread_roundTrips (h : Hdr) (o : BkreadOps) : RoundTrips (.bkread h o) := by
  intro hi
  have hs : sPair o.sa = true := of_and hi
  have hd : vOk o.vd = true := of_and (of_and_left hi)
  exact .short (f := formBkread) (d := o.vd) (s1 := 640 + o.sa) (s2 := o.k.toNat) (md := 0) rfl rfl rfl (vOk_lt hd)
    (sOk_lt (sOk_of_sPair hs)) o.k.isLt (Nat.two_pow_pos _) (by decide) (by simp [formBkread]) (by simp [formBkread, vCode_of_ok hd])

theorem kvxlate_roundTrips (h : Hdr) (o : KvxlateOps) : RoundTrips (.kvxlate h o) := by
  intro hi
  unfold Instr.wf at hi
  simp only [Bool.and_eq_true] at hi
  obtain ⟨⟨⟨⟨⟨-, hd⟩, hp⟩, hq⟩, hx⟩, ht⟩ := hi
  have hd := vOk_of_vPair hd
  refine .long (f := formKvxlate) (d := o.vd) (s1 := 640 + o.root) (s2 := o.vq) (s3 := o.vx) (md := 2048 * o.scope.toNat) rfl rfl rfl (vOk_lt hd)
    (sOk_lt (sOk_of_sPair hp)) (vOk_lt hq) (vOk_lt hx) (by omega) ?_ (Nat.two_pow_pos _) ⟨vOk_lt ht, o.pd.isLt, Nat.two_pow_pos _, rfl⟩ ?_
  · simp (disch := omega) [formKvxlate]
  · simp (disch := omega) [formKvxlate, Raw.qWithin, Raw.qbit, bitAt, vCode_of_ok hd, vCode_of_ok hq, vCode_of_ok hx, vCode_of_ok ht]

theorem kvmask_roundTrips (h : Hdr) (o : KvmaskOps) : RoundTrips (.kvmask h o) := by
  intro hi
  have hb : o.vb.ok = true := of_and hi
  have hl : o.vl.ok = true := of_and (of_and_left hi)
  have hd : o.d.ok = true := of_and (of_and_left (of_and_left hi))
  exact .short (f := formKvmask) (d := o.d.code) (s1 := o.vl.code) (s2 := o.vb.code) (md := o.logt.toNat + 16 * o.k.toNat + 8192 * o.pd.toNat)
    rfl rfl rfl (Reg.code_lt hd) (Reg.code_lt hl) (Reg.code_lt hb) (Nat.two_pow_pos _) (by omega) (by simp (disch := omega) [formKvmask])
    (by simp (disch := omega) [formKvmask, Reg.ofCode_code hd, Reg.ofCode_code hl, Reg.ofCode_code hb])

theorem fcopy_roundTrips {mk : Hdr → FcopyOps → Instr} {h : Hdr} {m : Nat} {o : FcopyOps} (hm : m ≤ 1)
    (hraw : rawOf (mk h o) = some (withBw (h.word 0x3A0 0 (640 + o.blk) 0 0 m none) 16 (some o.bw)))
    (hform : formOf (h.wordBw 0x3A0 0 (640 + o.blk) 0 m (some o.bw)) = some (formFcopy mk))
    (hwf : (mk h o).wf = (h.ok && sBlock 8 o.blk && o.bw.ok)) : RoundTrips (mk h o) := by
  intro hi
  rw [hwf] at hi
  have hw : o.bw.ok = true := of_and hi
  have hs : sBlock 8 o.blk = true := of_and (of_and_left hi)
  refine .must hraw hform rfl rfl hw (sOk_lt (sOk_of_sBlock hs)) (Nat.two_pow_pos _) hm (fun _ hp => (nomatch hp)) fun hb => ?_
  simp [formFcopy, hb]

theorem fcopyPut_roundTrips (h : Hdr) (o : FcopyOps) : RoundTrips (.fcopyPut h o) := by
  refine fcopy_roundTrips (m := 0) (by decide) rfl (congrArg some (if_neg ?_)) rfl
  simp only [bitAt, slice, Hdr.word_md, beq_iff_eq]
  omega

theorem fcopyGet_roundTrips (h : Hdr) (o : FcopyOps) : RoundTrips (.fcopyGet h o) := by
  refine fcopy_roundTrips (m := 1) (by decide) rfl (congrArg some (if_pos ?_)) rfl
  simp only [bitAt, slice, Hdr.word_md, beq_iff_eq]
  omega

theorem freduce_roundTrips (h : Hdr) (o : FreduceOps) : RoundTrips (.freduce h o) := by
  intro hi
  have hw : o.bw.ok = true := of_and hi
  have hs : sBlock 8 o.blk = true := of_and (of_and_left hi)
  have := bit_le o.bf16
  refine .must (f := formFreduce) (m := bit o.bf16) rfl rfl rfl rfl hw (sOk_lt (sOk_of_sBlock hs)) (Nat.two_pow_pos _) this
    (fun _ hp => (nomatch hp)) fun hb => ?_
  simp (disch := omega) [formFreduce, hb, bitAt]

/-! ### System words (R411 to R418) -/

theorem sysrd_roundTrips (h : Hdr) (o : SysrdOps) : RoundTrips (.sysrd h o) := by
  intro hi
  have hs : sOk o.sel = true := of_and hi
  have hd : sPair o.d = true := of_and (of_and_left hi)
  exact .short (f := formSysrd) (d := 640 + o.d) (s1 := 640 + o.sel) (md := o.reg.toNat) rfl rfl rfl (sOk_lt (sOk_of_sPair hd)) (sOk_lt hs)
    (Nat.two_pow_pos _) (Nat.two_pow_pos _) (by omega) (by simp (disch := omega) [formSysrd, sysZ]) (by simp [formSysrd])

theorem syswr_roundTrips (h : Hdr) (o : SyswrOps) : RoundTrips (.syswr h o) := by
  intro hi
  have ha : sPair o.a = true := of_and hi
  have hs : sOk o.sel = true := of_and (of_and_left hi)
  exact .short (f := formSyswr) (d := 0) (s1 := 640 + o.sel) (s3 := 640 + o.a) (md := o.reg.toNat) rfl rfl rfl (Nat.two_pow_pos _) (sOk_lt hs)
    (Nat.two_pow_pos _) (sOk_lt (sOk_of_sPair ha)) (by omega) (by simp (disch := omega) [formSyswr, sysZ]) (by simp [formSyswr])

theorem tret_roundTrips {mk : Hdr → TretOps → Instr} {h : Hdr} {op : Nat} {o : TretOps}
    (hraw : rawOf (mk h o) = some (rawDa h op 0 (640 + o.d) (640 + o.a)))
    (hform : formOf (h.word op (640 + o.d) (640 + o.a) 0 0 0 none) = some (formTret mk))
    (hwf : (mk h o).wf = (h.ok && sOk o.d && sPair o.a)) : RoundTrips (mk h o) := by
  intro hi
  rw [hwf] at hi
  have ha : sPair o.a = true := of_and hi
  have hd : sOk o.d = true := of_and (of_and_left hi)
  exact .short hraw hform rfl (sOk_lt hd) (sOk_lt (sOk_of_sPair ha)) (Nat.two_pow_pos _) (Nat.two_pow_pos _) (by decide)
    (by simp [formTret]) (by simp [formTret])

theorem tlbinvAll_roundTrips (h : Hdr) (sel : Nat) : RoundTrips (.tlbinvAll h sel) := by
  intro hi
  have hs : sOk sel = true := of_and hi
  exact .short (f := formTlbinvAll) (d := 0) (s1 := 640 + sel) (md := 0) rfl (congrArg some (if_neg (by simp [bitAt]))) rfl (Nat.two_pow_pos _)
    (sOk_lt hs) (Nat.two_pow_pos _) (Nat.two_pow_pos _) (by decide) (by simp [formTlbinvAll]) (by simp [formTlbinvAll])

theorem range_roundTrips {mk : Hdr → RangeOps → Instr} {h : Hdr} {op m : Nat} {o : RangeOps} {z : List (Nat × Nat)}
    (hraw : rawOf (mk h o) = some (h.word op 0 (640 + o.sel) (640 + o.a) (640 + o.n) m none))
    (hform : formOf (h.word op 0 (640 + o.sel) (640 + o.a) (640 + o.n) m none) = some (formRange z mk)) (hm : m ≤ 1)
    (hz : ∀ p ∈ z, slice m p.1 p.2 = 0) (hwf : (mk h o).wf = (h.ok && sOk o.sel && sPair o.a && sOk o.n)) : RoundTrips (mk h o) := by
  intro hi
  rw [hwf] at hi
  simp only [Bool.and_eq_true] at hi
  obtain ⟨⟨⟨-, hs⟩, ha⟩, hn⟩ := hi
  exact .short hraw hform rfl (Nat.two_pow_pos _) (sOk_lt hs) (sOk_lt (sOk_of_sPair ha)) (sOk_lt hn) (by omega) hz (by simp [formRange])

theorem halt_roundTrips {mk : Hdr → HaltOps → Instr} {h : Hdr} {m : Nat} {o : HaltOps}
    (hraw : rawOf (mk h o) = some (rawDa h 0x3C6 m (640 + o.d) (640 + o.sel)))
    (hform : formOf (h.word 0x3C6 (640 + o.d) (640 + o.sel) 0 0 m none) = some (formHalt mk)) (hm : m ≤ 1)
    (hwf : (mk h o).wf = (h.ok && sOk o.d && sOk o.sel)) : RoundTrips (mk h o) := by
  intro hi
  rw [hwf] at hi
  have hs : sOk o.sel = true := of_and hi
  have hd : sOk o.d = true := of_and (of_and_left hi)
  exact .short hraw hform rfl (sOk_lt hd) (sOk_lt hs) (Nat.two_pow_pos _) (Nat.two_pow_pos _) (by omega)
    (by simp only [formHalt, slice, List.forall_mem_singleton]; omega) (by simp [formHalt])

end Sys2Proof
end

section
/-! The obligations on the encoding. -/

namespace Sys2Proof

theorem FMinOps.operands {o : FMinOps} {hok : Bool} (hi : (hok && o.d.ok && o.a.okReg false && o.b.okImm false .f32) = true) :
    o.d.ok = true ∧ o.a.okReg false = true ∧ o.b.okImm false .f32 = true :=
  ⟨of_and (of_and_left (of_and_left hi)), of_and (of_and_left hi), of_and hi⟩

theorem matchLanes_operands {h : Hdr} {o : Int1} (hi : (Instr.matchLanes h o).wf = true) : o.d.ok = true ∧ o.a.inField = true :=
  ⟨Reg.ok_of_okPair (of_and (of_and_left hi)), Src.inField_of_okReg (of_and hi)⟩

theorem roundTrips (i : Instr) (hi : (rawOf i).isSome = true) : RoundTrips i := by
  cases i with
  | nop | ret | exit | yield | trigger | bkpt | grow | wcut | mfence | plfree => exact plain_roundTrips rfl rfl
  | bra | call => exact bra_roundTrips rfl rfl
  | brx | callx => exact brx_roundTrips rfl rfl of_and
  | loop => exact loop_roundTrips _ _
  | endl => exact endl_roundTrips _ _
  | endlBrk => exact endlBrk_roundTrips _
  | wsync => exact wsync_roundTrips _ _
  | wait h n | tflag h n | msign h n | mwait h n =>
    exact lit1_roundTrips rfl rfl n.isLt (by decide) (by simp (disch := omega)) (by simp)
  | bar h n | bart h n => exact lit1_roundTrips rfl rfl n.isLt (by decide) (by decide) (by simp [bitAt])
  | barArr h n | bartArr h n => exact lit1_roundTrips rfl rfl n.isLt (by decide) (by decide) (by simp [bitAt, slice])
  | gclr h n | mzero h n | astop h n => exact litD_roundTrips rfl rfl n.isLt (by simp)
  | trap => exact trap_roundTrips _ _
  | gset => exact gset_roundTrips _ _
  | wsplice => exact wsplice_roundTrips _ _
  | iadd | isub | imul | imulh | imin | imax | and | or | xor | bfe | permb =>
    exact int2_roundTrips rfl rfl fun hi => Int2.operands_of_ok (of_and hi)
  | shl | shr | sha | rot | push => exact int2_roundTrips rfl rfl fun hi => Int2.operands_of_okAmt (of_and hi)
  | imad | idot4 | bfi => exact int3_roundTrips rfl rfl fun hi => Int3.operands_of_ok (of_and hi)
  | imadw => exact int3_roundTrips rfl rfl fun hi => Int3.operands_of_okWide (of_and hi)
  | iabs | ineg | not | popc | clz | brev | mov => exact int1_roundTrips rfl rfl fun hi => Int1.operands_of_ok (of_and hi)
  | matchLanes => exact int1_roundTrips rfl rfl matchLanes_operands
  | lop3 => exact lop3_roundTrips _ _
  | shf => exact shf_roundTrips _ _
  | isetp => exact isetp_roundTrips _ _
  | isel => exact isel_roundTrips _ _
  | lea => exact lea_roundTrips _ _
  | psetp => exact psetp_roundTrips _ _
  | psetpG => exact psetpG_roundTrips _ _
  | movi => exact movi_roundTrips _ _
  | smov => exact smov_roundTrips _ _
  | smovSt => exact smovSt_roundTrips _ _
  | ubcast => exact ubcast_roundTrips _ _
  | spr => exact spr_roundTrips _ _
  | shfl => exact shfl_roundTrips _ _
  | vote => exact vote_roundTrips _ _
  | redW => exact redW_roundTrips _ _
  | scanW => exact scanW_roundTrips _ _
  | vslide => exact vslide_roundTrips _ _
  | rng => exact rng_roundTrips _ _
  | fadd | fsub | fmul | hadd2 => exact f2_roundTrips rfl rfl F2Ops.operands
  | ffma | hfma2 => exact f3_roundTrips rfl rfl F3Ops.operands
  | fmin | fmax => exact fMin_roundTrips rfl rfl FMinOps.operands
  | fsetp => exact fsetp_roundTrips _ _
  | fclass => exact fclass_roundTrips _ _
  | frcp | frsq | fsqrt | fex2 | flg2 | fsin | fcos => exact fun_roundTrips rfl rfl rfl
  | cvt => exact cvt_roundTrips _ _
  | pack => exact pack_roundTrips _ _
  | unpack => exact unpack_roundTrips _ _
  | qnt => exact qnt_roundTrips _ _
  | dqnt => exact dqnt_roundTrips _ _
  | tagset => exact tagset_roundTrips _ _
  | tagget => exact da_roundTrips rfl rfl (by decide) (by simp) rfl
  | flags => exact flags_roundTrips _ _
  | flagsSet => exact flagsSet_roundTrips _ _
  | flagsClr => exact flagsClr_roundTrips _ _
  | ld => exact ld_roundTrips _ _
  | st => exact st_roundTrips _ _
  | lds => exact lds_roundTrips rfl (fun _ _ _ _ _ _ => rfl) lds_operands
  | ldu => exact lds_roundTrips rfl (fun _ _ _ _ _ _ => rfl) ldu_operands
  | sts => exact sts_roundTrips _ _
  | ldt => exact ldt_roundTrips _ _
  | stt => exact stt_roundTrips _ _
  | atom | atoms => exact atom_roundTrips rfl rfl of_and
  | red => exact red_roundTrips _ _
  | cpa => exact cpa_roundTrips _ _
  | cpout => exact cpout_roundTrips _ _
  | cpaLn => exact cpaLn_roundTrips _ _
  | cpoutLn => exact cpoutLn_roundTrips _ _
  | pref => exact pref_roundTrips _ _
  | l2clean | l2inv | l2flush => exact maint_roundTrips rfl rfl rfl
  | bmode => exact bmode_roundTrips _ _
  | pres => exact pres_roundTrips _ _
  | release | acquire | fence => exact fence_roundTrips rfl rfl
  | bwinit => exact bwinit_roundTrips _ _
  | bwarr => exact bwarr_roundTrips _ _
  | bwwait => exact bwwait_roundTrips _ _
  | semsig => exact semsig_roundTrips _ _
  | semwait => exact semwait_roundTrips _ _
  | errack => exact errack_roundTrips _ _
  | mdecl => exact mdecl_roundTrips _ _
  | mma => exact mma_roundTrips _ _
  | mload => exact mload_roundTrips _ _
  | mout => exact mout_roundTrips _ _
  | awalk => exact awalk_roundTrips _ _
  | plalloc => exact plalloc_roundTrips _ _
  | plfill | pldrain => exact plfill_roundTrips rfl rfl rfl
  | plop | plmul => exact plop_roundTrips rfl rfl rfl
  | pldot => exact pldot_roundTrips _ _
  | plcmp => exact plcmp_roundTrips _ _
  | plsel => exact plsel_roundTrips _ _
  | plred => exact plred_roundTrips _ _
  | plbmap => exact plbmap_roundTrips _ _
  | ncallL => exact ncallL_roundTrips _ _
  | ncallB => exact ncallB_roundTrips _ _
  | njoin => exact njoin_roundTrips _ _
  | nret => exact nret_roundTrips _ _
  | xred | xpref => exact xred_roundTrips rfl rfl rfl
  | bkopen | bkclose => exact bkopen_roundTrips rfl rfl rfl
  | bkbcast => exact bkbcast_roundTrips _ _
  | bkmac => exact bkmac_roundTrips _ _
  | bkread => exact bkread_roundTrips _ _
  | kvxlate => exact kvxlate_roundTrips _ _
  | kvmask => exact kvmask_roundTrips _ _
  | fcopyPut => exact fcopyPut_roundTrips _ _
  | fcopyGet => exact fcopyGet_roundTrips _ _
  | freduce => exact freduce_roundTrips _ _
  | fsem => exact fsem_roundTrips _ _
  | sysrd => exact sysrd_roundTrips _ _
  | syswr => exact syswr_roundTrips _ _
  | tret | resume => exact tret_roundTrips rfl rfl rfl
  | tlbinvAll => exact tlbinvAll_roundTrips _ _
  | tlbinvVa => exact range_roundTrips (m := 1) rfl (congrArg some (if_pos (by simp [bitAt, slice]))) (by decide) (by simp [slice]) rfl
  | snapmark => exact range_roundTrips (m := 0) rfl rfl (by decide) (by simp) rfl
  | halt => exact halt_roundTrips (m := 0) rfl (congrArg some (if_neg (by simp [bitAt]))) (by decide) rfl
  | haltKill => exact halt_roundTrips (m := 1) rfl (congrArg some (if_pos (by simp [bitAt, slice]))) (by decide) rfl
  | _ => exact absurd hi Bool.false_ne_true

/-- Settles O2: each form reads back, field by field, what the encoder wrote for its instructions. -/
theorem encodingRoundTrips : Obligations.EncodingRoundTrips := by
  intro i w hwf hw
  obtain ⟨r, hr, rfl⟩ := Option.map_eq_some_iff.1 hw
  obtain ⟨r', f, hr', hrec⟩ := roundTrips i (Option.isSome_of_mem hr) hwf
  obtain rfl : r = r' := Option.some.inj (hr.symm.trans hr')
  exact hrec.decodeWords hr hwf

/-- Settles O1: each written word is the encoding of its instruction, which round-trips (O2); the two refusals are evaluated. -/
theorem writtenWordsDecode : Obligations.WrittenWordsDecode := by
  unfold Obligations.WrittenWordsDecode
  intro h
  have decodes : ∀ {i : Instr} {w : Nat}, i.wf = true → encode i = some (w, none) → decodeWords w none = .ok i :=
    encodingRoundTrips _ (_, none)
  have hset : decodeWords (0x000 + 13 * 2 ^ 25 + 7 * 2 ^ 29 + 7 * 2 ^ 33) none = .error .setFlag := rfl
  have hreserved : decodeWords (0x006 + 2 ^ 38 + 7 * 2 ^ 29 + 7 * 2 ^ 33) none = .error .reserved := rfl
  exact ⟨decodes rfl (by decide +kernel), decodes rfl (by decide +kernel), decodes rfl (by decide +kernel), decodes rfl (by decide +kernel),
    decodes rfl (by decide +kernel), decodes rfl (by decide +kernel), decodes rfl (by decide +kernel),
    decodes rfl (by decide +kernel), decodes rfl (by decide +kernel), decodes rfl (by decide +kernel), decodes rfl (by decide +kernel),
      decodes rfl (by decide +kernel), decodes rfl (by decide +kernel), decodes rfl (by decide +kernel), hset, hreserved⟩

end Sys2Proof
end

section
/-!
SUPPORT. An instruction without effect that still numbers an operation in flight (R12, R472).
-/

namespace Sys2Proof.Claims

open Sys2Proof.Machine

/-- A header whose guard holds for no lane. -/
def neverHdr : Hdr := ⟨0, 0, 0, ⟨⟨7, true⟩, ⟨7, true⟩, false⟩⟩

/-- FADD v0, v0, v0 under that guard. -/
def neverAdd : F2Ops := ⟨.f32, .rn, false, 0, 0, .v 0, .reg (.v 0), .reg (.v 0)⟩

/-- Lane 0 of warp 0 issues, and the operation in flight has the number of the next one. -/
def clash : State := { State.reset with cur := some ⟨0, 0, [0], 0, 0, false⟩, groups := [twin 1], ops := [fillOp] }

/-- The issue of `clash` under the guard of `neverHdr`. -/
def clashEnv : Env := ⟨⟨0, 0, [0], 0, 0, false⟩, twin 1, newWarp 0 4, [], []⟩

theorem env_clash : clash.env neverHdr.guard = some clashEnv := rfl

/-- A floating-point instruction whose guard holds for no lane issues nothing, and still puts down the lanes that its shadows will find wrong
on the operation of the next number. -/
theorem exec_fadd_of_idle {s : State} {h : Hdr} (o : F2Ops) (hidle : ∀ e, s.env h.guard = some e → e.act = [] ∧ e.lost = []) :
    exec (.fadd h o) s =
      .next (s.modOp s.nextOp fun p => { p with vals := s.strayLanes h .sum .f32 o.abs.toNat o.neg.toNat [o.a, o.b] }) := by
  show execFadd h o s = _
  rw [execFadd, State.fpu, State.fixed, State.fixedQ, State.checked, State.withEnv_idle hidle]

end Sys2Proof.Claims

namespace Sys2Proof

open Sys2Proof.Machine Sys2Proof.Claims

/-- Refutes O4 in its third part, which puts no premise on the operations in flight: where one of them has the number that the next operation
takes, as in `clash`, an FADD whose guard holds for no lane changes it. -/
theorem not_guardsChooseTheActiveLanes : ¬ Obligations.GuardsChooseTheActiveLanes := by
  intro hclaim
  obtain ⟨-, -, hnone⟩ := hclaim
  have hstated := hnone (.fadd neverHdr neverAdd) clash neverHdr clashEnv rfl env_clash rfl rfl nofun trivial
  have hidle : ∀ e, clash.env neverHdr.guard = some e → e.act = [] ∧ e.lost = [] := fun e he => by
    obtain rfl : clashEnv = e := Option.some.inj (env_clash.symm.trans he)
    exact ⟨rfl, rfl⟩
  rw [exec_fadd_of_idle neverAdd hidle] at hstated
  have hvals := congrArg (fun s => s.ops.map Op.vals) (Host.Outcome.next.inj hstated)
  exact absurd hvals (by decide +kernel)

end Sys2Proof
end
